-- ==== Sys2Proof/Word.lean ====
section
/-! DEFINITION. The word types of the FC6 and the index types of its parts (00_scope.md, 01_fabric.md). -/

namespace Sys2Proof

/-- A byte. -/
abbrev Byte := BitVec 8

/-- A 16-bit half word: a router slot entry (R103). -/
abbrev W16 := BitVec 16

/-- An FP32 value or a 32-bit register. -/
abbrev W32 := BitVec 32

/-- A 64-bit register. -/
abbrev W64 := BitVec 64

/-- Hobs 0 to 7 (R4). -/
abbrev HobId := Fin 8

/-- Memory stacks S0 to S11 (R188). -/
abbrev StackId := Fin 12

/-- Lanper ports L0 to L15 (R244). -/
abbrev LnpId := Fin 16

/-- Host ports H0 to H3 (R219). -/
abbrev HPort := Fin 4

/-- The functions of a host port: 0 the PF, j the VF of hob j - 1 (R219). -/
abbrev FnId := Fin 9

/-- The rings of a function (R221). -/
abbrev RingId := Fin 4

/-- Quarters Q0 to Q3 (R8). -/
abbrev Quarter := Fin 4

/-- Task slots of a cell (R51). -/
abbrev SlotId := Fin 4

/-- Circular regions of a task slot (R55). -/
abbrev RegionId := Fin 16

/-- Landing windows of a cell (R65). -/
abbrev WinId := Fin 32

/-- A physical position (px, py) (R6). -/
structure Pos where
  px : Fin 108 := 0
  py : Fin 64 := 0
  deriving DecidableEq, Repr

/-- A rack (py, k): nine positions of one row (R7). -/
structure Rack where
  row : Fin 64 := 0
  k : Fin 12 := 0
  deriving DecidableEq, Repr

/-- A router output or input: north, east, south, west, local (R103). -/
inductive Dir where
  | north | east | south | west | loc
  deriving DecidableEq, Repr

/-- The roles of R9. -/
inductive Role where
  | operator | installer | maker
  deriving DecidableEq, Repr

end Sys2Proof
end

