-- ==== Sys2Proof/Machine/Bits.lean ====
section
/-! DEFINITION. Bit-field, byte-order and counting helpers used by every family. -/

namespace Sys2Proof.Machine

/-- Bits [hi:lo] of a natural number. -/
def bits (hi lo : Nat) (n : Nat) : Nat := (n / 2 ^ lo) % 2 ^ (hi - lo + 1)

/-- Bit `i` of a natural number. -/
def bit (i : Nat) (n : Nat) : Bool := bits i i n == 1

/-- A w-bit field read as a signed number. -/
def signed (w : Nat) (n : Nat) : Int := if n < 2 ^ (w - 1) then n else (n : Int) - (2 ^ w : Nat)

/-- Little-endian bytes as a number. -/
def leNat : List Byte → Nat
  | [] => 0
  | b :: bs => b.toNat + 256 * leNat bs

/-- The low `n` bytes of a number, little-endian. -/
def leBytes : Nat → Nat → List Byte
  | 0, _ => []
  | n + 1, v => BitVec.ofNat 8 (v % 256) :: leBytes n (v / 256)

/-- `k` zero bytes. -/
def zeroBytes (k : Nat) : List Byte := List.replicate k 0

/-- Bytes [off, off + n) of a list; beyond the end they read 0. -/
def bytesAt (bs : List Byte) (off n : Nat) : List Byte :=
  (List.range n).map fun i => bs.getD (off + i) 0

/-- A little-endian field of a byte list. -/
def leAt (bs : List Byte) (off n : Nat) : Nat := leNat (bytesAt bs off n)

/-- Counting up to a limit: a saturating counter of w bits. -/
def satInc {w : Nat} (c : BitVec w) : BitVec w := if c = BitVec.allOnes w then c else c + 1

/-- A number saturated into w bits. -/
def satNat (w n : Nat) : BitVec w := BitVec.ofNat w (min n (2 ^ w - 1))

/-- CRC-32C (reflected polynomial 0x82F63B78) over one more bit. -/
def crcBit (c : Nat) : Nat := if c % 2 = 1 then (c / 2) ^^^ 0x82F63B78 else c / 2

/-- CRC-32C state after one more byte. -/
def crcByte (c : Nat) (b : Byte) : Nat :=
  let x := c ^^^ b.toNat
  crcBit (crcBit (crcBit (crcBit (crcBit (crcBit (crcBit (crcBit x)))))))

/-- CRC-32C state after more bytes; the state starts at all ones. -/
def crcFeed (c : Nat) (bs : List Byte) : Nat := bs.foldl crcByte c

/-- The running state of a CRC-32C before any byte. -/
def crcInit : Nat := 0xFFFFFFFF

/-- The CRC-32C of a running state. -/
def crcOut (c : Nat) : W32 := BitVec.ofNat 32 (c ^^^ 0xFFFFFFFF)

/-- CRC-32C of a byte list. -/
def crc32c (bs : List Byte) : W32 := crcOut (crcFeed crcInit bs)

end Sys2Proof.Machine

namespace Sys2Proof

/-- The index of a physical position in row order. -/
def Pos.idx (p : Pos) : Nat := p.py.val * 108 + p.px.val

/-- The position of an index. -/
def Pos.ofIdx (i : Nat) : Pos := { px := Fin.ofNat 108 (i % 108), py := Fin.ofNat 64 (i / 108) }

/-- The index of a rack in row order. -/
def Rack.idx (r : Rack) : Nat := r.row.val * 12 + r.k.val

/-- The rack of an index. -/
def Rack.ofIdx (i : Nat) : Rack := { row := Fin.ofNat 64 (i / 12), k := Fin.ofNat 12 (i % 12) }

/-- The rack of a position: rack (py, k) covers columns 9k to 9k + 8 (R7). -/
def Pos.rack (p : Pos) : Rack := { row := p.py, k := Fin.ofNat 12 (p.px.val / 9) }

/-- The place of a position in its rack, 0 to 8. -/
def Pos.inRack (p : Pos) : Nat := p.px.val % 9

/-- The quarter of a position (R8). -/
def Pos.quarter (p : Pos) : Nat := (if p.px.val < 54 then 0 else 1) + (if p.py.val < 32 then 0 else 2)

/-- Physical position i, 0 to 8, of a rack. -/
def Rack.pos (r : Rack) (i : Nat) : Pos := { px := Fin.ofNat 108 (9 * r.k.val + i), py := r.row }

/-- The nine positions of a rack. -/
def Rack.all (r : Rack) : List Pos := (List.range 9).map r.pos

/-- The quarter of a rack (R8). -/
def Rack.quarter (r : Rack) : Nat := (r.pos 0).quarter

/-- All racks. -/
def allRacks : List Rack := (List.range 768).map Rack.ofIdx

/-- All positions. -/
def allPos : List Pos := (List.range 6912).map Pos.ofIdx

/-- The code of a direction: 0 north, 1 east, 2 south, 3 west, 4 local (R103). -/
def Dir.code : Dir → Nat
  | .north => 0 | .east => 1 | .south => 2 | .west => 3 | .loc => 4

/-- The input that faces an output. -/
def Dir.facing : Dir → Dir
  | .north => .south | .east => .west | .south => .north | .west => .east | .loc => .loc

/-- The five directions in code order. -/
def Dir.all : List Dir := [.north, .east, .south, .west, .loc]

end Sys2Proof
end

