-- ==== Sys2Proof/Machine/StateCell.lean ====
section
/-! DEFINITION. The state of one cell, one router and one physical position (02_cell.md, 05_calendar_and_sequencer.md,
06_messages.md, 10_silent_errors.md to 12_self_test.md). Every field's default is its value after reset. -/

namespace Sys2Proof.Machine

/-- A 64 B granule and the poison mark of each of its four 16 B words (R42, R267). -/
structure Gran where
  data : List Byte := []
  poison : BitVec 4 := 0
  deriving DecidableEq, Repr

/-- A circular region: `HOB_CR_DESC` (R55) and `HOB_CR_STAT` (R56). -/
structure Region where
  valid : Bool := false
  landing : Bool := false
  count : BitVec 8 := 0
  entry : BitVec 10 := 0
  base : BitVec 13 := 0
  underrun : Bool := false
  overrun : Bool := false
  twrap : Bool := false
  tail : BitVec 8 := 0
  hwrap : Bool := false
  head : BitVec 8 := 0
  /-- Granules landed in the tail entry (R111). -/
  landed : Nat := 0
  /-- Entries reserved for landings and not yet filled, oldest first (R115, R179). -/
  reserved : List Nat := []
  /-- Reserved or filled entries that landed poisoned (R115, R178). -/
  filled : List Nat := []
  deriving DecidableEq, Repr

/-- `HOB_MATH_CFG` (R87). -/
structure MathCfg where
  round : BitVec 2 := 0
  outfmt : BitVec 3 := 0
  act : BitVec 3 := 0
  scale : BitVec 2 := 0
  bias : Bool := false
  group : BitVec 2 := 0
  deriving DecidableEq, Repr

/-- `HOB_SEQ_STAT` (R164). -/
structure SeqStat where
  halted : Bool := false
  wait : BitVec 3 := 0
  pc : BitVec 13 := 0
  step : BitVec 12 := 0
  stalls : W32 := 0
  deriving DecidableEq, Repr

/-- Where a sequencer stands at a fence (R162): its word and loop counters. -/
structure SeqSnap where
  pc : Nat := 0
  ctr : Tab (BitVec 16) := []
  deriving DecidableEq, Repr

/-- A task slot: `HOB_SLOT_WIN` (R51), `HOB_SLOT_HOME` (R52), its regions, `HOB_MATH_CFG` and `HOB_CLAMP` (R87),
`HOB_SR_STATE` with its fence copy (R93, R94), its sequencer (R157 to R164) and its queue generation (R174). -/
structure Slot where
  valid : Bool := false
  resident : Bool := false
  size : BitVec 8 := 0
  base : BitVec 7 := 0
  homeTag : BitVec 28 := 0
  homeAddr : BitVec 36 := 0
  regions : Tab Region := []
  math : MathCfg := {}
  clampHi : W32 := 0
  clampLo : W32 := 0
  sr : W64 := 0
  srFence : W64 := 0
  /-- Fence copies taken at fences that have not committed, oldest first (R94, R129). -/
  srLater : List W64 := []
  /-- Stochastic rows narrowed in this step, reported at the fence in sequencer mode (R291). -/
  srRows : Nat := 0
  station : Option Nat := none
  qgen : BitVec 8 := 0
  seq : SeqStat := {}
  seqStart : Nat := 0
  seqCount : Nat := 0
  seqCtr : Tab (BitVec 16) := []
  /-- Firings of each ACT word in this step, by word index (`HOB_SQ_PSTR`). -/
  seqFired : Tab Nat := []
  /-- Where the sequencer stood at the last committed fence, and at those after it. -/
  seqFirst : SeqSnap := {}
  /-- Sends built so far: the tag of each is its own (R169). -/
  sendSeq : Nat := 0
  /-- MCLK edges stalled in this step (R164). -/
  stallCyc : Nat := 0
  seqLater : List SeqSnap := []
  deriving DecidableEq, Repr

/-- A read issued and not yet delivered (R43, R145). -/
structure Arrival where
  ready : Nat := 0
  issued : Nat := 0
  unit : Nat := 0
  slot : Nat := 0
  /-- Scratchpad granule read, rotate amount, whether a second read has merged with it (R47), and the region read. -/
  addr : Nat := 0
  rot : Nat := 0
  merged : Bool := false
  reg : Option Nat := none
  gran : Gran := {}
  deriving DecidableEq, Repr

/-- An accumulator row of 32 FP32 values with its poison bit (R37, R267). -/
structure AccRow where
  vals : List W32 := []
  poison : Bool := false
  deriving DecidableEq, Repr

/-- A vector register of 256 B with its poison bit (R39, R267). -/
structure VReg where
  data : List Byte := []
  poison : Bool := false
  deriving DecidableEq, Repr

/-- A vector result on its way to a register (R148): bytes written from byte `off`. -/
structure VWrite where
  ready : Nat := 0
  reg : Nat := 0
  off : Nat := 0
  data : List Byte := []
  poison : Bool := false
  deriving DecidableEq, Repr

/-- A 128 B value that a write field or the cell port takes at hob cycle `ready` (R145). -/
structure Ready where
  ready : Nat := 0
  data : List Byte := []
  poison : Bool := false
  toPort : Bool := false
  slot : Nat := 0
  deriving DecidableEq, Repr

/-- An entry of the steering window (R152). -/
structure SteerEntry where
  tag : BitVec 16 := 0
  token : Option Bool := none
  poison : Bool := false
  side0 : Option Gran := none
  side1 : Option Gran := none
  deriving DecidableEq, Repr

/-- The steering unit: window, tag counters and `HOB_STEER_STAT` (R152, R154). -/
structure Steer where
  entries : List SteerEntry := []
  ctr : Tab (BitVec 16) := []
  pt : Bool := false
  case : BitVec 2 := 0
  tag : BitVec 16 := 0
  deriving DecidableEq, Repr

/-- The units of a cell (R36 to R41): buffers, accumulators, registers, parameters and pipelines. -/
structure Units where
  arrivals : List Arrival := []
  stream : List Byte := []
  streamPoison : List Bool := []
  stat : Tab Byte := []
  /-- Poisoned granules of the two stationary buffers, 32 × buffer + granule; 64 + buffer for a stationary scale
  buffer, 66 for the streamed scale buffer (R267). -/
  statPoison : List Nat := []
  statScale : Tab Byte := []
  strScale : Tab Byte := []
  acc : Tab AccRow := []
  vregs : Tab VReg := []
  vwrites : List VWrite := []
  vstore : List Ready := []
  /-- Compare results on their way: ready cycle, value, poison; and the latest one (R148, R150). -/
  tokens : List (Nat × Bool × Bool) := []
  token : Bool := false
  tokenPoison : Bool := false
  /-- Epilogue parameters: scale and bias by column, the block scale, and the poison mark of each half (R149). -/
  chScale : Tab W32 := []
  chBias : Tab W32 := []
  blkScale : W32 := 0
  paramPoison : List Nat := []
  epi : List Ready := []
  steerOut : List Ready := []
  steer : Steer := {}
  deriving DecidableEq, Repr

/-- Where a flit came from: the producer station of a stream with its cell, a task slot of no station, a write crossing, the
edge stop of a landing, or a message (R422). -/
inductive FlitSrc where
  | station (id n : Nat)
  | none
  /-- A landing: the number of the rim interface by which it has entered. -/
  | edge (stop : Nat)
  | crossing (id : Nat)
  /-- A message: the hob tag in its packet header, the target cell, its sender and tag as one number, and whether it is the header and
  the last flit. -/
  | dynamic (hob target key : Nat) (head last : Bool)
  | reply (key status state gen : Nat)
  /-- A broadcast by its number, and a target's acknowledgement (R185). -/
  | mgt (id : Nat)
  | ack (id target : Nat)
  deriving DecidableEq, Repr

/-- A 128 B flit (R66, R267). -/
structure Flit where
  data : List Byte := []
  poison : Bool := false
  src : FlitSrc := .edge 0
  /-- The data it was sent with, where wires have changed it on the way (R205, R266). -/
  sent : Option (List Byte) := none
  deriving DecidableEq, Repr

/-- A flit and the hob cycle at which it stands at its next stage. -/
structure FlitAt where
  cyc : Nat := 0
  inp : Dir := .loc
  flit : Flit := {}
  deriving DecidableEq, Repr

/-- A dynamic flit that waits in a router (R66, R105): channel 0 MGT, 1 REQ, 2 RPL, the input it came by, the output it
wants, and the logical router to which it goes, with the edge by which it leaves the mesh there (R172). -/
structure DynFlit where
  vc : Nat := 0
  inp : Dir := .loc
  out : Dir := .loc
  tx : Nat := 0
  ty : Nat := 0
  edge : Option Dir := none
  flit : Flit := {}
  deriving DecidableEq, Repr

/-- A granule of a landed stream flit that the cell port writes at hob cycle `cyc` (R111). -/
structure LandWrite where
  cyc : Nat := 0
  slot : Nat := 0
  region : Nat := 0
  gran : Gran := {}
  deriving DecidableEq, Repr

/-- Which ring command a completion goes back to, with the fields of its entry (R229). -/
structure CmdRef where
  port : HPort := 0
  fn : FnId := 0
  ring : RingId := 0
  tag : W32 := 0
  noirq : Bool := false
  deriving DecidableEq, Repr

/-- A landing window (R173); state 0 CLOSED, 1 OPEN, 2 CLOSING. -/
structure Win where
  state : BitVec 2 := 0
  slot : BitVec 2 := 0
  region : BitVec 4 := 0
  gen : BitVec 8 := 0
  qgen : BitVec 8 := 0
  landed : W32 := 0
  refused : W32 := 0
  /-- A WINDOW_OPEN that waits for CLOSED (R175): slot and region. -/
  reopen : Option (Nat × Nat × CmdRef) := none
  /-- WINDOW_CLOSE commands that complete when the window reaches CLOSED (R176), and the device time of the close edge. -/
  closers : List CmdRef := []
  closedAt : Nat := 0
  /-- LOAD_RECIPE or HOB_RELEASE closes it: its generation is 0 once it is CLOSED (R177). -/
  ending : Bool := false
  deriving DecidableEq, Repr

/-- Where a message came from and goes back to (R169 `HOB_MSG_SCELL`): a cell or a rim origin. -/
inductive Origin where
  | cell (pos : Nat) (slot : Nat)
  | hostPort (port : Nat)
  | hearth
  | lanper (port : Nat)
  deriving DecidableEq, Repr

/-- A message header with its descriptor (R169, R172). -/
structure Msg where
  desc : List Byte := []
  hob : Nat := 0
  stamp : Nat := 0
  origin : Origin := .hearth
  deriving DecidableEq, Repr

/-- An accepted landing that waits for its last flit (R178, R179). -/
structure Landing where
  id : Nat := 0
  win : Nat := 0
  slot : Nat := 0
  region : Nat := 0
  entry : Nat := 0
  stamp : Nat := 0
  tag : Nat := 0
  origin : Origin := .hearth
  note : Bool := false
  desc : List Byte := []
  /-- The stack that its source lies on (R171, R197). -/
  stack : Option Nat := none
  /-- The status with which it has completed, while it waits for entries reserved before it (R179). -/
  ready : Option Nat := none
  deriving DecidableEq, Repr

/-- A send that awaits its reply (R180 to R183); `targets` holds one entry per multicast target. -/
structure McTarget where
  cell : Nat := 0
  tries : Nat := 0
  /-- Device time of the latest status 1, while a relaunch is due (R183). -/
  fullAt : Option Nat := none
  done : Option Nat := none
  deriving DecidableEq, Repr

/-- A send in flight from an engine (R180). -/
structure Send where
  tag : Nat := 0
  desc : List Byte := []
  launched : Nat := 0
  first : Nat := 0
  wait : Bool := false
  waiting : Bool := false
  /-- Device time of the status 1 that it waits on (R161, R181). -/
  repliedAt : Nat := 0
  /-- The data it carries and, by 128 B flit, whether that is poison; and a status that came while the hob was held (R163). -/
  data : List Byte := []
  poison : List Bool := []
  held : Option Nat := none
  /-- The ring command on whose behalf it was sent (R166, R182). -/
  ref : Option CmdRef := none
  targets : List McTarget := []
  deriving DecidableEq, Repr

/-- `HOB_TASTE_STAT` (R272). -/
structure TasteStat where
  pass : BitVec 24 := 0
  defer : BitVec 16 := 0
  skip : BitVec 16 := 0
  fail : Bool := false
  deriving DecidableEq, Repr

/-- One half of the taster trace buffer (R269): the snapshot and the records of its window. -/
structure TraceHalf where
  recording : Bool := false
  fence : Nat := 0
  start : Nat := 0
  /-- Device time at which the window ended (R271). -/
  ended : Nat := 0
  snap : Units := {}
  sr : List W64 := []
  words : List (BitVec 256) := []
  reads : List Gran := []
  writes : List Gran := []
  flits : List Flit := []
  deriving DecidableEq, Repr

/-- The taster's side of a cell (R269 to R271). -/
structure Taste where
  stat : TasteStat := {}
  cur : TraceHalf := {}
  held : Option TraceHalf := none
  /-- Output blocks completed, and granules of each slot into its current block (R270). -/
  blocks : Nat := 0
  grans : Tab Nat := []
  /-- The block that ends the gap was completed in the current window. -/
  due : Bool := false
  /-- Blocks and granules at the last committed fence and at those after it, for a replay (R284). -/
  first : Nat × Tab Nat := (0, [])
  later : List (Nat × Tab Nat) := []
  /-- Output block number at which the next sample falls (R270). -/
  nextAt : Nat := 0
  /-- The checker position that holds a shipped sample. -/
  checker : Option Nat := none
  /-- An arbitration of a mismatch by resampling (R284): the checker k. -/
  resample : Option Nat := none
  deriving DecidableEq, Repr

/-- The sticky flags and codes of a cell in one step (R48, R54, R59, R268). -/
structure StepFlags where
  busy : Bool := false
  bound : Bool := false
  fault : Bool := false
  storedPoison : Bool := false
  deriving DecidableEq, Repr

/-- One cell's work state, held at the physical position that backs it. -/
structure Cell where
  /-- The hob and hob-relative logical cell that this state belongs to. -/
  hob : Option Nat := none
  n : Nat := 0
  /-- Scratchpad bytes by 19-bit address (R42). -/
  scratch : List (Nat × Byte) := []
  /-- 16 B words stored as poison, and words with 1 or 2 flipped bits (R49). -/
  wordPoison : List Nat := []
  wordErr : Tab Nat := []
  /-- Corrected words that wait for a free bank-cycle (R49). -/
  writeBack : List Nat := []
  slots : Tab Slot := []
  /-- The calendar store (R138) and the sequencer words (R157); flipped bits by 16 B half of the store, or by sequencer word. -/
  store : List (BitVec 256) := []
  storeErr : Tab Nat := []
  /-- Halves of the calendar store that hold the poison pattern (R267). -/
  storePoison : List Nat := []
  seqWords : List (BitVec 128) := []
  /-- The hob cycle of the word issued last, plus 1. -/
  issued : Nat := 0
  crc : Nat := 0xFFFFFFFF
  /-- CRCs of ended periods not yet compared: the step's fence, the period's place in the pass, the value (R107). -/
  crcDue : List (Nat × Nat × Nat) := []
  units : Units := {}
  /-- Flits at the cell port toward the cell, and landed-stream writes to come (R111). -/
  portIn : List FlitAt := []
  landWrites : List LandWrite := []
  /-- Dynamic flits delivered to the message engine, and those it has built that wait for room at the router's local input
  (R65, R66). -/
  engineIn : List Flit := []
  engineOut : List DynFlit := []
  flags : StepFlags := {}
  /-- Granules written in this step (R268). -/
  wrote : List Nat := []
  wins : Tab Win := []
  landings : List Landing := []
  sends : List Send := []
  taste : Taste := {}
  /-- The sequencer granted last, and, for the hob cycle before `seqCyc`, the units and banks granted in it (R160). -/
  seqLast : Nat := 3
  seqCyc : Nat := 0
  seqUnits : List Nat := []
  seqBanks : List Nat := []
  /-- Bank-cycles that sequencers have taken, by bank (R319). -/
  seqBusy : Tab Nat := []
  /-- The cell is moving: landings answer status 1 (R178, R290). -/
  moving : Bool := false
  /-- Its state has been lost, to a cell reset or to a test (R63, R311), and not yet been rebuilt (R291). -/
  lost : Bool := false
  deriving DecidableEq, Repr

/-- A router island (R66, R103 to R107). -/
structure Router where
  /-- Slot entries by (output × 4 + page) × 256 + entry. -/
  slots : Tab W16 := []
  page : Nat := 0
  pages : Nat := 0
  /-- A page switch requested: the page and the hob cycle of the request (R104). -/
  pageReq : Option (Nat × Nat) := none
  inputs : List FlitAt := []
  /-- By output, the hob cycle of the slot applied last, plus 1. -/
  applied : Tab Nat := []
  dyn : List DynFlit := []
  /-- The message whose flits hold an output's channel until its last one, plus 1, by output × 3 + channel (R172). -/
  worm : Tab Nat := []
  /-- The running CRC-32C of each output, and those of ended periods not yet compared: the step's fence, the period's place
  in the pass, the five values (R107). -/
  crc : Tab Nat := []
  crcDue : List (Nat × Nat × List Nat) := []
  /-- Slot entries that far-placement bridges own while they last: the bridge, as hob × 8192 + cell, and the key of `slots` (R21,
  R112). -/
  bridge : List (Nat × Nat) := []
  /-- Faulty wires of each link of R18 that the position drives, by link code, and how many are steered onto spares (R68). -/
  wireBad : Tab (List Nat) := []
  wireSteered : Tab Nat := []
  /-- Parity faults by link code × 2048 + wire: the time of the last one (R273). -/
  wireHist : Tab Nat := []
  /-- Wires due for a spare at the next hold: link code × 2048 + wire (R68, R273). -/
  steerDue : List Nat := []
  /-- Links with more than 16 faulty wires, by link code (R68). -/
  linkBad : List Nat := []
  deriving DecidableEq, Repr

/-- The states of a physical position (R286). -/
inductive CellState where
  | active | spare | tasting | lidded | conditional | parole | fusedOff
  deriving DecidableEq, Repr

/-- A health history record (R283). -/
structure Hist where
  time : W32 := 0
  code : BitVec 8 := 0
  temp : BitVec 3 := 0
  volt : BitVec 4 := 0
  clk : BitVec 3 := 0
  kind : BitVec 3 := 0
  out : BitVec 2 := 0
  unit : BitVec 12 := 0
  wt : BitVec 16 := 0
  deriving DecidableEq, Repr

/-- The values seen of each part of a condition key (R285); three or more match any. -/
structure CondSet where
  temp : List Nat := []
  volt : List Nat := []
  clk : List Nat := []
  kind : List Nat := []
  all : Bool := false
  deriving DecidableEq, Repr

/-- `HRT_TMT_STAT` and the row test in progress (R319 to R322). -/
structure Tmt where
  bank : BitVec 5 := 0
  row : BitVec 7 := 0
  passes : BitVec 8 := 0
  /-- Lifetime in minutes at which each bank was covered last. -/
  covered : Tab Nat := []
  running : Bool := false
  /-- The row at which the pass goes on after a fresh spare row has been tested (R321). -/
  resume : Option Nat := none
  badRows : List Nat := []
  /-- When the row's test began (R319, R320): the hob cycle, the bank-cycles that sequencers had taken of the bank, and the hob's holds. -/
  began : Nat := 0
  busyAt : Nat := 0
  holds : Nat := 0
  deriving DecidableEq, Repr

/-- A physical position's health: `HRT_CELL_STAT` (R287), score, history, lids and parole (R300 to R305). -/
structure Health where
  state : CellState := .spare
  perm : Bool := false
  lidTest : Bool := false
  passes : BitVec 2 := 0
  lent : Bool := false
  /-- Score in units of 2⁻²⁰ and the lifetime (s) to which it is decayed (R301). -/
  score : Nat := 0
  scoreAt : Nat := 0
  hist : List Hist := []
  lidAt : Nat := 0
  paroled : Bool := false
  passAt : Nat := 0
  /-- Lifetime in ms of the last clean BIST or scan test (R276). -/
  cleanAt : Nat := 0
  /-- Lifetime in ms of the last clean test that took in the router island (R311). -/
  islandAt : Nat := 0
  lastFault : Nat := 0
  cond : CondSet := {}
  /-- Condition keys under which samples passed, with the latest lifetime (s) of each (R283). -/
  passKeys : List (Nat × List Nat) := []
  /-- Lifetime (s) since which a CONDITIONAL position's conditions have not matched. -/
  unmatchedAt : Nat := 0
  /-- Lifetimes of the resets of the last hour (R329). -/
  resets : List Nat := []
  /-- Scratchpad rows remapped to spares: bank × 64 + row to spare row, and corrected-error times (R50). -/
  rowMap : Tab Nat := []
  rowCe : Tab (List Nat) := []
  remapDue : List Nat := []
  /-- Spare rows that failed in use: bank × 16 + spare row (R50). -/
  spareBad : List Nat := []
  fusedBad : Bool := false
  override : Bool := false
  tmt : Tmt := {}
  /-- Status codes of injected errors that have not been reported yet (R324). -/
  injected : List Nat := []
  deriving DecidableEq, Repr

/-- A rack: its gap g (R16) and `HRT_RACK_TEST` (R317). -/
structure RackSt where
  gap : BitVec 4 := 8
  dirEast : Bool := false
  pass : BitVec 16 := 0
  void : BitVec 16 := 0
  alerted : Bool := false
  /-- The window of R310 held when the test of the TASTING position started. -/
  startOk : Bool := false
  /-- The position that receives a decant and has not passed its functional check (R290). -/
  receiving : Option Nat := none
  /-- A position to be tested next, after its taste mismatch did not recur (R284). -/
  nextTest : Option Nat := none
  deriving DecidableEq, Repr

end Sys2Proof.Machine
end

