-- ==== Sys2Proof/Machine/StateHob.lean ====
section
/-! DEFINITION. The state of one hob: its recipe, its run, its grants, its capture and its reports
(04_schedule_contract.md, 07_memory_and_rim.md, 08_hosts_and_hobs.md, 10_silent_errors.md, 14_pantry_and_jars.md). -/

namespace Sys2Proof.Machine

/-- The states of a hob (R222, R240). -/
inductive HobState where
  | free | loading | running | held | stopped | ovr
  deriving DecidableEq, Repr

/-- A station descriptor (R102). -/
structure Station where
  id : Nat := 0
  slot : Nat := 0
  cls : Nat := 0
  kind : Nat := 0
  x0 : Nat := 0
  y0 : Nat := 0
  w : Nat := 0
  h : Nat := 0
  seed : W64 := 0
  name : BitVec 128 := 0
  deriving DecidableEq, Repr

/-- A stream descriptor (R109). -/
structure Stream where
  id : Nat := 0
  src : Nat := 0
  dst : Nat := 0
  slack : Nat := 0
  landed : Bool := false
  region : Nat := 0
  deriving DecidableEq, Repr

/-- A crossing descriptor (R113). Kinds: 0 stack read, 1 stack write, 2 port send, 3 port receive, 4 host read, 5 host write. -/
structure Crossing where
  id : Nat := 0
  kind : Nat := 0
  client : Nat := 0
  cell : Nat := 0
  slot : Nat := 0
  region : Nat := 0
  blocks : Nat := 0
  issue : Nat := 0
  bound : Nat := 0
  computed : Bool := false
  addr : Nat := 0
  stride : Int := 0
  deriving DecidableEq, Repr

/-- A step of the step program (R125). -/
structure StepEntry where
  periods : Nat := 0
  jarPoint : Bool := false
  deriving DecidableEq, Repr

/-- A quiet slot entry (R132). -/
structure Quiet where
  cyc : Nat := 0
  mask : W32 := 0
  deriving DecidableEq, Repr

/-- A LINEAGE entry (R277). -/
structure LinEntry where
  xng : Nat := 0
  contrib : List Nat := []
  deriving DecidableEq, Repr

/-- The loaded recipe (R99 to R134). Calendars, router pages, slots and sequencer words are in the cells and routers;
`slotsImg`, `calImg`, `pagesImg` and `seqImg` keep the image they came from, which R291 reads again. -/
structure Recipe where
  vmajor : Nat := 3
  mode : Nat := 0
  flags : Nat := 0
  mclk : Nat := 0
  width : Nat := 0
  height : Nat := 0
  period : Nat := 0
  holdlim : Nat := 0
  digest : BitVec 384 := 0
  portcls : List Nat := []
  peers : List Nat := []
  msgtmo : Nat := 0
  rsv : List Nat := []
  stations : List Station := []
  slotsImg : List (List Slot) := []
  calImg : List (List (BitVec 256)) := []
  pagesImg : List (List (List W16)) := []
  streams : List Stream := []
  crossings : List Crossing := []
  fences : List StepEntry := []
  quiet : List (List Quiet) := []
  checksums : List W32 := []
  lineage : List LinEntry := []
  seqImg : List (List Nat × List Nat × List (BitVec 128)) := []
  /-- Page of each router at the first hob cycle of each step (R104): step × cells + cell. -/
  pageAt : List Nat := []
  deriving DecidableEq, Repr

/-- A check point that failed (R118): the crossing, cause 1 or 2, and the entry whose block is missing. -/
structure Wait where
  xng : Nat := 0
  cause : Nat := 1
  entry : Nat := 0
  /-- The write that has no shadow page, and whose credit is withheld, or the page that a COPY waits for (R212). -/
  txn : Option Nat := none
  page : Option Nat := none
  deriving DecidableEq, Repr

/-- How a run of steps ends: a status with the fields of its completion record (R233). -/
structure End where
  status : Nat := 0
  detail : Nat := 0
  info0 : Nat := 0
  info1 : Nat := 0
  deriving DecidableEq, Repr

/-- `HOB_HOLD_EVENTS`, `HOB_HOLD_MISSES`, `HOB_HOLD_CYC`, `HOB_HOLD_CAUSE`, `HOB_HOLD_XNG`, `HOB_HOLD_AT` (R123),
and the hold itself: the causes in force, whether the hob is frozen and since when (R120, R121). -/
structure Hold where
  events : W32 := 0
  misses : W32 := 0
  cyc : W64 := 0
  cause : BitVec 4 := 0
  xng : BitVec 16 := 0
  atCyc : W32 := 0
  causes : List Nat := []
  frozen : Bool := false
  since : Nat := 0
  /-- The check points that failed and are not yet satisfied (causes 1 and 2). -/
  waits : List Wait := []
  /-- Device time since which a cause of 1 to 3 has been in force (R122). -/
  limitFrom : Option Nat := none
  /-- Held edges (`HOB_HOLD_CYC`) at which a forced hold of cause 7 ends (R324). -/
  forcedTo : Nat := 0
  /-- A hold request on its way to the hold edge (R118): cause and crossing, and the hob cycle that must not execute. -/
  req : Option (Nat × Nat) := none
  target : Option Nat := none
  /-- Holds that the hearth has asked for: cause, and the hob cycle it names (R120). -/
  sched : List (Nat × Nat) := []
  deriving DecidableEq, Repr

/-- `HOB_SIMMER_ON`, `HOB_SIMMER_DUTY`, `HOB_SIMMER_SHARE` and the place in the window (R124). -/
structure Simmer where
  on : Bool := false
  duty : BitVec 8 := 0
  share : BitVec 8 := 0
  /-- The duty for the hob's share, which thermal duty may exceed (R414). -/
  own : Nat := 0
  edge : Nat := 0
  deriving DecidableEq, Repr

/-- A fence that is closing (R128): what its cells' sticky flags said, the first breach (status, cell, crossing or fence),
whether it has closed locally, and the hob cycle of the fence. -/
structure Closing where
  fence : Nat := 0
  step : Nat := 0
  fault : Bool := false
  stored : Bool := false
  failed : Option End := none
  localClosed : Bool := false
  endCyc : Nat := 0
  deriving DecidableEq, Repr

/-- `HOB_RPL_COUNT`, `HOB_RPL_CODE`, `HOB_RPL_TRIES`, `HOB_RPL_CELL` (R275), and what recurred where. -/
structure Replay where
  count : W32 := 0
  code : BitVec 8 := 0
  tries : BitVec 2 := 0
  cell : BitVec 13 := 0
  /-- Code and position of the previous run's fault (R275). -/
  last : Option (Nat × Nat) := none
  active : Bool := false
  /-- Cells and periods of SCHED_VIOLATIONs already replayed, and of those in this run (R136). -/
  sched : List (Nat × Nat) := []
  noted : List (Nat × Nat) := []
  /-- Hob cycle of the fault that the replay has to reach (R13). -/
  until_ : Nat := 0
  deriving DecidableEq, Repr

/-- A RUN_STEPS command in force: its steps, those committed, and its EACH flag (R232). -/
structure RunCmd where
  ref : CmdRef := {}
  count : Nat := 0
  done : Nat := 0
  each : Bool := false
  deriving DecidableEq, Repr

/-- The run of steps: queue, buffers and the RUN_STEPS commands it completes (R232, R235). -/
structure Run where
  stepsLeft : Nat := 0
  buf : Nat := 0
  bufLen : Nat := 0
  stg : Nat := 0
  stgLen : Nat := 0
  refs : List RunCmd := []
  /-- A stop asked for at the next fence, after commit (R133, R232, R241). -/
  stopAt : Option End := none
  /-- A breach that keeps the step from committing (R59, R122, R423). -/
  breach : Option End := none
  fenceStops : List CmdRef := []
  deriving DecidableEq, Repr

/-- A landing the CROSSINGS section lets a crossing make: what one issue still owes (R115). -/
structure XngSt where
  /-- Hob cycle of the latest issue, plus 1. -/
  issued : Nat := 0
  addrRead : Option Nat := none
  credit : Nat := 0
  /-- Flits of a write crossing that have reached the edge stop and do not yet make a block (R115). -/
  buf : List (List Byte × Bool × Option (List Byte)) := []
  deriving DecidableEq, Repr

/-- A host write staged by a step (R235): the step's fence, crossing, host block and data, the host buffer of its RUN_STEPS with its
length, and the hob-relative address at which it is staged. -/
structure Staged where
  fence : Nat := 0
  xng : Nat := 0
  block : Nat := 0
  data : List Byte := []
  buf : Nat := 0
  bufLen : Nat := 0
  stgAddr : Nat := 0
  deriving DecidableEq, Repr

/-- A bad stack line for an ECC_UE report (R281). -/
structure EccLine where
  addr : Nat := 0
  source : Nat := 1
  stack : Nat := 0
  cell : Nat := 0xFFFF
  xng : Nat := 0xFFFFFFFF
  /-- The fence of the step that read it (R131). -/
  fence : Nat := 0
  deriving DecidableEq, Repr

/-- `RIM_RSV` of one stack (R194). -/
structure Rsv where
  on : Bool := false
  bw : BitVec 5 := 0
  last : BitVec 9 := 0
  first : BitVec 9 := 0
  valid : Bool := false
  deriving DecidableEq, Repr

/-- `RIM_EXT` of one hob extent (R192). -/
structure Ext where
  valid : Bool := false
  rsv : Bool := false
  dev : BitVec 9 := 0
  deriving DecidableEq, Repr

/-- `HOB_GRANT` and `HOB_GRANT_EXT` (R237), and the credential's number (R373). -/
structure Grant where
  valid : Bool := false
  hport : BitVec 2 := 0
  test : Bool := false
  cells : BitVec 13 := 0
  power : BitVec 7 := 0
  lnp : BitVec 16 := 0
  pantry : BitVec 14 := 0
  ext : Tab (BitVec 9) := []
  deriving DecidableEq, Repr

/-- Copy-on-write capture: `RIM_COW_STAT` and the jar's fence (R209 to R216). -/
structure Cow where
  armed : Bool := false
  draining : Bool := false
  folding : Bool := false
  waits : W32 := 0
  fence : Nat := 0
  /-- The drained bitmap in its copies on S0 and S6 (R214). -/
  drained : List Nat := []
  drained6 : List Nat := []
  /-- The pages that waiting writes need drained next, oldest first (R212). -/
  next : List Nat := []
  deriving DecidableEq, Repr

/-- A jar header and what the slot holds (R350, R351). -/
structure Jar where
  seq : Nat := 0
  fence : Nat := 0
  lead : Nat := 0
  devid : Nat := 0
  members : Nat := 1
  hob : Nat := 0
  shapeW : Nat := 0
  shapeH : Nat := 0
  ext : Tab (BitVec 9) := []
  next : Nat := 0
  digest : BitVec 384 := 0
  seqMode : Bool := false
  bytes : Nat := 0
  cred : Nat := 0
  /-- Generator fence copies by cell × 4 + slot, data bytes by hob-relative address, poisoned lines (R350). -/
  gens : Tab W64 := []
  data : List (Nat × Byte) := []
  poison : List Nat := []
  /-- Lines that were held under the hob's key; the others decrypt to free bytes (R206). -/
  lines : List Nat := []
  sealed : Bool := false
  complete : Bool := false
  reported : List Nat := []
  /-- The largest jar cost in ms that a member of the set has reported (R358). -/
  costMs : Nat := 0
  deriving DecidableEq, Repr

/-- A jar being taken (R354). -/
structure JarRun where
  slot : Nat := 0
  fence : Nat := 0
  /-- A member of a set waits for its leader's plan (R355). -/
  planned : Bool := true
  started : Bool := false
  startedAt : Nat := 0
  ref : Option CmdRef := none
  jar : Jar := {}
  deriving DecidableEq, Repr

/-- A restore in progress (R360, R361). -/
structure Restore where
  slot : Nat := 0
  dev : Nat := 0
  /-- The source is a peer, and the blocks of 4 KiB that have been asked of it (R261, R262). -/
  remote : Bool := false
  asked : Nat := 0
  ref : CmdRef := {}
  jar : Jar := {}
  deriving DecidableEq, Repr

/-- `PNT_JAR_POLICY` (R357) and the cadence's measurements (R358). -/
structure JarPolicy where
  kind : BitVec 2 := 0
  ceil : BitVec 6 := 0x3C
  theta : BitVec 8 := 0x10
  mode : Nat := 0
  costMs : Nat := 0
  /-- Lifetime (s) of the fence of the newest valid jar. -/
  lastAt : Nat := 0
  due : Bool := false
  noPointTold : Bool := false
  /-- Interruption rates of the members, as the leader gathered them: member, service seconds, count, hazard factor. -/
  members : List (Nat × Nat × Nat × Nat) := []
  deriving DecidableEq, Repr

/-- A run of committed fences in the lineage record (R278). -/
structure LinRun where
  first : Nat := 0
  last : Nat := 0
  epoch : Nat := 0
  digest : W64 := 0
  deriving DecidableEq, Repr

/-- A report kept for QUERY subcode 6 (R280, R281, R298): its number and bytes. -/
structure Report where
  seq : Nat := 0
  bytes : List Byte := []
  deriving DecidableEq, Repr

/-- A logical cell that is placed outside its rack (R293) and the bridge that serves it. -/
structure Far where
  n : Nat := 0
  home : Nat := 0
  far : Nat := 0
  e : Nat := 0
  /-- The positions of the bridge, from home to far (R293). -/
  path : List Nat := []
  deriving DecidableEq, Repr

/-- A cell of a homeless station (R297, R298): its number, station, failed position, reason, class and best e. -/
structure Homeless where
  n : Nat := 0
  station : Nat := 0
  pos : Nat := 0
  reason : Nat := 0
  cls : Nat := 0
  best : Nat := 0xFF
  deriving DecidableEq, Repr

/-- A pending ring command on a hob that completes later: FENCE waits, COPY after a fence (R232, R236). -/
structure Copy where
  ref : CmdRef := {}
  src : Nat := 0
  dst : Nat := 0
  len : Nat := 0
  after : Nat := 0
  srcKind : Nat := 0
  dstKind : Nat := 0
  running : Bool := false
  /-- The pages whose shadows its writes have waited for and been counted (R212). -/
  waited : List Nat := []
  deriving DecidableEq, Repr

/-- The hob rectangle (R238). -/
structure Shape where
  x0 : Nat := 0
  y0 : Nat := 0
  w : Nat := 0
  h : Nat := 0
  deriving DecidableEq, Repr

/-- The steps of a hob's clock and program: the hob cycle counter (R97), the gating accumulator (R98),
the step in progress with its first cycle and fence number, and its page at the first cycle (R104). -/
structure Clock where
  cyc : Nat := 0
  acc : Nat := 0
  stepStart : Nat := 0
  step : Nat := 0
  fence : Nat := 1
  /-- First hob cycle of the step after the last committed fence. -/
  nextStart : Nat := 0
  /-- The step has begun (its calendars run). -/
  live : Bool := false
  /-- Unheld MCLK edges of a sequencer-mode step, by MCLK in MHz (R137). -/
  unheld : Tab Nat := []
  deriving DecidableEq, Repr

/-- One hob. -/
structure Hob where
  st : HobState := .free
  overq : Bool := false
  grant : Grant := {}
  cred : Nat := 0
  shape : Option Shape := none
  key : Nat := 0
  ext : Tab Ext := []
  rsv : Tab Rsv := []
  pantryQ : Nat := 0
  powerQ : Nat := 100
  recipe : Option Recipe := none
  /-- The digest in force before a hob or warm reset, and the program step after the last commit (R333). -/
  resume : Option (BitVec 384) := none
  nextStep : Nat := 0
  clk : Clock := {}
  hold : Hold := {}
  simmer : Simmer := {}
  run : Run := {}
  fenceLast : Nat := 0
  /-- Generator fence copies of the last committed fence by cell × 4 + slot, as the hearth derives them (R291). -/
  gens : Tab W64 := []
  closing : List Closing := []
  /-- Fences that peers have reported closed: fence and peer (R130). -/
  peerClosed : List (Nat × Nat) := []
  /-- Lines read back poisoned in uncommitted steps (R268, R281). -/
  eccLines : List EccLine := []
  /-- Forwarding has stopped at a faulting block (R423). -/
  fwdBlocked : Bool := false
  replay : Replay := {}
  xng : Tab XngSt := []
  staged : List Staged := []
  cow : Cow := {}
  jarRun : Option JarRun := none
  restore : Option Restore := none
  /-- A restore failed midway: the hob stays STOPPED until one succeeds (R360). -/
  torn : Bool := false
  jars : Tab Jar := []
  policy : JarPolicy := {}
  /-- The lineage record in its copies on S0 and S6, newest run first (R190, R278). -/
  lineage : List LinRun := []
  lineage6 : List LinRun := []
  /-- Last fence of the newest run that a wrap of the ring has overwritten (R278). -/
  linOver : Nat := 0
  /-- Last committed fence at a position's last clean test, by position (R276). -/
  cleanFence : Tab Nat := []
  /-- Recipes loaded earlier in this use of the hob, whose CROSSINGS and LINEAGE sections the hearth keeps for reports (R279). -/
  loaded : List Recipe := []
  reports : List Report := []
  fars : List Far := []
  homeless : List Homeless := []
  fenceWaits : List (CmdRef × Nat) := []
  copies : List Copy := []
  loading : Option CmdRef := none
  lostEvents : Nat := 0
  msgTmo : BitVec 16 := 0x40
  tagDrops : Nat := 0
  jarAcl : W64 := 0
  mcast : List Send := []
  zeroing : List Nat := []
  /-- Cells and slots whose home copies wait for a stack in reset (R63, R200). -/
  fills : List (Nat × Nat) := []
  /-- A fault that waits for the hearth: its code and cell (R327). -/
  awaits : Option (Nat × Nat) := none
  /-- A HOB_RELEASE that waits for the quiesce interval of the hob's windows (R177, R242), and the command to complete unless its host
  is lost (R241). -/
  releasing : Option (Option CmdRef) := none
  deriving DecidableEq, Repr

end Sys2Proof.Machine
end

