-- ==== Sys2Proof/Machine/StateDev.lean ====
section
/-! DEFINITION. The state of the device outside its cells and hobs: stacks, rim transactions, host ports, Lanper ports,
the pantry and the hearth (07_memory_and_rim.md to 09_lanper_links.md, 13_resets_and_ash.md to 17_module.md). -/

namespace Sys2Proof.Machine

/-- The device states (00_scope.md; R222, R391). -/
inductive DevState where
  | off | hearthUp | bringup | service | degraded | ember | outOfService
  deriving DecidableEq, Repr

/-- Who a transaction on the rim serves (R197, R250). -/
inductive TxnKind where
  | crossing (hob xng rep : Nat)
  | message (hob : Nat) (origin : Origin) (tag : Nat)
  | copy (hob : Nat)
  | forward (hob : Nat)
  deriving DecidableEq, Repr

/-- The pools of R197. -/
inductive Pool where
  | reserved | shared | device | lanper | host
  deriving DecidableEq, Repr

/-- A transaction: one request of at most 4 KiB (R197). `addr` is a hob-relative byte address for stack kinds and a
byte offset into the host buffer for host kinds. -/
structure Txn where
  id : Nat := 0
  kind : TxnKind := .copy 0
  write : Bool := false
  client : Nat := 0
  pool : Pool := .shared
  addr : Nat := 0
  data : List Byte := []
  poison : List Nat := []
  /-- Lines of a read that were stored poisoned and raised no code (R202, R268). -/
  stored : List Nat := []
  /-- The step whose write it is (R209). -/
  stamp : Nat := 0
  granted : Bool := false
  served : Bool := false
  startedAt : Nat := 0
  /-- An access that is not performed: read lands poisoned, write is suppressed (R193). -/
  breach : Bool := false
  /-- Where a read lands: cell, task slot, region and entry (R115). -/
  cell : Nat := 0
  slot : Nat := 0
  region : Nat := 0
  entry : Nat := 0
  /-- Reissued jar reads (R261). -/
  tries : Nat := 0
  /-- A block that failed its CRC-32C on its way over a Lanper link or the mesh (R115, R266). -/
  crcBad : Bool := false
  /-- A stack whose shared pool it draws on beside its own (R197). -/
  also : Option Nat := none
  /-- A write that waits for a shadow page has been counted (R212). -/
  waited : Bool := false
  /-- The staged write that it makes or forwards (R235). -/
  staged : Option Staged := none
  /-- A write of a step that has been discarded: it runs out, and no fence waits for it (R274). -/
  discarded : Bool := false
  deriving DecidableEq, Repr

/-- Metadata of a 64 B stack line (R201): the key it was encrypted under (0 none) and its poison bit. -/
structure Line where
  key : Nat := 0
  poison : Bool := false
  deriving DecidableEq, Repr

/-- A redirect table entry (R214). -/
structure Rdr where
  drained : Bool := false
  hob : Nat := 0
  shadow : Nat := 0
  bmask : BitVec 16 := 0
  seq : W32 := 0
  deriving DecidableEq, Repr

/-- A stack's power states (R217). -/
inductive StkPwr where
  | on | powerDown | selfRefresh | off
  deriving DecidableEq, Repr

/-- A stack and its controller: `RIM_STK_STAT` (R218), spares, pools and key slots (R197, R203, R204, R206). -/
structure Stack where
  pwr : StkPwr := .off
  sparePc : BitVec 2 := 0
  hotref : Bool := false
  rowrep : BitVec 24 := 0
  /-- Lifetimes (ms) of the lines corrected in the last 24 hours: `RIM_STK_CE` counts them. -/
  ceAt : List Nat := []
  ue : BitVec 16 := 0
  unusable : Bool := false
  /-- Pseudo-channel to spare, copies under way, and pseudo-channels that are unreadable (R204). -/
  pcMap : Tab Nat := []
  /-- The spare that each copy under way goes to (R204), and spare rows used up by bank (R203). -/
  pcTo : Tab Nat := []
  rowUsed : Tab Nat := []
  pcCopy : List Nat := []
  pcDead : List Nat := []
  rowMap : Tab Nat := []
  rowCe : Tab (List Nat) := []
  pcUe : Tab (List Nat) := []
  /-- Rows due for a spare, with the faulty line seen in each, plus 1 (R203), and pseudo-channels due for one (R204). -/
  rowDue : Tab Nat := []
  pcDue : List Nat := []
  resetting : Bool := false
  /-- The stack line the patrol scrub read last and the pseudo-channel refreshed last (R205, R196). -/
  scrubAt : Nat := 0
  refreshed : Nat := 0
  lastTraffic : Nat := 0
  shadowFree : List Nat := []
  shadowUsed : Nat := 0
  deriving DecidableEq, Repr

/-- A fetched submission entry in flight on a ring (R229). -/
structure Sqe where
  op : Nat := 0
  sub : Nat := 0
  flags : Nat := 0
  tag : W32 := 0
  /-- The 64 B of the entry. -/
  args : List Byte := []
  started : Bool := false
  deriving DecidableEq, Repr

/-- A completion record that waits (R230): the fields that are known before it is written. -/
structure Cqe where
  tag : W32 := 0
  status : Nat := 0
  op : Nat := 0
  detail : Nat := 0
  info0 : Nat := 0
  info1 : Nat := 0
  noirq : Bool := false
  deriving DecidableEq, Repr

/-- A ring: its registers (R221, R224), indexes (R225, R226) and polling (R227). -/
structure Ring where
  sqBase : W64 := 0
  cqBase : W64 := 0
  dbAddr : W64 := 0
  en : Bool := false
  hot : Bool := false
  log2 : BitVec 5 := 0
  vec : BitVec 3 := 0
  count : BitVec 8 := 0
  time : BitVec 10 := 0
  on : Bool := false
  err : BitVec 3 := 0
  ci : W32 := 0
  /-- The producer index last read, the host's completion consumer index, and records written. -/
  pi : W32 := 0
  cqCi : W32 := 0
  cqPi : W32 := 0
  sqes : List Sqe := []
  unsignalled : Nat := 0
  oldest : Nat := 0
  /-- Entry reads outstanding, the poll interval (ns), the end of the active time and the next poll (R227). -/
  fetching : Nat := 0
  interval : Nat := 1000
  activeUntil : Nat := 0
  pollAt : Nat := 0
  /-- A doorbell read is outstanding (R228). -/
  reading : Bool := false
  /-- Records of committed steps (EACH) that wait for a free completion slot (R226, R232). -/
  owed : List Cqe := []
  /-- Record numbers of events the host has not consumed (R231). -/
  events : List Nat := []
  deriving DecidableEq, Repr

/-- A function of a host port: authentication (R223) and its rings. -/
structure Fn where
  nonce : W64 := 0
  authHob : W32 := 0
  authOk : Bool := false
  authHobs : List Nat := []
  fails : Nat := 0
  lockedUntil : Nat := 0
  rings : Tab Ring := []
  msix : Tab (BitVec 128) := []
  pba : BitVec 8 := 0
  deriving DecidableEq, Repr

/-- A host port (R219, R326, R407) with its PF and VFs, and IDE keys (R380). -/
structure HostPort where
  linkUp : Bool := false
  perst : Bool := true
  fenced : Bool := false
  resetting : Bool := false
  ready : Bool := false
  fns : Tab Fn := []
  /-- By key set: 1 programmed, 2 in use (R380). -/
  ideKeys : Tab Nat := []
  /-- Device events that found the PF management ring's event slots full (R231). -/
  lostEvents : Nat := 0
  deriving DecidableEq, Repr

/-- The states of a Lanper port (R254). -/
inductive LnpState where
  | dark | training | upFull | upReduced | down
  deriving DecidableEq, Repr

/-- A frame's control field and what its slots carry (R247). -/
structure Frame where
  seq : BitVec 16 := 0
  ack : BitVec 16 := 0
  kind : BitVec 3 := 0
  cch : BitVec 2 := 0
  cred : BitVec 12 := 0
  /-- Flits of a DATA frame, the destination and origin device of its packet. -/
  flits : Nat := 0
  dest : Nat := 0
  origin : Nat := 0
  body : List Byte := []
  /-- Hob and crossing of a block on the Static channel. -/
  hob : Nat := 0
  xng : Nat := 0
  /-- Its 64 B lines that carry poison (R267). -/
  poison : List Nat := []
  /-- What a NAK or SESSION frame says. -/
  note : List Nat := []
  /-- Key generation that sealed it, and times sent (R248, R253). -/
  key : Nat := 0
  sends : Nat := 0
  /-- The served request that it answers: port, and the request's key, origin device and arrival (R250). -/
  serves : Option (Nat × Nat × Nat × Nat) := none
  deriving DecidableEq, Repr

/-- A port receive block that is arriving or waits for its landing entry (R115, R249): its data so far and whether its CRC-32C
held. -/
structure RxBlock where
  hob : Nat := 0
  xng : Nat := 0
  data : List Byte := []
  poison : List Nat := []
  good : Bool := true
  /-- The transaction whose entry it has reserved. -/
  txn : Option Nat := none
  deriving DecidableEq, Repr

/-- `LNP_LANE_STAT` of one fibre (R263). -/
structure Fibre where
  good : BitVec 9 := 0
  use : BitVec 9 := 0
  worn : BitVec 9 := 0
  deriving DecidableEq, Repr

/-- A JAR_READ request of a peer (R262): its origin device, the hob, slot and range it names. -/
structure JarAsk where
  origin : Nat := 0
  hob : Nat := 0
  slot : Nat := 0
  off : Nat := 0
  len : Nat := 0
  deriving DecidableEq, Repr

/-- A Lanper port: `LNP_PORT_STAT`, `LNP_PORT_CTL`, lanes, frames, credits and session (R247 to R263). -/
structure Lnp where
  st : LnpState := .dark
  parked : Bool := false
  width : BitVec 4 := 0
  session : Bool := false
  peerDev : BitVec 13 := 0
  peerPort : BitVec 4 := 0
  downWhy : BitVec 2 := 0
  retrains : BitVec 16 := 0
  drops : BitVec 16 := 0
  en : Bool := false
  park : Bool := false
  transit : Bool := false
  expDev : BitVec 13 := 0
  expV : Bool := false
  fibres : Tab Fibre := []
  /-- Next sequence number to send and expected, with their epochs (R248, R253). -/
  txSeq : BitVec 16 := 0
  txEpoch : Nat := 0
  rxSeq : BitVec 16 := 0
  rxEpoch : Nat := 0
  replayBuf : List Frame := []
  /-- Flit credits held at the peer by channel, and receive buffer flits in use (R249). -/
  credits : Tab Nat := []
  rxUsed : Tab Nat := []
  creditBack : Tab Nat := []
  /-- Key generation in force each way and the switch points named, in order (R253). -/
  txKey : Nat := 0
  rxKey : Nat := 0
  rxSwitch : List (Nat × Nat) := []
  /-- A NAK for the number now expected has been sent (R248). -/
  naked : Bool := false
  /-- Lane substitutions to come: fibre, failed lane, spare, frame number (R257). -/
  swaps : List (Nat × Nat × Nat × Nat) := []
  txSwitch : List (Nat × Nat) := []
  /-- Forwarded packets that wait for credit (R260), and port receive blocks (R115). -/
  txQueue : List Frame := []
  rxQueue : List RxBlock := []
  /-- Messages of peers that are not whole or wait for a place, and requests being served: key, origin device and arrival (R250). -/
  rxReq : List Frame := []
  served : List (Nat × Nat × Nat) := []
  /-- JAR_READ requests that wait for a place (R250). -/
  jarAsks : List JarAsk := []
  retraining : Bool := false
  relighting : Bool := false
  /-- A relight that fell back to full training (R259). -/
  fallback : Bool := false
  fenced : Bool := false
  resetting : Bool := false
  /-- Device time of the latest state change. -/
  since : Nat := 0
  lastSent : Nat := 0
  lastAccepted : Nat := 0
  equalised : Bool := false
  deriving DecidableEq, Repr

/-- A log record (R368). -/
structure LogRec where
  seq : Nat := 0
  time : Nat := 0
  role : Nat := 0
  path : Nat := 0
  code : BitVec 16 := 0
  result : Nat := 0
  hob : Nat := 0xFF
  keyid : Nat := 0
  args : List Nat := []
  deriving DecidableEq, Repr

/-- An ash record (R338): what its header and its unit entries say of the trigger. Units go by type and index as its entries name
them. -/
structure Ash where
  seq : Nat := 0
  flags : BitVec 16 := 0
  domain : BitVec 8 := 0
  state : Nat := 0
  cause : Nat := 0
  time : Nat := 0
  life : Nat := 0
  noash : Nat := 0
  ms : Nat := 0
  hobs : List Nat := []
  devid : Nat := 0
  /-- SVN of the firmware that ran. -/
  fw : Nat := 0
  /-- The units of the hob that a capture before a hob reset is of (R335); none for the device. -/
  only : Option (List (Nat × Nat)) := none
  /-- Units that carry hob work at the trigger, with their hob. -/
  work : List (Nat × Nat × Nat) := []
  /-- Quarters whose core rail is off. -/
  dark : List Nat := []
  /-- Units whose entry is not a plain capture: type, index, status. -/
  units : List (Nat × Nat × Nat) := []
  locked : Bool := false
  deriving DecidableEq, Repr

/-- `HRT_RST_CFG`, `HRT_RST_STAT` (R330) and the counted resets (R331). -/
structure Resets where
  wcount : BitVec 4 := 3
  whours : BitVec 7 := 0x18
  last : BitVec 4 := 0xF
  why : BitVec 8 := 0
  warms : BitVec 16 := 0
  colds : BitVec 16 := 0
  escal : BitVec 16 := 0
  /-- Lifetimes (ms) of the counted resets in the window. -/
  counted : List Nat := []
  /-- Resets that have not completed: domain code, unit, start (R326). -/
  running : List (Nat × Nat × Nat) := []
  /-- Resets that wait for the hearth to return: domain code, unit, watchdog code. -/
  queued : List (Nat × Nat × Nat) := []
  /-- The device-level reset under way has been counted (R331). -/
  pathCounted : Bool := false
  hearthDown : Bool := false
  hearthHeld : Bool := false
  /-- The device tables of the stacks have been lost since the machine was made (R332). -/
  linLost : Bool := false
  railFault : Bool := false
  tripped : Bool := false
  oosSticky : Bool := false
  deriving DecidableEq, Repr

/-- `HRT_BOOT_STAT` (R400). -/
structure Boot where
  stage : BitVec 3 := 1
  warm : Bool := false
  first : Bool := false
  fminv : Bool := false
  /-- The last cold reconcile took the maker's map in the shadow in place of the fused array (R393). -/
  mapShadow : Bool := false
  reduced : Bool := false
  newdef : BitVec 9 := 0
  fusewin : BitVec 9 := 0
  stkoff : BitVec 12 := 0
  time : BitVec 16 := 0
  startedAt : Nat := 0
  deriving DecidableEq, Repr

/-- The damper: `HRT_DAMP_CFG`, `HRT_DAMP_STAT` (R366), the first-use cap (R395) and the limit rules (R414, R405). -/
structure Damper where
  plim : BitVec 12 := 0xED8
  fmax : BitVec 11 := 0x5DC
  mclk : BitVec 11 := 0
  why : BitVec 3 := 0
  tjmax : BitVec 10 := 0
  pin : BitVec 12 := 0
  pcore : BitVec 12 := 0
  droops : BitVec 16 := 0
  cap : Bool := false
  capUntil : Nat := 0
  lastChange : Nat := 0
  noRaiseUntil : Nat := 0
  duty : BitVec 8 := 0
  /-- Device time since which the over condition has held at 800 MHz; none while it does not. -/
  overSince : Option Nat := none
  hotSince : Option Nat := none
  fullSince : Option Nat := none
  thermalHold : Bool := false
  deriving DecidableEq, Repr

/-- Availability counters of one accounting year (R389, R390), in ns. -/
structure AvlYear where
  year : BitVec 8 := 0
  t : Nat := 0
  d : Nat := 0
  excl : Nat := 0
  parts : Tab (Nat × Nat) := []
  deriving DecidableEq, Repr

/-- Availability accounting: `HRT_AVL_STAT`, `HRT_AVL_PART`, `HRT_AVL_EXCL`, the contributors now active and windows. -/
structure Avl where
  started : Bool := false
  cur : AvlYear := {}
  prev : AvlYear := {}
  /-- Active contributors: number of R390 and what it counts for. -/
  active : List (Nat × Nat) := []
  outside : Bool := false
  windowUntil : Option Nat := none
  pending : Option (Nat × Nat) := none
  poweredNs : Nat := 0
  /-- Time in SERVICE or DEGRADED by day of device lifetime, in ns (R358). -/
  serviceDays : Tab Nat := []
  interruptions : List Nat := []
  deriving DecidableEq, Repr

/-- `HRT_TASTE_CFG` (R316), `HRT_IDLE_CFG` (R367). -/
structure Cfgs where
  tstEn : Bool := true
  tstPaused : Bool := false
  tstHours : BitVec 7 := 0x0C
  tstAlert : BitVec 10 := 0x018
  idlEn : Bool := true
  idlIn : Bool := false
  idlDwell : BitVec 14 := 0x003C
  idlEntries : BitVec 16 := 0
  idleSince : Nat := 0
  /-- Hobs whose first rotation step after deep idle is due (R315). -/
  woke : List Nat := []
  deriving DecidableEq, Repr

/-- `HRT_EXPEL` of a quarter (R304) with the lids of the last 60 minutes (R303). -/
structure Expel where
  lids : List Nat := []
  test : Bool := false
  result : BitVec 3 := 0
  margin : BitVec 8 := 0
  runs : BitVec 16 := 0
  suspects : List Nat := []
  failed : List Nat := []
  pending : List Nat := []
  resultAt : Nat := 0
  deriving DecidableEq, Repr

/-- A PERTURB setting (R323). -/
structure Perturb where
  valid : Bool := false
  kind : BitVec 3 := 0
  hob : BitVec 3 := 0
  life : BitVec 10 := 0
  ttype : BitVec 3 := 0
  tidx : BitVec 13 := 0
  param : BitVec 48 := 0
  /-- Device time at which PRT_LEFT reaches 0, hob cycle from which holds fall, errors injected and when. -/
  ends : Nat := 0
  from_ : Nat := 0
  done : Nat := 0
  lastAt : Option Nat := none
  deriving DecidableEq, Repr

/-- A licence (R381). -/
structure Licence where
  id : Nat := 0
  tier : Nat := 0
  narrow : Bool := false
  peer : Bool := false
  hobs : Nat := 0
  ports : Nat := 0
  deriving DecidableEq, Repr

/-- An SPDM session (R373, R380): 0 none, 1 keyed, 2 finished; its role and path. -/
structure Session where
  state : Nat := 0
  role : Role := .installer
  path : Nat := 1
  keyGen : Nat := 0
  pf : Option Nat := none
  deriving DecidableEq, Repr

/-- Firmware: `HRT_FW_STAT` (R386), the slots' SVNs and the update in progress (R383 to R385). -/
structure Fw where
  active : Bool := false
  stateA : BitVec 2 := 2
  stateB : BitVec 2 := 2
  stage : BitVec 3 := 0
  minsvn : BitVec 8 := 0
  svnH : BitVec 8 := 0
  svnR : BitVec 8 := 0
  svnC : BitVec 8 := 0
  tries : BitVec 2 := 0
  /-- SVNs of the images in slots A and B, component by component. -/
  svnA : List (BitVec 8) := [0, 0, 0]
  svnB : List (BitVec 8) := [0, 0, 0]
  updating : Bool := false
  /-- Components of the package, those applied, the one in transfer with its SVN, size and bytes received; why the latest step
  failed: 1 signature, 2 SVN, 3 activation. -/
  comps : List Nat := []
  applied : List Nat := []
  comp : Option Nat := none
  compSvn : BitVec 8 := 0
  received : Nat := 0
  compSize : Nat := 0
  reason : Nat := 0
  recovery : Bool := false
  fuseRaises : Nat := 0
  activateAt : Nat := 0
  pendingSince : Nat := 0
  deriving DecidableEq, Repr

/-- PMBus registers (R388): values as refreshed, in mV, mA, mW and m°C, and latched status by register and page (16 × register +
page). -/
structure Pmbus where
  page : Nat := 0
  vin : Nat := 0
  iin : Nat := 0
  pin : Nat := 0
  vout : Tab Nat := []
  iout : Tab Nat := []
  temps : Tab Nat := []
  status : Tab (BitVec 16) := []
  /-- Lifetime (ns) of the latest refresh. -/
  refreshed : Nat := 0
  deriving DecidableEq, Repr

/-- The hearth's records: installation, tokens, fuse map, test content, trust list (R364, R373 to R376, R393). -/
structure Hearth where
  owned : Bool := false
  ownerKey : Nat := 0
  sysTag : BitVec 48 := 0
  devId : BitVec 13 := 0
  devIdLive : BitVec 13 := 0
  rtmo : BitVec 10 := 2
  routes : Tab (Option (BitVec 4)) := []
  /-- The port field of entries that are not in force (R264). -/
  routeIdle : Tab (BitVec 4) := []
  licences : List Licence := []
  licBad : Bool := false
  fuseShadow : Option (List Nat) := none
  overrides : List Nat := []
  testContent : Nat := 0
  trust : List Nat := [0]
  /-- Maker tokens spent, and those accepted for one action: the lifetime (ms) at which each ends, and the bitmap of action codes
  0x0200 to 0x020F that it permits (R375). -/
  tokensUsed : List Nat := []
  tokens : Tab (Nat × BitVec 16) := []
  jtag : Bool := false
  burnIn : List (Nat × Nat) := []
  /-- Retire advice and its reasons as last evaluated (`HRT_SPR_RETIRE`, `HRT_SPR_WHY`, R307, R308). -/
  retire : Bool := false
  retireWhy : BitVec 3 := 0
  reportSeq : Nat := 1
  epoch : Nat := 0
  keyGen : Nat := 1
  txnGen : Nat := 1
  /-- NEGOTIATE_ALGORITHMS has fixed the algorithms of R380. -/
  spdmAlgs : Bool := false
  deriving DecidableEq, Repr

/-- A placement log record (R278): rack, old and new g, time, epoch. For a bridge, `old` and `new` are the far position before
and after, plus 1, and `cell` the logical cell. -/
structure PlaceRec where
  rack : Nat := 0
  old : Nat := 0
  new : Nat := 0
  time : Nat := 0
  epoch : Nat := 0
  bridge : Bool := false
  hob : Nat := 0
  cell : Nat := 0
  deriving DecidableEq, Repr

/-- The pantry: `PNT_STAT` (R348), blocks (R345) and the jar index (R344, R355). -/
structure Pantry where
  up : Bool := false
  /-- Bytes written to the jar area, and to NAND in all, over life. -/
  written : Nat := 0
  nand : Nat := 0
  sparePm : BitVec 8 := 0x78
  badDay : List Nat := []
  badBlocks : List Nat := []
  weak : List Nat := []
  erases : Tab Nat := []
  /-- Lifetime (s) at which each block was read last (R346). -/
  reads : Tab Nat := []
  /-- What a written block holds: 1 + 2 · hob + jar slot; and the bytes that the block opened last for a slot can still take. -/
  held : Tab Nat := []
  room : Tab Nat := []
  /-- No spare block is left (R347). -/
  noSpare : Bool := false
  level : BitVec 2 := 0
  deriving DecidableEq, Repr

/-- A broadcast in progress (R185): its number, targets not yet acknowledged and its start. -/
structure Broadcast where
  id : Nat := 0
  hob : Option Nat := none
  targets : List Nat := []
  ended : List Nat := []
  startedAt : Nat := 0
  tries : Nat := 0
  deriving DecidableEq, Repr

/-- Pins and rails (R403 to R406). -/
structure Pins where
  pwrgd : Bool := false
  vinMv : Nat := 48000
  rails : BitVec 9 := 0
  alert : Bool := false
  smbAlert : Bool := false
  eids : Tab Nat := []
  /-- VCORE of each quarter in mV (R403). -/
  vcore : Tab Nat := []
  deriving DecidableEq, Repr

/-- Sensor readings (R365): temperatures in 0.25 °C and 1 °C, lasers in permille, rails in mV and 0.1 A. -/
structure Sensors where
  rack : Tab Nat := []
  stack : Tab Nat := []
  lanper : Tab Nat := []
  bias : Tab Nat := []
  power : Tab Nat := []
  railMv : Tab Nat := []
  railDa : Tab Nat := []
  deriving DecidableEq, Repr

/-- What the block sends out: bus writes, interrupts, frames, replies and alerts, newest first. -/
inductive Out where
  /-- A completion record or event written to a completion ring (R230): port, function, ring, slot and its fields. -/
  | cqe (port fn ring slot : Nat) (tag : W32) (status : Nat) (op : Nat) (phase : Bool) (sqhead detail : Nat)
      (info0 : Nat) (info1 : Nat) (time : W64)
  | msix (port fn vec : Nat)
  | doorbellRead (port fn ring : Nat) (addr : W64)
  | entryRead (port fn ring : Nat) (index : W32)
  | hostData (port : Nat) (addr : Nat) (bytes : List Byte)
  | hostRead (port : Nat) (addr len : Nat)
  | frame (port : Nat) (f : Frame)
  | mgt (what : String) (args : List Nat)
  | message (hob : Nat) (origin : Origin) (target stamp : Nat) (desc : List Byte)
  | reply (origin : Origin) (tag status state gen : Nat)
  | mctp (what : String) (bytes : List Byte)
  | mctpVals (what : String) (vals : List Nat)
  | crs (port : Nat)
  /-- A QUERY result: the register values that it carries (R232; notes/assumptions/44.md). -/
  | query (hob sub : Nat) (vals : List Nat)
  deriving DecidableEq, Repr

end Sys2Proof.Machine
end

