-- ==== Sys2Proof/Syntax.lean ====
section
/-! DEFINITION. The commands and events of the FC6: one constructor per row of spec/opcode_table.json, with the row's
operands. Data that reaches the block from outside it (host memory it has read, frames, sensor values, test outcomes, results
of signature checks) is an operand (notes/assumptions/4.md). -/

namespace Sys2Proof

open Sys2Proof.Machine

/-- Who sends a management command: an SPDM session number (R373) and the path it came by (R368). -/
structure Who where
  session : Nat := 0
  path : Nat := 1
  deriving DecidableEq, Repr

/-- A recipe image in host memory: its non-zero bytes with `HOB_RCP_DIGEST` set to zero, its size, and the digest field (R99). -/
structure Image where
  bytes : List (Nat × Byte) := []
  size : Nat := 0
  digest : BitVec 384 := 0
  addr : Nat := 0
  /-- Host memory answered every read (R232 ADDRESS otherwise). -/
  readOk : Bool := true
  deriving DecidableEq, Repr

/-- A bit error that strikes a scratchpad word or the calendar store before a cycle: the word and whether it is a
double error (R49, R138). -/
structure Upset where
  store : Bool := false
  word : Nat := 0
  double : Bool := false
  deriving DecidableEq, Repr

/-- A page that a drain has read, with the errors that have struck its 64 B lines: line and bad symbols (R202, R211). -/
structure Drained where
  page : Nat := 0
  badLines : List (Nat × Nat) := []
  deriving DecidableEq, Repr

/-- The end of a cell test: whether it passed, and otherwise the chain group or memory that failed (R312). -/
structure TestEnd where
  pass : Bool := true
  unit : BitVec 12 := 0
  deriving DecidableEq, Repr

/-- What the fused array gives at bring-up: whether it passes its check code, and the scratchpad rows that it remaps: position, bank × 64 +
row and spare row from 1 on (R50, R393). -/
structure FuseRead where
  ok : Bool := true
  rows : List (Pos × Nat × Nat) := []
  deriving DecidableEq, Repr

/-- A lidded position whose work is to go far: whether its state can be read, and whether the recipe image can (R291, R294). -/
structure FarDecant where
  cell : Pos
  readable : Bool := true
  imageOk : Bool := true
  deriving DecidableEq, Repr

/-- A member's report that its jar is sealed, with the jar's cost (R355, R358). -/
structure SealReport where
  member : BitVec 13 := 0
  costMs : Nat := 0
  deriving DecidableEq, Repr

/-- A maker token: its nonce, the actions that it permits, and its lifetime (R375). -/
structure MakerToken where
  nonce : Nat := 0
  permits : BitVec 16 := 0
  lifeMs : Nat := 0
  deriving DecidableEq, Repr

/-- What a COPY has moved: the bytes read from host memory, and the 4 KiB blocks at its destination whose CRC-32C was found wrong
(R205, R232). -/
structure Moved where
  bytes : List Byte := []
  badBlocks : List Nat := []
  deriving DecidableEq, Repr

/-- What a host access fault concerns (R224, R423): a transaction, or a completion write of a ring. -/
inductive HostAccess where
  | txn (id : Nat) | completion (port : HPort) (fn : FnId) (ring : RingId)
  deriving DecidableEq, Repr

/-- What a Lanper training found (R252, R254 to R256). -/
structure TrainResult where
  lanes : List (BitVec 9) := []
  /-- Lanes of each fibre by margin, best first. -/
  best : List (List Nat) := []
  peerOk : Bool := true
  /-- The system tag that the peer's device holds (R252). -/
  peerTag : BitVec 48 := 0
  peerDev : BitVec 13 := 0
  peerPort : BitVec 4 := 0
  deriving DecidableEq, Repr

/-- What kind of check raised a fault report (R265, R273, R300). -/
inductive FaultCode where
  | parity | residue | eccScratch | eccStore | eccResident | rowSpent | blockCheck | tasteMismatch | sched | hang
  | underrun | overrun | pairTimeout | eccStack
  deriving DecidableEq, Repr

/-- A sensor of R365. -/
inductive Sensor where
  | rack (r : Rack) | stack (s : StackId) | lanper (p : LnpId) | laser (i : Fin 288) | rail (i : Fin 9) | input
  deriving DecidableEq, Repr

/-- Contents of a SESSION frame (R252 to R259). -/
inductive SessionMsg where
  | substitute (fibre : Fin 4) (lane spare : Fin 9) (at_ : BitVec 16)
  /-- A retrain at a width; it names transmit lanes that the peer's receiver has marked failed. -/
  | retrain (width : BitVec 4) (bad : List (Fin 4 × Fin 9))
  | park
  | keySwitch (at_ : BitVec 16) (epoch : Nat)
  | setup
  deriving DecidableEq, Repr

/-- Registers that REGISTER_WRITE writes, with the value written (R221, R224, R263, R264, R316, R330, R357, R367). -/
inductive RegWrite where
  | hpSqBase (port : HPort) (fn : FnId) (ring : RingId) (v : W64)
  | hpCqBase (port : HPort) (fn : FnId) (ring : RingId) (v : W64)
  | hpDbAddr (port : HPort) (fn : FnId) (ring : RingId) (v : W64)
  | hpRingCfg (port : HPort) (fn : FnId) (ring : RingId) (v : W64)
  | hpAuthHob (port : HPort) (v : W32)
  | msixTable (port : HPort) (fn : FnId) (entry : Fin 8) (v : BitVec 128)
  | bar0Other (port : HPort) (fn : FnId) (offset : BitVec 16) (v : W64)
  | lnpPortCtl (port : LnpId) (v : W32)
  | lnpIdent (v : W64)
  | lnpCfg (v : W32)
  | lnpRoute (dest : BitVec 13) (v : Byte)
  | lnpJarAcl (hob : HobId) (v : W64)
  | hrtTasteCfg (v : W32)
  | hrtRstCfg (v : W32)
  | hrtRstCmd (v : W32)
  | hrtIdleCfg (v : W32)
  | pntJarPolicy (hob : HobId) (v : W32)
  deriving DecidableEq, Repr

/-- The commands and events. -/
inductive Instr where
  -- Power, bring-up and the damper (13, 15, 16, 17)
  | powerGood
  | powerGoodDeassert
  | vinLow
  | vinFault (mv : Nat)
  | perstAssert (port : HPort)
  | perstDeassert (port : HPort)
  | hearthBootDone (okA okB : Bool) (copies : Bool)
  | clocksUp (pllLocked : Bool)
  | memoriesUp (bad : List (StackId × Nat)) (copyOk : Bool) (badS0 badS6 : List Nat)
  | linksUp (results : List (LnpId × TrainResult))
  | cellsTested (fuse : FuseRead) (failed : List (Pos × BitVec 12)) (wires : List (Pos × Fin 23 × List Nat))
  | handover
  | powerCapLift
  | damperTick
  | droop (q : Quarter)
  | thermalDutyTick
  | thermalHold
  | thermalTrip (r : Rack)
  | tripRestart
  | sensorSample (sensor : Sensor) (value value2 : Nat)
  -- The hob cycle, cells and routers (02 to 05)
  | hobCycleAdvance (hob : HobId)
  | calWordIssue (cell : Pos) (upsets : List Upset)
  | residueFault (cell : Pos) (bank : Fin 2) (row : Fin 32)
  | eccWriteBack (cell : Pos)
  | spareRowRemap (cell : Pos)
  | routerSlotForward (cell : Pos) (out : Dir) (flipped : List Nat)
  | routerPageSwitch (cell : Pos)
  | periodChecksum (cell : Pos)
  | crossingAddrRead (hob : HobId) (xng : BitVec 16)
  | crossingIssue (hob : HobId) (xng : BitVec 16)
  | checkPoint (hob : HobId) (xng : BitVec 16)
  | holdEdge (hob : HobId)
  | holdRelease (hob : HobId)
  | holdLimitExpiry (hob : HobId)
  | edgeCreditGrant (hob : HobId) (xng : BitVec 16)
  | transactionGrant (txn : Nat)
  | blockLanding (txn : Nat) (data : List Byte) (crcOk : Bool)
  | simmerWindow (hob : HobId)
  | simmerDutyUpdate (hob : HobId) (watts : Nat)
  | stepFence (hob : HobId)
  | clientWriteAck (txn : Nat) (ok : Bool)
  | fenceLocalClose (hob : HobId)
  | peerFenceReport (hob : HobId) (peer : BitVec 13) (fence : Nat)
  | stagedWriteForward (hob : HobId)
  | hostAccessFault (what : HostAccess)
  | stepTimerExpiry (hob : HobId)
  | seqActFire (cell : Pos) (slot : SlotId)
  | seqCtr (cell : Pos) (slot : SlotId)
  | seqJump (cell : Pos) (slot : SlotId)
  | seqHalt (cell : Pos) (slot : SlotId)
  | seqSendRetry (cell : Pos) (slot : SlotId)
  -- Messages (06)
  | msgHeaderArrival (cell : Pos) (m : Msg)
  | msgLandingDone (cell : Pos) (landing : Nat) (data : List Byte) (crcOk : Bool)
  | msgLandingTimeout (cell : Pos) (landing : Nat)
  | msgReply (hob : HobId) (origin : Origin) (tag : BitVec 16) (target : Nat) (status : Fin 8)
  | sendTimeout (hob : HobId) (origin : Origin) (tag : BitVec 16)
  | msgWaitRelaunch (hob : HobId) (origin : Origin) (tag : BitVec 16)
  | mcastRelaunch (hob : HobId) (origin : Origin) (tag : BitVec 16) (target : Nat)
  | windowQuiesceEnd (cell : Pos) (win : WinId)
  | broadcastAck (id : Nat) (target : Nat)
  | broadcastRetry (id : Nat)
  -- Stacks (07)
  | stackReadRequest (txn : Nat) (badLines : List (Nat × Nat))
  | stackWriteRequest (txn : Nat) (crcOk : Bool)
  | refresh (stack : StackId) (pc : Fin 34)
  | stackRowRepair (stack : StackId) (row : Nat)
  | pcSpareStart (stack : StackId) (pc : Fin 32)
  | pcSpareDone (stack : StackId) (pc : Fin 32)
  | patrolScrub (stack : StackId) (line : Nat) (badSymbols : Nat)
  | stackPowerDown (stack : StackId)
  | captureArm (hob : HobId)
  | pageDrainDone (hob : HobId) (page : Drained)
  | zeroiseDone (hob : HobId)
  | stackCtrlReset (stack : StackId)
  | stackCtrlResetDone (stack : StackId)
  -- Rings and ring commands (08)
  | doorbellPoll (port : HPort) (fn : FnId) (ring : RingId)
  | doorbellLineReturn (port : HPort) (fn : FnId) (ring : RingId) (pi cqCi : W32) (ok : Bool)
  | sqeArrival (port : HPort) (fn : FnId) (ring : RingId) (entry : List Byte) (ok : Bool)
  | cqInterruptTimer (port : HPort) (fn : FnId) (ring : RingId)
  | loadRecipe (ref : CmdRef) (hob : HobId) (image : Image)
  | loadRecipeDone (hob : HobId)
  | runSteps (ref : CmdRef) (hob : HobId) (count : Nat) (each : Bool) (buf bufLen stg stgLen : Nat)
  | fenceWait (ref : CmdRef) (hob : HobId) (fence : Nat)
  | fenceStop (ref : CmdRef) (hob : HobId)
  | copy (ref : CmdRef) (hob : HobId) (src dst len after : Nat) (srcKind dstKind : Fin 4)
  | windowOpen (ref : CmdRef) (hob : HobId) (cell : BitVec 13) (win : WinId) (slot : SlotId) (region : RegionId)
  | windowClose (ref : CmdRef) (hob : HobId) (cell : BitVec 13) (win : WinId)
  | jarTake (ref : CmdRef) (hob : HobId) (fence : Nat)
  | jarRestore (ref : CmdRef) (hob : HobId) (slot : Fin 2) (dev : BitVec 16) (seq : Nat) (peerJar : Option Jar)
  | jarRestoreDone (hob : HobId) (tagsOk : Bool)
  | queryState (ref : CmdRef) (hob : HobId) (addr len : Nat)
  | queryHobMap (ref : CmdRef) (hob : HobId) (addr len : Nat)
  | queryDistance (ref : CmdRef) (hob : HobId) (addr len : Nat)
  | queryTelemetry (ref : CmdRef) (hob : HobId) (addr len : Nat)
  | queryGrants (ref : CmdRef) (hob : HobId) (addr len : Nat)
  | queryLostEvents (ref : CmdRef) (hob : HobId) (addr len : Nat)
  | queryReport (ref : CmdRef) (hob : HobId) (addr len seq : Nat)
  | queryLog (ref : CmdRef) (hob : HobId) (addr len : Nat)
  | hobConfigShape (ref : CmdRef) (hob : HobId) (x0 y0 w h : Nat)
  | hobConfigMemory (ref : CmdRef) (hob : HobId) (stack : Nat) (extents : Nat)
  | hobConfigPantry (ref : CmdRef) (hob : HobId) (gib : Nat)
  | hobConfigPower (ref : CmdRef) (hob : HobId) (percent : Nat)
  | hobConfigJars (ref : CmdRef) (hob : HobId) (mode : Nat)
  | hobConfigTest (ref : CmdRef) (hob : HobId) (minutes : Nat) (failed : List (Pos × BitVec 12))
  | hobRelease (ref : CmdRef) (hob : HobId)
  | hpAuthMac (port : HPort) (fn : FnId) (mac : BitVec 256)
  | authLockoutEnd (port : HPort) (fn : FnId)
  | ringEnable (port : HPort) (fn : FnId) (ring : RingId)
  | ringDisable (port : HPort) (fn : FnId) (ring : RingId)
  | hostLoss (port : HPort) (linkDown : Bool)
  | flr (port : HPort) (fn : FnId)
  -- Lanper ports (09)
  | lnpDataFrame (port : LnpId) (f : Frame) (decoded tagOk blockOk : Bool)
  | lnpIdleFrame (port : LnpId) (f : Frame) (decoded tagOk : Bool)
  | lnpNakFrame (port : LnpId) (f : Frame) (decoded tagOk : Bool) (named : BitVec 16)
  | lnpSessionFrame (port : LnpId) (f : Frame) (decoded tagOk : Bool) (msg : SessionMsg)
  | lnpIdleSend (port : LnpId)
  | lnpKeyStep (port : LnpId)
  | lnpEn (who : Who) (port : LnpId) (on : Bool)
  | lnpPark (who : Who) (port : LnpId) (on : Bool)
  | lnpTrainingDone (port : LnpId) (r : TrainResult)
  | lnpTrainingTimeout (port : LnpId)
  | lnpLaneFail (port : LnpId) (fibre : Fin 4) (lane : Fin 9)
  | lnpRetrainDone (port : LnpId) (best : List (List Nat))
  | lnpLinkSilent (port : LnpId)
  | lnpDownRetry (port : LnpId)
  | lnpRelightDone (port : LnpId) (locked : Bool)
  | lnpBeacon (port : LnpId)
  | laserWearCheck (port : LnpId) (fibre : Fin 4) (lane : Fin 9) (bias power : Nat)
  | lnpRtmoExpiry (port : LnpId) (txn : Nat)
  | jarRead (port : LnpId) (origin : BitVec 13) (hob : HobId) (slot : Fin 2) (off len : Nat)
  -- The taster, health and moves (10 to 12)
  | traceWindow (cell : Pos)
  | tasterSampleShip (cell : Pos)
  | tasterVerdict (cell : Pos) (mismatch : Bool)
  | tasterSampleAbandon (cell : Pos)
  | faultReport (cell : Pos) (code : FaultCode) (unit : BitVec 12)
  | replayStart (hob : HobId) (status : Nat) (cell : BitVec 13)
  | decantRackLocal (cell : Pos) (readable : Bool) (imageOk : Bool)
  | functionalCheckResult (cell : Pos) (pass : Bool)
  | decantFar (far : FarDecant)
  | stationReplace (hob : HobId) (imageOk : Bool)
  | conditionEval (cell : Pos)
  | scoreHourly
  | paroleStart (cell : Pos)
  | paroleTest (cell : Pos) (result : TestEnd) (valid : Bool)
  | retireAdviceEval
  | rotationStep (hob : Option HobId)
  | scanTestDone (cell : Pos) (pass valid : Bool) (unit : BitVec 12)
  | untestedAgeAlert (r : Rack)
  | tmtRowStart (cell : Pos)
  | tmtRowDone (cell : Pos) (pass : Bool)
  | perturbSet (who : Who) (i : Fin 16) (v : BitVec 128)
  | perturbHold (i : Fin 16)
  | perturbInject (i : Fin 16) (word : Nat)
  | perturbExpiry (i : Fin 16)
  -- Hangs and resets (13)
  | cellHeartbeatMiss (cell : Pos)
  | cellRequestTimeout (cell : Pos)
  | broadcastUnacked (id : Nat) (target : Nat)
  | quarterHoldUnconfirmed (q : Quarter)
  | stackCtrlHang (stack : StackId)
  | lanperEngineHang (port : LnpId)
  | hostPortHang (port : HPort)
  | hobStopTimeout (hob : HobId)
  | rimTokenLoss
  | hearthLockstepMismatch
  | hearthWatchdogExpiry
  | resetTimeout (domain : Fin 10) (index : Nat)
  | cellReset (cell : Pos)
  | cellResetDone (cell : Pos) (ok imageOk : Bool)
  | rackReset (r : Rack)
  | lnpPortReset (port : LnpId)
  | hostPortReset (port : HPort)
  | quarterReset (q : Quarter)
  | hobReset (hob : HobId)
  | routerIslandReset (cell : Pos)
  | warmReset (why : Fin 14)
  | coldReset (why : Fin 14)
  | hearthReset
  | hearthResetDone
  | ashCapture (domain : BitVec 8) (cause : Fin 14)
  | ashUnitTimeout (kind : Fin 10) (index : Nat)
  | ashCaptureDone (ms : Nat)
  | rstCmdWarm (who : Who)
  | rstCmdCold (who : Who)
  | rstCmdRestore (who : Who)
  | rstCmdAsh (who : Who)
  | rstCmdLockAsh (who : Who) (arg : BitVec 28)
  | rstCmdReleaseAsh (who : Who)
  | ashReadout (who : Who) (seq : Nat)
  -- The pantry (14) and deep idle (15)
  | jarSetPlan (hob : HobId) (fence seq : Nat) (slot : Fin 2) (lead : BitVec 13)
  | jarSeal (hob : HobId)
  | jarSealReport (hob : HobId) (member : SealReport)
  | jarDue (hob : HobId)
  | jarMtbiGather (hob : HobId) (member : BitVec 13) (service count : Nat) (factor : Nat)
  | nandBlockFail (block : Nat)
  | pantryScrub (block : Nat) (permille : Nat) (ageDays : Nat)
  | deepIdleEntry
  | hrtIdlEn (who : Who) (on : Bool)
  -- The log, ownership, grants and licences (15)
  | logSeal
  | logReadout (who : Who)
  | takeOwnership (who : Who) (key : Nat) (sysTag : BitVec 48) (devId : BitVec 13) (token : Option Nat)
  | grantSet (who : Who) (hob : HobId) (grant : Grant)
  | credentialSet (who : Who) (hob : HobId) (cred : Nat)
  | rsvWindowSet (who : Who) (hob : HobId) (stack : StackId) (on : Bool) (bw : BitVec 5)
  | powerLimitSet (who : Who) (v : W32)
  | maintWindowDeclare (who : Who) (start len : Nat) (endNow : Bool)
  | maintWindowStart
  | maintWindowEnd
  | avlYearRollover
  | licenceInstall (who : Who) (lic : Licence) (sigOk serialOk : Bool)
  | licenceRemove (who : Who) (id : Nat)
  | makerTokenUse (who : Who) (token : MakerToken) (sigOk serialOk : Bool)
  | jtagUnlock (nonce : Nat) (ok : Bool)
  | fuseMapWrite (who : Who) (nonce : Nat) (bad : List Pos) (sigOk : Bool)
  | testContentInstall (who : Who) (nonce : Nat) (version : Nat) (sigOk : Bool)
  | cellOverride (who : Who) (nonce : Nat) (cell : Pos)
  | trustListChange (who : Who) (nonce : Nat) (keys : List Nat)
  -- Firmware (15)
  | fwConfirm (who : Who)
  | fwRevert (who : Who)
  | fwGoodTimer
  | queryDeviceIdentifiers
  | getFirmwareParameters
  | getStatus
  | requestUpdate (who : Who)
  | passComponentTable (who : Who) (comps : List Nat)
  | updateComponent (who : Who) (comp : Nat) (size : Nat) (svn : BitVec 8)
  | firmwareData (who : Who) (bytes : Nat)
  | verifyComplete (sigOk : Bool)
  | activateFirmware (who : Who)
  | activateTimeout
  | cancelUpdateComponent (who : Who)
  | cancelUpdate (who : Who)
  -- SPDM, IDE_KM, MCTP and PMBus (15)
  | getVersion
  | getCapabilities
  | negotiateAlgorithms (ecdsaP384 sha384 secp384r1 aes256gcm : Bool)
  | getDigests
  | getCertificate (slot : Nat) (off len : Nat)
  | challenge (nonce : Nat)
  | getMeasurements (index : Nat)
  | keyExchange (session : Nat) (role : Role) (path : Nat) (pf : Option HPort)
  | finish (session : Nat) (mutualOk : Bool)
  | keyUpdate (session : Nat)
  | heartbeat (session : Nat)
  | endSession (session : Nat)
  | ideKmQuery (session : Nat)
  | keyProg (session : Nat) (stream : Nat)
  | kSetGo (session : Nat) (stream : Nat)
  | kSetStop (session : Nat) (stream : Nat)
  | setEndpointId (binding : Fin 5) (eid : Byte)
  | mctpControl (cmd : Byte)
  | page (n : Byte)
  | clearFaults
  | readVin
  | readIin
  | readPin
  | readVout
  | readIout
  | readPout
  | readTemperature1
  | readTemperature2
  | readTemperature3
  | statusWord
  | statusInput
  | statusIout
  | statusTemperature
  | pmbusRevision
  | capability
  | mfrId
  | mfrModel
  | mfrSerial
  | pmbusWriteRefused (cmd : Byte)
  | pmbusRefresh
  | registerWrite (who : Who) (w : RegWrite)
  | copyDone (hob : HobId) (ok : Bool) (moved : Nat) (data : Moved)
  | applyComplete
  | peerFenceFailed (hob : HobId) (peer : BitVec 13) (fence : Nat)
  | rackResetDone (r : Rack) (imageOk : Bool)
  | quarterResetDone (q : Quarter) (imageOk : Bool)
  | hobResetDone (hob : HobId)
  | hostPortResetDone (port : HPort)
  | lnpPortResetDone (port : LnpId)
  deriving DecidableEq, Repr

end Sys2Proof
end

