-- ==== Sys2Proof/Decode.lean ====
section
/-! DEFINITION. Commands spelled by words: spec/opcode_table.json gives no row any bits, so no word spells one. -/

namespace Sys2Proof

/-- The rows of the table that give bits: number of bits, mask, pattern and command. There are none. -/
def tableRows : List (Nat × Nat × Nat × Instr) := []

/-- The command that a word spells by the table's bits. -/
def decodeTableWord (nbits w : Nat) : Option Instr :=
  (tableRows.find? fun r => r.1 == nbits && (w &&& r.2.1) == r.2.2.1).map fun r => r.2.2.2

end Sys2Proof
end

