-- ==== Sys2Proof/Config.lean ====
section
/-! DEFINITION. What an FC6 fixes once and the spec does not give, and the free values: constants
without a body, so that no proof can rest on a value of theirs (notes/assumptions/5.md and 6.md). -/

namespace Sys2Proof

/-- A value the spec leaves open: the n-th draw of the state's counter of free values (R48, R124, R221, R270). -/
opaque Config.freeNat : Nat → Nat

/-- The bytes that decryption under key `key` gives for a line that was not encrypted under it (R206, R208). -/
opaque Config.foreignByte (key addr : Nat) : Byte

/-- The simmer duty that the hearth computes from a power share, a measured power and the duty in force (R124): the spec
gives no formula. -/
opaque Config.simmerDuty (share watts old : Nat) : Nat

/-- SHA-384 over an image of `size` bytes, held as the list of its non-zero bytes (R99). -/
opaque Config.sha384 (bytes : List (Nat × Byte)) (size : Nat) : BitVec 384

/-- HMAC-SHA-256 under credential number `cred` over a nonce, a port number and a function number (R223). -/
opaque Config.hmacSha256 (cred : Nat) (nonce : W64) (port fn : Nat) : BitVec 256

/-- The PTM time of the host at device time `ns` (R230). -/
opaque Config.ptmTime (ns : Nat) : W64

/-- Vector max or min of a pair that holds a NaN or two zeros of unlike sign: R148 states no result. -/
opaque Config.vecMaxMinOpen (isMax : Bool) (a b : W32) : W32

/-- The serial number in ASCII, zero-padded (R377). -/
opaque Config.serial : BitVec 128

/-- The reply bytes of a management message whose content the spec leaves to a standard (R380, R384, R387). -/
opaque Config.replyBytes (what : String) (arg : Nat) : List Byte

/-- A measurement block: the SHA-384 of its content in the DMTF format, whose layout the spec leaves to the standard (R379). -/
opaque Config.measure (index : Nat) (content : List Nat) : BitVec 384

/-- An ECDSA P-384 signature by the device attestation key over what a reply carries (R378, R380). -/
opaque Config.sign (vals : List Nat) : List Byte

/-- Which PMBus status bits a page's readings set in STATUS_WORD (0), STATUS_INPUT (1), STATUS_IOUT (2) and STATUS_TEMPERATURE (3):
R388 gives no condition of any bit. -/
opaque Config.pmbusStatus (register page : Nat) (readings : List Nat) : BitVec 16

/-- A value in PMBus LINEAR11 format (R388; the format is the PMBus standard's). -/
opaque Config.linear11 (milli : Nat) : BitVec 16

/-- The row of a stack and its bank that hold a device address, and the spare rows of a bank (R203): the spec gives no layout. -/
opaque Config.stackRow (dev : Nat) : Nat
opaque Config.stackBank (row : Nat) : Nat
opaque Config.spareRows : Nat

/-- Whole 4 KiB blocks that a dual-clock queue holds per channel (R30: at least two). -/
opaque Config.queueBlocks : Nat

/-- A sealed byte of a jar: wrapped key, digest, signature or ciphertext (R351, R352). -/
opaque Config.jarByte (seq fence digest off : Nat) : Byte

/-- The bytes of a QUERY result whose layout the spec does not give (R232). -/
opaque Config.queryLayout (sub : Nat) (vals : List Nat) : List Byte

/-- First 8 B of the SHA-384 of a credential or public key, and the 160 B of a record's arguments (R368). -/
opaque Config.keyId (key : Nat) : W64
opaque Config.logArgs (seq code : Nat) (args : List Nat) : List Byte

/-- SHA-384 of the erased log record before a kept one (R368, R369). -/
opaque Config.erasedHash (seq : Nat) : Nat

/-- What the scan of a unit gives the ash record with that sequence number: its control state, and its time in units of 10 µs
(R336 to R338). Type and index are those of the record's unit entries. -/
opaque Config.ashData (seq kind index : Nat) : List Byte
opaque Config.ashTime (seq kind index : Nat) : Nat

/-- Bytes of an erase block (R345): the spec gives no block size. -/
opaque Config.nandBlockBytes : Nat

/-- The 24 TB of raw NAND (R4, R342, R343) and its erase blocks. -/
def Config.nandRaw : Nat := 24 * 10 ^ 12
def Config.nandBlocks : Nat := Config.nandRaw / Config.nandBlockBytes

/-- The 64 GiB shelf (R344): two copies of test content, the ash area, the tables, a reserve. -/
def Config.shelf : Nat := 2 ^ 36
def Config.shelfContent : Nat := 12 * 2 ^ 30
def Config.shelfAsh : Nat := 2 ^ 34
def Config.shelfTables : Nat := 4 * 2 ^ 30
def Config.shelfReserve : Nat := Config.shelf - 2 * Config.shelfContent - Config.shelfAsh - Config.shelfTables

end Sys2Proof
end

