-- ==== Sys2Proof/Machine/State.lean ====
section
/-! DEFINITION. The state of the FC6, the ways a step can stop, and the state after reset. -/

namespace Sys2Proof.Machine

open Sys2Proof

/-- A capture of ash under way (R335): the record so far and what waits for it. -/
structure AshRun where
  ash : Ash := {}
  /-- Resets and state entries that wait for its end: domain code, unit, watchdog code (R334, R335). -/
  waiting : List (Nat × Nat × Nat) := []
  startedAt : Nat := 0
  deriving DecidableEq, Repr

/-- The state of the block. Every field's default is its value at reset (INVENTORY.md, State). -/
structure State where
  /-- The commands and events that wait, first in first out. -/
  pending : List Instr := []
  st : DevState := .off
  /-- Device time base and device lifetime in ns (R280, R283). -/
  now : Nat := 0
  life : Nat := 0
  boot : Boot := {}
  resets : Resets := {}
  damper : Damper := {}
  sensors : Sensors := {}
  pins : Pins := {}
  avl : Avl := {}
  cfgs : Cfgs := {}
  expel : Tab Expel := []
  perturbs : Tab Perturb := []
  cells : Tab Cell := []
  routers : Tab Router := []
  /-- Dynamic flits at the edge stops that wait for room in the mesh: the logical column and row that they enter (R29, R172). -/
  edgeIn : List (Nat × Nat × DynFlit) := []
  /-- Dynamic flits in the dual-clock queues of the rim's clients: the client, and the logical column and row that they enter by
  (R29). -/
  rimIn : List (Nat × Nat × Nat × DynFlit) := []
  health : Tab Health := []
  racks : Tab RackSt := []
  hobs : Tab Hob := []
  stk : Tab Stack := []
  /-- Stack memory by device physical byte address: plaintext of each line under the key that `lines` names. -/
  mem : List Host.Cell := []
  lines : Tab Line := []
  /-- Bad symbols at rest by 64 B line, of errors that no access has met yet (R202). -/
  errs : Tab Nat := []
  /-- The redirect table, by original page: stack × 2²¹ + page, in its copies on S0 and S6 (R214). -/
  rdrs : Tab Rdr := []
  rdrs6 : Tab Rdr := []
  txns : List Txn := []
  hosts : Tab HostPort := []
  lnps : Tab Lnp := []
  hearth : Hearth := {}
  fw : Fw := {}
  pmbus : Pmbus := {}
  sessions : Tab Session := []
  log : List LogRec := []
  logSeq : Nat := 0
  logFail : Bool := false
  ashes : List Ash := []
  ashRun : Option AshRun := none
  ashSeq : Nat := 1
  /-- The placement log, in its copies on S0 and S6 (R190, R278). -/
  places : List PlaceRec := []
  places6 : List PlaceRec := []
  pantry : Pantry := {}
  broadcasts : List Broadcast := []
  bcastSeq : Nat := 1
  out : List Out := []
  /-- The model's own counter of free values (notes/assumptions/6.md): no part of the FC6. -/
  free : Nat := 0
  deriving DecidableEq, Repr

/-- The state right after reset: the module unpowered with every register at the reset value its table gives. -/
def State.reset : State := {}

/-- The ways the FC6 stops with a fault: none. The spec gives every breach an outcome in which the device goes on. -/
inductive Fault where
  deriving DecidableEq, Repr

/-- The ways a command is rejected. -/
inductive Refusal where
  /-- Raised by the dispatch of a command that has no meaning yet; safe: the run ends. -/
  | notModelled (mnemonic : String)
  deriving DecidableEq, Repr

end Sys2Proof.Machine
end

