-- ==== Sys2Proof/Machine/Ops.lean ====
section
/-! DEFINITION. The named operations over the state: access by number, outputs, the log, completions, hob states, holds,
placement, stack memory and time. Everything the families share stands here. -/

namespace Sys2Proof.Machine

open Sys2Proof

/-- The outcome of a command. -/
abbrev Res := Host.Outcome State Fault Refusal

/-! ### Access by number -/

def State.hob (s : State) (h : Nat) : Hob := s.hobs.get {} h
def State.cell (s : State) (p : Nat) : Cell := s.cells.get {} p
def State.router (s : State) (p : Nat) : Router := s.routers.get {} p
def State.pos (s : State) (p : Nat) : Health := s.health.get {} p
def State.rack (s : State) (r : Nat) : RackSt := s.racks.get {} r
def State.stack (s : State) (k : Nat) : Stack := s.stk.get {} k
def State.host (s : State) (p : Nat) : HostPort := s.hosts.get {} p
def State.lnp (s : State) (p : Nat) : Lnp := s.lnps.get {} p

def State.setHob (s : State) (h : Nat) (v : Hob) : State := { s with hobs := s.hobs.put {} h v }
def State.setCell (s : State) (p : Nat) (v : Cell) : State := { s with cells := s.cells.put {} p v }
def State.setRouter (s : State) (p : Nat) (v : Router) : State := { s with routers := s.routers.put {} p v }
def State.setPos (s : State) (p : Nat) (v : Health) : State := { s with health := s.health.put {} p v }
def State.setRack (s : State) (r : Nat) (v : RackSt) : State := { s with racks := s.racks.put {} r v }
def State.setStack (s : State) (k : Nat) (v : Stack) : State := { s with stk := s.stk.put {} k v }
def State.setHost (s : State) (p : Nat) (v : HostPort) : State := { s with hosts := s.hosts.put {} p v }
def State.setLnp (s : State) (p : Nat) (v : Lnp) : State := { s with lnps := s.lnps.put {} p v }

def State.modHob (s : State) (h : Nat) (f : Hob → Hob) : State := s.setHob h (f (s.hob h))
def State.modCell (s : State) (p : Nat) (f : Cell → Cell) : State := s.setCell p (f (s.cell p))
def State.modRouter (s : State) (p : Nat) (f : Router → Router) : State := s.setRouter p (f (s.router p))
def State.modPos (s : State) (p : Nat) (f : Health → Health) : State := s.setPos p (f (s.pos p))
def State.modRack (s : State) (r : Nat) (f : RackSt → RackSt) : State := s.setRack r (f (s.rack r))
def State.modStack (s : State) (k : Nat) (f : Stack → Stack) : State := s.setStack k (f (s.stack k))
def State.modHost (s : State) (p : Nat) (f : HostPort → HostPort) : State := s.setHost p (f (s.host p))
def State.modLnp (s : State) (p : Nat) (f : Lnp → Lnp) : State := s.setLnp p (f (s.lnp p))

def Cell.slot (c : Cell) (i : Nat) : Slot := c.slots.get {} i
def Cell.modSlot (c : Cell) (i : Nat) (f : Slot → Slot) : Cell := { c with slots := c.slots.upd {} i f }
def Cell.win (c : Cell) (i : Nat) : Win := c.wins.get {} i
def Cell.modWin (c : Cell) (i : Nat) (f : Win → Win) : Cell := { c with wins := c.wins.upd {} i f }
def Slot.region (c : Slot) (i : Nat) : Region := c.regions.get {} i
def Slot.modRegion (c : Slot) (i : Nat) (f : Region → Region) : Slot := { c with regions := c.regions.upd {} i f }
def HostPort.fnSt (p : HostPort) (f : Nat) : Fn := p.fns.get {} f
def HostPort.modFn (p : HostPort) (f : Nat) (g : Fn → Fn) : HostPort := { p with fns := p.fns.upd {} f g }
def Fn.ring (f : Fn) (r : Nat) : Ring := f.rings.get {} r
def Fn.modRing (f : Fn) (r : Nat) (g : Ring → Ring) : Fn := { f with rings := f.rings.upd {} r g }

def State.ring (s : State) (p f r : Nat) : Ring := ((s.host p).fnSt f).ring r
def State.modFn (s : State) (p f : Nat) (g : Fn → Fn) : State := s.modHost p fun x => x.modFn f g
def State.modRing (s : State) (p f r : Nat) (g : Ring → Ring) : State := s.modFn p f fun x => x.modRing r g

/-- Apply `f` for each member of a list, in order. -/
def State.each {α : Type} (s : State) (l : List α) (f : State → α → State) : State := l.foldl f s

/-- The numbers of the eight hobs. -/
def hobNums : List Nat := [0, 1, 2, 3, 4, 5, 6, 7]

/-- A free value: a draw that nothing constrains, and the state that has used it. -/
def State.draw (s : State) : Nat × State := (Config.freeNat s.free, { s with free := s.free + 1 })

/-- An output. -/
def State.emit (s : State) (o : Out) : State := { s with out := o :: s.out }

/-! ### Times, in ns -/

def usNs : Nat := 1000
def msNs : Nat := 1000000
def secNs : Nat := 1000000000
/-- Device lifetime in seconds and in milliseconds (R283, R368). -/
def State.lifeS (s : State) : Nat := s.life / secNs
def State.lifeMs (s : State) : Nat := s.life / msNs
/-- The device time base in ms (R280). -/
def State.timeMs (s : State) : Nat := s.now / msNs

/-! ### The log (R368, R369) -/

/-- Records that the log area holds; a full area loses its oldest erase unit of 16,384 records (R364, R368, R369). -/
def logCap : Nat := 262144

/-- Append one record; the area drops its oldest unit when full. -/
def State.logPut (s : State) (r : LogRec) : State :=
  let kept := if s.log.length < logCap then s.log else s.log.take (logCap - 16384)
  { s with log := { r with seq := s.logSeq, time := s.lifeMs } :: kept, logSeq := s.logSeq + 1 }

/-- A seal record (R369): code 0x0001. -/
def State.sealLog (s : State) : State := s.logPut { code := 0x0001 }

/-- A record, and the seal that follows as every record whose number mod 64 is 63 (R369). A failing log writes nothing. -/
def State.logAdd (s : State) (r : LogRec) : State :=
  if s.logFail then s
  else
    let s1 := s.logPut r
    if s1.logSeq % 64 = 63 then s1.sealLog else s1

/-- A device record (R370, codes 0x0400 on). -/
def State.logDev (s : State) (code : Nat) (hob : Nat) (args : List Nat) : State :=
  s.logAdd { code := BitVec.ofNat 16 code, hob := hob, args := args }

/-- The number of a role in a log record (R368). -/
def roleNum : Role → Nat
  | .operator => 1 | .installer => 2 | .maker => 3

/-- Whether the sender's session is finished and its role is one of those allowed (R9, R373). -/
def State.authorised (s : State) (who : Who) (allowed : List Role) : Bool :=
  let x := s.sessions.get {} who.session
  x.state == 2 && allowed.contains x.role

/-- A privileged I or M action (R9, R10): refused for the credential (1), for `refuse` ≠ 0 (2 value, 3 grant or licence,
4 state), or because the log fails; otherwise logged and then done. An absent hearth takes no command. -/
def State.priv (s : State) (who : Who) (allowed : List Role) (code hob : Nat) (args : List Nat) (refuse : Nat)
    (act : State → State) : State :=
  let x := s.sessions.get {} who.session
  let ok := s.authorised who allowed
  if s.st = .off || s.resets.hearthDown then s
  else
  let result := if !ok then 1 else if s.logFail then 4 else refuse
  let s1 := s.logAdd { role := roleNum x.role, path := who.path, code := BitVec.ofNat 16 code, result := result,
                       hob := hob, keyid := who.session, args := args }
  let s2 := if result = 0 then act s1 else s1
  s2.emit (.mctpVals "result" [code, result])

/-! ### Completion records and events (R226, R230, R231) -/

/-- Hob states as `HP_HOB_STATE` shows them (R222). -/
def HobState.code : HobState → Nat
  | .free => 0 | .loading => 1 | .running => 2 | .held => 3 | .stopped => 4 | .ovr => 5

/-- Device states as `HP_DEV_STATE` shows them (R222); its reset value stands while the module is off. -/
def DevState.code : DevState → Nat
  | .off => 1 | .hearthUp => 1 | .bringup => 2 | .service => 3 | .degraded => 4 | .ember => 5 | .outOfService => 6

/-- The state a hob reports: OVER in place of RUNNING or STOPPED while use is above grant (R239). -/
def Hob.reported (h : Hob) : HobState :=
  if h.overq && (h.st == .running || h.st == .stopped) then .ovr else h.st

/-- An MSI-X table entry as it stands until it is written: masked (R221: per PCIe). -/
def msixReset : BitVec 128 := 1 <<< 96

/-- An MSI-X message of a function; a masked vector keeps it pending in the PBA (R221). -/
def State.interruptMsg (s : State) (p f v : Nat) : State :=
  if (((s.host p).fnSt f).msix.get msixReset v).getLsbD 96 then s.modFn p f fun x => { x with pba := x.pba ||| ((1 : BitVec 8) <<< v) }
  else s.emit (.msix p f v)

/-- A record counts toward the interrupt (R224): a message at the count, or at once when the time is 0. -/
def State.signal (s : State) (p f r : Nat) : State :=
  let x := s.ring p f r
  let n := x.unsignalled + 1
  let limit := if x.count = 0 then 1 else x.count.toNat
  if n ≥ limit || x.time = 0 then
    (s.modRing p f r fun y => { y with unsignalled := 0 }).interruptMsg p f x.vec.toNat
  else
    s.modRing p f r fun y => { y with unsignalled := n, oldest := if x.unsignalled = 0 then s.now else x.oldest }

/-- The 32 B of a completion record, little-endian (R230). -/
def cqeBytes (tag : W32) (status op : Nat) (phase : Bool) (sqhead detail info0 info1 : Nat) (time : W64) : List Byte :=
  leBytes 4 tag.toNat ++ leBytes 2 status ++ leBytes 1 op ++ leBytes 1 (if phase then 1 else 0) ++ leBytes 2 sqhead ++ leBytes 2 detail ++
  leBytes 4 info0 ++ leBytes 8 info1 ++ leBytes 8 time.toNat

/-- Write one record at the next completion slot, with the phase bit of R226 and every field cut to its width (R230). -/
def State.record (s : State) (p f r : Nat) (tag : W32) (status op detail info0 info1 : Nat) (noirq : Bool) : State :=
  let x := s.ring p f r
  let size := 2 ^ x.log2.toNat
  let n := x.cqPi.toNat
  let s1 := s.emit (.cqe p f r (n % size) tag status op ((n / size) % 2 == 0) (x.ci.toNat % 65536) (detail % 65536)
    (info0 % 2 ^ 32) (info1 % 2 ^ 64) (Config.ptmTime s.now))
  let s2 := s1.modRing p f r fun y => { y with cqPi := y.cqPi + 1 }
  if noirq then s2 else s2.signal p f r

/-- A ring whose enable is clear stops once its fetched commands have completed (R224). -/
def Ring.settle (x : Ring) : Ring := if !x.en && x.sqes.isEmpty && x.fetching = 0 then { x with on := false } else x

/-- Commands in flight (R224). -/
def Ring.inFlight (x : Ring) : Nat := x.sqes.length + x.fetching

/-- Entries of a ring. -/
def Ring.size (x : Ring) : Nat := 2 ^ x.log2.toNat

/-- Completion slots that nothing has reserved: every command in flight has one, and ring 0 keeps 16 for events (R226, R231). -/
def Ring.slotsLeft (x : Ring) (r : Nat) : Nat :=
  x.size - (if r = 0 then 16 else 0) - ((x.cqPi - x.cqCi).toNat + x.inFlight - (if r = 0 then x.events.length else 0))

/-- A command leaves its ring as its record is written. -/
def Ring.finish (x : Ring) (tag : W32) (op : Nat) : Ring :=
  ({ x with sqes := x.sqes.eraseP fun e => e.started && e.tag == tag && e.op == op } : Ring).settle

/-- Complete a ring command. A ring that is not running takes no record (R241). -/
def State.complete (s : State) (ref : CmdRef) (op status detail info0 info1 : Nat) : State :=
  let p := ref.port.val
  let f := ref.fn.val
  let r := ref.ring.val
  if !(s.ring p f r).on then s
  else
    let s1 := s.record p f r ref.tag status op detail info0 info1 ref.noirq
    s1.modRing p f r fun y => y.finish ref.tag op

/-- The record of a committed step of an EACH run: it takes a free completion slot, or waits for one (R226, R232). -/
def State.recordEach (s : State) (ref : CmdRef) (info0 info1 : Nat) : State :=
  let p := ref.port.val
  let f := ref.fn.val
  let r := ref.ring.val
  let x := s.ring p f r
  if !x.on then s
  else if x.owed.isEmpty && 1 ≤ x.slotsLeft r then s.record p f r ref.tag 0 2 0 info0 info1 ref.noirq
  else s.modRing p f r fun y => { y with owed := y.owed ++ [{ tag := ref.tag, op := 2, info0 := info0, info1 := info1, noirq := ref.noirq }] }

/-- Records that waited go to the slots that the host has freed, oldest first (R226). -/
def State.postOwed (s : State) (p f r : Nat) : State :=
  (s.ring p f r).owed.foldl (fun (s : State) c =>
    if 1 ≤ (s.ring p f r).slotsLeft r then
      (s.modRing p f r fun y => { y with owed := y.owed.drop 1 }).record p f r c.tag c.status c.op c.detail c.info0 c.info1 c.noirq
    else s) s

/-- Statuses of R233. -/
def stOk : Nat := 0
def stRejected : Nat := 1
def stAuth : Nat := 2
def stState : Nat := 3
def stQuota : Nat := 4
def stAddress : Nat := 5
def stAborted : Nat := 6
def stShort : Nat := 7
def stPort : Nat := 8
def stUnderrun : Nat := 16
def stOverrun : Nat := 17
def stPairTimeout : Nat := 18
def stWinStale : Nat := 19
def stQueueGone : Nat := 20
def stSendTimeout : Nat := 21
def stSendFull : Nat := 22
def stMcastPartial : Nat := 23
def stBoundMiss : Nat := 24
def stResidue : Nat := 25
def stParity : Nat := 26
def stEccUe : Nat := 27
def stBlockCheck : Nat := 28
def stTaste : Nat := 29
def stSched : Nat := 30
def stLateTaint : Nat := 31
def stReplace : Nat := 32
def stFuseMap : Nat := 33

/-- An event record on one ring: ring 0 has 16 slots for events, another ring takes one that nothing has reserved; otherwise the
event is lost (R226, R231). -/
def State.eventOn (s : State) (p f r status detail info0 info1 : Nat) : Bool × State :=
  let x := s.ring p f r
  if x.on && (if r = 0 then decide (x.events.length < 16) else decide (1 ≤ x.slotsLeft r)) then
    (true, (s.modRing p f r fun y => { y with events := if r = 0 then y.events ++ [x.cqPi.toNat] else y.events }).record p f r 0 status
      0xFF detail info0 info1 false)
  else (false, s)

/-- An event that a running ring has no slot for is counted, for the hob or for the port (R231). -/
def State.eventOrLose (s : State) (p f r status detail info0 info1 : Nat) : State :=
  let (ok, s1) := s.eventOn p f r status detail info0 info1
  if ok || !(s.ring p f r).on then s1
  else if f = 0 then s1.modHost p fun x => { x with lostEvents := x.lostEvents + 1 }
  else s1.modHob (f - 1) fun x => { x with lostEvents := x.lostEvents + 1 }

/-- A hob event, on ring 0 of the hob's VF (R231). -/
def State.hobEvent (s : State) (h status detail info1 : Nat) : State :=
  let g := (s.hob h).grant
  let (ok, s1) := s.eventOn g.hport.toNat (h + 1) 0 status detail 0 info1
  if ok then s1 else s1.modHob h fun x => { x with lostEvents := x.lostEvents + 1 }

/-- A device event, on every PF management ring (R231). -/
def State.devEvent (s : State) (status detail info1 : Nat) : State :=
  s.each [0, 1, 2, 3] fun s p => s.eventOrLose p 0 0 status detail 0 info1

/-- A ring of a VF that was enabled early starts when the device reaches SERVICE or DEGRADED (R396). -/
def State.startVfRings (s : State) : State :=
  s.each [0, 1, 2, 3] fun s p => s.each [1, 2, 3, 4, 5, 6, 7, 8] fun s f => s.each [0, 1, 2, 3] fun s r =>
    let x := s.ring p f r
    if x.en && !x.on then s.modRing p f r fun y => { y with on := true, interval := 1000, activeUntil := s.now + 100 * usNs }
    else s

/-- A device event on every running ring of a port (R231). -/
def State.portEvent (s : State) (p status detail : Nat) : State :=
  s.each [0, 1, 2, 3, 4, 5, 6, 7, 8] fun s f => s.each [0, 1, 2, 3] fun s r => s.eventOrLose p f r status detail 0 0

/-- A change of the device state: logged, and posted on every enabled ring (R231, R370, R396). -/
def State.setDev (s : State) (d : DevState) : State :=
  if s.st = d then s
  else
    let s1 := { s with st := d }
    let s2 := if d = .service || d = .degraded then s1.startVfRings else s1
    let s3 := s2.logDev 0x0400 0xFF [d.code]
    s3.each [0, 1, 2, 3] fun s p => s.portEvent p 0 d.code

/-- Whether the hob is assigned to the port (R220, R243). -/
def Hob.assignedTo (z : Hob) (p : Nat) : Bool := z.grant.valid && z.grant.hport.toNat == p

/-- Whether a function is authenticated for a hob (R223, R232). What a hob's commands move goes only to the port that owns it, so a
function of another port never is (R243; notes/assumptions/86.md). -/
def State.authFor (s : State) (p f h : Nat) : Bool :=
  let x := (s.host p).fnSt f
  (s.hob h).assignedTo p && (if f = 0 then x.authHobs.contains h else f == h + 1 && x.authOk)

/-! ### Availability (R13, R389) -/

/-- A contributor becomes active; its interval is counted once. -/
def State.avlStart (s : State) (part key : Nat) : State :=
  if s.avl.active.contains (part, key) then s
  else
    let p := s.avl.cur.parts.get (0, 0) part
    let counts := s.avl.started && s.avl.windowUntil.isNone && !s.avl.outside
    let cur := if counts then { s.avl.cur with parts := s.avl.cur.parts.put (0, 0) part (p.1, p.2 + 1) } else s.avl.cur
    { s with avl := { s.avl with active := (part, key) :: s.avl.active, cur := cur } }

/-- A contributor ends. -/
def State.avlStop (s : State) (part key : Nat) : State :=
  { s with avl := { s.avl with active := s.avl.active.filter fun x => x != (part, key) } }

/-- An interruption of service (R358), at a lifetime in s. -/
def State.interrupt (s : State) : State := { s with avl := { s.avl with interruptions := s.lifeS :: s.avl.interruptions } }

/-- One ns of powered time: T, D, the contributors' counters, or excluded time (R14, R389, R390). -/
def Avl.tick (a : Avl) (day : Nat) (inService : Bool) : Avl :=
  let a := { a with poweredNs := a.poweredNs + 1,
                    serviceDays := if inService then a.serviceDays.upd 0 day (· + 1) else a.serviceDays }
  if !a.started then a
  else if a.windowUntil.isSome || a.outside then { a with cur := { a.cur with excl := a.cur.excl + 1 } }
  else
    let parts := a.active.foldl (fun t x => let p := Tab.get (0, 0) t x.1; Tab.put (0, 0) t x.1 (p.1 + 1, p.2)) a.cur.parts
    { a with cur := { a.cur with t := a.cur.t + 1, d := if a.active.isEmpty then a.cur.d else a.cur.d + 1, parts := parts } }

/-- Work that keeps the device out of deep idle (R367): a hob runs, is HELD or has steps queued; a drain, fold, restore, COPY or
load is in progress; a PERTURB setting is valid; a decant or a common-cause test is under way. -/
def State.busy (s : State) : Bool :=
  (s.hobs.any fun e =>
    let z := e.2
    z.st == .running || z.st == .held || z.cow.armed || z.cow.draining || z.restore.isSome || !z.copies.isEmpty || z.loading.isSome) ||
  !s.rdrs.isEmpty || (s.perturbs.any fun e => e.2.valid) ||
  (s.racks.any fun e => e.2.receiving.isSome) || (s.expel.any fun e => e.2.test) ||
  s.cells.any fun e => e.2.hob.isSome && (s.health.get {} e.1).state == .lidded

/-- One ns of device time passes (notes/assumptions/3.md). An unpowered module keeps no time. -/
def State.tick (s : State) : State :=
  if !s.pins.pwrgd then s
  else { s with
    now := s.now + 1, life := s.life + 1, avl := s.avl.tick (s.life / (86400 * secNs)) (s.st == .service || s.st == .degraded)
    cfgs := if s.busy then { s.cfgs with idleSince := s.now + 1 } else s.cfgs }

/-! ### Placement (R6, R7, R16, R293) -/

/-- The physical column that backs logical column x of row y under gap g (R16). -/
def colOf (x g : Nat) : Nat := 9 * (x / 8) + x % 8 + (if x % 8 < g then 0 else 1)

/-- The home position of logical (x, y). -/
def State.homeOf (s : State) (x y : Nat) : Pos :=
  let r : Rack := { row := Fin.ofNat 64 y, k := Fin.ofNat 12 (x / 8) }
  { px := Fin.ofNat 108 (colOf x (s.rack r.idx).gap.toNat), py := Fin.ofNat 64 y }

/-- The logical coordinates of hob-relative cell n. -/
def Shape.xy (sh : Shape) (n : Nat) : Nat × Nat := (sh.x0 + n % sh.w, sh.y0 + n / sh.w)

/-- Number of cells of a rectangle. -/
def Shape.cells (sh : Shape) : Nat := sh.w * sh.h

/-- The hob's rectangle, an empty one where it has none. -/
def Hob.rect (h : Hob) : Shape := h.shape.getD {}

/-- The position of the logical router of cell n: it stays at home also while the cell is far (R293). -/
def State.routerPos (s : State) (h n : Nat) : Nat :=
  let xy := (s.hob h).rect.xy n
  (s.homeOf xy.1 xy.2).idx

/-- The position that carries cell n of a hob. -/
def State.posOf (s : State) (h n : Nat) : Nat :=
  match (s.hob h).fars.find? fun f => f.n == n with
  | some f => f.far
  | none => s.routerPos h n

/-- All cell numbers of a hob. -/
def State.nums (s : State) (h : Nat) : List Nat := List.range (s.hob h).rect.cells

/-- The racks that a hob's rectangle covers (R6, R238). -/
def State.racksOf (s : State) (h : Nat) : List Rack :=
  let sh := (s.hob h).rect
  (List.range sh.h).flatMap fun j => (List.range (sh.w / 8)).map fun i =>
    ({ row := Fin.ofNat 64 (sh.y0 + j), k := Fin.ofNat 12 (sh.x0 / 8 + i) } : Rack)

/-- The hob whose rectangle holds a rack. -/
def State.hobOfRack (s : State) (r : Rack) : Option Nat :=
  hobNums.find? fun h => (s.hob h).st != .free && (s.racksOf h).contains r

/-- The hob and cell number that a position carries. -/
def State.workAt (s : State) (p : Nat) : Option (Nat × Nat) :=
  match (s.cell p).hob with
  | some h => some (h, (s.cell p).n)
  | none => none

/-- States in which a position can carry work (R286). -/
def CellState.backs : CellState → Bool
  | .active | .spare | .tasting | .conditional => true
  | _ => false

/-- The code of a cell state (R286). -/
def CellState.code : CellState → Nat
  | .active => 0 | .spare => 1 | .tasting => 2 | .lidded => 3 | .conditional => 4 | .parole => 5 | .fusedOff => 6

/-- Whether a position can back a logical cell: its state, and its router and links (R68). -/
def State.usable (s : State) (p : Nat) : Bool := (s.pos p).state.backs

/-- The gap position of a rack (R16). -/
def State.gapPos (s : State) (r : Rack) : Nat := (r.pos (s.rack r.idx).gap.toNat).idx

/-- A rack's gap can take work: SPARE, or TASTING, whose test is then aborted, and not lent (R289, R299). -/
def State.gapFree (s : State) (r : Rack) : Bool :=
  let x := s.pos (s.gapPos r)
  (x.state == .spare || x.state == .tasting) && !x.lent

/-- Positions of a rack whose logical coordinates nothing backs (R297): they cannot carry work, no far position serves them, and the
rack's free gap takes the work of the first of them only. -/
def State.unbacked (s : State) (r : Rack) : List Nat :=
  let g := s.gapPos r
  let l := (r.all.map Pos.idx).filter fun p => p != g && (!s.usable p || (s.pos p).lent) &&
    !(hobNums.any fun h => (s.hob h).fars.any fun f => s.routerPos h f.n == p)
  if s.gapFree r then l.drop 1 else l

/-- A logical coordinate of a hob is VOID (R297): its position at home is one that nothing backs, or its far position cannot carry work. -/
def State.void (s : State) (h n : Nat) : Bool :=
  let p := s.posOf h n
  if p = s.routerPos h n then (s.unbacked (Pos.ofIdx p).rack).contains p else !s.usable p

/-! ### Holds (R118 to R123) -/

/-- The hob cycle counted from the step's opening fence. -/
def Clock.inStep (c : Clock) : Nat := c.cyc - c.stepStart

/-- A cause is in force. -/
def Hob.addCause (h : Hob) (now c : Nat) : Hob :=
  if h.hold.causes.contains c then h
  else { h with hold := { h.hold with
           causes := c :: h.hold.causes,
           limitFrom := if c ≤ 3 then some (h.hold.limitFrom.getD now) else h.hold.limitFrom } }

/-- A hold edge: the calendars freeze, and the hold registers record it (R119, R123). A hold in force is only extended, and the
check points that have failed on the way to the edge add their causes to it (R118, R121). -/
def Hob.freeze (h : Hob) (now cause xng : Nat) : Hob :=
  if h.hold.frozen then h
  else
    let h1 := { h with hold := { h.hold with
        frozen := true, since := now, events := h.hold.events + 1, cause := BitVec.ofNat 4 cause,
        xng := BitVec.ofNat 16 xng, atCyc := BitVec.ofNat 32 h.clk.inStep, req := none, target := none } }
    (h.hold.waits.map fun w => w.cause).foldl (fun h c => h.addCause now c) h1

/-- A cause has ended; the hob stays frozen until its release (R121). -/
def Hob.endCause (h : Hob) (c : Nat) : Hob :=
  let l := h.hold.causes.filter fun x => x != c
  { h with hold := { h.hold with causes := l, sched := h.hold.sched.filter fun x => x.1 != c, limitFrom := if l.any (fun x => x ≤ 3) then h.hold.limitFrom else none } }

/-- Whether the hob's calendars run. -/
def Hob.runs (h : Hob) : Bool := h.st == .running

/-- Hob cycles by which a hold of the hearth is named ahead (R120). -/
def holdLead : Nat := 64

/-- The hob cycle that the hearth names is reached: its causes are in force, and the hob freezes (R120). -/
def Hob.reachTarget (h : Hob) (now : Nat) : Hob :=
  let due := h.hold.sched.filter fun x => x.2 ≤ h.clk.cyc
  match due with
  | [] => h
  | d :: _ =>
    let h1 := { h with hold := { h.hold with sched := h.hold.sched.filter fun x => !due.contains x } }
    (due.foldl (fun (h : Hob) x => h.addCause now x.1) h1).freeze now d.1 0

/-- The hearth asks for a hold of a running hob, which names a hob cycle 64 ahead (R120). A hob that is held already, or between
steps, is held for the request at once (R121). -/
def State.holdFor (s : State) (h cause : Nat) : State :=
  if !(s.hob h).runs then s
  else
    let s1 := s.modHob h fun x =>
      if x.hold.causes.contains cause || x.hold.sched.any (fun y => y.1 == cause) then x
      else if x.clk.live && !x.hold.frozen then { x with hold := { x.hold with sched := x.hold.sched ++ [(cause, x.clk.cyc + holdLead)] } }
      else (x.addCause s.now cause).freeze s.now cause 0
    if cause = 5 then s1.avlStart 0 h else s1

/-- A running hob stands held for a request of the hearth whose work follows: the hob cycle that it named has come (R120). -/
def State.holdNow (s : State) (h cause : Nat) : State :=
  if !(s.hob h).runs then s
  else
    let s1 := s.modHob h fun x =>
      ({ x with hold := { x.hold with sched := x.hold.sched.filter fun y => y.1 != cause } }.addCause s.now cause).freeze s.now cause 0
    if cause = 5 then s1.avlStart 0 h else s1

/-- The hearth's request is done. -/
def State.endHold (s : State) (h cause : Nat) : State := s.modHob h fun x => x.endCause cause

/-- Lid a position (R286 to R288): a test-driven lid, and any lid after a parole, is permanent. A cell that carries no work is
reset; the hob of one that does is held until its work has moved (R290). -/
def State.lid (s : State) (p : Nat) (test : Bool) : State :=
  let x := s.pos p
  if x.state = .fusedOff || (x.state = .lidded && (!test || (x.perm && x.lidTest))) then s
  else if x.state = .lidded then (s.modPos p fun x => { x with lidTest := true, perm := true }).logDev 0x0401 0xFF [p, 1]
  else
    let s1 := (s.modPos p fun x => { x with
      state := .lidded, lidTest := test, perm := x.perm || test || x.paroled, passes := 0, lidAt := s.lifeS }).logDev 0x0401 0xFF [p, if test then 1 else 0]
    match (s.cell p).hob with
    | some h => s1.holdFor h 5
    | none => s1.setCell p {}

/-- The taster rests in deep idle and under a thermal hold (R315, R414). -/
def State.tasterPaused (s : State) : Bool := s.cfgs.tstPaused || s.damper.thermalHold

/-! ### Resets in progress (R326, R330) -/

/-- A reset starts: it is the latest one, and its timeout runs. -/
def State.beginReset (s : State) (dom idx why : Nat) : State :=
  ({ s with resets := { s.resets with
      last := BitVec.ofNat 4 dom, why := BitVec.ofNat 8 why, running := (dom, idx, s.now) :: s.resets.running } }).logDev 0x0404 0xFF [dom, idx, why]

def State.inReset (s : State) (dom idx : Nat) : Bool := s.resets.running.any fun r => r.1 == dom && r.2.1 == idx

def State.finishReset (s : State) (dom idx : Nat) : State :=
  { s with resets := { s.resets with running := s.resets.running.filter fun r => !(r.1 == dom && r.2.1 == idx) } }

/-! ### Hob states (R240) -/

/-- Change a hob's state and post the event of R231 when the reported state changes. -/
def State.setHobSt (s : State) (h : Nat) (st : HobState) : State :=
  let old := (s.hob h).reported
  let s1 := s.modHob h fun x => { x with st := st }
  let new := (s1.hob h).reported
  if old = new then s1 else s1.hobEvent h stOk new.code 0

/-- Set `HP_HOB_OVERQ`; a change of the reported state posts its event (R239). -/
def State.setOver (s : State) (h : Nat) (above : Bool) : State :=
  let old := (s.hob h).reported
  let s1 := s.modHob h fun x => { x with overq := above }
  let new := (s1.hob h).reported
  if old = new then s1 else s1.hobEvent h stOk new.code 0

/-- Change every cell of a hob. -/
def State.modCells (s : State) (h : Nat) (f : Cell → Cell) : State :=
  s.each (s.nums h) fun s n => s.modCell (s.posOf h n) f

/-- Every slot's queue generation advances (R174). -/
def Cell.advanceGens (c : Cell) : Cell :=
  [0, 1, 2, 3].foldl (fun c i => c.modSlot i fun x => { x with qgen := x.qgen + 1 }) c

/-- Complete the FENCE waits that cannot be met any more with STATE (R232). -/
def State.failWaits (s : State) (h : Nat) : State :=
  let ws := (s.hob h).fenceWaits
  let s1 := s.modHob h fun x => { x with fenceWaits := [] }
  s1.each ws fun s w => s.complete w.1 3 stState 0 0 (s.hob h).fenceLast

/-- End the run of a hob: every RUN_STEPS completes with a status, FENCE stops complete, the queue empties. -/
def State.endRun (s : State) (h status detail info0 info1 : Nat) : State :=
  let r := (s.hob h).run
  let s1 := s.modHob h fun x => { x with run := { x.run with stepsLeft := 0, refs := [], stopAt := none, breach := none, fenceStops := [] },
                                         clk := { x.clk with live := false } }
  let s2 := s1.each r.refs fun s q =>
    if status = stOk then s.complete q.ref 2 stOk 0 q.done (s.hob h).fenceLast
    else s.complete q.ref 2 status detail info0 info1
  s2.each r.fenceStops fun s q => s.complete q 3 stOk 0 0 (s.hob h).fenceLast

/-- The hob enters STOPPED: its run ends, its queue generations advance and its FENCE waits fail (R174, R232, R240). -/
def State.stopHob (s : State) (h status detail info0 info1 : Nat) : State :=
  let s1 := (s.endRun h status detail info0 info1).setHobSt h .stopped
  let s2 := s1.modHob h fun x => { x with hold := { x.hold with causes := [], sched := [], waits := [], req := none, target := none, frozen := false, limitFrom := none } }
  ((s2.modCells h Cell.advanceGens).failWaits h).avlStop 1 h |>.avlStop 0 h

/-- A report sequence number (R280, R298). -/
def State.nextReport (s : State) : Nat × State :=
  (s.hearth.reportSeq, { s with hearth := { s.hearth with reportSeq := s.hearth.reportSeq + 1 } })

/-- Keep a report of a hob and post its event (R231). -/
def State.report (s : State) (h status seq : Nat) (bytes : List Byte) : State :=
  (s.modHob h fun x => { x with reports := x.reports ++ [{ seq := seq, bytes := bytes }] }).hobEvent h status 0 seq

/-- The bytes of a report with its CRC-32C at offset `off` (R280, R298). -/
def withCrc (bs : List Byte) (off : Nat) : List Byte :=
  let z := bs.take off ++ zeroBytes 4 ++ bs.drop (off + 4)
  z.take off ++ leBytes 4 (crc32c z).toNat ++ z.drop (off + 4)

/-- An ECC_UE report (R281): source 1 read, 2 stored poison, 3 scrub, 4 home copy. -/
def State.eccReport (s : State) (h : Nat) (lines : List EccLine) : State :=
  let (q, s1) := s.nextReport
  let head := leBytes 8 q ++ leBytes 1 2 ++ leBytes 1 h ++ zeroBytes 0x26 ++ leBytes 4 lines.length ++ zeroBytes 12
  let entries := lines.flatMap fun l =>
    leBytes 8 l.addr ++ leBytes 1 l.source ++ leBytes 1 l.stack ++ leBytes 2 l.cell ++ leBytes 4 l.xng
  s1.report h stEccUe q (withCrc (head ++ entries) 0x38)

/-! ### Stack memory (R189 to R193, R201, R206, R210) -/

/-- The size of one stack (R189). -/
def stackBytes : Nat := 96000000000

/-- Whether a device physical address has memory behind it (R189). -/
def devAddrOk (a : Nat) : Bool := bits 47 41 a == 0 && bits 40 37 a < 12 && bits 36 0 a < stackBytes

/-- Key of a hob extent in `Hob.ext`: stack × 352 + extent. -/
def extKey (stack ext : Nat) : Nat := stack * 352 + ext

/-- The stack a hob-relative address names. -/
def relStack (a : Nat) : Nat := bits 40 37 a

/-- Device physical address of a hob-relative byte address; none where its extent is not mapped (R192, R193). -/
def Hob.devAddr (h : Hob) (a : Nat) : Option Nat :=
  let st := relStack a
  let ex := bits 36 28 a
  if a / 2 ^ 41 = 0 && st < 12 && ex < 352 then
    let e := h.ext.get {} (extKey st ex)
    if e.valid then some (st * 2 ^ 37 + e.dev.toNat * 2 ^ 28 + bits 27 0 a) else none
  else none

/-- Key of a 64 KiB page in the redirect table: stack and stack offset bits [36:16] (R214). -/
def pageKey (dev : Nat) : Nat := bits 40 16 dev

/-- Device address of shadow page `n` of a stack (R190). -/
def shadowAddr (stack n : Nat) : Nat := stack * 2 ^ 37 + 0x1600000000 + n * 65536

/-- The redirect table in both copies (R214). -/
def State.setRdrs (s : State) (t : Tab Rdr) : State := { s with rdrs := t, rdrs6 := t }

/-- Where an access to a device address goes under the redirect table: the shadow when its block's mask bit is set (R210). -/
def State.redirect (s : State) (dev : Nat) : Nat :=
  match (s.rdrs.find? fun e => e.1 == pageKey dev) with
  | some (_, r) => if bit (bits 15 12 dev) r.bmask.toNat then shadowAddr (bits 40 37 dev) r.shadow + bits 15 0 dev else dev
  | none => dev

/-- One byte of stack memory under a key: a line that was encrypted under another key gives free bytes (R206, R208). -/
def State.memByte (s : State) (key dev : Nat) : Byte :=
  if (s.lines.get {} (dev / 64)).key = key then Tab.get 0 s.mem dev else Config.foreignByte key dev

/-- `n` bytes of stack memory from a device address. -/
def State.memBytes (s : State) (key dev n : Nat) : List Byte := (List.range n).map fun i => s.memByte key (dev + i)

/-- Write bytes, in order, from a byte address. -/
def putBytes (m : List Host.Cell) (a : Nat) : List Byte → List Host.Cell
  | [] => m
  | b :: bs => putBytes (Tab.put 0 m a b) (a + 1) bs

/-- Store one whole 64 B line under a key with fresh check bytes (R202). -/
def State.putLine (s : State) (key dev : Nat) (data : List Byte) (poison : Bool) : State :=
  let a := dev / 64 * 64
  { s with mem := putBytes s.mem a (bytesAt data 0 64), lines := s.lines.put {} (dev / 64) { key := key, poison := poison },
           errs := s.errs.erase (dev / 64) }

/-- The 64 B lines of a byte run: index and bytes. -/
def chunks64 (data : List Byte) : List (Nat × List Byte) :=
  (List.range ((data.length + 63) / 64)).map fun i => (i, bytesAt data (64 * i) 64)

/-- Store a run of whole lines; `poisoned` names the lines stored poisoned. -/
def State.putLines (s : State) (key dev : Nat) (data : List Byte) (poisoned : Nat → Bool) : State :=
  s.each (chunks64 data) fun s c => s.putLine key (dev + 64 * c.1) c.2 (poisoned c.1)

/-- Zeros with valid check bytes over an extent (R208): its lines hold no key and no data. -/
def State.zeroRange (s : State) (dev len : Nat) : State :=
  { s with mem := s.mem.filter fun c => !(dev ≤ c.1 && c.1 < dev + len),
           lines := s.lines.filter fun l => !(dev / 64 ≤ l.1 && l.1 < (dev + len) / 64),
           errs := s.errs.filter fun l => !(dev / 64 ≤ l.1 && l.1 < (dev + len) / 64) }

/-- The stacks. -/
def stackNums : List Nat := List.range 12

/-! ### Licences in force (R2, R3, R382) -/

/-- The highest value an item takes among the installed licences, or the value of R2; R2 holds while the store is unreadable. -/
def Hearth.item (x : Hearth) (f : Licence → Nat) (base : Nat) : Nat :=
  if x.licBad then base else x.licences.foldl (fun m l => max m (f l)) base

def Hearth.cellLimit (x : Hearth) : Nat :=
  match x.item (fun l => l.tier) 0 with
  | 0 => 3072
  | 1 => 4608
  | _ => 6144

def Hearth.hobLimit (x : Hearth) : Nat := x.item (fun l => l.hobs) 2
def Hearth.portLimit (x : Hearth) : Nat := x.item (fun l => l.ports) 4
def Hearth.narrow (x : Hearth) : Bool := x.item (fun l => if l.narrow then 1 else 0) 0 == 1
def Hearth.peerJars (x : Hearth) : Bool := x.item (fun l => if l.peer then 1 else 0) 0 == 1

/-- Cells that hobs may hold: the licence's limit, and 3,072 while the fuse map is invalid (R393). -/
def State.cellLimit (s : State) : Nat :=
  if s.boot.fminv then min 3072 s.hearth.cellLimit else s.hearth.cellLimit

/-- The meaning of a finished command: a next state. -/
def done (s : State) : Res := .next s

/-! ### Packets to other devices (R250, R259, R260) -/

/-- A parked port relights (R259). -/
def State.relight (s : State) (p : Nat) : State :=
  let x := s.lnp p
  if x.parked && !x.fenced && !x.resetting then s.setLnp p { x with parked := false, relighting := true, st := .training, since := s.now } else s

/-- A request that this module served gives back its place (R250). -/
def State.endServe (s : State) (f : Frame) : State :=
  match f.serves with
  | some (p, e) => s.modLnp p fun x => { x with served := x.served.erase e }
  | none => s

/-- A packet of this module's own leaves by the port that the route of its destination names, which relights if it is parked
(R259, R260). With no valid route it is discarded; which port counts it the spec leaves open: DESIGN CHOICE, the one it was made for
(notes/assumptions/89.md). -/
def State.sendPacket (s : State) (via : Nat) (f : Frame) : State :=
  match s.hearth.routes.get none f.dest with
  | some q => (s.relight q.toNat).modLnp q.toNat fun x => { x with txQueue := x.txQueue ++ [{ f with origin := s.hearth.devIdLive.toNat }] }
  | none => (s.endServe f).modLnp via fun x => { x with drops := satInc x.drops }

end Sys2Proof.Machine
end

