-- ==== Sys2Proof/Machine/Fabric.lean ====
section
/-! DEFINITION. The wires between positions, the edge stops and the rim (01_fabric.md R18 to R27). -/

namespace Sys2Proof.Machine

open Sys2Proof

/-! ### Mesh links (R18) -/

/-- The code of a link by the columns and rows it crosses, at most three columns and one row: (rows + 1) × 7 + columns + 3. -/
def linkCode (dx dy : Int) : Nat := ((dy + 1) * 7 + dx + 3).toNat

/-- The link to the north or south edge stop of a position, and to the west or east stop of its row. -/
def edgeLinkNS : Nat := 21
def edgeLinkWE : Nat := 22

/-- The wires of one row (R18): step, skip inside a rack, and the four seam pairings. -/
def rowLink (a b : Nat) : Bool :=
  let lo := min a b
  let hi := max a b
  hi == lo + 1 || (hi == lo + 2 && lo / 9 == hi / 9) || (decide (7 ≤ lo % 9) && decide (hi % 9 ≤ 1) && hi / 9 == lo / 9 + 1)

/-- Whether a wire joins two positions (R18): the wires of a row, and straight, left and right wires between rows. -/
def linked (p q : Pos) : Bool :=
  let dy := max p.py.val q.py.val - min p.py.val q.py.val
  let dx := max p.px.val q.px.val - min p.px.val q.px.val
  (dy == 0 && dx != 0 && rowLink p.px.val q.px.val) ||
  (dy == 1 && (dx == 0 || (dx == 1 && p.px.val / 9 == q.px.val / 9)))

/-- The position at the other end of a link; none where the die has no such link, and for an edge link. -/
def linkTo (p : Pos) (code : Nat) : Option Pos :=
  if code ≥ 21 then none
  else
    let x : Int := (p.px.val : Int) + ((code % 7 : Nat) : Int) - 3
    let y : Int := (p.py.val : Int) + ((code / 7 : Nat) : Int) - 1
    if 0 ≤ x ∧ x < 108 ∧ 0 ≤ y ∧ y < 64 then
      let q : Pos := { px := Fin.ofNat 108 x.toNat, py := Fin.ofNat 64 y.toNat }
      if linked p q then some q else none
    else none

/-- The same wires from the other end. -/
def linkBack (code : Nat) : Nat := 20 - code

/-- The links of a position in R18, by code. -/
def linksOf (p : Pos) : List Nat :=
  (List.range 21).filter (fun c => (linkTo p c).isSome) ++
  (if p.py.val = 0 ∨ p.py.val = 63 then [edgeLinkNS] else []) ++
  (if p.px.val ≤ 1 ∨ 106 ≤ p.px.val then [edgeLinkWE] else [])

/-- The logical neighbour in a direction; none past the die's edge. -/
def neighbour (x y : Nat) : Dir → Option (Nat × Nat)
  | .north => if y = 0 then none else some (x, y - 1)
  | .south => if y ≥ 63 then none else some (x, y + 1)
  | .west => if x = 0 then none else some (x - 1, y)
  | .east => if x ≥ 95 then none else some (x + 1, y)
  | .loc => none

/-- The physical link that a logical output of the router of logical (x, y) drives under the shifts in force (R18, R20). -/
def State.linkOf (s : State) (x y : Nat) (out : Dir) : Nat :=
  let p := s.homeOf x y
  match neighbour x y out with
  | some (x', y') =>
    let q := s.homeOf x' y'
    linkCode ((q.px.val : Int) - p.px.val) ((q.py.val : Int) - p.py.val)
  | none => match out with
    | .north | .south => edgeLinkNS
    | _ => edgeLinkWE

/-- Hob cycles of a hop from logical (x, y): 2, or 3 across a stitch line (R19, R20). -/
def hopCycles (x y : Nat) : Dir → Nat
  | .east => if x = 47 then 3 else 2
  | .west => if x = 48 then 3 else 2
  | .south => if y = 31 then 3 else 2
  | .north => if y = 32 then 3 else 2
  | .loc => 1

/-! ### Edge stops (R24, R25, R27, R33) -/

/-- One of the 344 edge stops: edge 0 north and 1 south by physical column, 2 west and 3 east by row. -/
structure EdgeStop where
  edge : Fin 4 := 0
  at_ : Nat := 0
  deriving DecidableEq, Repr

/-- All edge stops (R24). -/
def edgeStops : List EdgeStop :=
  ([0, 1].flatMap fun e => (List.range 108).map fun i => ({ edge := e, at_ := i } : EdgeStop)) ++
  ([2, 3].flatMap fun e => (List.range 64).map fun i => ({ edge := e, at_ := i } : EdgeStop))

/-- The positions that an edge stop is wired to (R18, R24). -/
def EdgeStop.wired (t : EdgeStop) : List Pos :=
  match t.edge with
  | 0 => [{ px := Fin.ofNat 108 t.at_, py := 0 }]
  | 1 => [{ px := Fin.ofNat 108 t.at_, py := 63 }]
  | 2 => [{ px := 0, py := Fin.ofNat 64 t.at_ }, { px := 1, py := Fin.ofNat 64 t.at_ }]
  | 3 => [{ px := 106, py := Fin.ofNat 64 t.at_ }, { px := 107, py := Fin.ofNat 64 t.at_ }]

/-- A rim interface of the mesh (R24, R33): edge 0 north, 1 south, 2 west, 3 east, and its group or row. -/
structure Stop where
  edge : Nat := 0
  stop : Nat := 0
  deriving DecidableEq, Repr

/-- The rim interface of an edge stop: the nine stops above a rack share their group's (R24). -/
def EdgeStop.iface (t : EdgeStop) : Stop := { edge := t.edge.val, stop := if t.edge.val ≤ 1 then t.at_ / 9 else t.at_ }

/-- Groups k of the north and south edges, rows of the west and east edges, in edge index order (R33). -/
def allStops : List Stop :=
  ([0, 1].flatMap fun e => (List.range 12).map fun k => ({ edge := e, stop := k } : Stop)) ++
  ([2, 3].flatMap fun e => (List.range 64).map fun k => ({ edge := e, stop := k } : Stop))

/-- The edge stop that the router of logical (x, y) drives past the die's edge: that of its physical column, or of its row (R25). -/
def State.edgeStopOf (s : State) (x y : Nat) (out : Dir) : Option EdgeStop :=
  match neighbour x y out, out with
  | some _, _ => none
  | none, .north => some { edge := 0, at_ := (s.homeOf x y).px.val }
  | none, .south => some { edge := 1, at_ := (s.homeOf x y).px.val }
  | none, .west => some { edge := 2, at_ := y }
  | none, .east => some { edge := 3, at_ := y }
  | none, .loc => none

/-- The rim interface through which a router at the die's edge leaves in a direction. -/
def exitStop (x y : Nat) : Dir → Stop
  | .north => { edge := 0, stop := x / 8 }
  | .south => { edge := 1, stop := x / 8 }
  | .west => { edge := 2, stop := y }
  | _ => { edge := 3, stop := y }

/-- The number of an interface in edge index order. -/
def Stop.index (t : Stop) : Nat :=
  match t.edge with
  | 0 => t.stop
  | 1 => 12 + t.stop
  | 2 => 24 + t.stop
  | _ => 88 + t.stop

/-- Rim node of an interface (R27). -/
def Stop.node (t : Stop) : Nat :=
  match t.edge with
  | 0 => 1 + t.stop / 2
  | 1 => 22 - t.stop / 2
  | 2 => 31 - t.stop / 8
  | _ => 8 + t.stop / 8

/-- Rim node of client c of the distance table: S0 to S11, L0 to L15, H0 to H3, the hearth link, the pantry (R27, R32). -/
def clientNode (c : Nat) : Nat :=
  if c < 6 then 1 + c
  else if c < 12 then 28 - c
  else if c < 20 then 31 - (c - 12)
  else if c < 28 then c - 12
  else match c with
    | 28 => 0 | 29 => 7 | 30 => 23 | 31 => 16 | 32 => 0 | _ => 16

/-! ### The rim (R26) -/

/-- The two rings. -/
inductive Ring2 where
  | clockwise | anticlockwise
  deriving DecidableEq, Repr

/-- Node hops from a to b round one ring: nodes are numbered clockwise (R27). -/
def ringHops (ring : Ring2) (a b : Nat) : Nat :=
  match ring with
  | .clockwise => (b + 32 - a) % 32
  | .anticlockwise => (a + 32 - b) % 32

/-- The ring that carries a packet: the one with fewer node hops, clockwise on a tie (R26). -/
def ringFor (a b : Nat) : Ring2 := if ringHops .clockwise a b ≤ ringHops .anticlockwise a b then .clockwise else .anticlockwise

/-- Rim node hops on the ring that carries the packet. -/
def nodeHops (a b : Nat) : Nat := ringHops (ringFor a b) a b

/-- The nodes that a packet passes from node a to node b, both included. -/
def ringPath (a b : Nat) : List Nat :=
  (List.range (nodeHops a b + 1)).map fun i => match ringFor a b with
    | .clockwise => (a + i) % 32
    | .anticlockwise => (a + 32 - i) % 32

/-- The number of an edge stop in the order of R24. -/
def EdgeStop.index (t : EdgeStop) : Nat :=
  match t.edge with
  | 0 => t.at_
  | 1 => 108 + t.at_
  | 2 => 216 + t.at_
  | 3 => 280 + t.at_

/-! ### The stop that serves a cell (R33) -/

/-- The logical cell at which a route from column x leaves for a stop. -/
def Stop.exit (t : Stop) (x : Nat) : Nat × Nat :=
  let near := max (8 * t.stop) (min x (8 * t.stop + 7))
  match t.edge with
  | 0 => (near, 0)
  | 1 => (near, 63)
  | 2 => (0, t.stop)
  | _ => (95, t.stop)

/-- Mesh cycles from (x, y) to a stop, the edge hop included: 2n + s (R20, R25). -/
def Stop.meshCyc (t : Stop) (x y : Nat) : Nat :=
  let (a, b) := t.exit x
  let n := (max x a - min x a) + (max y b - min y b) + 1
  let s := (if decide (x ≤ 47) = decide (a ≤ 47) then 0 else 1) + (if decide (y ≤ 31) = decide (b ≤ 31) then 0 else 1)
  2 * n + s

/-- Whether a stop may serve a client: stacks and Lanper ports only at an attached stop (R33). -/
def Stop.serves (t : Stop) (c : Nat) : Bool := c ≥ 28 || t.node == clientNode c

/-- The better of two stops for a cell and client; the earlier one on a full tie. -/
def Stop.better (x y c : Nat) (a b : Stop) : Stop :=
  let ka := (a.meshCyc x y, if c < 28 then 0 else nodeHops a.node (clientNode c))
  let kb := (b.meshCyc x y, if c < 28 then 0 else nodeHops b.node (clientNode c))
  if kb.1 < ka.1 || (kb.1 == ka.1 && kb.2 < ka.2) then b else a

/-- The stop that R33 gives a cell for a client. -/
def stopFor (x y c : Nat) : Stop :=
  match allStops.filter fun t => t.serves c with
  | [] => {}
  | t :: ts => ts.foldl (Stop.better x y c) t

/-- The direction in which a route leaves the mesh for a stop. -/
def Stop.dir (t : Stop) : Dir :=
  match t.edge with
  | 0 => .north
  | 1 => .south
  | 2 => .west
  | _ => .east

/-- The edge stop that packets of logical (x, y) for a client pass (R24, R33). -/
def State.singleStop (s : State) (x y c : Nat) : Option EdgeStop :=
  let t := stopFor x y c
  let e := t.exit x
  s.edgeStopOf e.1 e.2 t.dir

/-! ### Provoked delays (R324) -/

/-- Time of RCLK cycles, in ns (R26). -/
def rclkNs (n : Nat) : Nat := (5 * n + 7) / 8

/-- What the delay settings of a TEST hob add to one packet between logical (x, y) and a client: it waits once at each target stop or
node that its path includes (R324). -/
def State.pathDelay (s : State) (h x y c : Nat) : Nat :=
  let nodes := ringPath (stopFor x y c).node (clientNode c)
  let stop := (s.singleStop x y c).map EdgeStop.index
  s.perturbs.foldl (fun n e =>
    let q := e.2
    let met := (q.ttype.toNat == 1 && stop == some q.tidx.toNat) || (q.ttype.toNat == 2 && nodes.contains q.tidx.toNat)
    if q.valid && q.kind.toNat == 1 && q.hob.toNat == h && met then n + rclkNs (q.param.toNat % 256) else n) 0

/-- Whether a packet that left at a device time still waits in the delay buffers it has met (R324). -/
def State.delayed (s : State) (since delay : Nat) : Bool := delay != 0 && decide (s.now < since + delay)

end Sys2Proof.Machine
end

