-- ==== Sys2Proof/Machine/Float.lean ====
section
/-! DEFINITION. The number formats of 03_arithmetic.md (R70): exact values, decoding, rounding to nearest even and
stochastic rounding (R92), encoding, and the exact operations that every unit rounds once. -/

namespace Sys2Proof.Machine

/-- An exact value: NaN, an infinity, or plus or minus m × 2^e (m = 0 is a signed zero). -/
inductive Val where
  | nan
  | inf (neg : Bool)
  | fin (neg : Bool) (m : Nat) (e : Int)
  deriving DecidableEq, Repr

/-- Which encodings with the largest exponent are special (R70): all of them, only the last NaN, or none. -/
inductive Special where
  | ieee | lastNan | none
  deriving DecidableEq, Repr

/-- A floating-point format: exponent bits, fraction bits, bias, special values and the NaN that the FC6 writes (R70). -/
structure Fmt where
  eb : Nat
  mb : Nat
  bias : Nat
  special : Special
  nan : Nat
  deriving DecidableEq, Repr

def fp32 : Fmt := { eb := 8, mb := 23, bias := 127, special := .ieee, nan := 0x7FC00000 }
def fp64 : Fmt := { eb := 11, mb := 52, bias := 1023, special := .ieee, nan := 0x7FF8000000000000 }
def bf16 : Fmt := { eb := 8, mb := 7, bias := 127, special := .ieee, nan := 0x7FC0 }
def fp16 : Fmt := { eb := 5, mb := 10, bias := 15, special := .ieee, nan := 0x7E00 }
def e4m3 : Fmt := { eb := 4, mb := 3, bias := 7, special := .lastNan, nan := 0x7F }
def e5m2 : Fmt := { eb := 5, mb := 2, bias := 15, special := .ieee, nan := 0x7F }
def e3m2 : Fmt := { eb := 3, mb := 2, bias := 3, special := .none, nan := 0 }
def e2m3 : Fmt := { eb := 2, mb := 3, bias := 1, special := .none, nan := 0 }
def e2m1 : Fmt := { eb := 2, mb := 1, bias := 1, special := .none, nan := 0 }

/-- Bits of an encoding. -/
def Fmt.width (f : Fmt) : Nat := 1 + f.eb + f.mb

/-- The exponent of the least subnormal: every finite value is a multiple of two to it. -/
def Fmt.emin (f : Fmt) : Int := 1 - (f.bias : Int) - (f.mb : Int)

/-- The value of an encoding (R70, R71: subnormals at their full value). -/
def Fmt.decode (f : Fmt) (n : Nat) : Val :=
  let neg := bit (f.eb + f.mb) n
  let ex := bits (f.eb + f.mb - 1) f.mb n
  let fr := n % 2 ^ f.mb
  let top := ex == 2 ^ f.eb - 1
  if f.special = .ieee && top then (if fr = 0 then .inf neg else .nan)
  else if f.special = .lastNan && top && fr = 2 ^ f.mb - 1 then .nan
  else if ex = 0 then .fin neg fr f.emin
  else .fin neg (2 ^ f.mb + fr) ((ex : Int) - 1 + f.emin)

/-- m × 2^e at the smaller exponent `q`: an exact integer when q ≤ e. -/
def atExp (m : Nat) (e q : Int) : Nat := m * 2 ^ (e - q).toNat

/-- Floor of the binary logarithm of m × 2^e, m > 0. -/
def floorLog (m : Nat) (e : Int) : Int := (Nat.log2 m : Int) + e

/-- How to round: to nearest even, or stochastically with a 16-bit random number (R92). -/
inductive Rnd where
  | rne
  | stoch (u : Nat)
  deriving DecidableEq, Repr

/-- Whether a magnitude `lo` + rem / 2^k of units rounds up. -/
def Rnd.up (r : Rnd) (lo rem k : Nat) : Bool :=
  match r with
  | .rne => decide (2 * rem > 2 ^ k) || (2 * rem == 2 ^ k && lo % 2 == 1)
  | .stoch u => decide (rem * 65536 / 2 ^ k + u ≥ 65536)

/-- Round m × 2^e onto a format's grid: the result is n × 2^q (R70, R92). A value on the grid never moves. -/
def Fmt.grid (f : Fmt) (r : Rnd) (m : Nat) (e : Int) : Nat × Int :=
  if m = 0 then (0, f.emin)
  else
    let q := max (floorLog m e - f.mb) f.emin
    if q ≤ e then (atExp m e q, q)
    else
      let k := (q - e).toNat
      let lo := m / 2 ^ k
      let rem := m % 2 ^ k
      (if rem ≠ 0 && r.up lo rem k then lo + 1 else lo, q)

/-- The largest finite magnitude as m × 2^e. -/
def Fmt.largest (f : Fmt) : Nat × Int :=
  match f.special with
  | .ieee => (2 ^ (f.mb + 1) - 1, (2 ^ f.eb - 3 : Nat) + f.emin)
  | .lastNan => (2 ^ (f.mb + 1) - 2, (2 ^ f.eb - 2 : Nat) + f.emin)
  | .none => (2 ^ (f.mb + 1) - 1, (2 ^ f.eb - 2 : Nat) + f.emin)

/-- Whether n × 2^q exceeds the largest finite magnitude. -/
def Fmt.tooBig (f : Fmt) (n : Nat) (q : Int) : Bool :=
  let l := f.largest
  let e := min q l.2
  decide (atExp n q e > atExp l.1 l.2 e)

/-- The sign bit of an encoding. -/
def Fmt.sign (f : Fmt) (neg : Bool) : Nat := if neg then 2 ^ (f.eb + f.mb) else 0

/-- The encoding of a grid value n × 2^q within range. -/
def Fmt.pack (f : Fmt) (neg : Bool) (n : Nat) (q : Int) : Nat :=
  let (n, q) := if n = 2 ^ (f.mb + 1) then (2 ^ f.mb, q + 1) else (n, q)
  f.sign neg + (if n < 2 ^ f.mb then n else (q - f.emin + 1).toNat * 2 ^ f.mb + (n - 2 ^ f.mb))

/-- The encoding of an infinity. -/
def Fmt.infBits (f : Fmt) (neg : Bool) : Nat := f.sign neg + (2 ^ f.eb - 1) * 2 ^ f.mb

/-- Round a value once into a format with infinities: overflow gives an infinity, underflow subnormals or a signed
zero, NaN the NaN of R70 (R77, R80, R90). -/
def Fmt.encode (f : Fmt) (r : Rnd) (v : Val) : Nat :=
  match v with
  | .nan => f.nan
  | .inf neg => f.infBits neg
  | .fin neg m e =>
    let g := f.grid r m e
    if f.tooBig g.1 g.2 then f.infBits neg else f.pack neg g.1 g.2

/-- Round a finite value into an element format that saturates (R91). -/
def Fmt.encodeSat (f : Fmt) (r : Rnd) (neg : Bool) (m : Nat) (e : Int) : Nat :=
  let g := f.grid r m e
  if f.tooBig g.1 g.2 then f.pack neg f.largest.1 f.largest.2 else f.pack neg g.1 g.2

def Val.isNan : Val → Bool
  | .nan => true
  | _ => false

def Val.isFin : Val → Bool
  | .fin _ _ _ => true
  | _ => false

def Val.neg : Val → Bool
  | .nan => false
  | .inf n => n
  | .fin n _ _ => n

def Val.isZero : Val → Bool
  | .fin _ m _ => m == 0
  | _ => false

/-- The exact product (R74): the sign is the exclusive OR, zero times infinity is NaN. -/
def Val.mul : Val → Val → Val
  | .nan, _ => .nan
  | _, .nan => .nan
  | .inf a, .inf b => .inf (a != b)
  | .inf a, .fin b m _ => if m = 0 then .nan else .inf (a != b)
  | .fin a m _, .inf b => if m = 0 then .nan else .inf (a != b)
  | .fin a m e, .fin b n f => .fin (a != b) (m * n) (e + f)

/-- A finite value as an integer multiple of 2^q, q ≤ e. -/
def signedAt (neg : Bool) (m : Nat) (e q : Int) : Int := if neg then -(atExp m e q : Int) else atExp m e q

/-- The exact sum (R80): opposite operands give +0, −0 + −0 is −0, infinities of both signs NaN. -/
def Val.add : Val → Val → Val
  | .nan, _ => .nan
  | _, .nan => .nan
  | .inf a, .inf b => if a = b then .inf a else .nan
  | .inf a, .fin _ _ _ => .inf a
  | .fin _ _ _, .inf b => .inf b
  | .fin a m e, .fin b n f =>
    if m = 0 && n = 0 then .fin (a && b) 0 (min e f)
    else
      let q := min e f
      let t := signedAt a m e q + signedAt b n f q
      .fin (decide (t < 0)) t.natAbs q

/-- A value times a power of two. -/
def Val.scale (k : Int) : Val → Val
  | .fin n m e => .fin n m (e + k)
  | v => v

/-- The value of an FP32 word, and a value rounded once to FP32 with RNE. -/
def f32 (w : W32) : Val := fp32.decode w.toNat
def toF32 (v : Val) : W32 := BitVec.ofNat 32 (fp32.encode .rne v)

/-- One fused multiply-add in FP32, rounded once (R96). -/
def fma32 (a b c : W32) : W32 := toF32 (((f32 a).mul (f32 b)).add (f32 c))

def add32 (a b : W32) : W32 := toF32 ((f32 a).add (f32 b))
def mul32 (a b : W32) : W32 := toF32 ((f32 a).mul (f32 b))

/-- The order of R88 on FP32 words that are not NaN: −0 below +0. -/
def ordKey (w : W32) : Int :=
  let m : Int := (w.toNat % 2 ^ 31 : Nat)
  if bit 31 w.toNat then -m - 1 else m

def isNan32 (w : W32) : Bool := (f32 w).isNan

/-- The canonical NaN in place of any other (R71). -/
def canon32 (w : W32) : W32 := if isNan32 w then 0x7FC00000 else w

/-- An integer element. -/
def intVal (w n : Nat) : Val :=
  let v := signed w n
  .fin (decide (v < 0)) v.natAbs 0

end Sys2Proof.Machine
end

