-- ==== Sys2Proof/Machine/Epilogue.lean ====
section
/-! DEFINITION. The epilogue's three stages (R86 to R93) and the vector unit's lanes (R39, R96, R148). -/

namespace Sys2Proof.Machine

/-! ### The tables of R89 -/

/-- Fraction bits of the fixed-point numbers with which the exact values of GELU and SiLU are formed. -/
def fxW : Nat := 400

/-- 1 in fixed point. -/
def fxOne : Nat := 2 ^ fxW

def fxMul (a b : Nat) : Nat := a * b / fxOne

/-- Terms of e^(−x) = Σ (−x)^n / n!, as sums of even and odd terms, for x below 1/2. -/
def fxExpTerms (x : Nat) : Nat → Nat → Nat → Nat → Nat
  | 0, _, _, acc => acc
  | fuel + 1, n, term, acc =>
    let t := fxMul term x / n
    fxExpTerms x fuel (n + 1) t (if n % 2 = 1 then acc - t else acc + t)

/-- Repeated squaring. -/
def fxSquares (x : Nat) : Nat → Nat
  | 0 => x
  | n + 1 => fxSquares (fxMul x x) n

/-- e^(−x) in fixed point, x ≥ 0 below 256. -/
def fxExpNeg (x : Nat) : Nat := fxSquares (fxExpTerms (x / 512) 90 1 fxOne fxOne) 9

/-- arctan(1/k) in fixed point by its series. -/
def fxAtan (k : Nat) : Nat :=
  (List.range 300).foldl (fun acc i =>
    let t := fxOne / (k ^ (2 * i + 1) * (2 * i + 1))
    if i % 2 = 0 then acc + t else acc - t) 0

/-- π in fixed point (Machin's formula), and √(2/π). -/
def fxPi : Nat := 16 * fxAtan 5 - 4 * fxAtan 239
def fxSqrt2Pi : Nat := Nat.sqrt (2 * fxOne * fxOne / fxPi * fxOne)

/-- |y| × σ(z) for z of sign `zneg` and magnitude `zm` (fixed point), with |y| = yn / 2^yk: y / (1 + e^(−z)). -/
def fxLogistic (yn yk : Nat) (zneg : Bool) (zm : Nat) : Nat :=
  let q := fxExpNeg zm
  let num := if zneg then q else fxOne
  yn * num * fxOne / ((fxOne + q) * 2 ^ yk)

/-- The two tabulated functions. -/
inductive Act where
  | gelu | silu
  deriving DecidableEq, Repr

/-- lo = −lim and hi = lim (R89). -/
def Act.lim : Act → Nat
  | .gelu => 8
  | .silu => 32

/-- The segment width is 2^−h (R89). -/
def Act.h : Act → Nat
  | .gelu => 5
  | .silu => 3

/-- The exact value of f at n / 2^(h + 1), to `fxW` fraction bits, in the forms of R88 (0.5 (1 + tanh u) = 1 / (1 + e^(−2u))). -/
def Act.exact (a : Act) (n : Int) : Val :=
  let k := a.h + 1
  let yn := n.natAbs
  let y := yn * fxOne / 2 ^ k
  let z := match a with
    | .silu => y
    | .gelu => 2 * fxMul fxSqrt2Pi (y + fxMul (fxMul y y) y * 44715 / 1000000)
  let neg := decide (n < 0)
  .fin neg (fxLogistic yn k neg z) (-(fxW : Int))

/-- Round once to FP64 with RNE, as a value. -/
def to64 (v : Val) : Val := fp64.decode (fp64.encode .rne v)

def Val.negate : Val → Val
  | .nan => .nan
  | .inf n => .inf (!n)
  | .fin n m e => .fin (!n) m e

def sub64 (a b : Val) : Val := to64 (a.add b.negate)

/-- The coefficients c0, c1 and c2 of segment k (R89). -/
def Act.coeffs (a : Act) (k : Nat) : W32 × W32 × W32 :=
  let n : Int := 2 * ((k : Int) - 256)
  let v0 := to64 (a.exact n)
  let v1 := to64 (a.exact (n + 1))
  let v2 := to64 (a.exact (n + 2))
  let d1 := to64 ((sub64 v1 v0).scale (a.h + 1))
  let d2 := to64 ((sub64 v2 v1).scale (a.h + 1))
  let c2 := to64 ((sub64 d2 d1).scale a.h)
  let c1 := sub64 d1 (to64 (c2.scale (-((a.h : Int) + 1))))
  (toF32 v0, toF32 c1, toF32 c2)

/-- The floor of a finite value times 2^k. -/
def Val.floorMul (k : Nat) : Val → Int
  | .fin neg m e =>
    let q := e + k
    if 0 ≤ q then signedAt neg m q 0
    else
      let d := 2 ^ (-q).toNat
      if neg then -((m + d - 1) / d : Nat) else ((m / d : Nat) : Int)
  | _ => 0

/-- One value through a tabulated activation (R89). R89 calls t = y − a_k exact in FP32, which it is not for a tiny negative y
(segment 255): DESIGN CHOICE, t is then rounded to FP32 to nearest even (notes/assumptions/82.md). -/
def Act.eval (a : Act) (y : W32) : W32 :=
  let v := f32 y
  let lo : W32 := toF32 (.fin true a.lim 0)
  let hi : W32 := toF32 (.fin false a.lim 0)
  if v.isNan then 0x7FC00000
  else if bits 30 23 y.toNat = 0 then toF32 (v.scale (-1))
  else if ordKey y ≥ ordKey hi then y
  else if ordKey y < ordKey lo then 0x80000000
  else
    let k := (v.floorMul a.h + (a.lim : Int) * 2 ^ a.h).toNat
    let ak : Val := .fin (decide (k < 256)) ((k : Int) - 256).natAbs (-(a.h : Int))
    let t := toF32 (v.add ak.negate)
    let c := a.coeffs k
    fma32 (fma32 c.2.2 t c.2.1) t c.1

/-- Stage 2 (R87, R88): 0 none, 1 ReLU, 2 clamp, 3 GELU, 4 SiLU. −0 counts as less than +0. -/
def activate (act : Nat) (lo hi y : W32) : W32 :=
  if isNan32 y then 0x7FC00000
  else match act with
    | 1 => if ordKey y < 0 then 0 else y
    | 2 =>
      let m := if ordKey y < ordKey lo then lo else y
      if ordKey hi < ordKey m then hi else m
    | 3 => Act.gelu.eval y
    | 4 => Act.silu.eval y
    | _ => y

/-! ### Stochastic rounding (R93) -/

/-- One step of the generator. -/
def srStep (x : W64) : W64 :=
  let x := x ^^^ (x <<< 13)
  let x := x ^^^ (x >>> 7)
  x ^^^ (x <<< 17)

/-- The states after each of `n` steps, oldest first. -/
def srSteps (x : W64) : Nat → List W64
  | 0 => []
  | n + 1 => srStep x :: srSteps (srStep x) n

/-- The generator's state at load: seed XOR ((r + 1) × 0x9E3779B97F4A7C15), or 1 for 0. -/
def srSeed (seed : W64) (rank : Nat) : W64 :=
  let x := seed ^^^ (BitVec.ofNat 64 ((rank + 1) * 0x9E3779B97F4A7C15))
  if x = 0 then 1 else x

/-- How element j of a row rounds: RNE, or the 16-bit number of its place in the eight draws. -/
def rndOf (stoch : Bool) (draws : List W64) (j : Nat) : Rnd :=
  if stoch then .stoch (bits (16 * (j % 4) + 15) (16 * (j % 4)) (draws.getD (j / 4) 0).toNat) else .rne

/-! ### Narrowing (R90, R91, R149) -/

/-- The float format of an output format code (R87). -/
def outFmt : Nat → Fmt
  | 0 => fp32 | 1 => bf16 | 2 => e4m3 | 3 => e5m2 | 4 => e3m2 | 5 => e2m3 | 6 => e2m1 | _ => fp16

/-- emax of an MX element format (R91). -/
def mxEmax : Nat → Int
  | 2 => 8 | 3 => 15 | 4 => 4 | 5 => 2 | _ => 2

/-- The largest of ⌊log₂|v|⌋ over the non-zero finite values of a row. -/
def rowLog (vs : List Val) : Option Int :=
  vs.foldl (fun acc v => match v with
    | .fin _ m e => if m = 0 then acc else some (match acc with
        | none => floorLog m e
        | some x => max x (floorLog m e))
    | _ => acc) none

/-- The MX scale and elements of a row of 32 values (R91). -/
def mxRow (fmt : Nat) (vs : List Val) (rnd : Nat → Rnd) : Nat × List Nat :=
  let f := outFmt fmt
  if fmt ≥ 4 && vs.any (fun v => !v.isFin) then (0xFF, vs.map fun _ => 0)
  else
    let shared : Int := match rowLog vs with
      | none => 0
      | some l => min (max (l - mxEmax fmt) (-127)) 127
    (((shared + 127).toNat), vs.zipIdx.map fun x => match x.1 with
      | .nan => f.nan
      | .inf n => if fmt = 3 then f.infBits n else f.nan
      | .fin n m e => f.encodeSat (rnd x.2) n m (e - shared))

/-- Pack elements of w bits, little-endian, into `n` bytes. -/
def packElems (w n : Nat) (xs : List Nat) : List Byte :=
  leBytes n (xs.zipIdx.foldl (fun a x => a + x.1 * 2 ^ (w * x.2)) 0)

/-- An output row laid out as R149 says: 128 B for FP32, else 64 B with the MX scale in byte 63. -/
def narrowRow (fmt : Nat) (zs : List W32) (rnd : Nat → Rnd) : List Byte :=
  let f := outFmt fmt
  let vs := zs.map f32
  if fmt = 0 then packElems 32 128 (zs.map fun z => (canon32 z).toNat)
  else if fmt = 1 || fmt = 7 then packElems 16 64 (vs.zipIdx.map fun x => f.encode (rnd x.2) x.1)
  else
    let r := mxRow fmt vs rnd
    packElems f.width 63 r.2 ++ [BitVec.ofNat 8 r.1]

/-- The epilogue's parameters at drain issue (R86, R149). -/
structure EpiPar where
  scale : List W32 := []
  bias : List W32 := []
  blk : W32 := 0
  deriving DecidableEq, Repr

/-- Stage 1 (R86): one fused multiply-add; a disabled part adds or multiplies nothing. -/
def stage1 (m : MathCfg) (p : EpiPar) (col : Nat) (a : W32) : W32 :=
  let sc : W32 := if m.scale = 1 then p.scale.getD col 0 else p.blk
  if m.scale = 0 && !m.bias then canon32 a
  else if m.scale = 0 then add32 a (p.bias.getD col 0)
  else if !m.bias then mul32 a sc
  else fma32 a sc (p.bias.getD col 0)

/-- One row through the epilogue: its output bytes and the generator's new state (R86 to R93). -/
def epilogueRow (m : MathCfg) (hi lo : W32) (p : EpiPar) (acc : List W32) (sr : W64) : List Byte × W64 :=
  let ys := (List.range 32).map fun c => stage1 m p c (acc.getD c 0)
  let zs := ys.map (activate m.act.toNat lo hi)
  let stoch := m.round == 1
  let draws := if stoch then srSteps sr 8 else []
  (narrowRow m.outfmt.toNat zs (rndOf stoch draws), if stoch then draws.getLastD sr else sr)

/-! ### The vector unit (R39, R96, R148) -/

/-- Lane j of a register: FP32 or BF16. -/
def lane32 (v : List Byte) (j : Nat) : W32 := BitVec.ofNat 32 (leAt v (4 * j) 4)
def lane16 (v : List Byte) (j : Nat) : Nat := leAt v (2 * j) 2

/-- The FP32 word of a BF16 lane: the same value, in 32 bits. -/
def widen (n : Nat) : W32 := BitVec.ofNat 32 (n * 65536)

/-- Apply an operation of values to every lane and round once, in the lane format (R96). -/
def lanes (b16 : Bool) (f : Val → Val → Val → Val) (a b c : List Byte) : List Byte :=
  if b16 then packElems 16 256 ((List.range 128).map fun j =>
    bf16.encode .rne (f (bf16.decode (lane16 a j)) (bf16.decode (lane16 b j)) (bf16.decode (lane16 c j))))
  else packElems 32 256 ((List.range 64).map fun j =>
    fp32.encode .rne (f (f32 (lane32 a j)) (f32 (lane32 b j)) (f32 (lane32 c j))))

/-- The larger or smaller of two FP32 words where R148 leaves no doubt; the spec states no result for a NaN or for two
zeros of unlike sign, and `openVal` stands for it. -/
def maxMin (isMax : Bool) (openVal : W32) (a b : W32) : W32 :=
  if isNan32 a || isNan32 b || ((f32 a).isZero && (f32 b).isZero && a != b) then openVal
  else if (decide (ordKey a < ordKey b)) == isMax then b else a

/-- Fold a list in the fixed binary tree of R39: lane 2j with lane 2j + 1 at each level. -/
def pairUp (f : W32 → W32 → W32) : List W32 → List W32
  | a :: b :: t => f a b :: pairUp f t
  | t => t

/-- The tree's root after enough levels for 128 lanes. -/
def treeFold (f : W32 → W32 → W32) (xs : List W32) : W32 :=
  ((List.range 7).foldl (fun l _ => pairUp f l) xs).headD 0

end Sys2Proof.Machine
end

