-- ==== Sys2Proof/Machine/Operands.lean ====
section
/-! DEFINITION. The operand fields of calendar words, access fields, router slot entries and sequencer words
(R103, R139 to R150, R158), and how a stored calendar expands into one OP word a hob cycle (R139 to R141). -/

namespace Sys2Proof.Machine

/-- An access field A0 to A3 with its stride (R142, R143). -/
structure Acc where
  en : Bool := false
  wr : Bool := false
  unit : Nat := 0
  slot : Nat := 0
  cr : Bool := false
  adv : Bool := false
  portB : Bool := false
  off : Nat := 0
  low : Nat := 0
  str : Int := 0
  deriving DecidableEq, Repr

/-- The griddle field (R146). -/
structure GridF where
  gop : Nat := 0
  abank : Nat := 0
  arow : Nat := 0
  arstep : Nat := 0
  sbuf : Nat := 0
  fmt : Nat := 0
  sparse : Bool := false
  mxi : Nat := 0
  lop : Nat := 0
  lidx : Nat := 0
  linc : Bool := false
  rsv : Nat := 0
  deriving DecidableEq, Repr

/-- The vector field (R148). -/
structure VecF where
  vop : Nat := 0
  b16 : Bool := false
  vd : Nat := 0
  va : Nat := 0
  vb : Nat := 0
  vc : Nat := 0
  vq : Nat := 0
  rsv : Nat := 0
  deriving DecidableEq, Repr

/-- The epilogue field (R149). -/
structure EpiF where
  een : Bool := false
  edst : Bool := false
  ebank : Nat := 0
  erow : Nat := 0
  erstep : Nat := 0
  psel : Nat := 0
  eslot : Nat := 0
  rsv : Nat := 0
  deriving DecidableEq, Repr

/-- The steering and page fields (R150). -/
structure SteerF where
  sput : Bool := false
  stok : Nat := 0
  semit : Bool := false
  actr : Nat := 0
  ectr : Nat := 0
  pgv : Bool := false
  page : Nat := 0
  deriving DecidableEq, Repr

/-- An OP word (R142). -/
structure Op where
  rep : Nat := 0
  accs : List Acc := []
  grid : GridF := {}
  vec : VecF := {}
  epi : EpiF := {}
  steer : SteerF := {}
  rsv : Nat := 0
  deriving DecidableEq, Repr

/-- The access field whose bit 0 is `base`, with its stride from bit `sb` (R142, R143). -/
def accOf (w base sb : Nat) : Acc :=
  let b := fun hi lo => bits (base + hi) (base + lo) w
  { en := b 29 29 == 1, wr := b 28 28 == 1, unit := b 27 25, slot := b 24 23, cr := b 22 22 == 1, adv := b 21 21 == 1,
    portB := b 20 20 == 1, off := b 19 6, low := b 5 0, str := signed 8 (bits (sb + 7) sb w) }

/-- The griddle field from its 28 low-aligned bits (R146). -/
def gridOf (x : Nat) : GridF :=
  { gop := bits 27 26 x, abank := bits 25 25 x, arow := bits 24 20 x, arstep := bits 19 18 x, sbuf := bits 17 17 x,
    fmt := bits 16 13 x, sparse := bit 12 x, mxi := bits 11 10 x, lop := bits 9 8 x, lidx := bits 7 3 x, linc := bit 2 x,
    rsv := bits 1 0 x }

/-- The vector field from its 28 low-aligned bits (R148). -/
def vecOf (x : Nat) : VecF :=
  { vop := bits 27 24 x, b16 := bit 23 x, vd := bits 22 18 x, va := bits 17 13 x, vb := bits 12 8 x, vc := bits 7 3 x,
    vq := bits 2 1 x, rsv := bits 0 0 x }

/-- The epilogue field from its 20 low-aligned bits (R149). -/
def epiOf (x : Nat) : EpiF :=
  { een := bit 19 x, edst := bit 18 x, ebank := bits 17 17 x, erow := bits 16 12 x, erstep := bits 11 10 x,
    psel := bits 9 7 x, eslot := bits 6 5 x, rsv := bits 4 0 x }

/-- The steering and page fields from their 11 low-aligned bits (R150). -/
def steerOf (x : Nat) : SteerF :=
  { sput := bit 10 x, stok := bits 9 8 x, semit := bit 7 x, actr := bits 6 5 x, ectr := bits 4 3 x, pgv := bit 2 x,
    page := bits 1 0 x }

/-- The OP word of 256 bits (R142). -/
def opOf (w : Nat) : Op :=
  { rep := bits 253 242 w,
    accs := [accOf w 210 25, accOf w 180 17, accOf w 150 9, accOf w 120 1],
    grid := gridOf (bits 119 92 w), vec := vecOf (bits 91 64 w), epi := epiOf (bits 63 44 w),
    steer := steerOf (bits 43 33 w), rsv := bits 241 240 w + bits 0 0 w }

/-- Kind of a calendar word: 0 OP, 1 LOOP, 2 STEP, 3 rejected (R139). -/
def wordKind (w : Nat) : Nat := bits 255 254 w

/-- Iterations and body length of a LOOP word (R140). -/
def loopCount (w : Nat) : Nat := bits 253 242 w + 1
def loopBody (w : Nat) : Nat := bits 241 230 w + 1

/-- Step index, alias mark and alias target of a STEP word (R140). -/
def stepIndex (w : Nat) : Nat := bits 252 241 w
def stepAlias (w : Nat) : Bool := bit 253 w
def stepTarget (w : Nat) : Nat := bits 240 229 w

/-- Hob cycles that a run of OP and LOOP words takes (R139, R140); `fuel` is at least the number of words. -/
def calLen : Nat → List Nat → Nat
  | 0, _ => 0
  | _, [] => 0
  | fuel + 1, w :: ws =>
    if wordKind w = 1 then
      loopCount w * calLen fuel (ws.take (loopBody w)) + calLen fuel (ws.drop (loopBody w))
    else bits 253 242 w + 1 + calLen fuel ws

/-- The word in force at cycle t of a run of words, with n of R141: repeats and flat loop iterations before it.
`idx` is the place of the first word, `l` the flat iteration index of the enclosing loops. -/
def calAt : Nat → List Nat → Nat → Nat → Nat → Option (Nat × Nat × Nat)
  | 0, _, _, _, _ => none
  | _, [], _, _, _ => none
  | fuel + 1, w :: ws, idx, l, t =>
    if wordKind w = 1 then
      let b := loopBody w
      let body := ws.take b
      let len := calLen fuel body
      let c := loopCount w
      if t < c * len then calAt fuel body (idx + 1) (l * c + t / len) (t % len)
      else calAt fuel (ws.drop b) (idx + 1 + b) l (t - c * len)
    else
      let r := bits 253 242 w + 1
      if t < r then some (idx, w, t + r * l) else calAt fuel ws (idx + 1) l (t - r)

/-- The place after the STEP word of step k, and the words up to the next STEP word (R140). -/
def stepSegment : List Nat → Nat → Nat → Option (Nat × Nat × List Nat)
  | [], _, _ => none
  | w :: ws, idx, k =>
    if wordKind w = 2 && stepIndex w = k then some (idx + 1, w, ws.takeWhile fun x => wordKind x != 2)
    else stepSegment ws (idx + 1) k

/-- The words of step k, its alias followed (R140). -/
def stepWords (store : List Nat) (k : Nat) : Option (Nat × List Nat) :=
  match stepSegment store 0 k with
  | some (i, w, ws) =>
    if stepAlias w then (stepSegment store 0 (stepTarget w)).map fun x => (x.1, x.2.2) else some (i, ws)
  | none => none

/-- The stored word of a cell at cycle t of step k: its place, its bits and n. -/
def wordAt (store : List Nat) (k t : Nat) : Option (Nat × Nat × Nat) :=
  match stepWords store k with
  | some (i, ws) => calAt (ws.length + 1) ws i 0 t
  | none => none

/-! ### Router slot entries (R103) -/

def rtOwn (e : Nat) : Bool := bit 15 e
def rtSrc (e : Nat) : Nat := bits 14 12 e
def rtFreeVc (e : Nat) : Nat := bits 11 10 e

/-- The slot entry's place in a router's table: output, page and entry (R104). -/
def rtKey (out page entry : Nat) : Nat := (out * 4 + page) * 256 + entry

/-! ### Sequencer words (R158) -/

/-- Kind of a sequencer word: 0 ACT, 1 CTR, 2 JUMP, 3 HALT. -/
def sqKind (w : Nat) : Nat := bits 127 124 w

/-- The fields of an ACT word. -/
structure ActW where
  unit : Nat := 0
  in0 : Option Nat := none
  in1 : Option Nat := none
  out : Option Nat := none
  uop : Nat := 0
  poff : Nat := 0
  pstr : Int := 0
  pcnt : Nat := 0
  deriving DecidableEq, Repr

/-- A region operand: bit 4 valid, bits [3:0] the region. -/
def regOperand (x : Nat) : Option Nat := if bit 4 x then some (bits 3 0 x) else none

def actOf (w : Nat) : ActW :=
  { unit := bits 123 121 w, in0 := regOperand (bits 120 116 w), in1 := regOperand (bits 115 111 w),
    out := regOperand (bits 110 106 w), uop := bits 105 78 w, poff := bits 77 64 w, pstr := signed 8 (bits 63 56 w),
    pcnt := bits 55 50 w }

def sqCtr (w : Nat) : Nat := bits 123 122 w
def sqN (w : Nat) : Nat := bits 121 106 w
def sqTgt (w : Nat) : Nat := bits 121 109 w

end Sys2Proof.Machine
end

