-- ==== Sys2Proof/Machine/Flags.lean ====
section
/-! DEFINITION. Flags and pointer conditions: regions empty or full with their sticky flags (R56 to R58), poison of
granules (R267), the step's sticky flags (R48, R54, R268) and `HOB_STEER_STAT` (R154). -/

namespace Sys2Proof.Machine

/-! ### Circular regions -/

def Region.isEmpty (r : Region) : Bool := r.head == r.tail && r.hwrap == r.twrap
def Region.isFull (r : Region) : Bool := r.head == r.tail && r.hwrap != r.twrap

/-- Entries held. -/
def Region.occ (r : Region) : Nat :=
  if r.hwrap == r.twrap then r.tail.toNat - r.head.toNat else r.tail.toNat + (r.count.toNat + 1) - r.head.toNat

/-- Entries of the region (R55). -/
def Region.size (r : Region) : Nat := r.count.toNat + 1

/-- Granules of one entry (R55). -/
def Region.grans (r : Region) : Nat := r.entry.toNat + 1

/-- The head moves to the next entry; the wrap bit toggles past the last one (R56). -/
def Region.advHead (r : Region) : Region :=
  if r.head = r.count then { r with head := 0, hwrap := !r.hwrap } else { r with head := r.head + 1 }

/-- The tail moves to the next entry. -/
def Region.advTail (r : Region) : Region :=
  if r.tail = r.count then { r with tail := 0, twrap := !r.twrap } else { r with tail := r.tail + 1 }

/-- `HOB_CR_STAT` cleared (R56). -/
def Region.clearStat (r : Region) : Region :=
  { r with underrun := false, overrun := false, twrap := false, tail := 0, hwrap := false, head := 0, landed := 0,
           reserved := [], filled := [] }

/-- The region emptied: the head catches up with the tail (R274). -/
def Region.drop (r : Region) : Region :=
  { r with head := r.tail, hwrap := r.twrap, landed := 0, reserved := [], filled := [] }

/-! ### Poison and sticky flags -/

/-- Whether any word of a granule is poisoned. -/
def Gran.bad (g : Gran) : Bool := g.poison != 0

/-- A granule of known-bad value. -/
def badGran : Gran := { data := zeroBytes 64, poison := 0xF }

/-- The first PAIR_TIMEOUT of a step fixes the case and the tag; the flag is sticky (R154). -/
def Steer.fail (x : Steer) (case : Nat) (tag : BitVec 16) : Steer :=
  if x.pt then x else { x with pt := true, case := BitVec.ofNat 2 case, tag := tag }

/-- `HOB_STEER_STAT` as it reads (R154). -/
def Steer.stat (x : Steer) : W64 :=
  (if x.pt then 1 <<< 63 else 0) ||| (x.case.setWidth 64 <<< 61) ||| (x.tag.setWidth 64 <<< 45) ||| BitVec.ofNat 64 x.entries.length

/-- `HOB_CR_STAT` as it reads (R56). -/
def Region.stat (r : Region) : W32 :=
  (if r.underrun then 1 <<< 31 else 0) ||| (if r.overrun then 1 <<< 30 else 0) ||| (if r.twrap then 1 <<< 17 else 0) |||
  (r.tail.setWidth 32 <<< 9) ||| (if r.hwrap then 1 <<< 8 else 0) ||| r.head.setWidth 32

/-- `HOB_SEQ_STAT` as it reads (R164). -/
def SeqStat.word (x : SeqStat) : W64 :=
  (if x.halted then 1 <<< 63 else 0) ||| (x.wait.setWidth 64 <<< 60) ||| (x.pc.setWidth 64 <<< 47) |||
  (x.step.setWidth 64 <<< 35) ||| x.stalls.setWidth 64

/-- `HOB_TASTE_STAT` as it reads (R272). -/
def TasteStat.word (x : TasteStat) : W64 :=
  (x.pass.setWidth 64 <<< 40) ||| (x.defer.setWidth 64 <<< 24) ||| (x.skip.setWidth 64 <<< 8) ||| (if x.fail then 1 <<< 7 else 0)

end Sys2Proof.Machine
end

