-- ==== Sys2Proof/Machine/Griddle.lean ====
section
/-! DEFINITION. The griddle's arithmetic: operand layouts (R36, R418), products and group sums (R72 to R78), accumulation
(R80) and 2:4 sparsity (R85). -/

namespace Sys2Proof.Machine

/-- An element type of a griddle operand: a float format, or an integer of so many bits. -/
inductive Elem where
  | flt (f : Fmt)
  | int (w : Nat)
  deriving DecidableEq, Repr

/-- Bits of an element. -/
def Elem.width : Elem → Nat
  | .flt f => f.width
  | .int w => w

/-- The value of an element's bits. -/
def Elem.val : Elem → Nat → Val
  | .flt f, n => f.decode n
  | .int w, n => intVal w n

/-- Streamed and stationary element of `HOB_CW_FMT` (R146). -/
def fmtPair : Nat → Elem × Elem
  | 0 => (.flt e4m3, .flt e4m3)
  | 1 => (.flt e4m3, .flt e5m2)
  | 2 => (.flt e5m2, .flt e4m3)
  | 3 => (.flt e5m2, .flt e5m2)
  | 4 => (.flt e3m2, .flt e3m2)
  | 5 => (.flt e3m2, .flt e2m3)
  | 6 => (.flt e2m3, .flt e3m2)
  | 7 => (.flt e2m3, .flt e2m3)
  | 8 => (.flt e2m1, .flt e2m1)
  | 9 => (.int 8, .int 8)
  | 10 => (.int 4, .int 4)
  | 11 => (.flt bf16, .flt bf16)
  | _ => (.flt fp16, .flt fp16)

/-- K positions of one cycle (R36): dense positions where sparse. -/
def fmtK (fmt : Nat) (sparse : Bool) : Nat :=
  if sparse then 64 else if fmt ≤ 3 || fmt = 9 then 32 else if fmt ≤ 8 || fmt = 10 then 64 else 16

/-- Bytes of a streamed row (R147). -/
def rowBytes (fmt : Nat) (sparse : Bool) : Nat :=
  if sparse then 64 else if 4 ≤ fmt && fmt ≤ 7 then 48 else 32

/-- Stationary bytes of a column (R36). -/
def colBytes (fmt : Nat) (sparse : Bool) : Nat :=
  if sparse then 40 else if 4 ≤ fmt && fmt ≤ 7 then 48 else 32

/-- Whether an operand of a format carries E8M0 scales (R73): the narrow floats always, INT8 when declared MXINT8. -/
def scaled (fmt : Nat) (mxint : Bool) : Bool := fmt ≤ 8 || (fmt = 9 && mxint)

/-- Element j of a run of packed elements (R418). -/
def elemAt (el : Elem) (bytes : List Byte) (j : Nat) : Val :=
  let w := el.width
  el.val ((leNat bytes / 2 ^ (w * j)) % 2 ^ w)

/-- The group sum before scaling: R78 for values that are not finite, R76 otherwise. -/
def groupSum (ps : List Val) : Val :=
  if ps.any Val.isNan then .nan
  else
    let infs := ps.filter fun p => !p.isFin
    match infs with
    | p :: _ => if infs.all fun q => q.neg == p.neg then .inf p.neg else .nan
    | [] =>
      let logs := ps.filterMap fun p => match p with
        | .fin _ m e => if m = 0 then none else some (floorLog m e)
        | _ => none
      match logs with
      | [] => .fin (ps.all Val.neg) 0 0
      | l :: ls =>
        let q := ls.foldl max l - 39
        let parts : List Int := ps.map fun p => match p with
          | .fin n m e => if q ≤ e then signedAt n m e q else
              let k := m / 2 ^ (q - e).toNat
              if n then -(k : Int) else (k : Int)
          | _ => 0
        let t : Int := parts.foldl (· + ·) 0
        .fin (decide (t < 0)) t.natAbs q

/-- One group rounded to FP32 (R77): the scales of the two operands, and 2⁻⁶ for each MXINT8 operand. -/
def groupFp32 (ps : List Val) (sa sb : Nat) (mx : Nat) : W32 :=
  if sa = 0xFF || sb = 0xFF then 0x7FC00000
  else toF32 ((groupSum ps).scale ((sa : Int) + sb - 254 - 6 * (mx : Int)))

/-- What one MAC works on. -/
structure MacCfg where
  fmt : Nat := 0
  sparse : Bool := false
  mxStr : Bool := false
  mxSta : Bool := false
  /-- Group size g (R75). -/
  g : Nat := 8
  deriving DecidableEq, Repr

/-- The products of one column that take part, in K order: dense, or the stored weights at their positions (R85, R418). -/
def MacCfg.products (c : MacCfg) (row col : List Byte) : List Val :=
  let el := fmtPair c.fmt
  if c.sparse then
    let idx := leNat (bytesAt col 32 8)
    (List.range 32).map fun i =>
      (elemAt el.1 row (4 * (i / 2) + (idx / 4 ^ i) % 4)).mul (elemAt el.2 col i)
  else
    (List.range (fmtK c.fmt false)).map fun j => (elemAt el.1 row j).mul (elemAt el.2 col j)

/-- Products of a group that take part. -/
def MacCfg.perGroup (c : MacCfg) : Nat := if c.sparse then c.g / 2 else c.g

/-- Scales per row or column, m (R147). -/
def MacCfg.scales (c : MacCfg) : Nat := fmtK c.fmt c.sparse / 32

/-- Groups of one cycle. -/
def MacCfg.groups (c : MacCfg) : Nat := fmtK c.fmt c.sparse / c.g

/-- One column's accumulation: its groups in ascending K order, each added with one rounding (R75, R80). -/
def MacCfg.column (c : MacCfg) (row col : List Byte) (strScale staScale : Nat → Nat) (acc : W32) : W32 :=
  let ps := c.products row col
  let n := c.perGroup
  let mx := (if c.fmt = 9 && c.mxStr then 1 else 0) + (if c.fmt = 9 && c.mxSta then 1 else 0)
  (List.range c.groups).foldl (fun a i =>
    let h := i * c.g / 32
    let sa := if scaled c.fmt c.mxStr then strScale h else 127
    let sb := if scaled c.fmt c.mxSta then staScale h else 127
    add32 a (groupFp32 ((ps.drop (i * n)).take n) sa sb mx)) acc

/-- One MAC row: every column of the accumulator row is updated. `staBytes` and `staScale` are the buffer in use,
`strScale` the streamed scales of the accumulator row (R36, R147, R418). -/
def MacCfg.mac (c : MacCfg) (row : List Byte) (staBytes : Nat → Byte) (strScale : Nat → Nat) (staScale : Nat → Nat)
    (acc : List W32) : List W32 :=
  let b := colBytes c.fmt c.sparse
  (List.range 32).map fun col =>
    c.column row ((List.range b).map fun i => staBytes (col * b + i)) strScale
      (fun h => staScale (col * c.scales + h)) (acc.getD col 0)

end Sys2Proof.Machine
end

