-- ==== Sys2Proof/Machine/Units.lean ====
section
/-! DEFINITION. What the griddle, vector, epilogue and steering fields of one calendar word do to a cell's units
(R144 to R153), given the reads that arrive in the word's cycle. -/

namespace Sys2Proof.Machine

open Sys2Proof

/-- The arriving granules that feed a unit, in the order of R145. -/
def feeds (as : List Arrival) (unit : Nat) : List Gran := (as.filter fun a => a.unit == unit).map fun a => a.gran

/-- Store bytes into a byte table from an index. -/
def putTab (t : Tab Byte) (i : Nat) : List Byte → Tab Byte
  | [] => t
  | b :: bs => putTab (t.put 0 i b) (i + 1) bs

/-- A mark added to or removed from a list of marked numbers. -/
def mark (l : List Nat) (n : Nat) (on : Bool) : List Nat :=
  let r := l.filter fun x => x != n
  if on then n :: r else r

/-! ### Griddle (R36, R37, R146, R147, R267) -/

/-- Key of an accumulator row. -/
def accKey (bank row : Nat) : Nat := bank * 32 + row

/-- UNIT 0 arrivals are appended before the pop; at most 128 B are held (R147). -/
def Units.queue (u : Units) (gs : List Gran) : Units :=
  gs.foldl (fun u g => { u with stream := u.stream ++ bytesAt g.data 0 64,
                                streamPoison := u.streamPoison ++ (List.range 64).map fun i => g.poison.getLsbD (i / 16) }) u

/-- FP32 values of a granule. -/
def granVals (g : Gran) : List W32 := (List.range 16).map fun i => BitVec.ofNat 32 (leAt g.data (4 * i) 4)

/-- One MAC of a word, on accumulator row `row` (R75, R146, R147). -/
def Units.mac (u : Units) (f : GridF) (g row : Nat) (psum : List Gran) : Units :=
  let n := rowBytes f.fmt f.sparse
  let c : MacCfg := { fmt := f.fmt, sparse := f.sparse, mxStr := bit 1 f.mxi, mxSta := bit 0 f.mxi, g := g }
  let short := u.stream.length < n
  let data := bytesAt u.stream 0 n
  let old := u.acc.get {} (accKey f.abank row)
  let start : List W32 × Bool :=
    if f.gop = 2 then ([], false)
    else if f.gop = 3 then (psum.flatMap granVals, psum.any Gran.bad || psum.length != 2)
    else (old.vals, old.poison)
  let used := (32 * colBytes f.fmt f.sparse + 63) / 64
  let stationary := (List.range used).any fun i => u.statPoison.contains (32 * f.sbuf + i)
  let scales := (scaled f.fmt c.mxStr && u.statPoison.contains 66) || (scaled f.fmt c.mxSta && u.statPoison.contains (64 + f.sbuf))
  let poison := start.2 || short || (u.streamPoison.take n).any id || stationary || scales
  let vals := c.mac data (fun i => u.stat.get 0 (2048 * f.sbuf + i)) (fun h => (u.strScale.get 0 (row * c.scales + h)).toNat)
    (fun i => (u.statScale.get 0 (64 * f.sbuf + i)).toNat) start.1
  { u with stream := u.stream.drop n, streamPoison := u.streamPoison.drop n,
           acc := u.acc.put {} (accKey f.abank row) { vals := vals, poison := poison } }

/-- Loads of a word: they go to the buffer that the word's MAC does not use, after its MAC (R146, R147). The load index advances by
`per`, the number of UNIT 1 reads in the word, for each earlier issue (R141). -/
def Units.load (u : Units) (f : GridF) (n per : Nat) (sta sc : List Gran) : Units :=
  let b := 1 - f.sbuf
  if f.lop = 1 then
    let first := f.lidx + (if f.linc then n * per else 0)
    sta.zipIdx.foldl (fun u x =>
      let i := (first + x.2) % 32
      { u with stat := putTab u.stat (2048 * b + 64 * i) (bytesAt x.1.data 0 64),
               statPoison := mark u.statPoison (32 * b + i) x.1.bad }) u
  else if f.lop = 2 then
    match sc with
    | g :: _ => { u with strScale := putTab u.strScale 0 (bytesAt g.data 0 64), statPoison := mark u.statPoison 66 g.bad }
    | [] => u
  else if f.lop = 3 then
    match sc with
    | g :: _ => { u with statScale := putTab u.statScale (64 * b) (bytesAt g.data 0 64),
                         statPoison := mark u.statPoison (64 + b) g.bad }
    | [] => u
  else u

/-- The griddle field of a word: stream arrivals, the MAC, then the loads. `g` is the group size in force (R75, R84), `per` the
number of UNIT 1 reads in the word. -/
def Units.griddle (u : Units) (f : GridF) (n per g : Nat) (as : List Arrival) : Units :=
  let u1 := u.queue (feeds as 0)
  let u2 := if f.gop = 0 then u1 else u1.mac f g ((f.arow + n * f.arstep) % 32) (feeds as 3)
  u2.load f n per (feeds as 1) (feeds as 2)

/-- The group size of a slot's `HOB_MATH_CFG`: 8 in sequencer mode (R75, R84). -/
def groupSize (m : MathCfg) (seqMode : Bool) : Nat :=
  if seqMode then 8 else match m.group.toNat with
    | 0 => 4 | 1 => 8 | _ => 16

/-! ### Vector unit (R39, R148) -/

/-- Results that are due at a cycle enter their registers; a whole-register write sets the poison bit, a partial one
keeps an older mark. -/
def Units.retire (u : Units) (cyc : Nat) : Units :=
  let due := u.vwrites.filter fun w => w.ready ≤ cyc
  let regs := due.foldl (fun (t : Tab VReg) w =>
    let old := t.get {} w.reg
    let base := bytesAt old.data 0 256
    let data := base.zipIdx.map fun x =>
      let i := (x.2 + 256 - w.off) % 256
      if i < w.data.length then w.data.getD i 0 else x.1
    t.put {} w.reg { data := data, poison := w.poison || (old.poison && w.data.length < 256) }) u.vregs
  let toks := u.tokens.filter fun t => t.1 ≤ cyc
  let last := toks.getLast?
  { u with vregs := regs, vwrites := u.vwrites.filter fun w => cyc < w.ready,
           tokens := u.tokens.filter fun t => cyc < t.1,
           token := match last with
             | some t => t.2.1
             | none => u.token,
           tokenPoison := match last with
             | some t => t.2.2
             | none => u.tokenPoison }

/-- A register's 256 B. -/
def Units.vbytes (u : Units) (r : Nat) : List Byte := bytesAt (u.vregs.get {} r).data 0 256
def Units.vbad (u : Units) (r : Nat) : Bool := (u.vregs.get {} r).poison

/-- Lane j widened to FP32. -/
def laneF32 (b16 : Bool) (v : List Byte) (j : Nat) : W32 := if b16 then widen (lane16 v j) else lane32 v j

/-- A lane of max or min; a NaN result has the one encoding of R71. -/
def maxLane (isMax : Bool) (a b : W32) : W32 := canon32 (maxMin isMax (Config.vecMaxMinOpen isMax a b) a b)

/-- Max or min of every lane. -/
def maxLanes (b16 isMax : Bool) (a b : List Byte) : List Byte :=
  if b16 then packElems 16 256 ((List.range 128).map fun j => (maxLane isMax (laneF32 true a j) (laneF32 true b j)).toNat / 65536)
  else packElems 32 256 ((List.range 64).map fun j => (maxLane isMax (lane32 a j) (lane32 b j)).toNat)

/-- Lane 0 of a cross-lane reduction: the fixed tree in FP32, written back in the lane format (R39). -/
def reduceBytes (b16 : Bool) (f : W32 → W32 → W32) (a : List Byte) : List Byte :=
  let n := if b16 then 128 else 64
  let r := treeFold f ((List.range n).map (laneF32 b16 a))
  if b16 then leBytes 2 (bf16.encode .rne (f32 r)) else leBytes 4 (canon32 r).toNat

/-- Token of a compare: lane 0 of VA below lane 0 of VB; NaN gives 0 and zeros are equal (R148). -/
def vecLess (a b : W32) : Bool :=
  !isNan32 a && !isNan32 b && !((f32 a).isZero && (f32 b).isZero) && decide (ordKey a < ordKey b)

/-- The result of a vector operation: where it starts in the register, its bytes; none for the others. -/
def Units.vresult (u : Units) (f : VecF) : Option (List Byte) :=
  let a := u.vbytes f.va
  let b := u.vbytes f.vb
  let c := u.vbytes f.vc
  match f.vop with
  | 3 => some (lanes f.b16 (fun x y _ => x.add y) a b c)
  | 4 => some (lanes f.b16 (fun x y _ => x.mul y) a b c)
  | 5 => some (lanes f.b16 (fun x y z => (x.mul y).add z) a b c)
  | 6 => some (maxLanes f.b16 true a b)
  | 7 => some (maxLanes f.b16 false a b)
  | 8 => some (reduceBytes f.b16 add32 a)
  | 9 => some (reduceBytes f.b16 (maxLane true) a)
  | 10 => some (packElems 16 128 ((List.range 64).map fun j => bf16.encode .rne (f32 (lane32 a j))))
  | 11 => some (packElems 32 256 ((List.range 64).map fun j => (canon32 (widen (lane16 a j))).toNat))
  | _ => none

/-- Whether a source's poison reaches the result. -/
def Units.vpoison (u : Units) (f : VecF) : Bool :=
  u.vbad f.va || (decide (f.vop ∈ [3, 4, 5, 6, 7, 12]) && u.vbad f.vb) || (f.vop == 5 && u.vbad f.vc)

/-- The vector field of a word: registers are read now and written 4 cycles later (R148). -/
def Units.vector (u : Units) (f : VecF) (cyc : Nat) (as : List Arrival) : Units :=
  match f.vop with
  | 0 => u
  | 1 =>
    let gs := feeds as 4
    if gs.isEmpty then u
    else { u with vwrites := u.vwrites ++ [{ ready := cyc + 4, reg := f.vd, off := 64 * f.vq,
                                             data := gs.flatMap fun g => bytesAt g.data 0 64, poison := gs.any Gran.bad }] }
  | 2 =>
    let d := u.vbytes f.va
    { u with vstore := u.vstore ++ [{ ready := cyc + 1, data := d.drop (64 * f.vq) ++ d.take (64 * f.vq), poison := u.vbad f.va }] }
  | 12 =>
    { u with tokens := u.tokens ++ [(cyc + 4, vecLess (laneF32 f.b16 (u.vbytes f.va) 0) (laneF32 f.b16 (u.vbytes f.vb) 0),
                                      u.vpoison f)] }
  | _ =>
    match u.vresult f with
    | some d => { u with vwrites := u.vwrites ++ [{ ready := cyc + 4, reg := f.vd, off := 0, data := d, poison := u.vpoison f }] }
    | none => u

/-! ### Epilogue (R86, R149) -/

/-- The parameters as they stand. -/
def Units.par (u : Units) : EpiPar :=
  { scale := (List.range 32).map (u.chScale.get 0), bias := (List.range 32).map (u.chBias.get 0), blk := u.blkScale }

/-- A drain of one row: its output, ready 10 cycles later, and the slot's generator advanced (R93). -/
def Units.drain (u : Units) (f : EpiF) (n cyc : Nat) (sl : Slot) : Units × Slot :=
  let row := u.acc.get {} (accKey f.ebank ((f.erow + n * f.erstep) % 32))
  let m := sl.math
  let bad := row.poison || (m.scale == 1 && (u.paramPoison.contains 0 || u.paramPoison.contains 1)) ||
    (m.scale == 2 && u.paramPoison.contains 4) || (m.bias && (u.paramPoison.contains 2 || u.paramPoison.contains 3))
  let r := epilogueRow m sl.clampHi sl.clampLo u.par row.vals sl.sr
  ({ u with epi := u.epi ++ [{ ready := cyc + 10, data := bytesAt r.1 0 128, poison := bad, toPort := f.edst, slot := f.eslot }] },
   { sl with sr := r.2, srRows := if m.round == 1 then sl.srRows + 1 else sl.srRows })

/-- A parameter read takes effect after the drain of its cycle (R149). -/
def Units.param (u : Units) (psel : Nat) (gs : List Gran) : Units :=
  match gs with
  | [] => u
  | g :: _ =>
    let vs := granVals g
    let fill := fun (t : Tab W32) (h : Nat) => vs.zipIdx.foldl (fun (t : Tab W32) x => t.put 0 (16 * h + x.2) x.1) t
    match psel with
    | 1 => { u with chScale := fill u.chScale 0, paramPoison := mark u.paramPoison 0 g.bad }
    | 2 => { u with chScale := fill u.chScale 1, paramPoison := mark u.paramPoison 1 g.bad }
    | 3 => { u with chBias := fill u.chBias 0, paramPoison := mark u.paramPoison 2 g.bad }
    | 4 => { u with chBias := fill u.chBias 1, paramPoison := mark u.paramPoison 3 g.bad }
    | 5 => { u with blkScale := vs.headD 0, paramPoison := mark u.paramPoison 4 g.bad }
    | _ => u

/-! ### Steering (R152, R153) -/

/-- Change the entry of a tag. -/
def Steer.modEntry (x : Steer) (tag : BitVec 16) (f : SteerEntry → SteerEntry) : Steer :=
  { x with entries := x.entries.map fun e => if e.tag = tag then f e else e }

/-- Entry of a tag. -/
def Steer.entry (x : Steer) (tag : BitVec 16) : Option SteerEntry := x.entries.find? fun e => e.tag == tag

/-- The window with an entry for the tag, or the failure of a full window (case 1); the flag tells which. -/
def Steer.alloc (x : Steer) (tag : BitVec 16) : Bool × Steer :=
  if (x.entry tag).isSome then (true, x)
  else if x.entries.length < 16 then (true, { x with entries := x.entries ++ [{ tag := tag }] })
  else (false, x.fail 1 tag)

/-- A put of two candidates: dropped on a full window (case 1) or for a held tag (case 3). -/
def Steer.put (x : Steer) (tag : BitVec 16) (a b : Gran) : Bool × Steer :=
  let (ok, y) := x.alloc tag
  if !ok then (false, y)
  else match y.entry tag with
    | some e =>
      if e.side0.isSome || e.side1.isSome then (false, y.fail 3 tag)
      else (true, y.modEntry tag fun e => { e with side0 := some a, side1 := some b })
    | none => (true, y)

/-- A token: dropped on a full window or when the tag already has one. -/
def Steer.tok (x : Steer) (tag : BitVec 16) (v bad : Bool) : Bool × Steer :=
  let (ok, y) := x.alloc tag
  if !ok then (false, y)
  else match y.entry tag with
    | some e =>
      if e.token.isSome then (false, y.fail 3 tag)
      else (true, y.modEntry tag fun e => { e with token := some v, poison := bad })
    | none => (true, y)

/-- An emit: the selected candidate, or poison for an incomplete entry (case 2); the entry is freed. -/
def Steer.emit (x : Steer) (tag : BitVec 16) : Bool × Gran × Steer :=
  let y := { x with entries := x.entries.filter fun e => e.tag != tag }
  match x.entry tag with
  | some { tag := _, token := some v, poison := p, side0 := some a, side1 := some b } =>
    let g := if v then b else a
    (true, (if p then badGran else g), y)
  | _ => (false, badGran, y.fail 2 tag)

/-- The current value of a tag counter. -/
def Steer.count (x : Steer) (k : Nat) : BitVec 16 := x.ctr.get 0 k

/-- A counter that a cycle has used advances. -/
def Steer.bump (x : Steer) (k : Nat) (used : Bool) : Steer := if used then { x with ctr := x.ctr.put 0 k (x.count k + 1) } else x

/-- The steering field of a word; the flag tells whether a pairing failed (R152, R153). -/
def Units.steering (u : Units) (f : SteerF) (cyc : Nat) (as : List Arrival) : Bool × Units :=
  let gs := feeds as 7
  let x := u.steer
  let ta := x.count f.actr
  let te := x.count f.ectr
  let (ok1, x1) := if f.sput then x.put ta (gs.getD 0 badGran) (gs.getD 1 badGran) else (true, x)
  let (ok2, x2) :=
    if f.stok = 1 then x1.tok ta u.token u.tokenPoison
    else if f.stok = 2 then
      let g := gs.getD 0 badGran
      x1.tok (BitVec.ofNat 16 (leAt g.data 0 2)) (bit 0 (leAt g.data 2 1)) g.bad
    else (true, x1)
  let (ok3, g, x3) := if f.semit then x2.emit te else (true, badGran, x2)
  let useA := f.sput || f.stok == 1
  let x4 := (x3.bump f.actr useA).bump f.ectr (f.semit && !(useA && f.ectr == f.actr))
  let out : List Ready := if f.semit then [{ ready := cyc + 2, data := bytesAt g.data 0 64, poison := g.bad }] else []
  (!(ok1 && ok2 && ok3), { u with steer := x4, steerOut := u.steerOut ++ out })

end Sys2Proof.Machine
end

