-- ==== Sys2Proof/Machine/CellOps.lean ====
section
/-! DEFINITION. The scratchpad of a cell and the issue of one OP word by a static-mode cell: accesses, regions, ports,
units, writes, landed streams and the cell port (02_cell.md, R111, R141 to R153, R267, R268, R422). -/

namespace Sys2Proof.Machine

open Sys2Proof

/-! ### The scratchpad (R42 to R49) -/

/-- Bank of a granule number 0 to 8,191 (R42). -/
def granBank (g : Nat) : Nat := g / 256

/-- Read latency of a bank (R43). -/
def bankLatency (b : Nat) : Nat := if b < 12 then 2 else if b < 24 then 3 else 4

/-- The 64 B of a granule. -/
def Cell.granBytes (c : Cell) (g : Nat) : List Byte := (List.range 64).map fun i => Tab.get 0 c.scratch (64 * g + i)

/-- What a read of a granule meets (R49): its data with poison marks, the corrected words, the uncorrectable words, and
whether it consumed poison stored before this step (R268). -/
structure GranRead where
  gran : Gran := {}
  corrected : List Nat := []
  ue : List Nat := []
  stored : Bool := false
  deriving DecidableEq, Repr

/-- The words of a granule that a mask of four selects. -/
def granWords (g mask : Nat) : List Nat := ((List.range 4).filter fun i => bit i mask).map fun i => 4 * g + i

/-- Read a granule: a single-bit error is corrected, a double one gives poison, stored poison reads as poison (R49). -/
def Cell.readGran (c : Cell) (g : Nat) : GranRead :=
  let ws := granWords g 15
  let ue := ws.filter fun w => decide (c.wordErr.get 0 w ≥ 2) && !c.wordPoison.contains w
  let bad := ws.filter fun w => ue.contains w || c.wordPoison.contains w
  { gran := { data := c.granBytes g, poison := BitVec.ofNat 4 ((bad.map fun w => 2 ^ (w % 4)).foldl (· + ·) 0) },
    corrected := ws.filter fun w => c.wordErr.get 0 w == 1, ue := ue,
    stored := (ws.any fun w => c.wordPoison.contains w) && !c.wrote.contains g }

/-- What a list of reads found is charged to the cell: corrected words wait for their write-back, uncorrectable words set the fault
flag, stored poison its own (R49, R268). -/
def Cell.charge (c : Cell) (rs : List GranRead) : Cell :=
  let fix := rs.flatMap fun r => r.corrected
  { c with writeBack := c.writeBack ++ fix.filter (fun w => !c.writeBack.contains w),
           flags := { c.flags with fault := c.flags.fault || rs.any (fun r => !r.ue.isEmpty),
                                   storedPoison := c.flags.storedPoison || rs.any fun r => r.stored } }

/-- Write the words of a granule that the mask selects, with fresh check bits; poison is stored as poison (R46, R49). -/
def Cell.writeGran (c : Cell) (g : Nat) (data : List Byte) (poison : Bool) (mask : Nat) : Cell :=
  let ws := granWords g mask
  { c with
    scratch := ws.foldl (fun m w => putBytes m (16 * w) (bytesAt data (16 * (w % 4)) 16)) c.scratch,
    wordPoison := ws.foldl (fun l w => mark l w poison) c.wordPoison,
    wordErr := ws.foldl (fun (t : Tab Nat) w => t.erase w) c.wordErr,
    writeBack := c.writeBack.filter fun w => !ws.contains w,
    wrote := if ws.isEmpty then c.wrote else mark c.wrote g true }

/-- First granule and granules of a slot's window (R51). -/
def Slot.winBase (x : Slot) : Nat := x.base.toNat * 64
def Slot.winGrans (x : Slot) : Nat := if x.valid then x.size.toNat * 64 else 0

/-- The granule of a region's entry (R55). -/
def Slot.entryGran (x : Slot) (r : Region) (entry gran : Nat) : Nat :=
  (x.winBase + r.base.toNat + entry * r.grans + gran) % 8192

/-! ### Access resolution (R54, R57, R58, R141) -/

/-- An access of a word with what it reaches: a granule, or none where it is not performed; `at_` is where a breached
read would have gone (R54). -/
structure Reach where
  acc : Acc := {}
  addr : Option Nat := none
  at_ : Nat := 0
  under : Bool := false
  full : Bool := false
  bound : Bool := false
  region : Option Nat := none
  entry : Nat := 0
  gran : Nat := 0
  deriving DecidableEq, Repr

/-- Resolve an access field at issue n of its word, by the pointers at the start of the cycle. -/
def Cell.reach (c : Cell) (n : Nat) (a : Acc) : Reach :=
  let sl := c.slot a.slot
  if a.cr then
    let ri := bits 13 10 a.off
    let r := sl.region ri
    let gran := bits 9 0 a.off
    let entry := if a.wr then r.tail.toNat else r.head.toNat
    let g := sl.entryGran r entry gran
    { acc := a, addr := if a.wr && r.isFull then none else some g, at_ := g, under := !a.wr && r.isEmpty,
      full := a.wr && r.isFull, region := some ri, entry := entry, gran := gran }
  else
    let off := if a.adv then (((a.off : Int) + n * a.str) % 8192).toNat else a.off % 8192
    let at_ := (sl.winBase + off) % 8192
    if off < sl.winGrans then { acc := a, addr := some at_, at_ := at_ }
    else { acc := a, at_ := at_, bound := true }

/-! ### One issue -/

/-- A write crossing whose source region lies in a cell: crossing, slot, region, and the hob cycle of the period at which its
first flit reaches the cell port (R115). -/
structure XWrite where
  id : Nat := 0
  slot : Nat := 0
  region : Nat := 0
  issue : Nat := 0
  deriving DecidableEq, Repr

/-- What a cell needs to know of its hob to issue a word: the hob cycle, its place in the period, the landed streams of the
recipe and the write crossings of the cell. -/
structure IssueEnv where
  cyc : Nat := 0
  inPeriod : Nat := 0
  streams : List Stream := []
  xwrites : List XWrite := []
  deriving DecidableEq, Repr

/-- The write crossing that a flit from a region belongs to: of those with the region as source, the one that issued last in
the period (R115). -/
def IssueEnv.xwriteOf (env : IssueEnv) (slot : Nat) (region : Option Nat) : Option XWrite :=
  ((env.xwrites.filter fun w => w.slot == slot && region == some w.region && decide (w.issue ≤ env.inPeriod)).foldl
    (fun (m : Option XWrite) w => match m with
      | some v => if v.issue < w.issue then some w else m
      | none => some w) none)

/-- What an issue produces beside the cell: the status codes raised, the flit for the local router input, output granules
by slot (R270), the requested page, words corrected and uncorrectable, and the traffic that a trace records (R269). -/
structure Issue where
  cell : Cell := {}
  free : Nat := 0
  raised : List Nat := []
  flit : Option Flit := none
  outs : List (Nat × Nat) := []
  page : Option Nat := none
  corrected : List Nat := []
  ue : List Nat := []
  accs : List Reach := []
  reads : List Gran := []
  writes : List Gran := []
  /-- Landed granules: slot, region, scratchpad granule. -/
  lands : List (Nat × Nat × Nat) := []
  deriving DecidableEq, Repr

def Issue.raise (x : Issue) (code : Nat) : Issue := { x with raised := x.raised ++ [code] }
def Issue.modCell (x : Issue) (f : Cell → Cell) : Issue := { x with cell := f x.cell }

/-- The region of a slot changed. -/
def Cell.modRegion (c : Cell) (sl ri : Nat) (f : Region → Region) : Cell := c.modSlot sl fun x => x.modRegion ri f

/-- A read field: data, poison and errors; the arrival at its latency, merged with the first half of a spanning value
(R43, R47, R49, R54, R58). `clash` says that port A and port B collide on the granule (R48): the data is undefined. -/
def Issue.read (env : IssueEnv) (before : Cell) (clash : Nat → Bool) (x : Issue) (r : Reach) : Issue :=
  let x1 := if r.under then (x.modCell fun c => c.modRegion r.acc.slot (r.region.getD 0) fun y => { y with underrun := true }).raise stUnderrun else x
  let x2 := if r.bound then x1.modCell fun c => { c with flags := { c.flags with bound := true } } else x1
  let got : GranRead := match r.addr with
    | some g => if r.under then { gran := badGran } else before.readGran g
    | none => { gran := badGran }
  let und := match r.addr with
    | some g => clash g && !r.under
    | none => false
  let data := if und then leBytes 64 (Config.freeNat x2.free) else got.gran.data
  let x3 := if und then { x2 with free := x2.free + 1 } else x2
  let x4 := if got.ue.isEmpty then x3 else (x3.modCell fun c => { c with flags := { c.flags with fault := true } }).raise stEccUe
  let x5 := { x4 with corrected := x4.corrected ++ got.corrected, ue := x4.ue ++ got.ue,
                      cell := { x4.cell with writeBack := x4.cell.writeBack ++ got.corrected.filter (fun w => !x4.cell.writeBack.contains w),
                                             flags := if got.stored then { x4.cell.flags with storedPoison := true } else x4.cell.flags } }
  let rot := r.acc.low % 64
  let gr : Gran := { data := if rot = 0 then data else data.drop rot ++ data.take rot,
                     poison := if rot = 0 || got.gran.poison = 0 then got.gran.poison else 0xF }
  let ready := env.cyc + bankLatency (granBank r.at_)
  let me : Arrival := { ready := ready, issued := env.cyc, unit := r.acc.unit, slot := r.acc.slot, addr := r.at_, rot := rot,
                        reg := r.region, gran := gr }
  let first := x5.cell.units.arrivals.find? fun y =>
    rot != 0 && y.rot == rot && y.unit == me.unit && y.slot == me.slot && y.issued + 1 == env.cyc && !y.merged && y.addr + 1 == me.addr
  match first with
  | some f =>
    let merged : Arrival := { me with
      merged := true, gran := { data := f.gran.data.take (64 - rot) ++ gr.data.drop (64 - rot), poison := f.gran.poison ||| gr.poison } }
    x5.modCell fun c => { c with units := { c.units with arrivals := (c.units.arrivals.filter fun y => y != f) ++ [merged] } }
  | none => x5.modCell fun c => { c with units := { c.units with arrivals := c.units.arrivals ++ [me] } }

/-- What a write field takes: the value that its source has ready (R144, R145), the quarter number for UNIT 1. -/
def Units.source (u : Units) (cyc : Nat) (inbound : Option Flit) (a : Acc) (quarter : Nat) : Gran :=
  let pick := fun (d : List Byte) (bad : Bool) (h : Nat) => ({ data := bytesAt d (64 * h) 64, poison := if bad then 0xF else 0 } : Gran)
  let half := if bit 4 a.low then 1 else 0
  match a.unit with
  | 0 => match u.epi.find? fun r => r.ready == cyc && !r.toPort with
    | some r => pick r.data r.poison half
    | none => badGran
  | 1 => match u.vstore.find? fun r => r.ready == cyc with
    | some r => pick r.data r.poison (quarter % 4)
    | none => badGran
  | 2 => match inbound with
    | some f => pick f.data f.poison half
    | none => badGran
  | _ => match u.steerOut.find? fun r => r.ready == cyc with
    | some r => pick r.data r.poison 0
    | none => badGran

/-- A write field (R46, R54, R58): suppressed outside the window and in a full region. -/
def Issue.write (env : IssueEnv) (inbound : Option Flit) (quarter : Nat) (x : Issue) (r : Reach) : Issue :=
  if r.full then (x.modCell fun c => c.modRegion r.acc.slot (r.region.getD 0) fun y => { y with overrun := true }).raise stOverrun
  else match r.addr with
    | none => x.modCell fun c => { c with flags := { c.flags with bound := true } }
    | some g =>
      let v := x.cell.units.source env.cyc inbound r.acc quarter
      { x with cell := x.cell.writeGran g v.data v.bad (r.acc.low % 16), outs := x.outs ++ [(r.acc.slot, 1)],
               writes := x.writes ++ [v] }

/-- The region in which a landed flit lands (R422): a landed stream from its producer station to a station of this cell. -/
def Cell.landRegion (c : Cell) (streams : List Stream) (src : FlitSrc) : Option (Nat × Nat) :=
  match src with
  | .station p _ =>
    ([0, 1, 2, 3].filterMap fun sl => match (c.slot sl).station with
      | some d => (streams.find? fun m => m.landed && m.src == p && m.dst == d).map fun m => (sl, m.region)
      | none => none).head?
  | _ => none

/-- One granule of a landed stream, through port B, to the next granule in tail order (R111). A full region suppresses it. -/
def Issue.land (x : Issue) (w : LandWrite) : Issue :=
  let sl := x.cell.slot w.slot
  let r := sl.region w.region
  if r.landed = 0 && r.isFull then
    (x.modCell fun c => c.modRegion w.slot w.region fun y => { y with overrun := true }).raise stOverrun
  else
    let g := sl.entryGran r r.tail.toNat r.landed
    let c1 := x.cell.writeGran g w.gran.data w.gran.bad 15
    let c2 := c1.modRegion w.slot w.region fun y =>
      if y.landed + 1 = y.grans then { y.advTail with landed := 0 } else { y with landed := y.landed + 1 }
    { x with cell := c2, lands := x.lands ++ [(w.slot, w.region, g)], writes := x.writes ++ [w.gran] }

/-- Flits at the cell port in this cycle; the data of a landing block is written as its last flit arrives (R115). -/
def Cell.portNow (c : Cell) (cyc : Nat) : List Flit := (c.portIn.filter fun f => f.cyc == cyc && !f.flit.src matches .edge _).map fun f => f.flit

/-- Granules that land in this cycle (R111): second halves of the last cycle's flits first, then first halves; and the
second halves still to come. -/
def Cell.landNow (c : Cell) (streams : List Stream) (cyc : Nat) (fs : List Flit) : List LandWrite × List LandWrite :=
  let old := c.landWrites.filter fun w => w.cyc == cyc
  let pairs := fs.filterMap fun f => (c.landRegion streams f.src).map fun k => (f, k)
  let mk := fun (f : Flit) (k : Nat × Nat) (at_ h : Nat) =>
    ({ cyc := at_, slot := k.1, region := k.2, gran := { data := bytesAt f.data (64 * h) 64, poison := if f.poison then 0xF else 0 } } : LandWrite)
  (old ++ pairs.map fun p => mk p.1 p.2 cyc 0, pairs.map fun p => mk p.1 p.2 (cyc + 1) 1)

/-- The flit issued to the cell port (R145, R422): UNIT 6 reads that arrive, or an epilogue row; and the output granules. -/
def Cell.portOut (c : Cell) (env : IssueEnv) (as : List Arrival) : Option Flit × List (Nat × Nat) :=
  let g6 := as.filter fun a => a.unit == 6
  let src := fun (sl : Nat) => match (c.slot sl).station with
    | some d => FlitSrc.station d c.n
    | none => FlitSrc.none
  match g6 with
  | a :: rest =>
    let two := (a :: rest).take 2
    let xw := env.xwriteOf a.slot a.reg
    (some { data := bytesAt (two.flatMap fun y => bytesAt y.gran.data 0 64) 0 128, poison := two.any fun y => y.gran.bad,
            src := match xw with
              | some w => .crossing w.id
              | none => src a.slot }, [(a.slot, two.length)])
  | [] =>
    match c.units.epi.find? fun r => r.ready == env.cyc && r.toPort with
    | some r => (some { data := bytesAt r.data 0 128, poison := r.poison, src := src r.slot },
                 [(r.slot, if (c.slot r.slot).math.outfmt = 0 then 2 else 1)])
    | none => (none, [])

/-- Values that this cycle was the last to offer are dropped. -/
def Units.settle (u : Units) (cyc : Nat) : Units :=
  { u with epi := u.epi.filter fun r => cyc < r.ready, vstore := u.vstore.filter fun r => cyc < r.ready,
           steerOut := u.steerOut.filter fun r => cyc < r.ready }

/-- Granules of banks 0 and 1 that both ports touch in one cycle with a write among them (R48). Landed writes use port B. -/
def clashes (accs : List Reach) (lands : List Nat) (g : Nat) : Bool :=
  let us := accs.filter fun r => r.addr == some g && !r.under
  let a := us.any fun r => !r.acc.portB
  let b := (us.any fun r => r.acc.portB) || lands.contains g
  let w := (us.any fun r => r.acc.wr) || lands.contains g
  granBank g < 2 && a && b && w

/-- Pointers move for every access marked advance that was performed (R57, R58). -/
def Cell.advance (c : Cell) (accs : List Reach) : Cell :=
  accs.foldl (fun c r => match r.region with
    | some ri =>
      if !r.acc.adv || r.under || r.full then c
      else c.modRegion r.acc.slot ri fun y =>
        if r.acc.wr then y.advTail else { y.advHead with filled := y.filled.filter fun e => e != y.head.toNat }
    | none => c) c

/-- Where landed granules of this cycle go, by the pointers at the start of the cycle. -/
def Cell.landGrans (c : Cell) (ws : List LandWrite) : List Nat :=
  ws.map fun w => let sl := c.slot w.slot; let r := sl.region w.region; sl.entryGran r r.tail.toNat r.landed

/-- One static-mode issue of word `op` as its n-th issue in the step. -/
def Cell.issue (c0 : Cell) (env : IssueEnv) (op : Op) (n free : Nat) : Issue :=
  let c := { c0 with units := c0.units.retire env.cyc }
  let as := c.units.arrivals.filter fun a => a.ready ≤ env.cyc
  let fs := c.portNow env.cyc
  let accs := (op.accs.filter fun a => a.en).map (c.reach n)
  let takes := accs.any fun r => r.acc.wr && r.acc.unit == 2
  let inbound := if takes then fs.head? else none
  let (now, later) := c.landNow env.streams env.cyc (if takes then fs.drop 1 else fs)
  let lands := c.landGrans now
  let clash := clashes accs lands
  let busy := (accs.filterMap fun r => r.addr).any clash
  let c1 := { c with units := { c.units with arrivals := c.units.arrivals.filter fun a => env.cyc < a.ready },
                     portIn := c.portIn.filter fun f => f.cyc != env.cyc,
                     landWrites := (c.landWrites.filter fun w => w.cyc != env.cyc) ++ later,
                     flags := if busy then { c.flags with busy := true } else c.flags }
  let x0 : Issue := { cell := c1, free := free, accs := accs, reads := as.map fun a => a.gran }
  let x1 := (accs.filter fun r => !r.acc.wr).foldl (Issue.read env c clash) x0
  let es := x1.cell.slot op.epi.eslot
  let u1 := x1.cell.units.griddle op.grid n (op.accs.filter fun a => a.en && !a.wr && a.unit == 1).length (groupSize es.math false) as
  let u2 := u1.vector op.vec env.cyc as
  let (u3, es1) := if op.epi.een then u2.drain op.epi n env.cyc es else (u2, es)
  let u4 := u3.param op.epi.psel (feeds as 5)
  let (bad, u5) := u4.steering op.steer env.cyc as
  let x2 := x1.modCell fun c => ({ c with units := u5 }.modSlot op.epi.eslot fun _ => es1)
  let x3 := if bad then x2.raise stPairTimeout else x2
  let x4 := ((accs.filter fun r => r.acc.wr).foldl (fun (p : Issue × Nat) r =>
    (p.1.write env inbound p.2 r, if r.acc.unit = 1 then p.2 + 1 else p.2)) (x3, 0)).1
  let x5 := now.foldl Issue.land x4
  let out := x5.cell.portOut env as
  let x6 := x5.modCell fun c => { c.advance accs with units := c.units.settle env.cyc }
  { x6 with flit := out.1, outs := x6.outs ++ out.2, page := if op.steer.pgv then some op.steer.page else none }

end Sys2Proof.Machine
end

