-- ==== Sys2Proof/Machine/Calendar.lean ====
section
/-! DEFINITION. The hob cycle and what a cell does in it: HOB_CYCLE_ADVANCE, CAL_WORD_ISSUE, RESIDUE_FAULT, ECC_WRITE_BACK
and SPARE_ROW_REMAP (R38, R49, R50, R97, R98, R138 to R151). -/

namespace Sys2Proof.Machine

open Sys2Proof

/-- The recipe in force, an empty one where none is loaded. -/
def Hob.rcp (h : Hob) : Recipe := h.recipe.getD {}

/-- Whether the hob runs in sequencer mode (R156). -/
def Hob.seqMode (h : Hob) : Bool := h.rcp.mode == 1

/-- Hob cycles of a period and of a step (R125). -/
def Recipe.periodLen (r : Recipe) : Nat := r.period * 256
def Recipe.stepLen (r : Recipe) (k : Nat) : Nat := (r.fences.getD k {}).periods * r.periodLen

/-- Whether a step is in progress and its calendars are not frozen: the hob executes hob cycles. -/
def Hob.executing (h : Hob) : Bool := h.runs && h.clk.live && !h.hold.frozen

/-- Whether the running step has reached its fence (R128): its last hob cycle is over. -/
def Hob.atFence (h : Hob) : Bool := !h.seqMode && h.clk.inStep == h.rcp.stepLen h.clk.step

/-- One unheld MCLK edge (R97, R98): the clock after it and whether the hob advanced. `f` is MCLK and `d` the declared
clock, both in MHz. -/
def Clock.edge (c : Clock) (f d : Nat) : Clock × Bool :=
  if f > d then
    if c.acc + d ≥ f then ({ c with acc := c.acc + d - f, cyc := c.cyc + 1 }, true) else ({ c with acc := c.acc + d }, false)
  else ({ c with cyc := c.cyc + 1 }, true)

/-- One MCLK edge for a hob: a held edge counts into `HOB_HOLD_CYC` and changes nothing else (R98, R123); on an unheld
one the counter advances unless the hob is gated. Cause 4 ends with the window's held span (R124), cause 7 with
its edges (R324). -/
def Hob.mclkEdge (h : Hob) (mclk : Nat) : Hob :=
  let h1 := { h with simmer := { h.simmer with edge := h.simmer.edge + 1 } }
  if h.hold.frozen then
    let h0 := { h1 with hold := { h1.hold with cyc := h1.hold.cyc + 1 } }
    let h2 := if h0.hold.forcedTo ≤ h0.hold.cyc.toNat then h0.endCause 7 else h0
    if h1.simmer.edge ≥ h1.simmer.duty.toNat * 16 then h2.endCause 4 else h2
  else if h.atFence then h1
  else
    let c := (h1.clk.edge mclk h1.rcp.mclk).1
    { h1 with clk := if h1.seqMode then { c with unheld := if mclk = 0 then c.unheld else c.unheld.upd 0 mclk (· + 1) } else c }

/-- Place in the pass of period j of step k (R107, R421). -/
def Recipe.passPeriod (r : Recipe) (k j : Nat) : Nat := ((r.fences.take k).map fun f => f.periods).foldl (· + ·) 0 + j

/-- The period CRC of a cell and of a router's outputs is set aside for comparison at a period's end (R107). -/
def Cell.endPeriod (c : Cell) (fence idx : Nat) : Cell := { c with crcDue := c.crcDue ++ [(fence, idx, c.crc)], crc := crcInit }

def Router.endPeriod (r : Router) (fence idx : Nat) : Router :=
  { r with crcDue := r.crcDue ++ [(fence, idx, (List.range 5).map (r.crc.get crcInit))], crc := [] }

/-- Every cell and router of a static hob at the end of a period. -/
def State.endPeriod (s : State) (h : Nat) : State :=
  let x := s.hob h
  let len := x.rcp.periodLen
  if x.seqMode || len = 0 || x.clk.inStep = 0 || x.clk.inStep % len ≠ 0 then s
  else
    let idx := x.rcp.passPeriod x.clk.step (x.clk.inStep / len - 1)
    s.each (s.nums h) fun s n =>
      (s.modCell (s.posOf h n) fun c => c.endPeriod x.clk.fence idx).modRouter (s.routerPos h n) fun r => r.endPeriod x.clk.fence idx

/-- Stalled sequencers count the edge; the register shows the count divided by 1,024 (R164). -/
def Slot.stallEdge (x : Slot) : Slot :=
  if 1 ≤ x.seq.wait.toNat && x.seq.wait.toNat ≤ 5 then
    { x with stallCyc := x.stallCyc + 1, seq := { x.seq with stalls := satNat 32 ((x.stallCyc + 1) / 1024) } }
  else x

def State.stallTick (s : State) (h : Nat) : State :=
  if (s.hob h).seqMode then s.modCells h fun c => { c with slots := c.slots.map fun e => (e.1, e.2.stallEdge) } else s

/-- The cycle that a failed check point names is never executed: a request that has not reached the hob before it freezes it there
(R118); so does a hold that the hearth has named for it (R120). -/
def Hob.holdDue (h : Hob) (now : Nat) : Hob :=
  let h1 := match h.hold.req, h.hold.target with
    | some (cause, xng), some t => if t ≤ h.clk.cyc then h.freeze now cause xng else h
    | _, _ => h
  h1.reachTarget now

/-- HOB_CYCLE_ADVANCE (R97, R98). A period that ends with the edge leaves its checksums to be compared (R107). A hold due at the
cycle that it reaches freezes the hob before that cycle executes (R118, R120). A replay that has reached the point of its fault
ends its downtime (R13, R274). -/
def execHobCycleAdvance (hob : HobId) (s : State) : Res :=
  let h := s.hob hob.val
  if h.runs && h.clk.live then
    let h1 := h.mclkEdge s.damper.mclk.toNat
    let back := h.replay.active && h.replay.until_ ≤ h1.clk.cyc
    let h2 := if back then { h1 with replay := { h1.replay with active := false } } else h1
    let h3 := if h2.hold.frozen then h2 else h2.holdDue s.now
    let s0 := if h2.hold.frozen then s.setHob hob.val h3 else (s.setHob hob.val h3).stallTick hob.val
    let s1 := if back then s0.avlStop 1 hob.val else s0
    done (if h1.clk.cyc = h.clk.cyc then s1 else s1.endPeriod hob.val)
  else done s

/-! ### CAL_WORD_ISSUE -/

/-- Bit errors strike before the cycle: one or two flipped bits of a scratchpad word or of a 16 B half of the calendar store (R49,
R138). -/
def Cell.upset (c : Cell) (u : Upset) : Cell :=
  let add := fun (t : Tab Nat) => t.put 0 u.word (t.get 0 u.word + if u.double then 2 else 1)
  if u.store then { c with storeErr := add c.storeErr } else { c with wordErr := add c.wordErr }

/-- The store words that are read with OP word i (R139, R140): the word itself, and the STEP and LOOP words that stand directly before it.
The chapter does not say how often the expander reads those: DESIGN CHOICE, with each issue of the OP word (notes/assumptions/82.md). -/
def fetchedWith (store : List Nat) (i : Nat) : List Nat :=
  let lead := ((List.range i).reverse.takeWhile fun j => wordKind (store.getD j 0) != 0)
  i :: lead

/-- The word a cell fetches for cycle t of step k (R138): a corrected store word is written back; an uncorrectable or poisoned one
gives an idle word (R267). The result is the word, n, whether it was uncorrectable, and the cell. -/
def Cell.fetch (c : Cell) (k t : Nat) : Nat × Nat × Bool × Cell :=
  let store := c.store.map BitVec.toNat
  match wordAt store k t with
  | none => (0, 0, false, c)
  | some (i, w, n) =>
    if c.storeErr.isEmpty && c.storePoison.isEmpty then (w, n, false, c)
    else
      let halves := (fetchedWith store i).flatMap fun j => [2 * j, 2 * j + 1]
      let bad := halves.any fun k => decide (2 ≤ c.storeErr.get 0 k) || c.storePoison.contains k
      if bad then (0, 0, true, c) else (w, n, false, { c with storeErr := halves.foldl (fun t k => t.erase k) c.storeErr })

/-- Output granules counted into blocks of 64 (R270). -/
def Taste.count (t : Taste) (outs : List (Nat × Nat)) : Taste :=
  outs.foldl (fun t o =>
    let g := t.grans.get 0 o.1 + o.2
    let b := t.blocks + g / 64
    { t with grans := t.grans.put 0 o.1 (g % 64), blocks := b, due := t.due || (g / 64 != 0 && t.blocks < t.nextAt && t.nextAt ≤ b) }) t

/-- What the trace of a window records of an issue (R269). -/
def TraceHalf.record (h : TraceHalf) (word : Nat) (x : Issue) : TraceHalf :=
  if !h.recording then h
  else { h with words := h.words ++ [BitVec.ofNat 256 word], reads := h.reads ++ x.reads, writes := h.writes ++ x.writes,
                flits := h.flits ++ x.flit.toList }

/-- Write crossings whose data a cell sends (R115). -/
def Recipe.xwritesAt (r : Recipe) (n : Nat) : List XWrite :=
  (r.crossings.filter fun x => (x.kind == 1 || x.kind == 2 || x.kind == 5) && x.cell == n).map fun x =>
    { id := x.id, slot := x.slot, region := x.region, issue := x.issue }

/-- The physical row of a scratchpad word: bank × 64 + row (R42). -/
def rowOfWord (w : Nat) : Nat := w / 16

/-- Row errors of a position (R50): a second corrected error within 24 hours, or any uncorrectable one, makes the row due
for a spare. -/
def Health.rowErrors (x : Health) (nowMs : Nat) (corrected ue : List Nat) : Health :=
  let x1 := corrected.foldl (fun (x : Health) w =>
    let r := rowOfWord w
    let recent := (x.rowCe.get [] r).filter fun t => nowMs < t + 86400000
    { x with rowCe := x.rowCe.put [] r (nowMs :: recent), remapDue := if recent.isEmpty then x.remapDue else mark x.remapDue r true }) x
  ue.foldl (fun (x : Health) w => { x with remapDue := mark x.remapDue (rowOfWord w) true }) x1

/-- Reads of a cell outside its calendar are charged to the cell and to its position's rows (R49, R50). -/
def State.meter (s : State) (p : Nat) (rs : List GranRead) : State :=
  let s1 := s.modCell p fun c => c.charge rs
  let fix := rs.flatMap fun r => r.corrected
  let ue := rs.flatMap fun r => r.ue
  if fix.isEmpty && ue.isEmpty then s1 else s1.modPos p fun y => y.rowErrors s.lifeMs fix ue

/-- The first breach of a step is kept: its status, cell and crossing or fence (R59). -/
def Run.note (r : Run) (status cell info : Nat) : Run :=
  if r.breach.isSome then r else { r with breach := some { status := status, detail := cell, info0 := info } }

/-- What follows an issue outside the cell: breaches of the schedule contract, the router's page request and input flit,
row errors. -/
def State.afterIssue (s : State) (h n p cyc : Nat) (x : Issue) : State :=
  let s1 := s.modHob h fun y => { y with run := (x.raised.filter fun c => c != stEccUe).foldl (fun r c => r.note c n 0) y.run }
  let rp := s.routerPos h n
  let s2 := match x.page with
    | some g => s1.modRouter rp fun r => { r with pageReq := some (g, cyc) }
    | none => s1
  let s3 := match x.flit with
    | some f => s2.modRouter rp fun r => { r with inputs := r.inputs ++ [{ cyc := cyc + 1, inp := .loc, flit := f }] }
    | none => s2
  if x.corrected.isEmpty && x.ue.isEmpty then s3 else s3.modPos p fun y => y.rowErrors s.lifeMs x.corrected x.ue

/-- The issue of a cell's word in the hob cycle in force: the cell after it, and the issue. -/
def State.issueAt (s : State) (h : Hob) (c : Cell) (n : Nat) : Issue × Nat :=
  let (w, k, ue, c1) := c.fetch h.clk.step h.clk.inStep
  let r := h.rcp
  let env : IssueEnv := { cyc := h.clk.cyc, inPeriod := h.clk.inStep % r.periodLen, streams := r.streams, xwrites := r.xwritesAt n }
  let c2 := if ue then { c1 with flags := { c1.flags with fault := true } } else c1
  (c2.issue env (opOf w) k s.free, w)

/-- CAL_WORD_ISSUE (R142): a static-mode cell issues the word in force for the hob cycle, once. In a cycle whose store word is
uncorrectable R151 does not say what feeds the checksum: DESIGN CHOICE, the 32 zero bytes of the idle word issued in its place do
(notes/assumptions/82.md). -/
def execCalWordIssue (cell : Pos) (upsets : List Upset) (s : State) : Res :=
  let p := cell.idx
  let c0 := s.cell p
  match c0.hob with
  | none => done s
  | some h =>
    let x := s.hob h
    if !x.executing || x.seqMode || x.atFence || c0.issued = x.clk.cyc + 1 then done s
    else
      let (i, w) := s.issueAt x (upsets.foldl Cell.upset c0) c0.n
      let c := { i.cell with issued := x.clk.cyc + 1, crc := crcFeed i.cell.crc (leBytes 32 w),
                             taste := { (i.cell.taste.count i.outs) with cur := i.cell.taste.cur.record w i } }
      done (({ s with free := i.free }.setCell p c).afterIssue h c0.n p x.clk.cyc i)

/-- RESIDUE_FAULT (R38): the accumulator row is poisoned, and the cell's fault flag is set (R268). -/
def execResidueFault (cell : Pos) (bank : Fin 2) (row : Fin 32) (s : State) : Res :=
  let p := cell.idx
  let c := s.cell p
  if c.hob.isNone then done s
  else
    let k := accKey bank.val row.val
    let u := { c.units with acc := c.units.acc.put {} k { c.units.acc.get {} k with poison := true } }
    done (s.setCell p { c with units := u, flags := { c.flags with fault := true } })

/-- ECC_WRITE_BACK (R49): the oldest corrected word is written back with good check bits. Holds do not stop it (R64). -/
def execEccWriteBack (cell : Pos) (s : State) : Res :=
  let p := cell.idx
  let c := s.cell p
  match c.writeBack with
  | [] => done s
  | w :: rest => done (s.setCell p { c with writeBack := rest, wordErr := c.wordErr.erase w })

/-- Spare rows of a bank (R42), by number 1 to 8. -/
def spareNums : List Nat := [1, 2, 3, 4, 5, 6, 7, 8]

/-- The spare row that a row takes next: the lowest one that no row of the bank maps to and that has not itself been given up
(R42, R50). -/
def Health.nextSpare (x : Health) (bank : Nat) : Option Nat :=
  spareNums.find? fun n => !(x.rowMap.any fun e => e.1 / 64 == bank && e.2 == n) && !x.spareBad.contains (bank * 16 + n)

/-- A row takes the next spare row of its bank; a spare that it had before is given up (R50). -/
def Health.remapRow (x : Health) (r : Nat) : Health :=
  match x.nextSpare (r / 64) with
  | some n =>
    let old := x.rowMap.get 0 r
    { x with rowMap := x.rowMap.put 0 r n, remapDue := mark x.remapDue r false, rowCe := x.rowCe.erase r,
             spareBad := if old = 0 then x.spareBad else mark x.spareBad (r / 64 * 16 + old) true }
  | none => x

/-- SPARE_ROW_REMAP (R50): while the position is TASTING its due rows take spare rows of their banks; a bank whose 8 spares
are used up keeps the row due, and its faults count toward the score (R300). -/
def execSpareRowRemap (cell : Pos) (s : State) : Res :=
  let p := cell.idx
  let x := s.pos p
  if x.state ≠ .tasting then done s
  else
    done (s.setPos p (x.remapDue.foldl Health.remapRow x))

end Sys2Proof.Machine
end

