-- ==== Sys2Proof/Machine/Router.lean ====
section
/-! DEFINITION. Routers: ROUTER_SLOT_FORWARD, ROUTER_PAGE_SWITCH and PERIOD_CHECKSUM (R19, R103 to R108, R172, R187, R265). -/

namespace Sys2Proof.Machine

open Sys2Proof

/-- The logical coordinates that a position's router serves under its rack's gap (R16); none at the gap. -/
def State.logicalAt (s : State) (p : Nat) : Option (Nat × Nat) :=
  let pos := Pos.ofIdx p
  let g := (s.rack pos.rack.idx).gap.toNat
  let i := pos.inRack
  if i = g then none else some (8 * pos.rack.k.val + (if i < g then i else i - 1), pos.py.val)

/-- Whether a rectangle holds logical (x, y), and the cell number there. -/
def Shape.num (sh : Shape) (x y : Nat) : Option Nat :=
  if sh.x0 ≤ x && x < sh.x0 + sh.w && sh.y0 ≤ y && y < sh.y0 + sh.h then some ((y - sh.y0) * sh.w + (x - sh.x0)) else none

/-- The hob and cell number whose logical router stands at a position. -/
def State.routerAt (s : State) (p : Nat) : Option (Nat × Nat) :=
  match s.logicalAt p with
  | none => none
  | some (x, y) =>
    (hobNums.filterMap fun h => match (s.hob h).shape with
      | some sh => (sh.num x y).map fun n => (h, n)
      | none => none).head?

/-- Parity groups with an odd number of flipped wires: wire w of 1,024 data wires is in group w / 32, parity wire
1,024 + g in group g (R68, R265). -/
def badGroups (flipped : List Nat) : List Nat :=
  (List.range 32).filter fun g =>
    (flipped.filter fun w => if w < 1024 then w / 32 == g else w == 1024 + g).length % 2 == 1

/-- The parity groups that fail at the receiver: those with an odd number of flipped wires, and the others where the flit was sent as
poison, with every parity bit inverted (R267). -/
def Flit.failing (f : Flit) (flipped : List Nat) : List Nat :=
  if f.poison then (List.range 32).filter fun g => !(badGroups flipped).contains g else badGroups flipped

/-- A flit after a link with flipped wires: its bits, and whether it counts as poison, which it does when every group fails (R267). -/
def Flit.cross (f : Flit) (flipped : List Nat) : Flit :=
  let v := leNat f.data
  let ws := flipped.filter fun w => w < 1024
  let d := leBytes 128 (ws.foldl (fun v w => v ^^^ 2 ^ w) v)
  { f with data := d, poison := (f.failing flipped).length == 32, sent := if ws.isEmpty then f.sent else some (f.sent.getD f.data) }

/-- Whether the receiver raises PARITY_FAULT: some groups fail, and not all (R267). -/
def Flit.parityBad (f : Flit) (flipped : List Nat) : Bool := !(f.failing flipped).isEmpty && (f.failing flipped).length != 32

/-- The wires that a parity fault counts against: those of the groups with an odd number of flips (R68, R273). -/
def badWires (flipped : List Nat) : List Nat :=
  flipped.filter fun w => (badGroups flipped).contains (if w < 1024 then w / 32 else w - 1024)

/-- A fault of a step is charged to the cell while the step runs, and to its closing fence after (R131, R273). -/
def State.faultOf (s : State) (h n f : Nat) : State :=
  let x := s.hob h
  if x.closing.any fun c => c.fence == f then
    s.modHob h fun y => { y with closing := y.closing.map fun c => if c.fence = f then { c with fault := true } else c }
  else s.modCell (s.posOf h n) fun c => { c with flags := { c.flags with fault := true } }

/-- A breach that fails a step without a replay: the step that runs, or one whose fence is closing. -/
def State.failStep (s : State) (h f : Nat) (e : End) : State :=
  s.modHob h fun y =>
    if y.closing.any fun c => c.fence == f then
      { y with closing := y.closing.map fun c => if c.fence = f then { c with failed := some (c.failed.getD e) } else c }
    else { y with run := y.run.note e.status e.detail e.info0 }

/-- SCHED_VIOLATION of cell n in a period of the step that ends at fence f: the step is replayed once, and the same cell and period
again after the replay leaves the hob STOPPED (R136). -/
def State.schedViolation (s : State) (h n period f : Nat) : State :=
  let s1 := s.faultOf h n f
  let r := (s.hob h).replay
  if r.sched.contains (n, period) then s1.failStep h f { status := stSched, detail := n, info0 := period }
  else if r.noted.contains (n, period) then s1
  else s1.modHob h fun y => { y with replay := { y.replay with noted := y.replay.noted ++ [(n, period)] } }

/-- The period of the pass in which the hob executes. -/
def Hob.periodNow (h : Hob) : Nat :=
  if h.rcp.periodLen = 0 then 0 else h.rcp.passPeriod h.clk.step (h.clk.inStep / h.rcp.periodLen)

/-- The history of a link's faulty wires: a second fault on a wire within an hour makes it due for a spare (R68, R273). -/
def Router.wireFault (r : Router) (code life : Nat) (wires : List Nat) : Router :=
  wires.foldl (fun (r : Router) w =>
    let k := code * 2048 + w
    let again := match r.wireHist.find? fun e => e.1 == k with
      | some e => decide (life < e.2 + 3600 * secNs)
      | none => false
    { r with wireHist := Tab.ins (r.wireHist.erase k) k life, steerDue := if again then mark r.steerDue k true else r.steerDue }) r

/-- The history of the physical link that logical (x, y) drives in a direction (R68, R273). -/
def State.wireHistory (s : State) (x y : Nat) (out : Dir) (wires : List Nat) : State :=
  let code := s.linkOf x y out
  s.modRouter (s.homeOf x y).idx fun r => r.wireFault code s.life wires

/-- PARITY_FAULT at the receiving router of cell n (R265): the receiver's fault flag, and the link's history. -/
def State.parityFault (s : State) (h n x y : Nat) (out : Dir) (wires : List Nat) : State :=
  (s.modCell (s.posOf h n) fun c => { c with flags := { c.flags with fault := true } }).wireHistory x y out wires

/-- A flit of a write crossing reaches its edge stop: 32 flits make a block of the oldest issue that still wants data; a
flit's poison marks its two lines (R115), and data that wires have changed unseen by parity fails the block's CRC-32C (R205, R266). -/
def State.edgeFlit (s : State) (h k : Nat) (f : Flit) : State :=
  let buf := ((s.hob h).xng.get {} k).buf ++ [(f.data, f.poison, f.sent)]
  let wants := fun (t : Txn) => t.write && t.data.isEmpty && (match t.kind with
    | .crossing hn x _ => hn == h && x == k
    | _ => false)
  let keep := fun b => s.modHob h fun z => { z with xng := z.xng.upd {} k fun q => { q with buf := b } }
  if buf.length < 32 then keep buf
  else match s.txns.find? wants with
    | none => keep buf
    | some t =>
      let blk := buf.take 32
      let bad := blk.zipIdx.flatMap fun x => if x.1.2.1 then [2 * x.2, 2 * x.2 + 1] else []
      let data := blk.flatMap fun x => bytesAt x.1 0 128
      let sent := blk.flatMap fun x => bytesAt (x.2.2.getD x.1) 0 128
      let t1 := { t with data := data, poison := bad, crcBad := crc32c data != crc32c sent }
      { keep (buf.drop 32) with txns := s.txns.map fun u => if u.id = t.id then t1 else u }

/-- A static flit leaves by an output: to the neighbour's input, to the cell port, or to the edge stop of a crossing. -/
def State.sendStatic (s : State) (h n x y cyc : Nat) (out : Dir) (f : Flit) (flipped : List Nat) : State :=
  match out with
  | .loc => s.modCell (s.posOf h n) fun c => { c with portIn := c.portIn ++ [{ cyc := cyc + 1, flit := f }] }
  | _ =>
    match neighbour x y out with
    | none => match f.src with
      | .crossing k => s.edgeFlit h k f
      | _ => s
    | some (x', y') => match (s.hob h).rect.num x' y' with
      | none => s
      | some m =>
        let g := f.cross flipped
        let s1 := s.modRouter (s.routerPos h m) fun r =>
          { r with inputs := r.inputs ++ [{ cyc := cyc + hopCycles x y out, inp := out.facing, flit := g }] }
        if f.parityBad flipped then s1.parityFault h m x y out (badWires flipped) else s1

/-- The output a dynamic flit wants at logical (x, y): first along the row, then along the column (R172). -/
def dynOut (x y tx ty : Nat) : Dir :=
  if x < tx then .east else if tx < x then .west else if y < ty then .south else if ty < y then .north else .loc

/-- Channels that a free entry admits, in the order of R105: MGT, RPL, REQ. -/
def freeOrder (vc : Nat) : List Nat :=
  match vc with
  | 1 => [0] | 2 => [1] | 3 => [2] | _ => [0, 2, 1]

/-- The message that a flit belongs to: its sender and tag as one number. -/
def Flit.key (f : Flit) : Option Nat :=
  match f.src with
  | .dynamic _ _ k _ _ => some k
  | _ => none

/-- Key of an output's channel in `Router.worm`. -/
def wormKey (out : Dir) (vc : Nat) : Nat := out.code * 3 + vc

/-- Whether an output's channel may take a flit: no other message holds it (R172). -/
def Router.openTo (r : Router) (f : DynFlit) : Bool :=
  let k := r.worm.get 0 (wormKey f.out f.vc)
  k == 0 || f.flit.key == some (k - 1)

/-- A flit has gone by its output: a message holds the channel until its last flit (R172). -/
def Router.wormed (r : Router) (f : DynFlit) : Router :=
  match f.flit.src with
  | .dynamic _ _ k _ last => { r with worm := r.worm.put 0 (wormKey f.out f.vc) (if last then 0 else k + 1) }
  | _ => r

/-- The dynamic flit that a free slot of an output sends: the first channel admitted that has one waiting. -/
def Router.nextDyn (r : Router) (out : Dir) (vc : Nat) : Option DynFlit :=
  ((freeOrder vc).filterMap fun v => r.dyn.find? fun f => f.vc == v && f.out == out && r.openTo f).head?

/-- Room for one more flit on a channel of an input: four flits of 128 B (R66). -/
def Router.room (r : Router) (inp : Dir) (vc : Nat) : Bool := decide ((r.dyn.filter fun g => g.vc == vc && g.inp == inp).length < 4)

/-- The output that a dynamic flit wants at logical (x, y): along the row, then the column, then the cell or the edge that it
leaves by (R172). -/
def DynFlit.wants (f : DynFlit) (x y : Nat) : Dir :=
  match dynOut x y f.tx f.ty with
  | .loc => f.edge.getD .loc
  | d => d

/-- Flits that the message engine has built enter the router's local input as it has room (R65, R66). -/
def State.refill (s : State) (h n : Nat) : State :=
  let p := s.posOf h n
  let xy := (s.hob h).rect.xy n
  (s.cell p).engineOut.foldl (fun (s : State) f =>
    let q := s.routerPos h n
    if ((s.cell p).engineOut.find? fun g => g.vc == f.vc) == some f && (s.router q).room .loc f.vc then
      (s.modCell p fun c => { c with engineOut := c.engineOut.erase f }).modRouter q fun r =>
        { r with dyn := r.dyn ++ [{ f with inp := .loc, out := f.wants xy.1 xy.2 }] }
    else s) s

/-! ### Dual-clock queues (R29, R30, R199) -/

/-- The channels of the rim. -/
inductive Chan where
  | static | mgt | req | rpl
  deriving DecidableEq, Repr

/-- The places where a dual-clock queue joins the rim: an edge interface, or a client of the distance table. -/
inductive QueueSite where
  | stop (t : Stop)
  | client (c : Nat)
  deriving DecidableEq, Repr

/-- The channels that a place has in each direction (R29): clients 0 to 11 stacks, 12 to 27 Lanper engines, 28 to 31 host ports, 32
the hearth link, 33 the pantry. -/
def QueueSite.chans : QueueSite → List Chan
  | .stop _ => [.static, .mgt, .req, .rpl]
  | .client c =>
    if c < 28 then [.static, .mgt, .req, .rpl] else if c < 32 then [.mgt, .req, .rpl] else if c = 32 then [.mgt] else [.req, .rpl]

/-- The channel of a dynamic flit. -/
def vcChan : Nat → Chan
  | 0 => .mgt
  | 1 => .req
  | _ => .rpl

/-- Entries of 128 B that a queue holds on a channel: at least two whole blocks (R30). Room for the blocks of one egress, of which
there are at most 16, is DEDUCED from R118 (notes/assumptions/83.md). -/
def queueEntries : Nat := 32 * max 16 Config.queueBlocks

/-- A stage takes the first entry of a block only with room for all 32 (R30, R199). -/
def roomForBlock (used : Nat) : Bool := decide (used + 32 ≤ queueEntries)

/-- Entries of a dynamic channel's queue toward the mesh (R29): at the edge interface of a logical router on the die's edge, or at a
client of the rim. -/
def State.dynQueued (s : State) (site : QueueSite) (vc : Nat) : Nat :=
  match site with
  | .stop t => (s.edgeIn.filter fun e => e.2.2.vc == vc && exitStop e.1 e.2.1 e.2.2.inp == t).length
  | .client c => (s.rimIn.filter fun e => e.1 == c && e.2.2.2.vc == vc).length

/-- Whether a place takes one more block on a dynamic channel: it has the channel, and room for the whole block (R29, R30). -/
def State.dynRoom (s : State) (site : QueueSite) (vc : Nat) : Bool :=
  site.chans.contains (vcChan vc) && roomForBlock (s.dynQueued site vc)

/-- Flits in the queues of the rim's clients cross to the edge interface at which they enter the mesh, oldest first, by whole blocks of
32 at most and as that interface has room for a block (R29, R30, R199). -/
def State.crossRim (s : State) (x y : Nat) : State :=
  [0, 1, 2].foldl (fun (s : State) vc =>
    match s.rimIn.find? fun e => e.2.1 == x && e.2.2.1 == y && e.2.2.2.vc == vc with
    | none => s
    | some e =>
      if !s.dynRoom (.stop (exitStop x y e.2.2.2.inp)) vc then s
      else
        let blk := (s.rimIn.filter fun d => d.1 == e.1 && d.2.1 == x && d.2.2.1 == y && d.2.2.2.vc == vc && d.2.2.2.inp == e.2.2.2.inp).take 32
        { s with rimIn := blk.foldl (fun l d => l.erase d) s.rimIn, edgeIn := s.edgeIn ++ blk.map fun d => d.2 }) s

/-- A message's header is stamped as it enters the mesh (R172). -/
def DynFlit.stamped (f : DynFlit) (now : Nat) : DynFlit :=
  match f.flit.src with
  | .dynamic _ _ _ true _ => { f with flit := { f.flit with data := f.flit.data.take 64 ++ leBytes 8 now ++ f.flit.data.drop 72 } }
  | _ => f

/-- Flits that wait at the edge stop of logical (x, y) enter its router as the input has room (R66). -/
def State.enterEdge (s : State) (x y : Nat) : State :=
  let s1 := s.crossRim x y
  s1.edgeIn.foldl (fun (s : State) e =>
    let p := (s.homeOf x y).idx
    if e.1 == x && e.2.1 == y && (s.edgeIn.find? fun d => d.1 == x && d.2.1 == y && d.2.2.vc == e.2.2.vc) == some e &&
        (s.router p).room e.2.2.inp e.2.2.vc then
      ({ s with edgeIn := s.edgeIn.erase e }).modRouter p fun r =>
        { r with dyn := r.dyn ++ [{ e.2.2.stamped s.now with out := e.2.2.wants x y }] }
    else s) s1

/-- A message engine's flits join its queue (R65). -/
def State.inject (s : State) (h n : Nat) (fs : List DynFlit) : State :=
  (s.modCell (s.posOf h n) fun c => { c with engineOut := c.engineOut ++ fs }).refill h n

/-- The sender of a message as a number: the cell's slot, or a rim origin. -/
def Origin.num : Origin → Nat
  | .cell n slot => 4 * n + slot
  | .hostPort p => 32768 + p
  | .hearth => 32772
  | .lanper p => 32776 + p

/-- A message's sender and tag as one number. -/
def Origin.key (o : Origin) (tag : Nat) : Nat := o.num * 65536 + tag

/-- A flit reaches the message engine (R65). Data of a message that has neither a header here nor a landing is discarded (R178,
R179). -/
def Cell.takeFlit (c : Cell) (f : Flit) : Cell :=
  let wanted := match f.src with
    | .dynamic _ _ k false _ => (c.landings.any fun l => l.origin.key l.tag == k) || c.engineIn.any fun g => g.key == some k
    | _ => true
  if wanted then { c with engineIn := c.engineIn ++ [f] } else c

/-- The port of a Lanper origin, by its number. -/
def lanperOf (key : Nat) : Option Nat := if 32776 * 65536 ≤ key ∧ key < 32792 * 65536 then some (key / 65536 - 32776) else none

/-- A reply that leaves the mesh for a peer goes out on RPL to the device whose request it answers; a request that is no longer held
has no reply (R178, R250, R260). -/
def State.replyOut (s : State) (key status st gen : Nat) : State :=
  match lanperOf key with
  | none => s
  | some p => match (s.lnp p).served.find? fun e => e.1 == key % 65536 with
    | some e => s.sendPacket p { kind := 3, flits := 1, dest := e.2.1, note := [key % 65536, status, st, gen], serves := some (p, e) }
    | none => s

/-- The logical router at which a route from column x leaves for a stop, and its edge. -/
def Stop.leave (t : Stop) (x : Nat) : Nat × Nat × Dir := let e := t.exit x; (e.1, e.2, t.dir)

/-- The client number of the hearth link (R32). -/
def hearthClient : Nat := 32

/-- A flit reaches the message engine of a position that serves cell n of a hob. A broadcast's flit is acknowledged on MGT to the hearth
(R65, R185). -/
def State.deliver (s : State) (h n : Nat) (f : Flit) : State :=
  let s1 := s.modCell (s.posOf h n) fun c => c.takeFlit f
  match f.src with
  | .mgt id =>
    let xy := (s.hob h).rect.xy n
    let e := (stopFor xy.1 xy.2 hearthClient).leave xy.1
    s1.inject h n [{ vc := 0, tx := e.1, ty := e.2.1, edge := some e.2.2, flit := { src := .ack id n } }]
  | _ => s1

/-- A dynamic flit moves one hop, where the next router has room for it on its channel, to the cell's message engine, or out of
the mesh. Its parity is checked at the next input (R66, R265). -/
def State.sendDyn (s : State) (p x y : Nat) (out : Dir) (f : DynFlit) (flipped : List Nat) : State :=
  let s1 := s.modRouter p fun r => ({ r with dyn := r.dyn.erase f } : Router).wormed f
  let s2 := if f.inp = .loc then (match s1.routerAt p with
    | some (h, n) => s1.refill h n
    | none => s1) else if (neighbour x y f.inp).isNone then s1.enterEdge x y else s1
  match out with
  | .loc => match s2.routerAt p with
    | some (h, n) => s2.deliver h n f.flit
    | none => match f.flit.src with
      | .mgt id =>
        let e := (stopFor x y hearthClient).leave x
        let a : DynFlit := { vc := 0, tx := e.1, ty := e.2.1, edge := some e.2.2, flit := { src := .ack id p } }
        if !(s.router p).room .loc 0 then s else s2.modRouter p fun r => { r with dyn := r.dyn ++ [{ a with out := a.wants x y }] }
      | _ => s2
  | _ =>
    match neighbour x y out with
    | none => match f.flit.src with
      | .reply key status st gen => s2.replyOut key status st gen
      | .ack id n => s2.emit (.mgt "broadcast acknowledged" [id, n])
      | _ => s2
    | some (x', y') =>
      let q := (s.homeOf x' y').idx
      if !(s.router q).room out.facing f.vc then s
      else
        let g := f.flit.cross flipped
        let s3 := s2.modRouter q fun r => { r with dyn := r.dyn ++ [{ f with inp := out.facing, out := f.wants x' y', flit := g }] }
        if f.flit.parityBad flipped then match s3.routerAt q with
          | some (h, m) => s3.parityFault h m x y out (badWires flipped)
          | none => s3.wireHistory x y out (badWires flipped)
        else s3

/-- The free entry that stands at a cycle is withheld from the flits of a TEST hob (R324): the first free entries of the output, but
never one of the last two that admit MGT. R324 names their number alone: DESIGN CHOICE (notes/assumptions/67.md). -/
def State.stolen (s : State) (p : Nat) (out : Dir) (f : DynFlit) : Bool :=
  match s.routerAt p with
  | none => false
  | some (h, n) =>
    let r := s.router p
    let i := (s.hob h).clk.cyc % 256
    let entry := fun (j : Nat) => (r.slots.get 0 (rtKey out.code r.page j)).toNat
    let free := (List.range 256).filter fun j => !rtOwn (entry j) && !r.bridge.any fun b => b.2 == rtKey out.code r.page j
    let last := (free.filter fun j => decide (i < j) && decide (rtFreeVc (entry j) ≤ 1)).length
    let mine := match f.flit.src with
      | .dynamic g _ _ _ _ => g == h
      | _ => true
    mine && !(rtFreeVc (entry i) ≤ 1 && last < 2) && s.perturbs.any fun e =>
      e.2.valid && e.2.kind.toNat == 3 && e.2.hob.toNat == h && e.2.tidx.toNat == n &&
      decide ((free.filter fun j => decide (j < i)).length < e.2.param.toNat % 256)

/-- A free slot of an output, or any cycle of a router that no static calendar drives. -/
def State.freeSlot (s : State) (p : Nat) (out : Dir) (vc : Nat) (flipped : List Nat) : State :=
  match s.logicalAt p with
  | none => s
  | some (x, y) =>
    let s0 := if (s.edgeIn.any fun e => e.1 == x && e.2.1 == y) || s.rimIn.any fun e => e.2.1 == x && e.2.2.1 == y then s.enterEdge x y else s
    match (s0.router p).nextDyn out vc with
    | some f => if s0.stolen p out f then s0 else s0.sendDyn p x y out f flipped
    | none => s0

/-- Whether a router island runs: in deep idle the clock of one that carries no free-slot traffic is gated (R66, R367). -/
def State.islandRuns (s : State) (p : Nat) : Bool := !(s.cfgs.idlIn && (s.router p).dyn.isEmpty)

/-! ### Packets on the dynamic channels (R65, R172, R180) -/

/-- The client of the distance table of a rim origin (R32). -/
def Origin.client : Origin → Nat
  | .hostPort p => 28 + p
  | .lanper p => 12 + p
  | _ => hearthClient

/-- A flit on its way from a cell to the sender of a message: to its cell, or out at the stop that serves its client (R33). -/
def State.backTo (s : State) (h n : Nat) (o : Origin) (f : Flit) : DynFlit :=
  match o with
  | .cell m _ => let t := (s.hob h).rect.xy m; { vc := 2, tx := t.1, ty := t.2, flit := f }
  | _ =>
    let xy := (s.hob h).rect.xy n
    let e := (stopFor xy.1 xy.2 o.client).leave xy.1
    { vc := 2, tx := e.1, ty := e.2.1, edge := some e.2.2, flit := f }

/-- A reply leaves the engine of cell n on RPL (R178, R180). -/
def State.reply (s : State) (h n : Nat) (o : Origin) (tag status st gen : Nat) : State :=
  (s.inject h n [s.backTo h n o { src := .reply (o.key tag) status st gen }]).emit (.reply o tag status st gen)

/-- Flits from a rim client to the router of logical (x, y) join the client's queue, and enter the mesh at the stop that serves that
router for the client (R29, R33). -/
def State.fromRimTo (s : State) (x y client : Nat) (vc : Nat) (fs : List Flit) : State :=
  let e := (stopFor x y client).leave x
  { s with rimIn := s.rimIn ++ fs.map fun f =>
      (client, e.1, e.2.1, ({ vc := vc, inp := e.2.2, tx := x, ty := y, flit := f } : DynFlit)) }.enterEdge e.1 e.2.1

/-- Flits from a rim client to cell n of a hob. -/
def State.fromRim (s : State) (h n client : Nat) (vc : Nat) (fs : List Flit) : State :=
  let t := (s.hob h).rect.xy n
  s.fromRimTo t.1 t.2 client vc fs

/-- A reader reset ends the landings of cell n at once with status 3 (R179). -/
def State.dropLandings (s : State) (h n : Nat) : State :=
  let p := s.posOf h n
  let ls := (s.cell p).landings
  (s.modCell p fun c => { c with landings := [] }).each ls fun s l =>
    (s.modCell p fun c => c.modWin l.win fun x => { x with refused := satInc x.refused }).reply h n l.origin l.tag 3 0 0

/-- ROUTER_SLOT_FORWARD: an output applies its slot entry of the hob cycle, once (R97, R103). An owned entry forwards the
input it names; with that input empty it sends nothing and raises SCHED_VIOLATION. A free entry sends a waiting dynamic
flit (R105), unless a bridge owns it (R21, R112). At each output the input of the same direction is checked for a flit that no
entry takes, which is dropped with SCHED_VIOLATION (R107). An entry that takes from the die's edge finds the flits of landings
there (R422), whose data is landed block by block and at no fixed cycle (R113 to R115): DESIGN CHOICE, they are never missed
(notes/assumptions/22.md). -/
def execRouterSlotForward (cell : Pos) (out : Dir) (flipped : List Nat) (s : State) : Res :=
  let p := cell.idx
  if !s.islandRuns p then done s
  else match s.routerAt p with
  | none => done (s.freeSlot p out 0 flipped)
  | some (h, n) =>
    let z := s.hob h
    if z.seqMode || !z.executing || z.atFence then done (s.freeSlot p out 0 flipped)
    else
      let c := z.clk.cyc
      let r := s.router p
      if r.applied.get 0 out.code = c + 1 then done s
      else
        let entry := fun (d : Dir) => (r.slots.get 0 (rtKey d.code r.page (c % 256))).toNat
        let e := entry out
        let (x, y) := z.rect.xy n
        let here := fun (d : Dir) => r.inputs.find? fun f => f.cyc == c && f.inp == d
        let s1 := s.modRouter p fun r =>
          { r with applied := r.applied.put 0 out.code (c + 1), inputs := r.inputs.filter fun f => c ≤ f.cyc,
                   crc := r.crc.put crcInit out.code (crcFeed (r.crc.get crcInit out.code) (leBytes 2 e)) }
        let s2 :=
          if rtOwn e then
            let d := (Dir.all.find? fun d => d.code == rtSrc e).getD .loc
            match here d with
            | some f => s1.sendStatic h n x y c out f.flit flipped
            | none => if d != .loc && (neighbour x y d).isNone then s1.sendStatic h n x y c out { src := .edge (exitStop x y d).index } flipped
              else s1.schedViolation h n z.periodNow z.clk.fence
          else if r.bridge.any (fun b => b.2 == rtKey out.code r.page (c % 256)) then s1
          else s1.freeSlot p out (rtFreeVc e) flipped
        let taken := Dir.all.any fun d => rtOwn (entry d) && rtSrc (entry d) == out.code
        done (match here out with
          | some f => if taken then s2 else (s2.modRouter p fun r => { r with inputs := r.inputs.filter fun g => g != f }).schedViolation h n z.periodNow z.clk.fence
          | none => s2)

/-- ROUTER_PAGE_SWITCH (R104): at a hob cycle that is a multiple of 256 a page requested before it takes effect. -/
def execRouterPageSwitch (cell : Pos) (s : State) : Res :=
  let p := cell.idx
  match s.routerAt p with
  | none => done s
  | some (h, _) =>
    let z := s.hob h
    match (s.router p).pageReq with
    | some (g, at_) =>
      if z.executing && z.clk.cyc % 256 = 0 && at_ < z.clk.cyc then
        done (s.modRouter p fun r => { r with page := g, pageReq := none })
      else done s
    | none => done s

/-- Expected checksum j of cell n in period idx of the pass (R107, R419): 0 the calendar, 1 to 5 the router outputs. -/
def Recipe.expected (r : Recipe) (cells idx n j : Nat) : W32 := r.checksums.getD ((idx * cells + n) * 6 + j) 0

/-- PERIOD_CHECKSUM (R107, R151): the oldest ended period of a cell and of its router is compared with the recipe's values. -/
def execPeriodChecksum (cell : Pos) (s : State) : Res :=
  let p := cell.idx
  let c := s.cell p
  match c.hob with
  | none => done s
  | some h =>
    let z := s.hob h
    let n := c.n
    let rp := s.routerPos h n
    match c.crcDue, (s.router rp).crcDue with
    | (f, idx, v) :: rest, (_, _, vs) :: rrest =>
      let cells := z.rect.cells
      let good := crcOut v == z.rcp.expected cells idx n 0 &&
        (vs.zipIdx.all fun w => crcOut w.1 == z.rcp.expected cells idx n (w.2 + 1))
      let s1 := (s.modCell p fun c => { c with crcDue := rest }).modRouter rp fun r => { r with crcDue := rrest }
      done (if good then s1 else s1.schedViolation h n idx f)
    | _, _ => done s

end Sys2Proof.Machine
end

