-- ==== Sys2Proof/Machine/Crossing.lean ====
section
/-! DEFINITION. Rim crossings, transactions in flight and calendar holds: CROSSING_ADDR_READ to SIMMER_DUTY_UPDATE
(R30, R113 to R124, R193 to R198, R228, R235, R421, R423). -/

namespace Sys2Proof.Machine

open Sys2Proof

/-! ### Names and pools -/

/-- A crossing by its number. -/
def Recipe.crossing (r : Recipe) (id : Nat) : Option Crossing := r.crossings.find? fun x => x.id == id

/-- Kinds that land data: stack read, port receive, host read (R115). -/
def Crossing.lands (x : Crossing) : Bool := x.kind == 0 || x.kind == 3 || x.kind == 4

/-- Lanper port of hob port j: the j-th lowest-numbered port of the grant (R246). -/
def Hob.lnpOf (h : Hob) (j : Nat) : Option Nat := ((List.range 16).filter fun p => h.grant.lnp.getLsbD p)[j]?

/-- Whether an address lies in the hob's reserved window on its stack (R194). -/
def Hob.inWindow (h : Hob) (a : Nat) : Bool :=
  let r := h.rsv.get {} (relStack a)
  r.valid && r.first.toNat ≤ bits 36 28 a && bits 36 28 a ≤ r.last.toNat

/-- Whether the window gives reserved transactions (R194). -/
def Hob.windowOn (h : Hob) (a : Nat) : Bool :=
  let r := h.rsv.get {} (relStack a)
  h.inWindow a && r.on && r.bw != 0

/-- The client number of a crossing (R113, R246). -/
def Hob.clientOf (h : Hob) (x : Crossing) : Nat :=
  if x.kind ≤ 1 then x.client
  else if x.kind ≤ 3 then 12 + (h.lnpOf x.client).getD 0
  else 28 + h.grant.hport.toNat

/-- The edge stop that serves a crossing (R33). -/
def Hob.stopOf (h : Hob) (x : Crossing) : Stop := let xy := h.rect.xy x.cell; stopFor xy.1 xy.2 (h.clientOf x)

/-- Transactions in flight that hold a place. -/
def State.granted (s : State) (f : Txn → Bool) : Nat := (s.txns.filter fun t => t.granted && f t).length

/-- The hob that a transaction serves. -/
def Txn.hob (t : Txn) : Nat :=
  match t.kind with
  | .crossing h _ _ | .message h _ _ | .copy h | .forward h => h

/-- A transaction of a crossing. -/
def Txn.isXng (t : Txn) : Bool :=
  match t.kind with
  | .crossing _ _ _ => true
  | _ => false

/-- Places of a stack's shared pool in use (R197): granted requests, staged writes being forwarded from it, COPY commands that run
between host memory and it, and landings of messages with a source on it. -/
def State.sharedUsed (s : State) (stack : Nat) : Nat :=
  s.granted (fun u => (u.pool == .shared && u.client == stack) || u.also == some stack) +
  ((hobNums.flatMap fun h => (s.hob h).copies).filter fun c =>
    c.running && ((c.srcKind == 1 && relStack c.src == stack) || (c.dstKind == 1 && relStack c.dst == stack))).length +
  (s.cells.flatMap fun e => e.2.landings.filter fun l => l.stack == some stack).length

/-- Data transactions of a host port that a hob holds, with the COPY commands that run between host memory and the device (R228). -/
def State.hostOwn (s : State) (p h : Nat) : Nat :=
  (s.granted fun u => u.pool == .host && u.client == p && u.hob == h) +
  ((s.hob h).copies.filter fun c => c.running && (s.hob h).grant.hport.toNat == p && (c.srcKind == 0 || c.dstKind == 0)).length

/-- The hobs that a port owns, each one's guaranteed share of the 448, and the places that are held or guaranteed (R228). -/
def State.hostHobs (s : State) (p : Nat) : List Nat := hobNums.filter fun h => (s.hob h).grant.valid && (s.hob h).grant.hport.toNat == p
def State.hostShare (s : State) (p : Nat) : Nat := 448 / max (s.hostHobs p).length 1
def State.hostTaken (s : State) (p : Nat) : Nat :=
  ((s.hostHobs p).map fun h => max (s.hostOwn p h) (s.hostShare p)).foldl (· + ·) 0

/-- Whether a transaction's pool has a free place (R197, R228, R250); a port receive block, which the peer sends, takes none. -/
def State.poolFree (s : State) (t : Txn) : Bool :=
  match t.pool with
  | .reserved =>
    let k := t.client
    s.granted (fun u => u.pool == .reserved && u.client == k && u.hob == t.hob) < 64 * ((s.hob t.hob).rsv.get {} k).bw.toNat
  | .shared => s.sharedUsed t.client < 512
  | .device => s.granted (fun u => u.pool == .device && u.client == t.client) < 256
  | .lanper => ((s.lnp t.client).st == .upFull || (s.lnp t.client).st == .upReduced) &&
      ((t.isXng && !t.write) ||
        decide (s.granted (fun u => u.pool == .lanper && u.client == t.client && u.write == t.write && (u.write || !u.isXng)) < (if t.write then 1024 else 512)))
  | .host => s.hostOwn t.client t.hob < s.hostShare t.client || decide (s.hostTaken t.client < 448)

/-- The pool on which a waiting request draws now: with its window out of force a reserved request is served from the shared pool
(R194). -/
def State.poolNow (s : State) (t : Txn) : Pool :=
  let r := (s.hob t.hob).rsv.get {} t.client
  if t.pool == .reserved && !(r.on && r.bw != 0) then .shared else t.pool

/-- A request to another device goes out on REQ once its transaction is granted: a jar read, or a message in frames of 40 flits at
most (R247, R250, R260). -/
def State.sendRequest (s : State) (t : Txn) : State :=
  if t.pool != .lanper || t.write || !t.granted || t.isXng then s
  else
    let note := match t.kind with
      | .message _ _ tag => [tag, t.region]
      | _ => [t.slot, t.addr, 4096]
    let flits := (t.data.length + 64 + 127) / 128
    (List.range (max 1 ((flits + 39) / 40))).foldl (fun s i => s.sendPacket t.client
      { kind := 2, flits := min 40 (max 1 (flits - 40 * i)), dest := t.cell, hob := t.hob, note := note,
        body := (t.data.drop (5120 * i - (if i = 0 then 0 else 64))).take (if i = 0 then 5056 else 5120) }) s

/-- Accept a transaction: granted when its pool has a place, waiting otherwise (R198). -/
def State.addTxn (s : State) (t : Txn) : State :=
  let t1 := { t with id := s.hearth.txnGen, granted := s.poolFree t, startedAt := s.now }
  { s with txns := s.txns ++ [t1], hearth := { s.hearth with txnGen := s.hearth.txnGen + 1 } }.sendRequest t1

/-- A transaction by its number, changed, removed. -/
def State.txn (s : State) (id : Nat) : Option Txn := s.txns.find? fun t => t.id == id
def State.modTxn (s : State) (id : Nat) (f : Txn → Txn) : State :=
  { s with txns := s.txns.map fun t => if t.id = id then f t else t }
def State.dropTxn (s : State) (id : Nat) : State := { s with txns := s.txns.filter fun t => t.id != id }

/-- A breach of the running step (R59, R193): it will not commit. -/
def State.breach (s : State) (h status cell info : Nat) : State := s.modHob h fun y => { y with run := y.run.note status cell info }

/-- A breach with both information fields (R423). -/
def State.breachAt (s : State) (h : Nat) (e : End) : State :=
  s.modHob h fun y => { y with run := { y.run with breach := some (y.run.breach.getD e) } }

/-! ### Addresses (R113, R421) -/

/-- Repetition index of the issue in force (R421). -/
def Hob.rep (h : Hob) : Nat := h.periodNow

/-- The hob cycle within the period. -/
def Hob.inPeriod (h : Hob) : Nat := if h.rcp.periodLen = 0 then 0 else h.clk.inStep % h.rcp.periodLen

/-- The granule in a slot's window that holds a computed address, as a scratchpad granule. -/
def Cell.addrGran (c : Cell) (slot gran : Nat) : Option Nat :=
  let x := c.slot slot
  if gran < x.winGrans then some (x.winBase + gran) else none

/-- What a poisoned address granule reads as: R421 does not say, so it counts as a value that no valid address equals, and its access
as one to an unmapped extent (R193). DESIGN CHOICE (notes/assumptions/82.md). -/
def badAddr : Nat := 2 ^ 64 - 1

/-- CROSSING_ADDR_READ (R421): 34 hob cycles before issue the cell reads bytes 0 to 7 of the address granule; at the start
of a run the read that falls before its first cycle happens while the calendar is primed. -/
def execCrossingAddrRead (hob : HobId) (xng : BitVec 16) (s : State) : Res :=
  let h := s.hob hob.val
  match h.rcp.crossing xng.toNat with
  | none => done s
  | some x =>
    let len := h.rcp.periodLen
    let due := len != 0 && (h.inPeriod + 34) % len == x.issue % len
    let primed := h.clk.inStep == 0 && x.issue < 34 && ((h.xng.get {} x.id).addrRead).isNone
    if !h.runs || !h.clk.live || h.seqMode || !x.computed || !(due || primed) then done s
    else
      let c := s.cell (s.posOf hob.val x.cell)
      let p := s.posOf hob.val x.cell
      let r := (c.addrGran x.slot (x.addr % 8192)).map c.readGran
      let v := match r with
        | some r => if r.gran.bad then badAddr else leAt r.gran.data 0 8
        | none => badAddr
      done ((s.meter p r.toList).modHob hob.val fun y => { y with xng := y.xng.upd {} x.id fun q => { q with addrRead := some v } })

/-- The byte address of block b of an issue: stack kinds hob-relative, host kinds an offset into the host buffer; none where
a computed value breaks the rules of R421 or names an unmapped extent or another stack (R193). -/
def Hob.blockAddr (h : Hob) (x : Crossing) (rep b : Nat) : Option Nat :=
  let stackKind := x.kind ≤ 1
  if x.computed then
    match (h.xng.get {} x.id).addrRead with
    | none => none
    | some v =>
      let a := v + 4096 * b
      if v % 4096 ≠ 0 || v / 2 ^ 64 ≠ 0 then none
      else if stackKind then
        if v / 2 ^ 48 ≠ 0 || relStack a ≠ x.client || (h.devAddr a).isNone then none else some a
      else some a
  else some (4096 * ((x.addr : Int) + rep * x.stride + b)).toNat

/-! ### Issue -/

/-- Reserve the tail entry of a landing region (R115); the entry reserved. -/
def Cell.reserve (c : Cell) (slot region : Nat) : Nat × Cell :=
  let e := ((c.slot slot).region region).tail.toNat
  (e, c.modRegion slot region fun r => { r.advTail with reserved := r.reserved ++ [e] })

/-- The staging address of a host block (R235). Where a block goes in an area shorter than the buffer R235 does not say: DESIGN CHOICE, the
area repeats over the blocks of the buffer, and one shorter than a block stages each at its start (notes/assumptions/82.md). -/
def Run.stagingOf (r : Run) (block : Nat) : Nat := r.stg + 4096 * (if r.stgLen < 4096 then 0 else block % (r.stgLen / 4096))

/-- The rim refuses an access to an address with no memory behind it, and reports it to the hearth (R189). -/
def State.refuseAddr (s : State) (dev : Nat) : State := s.emit (.mgt "bad address" [dev])

/-- The computed address of block b of an issue, where bits [47:41] or the stack field name no memory (R189). -/
def Hob.strayAddr (h : Hob) (x : Crossing) (b : Nat) : Option Nat :=
  match (h.xng.get {} x.id).addrRead with
  | some v => if x.computed && x.kind ≤ 1 && v != badAddr && (bits 47 41 v != 0 || 12 ≤ relStack v) then some (v + 4096 * b) else none
  | none => none

/-- One block of an issue: its reservation for read kinds, and its transaction. An access that R193 or R423 rules out is
not performed: a read will land poisoned, a write is suppressed, and the step breaches. -/
def State.issueBlock (s : State) (hn : Nat) (x : Crossing) (rep : Nat) (b : Nat) : State :=
  let h := s.hob hn
  let p := s.posOf hn x.cell
  let addr := h.blockAddr x rep b
  let hostOut := match addr with
    | some a => x.kind ≥ 4 && a + 4096 > h.run.bufLen
    | none => false
  let bad := addr.isNone || (hostOut && x.kind == 4)
  let s := match h.strayAddr x b with
    | some v => s.refuseAddr v
    | none => s
  let s1 := if addr.isNone then s.breach hn stSched x.cell x.id
    else if hostOut && x.kind == 4 then
      s.breachAt hn { status := stAddress, detail := x.cell, info0 := x.id, info1 := (addr.getD 0) / 4096 }
    else s
  let s2 := match addr with
    | some a => if x.kind == 0 && x.computed && !h.inWindow a then s1.breach hn stSched x.cell x.id else s1
    | none => s1
  let (e, s3) := if x.lands then
      let r := (s2.cell p).reserve x.slot x.region
      (r.1, s2.setCell p r.2)
    else (0, s2)
  let a := addr.getD 0
  let target := if x.kind = 5 then h.run.stagingOf (a / 4096) else a
  let stackKind := x.kind ≤ 1 || x.kind == 5
  let t : Txn := {
    kind := .crossing hn x.id rep, write := !x.lands, addr := a, stamp := h.clk.fence, breach := bad, cell := x.cell,
    slot := x.slot, region := x.region, entry := e,
    client := if stackKind then (if x.kind = 5 then relStack target else x.client)
      else if x.kind = 4 then h.grant.hport.toNat else (h.lnpOf x.client).getD 0,
    staged := if x.kind = 5 then
        some { fence := h.clk.fence, xng := x.id, block := a / 4096, buf := h.run.buf, bufLen := h.run.bufLen, stgAddr := target }
      else none,
    pool := if stackKind then (if h.windowOn target then .reserved else .shared) else if x.kind = 4 then .host else .lanper }
  let s4 := s3.addTxn t
  if x.kind = 4 && !bad then s4.emit (.hostRead h.grant.hport.toNat (h.run.buf + a) 4096) else s4

/-- CROSSING_ISSUE (R113, R115): once a period, at its hob cycle, a read kind reserves its landing entries and a write kind
takes its egress credit; each block is one transaction (R197). A port receive issues nothing. -/
def execCrossingIssue (hob : HobId) (xng : BitVec 16) (s : State) : Res :=
  let h := s.hob hob.val
  match h.rcp.crossing xng.toNat with
  | none => done s
  | some x =>
    let q := h.xng.get {} x.id
    if !h.executing || h.seqMode || h.atFence || x.kind = 3 || h.inPeriod ≠ x.issue || q.issued = h.clk.cyc + 1 then done s
    else
      let s1 := s.modHob hob.val fun y => { y with
        xng := y.xng.upd {} x.id fun q => { q with issued := h.clk.cyc + 1, credit := if x.lands then q.credit else q.credit - x.blocks } }
      done (s1.each (List.range x.blocks) fun s b => s.issueBlock hob.val x h.rep b)

/-! ### Check points and holds -/

/-- The OP word of a cell k hob cycles ahead, across the step's end into the next step (R118). -/
def State.opAhead (_s : State) (h : Hob) (c : Cell) (k : Nat) : Op :=
  let store := c.store.map BitVec.toNat
  let t := h.clk.inStep + k
  let len := h.rcp.stepLen h.clk.step
  let next := if h.rcp.fences.length = 0 then 0 else (h.clk.step + 1) % h.rcp.fences.length
  match if t < len then wordAt store h.clk.step t else wordAt store next (t - len) with
  | some (_, w, _) => opOf w
  | none => {}

/-- Whether a word reads a region, and whether it advances its head. -/
def Op.reads (o : Op) (slot region : Nat) : Bool :=
  o.accs.any fun a => a.en && !a.wr && a.cr && a.slot == slot && bits 13 10 a.off == region

def Op.advances (o : Op) (slot region : Nat) : Bool :=
  o.accs.any fun a => a.en && !a.wr && a.cr && a.adv && a.slot == slot && bits 13 10 a.off == region

/-- Whether entry e of a region is held and filled. -/
def Region.filledEntry (r : Region) (e : Nat) : Bool :=
  decide ((e + r.size - r.head.toNat) % r.size < r.occ) && !r.reserved.contains e

/-- The entry that a landing read 32 cycles ahead will find at the head: none where the word there reads no such region. -/
def State.readAhead (s : State) (h : Hob) (c : Cell) (x : Crossing) : Option Nat :=
  if (s.opAhead h c 32).reads x.slot x.region then
    let r := (c.slot x.slot).region x.region
    let ahead := (List.range 32).filter fun k => !(k == 0 && c.issued == h.clk.cyc + 1)
    let adv := (ahead.filter fun k => (s.opAhead h c k).advances x.slot x.region).length
    some ((r.head.toNat + adv) % r.size)
  else none

/-- Whether the egress of a crossing lies 32 cycles ahead. -/
def Hob.egressAhead (h : Hob) (x : Crossing) : Bool :=
  h.rcp.periodLen != 0 && (h.inPeriod + 32) % h.rcp.periodLen == x.issue

/-- The wait that a check point leaves when it fails. -/
def State.checkFails (s : State) (hn : Nat) (x : Crossing) : Option Wait :=
  let h := s.hob hn
  let c := s.cell (s.posOf hn x.cell)
  if x.lands then
    match s.readAhead h c x with
    | some e => if ((c.slot x.slot).region x.region).filledEntry e then none else some { xng := x.id, cause := 1, entry := e }
    | none => none
  else if h.egressAhead x && (h.xng.get {} x.id).credit < x.blocks then some { xng := x.id, cause := 2 }
  else none

/-- CHECK_POINT (R118): 32 hob cycles ahead of a landing read or an egress issue. A failure raises BOUND_MISS, which counts
into `HOB_HOLD_MISSES` (R123), and sends a hold request into the hold tree, which must freeze the hob before that cycle. -/
def execCheckPoint (hob : HobId) (xng : BitVec 16) (s : State) : Res :=
  let h := s.hob hob.val
  match h.rcp.crossing xng.toNat with
  | none => done s
  | some x =>
    if !h.executing || h.seqMode then done s
    else match s.checkFails hob.val x with
      | none => done s
      | some w =>
        done (s.modHob hob.val fun y => { y with hold := { y.hold with
          misses := y.hold.misses + 1, waits := y.hold.waits ++ [w],
          req := some (y.hold.req.getD (w.cause, w.xng)), target := some (y.hold.target.getD (y.clk.cyc + 32)) } })

/-- A hold request that has reached the whole hob freezes it (R118, R119); what still waits gives the causes in force. -/
def Hob.holdEdge (h : Hob) (now : Nat) : Hob :=
  match h.hold.req with
  | none => h
  | some (cause, xng) => h.freeze now cause xng

/-- HOLD_EDGE (R118, R119, R123). -/
def execHoldEdge (hob : HobId) (s : State) : Res :=
  let h := s.hob hob.val
  if h.runs && h.clk.live && !h.hold.frozen then done (s.setHob hob.val (h.holdEdge s.now)) else done s

/-- HOLD_RELEASE (R121): when every cause has ended, all calendars resume on one edge. -/
def execHoldRelease (hob : HobId) (s : State) : Res :=
  let h := s.hob hob.val
  if h.hold.frozen && h.hold.causes.isEmpty then
    done (((s.setHob hob.val { h with hold := { h.hold with frozen := false } }).avlStop 0 hob.val).avlStop 5 hob.val)
  else done s

/-- The hold limit in ns (R99). -/
def Recipe.holdLimitNs (r : Recipe) : Nat := (if r.holdlim = 0 then 10000 else r.holdlim) * usNs

/-- Steps in flight are discarded with what they staged and captured (R122, R131). -/
def Hob.discard (h : Hob) : Hob :=
  { h with closing := [], staged := h.staged.filter fun x => !(h.closing.any fun c => c.fence == x.fence) && x.fence != h.clk.fence }

/-- The waits of a hob that its state now satisfies end, and with the last of a kind its cause (R118, R120). -/
def State.settleWaits (s : State) (hn : Nat) : State :=
  let h := s.hob hn
  let still := h.hold.waits.filter fun w => match w.page, h.rcp.crossing w.xng with
    | some p, _ => h.cow.next.contains p
    | none, none => false
    | none, some x =>
      if w.cause = 1 then !(((s.cell (s.posOf hn x.cell)).slot x.slot).region x.region).filledEntry w.entry
      else match w.txn with
      | some id => s.txns.any fun t => t.id == id && !t.served
      | none => decide ((h.xng.get {} x.id).credit < x.blocks)
  let h1 := { h with hold := { h.hold with waits := still } }
  let h2 := if still.any fun w => w.cause == 1 then h1 else h1.endCause 1
  s.setHob hn (if still.any fun w => w.cause == 2 then h2 else h2.endCause 2)

/-- The pool that a write crossing's blocks will draw on, as a transaction without data. -/
def Hob.egressTxn (h : Hob) (hn : Nat) (x : Crossing) : Txn :=
  let a := (h.blockAddr x h.rep 0).getD 0
  let target := if x.kind = 5 then h.run.stagingOf (a / 4096) else a
  if x.kind = 2 then { kind := .crossing hn x.id 0, write := true, client := (h.lnpOf x.client).getD 0, pool := .lanper }
  else { kind := .crossing hn x.id 0, client := if x.kind = 5 then relStack target else x.client,
         pool := if h.windowOn target then .reserved else .shared }

/-- Whether the client of a crossing grants credit now: a Lanper port only while UP (R254). -/
def State.clientUp (s : State) (h : Hob) (x : Crossing) : Bool :=
  if x.kind = 2 then
    match h.lnpOf x.client with
    | some p => (s.lnp p).st == .upFull || (s.lnp p).st == .upReduced
    | none => false
  else !(s.stack x.client).resetting || x.kind == 5

/-! ### Dual-clock queues (R29, R30, R199) -/

/-- Entries of an edge interface's Static queue toward the rim: flits that have left the mesh, whole blocks that their client has
not taken, and room that credits have promised (R30, R115). -/
def State.outQueued (s : State) (t : Stop) : Nat :=
  let of := fun (h : Nat) (z : Hob) (x : Crossing) =>
    if x.lands || z.stopOf x != t then 0
    else
      let q := z.xng.get {} x.id
      q.buf.length + 32 * q.credit + 32 * (s.txns.filter fun u => u.write && !u.served && u.kind matches .crossing _ _ _ &&
        (match u.kind with
          | .crossing hn i _ => hn == h && i == x.id
          | _ => false)).length
  (hobNums.map fun h => ((s.hob h).rcp.crossings.map (of h (s.hob h))).foldl (· + ·) 0).foldl (· + ·) 0

/-- Entries of an edge interface's Static queue from the rim: blocks that a client has sent and that have not landed. -/
def State.inQueued (s : State) (t : Stop) : Nat :=
  32 * (s.txns.filter fun u => !u.write && u.served && (match u.kind with
    | .crossing h i _ => match (s.hob h).rcp.crossing i with
      | some x => (s.hob h).stopOf x == t
      | none => false
    | _ => false)).length

/-- The delay settings that the packets of a crossing meet on one way (R324). -/
def State.xngDelay (s : State) (h : Nat) (x : Crossing) : Nat :=
  let xy := (s.hob h).rect.xy x.cell
  s.pathDelay h xy.1 xy.2 ((s.hob h).clientOf x)

/-- Whether a credit setting of a TEST hob concerns a crossing: its edge stop or its Lanper port (R324). -/
def State.creditMet (s : State) (h : Nat) (x : Crossing) (q : Perturb) : Bool :=
  let xy := (s.hob h).rect.xy x.cell
  let c := (s.hob h).clientOf x
  q.valid && q.kind.toNat == 2 && q.hob.toNat == h &&
  ((q.ttype.toNat == 1 && (s.singleStop xy.1 xy.2 c).map EdgeStop.index == some q.tidx.toNat) || (q.ttype.toNat == 3 && c == 12 + q.tidx.toNat))

/-- A credit setting withholds the next whole-block credit (R324). -/
def State.throttled (s : State) (h : Nat) (x : Crossing) : Bool :=
  s.perturbs.any fun e => s.creditMet h x e.2 && (match e.2.lastAt with
    | some t => s.delayed t (rclkNs (e.2.param.toNat % 65536))
    | none => false)

/-- The time of a credit under a setting. -/
def State.noteCredit (s : State) (h : Nat) (x : Crossing) : State :=
  { s with perturbs := s.perturbs.map fun e => if s.creditMet h x e.2 then (e.1, { e.2 with lastAt := some s.now }) else e }

/-- A transaction's packets still wait in delay buffers, on one way or both (R324). -/
def State.txnDelayed (s : State) (t : Txn) (ways : Nat) : Bool :=
  match t.kind with
  | .crossing h x _ => match (s.hob h).rcp.crossing x with
    | some c => s.delayed t.startedAt (ways * s.xngDelay h c)
    | none => false
  | _ => false

/-- EDGE_CREDIT_GRANT (R30, R198): the edge interface grants the credit of one whole block, unless its queue has no room for it, the
block's pool is empty or its client takes no credit; a waiting egress resumes when all its blocks have credit. -/
def execEdgeCreditGrant (hob : HobId) (xng : BitVec 16) (s : State) : Res :=
  let h := s.hob hob.val
  match h.rcp.crossing xng.toNat with
  | none => done s
  | some x =>
    if x.lands || !s.poolFree (h.egressTxn hob.val x) || !s.clientUp h x || !roomForBlock (s.outQueued (h.stopOf x)) || s.throttled hob.val x then done s
    else
      let s1 := (s.noteCredit hob.val x).modHob hob.val fun y => { y with xng := y.xng.upd {} x.id fun q => { q with credit := q.credit + 1 } }
      done (s1.settleWaits hob.val)

/-- TRANSACTION_GRANT (R198): a waiting request takes a place that its pool has free; a reserved one whose window is no longer in
force takes a shared place (R194). -/
def execTransactionGrant (txn : Nat) (s : State) : Res :=
  match s.txn txn with
  | none => done s
  | some t =>
    let u := { t with pool := s.poolNow t }
    if t.granted || !s.poolFree u then done s
    else
      let g := { u with granted := true, startedAt := s.now }
      done ((s.modTxn txn fun _ => g).sendRequest g)

/-! ### Landing -/

/-- Write a block into an entry of a region, granule by granule; `bad` names the poisoned 64 B lines, and `old` those of them
that were stored poisoned before the step: their consumption sets the stored-poison flag (R268). A trace that records takes the landed
granules as write granules (R269). -/
def Cell.writeEntry (c : Cell) (slot region entry : Nat) (data : List Byte) (bad old : Nat → Bool) : Cell :=
  let sl := c.slot slot
  let r := sl.region region
  let c1 := (List.range r.grans).foldl (fun c i =>
    let g := sl.entryGran r entry i
    let c2 := c.writeGran g (bytesAt data (64 * i) 64) (bad i) 15
    if old i then { c2 with wrote := mark c2.wrote g false } else c2) c
  let t := c1.taste.cur
  if !t.recording then c1
  else
    let gs := (List.range r.grans).map fun i => ({ data := bytesAt data (64 * i) 64, poison := if bad i then 0xF else 0 } : Gran)
    { c1 with taste := { c1.taste with cur := { t with writes := t.writes ++ gs } } }

/-- The banks of an entry of a region. -/
def Cell.entryBanks (c : Cell) (slot region entry : Nat) : List Nat :=
  let sl := c.slot slot
  let r := sl.region region
  ((List.range r.grans).map fun i => granBank (sl.entryGran r entry i)).dedup

/-- Banks that cell n leaves untouched in the hob cycle in force (R132). -/
def Hob.quietBanks (z : Hob) (n : Nat) : List Nat :=
  if z.seqMode || !z.executing then []
  else (List.range 32).filter fun b => (z.rcp.quiet.getD n []).any fun q => q.cyc == z.inPeriod && q.mask.getLsbD b

/-- A reserved entry counts as filled. -/
def Cell.entryFilled (c : Cell) (slot region entry : Nat) : Cell :=
  c.modRegion slot region fun r => { r with reserved := r.reserved.filter fun e => e != entry }

/-- Store a block in an entry of a region, which then counts as filled. -/
def Cell.fillEntry (c : Cell) (slot region entry : Nat) (data : List Byte) (bad old : Nat → Bool) : Cell :=
  (c.writeEntry slot region entry data bad old).entryFilled slot region entry

/-- BLOCK_LANDING (R115): the last flit of a block arrives and the reserved entry counts as filled. A block that fails its
CRC-32C, and a read that was not performed (R193, R423), fills the entry with poison; the first raises BLOCK_CHECK_FAIL. In a hob cycle
whose quiet slot names a bank of the entry, nothing lands (R132). -/
def execBlockLanding (txn : Nat) (data : List Byte) (crcOk : Bool) (s : State) : Res :=
  match s.txn txn with
  | none => done s
  | some t =>
    match t.kind with
    | .crossing hn x _ =>
      let quiet := (s.hob hn).quietBanks t.cell
      let touched := (s.cell (s.posOf hn t.cell)).entryBanks t.slot t.region t.entry
      if t.write || !t.granted || (t.pool != .host && !t.served && !t.breach) || s.txnDelayed t 2 || quiet.any touched.contains then done s
      else
        let bytes := if t.pool = .host then data else t.data
        let crcOk := crcOk && !t.crcBad
        let bad := fun i => !crcOk || t.breach || t.poison.contains i
        let p := s.posOf hn t.cell
        let s1 := s.modCell p fun c => c.fillEntry t.slot t.region t.entry (if t.breach then [] else bytes) bad
          fun i => crcOk && !t.breach && t.stored.contains i
        let s2 := if crcOk || t.breach then s1
          else (s1.modCell p fun c => { c with flags := { c.flags with fault := true } }).emit (.mgt "BLOCK_CHECK_FAIL" [hn, t.cell, x])
        done ((s2.dropTxn txn).settleWaits hn)
    | _ => done s

/-! ### Simmer (R124) -/

/-- The power share in force: the lesser of the grant and the hob's own setting (R238). -/
def Hob.share (h : Hob) : Nat := min h.grant.power.toNat h.powerQ

/-- SIMMER_WINDOW: a window of 4,096 MCLK edges starts and a running hob is held for its duty with cause 4. -/
def execSimmerWindow (hob : HobId) (s : State) : Res :=
  let h := s.hob hob.val
  if !h.runs || (h.clk.live && h.simmer.edge < 4096 && h.simmer.edge ≠ 0) then done s
  else
    let h1 := { h with simmer := { h.simmer with edge := 0 } }
    done (s.setHob hob.val (if h.simmer.duty = 0 then h1 else (h1.addCause s.now 4).freeze s.now 4 0))

/-- SIMMER_DUTY_UPDATE: the hearth recomputes the duty from the measured power; the spec gives no formula, so the duty is a
free value of at most 224 (R124), and at least the thermal duty (R414). -/
def execSimmerDutyUpdate (hob : HobId) (watts : Nat) (s : State) : Res :=
  let h := s.hob hob.val
  if h.st = .free then done s
  else
    let own := Config.simmerDuty h.share watts h.simmer.own % 225
    let d := max own s.damper.duty.toNat
    done (s.setHob hob.val { h with simmer := { h.simmer with
      on := d != 0, duty := BitVec.ofNat 8 d, own := own, share := BitVec.ofNat 8 h.share } })

end Sys2Proof.Machine
end

