-- ==== Sys2Proof/Machine/Fence.lean ====
section
/-! DEFINITION. Step fences, commit, staged host writes and replay: STEP_FENCE to STEP_TIMER_EXPIRY and REPLAY_START
(R59, R94, R104, R128 to R131, R137, R162, R213, R235, R268, R273 to R275, R423). -/

namespace Sys2Proof.Machine

open Sys2Proof

/-! ### Starting a step -/

/-- Number of steps of the program, and the step after one. -/
def Recipe.next (r : Recipe) (k : Nat) : Nat := if r.fences.length = 0 then 0 else (k + 1) % r.fences.length

/-- Every sequencer of a cell that has words is at a HALT word (R162). -/
def Cell.allHalted (c : Cell) : Bool := [0, 1, 2, 3].all fun i => let x := c.slot i; x.seqCount == 0 || x.seq.halted

/-- Where a sequencer stands. -/
def Slot.snap (x : Slot) : SeqSnap := { pc := x.seq.pc.toNat, ctr := x.seqCtr }

/-- A sequencer at the first word of step `k`: after its HALT word, or at its start index for the first step of the
program (R162). R162 does not say whether loop counters survive: DESIGN CHOICE, they are cleared at step 0 and kept at other steps
(notes/assumptions/82.md). -/
def Slot.seqStep (x : Slot) (k : Nat) : Slot :=
  if x.seqCount = 0 then x
  else
    let pc := if k = 0 then x.seqStart else x.seq.pc.toNat + 1
    { x with seq := { pc := BitVec.ofNat 13 pc, step := BitVec.ofNat 12 k }, seqFired := [], seqCtr := if k = 0 then [] else x.seqCtr }

/-- What a cell does at a fence that opens step `k`: fence copies are taken, the sticky flags of the step are cleared, and
its sequencers go on (R94, R128, R154, R162, R272). R155 gives entries that granule tags leave in the pairing window no outcome:
DESIGN CHOICE, they stay for the next step without a code (notes/assumptions/82.md). -/
def Cell.fence (c : Cell) (k : Nat) : Cell :=
  let slots := [0, 1, 2, 3].foldl (fun (t : Tab Slot) i => t.upd {} i fun x =>
    let y := x.seqStep k
    { y with srLater := y.srLater ++ [y.sr], srRows := 0, stallCyc := 0, seqLater := y.seqLater ++ [y.snap] }) c.slots
  { c with slots := slots, flags := {}, wrote := [],
           units := { c.units with steer := { c.units.steer with ctr := [], pt := false, case := 0, tag := 0 } },
           taste := { c.taste with later := c.taste.later ++ [(c.taste.blocks, c.taste.grans)], stat := { c.taste.stat with fail := false } } }

/-- The oldest fence copies become those of the last committed fence. -/
def Cell.committed (c : Cell) : Cell :=
  let slots := [0, 1, 2, 3].foldl (fun (t : Tab Slot) i => t.upd {} i fun x =>
    { x with srFence := x.srLater.headD x.srFence, srLater := x.srLater.drop 1,
             seqFirst := x.seqLater.headD x.seqFirst, seqLater := x.seqLater.drop 1 }) c.slots
  { c with slots := slots, taste := { c.taste with first := c.taste.later.headD c.taste.first, later := c.taste.later.drop 1 } }

/-! ### Rewinding to the step after the last commit (R274) -/

/-- A cell set up for the first cycle of a step: pipelines, stream queue, steering window and landings are empty,
accumulators +0, tag counters 0 (R152), generators and sequencers at their fence copies. `clear` also clears `HOB_CR_STAT` (R56). -/
def Cell.rewind (c : Cell) (k : Nat) (clear : Bool) : Cell :=
  let slots := [0, 1, 2, 3].foldl (fun (t : Tab Slot) i => t.upd {} i fun x =>
    { x with
      regions := x.regions.map fun r => (r.1, if clear then r.2.clearStat else r.2.drop),
      sr := x.srFence, srLater := [], srRows := 0, stallCyc := 0, seqLater := [],
      seq := { pc := BitVec.ofNat 13 x.seqFirst.pc, step := BitVec.ofNat 12 k }, seqCtr := x.seqFirst.ctr, seqFired := [] }) c.slots
  { c with
    slots := slots, issued := 0, crc := crcInit, crcDue := [], portIn := [], landWrites := [], engineIn := [], flags := {}, wrote := [],
    engineOut := c.engineOut.filter fun f => f.vc != 1, landings := [], sends := [],
    units := { c.units with
      arrivals := [], stream := [], streamPoison := [], acc := [], vwrites := [], vstore := [], tokens := [], epi := [],
      steerOut := [], steer := {} },
    taste := { c.taste with
      cur := {}, held := none, checker := none, due := false, blocks := c.taste.first.1, grans := c.taste.first.2, later := [],
      stat := { c.taste.stat with fail := false } } }

/-- A router set up for a step: its page as the recipe fixes it (R104), inputs and checksums empty. -/
def Router.rewind (r : Router) (page : Nat) : Router :=
  { r with page := page, pageReq := none, inputs := [], applied := [], crc := [], crcDue := [] }

/-- Shadow entries of a hob are discarded without folding; their pages return to the pools (R208, R213). -/
def State.dropShadows (s : State) (h : Nat) : State :=
  let mine := s.rdrs.filter fun e => e.2.hob == h
  let s1 := s.setRdrs (s.rdrs.filter fun e => e.2.hob != h)
  s1.each mine fun s e => s.modStack (e.1 / 2 ^ 21) fun k => { k with shadowFree := e.2.shadow :: k.shadowFree }

/-- A capture whose fence has not committed is cancelled (R213). -/
def State.cancelCapture (s : State) (h : Nat) : State :=
  let x := s.hob h
  if x.cow.armed && x.fenceLast < x.cow.fence then
    (s.dropShadows h).modHob h fun y => { y with cow := { y.cow with armed := false, draining := false, folding := false } }
  else s

/-- Whether a transaction is a crossing of a hob. -/
def Txn.crossingOf (t : Txn) (h : Nat) : Bool :=
  match t.kind with
  | .crossing hn _ _ => hn == h
  | _ => false

/-- The transactions of a hob whose steps are discarded: a write whose block has left its cell goes on to its client, every other
crossing ends (R274). -/
def runOut (l : List Txn) (h : Nat) : List Txn :=
  (l.filter fun t => !t.crossingOf h || (t.write && !t.data.isEmpty)).map fun t => if t.crossingOf h then { t with discarded := true } else t

/-- The hob set up to run the step after its last committed fence: reads of its crossings are discarded and writes that have their data
go on, the check points that waited for them with causes 1 and 2 are over (R121), what the discarded steps staged and captured is dropped,
cells and routers are rewound, the hob cycle counter is at the step's first cycle (R104, R274). -/
def State.rewind (s : State) (h : Nat) (clear : Bool) : State :=
  let x := s.hob h
  let k := x.nextStep
  let cells := x.rect.cells
  let s1 := (s.cancelCapture h).modHob h fun y =>
    { ((y.endCause 1).endCause 2) with
      closing := [], awaits := none, peerClosed := y.peerClosed.filter fun p => y.fenceLast < p.1, eccLines := [],
      staged := y.staged.filter fun w => w.fence ≤ y.fenceLast,
      xng := y.xng.map fun q => (q.1, { q.2 with issued := 0, addrRead := none, buf := [] }),
      hold := { ((y.endCause 1).endCause 2).hold with waits := [], req := none, target := none },
      run := { y.run with breach := none },
      replay := { y.replay with sched := y.replay.sched ++ y.replay.noted, noted := [] },
      clk := { y.clk with cyc := y.clk.nextStart, stepStart := y.clk.nextStart, step := k, fence := y.fenceLast + 1, live := true, unheld := [] } }
  let s2 := { s1 with txns := runOut s1.txns h }.each (List.range 16) fun s p =>
    s.modLnp p fun l => { l with rxQueue := l.rxQueue.filter fun b => b.hob != h }
  s2.each (s2.nums h) fun s n =>
    ((s.dropLandings h n).modCell (s.posOf h n) fun c => c.rewind k clear).modRouter (s.routerPos h n) fun r => r.rewind (x.rcp.pageAt.getD (k * cells + n) 0)

def dayMs : Nat := 86400000

/-- Pseudo-channel of a 4 KiB block (R191). -/
def pcOf (dev : Nat) : Nat := bits 16 12 dev ^^^ bits 21 17 dev

/-! ### Errors at rest (R202 to R204) -/

/-- Traffic wakes a stack (R217). -/
def Stack.wake (k : Stack) (now : Nat) : Stack := { k with pwr := if k.pwr = .off then .off else .on, lastTraffic := now }

/-- A corrected line: counted, and its row due for a spare at the second in 24 hours (R203). -/
def Stack.corrected (k : Stack) (dev nowMs : Nat) : Stack :=
  let row := Config.stackRow dev
  let recent := (k.rowCe.get [] row).filter fun t => nowMs < t + dayMs
  { k with ceAt := nowMs :: k.ceAt.filter fun t => nowMs < t + dayMs,
           rowCe := k.rowCe.put [] row (nowMs :: recent), rowDue := if recent.isEmpty then k.rowDue else k.rowDue.put 0 row (dev / 64 + 1) }

/-- An uncorrectable line: counted; its row is due for a spare, and its pseudo-channel at 16 in 24 hours (R203, R204). -/
def Stack.uncorrectable (k : Stack) (dev nowMs : Nat) : Stack :=
  let pc := pcOf dev
  let recent := nowMs :: (k.pcUe.get [] pc).filter fun t => nowMs < t + dayMs
  { k with ue := satInc k.ue, rowDue := k.rowDue.put 0 (Config.stackRow dev) (dev / 64 + 1), pcUe := k.pcUe.put [] pc recent,
           pcDue := if recent.length ≥ 16 then mark k.pcDue pc true else k.pcDue }

/-- Traffic reaches a stack. -/
def State.touchStack (s : State) (stack : Nat) : State := s.modStack stack fun k => k.wake s.now

/-- Errors strike a line at rest: bad symbols that the next access meets. -/
def State.strike (s : State) (dev symbols : Nat) : State :=
  if symbols = 0 then s else { s with errs := s.errs.put 0 (dev / 64) (s.errs.get 0 (dev / 64) + symbols) }

/-- What a read meets in one line. A block of a dead pseudo-channel is unreadable (R204). One bad symbol is corrected and written
back, more leave the line poisoned with ECC_UE, a line stored poisoned reads back poisoned without a code (R202). Which of the last two
holds for a line stored poisoned that more symbols have struck R202 does not say: DESIGN CHOICE, stored poison (notes/assumptions/82.md).
Results: 0 good, 1 ECC_UE, 2 stored poison. -/
def State.readLine (s : State) (dev : Nat) : Nat × State :=
  let st := bits 40 37 dev
  let line := s.lines.get {} (dev / 64)
  let k := s.stack st
  let symbols := s.errs.get 0 (dev / 64)
  let t := { s with errs := s.errs.erase (dev / 64) }
  if k.pcDead.contains (pcOf dev) || (symbols ≥ 2 && !line.poison) then
    (1, { t with lines := t.lines.put {} (dev / 64) { line with poison := true } }.setStack st (k.uncorrectable dev s.lifeMs))
  else
    let s1 := if symbols = 1 then t.setStack st (k.corrected dev s.lifeMs) else s
    (if line.poison then 2 else 0, s1)

/-- A read of n lines from a device address: the lines that raised ECC_UE, those stored poisoned, the data, and the state after. -/
def State.readLines (s : State) (key dev n : Nat) : List Nat × List Nat × List Byte × State :=
  (List.range n).foldl (fun a i =>
    let d := a.2.2.2.redirect (dev + 64 * i)
    let (r, s1) := a.2.2.2.readLine d
    (if r = 1 then a.1 ++ [i] else a.1, if r = 2 then a.2.1 ++ [i] else a.2.1, a.2.2.1 ++ s1.memBytes key d 64, s1)) ([], [], [], s)

/-! ### Resident slots and their home copies (R53, R62, R63, R273, R281) -/

/-- Hob-relative byte address of a slot's home copy (R52). -/
def Slot.home (x : Slot) : Nat := x.homeAddr.toNat * 4096

/-- One 4 KiB block of a slot's home copy read and written into the slot's window (R52, R62, R192); what its lines met. -/
def State.fillBlock (s : State) (h p slot base block : Nat) : List Nat × State :=
  let z := s.hob h
  let a := base + 4096 * block
  match z.devAddr a with
  | none => ([], s)
  | some dev =>
    let (ue, stored, data, s1) := (s.touchStack (relStack a)).readLines z.key dev 64
    let bad := ue ++ stored
    let sl := (s1.cell p).slot slot
    let s2 := s1.modCell p fun c =>
      let c1 := (List.range 64).foldl (fun c i => c.writeGran (sl.winBase + 64 * block + i) (bytesAt data (64 * i) 64) (bad.contains i) 15) c
      { c1 with wrote := c.wrote }
    (bad.map fun i => a + 64 * i, s2)

/-- A slot filled from its home copy, block by block; poisoned lines fill poisoned words and are reported with source 4. While a
stack controller it needs is in reset, the fill waits (R200). -/
def State.fillSlot (s : State) (h n slot : Nat) : State :=
  let p := s.posOf h n
  let sl := (s.cell p).slot slot
  let blocks := List.range sl.size.toNat
  if blocks.any fun j => (s.stack (relStack (sl.home + 4096 * j))).resetting then
    s.modHob h fun y => { y with fills := if y.fills.contains (n, slot) then y.fills else y.fills ++ [(n, slot)] }
  else
    let (bad, s1) := blocks.foldl (fun (a : List Nat × State) j =>
      let r := a.2.fillBlock h p slot sl.home j
      (a.1 ++ r.1, r.2)) ([], s)
    let s2 := s1.modHob h fun y => { y with fills := y.fills.filter fun f => f != (n, slot) }
    if bad.isEmpty then s2
    else s2.eccReport h (bad.map fun a => { addr := a, source := 4, stack := relStack a, cell := n })

/-- Every resident slot of a cell filled from its home copy (R63). -/
def State.fillResident (s : State) (h n : Nat) : State :=
  s.each [0, 1, 2, 3] fun s i => if ((s.cell (s.posOf h n)).slot i).resident then s.fillSlot h n i else s

/-! ### Stopping without commit -/

/-- The hob stops without committing; its uncommitted steps are discarded (R122, R131). -/
def State.stopUncommitted (s : State) (h : Nat) (e : End) : State :=
  let s1 := (if 25 ≤ e.status && e.status ≤ 30 then s.interrupt else s).cancelCapture h
  let s2 := (s1.modHob h Hob.discard).stopHob h e.status e.detail e.info0 e.info1
  { s2 with txns := runOut s2.txns h }

/-- HOLD_LIMIT_EXPIRY (R122): a hold of cause 1, 2 or 3 past the limit leaves the hob STOPPED without commit, with
BOUND_MISS and the crossing, or the fence for cause 3. R122 names the current step alone: that fences of earlier steps which are
still closing are discarded with it is a DESIGN CHOICE (notes/assumptions/82.md). -/
def execHoldLimitExpiry (hob : HobId) (s : State) : Res :=
  let h := s.hob hob.val
  match h.hold.limitFrom with
  | none => done s
  | some t =>
    if !h.runs || !h.hold.frozen || s.now ≤ t + h.rcp.holdLimitNs then done s
    else
      let x : Nat × Nat := match h.hold.waits with
        | w :: _ => match h.rcp.crossing w.xng with
          | some y => (y.cell, y.id)
          | none => (0, w.xng)
        | [] => (0, (h.closing.head?.map fun c => c.fence).getD h.clk.fence)
      done (s.stopUncommitted hob.val { status := stBoundMiss, detail := x.1, info0 := x.2 })

/-- ECC_UE stops carry a report of the lines (R273, R281). -/
def State.stopFailed (s : State) (h : Nat) (e : End) : State :=
  let lines := (s.hob h).eccLines
  let s1 := if e.status = stEccUe then s.eccReport h lines else s
  s1.stopUncommitted h e

/-! ### Replay (R274, R275) -/

/-- A message to a peer device of a hob on MGT over the Lanper ports (R130, R249, R260). `kind`: 1 fence closed, 2 fence failed, 3
jar plan, 4 jar request, 5 jar sealed. -/
def State.tellPeer (s : State) (h dev kind : Nat) (what : String) (vals : List Nat) : State :=
  let via := ((List.range 16).find? fun p => (s.hob h).grant.lnp.getLsbD p).getD 0
  (s.emit (.mgt what (h :: dev :: vals))).sendPacket via { kind := 1, flits := 1, dest := dev, hob := h, note := kind :: vals }

/-- The same to every peer (R130, R274). -/
def State.tellPeers (s : State) (h kind : Nat) (what : String) (vals : List Nat) : State :=
  (s.hob h).rcp.peers.foldl (fun s p => s.tellPeer h p kind what vals) s

/-- Whether a hob has an uncommitted step. -/
def Hob.uncommitted (h : Hob) : Bool := h.clk.live || !h.closing.isEmpty

/-- The newest fault event of a position with a code is marked recurred (R275, R283); an injected one, of weight 0, does not count (R324). -/
def markNewest (code : Nat) : List Hist → List Hist
  | [] => []
  | e :: r => if e.code.toNat = code && e.wt != 0 then { e with out := 2 } :: r else e :: markNewest code r

def State.markRecurred (s : State) (p code : Nat) : State := s.modPos p fun x => { x with hist := markNewest code x.hist }

/-- Due wires of a router go onto spares while the hob is held, at most 16 a link; a wire that finds none makes its link bad (R68,
R273). -/
def Router.steer (r : Router) : Router :=
  let r1 := r.steerDue.foldl (fun (r : Router) k =>
    let o := k / 2048
    let n := r.wireSteered.get 0 o
    if n < 16 then { r with wireSteered := r.wireSteered.put 0 o (n + 1), wireBad := r.wireBad.put [] o (mark (r.wireBad.get [] o) (k % 2048) true) }
    else { r with linkBad := mark r.linkBad o true }) r
  { r1 with steerDue := [] }

/-- The positions that a position's bad links join (R68): itself and the other end of each. -/
def State.badLinkEnds (s : State) (p : Nat) : List Nat :=
  (s.router p).linkBad.flatMap fun c => p :: ((linkTo (Pos.ofIdx p) c).map Pos.idx).toList

/-- Positions that a link with more than 16 faulty wires joins are treated as failed (R68): a test-driven lid. -/
def State.lidBadLinks (s : State) (p : Nat) : State := s.each (s.badLinkEnds p).dedup fun s q => s.lid q true

/-- The Lanper ports that the loaded recipe uses: those it declares a class for (R133) and those its crossings name (R113). -/
def State.classPorts (s : State) (h : Nat) : List Nat :=
  let z := s.hob h
  (List.range 16).filterMap fun j =>
    if z.rcp.portcls.getD j 0 != 0 || z.rcp.crossings.any (fun x => (x.kind == 2 || x.kind == 3) && x.client == j) then z.lnpOf j else none

/-- Resets that cells of a hob are in: of the cell itself, its rack or its quarter (R326). -/
def State.cellsInReset (s : State) (h : Nat) : Bool :=
  s.resets.running.any fun r =>
    (r.1 == 0 && (s.cell r.2.1).hob == some h) || (r.1 == 1 && (s.racksOf h).any fun k => k.idx == r.2.1) ||
    (r.1 == 5 && (s.racksOf h).any fun k => k.quarter == r.2.1)

/-- What a hob of the hearth's cause 8 still waits for: a thermal hold (R414), a port that relights (R259), resets of its cells, and
resident slots that are not filled (R63, R200). -/
def State.waitsFor8 (s : State) (h : Nat) : Bool :=
  s.damper.thermalHold || (s.classPorts h).any (fun p => (s.lnp p).relighting || (s.lnp p).fallback) || s.cellsInReset h || !(s.hob h).fills.isEmpty

/-- The hearth's cause 8 ends once nothing is left that the hob waits for (R121), and the hearth is there (R327). -/
def State.endHold8 (s : State) (h : Nat) : State := if s.resets.hearthDown || s.waitsFor8 h then s else s.endHold h 8

/-- An event that needs the hearth while it is away holds its hob with cause 8, and that counts as downtime (R13, R327). -/
def State.awaitHearth (s : State) (h : Nat) : State := if (s.hob h).runs then (s.holdNow h 8).avlStart 5 h else s

/-- Whether the oldest uncommitted step already stands to be stopped: its breach is not repaired by a replay (R59, R136). -/
def Hob.oldestFailed (h : Hob) : Bool :=
  match h.closing with
  | c :: _ => c.failed.isSome
  | [] => h.run.breach.isSome

/-- A replay of the oldest uncommitted step: at most three; a fourth fault leaves the hob STOPPED with the fault's code (R274, R275). `n`
is the cell of the fault and `at_` its position, where this device has seen it: the same code there in two runs is marked recurred. -/
def State.replayAt (s : State) (h status n : Nat) (at_ : Option Nat) : State :=
  let x := s.hob h
  if !x.runs || !x.uncommitted || x.oldestFailed then s
  else if s.resets.hearthDown then (s.awaitHearth h).modHob h fun y => { y with awaits := some (y.awaits.getD (status, n)) }
  else
    let here := at_.map fun p => (status, p)
    let s0 := match at_ with
      | some p => if x.replay.last == some (status, p) then s.markRecurred p status else s
      | none => s
    if x.replay.tries = 3 then s0.stopFailed h { status := status, detail := n, info0 := x.fenceLast + 1 }
    else
    let s1 := ((s0.holdNow h 8).avlStart 1 h).tellPeers h 2 "fence failed" [x.fenceLast + 1]
    let back := x.closing.length + (if x.clk.live then 1 else 0) - 1
    let s2 := (s1.rewind h false).modHob h fun y =>
      { y with
        run := { y.run with stepsLeft := y.run.stepsLeft + back },
        replay := { y.replay with
          count := y.replay.count + 1, code := BitVec.ofNat 8 status, tries := y.replay.tries + 1, cell := BitVec.ofNat 13 n,
          last := here, active := true,
          until_ := if x.closing.isEmpty then x.clk.cyc else x.closing.headD {} |>.endCyc } }
    let free := s2.routers.filterMap fun (e : Nat × Router) => if e.2.steerDue.isEmpty || (s2.routerAt e.1).isSome then none else some e.1
    let s3 := s2.each ((s2.nums h).map (s2.routerPos h) ++ free) fun s q => (s.modRouter q Router.steer).lidBadLinks q
    let s4 := if status = stEccUe then s3.fillResident h n else s3
    (s4.endHold8 h).modHob h fun y => y.endCause 3

/-- A replay for a fault that a cell of the hob has met. Due wires of routers that serve no hob are steered in the same hold (R68). -/
def State.replay (s : State) (h status n : Nat) : State := s.replayAt h status n (some (s.posOf h n))

/-! ### The fence -/

/-- The fence numbers and states that keep a fence from closing locally (R128): writes not acknowledged, checksums not
compared, taster verdicts outstanding. -/
def State.fenceOpen (s : State) (h f : Nat) : Bool :=
  (s.txns.any fun t => t.crossingOf h && t.write && !t.discarded && t.stamp == f) ||
  ((s.nums h).any fun n =>
    let c := s.cell (s.posOf h n)
    (c.crcDue.any fun e => e.1 == f) || (match c.taste.held with
      | some t => t.fence == f
      | none => false))

/-- Statuses of the breach that a step's flags leave at its fence (R59, R268, R273): the first code raised, or
SCHED_VIOLATION for the flags of R48 and R54, or ECC_UE for stored poison. -/
def State.fenceBreach (s : State) (h : Nat) : Option End :=
  let z := s.hob h
  let bad := fun (f : StepFlags → Bool) => (s.nums h).find? fun n => f (s.cell (s.posOf h n)).flags
  match z.run.breach with
  | some e => some e
  | none => match bad fun f => f.busy || f.bound with
    | some n => some { status := stSched, detail := n, info0 := z.clk.fence }
    | none => match bad fun f => f.storedPoison with
      | some n => some { status := stEccUe, detail := n, info0 := z.clk.fence }
      | none => none

/-- The next step begins at the fence, or none does when no step is queued (R128, R129): hob cycle 0 of step n + 2 is held
with cause 3 while fence n has not committed. -/
def State.nextStepAt (s : State) (h : Nat) : State :=
  let x := s.hob h
  if x.run.stepsLeft = 0 || x.run.stopAt.isSome then
    s.modHob h fun y => { y with clk := { y.clk with live := false }, run := { y.run with stepsLeft := 0 } }
  else
    let k := x.rcp.next x.clk.step
    let x1 := { x with
      run := { x.run with stepsLeft := x.run.stepsLeft - 1, breach := none },
      clk := { x.clk with stepStart := x.clk.cyc, step := k, fence := x.clk.fence + 1, live := true, unheld := [] } }
    s.setHob h (if x.closing.length < 2 then x1 else (x1.addCause s.now 3).freeze s.now 3 0)

/-- The head of the closing fences, once it has failed, stops the hob without commit (R59, R122, R273). -/
def State.failHead (s : State) (h : Nat) : State :=
  match (s.hob h).closing with
  | c :: _ => match c.failed with
    | some e => s.stopFailed h e
    | none => s
  | [] => s

/-- A fault that stops the hob without a replay is attributed to the oldest uncommitted step (R131, R273): one whose fence is closing stops
the hob now, one that runs does so at its fence. -/
def State.stepFault (s : State) (h : Nat) (e : End) : State :=
  if (s.hob h).closing.isEmpty then s.breachAt h e
  else
    (s.modHob h fun y => { y with closing := match y.closing with
      | c :: r => { c with failed := some (c.failed.getD e) } :: r
      | [] => [] }).failHead h

/-- A fence is reached by every cell of the hob (R128 row 1). Stored poison that the step has met counts against every uncommitted step
(R273). -/
def State.reachFence (s : State) (h : Nat) : State :=
  let x := s.hob h
  let breach := s.fenceBreach h
  let fault := (s.nums h).any fun n => (s.cell (s.posOf h n)).flags.fault
  let c : Closing := { fence := x.clk.fence, step := x.clk.step, fault := fault, failed := breach, endCyc := x.clk.cyc }
  let older := fun (d : Closing) => if (breach.any fun e => e.status == stEccUe) && d.failed.isNone then { d with failed := breach } else d
  let s1 := s.modHob h fun y => { y with closing := y.closing.map older ++ [c] }
  let s2 := s1.modCells h fun c => c.fence (x.rcp.next x.clk.step)
  let s3 := if breach.isSome then s2.modHob h fun y => { y with clk := { y.clk with live := false } } else s2.nextStepAt h
  s3.failHead h

/-- Whether edges counted by MCLK in MHz took a time in relation to 20 ms (R137, R162): each edge lasts 1/f µs, and the sums are compared
exactly. -/
def stepTime (edges : Tab Nat) (rel : Nat → Nat → Bool) : Bool :=
  let all := (edges.map fun e => e.1).foldl (· * ·) 1
  rel (20000 * all) ((edges.map fun e => e.2 * (all / e.1)).foldl (· + ·) 0)

/-- A step whose unheld execution exceeds 20 ms (R137), and one that reaches them (R162). -/
def overStepLimit (edges : Tab Nat) : Bool := stepTime edges fun a b => decide (a < b)
def atStepLimit (edges : Tab Nat) : Bool := stepTime edges fun a b => decide (a ≤ b)

/-- The fence of a sequencer-mode step that has run too long: it fails with SCHED_VIOLATION and does not commit (R137, R162). -/
def State.lateFence (s : State) (h : Nat) : State :=
  let x := s.hob h
  let c : Closing := { fence := x.clk.fence, step := x.clk.step, endCyc := x.clk.cyc,
                       failed := some { status := stSched, info0 := x.clk.fence } }
  (s.modHob h fun y => { y with closing := y.closing ++ [c], clk := { y.clk with live := false } }).failHead h

/-- STEP_FENCE (R128): in static mode at the step's last hob cycle, in sequencer mode when every sequencer has halted (R162); a step that
has exceeded 20 ms of unheld execution fails at its fence (R137). -/
def execStepFence (hob : HobId) (s : State) : Res :=
  let h := hob.val
  let x := s.hob h
  if !x.executing then done s
  else if x.seqMode then
    if !((s.nums h).all fun n => (s.cell (s.posOf h n)).allHalted) then done s
    else if overStepLimit x.clk.unheld then done (s.lateFence h)
    else done (s.reachFence h)
  else if x.atFence then done (s.reachFence h)
  else done s

/-! ### Commit -/

/-- A table of fences after the last committed fence has become an earlier one (R276, R361). -/
def Tab.capAt (t : Tab Nat) (f : Nat) : Tab Nat := (t.map fun e => (e.1, min e.2 f)).filter fun e => e.2 != 0

/-- The lineage record in both copies (R190, R278). -/
def Hob.setLineage (h : Hob) (l : List LinRun) : Hob := { h with lineage := l, lineage6 := l }

/-- The lineage record takes one committed fence: the newest run grows while recipe and placement stay the same (R278). -/
def Hob.noteFence (h : Hob) (f epoch : Nat) : Hob :=
  let d := BitVec.ofNat 64 (h.rcp.digest.toNat % 2 ^ 64)
  match h.lineage with
  | r :: rest =>
    if r.epoch = epoch && r.digest = d && r.last + 1 = f then h.setLineage ({ r with last := f } :: rest)
    else
      let l := { first := f, last := f, epoch := epoch, digest := d } :: h.lineage
      { h.setLineage (l.take 65536) with
        linOver := match l.drop 65536 with
          | o :: _ => o.last
          | [] => h.linOver }
  | [] => h.setLineage [{ first := f, last := f, epoch := epoch, digest := d }]

/-- A committed step counts toward the RUN_STEPS command at the front; with EACH every committed step posts a record, and the command
completes with its last step (R232, R233). -/
def State.countStep (s : State) (h f : Nat) : State :=
  match (s.hob h).run.refs with
  | [] => s
  | c :: rest =>
    let c1 := { c with done := c.done + 1 }
    let s1 := s.modHob h fun y => { y with run := { y.run with refs := if c1.done = c1.count then rest else c1 :: rest } }
    let s2 := if c.each then s1.recordEach c.ref c1.done f else s1
    if c1.done = c1.count then s2.complete c.ref 2 stOk 0 c1.done f else s2

/-- Waits and copies that fence f satisfies (R232, R236). -/
def State.fenceMet (s : State) (h f : Nat) : State :=
  let x := s.hob h
  let due := x.fenceWaits.filter fun w => w.2 ≤ f
  let s1 := s.modHob h fun y => { y with fenceWaits := y.fenceWaits.filter fun w => f < w.2,
                                         copies := y.copies.map fun c => if c.after ≤ f then { c with running := true } else c }
  s1.each due fun s w => s.complete w.1 3 stOk 0 0 f

/-- The hearth's generator fence copies of a hob follow the last committed fence (R94, R291). -/
def State.keepGens (s : State) (h : Nat) : State :=
  let g := (s.nums h).foldl (fun (t : Tab W64) n =>
    [0, 1, 2, 3].foldl (fun (t : Tab W64) i => t.put 0 (4 * n + i) ((s.cell (s.posOf h n)).slot i).srFence) t) []
  s.modHob h fun y => { y with gens := g }

/-- The jar of a fence takes the generator fence copies and the step that follows as the fence commits (R350, R351, R354). -/
def Hob.jarCommit (y : Hob) (f nowMs : Nat) : Hob :=
  { y with jarRun := y.jarRun.map fun (j : JarRun) =>
      if j.fence = f then { j with startedAt := nowMs, jar := { j.jar with gens := y.gens, next := y.nextStep, digest := y.rcp.digest } } else j }

/-- Commit of the head fence (R128 row 7). -/
def State.commitHead (s : State) (h : Nat) (c : Closing) : State :=
  let s1 := s.modHob h fun y =>
    { (y.noteFence c.fence s.hearth.epoch) with
      fenceLast := c.fence, closing := y.closing.drop 1, nextStep := y.rcp.next c.step,
      clk := { y.clk with nextStart := c.endCyc }, peerClosed := y.peerClosed.filter fun p => c.fence < p.1,
      eccLines := y.eccLines.filter fun l => c.fence < l.fence,
      replay := { y.replay with tries := 0, last := none, sched := [] },
      cow := if y.cow.armed && y.cow.fence = c.fence then { y.cow with draining := true } else y.cow }
  let s2 := ((s1.modCells h Cell.committed).keepGens h).modHob h fun y => (y.endCause 3).jarCommit c.fence s.lifeMs
  (s2.countStep h c.fence).fenceMet h c.fence

/-- Whether every peer has reported a fence closed (R130). -/
def Hob.peersClosed (h : Hob) (f : Nat) : Bool := h.rcp.peers.all fun p => h.peerClosed.contains (f, p)

/-- A hob that has nothing left to run stops after commit (R240): with the status that was asked for, or OK. -/
def State.stopIfDone (s : State) (h : Nat) : State :=
  let x := s.hob h
  if x.runs && !x.clk.live && x.closing.isEmpty then
    let e := x.run.stopAt.getD {}
    s.stopHob h e.status e.detail e.info0 e.info1
  else s

/-- Whether a fault that asks for a replay stands against an uncommitted step; it is attributed to the oldest one (R131, R273). -/
def State.faulted (s : State) (h : Nat) : Bool :=
  ((s.hob h).closing.any fun c => c.fault) || ((s.hob h).clk.live && (s.nums h).any fun n => (s.cell (s.posOf h n)).flags.fault)

/-- The oldest fence commits when it has closed here and at every peer and no fault stands against it or the step behind it (R128 to
R131, R273); a failed one behind it then stops the hob. -/
def State.tryCommit (s : State) (h : Nat) : State :=
  let x := s.hob h
  match x.closing with
  | [] => s
  | c :: _ =>
    if c.failed.isSome then s.failHead h
    else if c.localClosed && !s.faulted h && x.peersClosed c.fence then ((s.commitHead h c).failHead h).stopIfDone h
    else s

/-- FENCE_LOCAL_CLOSE (R128 row 6): the oldest fence not yet closed here closes once nothing of its step is outstanding. An oldest fence
that a breach has failed meanwhile stops the hob (R59, R136). -/
def execFenceLocalClose (hob : HobId) (s : State) : Res :=
  let h := hob.val
  let x := s.hob h
  if (x.closing.head?.any fun c => c.failed.isSome) then done (s.failHead h)
  else match x.closing.find? fun c => !c.localClosed && !c.fault && c.failed.isNone with
  | none => done s
  | some c =>
    if !x.runs || s.fenceOpen h c.fence then done s
    else
      let s1 := s.modHob h fun y =>
        { y with closing := y.closing.map fun d => if d.fence = c.fence then { d with localClosed := true } else d }
      done ((s1.tellPeers h 1 "fence closed" [c.fence]).tryCommit h)

/-- PEER_FENCE_REPORT (R130). A report from a device that is no peer of the hob is ignored. -/
def execPeerFenceReport (hob : HobId) (peer : BitVec 13) (fence : Nat) (s : State) : Res :=
  let h := hob.val
  let x := s.hob h
  if !x.rcp.peers.contains peer.toNat || fence ≤ x.fenceLast || x.peerClosed.contains (fence, peer.toNat) then done s
  else done ((s.modHob h fun y => { y with peerClosed := y.peerClosed ++ [(fence, peer.toNat)] }).tryCommit h)

/-- PEER_FENCE_FAILED (R274): a peer's fence failed, and this member replays the same step. The peer's message names no code and no cell
(R274), and R275 does not say what the registers and a fourth stop show then: free values (notes/assumptions/96.md). -/
def execPeerFenceFailed (hob : HobId) (peer : BitVec 13) (fence : Nat) (s : State) : Res :=
  let x := s.hob hob.val
  if x.rcp.peers.contains peer.toNat && fence = x.fenceLast + 1 then
    let (code, s1) := s.draw
    let (cell, s2) := s1.draw
    done (s2.replayAt hob.val (code % 256) (cell % 8192) none)
  else done s

/-- The fence of step f fails: at its place in line if it is closing, and at the end of the step if that still runs. -/
def State.failFence (s : State) (h f : Nat) (e : End) : State :=
  if (s.hob h).closing.any fun c => c.fence == f then
    (s.modHob h fun y => { y with closing := y.closing.map fun c => if c.fence = f && c.failed.isNone then { c with failed := some e } else c }).failHead h
  else s.breachAt h e

/-- A write of step f ended with SEND_TIMEOUT: the fence fails (R128). -/
def State.lostWrite (s : State) (h f xng : Nat) : State :=
  let cell := match (s.hob h).rcp.crossing xng with
    | some y => y.cell
    | none => 0
  s.failFence h f { status := stSendTimeout, detail := cell, info0 := xng }

/-- CLIENT_WRITE_ACK (R128 row 3, R251, R258): a client acknowledges a write it has taken; a port send may instead end with
SEND_TIMEOUT. -/
def execClientWriteAck (txn : Nat) (ok : Bool) (s : State) : Res :=
  match s.txn txn with
  | none => done s
  | some t =>
    if !t.write || !t.granted then done s
    else match t.kind with
      | .crossing h x _ =>
        if t.pool = .lanper then
          let s1 := s.dropTxn txn
          done (if !ok then (if t.discarded then s1 else s1.lostWrite h t.stamp x) else if t.served then s1 else s)
        else if t.served || t.breach then done (s.dropTxn txn)
        else done s
      | .forward _ => done (s.dropTxn txn)
      | _ => if t.served then done (s.dropTxn txn) else done s

/-! ### Host writes (R235, R241, R423) -/

/-- Whether the port of a hob can carry data. -/
def State.hostUp (s : State) (h : Nat) : Bool :=
  let p := s.host (s.hob h).grant.hport.toNat
  p.linkUp && !p.perst && !p.fenced && !p.resetting

/-- Forwarding stops at a block, and the hob stops with ADDRESS after the step in progress commits (R423). -/
def State.stopForward (s : State) (h xng block : Nat) : State :=
  let x := s.hob h
  let cell := match x.rcp.crossing xng with
    | some y => y.cell
    | none => 0
  let e : End := { status := stAddress, detail := cell, info0 := xng, info1 := block }
  s.modHob h fun y => { y with fwdBlocked := true, run := { y.run with
    stopAt := match y.run.stopAt with
      | some d => some (if d.status = stOk then e else d)
      | none => some e } }

/-- Whether the host of a hob has authenticated for it (R223, R241). -/
def State.hostAuth (s : State) (h : Nat) : Bool :=
  let p := (s.hob h).grant.hport.toNat
  s.authFor p 0 h || s.authFor p (h + 1) h

/-- STAGED_WRITE_FORWARD (R197, R235, R241): the oldest staged block of a committed step goes to the host buffer of its own RUN_STEPS; a
block beyond the buffer stops forwarding (R423). It is read from its stack, unless that controller is in reset (R200, R217). -/
def execStagedWriteForward (hob : HobId) (s : State) : Res :=
  let h := hob.val
  let x := s.hob h
  match x.staged with
  | [] => done s
  | w :: rest =>
    if x.fenceLast < w.fence || !s.hostUp h || !s.hostAuth h || x.fwdBlocked then done s
    else if 4096 * w.block + 4096 > w.bufLen then done (s.stopForward h w.xng w.block)
    else
      let k := relStack w.stgAddr
      let t : Txn := { kind := .forward h, write := true, client := x.grant.hport.toNat, pool := .host, addr := 4096 * w.block,
                       data := w.data, stamp := w.fence, region := w.xng, also := some k, staged := some w }
      if !s.poolFree t || 512 ≤ s.sharedUsed k || (s.stack k).resetting then done s
      else done ((((s.touchStack k).modHob h fun y => { y with staged := rest }).addTxn t).emit
        (.hostData x.grant.hport.toNat (w.buf + 4096 * w.block) w.data))

/-- An access of a host transaction fails (R423). A read will land poisoned and its step does not commit; a forwarded write goes back to
staging and forwarding stops. -/
def State.hostFault (s : State) (txn : Nat) : Res :=
  match s.txn txn with
  | none => done s
  | some t =>
    if t.pool != .host then done s
    else match t.kind with
      | .crossing h x _ =>
        let e : End := { status := stAddress, detail := t.cell, info0 := x, info1 := t.addr / 4096 }
        if t.breach then done s
        else done ((s.modTxn txn fun t => { t with breach := true }).failFence h t.stamp e)
      | .forward h =>
        let w : Staged := t.staged.getD { fence := t.stamp, xng := t.region, block := t.addr / 4096, data := t.data }
        done (((s.dropTxn txn).modHob h fun y => { y with staged := w :: y.staged }).stopForward h t.region (t.addr / 4096))
      | _ => done s

/-- STEP_TIMER_EXPIRY (R162): when unheld execution reaches 20 ms before every sequencer has halted, the fence is forced with
SCHED_VIOLATION and the step does not commit. -/
def execStepTimerExpiry (hob : HobId) (s : State) : Res :=
  let h := hob.val
  let x := s.hob h
  if !x.runs || !x.clk.live || !x.seqMode || !atStepLimit x.clk.unheld || (s.nums h).all (fun n => (s.cell (s.posOf h n)).allHalted) then done s
  else done (s.lateFence h)

end Sys2Proof.Machine
end

