-- ==== Sys2Proof/Machine/Message.lean ====
section
/-! DEFINITION. Messages, landing windows and broadcasts: MSG_HEADER_ARRIVAL to BROADCAST_RETRY (R166 to R187). -/

namespace Sys2Proof.Machine

open Sys2Proof

/-! ### Sending -/

/-- The descriptor that a send ACT builds (R169, R171). -/
def sendDesc (target win gen tag len slot off : Nat) (crc : W32) (cell : Nat) : List Byte :=
  leBytes 1 0 ++ leBytes 1 gen ++ leBytes 1 win ++ leBytes 1 0 ++ leBytes 2 target ++ leBytes 2 0 ++ leBytes 2 0 ++
  leBytes 2 tag ++ leBytes 4 len ++ leBytes 8 (2 ^ 62 + slot * 2 ^ 19 + off) ++ leBytes 4 crc.toNat ++ leBytes 2 cell ++
  leBytes 1 slot ++ leBytes 1 0 ++ zeroBytes 32

/-- The flits of a message: the header flit with the descriptor and the launch stamp, and its data as 128 B flits (R172). -/
def msgFlits (h target key stamp : Nat) (desc data : List Byte) (bad : List Bool) : List Flit :=
  let k := (data.length + 127) / 128
  ({ data := desc ++ leBytes 8 stamp ++ zeroBytes 56, src := .dynamic h target key true (k == 0) } : Flit) ::
  (List.range k).map fun i =>
    { data := bytesAt data (128 * i) 128, poison := bad.getD i false, src := .dynamic h target key false (i + 1 == k) }

/-- The device that a descriptor names, where it is remote (R169). -/
def msgRemote (d : List Byte) : Option Nat := if bit 15 (leAt d 6 2) then some (bits 12 0 (leAt d 6 2)) else none

/-- Launch a message, stamped with the device time: its header flit and its data enter the mesh on REQ behind it, from the sending
cell or from the rim (R171, R172). One to another device leaves by its route, as a request of the port's own pool (R250, R260). -/
def State.launch (s : State) (h : Nat) (origin : Origin) (target : Nat) (desc data : List Byte) (bad : List Bool) : State :=
  match msgRemote desc with
  | some dev =>
    let via := ((s.hearth.routes.get none dev).map BitVec.toNat).getD 0
    s.addTxn { kind := .message h origin (leAt desc 0xA 2), pool := .lanper, client := via, cell := dev, region := target, data := desc ++ data }
  | none =>
  let fs := msgFlits h target (origin.key (leAt desc 0xA 2)) s.now desc data bad
  let s1 := match origin with
    | .cell n _ =>
      let t := (s.hob h).rect.xy target
      s.inject h n (fs.map fun f => { vc := 1, tx := t.1, ty := t.2, flit := f })
    | _ => s.fromRim h target origin.client 1 fs
  s1.emit (.message h origin target s.now desc)

/-! ### Fields of a descriptor (R169) -/

def msgKind (d : List Byte) : Nat := leAt d 0 1 % 16
def msgWait (d : List Byte) : Bool := bit 5 (leAt d 0 1)
def msgMcast (d : List Byte) : Bool := bit 4 (leAt d 0 1)
def msgGen (d : List Byte) : Nat := leAt d 1 1
def msgWin (d : List Byte) : Nat := leAt d 2 1 % 32
def msgTag (d : List Byte) : Nat := leAt d 0xA 2
def msgLen (d : List Byte) : Nat := leAt d 0xC 4
def msgSrc (d : List Byte) : Nat := leAt d 0x10 8
def msgCrc (d : List Byte) : Nat := leAt d 0x18 4
def msgCell (d : List Byte) : Nat := leAt d 4 2 % 8192

/-- The hob-relative stack address of a message's source, where it is a stack (R171). -/
def msgStack (d : List Byte) : Option Nat := if msgSrc d / 2 ^ 62 = 2 then some (msgSrc d % 2 ^ 48) else none

/-- Whether every field of a descriptor keeps its rule (R169). -/
def msgFieldsOk (d : List Byte) : Bool :=
  let k := msgKind d
  let len := msgLen d
  let src := msgSrc d / 2 ^ 62
  let mw := leAt d 8 1
  let mh := leAt d 9 1
  leAt d 0 1 / 64 == 0 && k ≤ 1 && leAt d 2 1 / 32 == 0 && leAt d 3 1 == 0 && leAt d 4 2 / 2 ^ 13 == 0 &&
  bits 14 13 (leAt d 6 2) == 0 &&
  (if msgMcast d then decide (1 ≤ mw ∧ mw ≤ 64 ∧ 1 ≤ mh ∧ mh ≤ 64 ∧ mw * mh ≤ 64) else mw == 0 && mh == 0) &&
  (if k = 0 then decide (64 ≤ len ∧ len ≤ 65536 ∧ len % 64 = 0) && (src == 1 || src == 2) else len == 0 && src == 0) &&
  bits 61 48 (msgSrc d) == 0 && (k == 1 || msgSrc d % 64 == 0) && leAt d 0x1F 1 == 0

/-! ### Arrival -/

/-- The largest flight time of a message: 32 µs (R179). -/
def flightNs : Nat := 32 * usNs

/-- A window that answers a header with a status other than 0 counts it (R173). The section does not say what follows 2³² − 1:
DESIGN CHOICE, both counters saturate (notes/assumptions/82.md). -/
def Cell.refuse (c : Cell) (w : Nat) : Cell := c.modWin w fun x => { x with refused := satInc x.refused }

/-- Answer on RPL; a status 2 carries the window's state and generation (R178). -/
def State.answer (s : State) (h n p w : Nat) (m : Msg) (status : Nat) : State :=
  let x := (s.cell p).win w
  let s1 := if status = 0 then s else s.modCell p fun c => c.refuse w
  s1.reply h n m.origin (msgTag m.desc) status (if status = 2 then x.state.toNat else 0) (if status = 2 then x.gen.toNat else 0)

/-- Whether cell n of a hob belongs to a homeless station, be it another cell of the station that has no position (R297). -/
def State.homelessCell (s : State) (h n : Nat) : Bool :=
  (s.hob h).homeless.any fun e => e.n == n || (s.cell (s.posOf h n)).slots.any fun x => x.2.station == some e.station

/-- The checks of R178 for cell n in their order; none where the message is accepted. The length is held against the region that the
window names, whatever its state. -/
def State.headerStatus (s : State) (h n p : Nat) (m : Msg) : Option Nat :=
  let c := s.cell p
  let z := s.hob h
  let w := c.win (msgWin m.desc)
  let r := (c.slot w.slot.toNat).region w.region.toNat
  let homeless := s.homelessCell h n
  let want := if msgKind m.desc = 1 then 64 else msgLen m.desc
  let mapped := match msgStack m.desc with
    | some a => (z.devAddr a).isSome && (z.devAddr (a + msgLen m.desc - 1)).isSome
    | none => true
  if s.void h n || homeless then some 3
  else if !z.seqMode then some 3
  else if !msgFieldsOk m.desc || !mapped || want != 64 * r.grans then some 7
  else if w.state != 1 || w.gen.toNat != msgGen m.desc then some 2
  else if w.qgen != (c.slot w.slot.toNat).qgen then some 3
  else if c.moving then some 1
  else if r.isFull then some 1
  else none

/-- One more landed entry of a window (R173); it saturates (notes/assumptions/82.md). -/
def Cell.landed (c : Cell) (w : Nat) : Cell := c.modWin w fun x => { x with landed := satInc x.landed }

/-- The header flit of a message leaves the engine's queue. -/
def Cell.takeHeader (c : Cell) (m : Msg) : Cell := { c with engineIn := c.engineIn.eraseP fun f => bytesAt f.data 0 64 == m.desc }

/-- The flits of a message's data leave the engine's queue. -/
def Cell.takeData (c : Cell) (key : Nat) : Cell := { c with engineIn := c.engineIn.filter fun f => f.key != some key }

/-- A landing is over: its entry is filled, its window counts it unless it was abandoned, and the sender is answered (R178, R179). -/
def State.finishLanding (s : State) (h n p : Nat) (l : Landing) (status : Nat) : State :=
  let s1 := s.modCell p fun c =>
    let c1 := ((c.entryFilled l.slot l.region l.entry).landed l.win).takeData (l.origin.key l.tag)
    { c1 with landings := c1.landings.filter fun x => x.id != l.id,
              flags := if status = 5 then { c1.flags with fault := true } else c1.flags }
  s1.reply h n l.origin l.tag status 0 0

/-- Landings that have completed end in header order: one that completed first waits for the entries reserved before its own
(R179). -/
def State.settleLandings (s : State) (h n p : Nat) : State :=
  ((s.cell p).landings.foldl (fun (a : State × List (Nat × Nat)) l =>
    if a.2.contains (l.slot, l.region) then a
    else match l.ready with
      | some st => (a.1.finishLanding h n p l st, a.2)
      | none => (a.1, (l.slot, l.region) :: a.2)) (s, [])).1

/-- The hob and cell that a position's message engine serves: those of its work, else those of its logical router, whose station may
be homeless (R178, R297). -/
def State.engineOf (s : State) (p : Nat) : Option (Nat × Nat) :=
  match (s.cell p).hob with
  | some h => some (h, (s.cell p).n)
  | none => match s.routerAt p with
    | some (h, n) => if s.void h n || s.homelessCell h n then some (h, n) else none
    | none => none

/-- The hob tag in a packet header (R168): cells stamp it, and the rim stamps it for host and Lanper origins from the installer's
assignments; a tag of no assignment matches no cell. -/
def State.tagOk (s : State) (m : Msg) (h : Nat) : Bool :=
  let g := (s.hob m.hob).grant
  decide (m.hob = h) && (match m.origin with
    | .hostPort p => g.valid && g.hport.toNat == p
    | .lanper p => g.valid && g.lnp.getLsbD p
    | _ => true)

/-- A message from the rim still waits in delay buffers (R324). -/
def State.msgDelayed (s : State) (h n : Nat) (m : Msg) : Bool :=
  match m.origin with
  | .cell _ _ => false
  | o => let xy := (s.hob h).rect.xy n; s.delayed m.stamp (s.pathDelay h xy.1 xy.2 o.client)

/-- A message of a peer that ends without a reply gives back its place in the served pool (R250). -/
def State.unserve (s : State) (m : Msg) : State :=
  match m.origin with
  | .lanper p => s.modLnp p fun x => { x with served := x.served.filter fun e => e.1 != msgTag m.desc }
  | _ => s

/-! ### Sends that engines hold -/

/-- The send timeout of a hob, or the remote one (R180, R258). -/
def State.sendTimeoutNs (s : State) (h : Nat) (remote : Bool) : Nat :=
  if remote then s.hearth.rtmo.toNat * msNs else (s.hob h).msgTmo.toNat * usNs

/-- The sends of an engine, and their change. -/
def State.sendsOf (s : State) (h : Nat) (o : Origin) : List Send :=
  match o with
  | .cell n _ => (s.cell (s.posOf h n)).sends
  | _ => (s.hob h).mcast

def State.modSends (s : State) (h : Nat) (o : Origin) (f : List Send → List Send) : State :=
  match o with
  | .cell n _ => s.modCell (s.posOf h n) fun c => { c with sends := f c.sends }
  | _ => s.modHob h fun z => { z with mcast := f z.mcast }

/-- A send by its tag. -/
def State.sendOf (s : State) (h : Nat) (o : Origin) (tag : Nat) : Option Send := (s.sendsOf h o).find? fun q => q.tag == tag

def State.modSend (s : State) (h : Nat) (o : Origin) (tag : Nat) (f : Send → Send) : State :=
  s.modSends h o fun l => l.map fun q => if q.tag = tag then f q else q

def State.dropSend (s : State) (h : Nat) (o : Origin) (tag : Nat) : State := s.modSends h o fun l => l.filter fun q => q.tag != tag

/-- Targets of a multicast in row-major order (R183). -/
def castTargets (desc : List Byte) (width : Nat) : List Nat :=
  (List.range (leAt desc 9 1)).flatMap fun j => (List.range (leAt desc 8 1)).map fun i => msgCell desc + j * width + i

/-- The number that a rim origin's engine writes into `HOB_MSG_SCELL` (R169). -/
def Origin.scell : Origin → Nat
  | .cell n _ => n % 8192
  | .hostPort p => 2 ^ 15 + p % 4
  | .hearth => 2 ^ 15 + 4
  | .lanper _ => 2 ^ 15 + 5

/-- A descriptor with its sender as the sending engine writes it (R169). -/
def signDesc (o : Origin) (d : List Byte) : List Byte := d.take 0x1C ++ leBytes 2 o.scell ++ d.drop 0x1E

/-- The send that a rim origin's engine holds from its launch on (R166, R180, R183): one entry, with the targets of a multicast. -/
def rimSend (s : State) (h : Nat) (desc data : List Byte) (launched : Nat) (ref : Option CmdRef) : Send :=
  { tag := msgTag desc, desc := desc, launched := launched, first := launched, wait := msgWait desc, data := data, ref := ref,
    targets := if msgMcast desc then (castTargets desc (s.hob h).rect.w).map fun t => { cell := t } else [] }

/-- A host port or the hearth launches a message at its own time, which no command of the table marks: its engine holds the send from the
first header that arrives of it within the send timeout. DESIGN CHOICE (notes/assumptions/40.md). -/
def State.heldSend (s : State) (h : Nat) (m : Msg) : State :=
  let own := match m.origin with
    | .hostPort _ | .hearth => true
    | _ => false
  if own && (s.sendOf h m.origin (msgTag m.desc)).isNone && decide (s.now < m.stamp + s.sendTimeoutNs h false) then
    s.modSends h m.origin fun l => l ++ [rimSend s h m.desc [] m.stamp none]
  else s

/-- MSG_HEADER_ARRIVAL (R168, R178, R179): a header older than 32 µs, and one of another hob, is discarded without a reply;
the latter is counted. A NOTE lands with its header; a SEND reserves its entry and waits for its data. One whose source is a stack
draws a shared transaction of that stack, and waits in the router buffers while the pool is empty (R197, R198). The first header of a host
port's or the hearth's message shows that its engine holds the send (R166, R183). -/
def execMsgHeaderArrival (cell : Pos) (m : Msg) (s : State) : Res :=
  let p := cell.idx
  match s.engineOf p with
  | none => done s
  | some (h, n) =>
    let s0 := (s.heldSend h m).modCell p fun c => c.takeHeader m
    let key := m.origin.key (msgTag m.desc)
    let drop := fun (t : State) => t.modCell p fun c => c.takeData key
    let stack := (msgStack m.desc).map relStack
    if m.stamp + flightNs < s.now then done ((drop s0).unserve m)
    else if s.msgDelayed h n m then done s
    else if !s.tagOk m h then done (((drop s0).unserve m).modHob h fun z => { z with tagDrops := z.tagDrops + 1 })
    else
      let w := msgWin m.desc
      match s0.headerStatus h n p m with
      | some st => done ((drop s0).answer h n p w m st)
      | none =>
        if (match stack with
          | some k => !decide (s.sharedUsed k < 512)
          | none => false) then done s
        else
          let c := s0.cell p
          let x := c.win w
          let (e, c1) := c.reserve x.slot.toNat x.region.toNat
          let note := msgKind m.desc = 1
          let c2 := if note then c1.writeEntry x.slot.toNat x.region.toNat e m.desc (fun _ => false) fun _ => false else c1
          let l : Landing := { id := s0.hearth.txnGen, win := w, slot := x.slot.toNat, region := x.region.toNat, entry := e,
                               stamp := m.stamp, tag := msgTag m.desc, origin := m.origin, note := note, desc := m.desc, stack := stack,
                               ready := if note then some 0 else none }
          done ({ (s0.setCell p { c2 with landings := c2.landings ++ [l] }) with
                 hearth := { s0.hearth with txnGen := s0.hearth.txnGen + 1 } }.settleLandings h n p)

/-- The data of a landing with its poisoned granules: read and decrypted by the controller of the stack that holds it, or the flits
that have reached the engine, or what the rim sends (R171, R206). -/
def State.landingData (s : State) (h p : Nat) (l : Landing) (data : List Byte) : List Byte × List Nat × State :=
  let z := s.hob h
  let len := msgLen l.desc
  let st := fun (i src : Nat) (a : Nat) => ({ addr := a + 64 * i, source := src, stack := relStack a, cell := (s.cell p).n, fence := z.clk.fence } : EccLine)
  match msgStack l.desc with
  | some a =>
    (List.range (len / 64)).foldl (fun (t : List Byte × List Nat × State) i =>
      match z.devAddr (a + 64 * i) with
      | none => (t.1 ++ zeroBytes 64, t.2.1 ++ [i], t.2.2)
      | some dev =>
        let r := (t.2.2.touchStack (relStack a)).readLines z.key dev 1
        let s1 := r.2.2.2
        if r.1.isEmpty && r.2.1.isEmpty then (t.1 ++ r.2.2.1, t.2.1, s1)
        else
          let s2 := s1.modHob h fun y => { y with eccLines := y.eccLines ++ [st i (if r.1.isEmpty then 2 else 1) a] }
          (t.1 ++ r.2.2.1, t.2.1 ++ [i], if r.1.isEmpty then s2 else s2.stepFault h { status := stEccUe, detail := (s.cell p).n, info0 := 0xFFFFFFFF })) ([], [], s)
  | none =>
    let fs := (s.cell p).engineIn.filter fun f => f.key == some (l.origin.key l.tag)
    if len ≤ 128 * fs.length then
      ((fs.flatMap fun f => bytesAt f.data 0 128).take len, (List.range (len / 64)).filter fun i => (fs.getD (i / 2) {}).poison, s)
    else (data, [], s)

/-- MSG_LANDING_DONE (R178, R179): the last flit has come in time. Status 0, or 5 with the entry poisoned when the CRC-32C of the
data differs from the descriptor's, or when `crcOk` says that the transfer failed its check. Data that comes after 32 µs, or is not
all of `HOB_MSG_LEN`, ends nothing; nor does data of a stack whose controller is in reset (R200). -/
def execMsgLandingDone (cell : Pos) (landing : Nat) (data : List Byte) (crcOk : Bool) (s : State) : Res :=
  let p := cell.idx
  match s.engineOf p, (s.cell p).landings.find? fun l => l.id == landing with
  | some (h, n), some l =>
    let (bytes, bad, s1) := s.landingData h p l data
    let away := match l.stack with
      | some k => (s.stack k).resetting
      | none => false
    if l.ready.isSome || away || l.stamp + flightNs < s.now || bytes.length ≠ msgLen l.desc then done s
    else
      let good := crcOk && (crc32c bytes).toNat == msgCrc l.desc
      let s2 := s1.modCell p fun c =>
        let c1 := c.writeEntry l.slot l.region l.entry bytes (fun i => !good || bad.contains i) fun _ => false
        { c1 with landings := c1.landings.map fun x => if x.id = l.id then { x with ready := some (if good then 0 else 5) } else x }
      done (s2.settleLandings h n p)
  | _, _ => done s

/-- MSG_LANDING_TIMEOUT (R179): 32 µs after launch the rest of the entry is filled with poison and status 4 sent; flits that have
come stay. -/
def execMsgLandingTimeout (cell : Pos) (landing : Nat) (s : State) : Res :=
  let p := cell.idx
  match s.engineOf p, (s.cell p).landings.find? fun l => l.id == landing with
  | some (h, n), some l =>
    if l.ready.isSome || s.now < l.stamp + flightNs then done s
    else
      let fs := (s.cell p).engineIn.filter fun f => f.key == some (l.origin.key l.tag)
      let s2 := s.modCell p fun c =>
        let c1 := c.writeEntry l.slot l.region l.entry (fs.flatMap fun f => bytesAt f.data 0 128)
          (fun i => 2 * fs.length ≤ i || (fs.getD (i / 2) {}).poison) fun _ => false
        { c1 with landings := c1.landings.map fun x => if x.id = l.id then { x with ready := some 4 } else x }
      done (s2.settleLandings h n p)
  | _, _ => done s

/-! ### Ends of sends -/

/-- The bitmap of targets that are not reached (R183, R184). -/
def Send.missed (q : Send) : Nat := q.targets.zipIdx.foldl (fun n t => if t.1.done = some 0 then n else n + 2 ^ t.2) 0

/-- The status of a ring completion for a send's status (R178, R182, R233). -/
def sendStatus (status : Nat) : Nat :=
  match status with
  | 0 => stOk | 1 => stSendFull | 2 => stWinStale | 3 => stQueueGone | 4 => stSendTimeout | 5 => stBlockCheck | 6 => stMcastPartial
  | _ => stRejected

/-- A send completes. A sequencer goes on after status 0 and halts after a failure: wait code 7 for SEND_TIMEOUT and 6
otherwise, and its slot's queue generation advances (R161, R164, R174). A frozen sequencer does so once its hob runs again (R163). A
rim origin learns the status and the bitmap of targets not reached, a host in the completion of its ring command (R182, R184). -/
def State.endSend (s : State) (h : Nat) (o : Origin) (q : Send) (status : Nat) : State :=
  match o with
  | .cell n slot =>
    if (s.hob h).hold.frozen then s.modSend h o q.tag fun r => { r with held := some status, waiting := false }
    else
    let s1 := s.dropSend h o q.tag
    s1.modCell (s1.posOf h n) fun c =>
      if status = 0 then
        let x := c.slot slot
        let a := match c.seqWords[x.seq.pc.toNat]? with
          | some w => actOf w.toNat
          | none => {}
        let c1 := match a.in0 with
          | some i => c.modRegion slot i fun y => y.advHead
          | none => c
        c1.modSlot slot fun x => { x with seq := { x.seq with wait := 0, pc := x.seq.pc + 1 } }
      else c.modSlot slot fun x => { x with seq := { x.seq with wait := if status = 4 then 7 else 6 }, qgen := x.qgen + 1 }
  | _ =>
    let s0 := { s with txns := s.txns.filter fun t => t.kind != TxnKind.message h o q.tag }
    let s1 := (s0.dropSend h o q.tag).emit (.mgt "send" [h, q.tag, status, q.missed])
    match q.ref with
    | some ref => s1.complete ref 0 (sendStatus status) 0 0 q.missed
    | none => s1

/-- A message of a rim origin is sent: one launch, or one for each target of a multicast (R166, R183). -/
def State.sendFrom (s : State) (h : Nat) (o : Origin) (desc0 data : List Byte) (ref : Option CmdRef) : State :=
  let desc := signDesc o desc0
  let q : Send := { tag := msgTag desc, desc := desc, launched := s.now, first := s.now, wait := msgWait desc, data := data, ref := ref }
  let ts := castTargets desc (s.hob h).rect.w
  if msgMcast desc then
    (s.modSends h o fun l => l ++ [{ q with targets := ts.map fun t => { cell := t } }]).each ts fun s t => s.launch h o t desc data []
  else (s.modSends h o fun l => l ++ [q]).launch h o (msgCell desc) desc data []

/-- A multicast whose targets have all ended completes with 0 or MCAST_PARTIAL (R184). -/
def State.settleCast (s : State) (h : Nat) (o : Origin) (tag : Nat) : State :=
  match s.sendOf h o tag with
  | none => s
  | some q => if q.targets.all fun t => t.done.isSome then s.endSend h o q (if q.missed = 0 then 0 else 6) else s

/-- A multicast target's reply (R183): status 1 is relaunched at most 8 times, any other is final. -/
def McTarget.reply (t : McTarget) (status now : Nat) : McTarget :=
  if status = 1 && t.tries < 8 then { t with fullAt := some now } else { t with fullAt := none, done := some status }

/-- MSG_REPLY (R161, R180, R181, R183): a reply to a send no longer held is discarded. The registers of a frozen sequencer stay as they
are (R163). -/
def execMsgReply (hob : HobId) (origin : Origin) (tag : BitVec 16) (target : Nat) (status : Fin 8) (s : State) : Res :=
  let h := hob.val
  match s.sendOf h origin tag.toNat with
  | none => done s
  | some q =>
    if q.targets.isEmpty then
      let again := status.val == 1 && (q.wait || (match origin with
        | .cell _ _ => true
        | _ => false))
      if again then
        let s0 := { s with txns := s.txns.filter fun t => t.kind != TxnKind.message h origin tag.toNat }
        let s1 := s0.modSend h origin tag.toNat fun q => { q with waiting := true, repliedAt := s.now }
        done (match origin with
          | .cell n slot => if (s.hob h).hold.frozen then s1 else s1.modCell (s1.posOf h n) fun c => c.modSlot slot fun x => { x with seq := { x.seq with wait := 5 } }
          | _ => s1)
      else done (s.endSend h origin q status.val)
    else
      let s1 := s.modSend h origin tag.toNat fun q =>
        { q with targets := q.targets.map fun t => if t.cell = target && t.done.isNone then t.reply status.val s.now else t }
      done (s1.settleCast h origin tag.toNat)

/-- SEND_TIMEOUT (R180, R181, R183): counted from the launch; for a WAIT send from the first one. -/
def execSendTimeout (hob : HobId) (origin : Origin) (tag : BitVec 16) (s : State) : Res :=
  let h := hob.val
  match s.sendOf h origin tag.toNat with
  | none => done s
  | some q =>
    let waits := match origin with
      | .cell _ _ => q.waiting || q.held.isSome
      | _ => false
    if waits || s.now < (if q.wait then q.first else q.launched) + s.sendTimeoutNs h (bit 15 (leAt q.desc 6 2)) then done s
    else if q.targets.isEmpty then done (s.endSend h origin q 4)
    else
      let q1 := { q with targets := q.targets.map fun t => { t with done := some (t.done.getD 4) } }
      done (s.endSend h origin q1 6)

/-- MSG_WAIT_RELAUNCH (R181): 1 µs after status 1 a WAIT send goes again with its tag. -/
def execMsgWaitRelaunch (hob : HobId) (origin : Origin) (tag : BitVec 16) (s : State) : Res :=
  let h := hob.val
  match s.sendOf h origin tag.toNat with
  | none => done s
  | some q =>
    if !q.wait || !q.waiting || s.now < q.repliedAt + usNs then done s
    else
      let s1 := s.modSend h origin tag.toNat fun q => { q with waiting := false, launched := s.now }
      done (s1.launch h origin (msgCell q.desc) q.desc q.data q.poison)

/-- MCAST_RELAUNCH (R183): 2 µs after status 1 a target is relaunched, at most 8 times. -/
def execMcastRelaunch (hob : HobId) (origin : Origin) (tag : BitVec 16) (target : Nat) (s : State) : Res :=
  let h := hob.val
  match s.sendOf h origin tag.toNat with
  | none => done s
  | some q =>
    let due := q.targets.any fun t => t.cell == target && t.tries < 8 && (match t.fullAt with
      | some a => decide (a + 2 * usNs ≤ s.now)
      | none => false)
    if !due then done s
    else
      let s1 := s.modSend h origin tag.toNat fun q =>
        { q with targets := q.targets.map fun t => if t.cell = target then { t with fullAt := none, tries := t.tries + 1 } else t }
      done (s1.launch h origin target q.desc q.data q.poison)

/-! ### Windows (R175 to R177) -/

/-- Open a window: the queue generation is captured and both counters are cleared (R175). -/
def Cell.openWin (c : Cell) (w slot region : Nat) : Cell :=
  let q := (c.slot slot).qgen
  c.modWin w fun x => { x with state := 1, slot := BitVec.ofNat 2 slot, region := BitVec.ofNat 4 region, qgen := q,
                               landed := 0, refused := 0, reopen := none }

/-- The close edge of a window (R176). -/
def Win.close (x : Win) (now : Nat) : Win := { x with state := 2, gen := x.gen + 1, closedAt := now }

/-- The close edge that LOAD_RECIPE and HOB_RELEASE give every window: its generation is 0 once the quiesce interval that starts now is
over (R177). -/
def Win.endFor (x : Win) (now : Nat) : Win := { (if x.state = 1 then x.close now else x) with closedAt := now, ending := true, reopen := none }

/-- Whether a window of the hob still waits for the end of its quiesce interval (R177). -/
def State.windowsEnding (s : State) (h : Nat) : Bool := (s.nums h).any fun n => (s.cell (s.posOf h n)).wins.any fun w => w.2.ending

/-! ### Broadcasts (R185) -/

/-- Change a broadcast. -/
def State.modBcast (s : State) (id : Nat) (f : Broadcast → Broadcast) : State :=
  { s with broadcasts := s.broadcasts.map fun b => if b.id = id then f b else b }

/-- A broadcast ends when no target is left; the targets that ended lidded or fused off are logged. -/
def State.settleBcast (s : State) (id : Nat) : State :=
  match s.broadcasts.find? fun b => b.id == id with
  | none => s
  | some b =>
    if !b.targets.isEmpty then s
    else
      let s1 := { s with broadcasts := s.broadcasts.filter fun c => c.id != id }
      if b.ended.isEmpty then s1 else s1.logDev 0x0408 (b.hob.getD 0xFF) b.ended

/-- The position of a broadcast's target: the cell's own in a hob, a physical position at bring-up (R185). -/
def State.bcastPos (s : State) (b : Broadcast) (t : Nat) : Nat :=
  match b.hob with
  | some h => s.posOf h t
  | none => t

/-- A broadcast's flits leave the hearth link on MGT for its targets; those of an earlier try that have not entered the mesh go with them
(R29, R185). A position that serves no logical router under its rack's gap is reached by no packet (R16). -/
def State.sendBcast (s : State) (b : Broadcast) (targets : List Nat) : State :=
  let f : Flit := { src := .mgt b.id }
  let s1 := { s with rimIn := s.rimIn.filter fun e => e.2.2.2.flit != f }.emit (.mgt "broadcast" (b.id :: targets))
  match b.hob with
  | some h => s1.each targets fun s n => s.fromRim h n hearthClient 0 [f]
  | none =>
    { s1 with rimIn := s1.rimIn ++ targets.filterMap fun p => (s1.logicalAt p).map fun t =>
        let e := (stopFor t.1 t.2 hearthClient).leave t.1
        (hearthClient, e.1, e.2.1, ({ vc := 0, inp := e.2.2, tx := t.1, ty := t.2, flit := f } : DynFlit)) }

/-- Start a broadcast on MGT from the hearth (R185): to the cells of a hob, or to positions. -/
def State.startBcast (s : State) (h : Option Nat) (targets : List Nat) : State :=
  let b : Broadcast := { id := s.bcastSeq, hob := h, targets := targets, startedAt := s.now }
  { s with broadcasts := s.broadcasts ++ [b], bcastSeq := s.bcastSeq + 1 }.sendBcast b targets

/-- BROADCAST_ACK: the target has taken what was sent to it, and its acknowledgement has come on MGT (R185). -/
def execBroadcastAck (id : Nat) (target : Nat) (s : State) : Res :=
  match s.broadcasts.find? fun b => b.id == id with
  | none => done s
  | some b =>
    let s1 := s.modCell (s.bcastPos b target) fun c => { c with engineIn := c.engineIn.filter fun f => f.src != .mgt id }
    done ((s1.modBcast id fun b => { b with targets := b.targets.filter fun t => t != target }).settleBcast id)

/-- BROADCAST_RETRY: every 10 µs, without limit; a target that is LIDDED or FUSED_OFF drops out and is listed, but one under decant
is waited for (R185). -/
def execBroadcastRetry (id : Nat) (s : State) : Res :=
  match s.broadcasts.find? fun b => b.id == id with
  | none => done s
  | some b =>
    if s.now < b.startedAt + (b.tries + 1) * 10 * usNs then done s
    else
      let gone := fun t =>
        let p := s.bcastPos b t
        let st := (s.pos p).state
        (st == .lidded || st == .fusedOff) && !(b.hob.isSome && ((s.cell p).moving || (s.cell p).hob.isSome))
      let s1 := s.modBcast id fun b =>
        { b with targets := b.targets.filter fun t => !gone t, ended := b.ended ++ b.targets.filter gone, tries := b.tries + 1 }
      done ((s1.sendBcast b (b.targets.filter fun t => !gone t)).settleBcast id)

end Sys2Proof.Machine
end

