-- ==== Sys2Proof/Machine/Sequencer.lean ====
section
/-! DEFINITION. Sequencer mode: SEQ_ACT_FIRE to SEQ_SEND_RETRY (R54, R84, R153, R156 to R164, R171). A firing is one step of
the model: its parts have no cycle of their own (R163). -/

namespace Sys2Proof.Machine

open Sys2Proof

/-- The word at which a sequencer stands; none past its words. -/
def Cell.seqWord (c : Cell) (sl : Slot) : Option Nat :=
  let pc := sl.seq.pc.toNat
  if sl.seqStart ≤ pc && pc < sl.seqStart + sl.seqCount then (c.seqWords[pc]?).map BitVec.toNat else none

/-- The fetch of a sequencer word from the calendar store (R138, R157): a single-bit error is corrected and written back; the word
of an uncorrectable one does nothing, and the fault flag is set. -/
def Cell.seqFetch (c : Cell) (sl : Slot) : Bool × Cell :=
  let pc := sl.seq.pc.toNat
  let e := c.storeErr.get 0 pc
  if e ≥ 2 || c.storePoison.contains pc then (true, { c with flags := { c.flags with fault := true } }) else (false, { c with storeErr := c.storeErr.erase pc })

/-- Whether a cell's sequencer acts: its hob executes in sequencer mode and it has not halted (R157, R161, R162). -/
def State.seqReady (s : State) (p slot : Nat) : Option (Nat × Hob × Cell × Slot) :=
  let c := s.cell p
  match c.hob with
  | none => none
  | some h =>
    let z := s.hob h
    let x := c.slot slot
    if z.executing && z.seqMode && x.seqCount != 0 && !x.seq.halted && x.seq.wait.toNat < 6 then some (h, z, c, x) else none

/-- A sequencer stalls with a reason of R164. -/
def Cell.stall (c : Cell) (slot w : Nat) : Cell := c.modSlot slot fun x => { x with seq := { x.seq with wait := BitVec.ofNat 3 w } }

/-- A sequencer goes to a word. -/
def Cell.goto (c : Cell) (slot pc : Nat) : Cell :=
  c.modSlot slot fun x => { x with seq := { x.seq with wait := 0, pc := BitVec.ofNat 13 pc } }

/-- The granules of a region's head entry as a unit reads them (R49), and what the read found. -/
def Cell.headEntry (c : Cell) (x : Slot) (ri : Nat) : List GranRead :=
  let r := x.region ri
  (List.range r.grans).map fun i => c.readGran (x.entryGran r r.head.toNat i)

/-- A plain granule of a window; outside it the read gives poison and sets the window flag (R54). R158 gives an offset beyond 0 to
8,191 no meaning: DESIGN CHOICE, it is taken mod 8,192 before the window test (notes/assumptions/82.md). -/
def Cell.plainGran (c : Cell) (x : Slot) (off : Int) : Bool × GranRead :=
  let o := (off % 8192).toNat
  if o < x.winGrans then (true, c.readGran (x.winBase + o)) else (false, { gran := badGran })

/-- A region's head entry is filled (R159). -/
def Region.inputReady (r : Region) : Bool := r.valid && r.filledEntry r.head.toNat

/-- The griddle on one firing: the entry's bytes in rows of the format, from `arow` on, one accumulator row per MAC (R159); with GOP 0,
for which R159 names no MAC, the entry is consumed and nothing streams: DESIGN CHOICE (notes/assumptions/82.md). Partial sums of GOP 3 come from IN1, two granules a row. An entry that is not a whole number of rows (FP6) is open: DESIGN CHOICE,
whole rows are counted from its length alone and the rest stays in the stream queue (notes/assumptions/82.md). -/
def Units.seqGriddle (u : Units) (f : GridF) (in0 in1 : List Gran) : Units :=
  let rows := 64 * in0.length / rowBytes f.fmt f.sparse
  if f.gop = 0 then u
  else
    (List.range rows).foldl (fun u i => u.mac f 8 ((f.arow + i) % 32) [in1.getD (2 * i) badGran, in1.getD (2 * i + 1) badGran])
      (u.queue in0)

/-- The vector unit on one firing; its results are in their registers at once. -/
def Units.seqVector (u : Units) (f : VecF) (in0 : List Gran) : Units :=
  if f.vop = 1 then
    ({ u with vwrites := [{ reg := f.vd, off := 64 * f.vq, data := (in0.take 4).flatMap fun g => bytesAt g.data 0 64,
                            poison := in0.any Gran.bad }] } : Units).retire 0
  else if f.vop = 2 then u
  else ({ (u.vector f 0 []) with vstore := [] } : Units).retire 4

/-- Granules that a vector store fills its output with: quarters from VQ on. -/
def Units.seqStore (u : Units) (f : VecF) (n : Nat) : List Gran :=
  (List.range n).map fun i => { data := bytesAt (u.vbytes f.va) (64 * ((f.vq + i) % 4)) 64, poison := if u.vbad f.va then 0xF else 0 }

/-- Rows that fill an output of n granules, from `erow` on (R159), as granules; the generator advances row by row. -/
def Units.seqDrain (u : Units) (f : EpiF) (n : Nat) (sl : Slot) : List Gran × Slot :=
  let per := if sl.math.outfmt = 0 then 2 else 1
  (List.range (n / per)).foldl (fun (a : List Gran × Slot) i =>
    let d := ({ u with epi := [] } : Units).drain { f with erow := (f.erow + i) % 32 } 0 0 a.2
    let v := d.1.epi.headD {}
    (a.1 ++ (List.range per).map fun h => { data := bytesAt v.data (64 * h) 64, poison := if v.poison then 0xF else 0 }, d.2)) ([], sl)

/-- The steering unit on one firing: granule by granule, put, token and emit; none where a rule of R153 makes it stall. With neither an
input nor an output, a vector token or an emit happens once. -/
def Units.seqSteer (u : Units) (f : SteerF) (in0 in1 : List Gran) (n : Nat) : Option (List Gran × Units) :=
  (List.range n).foldl (fun (a : Option (List Gran × Units)) i => match a with
    | none => none
    | some (out, u) =>
      let as : List Arrival := [{ unit := 7, gran := in0.getD i badGran }, { unit := 7, gran := in1.getD i badGran }]
      let (bad, u') := u.steering f 0 as
      if bad then none
      else some (out ++ (u'.steerOut.map fun r => { data := r.data, poison := if r.poison then 0xF else 0 }), { u' with steerOut := [] })) (some ([], u))

/-- Loads of a firing, from the slot's window, done before its operation (R158, R159): stationary granules and scales for the
griddle, parameters for the epilogue. R141's n and u are not defined for an ACT word: DESIGN CHOICE, with LINC = 1 the load index moves on
by the word's earlier firings times `HOB_SQ_PCNT` (notes/assumptions/82.md). -/
def Cell.seqLoad (c : Cell) (x : Slot) (a : ActW) (fired : Nat) : Bool × List GranRead × Units :=
  let gs := (List.range a.pcnt).map fun (i : Nat) => c.plainGran x ((a.poff : Int) + a.pstr * fired + i)
  let rs := gs.map Prod.snd
  let vs := rs.map fun r => r.gran
  let u := match a.unit with
    | 0 => let f := gridOf a.uop
           if f.lop = 1 then c.units.load f fired a.pcnt vs [] else vs.foldl (fun u g => u.load f fired a.pcnt [] [g]) c.units
    | 2 => vs.foldl (fun u g => u.param (epiOf (a.uop % 2 ^ 20)).psel [g]) c.units
    | _ => c.units
  (gs.any fun g => !g.1, rs, u)

/-- The outcome of a firing: the units, the slot `x` that HOB_CW_ESLOT names and the output granules; none where steering stalls. -/
def Units.fire (u : Units) (a : ActW) (x : Slot) (in0 in1 : List Gran) (n : Nat) : Option (List Gran × Units × Slot) :=
  match a.unit with
  | 0 => some ([], u.seqGriddle (gridOf a.uop) in0 in1, x)
  | 1 => let f := vecOf a.uop
         let u1 := u.seqVector f in0
         some (if f.vop = 2 then u1.seqStore f n else [], u1, x)
  | 2 => let f := epiOf (a.uop % 2 ^ 20)
         let r := if f.een then u.seqDrain f n x else ([], x)
         some (r.1, u, r.2)
  | _ =>
    let f := steerOf (a.uop % 2 ^ 11)
    let m := max n in0.length
    match u.seqSteer f in0 in1 (if m = 0 && (f.stok == 1 || f.semit) then 1 else m) with
    | some r => some (r.1, r.2, x)
    | none => none

/-- The entries that a firing takes and produces move its pointers (R159). -/
def Cell.seqPointers (c : Cell) (slot : Nat) (a : ActW) : Cell :=
  let take := fun (c : Cell) (r : Option Nat) => match r with
    | some i => c.modRegion slot i fun y => y.advHead
    | none => c
  let c1 := take c a.in0
  let c2 := if a.in1 = a.in0 then c1 else take c1 a.in1
  match a.out with
  | some i => c2.modRegion slot i fun y => y.advTail
  | none => c2

/-- Why an ACT word cannot fire yet, as a wait code of R164: an input empty or an output full. -/
def Slot.blocked (x : Slot) (a : ActW) : Option Nat :=
  let open' := fun (r : Option Nat) => match r with
    | some i => (x.region i).inputReady
    | none => true
  if !open' a.in0 || !open' a.in1 then some 1
  else match a.out with
    | some i => if (x.region i).isFull then some 2 else none
    | none => none

/-- The unit's slot of an epilogue firing (R149); the sequencer's own for other units. -/
def ActW.eslot (a : ActW) (slot : Nat) : Nat := if a.unit = 2 then (epiOf (a.uop % 2 ^ 20)).eslot else slot

/-- One firing of a unit other than send; it is traced, and its output granules are counted (R269, R270). What it read comes with the
cell. Steering that emits with no valid OUT, or with an OUT entry shorter than IN0, is open: DESIGN CHOICE, granules go from window
granule 0 on, or past the end of the tail entry (notes/assumptions/82.md). -/
def Cell.fire (c : Cell) (slot : Nat) (a : ActW) : Cell × List GranRead :=
  let x := c.slot slot
  let fired := x.seqFired.get 0 x.seq.pc.toNat
  let (outside, rs, u) := c.seqLoad x a fired
  let entry := fun (r : Option Nat) => match r with
    | some i => c.headEntry x i
    | none => []
  let e0 := entry a.in0
  let e1 := entry a.in1
  let r := match a.out with
    | some i => x.region i
    | none => {}
  let n := if a.out.isSome then r.grans else 0
  match u.fire a (c.slot (a.eslot slot)) (e0.map fun g => g.gran) (e1.map fun g => g.gran) n with
  | none => (c.stall slot 4, [])
  | some (gs, u', x') =>
    let c1 := ({ c with units := u' }.modSlot (a.eslot slot) fun _ => x').modSlot slot fun y =>
      { y with seqFired := y.seqFired.put 0 x.seq.pc.toNat (fired + 1) }
    let c2 := gs.zipIdx.foldl (fun c g => c.writeGran (x.entryGran r r.tail.toNat g.2) g.1.data g.1.bad 15) c1
    let c3 := c2.seqPointers slot a
    let c4 := if outside then { c3 with flags := { c3.flags with bound := true } } else c3
    let cur := c.taste.cur
    let cur1 := if cur.recording then
        { cur with words := cur.words ++ [BitVec.ofNat 256 ((c.seqWord x).getD 0)], reads := cur.reads ++ (rs ++ e0 ++ e1).map (fun g => g.gran),
                   writes := cur.writes ++ gs }
      else cur
    let c5 := { c4 with taste := { (c.taste.count [(slot, gs.length)]) with cur := cur1 } }
    (c5.goto slot (x.seq.pc.toNat + 1), rs ++ e0 ++ e1)

/-- What the trace records of a send: its word, the granules read and its flits (R269). -/
def TraceHalf.recordSend (t : TraceHalf) (word : Nat) (rs : List GranRead) (fs : List Flit) : TraceHalf :=
  if !t.recording then t
  else { t with words := t.words ++ [BitVec.ofNat 256 word], reads := t.reads ++ rs.map (fun g => g.gran), flits := t.flits ++ fs }

/-- A send that has ended while the hob was held lets its sequencer go on, or halts it (R163). -/
def Cell.sendHeld (c : Cell) (slot : Nat) : Option Send := c.sends.find? fun q => leAt q.desc 0x1E 1 == slot && q.held.isSome

/-- A send ACT builds its message and launches it (R161, R171); it goes on when a reply of status 0 arrives. Its data is read under
the rules of R49 and R54. -/
def State.seqSend (s : State) (h p slot : Nat) (a : ActW) : State :=
  let c := s.cell p
  let x := c.slot slot
  let mine := c.sends.any fun q => leAt q.desc 0x1E 1 == slot
  match c.sendHeld slot with
  | some q => s.endSend h (.cell c.n slot) q (q.held.getD 0)
  | none =>
    if mine then s
    else if c.sends.length ≥ 16 then s.setCell p (c.stall slot 3)
    else
      let r := x.region (a.in0.getD 0)
      let len := if a.in0.isSome then 64 * r.grans else 0
      let g := x.entryGran r r.head.toNat 0
      let rs := if a.in0.isSome then c.headEntry x (a.in0.getD 0) else []
      let data := rs.flatMap fun i => bytesAt i.gran.data 0 64
      let bad := (List.range ((rs.length + 1) / 2)).map fun i => ((rs.drop (2 * i)).take 2).any fun i => i.gran.bad
      let tag := (4 * x.sendSeq + slot) % 65536
      let desc := sendDesc (bits 12 0 a.uop) (bits 17 13 a.uop) (bits 25 18 a.uop) tag len slot
        (64 * ((g + 8192 - x.winBase) % 8192)) (crc32c data) c.n
      let c1 := (c.modSlot slot fun x => { x with sendSeq := x.sendSeq + 1, seq := { x.seq with wait := 0 } })
      let c2 := { c1 with
        taste := c1.taste.count [(slot, len / 64)],
        sends := c1.sends ++ [({ tag := tag, desc := desc, launched := s.now, first := s.now, data := data, poison := bad } : Send)] }
      let c3 := { c2 with taste := { c2.taste with cur := TraceHalf.recordSend c2.taste.cur ((c.seqWord x).getD 0) rs (msgFlits h (bits 12 0 a.uop) 0 s.now desc data bad) } }
      ((s.setCell p c3).meter p rs).launch h (.cell c.n slot) (bits 12 0 a.uop) desc data bad

/-! ### Arbitration (R160) -/

/-- The banks that a firing reads or writes: its input entries, its output entry and its loads. Banks 0 and 1 have two ports each, of which
R160 does not say who takes which: DESIGN CHOICE, every bank is granted as one (notes/assumptions/82.md). -/
def Cell.actBanks (c : Cell) (slot : Nat) (a : ActW) : List Nat :=
  let x := c.slot slot
  let entry := fun (head : Bool) (r : Option Nat) => match r with
    | some i => let y := x.region i
                (List.range y.grans).map fun g => granBank (x.entryGran y (if head then y.head.toNat else y.tail.toNat) g)
    | none => []
  let fired := x.seqFired.get 0 x.seq.pc.toNat
  let loads := if a.unit = 0 || a.unit = 2 then
      (List.range a.pcnt).map fun (i : Nat) => granBank ((x.winBase + (((a.poff : Int) + a.pstr * fired + i) % 8192).toNat) % 8192) else []
  (entry true a.in0 ++ entry true a.in1 ++ entry false a.out ++ loads).dedup

/-- The ACT word at which a slot's sequencer could fire now; one that steering stalls wants nothing (R153, R160). -/
def Cell.wantsAct (c : Cell) (slot : Nat) : Option ActW :=
  let x := c.slot slot
  match c.seqWord x with
  | some w =>
    let a := actOf w
    let idle := x.seqCount == 0 || x.seq.halted || decide (6 ≤ x.seq.wait.toNat) || (c.sends.any fun q => leAt q.desc 0x1E 1 == slot)
    let stuck := a.unit == 3 && ((c.fire slot a).1.slot slot).seq.wait == 4
    if sqKind w = 0 && !idle && !stuck && (x.blocked a).isNone then some a else none
  | none => none

/-- Two firings want one unit or one bank. -/
def Cell.contend (c : Cell) (s1 : Nat) (a : ActW) (s2 : Nat) (b : ActW) : Bool :=
  a.unit == b.unit || (c.actBanks s1 a).any (c.actBanks s2 b).contains

/-- How long a slot waits for its turn: 0 for the slot after the one granted last (R160). -/
def Cell.turn (c : Cell) (slot : Nat) : Nat := (slot + 3 - c.seqLast % 4) % 4

/-- Whether a slot's firing is granted in hob cycle `cyc`: nothing granted in the cycle holds its unit or a bank of it, and no other
sequencer that wants one of them is before it in turn (R160). -/
def Cell.grants (c : Cell) (cyc slot : Nat) (a : ActW) : Bool :=
  let fresh := c.seqCyc != cyc + 1
  let taken := !fresh && (c.seqUnits.contains a.unit || (c.actBanks slot a).any c.seqBanks.contains)
  let earlier := [0, 1, 2, 3].any fun k => k != slot && decide (c.turn k < c.turn slot) && (match c.wantsAct k with
    | some b => c.contend slot a k b && (fresh || !(c.seqUnits.contains b.unit || (c.actBanks k b).any c.seqBanks.contains))
    | none => false)
  !taken && !earlier

/-- The grant is recorded. -/
def Cell.grant (c : Cell) (cyc slot : Nat) (a : ActW) (banks : List Nat) : Cell :=
  let fresh := c.seqCyc != cyc + 1
  { c with seqLast := slot, seqCyc := cyc + 1, seqUnits := a.unit :: (if fresh then [] else c.seqUnits),
           seqBanks := banks ++ (if fresh then [] else c.seqBanks),
           seqBusy := banks.foldl (fun (t : Tab Nat) b => t.upd 0 b (· + 1)) c.seqBusy }

/-- SEQ_ACT_FIRE (R159, R160): one firing, or a stall at the word with its reason. -/
def execSeqActFire (cell : Pos) (slot : SlotId) (s : State) : Res :=
  let p := cell.idx
  match s.seqReady p slot.val with
  | none => done s
  | some (h, z, c0, x) =>
    match c0.seqWord x with
    | none => done s
    | some w =>
      let a := actOf w
      let (lost, c) := c0.seqFetch x
      if sqKind w ≠ 0 then done s
      else if lost then done (s.setCell p c)
      else match x.blocked a with
        | some code => done (s.setCell p (c.stall slot.val code))
        | none =>
          if (c.sendHeld slot.val).isNone && !c.grants z.clk.cyc slot.val a then done (s.setCell p (c.stall slot.val 3))
          else
            let banks := c.actBanks slot.val a
            if a.unit = 4 then done ((s.setCell p (c.grant z.clk.cyc slot.val a banks)).seqSend h p slot.val a)
            else
              let (c1, rs) := c.fire slot.val a
              done ((s.setCell p (if rs.isEmpty && c1.slot slot.val == c.slot slot.val then c1 else c1.grant z.clk.cyc slot.val a banks)).meter p rs)

/-- SEQ_CTR (R158): the named counter is set. -/
def execSeqCtr (cell : Pos) (slot : SlotId) (s : State) : Res :=
  let p := cell.idx
  match s.seqReady p slot.val with
  | none => done s
  | some (_, _, c0, x) =>
    match c0.seqWord x with
    | none => done s
    | some w =>
      let (lost, c) := c0.seqFetch x
      if sqKind w ≠ 1 then done s
      else if lost then done (s.setCell p c)
      else
        let c1 := c.modSlot slot.val fun x => { x with seqCtr := x.seqCtr.put 0 (sqCtr w) (BitVec.ofNat 16 (sqN w)) }
        done (s.setCell p (c1.goto slot.val (x.seq.pc.toNat + 1)))

/-- SEQ_JUMP (R158): the counter is decremented; the jump is taken while the result is not zero. -/
def execSeqJump (cell : Pos) (slot : SlotId) (s : State) : Res :=
  let p := cell.idx
  match s.seqReady p slot.val with
  | none => done s
  | some (_, _, c0, x) =>
    match c0.seqWord x with
    | none => done s
    | some w =>
      let (lost, c) := c0.seqFetch x
      if sqKind w ≠ 2 then done s
      else if lost then done (s.setCell p c)
      else
        let v := x.seqCtr.get 0 (sqCtr w) - 1
        let c1 := c.modSlot slot.val fun x => { x with seqCtr := x.seqCtr.put 0 (sqCtr w) v }
        done (s.setCell p (c1.goto slot.val (if v = 0 then x.seq.pc.toNat + 1 else sqTgt w)))

/-- SEQ_HALT (R162): the sequencer is at its HALT word for the step; one that has run past its words is at HALT too. -/
def execSeqHalt (cell : Pos) (slot : SlotId) (s : State) : Res :=
  let p := cell.idx
  match s.seqReady p slot.val with
  | none => done s
  | some (_, _, c0, x) =>
    let halt := match c0.seqWord x with
      | some w => sqKind w == 3
      | none => true
    let (lost, c) := if (c0.seqWord x).isSome then c0.seqFetch x else (false, c0)
    if halt && lost then done (s.setCell p c)
    else if halt then done (s.setCell p (c.modSlot slot.val fun x => { x with seq := { x.seq with halted := true, wait := 0 } }))
    else done s

/-- SEQ_SEND_RETRY (R161): 1 µs after SEND_FULL the same message is sent again. -/
def execSeqSendRetry (cell : Pos) (slot : SlotId) (s : State) : Res :=
  let p := cell.idx
  match s.seqReady p slot.val with
  | none => done s
  | some (h, _, c, _) =>
    match c.sends.find? fun q => leAt q.desc 0x1E 1 == slot.val && q.waiting && q.repliedAt + usNs ≤ s.now with
    | none => done s
    | some q =>
      let c1 := { c with sends := c.sends.map fun (r : Send) => if r.tag = q.tag then { r with waiting := false, launched := s.now } else r }
      done ((s.setCell p (c1.stall slot.val 0)).launch h (.cell c.n slot.val) (msgCell q.desc) q.desc q.data q.poison)

end Sys2Proof.Machine
end

