-- ==== Sys2Proof/Machine/Stack.lean ====
section
/-! DEFINITION. Stack controllers: STACK_READ_REQUEST to ZEROISE_DONE (R188 to R218). -/

namespace Sys2Proof.Machine

open Sys2Proof

/-- The hob extent that a device address lies in, as a hob and a hob-relative address. -/
def State.extOwner (s : State) (dev : Nat) : Option (Nat × Nat) :=
  (hobNums.filterMap fun h => ((s.hob h).ext.find? fun e =>
    e.2.valid && e.1 / 352 == bits 40 37 dev && e.2.dev.toNat == bits 36 28 dev).map fun e =>
      (h, (e.1 / 352) * 2 ^ 37 + (e.1 % 352) * 2 ^ 28 + bits 27 0 dev)).head?

/-- The hob-relative stack address of a transaction: host writes go to staging (R235). -/
def State.txnTarget (s : State) (t : Txn) : Nat :=
  match t.kind with
  | .crossing h x _ =>
    let z := s.hob h
    match z.rcp.crossing x with
    | some c => if c.kind = 5 then (match t.staged with
        | some w => w.stgAddr
        | none => z.run.stagingOf (t.addr / 4096)) else t.addr
    | none => t.addr
  | _ => t.addr

/-- Whether a transaction is a stack controller's. -/
def Txn.stackKind (t : Txn) : Bool := t.pool == .reserved || t.pool == .shared || t.pool == .device

/-- The edge stop that a crossing's request uses (R33). -/
def State.stopOfTxn (s : State) (t : Txn) : Option Stop :=
  match t.kind with
  | .crossing h x _ => ((s.hob h).rcp.crossing x).map (s.hob h).stopOf
  | _ => none

/-- An earlier write to the same 4 KiB block through the same edge stop that has not been served: an access is ordered behind it
(R116). -/
def State.behindWrite (s : State) (t : Txn) : Bool :=
  (s.txns.takeWhile fun u => u.id != t.id).any fun u =>
    u.write && !u.served && u.stackKind && u.hob == t.hob && s.txnTarget u / 4096 == s.txnTarget t / 4096 && (s.stopOfTxn u).isSome &&
    s.stopOfTxn u == s.stopOfTxn t

/-- Whether the queue toward the reader's edge stop has room for the whole block (R199). -/
def State.roomFor (s : State) (t : Txn) : Bool :=
  match s.stopOfTxn t with
  | some e => roomForBlock (s.inQueued e)
  | none => true

/-- Errors strike a line of one stack (R202). -/
def State.strikeIn (s : State) (stack dev symbols : Nat) : State :=
  if bits 40 37 dev = stack && devAddrOk dev then s.strike dev symbols else s

/-- Places of a stack's device pool in use (R197): transactions that hold one, and repair copies under way. -/
def State.deviceUsed (s : State) (stack : Nat) : Nat :=
  s.granted (fun u => u.pool == .device && u.client == stack) + (s.stack stack).pcCopy.length

/-- Whether the device pool of a stack has n places free (R197). -/
def State.deviceRoom (s : State) (stack n : Nat) : Bool := decide (s.deviceUsed stack + n ≤ 256)

/-- STACK_READ_REQUEST (R195, R202, R206): the controller serves a read, `badLines` naming errors that have struck lines from the block's
first one on; those beyond the block wait for the access that meets them. It is
ordered behind an earlier write of the block through the same stop (R116), and starts when the block has room (R199). Lines that go
bad at this read stop the step with ECC_UE; lines stored poisoned before are kept for the report of their consumption (R268, R273,
R281). -/
def execStackReadRequest (txn : Nat) (badLines : List (Nat × Nat)) (s : State) : Res :=
  match s.txn txn with
  | none => done s
  | some t =>
    let a := s.txnTarget t
    let h := t.hob
    let z := s.hob h
    let st := relStack a
    if t.write || !t.granted || t.served || t.breach || !t.stackKind || (s.stack st).resetting || s.behindWrite t || !s.roomFor t || s.txnDelayed t 1 then done s
    else match z.devAddr a with
      | none => done s
      | some dev =>
        let s0 := badLines.foldl (fun (s : State) b => s.strikeIn st (s.redirect (dev + 64 * b.1)) b.2) s
        let (ue, stored, data, s2) := (s0.touchStack st).readLines z.key dev 64
        let s3 := s2.modTxn txn fun u => { u with served := true, data := data, poison := ue ++ stored, stored := stored }
        let x := match t.kind with
          | .crossing _ x _ => x
          | _ => 0xFFFFFFFF
        let rep := fun (src : Nat) (i : Nat) => ({ addr := a + 64 * i, source := src, stack := st, cell := t.cell, xng := x, fence := t.stamp } : EccLine)
        let s4 := s3.modHob h fun y => { y with eccLines := y.eccLines ++ ue.map (rep 1) ++ stored.map (rep 2) }
        done (if ue.isEmpty then s4 else match t.kind with
          | .crossing _ x _ => s4.stepFault h { status := stEccUe, detail := t.cell, info0 := x }
          | _ => s4)

/-! ### Writes and capture (R205, R209 to R212) -/

/-- Shadow pages that a hob holds on a stack. -/
def State.shadowsOf (s : State) (h stack : Nat) : Nat := (s.rdrs.filter fun e => e.2.hob == h && e.1 / 2 ^ 21 == stack).length

/-- Whether another hob's capture is armed on a stack: that hob holds extents there (R212). -/
def State.otherArmed (s : State) (h stack : Nat) : Bool :=
  hobNums.any fun g => g != h && (s.hob g).cow.armed && (s.hob g).ext.any fun e => e.2.valid && e.1 / 352 == stack

/-- A shadow page taken from a stack's pool of 16,384 (R190, R210), unless R212 makes the write wait. -/
def State.takeShadow (s : State) (h stack : Nat) : Option (Nat × State) :=
  let k := s.stack stack
  if s.otherArmed h stack && s.shadowsOf h stack ≥ 2048 then none
  else match k.shadowFree with
    | n :: rest => some (n, s.setStack stack { k with shadowFree := rest })
    | [] => if k.shadowUsed < 16384 then some (k.shadowUsed, s.setStack stack { k with shadowUsed := k.shadowUsed + 1 }) else none

/-- Where a write of one block goes: the original page, or during capture a shadow page with its mask bit set (R210). -/
def State.writeTarget (s : State) (h dev : Nat) (late : Bool) : Option (Nat × State) :=
  let z := s.hob h
  let key := pageKey dev
  if !z.cow.armed || !late || z.cow.drained.contains key then
    some (if z.cow.armed && !late then dev else s.redirect dev, s)
  else
    let stack := bits 40 37 dev
    let put := fun (s : State) (r : Rdr) =>
      (shadowAddr stack r.shadow + bits 15 0 dev,
       s.setRdrs (Tab.ins (s.rdrs.erase key) key { r with bmask := r.bmask ||| (1 <<< bits 15 12 dev) }))
    match s.rdrs.find? fun e => e.1 == key with
    | some (_, r) => some (put s r)
    | none => match s.takeShadow h stack with
      | some (n, s1) => some (put s1 { hob := h, shadow := n, seq := BitVec.ofNat 32 ((z.jarRun.map fun j => j.jar.seq).getD 0) })
      | none => none

/-- Store one block of at most 4 KiB for a hob: none while R212 withholds it. -/
def State.storeBlock (s : State) (h a : Nat) (data : List Byte) (bad : Nat → Bool) (late : Bool) : Option State :=
  match (s.hob h).devAddr a with
  | none => some s
  | some dev => (s.writeTarget h dev late).map fun t => t.2.putLines (s.hob h).key t.1 data bad

/-- A write that finds no shadow page (R212): it is counted once, its page is drained next, and the hob holds under cause 2 until
then. -/
def State.awaitShadow (s : State) (t : Txn) (page : Nat) : State :=
  if t.waited then s
  else
    let s1 := s.modTxn t.id fun u => { u with waited := true }
    let w : Wait := { xng := (match t.kind with
      | .crossing _ x _ => x
      | _ => 0xFFFF), cause := 2, txn := some t.id }
    s1.modHob t.hob fun y =>
      let y1 := { y with
        cow := { y.cow with waits := y.cow.waits + 1, next := if y.cow.next.contains page then y.cow.next else y.cow.next ++ [page] }
        hold := { y.hold with waits := y.hold.waits ++ [w] } }
      if y1.runs && y1.clk.live then (y1.freeze s.now 2 w.xng).addCause s.now 2 else y1

/-- A controller reports BLOCK_CHECK_FAIL against a write (R205). -/
def State.blockCheckFail (s : State) (h n f xng : Nat) : State := (s.faultOf h n f).emit (.mgt "BLOCK_CHECK_FAIL" [h, n, xng])

/-- STACK_WRITE_REQUEST (R205, R209, R210, R212, R235): the controller checks the block's CRC-32C, encrypts and stores it. A
mismatch stores every line poisoned and reports BLOCK_CHECK_FAIL against the write; data that wires of the mesh have changed unseen is one
(R266). -/
def execStackWriteRequest (txn : Nat) (crcOk : Bool) (s : State) : Res :=
  match s.txn txn with
  | none => done s
  | some t =>
    let a := s.txnTarget t
    let h := t.hob
    let z := s.hob h
    let st := relStack a
    if !t.write || !t.granted || t.served || !t.stackKind || t.data.isEmpty || (s.stack st).resetting || s.behindWrite t || s.txnDelayed t 1 then done s
    else if t.breach then done (s.modTxn txn fun u => { u with served := true })
    else
      let late := match t.kind with
        | .crossing _ _ _ => decide (z.cow.fence < t.stamp)
        | _ => true
      let crcOk := crcOk && !t.crcBad
      match (s.touchStack st).storeBlock h a t.data (fun i => !crcOk || t.poison.contains i) late with
      | none => done (s.awaitShadow t (pageKey ((z.devAddr a).getD 0)))
      | some s1 =>
        let s2 := (s1.modTxn txn fun u => { u with served := true }).settleWaits h
        match t.kind with
        | .crossing _ x _ =>
          let s3 := if !t.discarded && (z.rcp.crossing x).any fun c => c.kind == 5 then
              let w : Staged := { t.staged.getD {} with fence := t.stamp, xng := x, block := t.addr / 4096, data := t.data }
              s2.modHob h fun y => { y with staged := (y.staged.filter fun v => v.fence != w.fence || v.xng != w.xng || v.block != w.block) ++ [w] }
            else s2
          done (if crcOk || t.discarded then s3 else s3.blockCheckFail h t.cell t.stamp x)
        | _ => done s2

/-! ### Refresh, repair and scrub (R196, R203 to R205) -/

/-- REFRESH (R196): the timetable goes on; a stack in self-refresh or off keeps none. -/
def execRefresh (stack : StackId) (pc : Fin 34) (s : State) : Res :=
  let k := s.stack stack.val
  if (k.pwr = .on || k.pwr = .powerDown) && !k.resetting then done (s.setStack stack.val { k with refreshed := pc.val }) else done s

/-- STACK_ROW_REPAIR (R203): a due row is copied to a spare row of its bank; with none left the fault counts towards sparing
the pseudo-channel (R204). -/
def execStackRowRepair (stack : StackId) (row : Nat) (s : State) : Res :=
  let k := s.stack stack.val
  let seen := k.rowDue.get 0 row
  if seen = 0 || k.resetting || k.pwr = .off || !s.deviceRoom stack.val 1 then done s
  else
    let bank := Config.stackBank row
    let used := k.rowUsed.get 0 bank
    let k1 := { k with rowDue := k.rowDue.erase row }
    done (s.setStack stack.val (if used < Config.spareRows then
        { k1 with rowMap := k1.rowMap.put 0 row (used + 1), rowUsed := k1.rowUsed.put 0 bank (used + 1), rowrep := satInc k1.rowrep, rowCe := k1.rowCe.erase row }
      else { k1 with pcDue := mark k1.pcDue (pcOf (64 * (seen - 1))) true }))

/-- Hobs that hold an extent on a stack stop at their next fence (R204). -/
def State.stopOnStack (s : State) (stack : Nat) : State :=
  s.each hobNums fun s h =>
    let z := s.hob h
    if z.ext.any fun e => e.2.valid && e.1 / 352 == stack then
      s.modHob h fun y => { y with run := { y.run with stopAt := some (y.run.stopAt.getD { status := stEccUe }) } }
    else s

/-- PC_SPARE_DONE (R204): the spare that the copy went to takes over. -/
def execPcSpareDone (stack : StackId) (pc : Fin 32) (s : State) : Res :=
  let k := s.stack stack.val
  if !k.pcCopy.contains pc.val || k.resetting then done s
  else done (s.setStack stack.val { k with pcCopy := mark k.pcCopy pc.val false, pcMap := k.pcMap.put 0 pc.val (k.pcTo.get 0 pc.val),
                                           pcTo := k.pcTo.erase pc.val,
                                           pcUe := k.pcUe.erase pc.val })

/-- PATROL_SCRUB (R205, R266, R281): an uncorrectable line of a hob is reported and from then on reads as poisoned; the hob
goes on. `line` counts 64 B lines of the stack; the rim refuses one with no memory behind it and reports its address to the hearth
(R189). -/
def execPatrolScrub (stack : StackId) (line : Nat) (badSymbols : Nat) (s : State) : Res :=
  let k := s.stack stack.val
  let dev := stack.val * 2 ^ 37 + 64 * line
  if k.resetting || !(k.pwr = .on || k.pwr = .powerDown) || !s.deviceRoom stack.val 1 then done s
  else if 64 * line ≥ 2 ^ 37 || !devAddrOk dev then done (s.refuseAddr dev)
  else
    let (r, s1) := ((s.strike dev badSymbols).touchStack stack.val).readLine dev
    let s2 := s1.modStack stack.val fun k => { k with scrubAt := line }
    done (if r ≠ 1 then s2 else match s2.extOwner dev with
      | some (h, a) => s2.eccReport h [{ addr := a, source := 3, stack := stack.val }]
      | none => s2)

/-- STACK_POWER_DOWN (R217): after 1 µs without traffic. -/
def execStackPowerDown (stack : StackId) (s : State) : Res :=
  let k := s.stack stack.val
  if k.pwr = .on && k.lastTraffic + usNs ≤ s.now then done (s.setStack stack.val { k with pwr := .powerDown }) else done s

/-! ### Capture and zeroing (R208, R209, R211) -/

/-- CAPTURE_ARM (R209): at the first hob cycle of the step after the jar's fence; a hob that runs no further step arms once
the fence has committed. Draining starts at commit. -/
def execCaptureArm (hob : HobId) (s : State) : Res :=
  let h := hob.val
  let z := s.hob h
  match z.jarRun with
  | none => done s
  | some j =>
    let first := z.clk.live && z.clk.inStep == 0 && z.clk.fence == j.fence + 1
    let idle := !z.clk.live && z.fenceLast == j.fence
    if z.cow.armed || !j.planned || !(first || idle) then done s
    else
      let c : Cow := { z.cow with armed := true, draining := decide (j.fence ≤ z.fenceLast), folding := false, fence := j.fence, drained := [], drained6 := [] }
      done (s.setHob h { z with cow := c, jarRun := some { j with started := true, startedAt := s.lifeMs } })

/-- Line i of a shadow is read and put in its original place, with the key it has (R202, R216). -/
def State.foldLine (s : State) (from_ base i : Nat) : State :=
  let (bad, s) := s.readLine (from_ + 64 * i)
  let l := s.lines.get {} (from_ / 64 + i)
  s.putLine l.key (base + 64 * i) ((List.range 64).map fun j => Tab.get 0 s.mem (from_ + 64 * i + j)) (l.poison || bad != 0)

/-- The masked blocks of a shadow page copied onto its original, and the entry cleared (R211, R215). What is unreadable in the shadow
arrives poisoned (R202, R204). -/
def State.fold (s : State) (key : Nat) : State :=
  match s.rdrs.find? fun e => e.1 == key with
  | none => s
  | some (_, r) =>
    let stack := key / 2 ^ 21
    let base := stack * 2 ^ 37 + (key % 2 ^ 21) * 65536
    let from_ := shadowAddr stack r.shadow
    let s1 := s.each ((List.range 1024).filter fun i => bit (i / 64) r.bmask.toNat) fun s i => s.foldLine from_ base i
    ((s1.touchStack stack).setRdrs (s1.rdrs.erase key)).modStack stack fun k => { k with shadowFree := r.shadow :: k.shadowFree }

/-- The hob-relative address of a page of a hob, by its key. -/
def State.pageRel (s : State) (h key : Nat) : Option Nat :=
  match s.extOwner ((key / 2 ^ 21) * 2 ^ 37 + (key % 2 ^ 21) * 65536) with
  | some (g, a) => if g = h then some a else none
  | none => none

/-- ZEROISE_DONE (R208): zeros over every extent that the hob held; the extents return to the free pool. While a controller that it needs is
in reset, the zeroing is not done (R200). -/
def execZeroiseDone (hob : HobId) (s : State) : Res :=
  let z := s.hob hob.val
  if z.zeroing.any fun e => (s.stack (e / 352)).resetting then done s
  else
  let s1 := s.each z.zeroing fun s e => (s.touchStack (e / 352)).zeroRange ((e / 352) * 2 ^ 37 + (e % 352) * 2 ^ 28) (2 ^ 28)
  done (s1.modHob hob.val fun y => { y with zeroing := [] })

end Sys2Proof.Machine
end

