-- ==== Sys2Proof/Machine/Ring.lean ====
section
/-! DEFINITION. Host ports, functions and rings: DOORBELL_POLL to CQ_INTERRUPT_TIMER, HP_AUTH_MAC to FLR, and how a ring
command starts (R219 to R231, R240, R241, R340, R396). -/

namespace Sys2Proof.Machine

open Sys2Proof

/-! ### What a function may do -/

/-- Whether a port carries requests. -/
def HostPort.carries (p : HostPort) : Bool := p.linkUp && !p.perst && p.ready && !p.fenced && !p.resetting

/-- Whether the hob of a VF is assigned to the port (R220); the PF always answers. -/
def State.assigned (s : State) (p f : Nat) : Bool :=
  f = 0 || ((s.hob (f - 1)).grant.valid && (s.hob (f - 1)).grant.hport.toNat == p)

/-- EMBER and OUT_OF_SERVICE (R340). -/
def State.down (s : State) : Bool := s.st == .ember || s.st == .outOfService

/-- SERVICE and DEGRADED. -/
def State.inService (s : State) : Bool := s.st == .service || s.st == .degraded

/-- A function takes register writes: its port carries requests, the module is up, and a VF's hob is assigned (R220, R340). -/
def State.barOpen (s : State) (p f : Nat) : Bool :=
  (s.host p).carries && s.st != .off && s.assigned p f && !(s.down && f != 0)

/-- The hob that a function acts for when it authenticates (R223). `HP_AUTH_HOB` names hob 0 to 7; what a value above 7 names the spec
does not say: DESIGN CHOICE, its low three bits (notes/assumptions/82.md). -/
def State.claimed (s : State) (p f : Nat) : Nat :=
  if f = 0 then ((s.host p).fnSt 0).authHob.toNat % 8 else f - 1

/-- HP_AUTH_MAC (R223): a MAC under the credential of a hob that the port owns (R243) authenticates the function; the third failure
locks it out for 1 s. The nonce is replaced after each write, also during a lockout (R221). -/
def execHpAuthMac (port : HPort) (fn : FnId) (mac : BitVec 256) (s : State) : Res :=
  let p := port.val
  let f := fn.val
  let x := (s.host p).fnSt f
  if !s.barOpen p f then done s
  else
    let h := s.claimed p f
    let cred := (s.hob h).cred
    let ok := cred != 0 && (s.hob h).assignedTo p && mac == Config.hmacSha256 cred x.nonce p f
    let (n, s1) := s.draw
    done (s1.modFn p f fun x =>
      let y := { x with nonce := BitVec.ofNat 64 n }
      if s.now < x.lockedUntil then y
      else if ok then { y with authOk := true, fails := 0, authHobs := if y.authHobs.contains h then y.authHobs else y.authHobs ++ [h] }
      else if x.fails + 1 ≥ 3 then { y with fails := 0, lockedUntil := s.now + secNs }
      else { y with fails := x.fails + 1 })

/-- AUTH_LOCKOUT_END (R223). -/
def execAuthLockoutEnd (port : HPort) (fn : FnId) (s : State) : Res :=
  let x := (s.host port.val).fnSt fn.val
  if x.lockedUntil ≠ 0 && x.lockedUntil ≤ s.now then done (s.modFn port.val fn.val fun x => { x with lockedUntil := 0 })
  else done s

/-! ### Rings -/

/-- On the PF only ring 0 exists (R221). -/
def ringExists (f r : Nat) : Bool := f != 0 || r == 0

/-- A ring error: an event under R231, the enable cleared, the code kept (R224). -/
def State.ringError (s : State) (p f r code : Nat) : State :=
  (s.eventOrLose p f 0 stOk code 0 0).modRing p f r fun x => ({ x with en := false, err := BitVec.ofNat 3 code } : Ring).settle

/-- HOST_ACCESS_FAULT (R224, R423): UR, CA or an IOMMU fault of a host transaction, or of a completion write, which is ring error 3. -/
def execHostAccessFault (what : HostAccess) (s : State) : Res :=
  match what with
  | .txn t => s.hostFault t
  | .completion p f r => if (s.ring p.val f.val r.val).on then done (s.ringError p.val f.val r.val 3) else done s

/-- RING_ENABLE (R224, R227, R396): refused unless the function is authenticated and the size is 2⁶ to 2¹⁶; a misaligned
address is ring error 4. Whether `HP_RING_ERR` keeps an earlier error R224 does not say: DESIGN CHOICE, a ring that is enabled again
clears it (notes/assumptions/82.md). A VF ring starts when the device is in SERVICE or DEGRADED. -/
def execRingEnable (port : HPort) (fn : FnId) (ring : RingId) (s : State) : Res :=
  let p := port.val
  let f := fn.val
  let r := ring.val
  let y := (s.host p).fnSt f
  let x := y.ring r
  if !s.barOpen p f || !ringExists f r || x.en || !y.authOk || x.log2.toNat < 6 || 16 < x.log2.toNat then done s
  else if x.sqBase.toNat % 4096 ≠ 0 || x.cqBase.toNat % 4096 ≠ 0 || x.dbAddr.toNat % 64 ≠ 0 then done (s.ringError p f r 4)
  else
    let on := f = 0 || s.inService
    done (s.modRing p f r fun x => { x with en := true, on := x.on || on, err := 0, interval := 1000, activeUntil := s.now + 100 * usNs, pollAt := s.now })

/-- RING_DISABLE (R224): fetching stops at once; the ring stops when its fetched commands have completed. -/
def execRingDisable (port : HPort) (fn : FnId) (ring : RingId) (s : State) : Res :=
  let p := port.val
  let f := fn.val
  let r := ring.val
  if !s.barOpen p f || !(s.ring p f r).en then done s
  else done (s.modRing p f r fun x => ({ x with en := false } : Ring).settle)

/-- Whether a ring is active now (R227). -/
def Ring.active (x : Ring) (now : Nat) : Bool := x.hot || decide (now < x.activeUntil) || x.inFlight != 0

/-- Transactions of a port in flight that carry ring traffic: doorbell reads and entry fetches; at most 64 (R228). Records, events and
interrupts are posted writes, which leave as they are written. -/
def State.ringTraffic (s : State) (p : Nat) : Nat :=
  (s.host p).fns.foldl (fun n f => f.2.rings.foldl (fun n r => n + (if r.2.reading then 1 else 0) + r.2.fetching) n) 0

/-- DOORBELL_POLL (R227, R228): at the end of its interval a running ring's doorbell line is read, once the port has a transaction for
it. -/
def execDoorbellPoll (port : HPort) (fn : FnId) (ring : RingId) (s : State) : Res :=
  let p := port.val
  let f := fn.val
  let r := ring.val
  let x := s.ring p f r
  if !(s.host p).carries || !x.on || !x.en || s.now < x.pollAt || 64 ≤ s.ringTraffic p then done s
  else
    let gap := if x.active s.now then 500 else x.interval
    done ((s.modRing p f r fun x => { x with pollAt := s.now + gap, reading := true }).emit (.doorbellRead p f r x.dbAddr))

/-- The next interval of an idle ring: 1, 2, 4, 8, 16 and 32 µs, then 50 µs (R227). -/
def nextInterval (i : Nat) : Nat := if i < 32000 then 2 * i else 50000

/-- Entries that may be fetched: below the producer index, at most 256 in flight, with a completion slot each (R226, R228, R231). -/
def Ring.room (x : Ring) (r : Nat) : Nat := min ((x.pi - x.ci).toNat) (min (256 - x.inFlight) (x.slotsLeft r))

/-- Reads of the entries that may be fetched now (R226, R228). Clearing the enable stops fetching (R224). -/
def State.fetch (s : State) (p f r : Nat) : State :=
  let x := s.ring p f r
  if !x.on || !x.en then s
  else
    let n := min (x.room r) (64 - s.ringTraffic p)
    let s1 := s.modRing p f r fun x => { x with ci := x.ci + BitVec.ofNat 32 n, fetching := x.fetching + n }
    s1.each (List.range n) fun s i => s.emit (.entryRead p f r (x.ci + BitVec.ofNat 32 i))

/-- DOORBELL_LINE_RETURN (R225 to R228): new indexes, records that waited for a slot, and the reads of the entries that may be
fetched. A new producer index makes the ring active, so its next poll is at most 0.5 µs away. -/
def execDoorbellLineReturn (port : HPort) (fn : FnId) (ring : RingId) (pi cqCi : W32) (ok : Bool) (s : State) : Res :=
  let p := port.val
  let f := fn.val
  let r := ring.val
  let s0 := s.modRing p f r fun x => { x with reading := false }
  let x := s0.ring p f r
  if !x.on || !x.en then done s0
  else if !ok then done (s0.ringError p f r 1)
  else if (pi - x.ci).toNat > x.size then done (s0.ringError p f r 5)
  else
    let fresh := pi != x.pi
    let s1 := s0.modRing p f r fun x => { x with
      pi := pi, cqCi := cqCi, events := x.events.filter fun e => decide ((BitVec.ofNat 32 e - cqCi).toNat < 2 ^ 31),
      activeUntil := if fresh then s.now + 100 * usNs else x.activeUntil,
      pollAt := if fresh then min x.pollAt (s.now + 500) else x.pollAt,
      interval := if fresh || x.active s.now then 1000 else nextInterval x.interval }
    done ((s1.postOwed p f r).fetch p f r)

/-! ### Entries (R229, R232) -/

/-- Which argument bytes a command uses: first and last + 1 of each run; none for an opcode or subcode that is not listed. -/
def usedBytes (op sub : Nat) : Option (List (Nat × Nat)) :=
  match op, sub with
  | 1, _ => some [(8, 0x18)]
  | 2, _ => some [(8, 0xD), (0x10, 0x30)]
  | 3, 0 => some [(8, 0x10)]
  | 3, 1 => some []
  | 4, _ => some [(8, 0x29)]
  | 5, _ => some [(8, 0xC)]
  | 6, _ => some [(8, 0xB)]
  | 7, _ => some [(8, 0x10)]
  | 8, _ => some [(8, 9), (0xA, 0xC), (0x10, 0x18)]
  | 9, 6 => some [(8, 0x20)]
  | 9, k => if k ≤ 7 then some [(8, 0x18)] else none
  | 10, 0 => some [(8, 0xC)]
  | 10, 1 => some [(8, 9), (0xC, 0x10)]
  | 10, 2 => some [(8, 0xC)]
  | 10, 3 => some [(8, 9)]
  | 10, 4 => some [(8, 9)]
  | 10, 5 => some [(8, 0xC)]
  | 11, _ => some []
  | _, _ => none

/-- Whether the bits that no field of a command uses are 0 within its used bytes. -/
def spareBitsOk (e : List Byte) : Bool :=
  match leAt e 0 1 with
  | 2 => leAt e 0xC 1 < 2
  | 4 => leAt e 0x28 1 < 16
  | 5 => leAt e 8 2 < 8192 && leAt e 0xA 1 < 32 && leAt e 0xB 1 < 64
  | 6 => leAt e 8 2 < 8192 && leAt e 0xA 1 < 32
  | 8 => leAt e 8 1 < 2
  | _ => true

/-- Whether an entry is well formed: known opcode, flag bits [7:2] 0, unused bytes and bits 0. -/
def entryOk (e : List Byte) : Bool :=
  match usedBytes (leAt e 0 1) (leAt e 2 2) with
  | none => false
  | some l => leAt e 1 1 < 4 && spareBitsOk e && (List.range 56).all fun i =>
      l.any (fun b => decide (b.1 ≤ i + 8 ∧ i + 8 < b.2)) || e.getD (i + 8) 0 == 0

/-- SQE_ARRIVAL (R226, R228, R229, R232): a fetched entry waits for its start in ring order; a malformed one completes REJECTED with
detail 0, and a failed read is ring error 2. The transaction is free for a further fetch. -/
def execSqeArrival (port : HPort) (fn : FnId) (ring : RingId) (entry : List Byte) (ok : Bool) (s : State) : Res :=
  let p := port.val
  let f := fn.val
  let r := ring.val
  let x := s.ring p f r
  if !x.on || x.fetching = 0 then done s
  else
    let s1 := s.modRing p f r fun x => ({ x with fetching := x.fetching - 1 } : Ring)
    if !ok then done (s1.ringError p f r 2)
    else
      let tag : W32 := BitVec.ofNat 32 (leAt entry 4 4)
      let e : Sqe := { op := leAt entry 0 1, sub := leAt entry 2 2, flags := leAt entry 1 1, tag := tag, args := entry }
      let s2 := if entryOk entry then s1.modRing p f r fun x => { x with sqes := x.sqes ++ [e] }
        else (s1.record p f r tag stRejected e.op 0 0 0 (bit 1 e.flags)).modRing p f r Ring.settle
      done (s2.fetch p f r)

/-- CQ_INTERRUPT_TIMER (R224). -/
def execCqInterruptTimer (port : HPort) (fn : FnId) (ring : RingId) (s : State) : Res :=
  let p := port.val
  let f := fn.val
  let r := ring.val
  let x := s.ring p f r
  if x.unsignalled = 0 || s.now < x.oldest + x.time.toNat * usNs then done s
  else done ((s.modRing p f r fun x => { x with unsignalled := 0 }).interruptMsg p f x.vec.toNat)

/-! ### Starting a command -/

/-- Commands that act as if BARRIER were set and wait for the hob's other rings (R229). -/
def actsAsBarrier (op : Nat) : Bool := op == 1 || op == 7 || op == 8 || op == 10 || op == 11

/-- Commands that R242 lets a HOB_RELEASE meet under way, and that it therefore does not wait for (R229; notes/assumptions/87.md). -/
def releaseMeets (op : Nat) : Bool := op == 4 || op == 6 || op == 7

/-- Whether the command at place i of a ring may start: all earlier ones have started, and for a barrier have completed. -/
def Ring.mayStart (x : Ring) (i : Nat) : Bool :=
  match x.sqes[i]? with
  | none => false
  | some e => (x.sqes.take i).all (fun e => e.started) &&
      (!(bit 0 e.flags || actsAsBarrier e.op) || (x.sqes.take i).all fun d => e.op == 11 && !bit 0 e.flags && releaseMeets d.op)

/-- Whether no other ring of the hob's VF has a command running (R229). -/
def State.othersIdle (s : State) (p f r op : Nat) : Bool :=
  [0, 1, 2, 3].all fun q => q == r || (s.ring p f q).sqes.all fun e => !e.started || (op == 11 && releaseMeets e.op)

/-- Whether the device state admits a command: before SERVICE only QUERY 0, 3 and 4; in EMBER and OUT_OF_SERVICE only QUERY
and jar-source COPY (R240, R340, R396). -/
def State.deviceAdmits (s : State) (op sub : Nat) (e : Sqe) : Bool :=
  if s.inService then true
  else if s.down then op == 9 || (op == 4 && bits 1 0 (leAt e.args 0x28 1) == 2)
  else op == 9 && (sub == 0 || sub == 3 || sub == 4)

/-- A refused privileged O action is logged too (R10, R370). -/
def State.logRefused (s : State) (hob op sub result : Nat) : State :=
  if op = 10 then s.logAdd { role := 1, path := 3, code := BitVec.ofNat 16 (0x300 + sub), result := result, hob := hob } else s

/-- A ring command starts: its entry is on the ring with these arguments and its turn has come. An unauthenticated function
is answered AUTH and a device state that does not admit it, or a hob that is being released, STATE; otherwise the body runs. -/
def State.command (s : State) (ref : CmdRef) (hob op sub : Nat) (args : List Byte → Bool) (body : State → State) : State :=
  let p := ref.port.val
  let f := ref.fn.val
  let r := ref.ring.val
  let x := s.ring p f r
  match x.sqes.findIdx? fun e => e.tag == ref.tag && !e.started && e.op == op && (sub == 0xFFFF || e.sub == sub) &&
      ref.noirq == bit 1 e.flags && args e.args with
  | none => s
  | some i =>
    if !x.on || !x.mayStart i || (actsAsBarrier op && !s.othersIdle p (if f = 0 then hob + 1 else f) (if f = 0 then 4 else r) op) then s
    else
      let e := (x.sqes[i]?).getD {}
      let s1 := s.modRing p f r fun x => { x with sqes := x.sqes.modify i fun d => { d with started := true } }
      if !s.authFor p f hob then (s1.logRefused hob op e.sub 1).complete ref op stAuth 0 0 0
      else if !s.deviceAdmits op e.sub e || ((s.hob hob).releasing.isSome && op != 9) then (s1.logRefused hob op e.sub 4).complete ref op stState 0 0 0
      else body s1

/-! ### Deep idle and host loss -/

/-- Leaving deep idle (R367): stacks leave self-refresh and the taster goes on; parked ports relight when they are needed. -/
def State.leaveIdle (s : State) : State :=
  if !s.cfgs.idlIn then { s with cfgs := { s.cfgs with idleSince := s.now } }
  else
    let s1 := { s with
      cfgs := { s.cfgs with idlIn := false, idleSince := s.now, tstPaused := false, woke := hobNums } }
    s1.each stackNums fun s k => if (s.stack k).pwr = .selfRefresh && !(s.stack k).resetting then s.modStack k fun x => { x with pwr := .on, lastTraffic := s.now } else s

/-- The commands of a hob that are in progress from a PF's ring, with their opcodes. -/
def State.pfRefs (s : State) (h : Nat) : List (CmdRef × Nat) :=
  let z := s.hob h
  let wins := (s.nums h).flatMap fun n => (s.cell (s.posOf h n)).wins.flatMap fun w =>
    w.2.closers.map (fun r => (r, 6)) ++ (w.2.reopen.map fun x => (x.2.2, 5)).toList
  let all := z.run.refs.map (fun q => (q.ref, 2)) ++ z.run.fenceStops.map (fun r => (r, 3)) ++ z.fenceWaits.map (fun w => (w.1, 3)) ++
    z.copies.map (fun c => (c.ref, 4)) ++ wins ++ ((z.jarRun.bind fun j => j.ref).map fun r => (r, 7)).toList ++
    (z.restore.map fun r => (r.ref, 8)).toList ++ (z.loading.map fun r => (r, 1)).toList ++ ((z.releasing.bind id).map fun r => (r, 11)).toList
  all.filter fun r => r.1.fn.val == 0

/-- With a VF's host lost, the hob's commands from its PF's rings, which go on, complete with ABORTED (R241). -/
def State.abortPf (s : State) (h : Nat) : State := s.each (s.pfRefs h) fun s r => s.complete r.1 r.2 stAborted 0 0 0

/-- The hob's host is lost (R241): its commands end, host reads not yet landed land poisoned and their step does not commit,
any other step commits, and the hob stops at the fence. A restore that had begun leaves the hob torn (R360). -/
def State.loseHost (s : State) (h : Nat) : State :=
  let x := s.hob h
  let reads := fun (t : Txn) => t.crossingOf h && t.pool == .host && !t.write
  let aborted : End := { status := stAborted }
  let s1 := if s.txns.any reads then
      { s with txns := s.txns.map fun t => if reads t then { t with breach := true, granted := true } else t }.breachAt h aborted
    else s
  let s2 := if x.loading.isSome then { s1 with broadcasts := s1.broadcasts.filter fun b => b.hob != some h } else s1
  let s3 := s2.modCells h fun c => { c with wins := c.wins.map fun w => (w.1, { w.2 with closers := [], reopen := none }) }
  s3.modHob h fun y =>
    { y with
      torn := y.torn || y.restore.isSome, restore := none, releasing := y.releasing.map fun _ => none,
      mcast := y.mcast.map fun q => { q with ref := none },
      run := { y.run with refs := [], fenceStops := [], stopAt := if x.runs then some (y.run.stopAt.getD aborted) else y.run.stopAt },
      fenceWaits := [], copies := [], loading := none, jarRun := y.jarRun.map fun j => { j with ref := none } }

/-- A function after a reset of its own: registers at their reset values, a fresh nonce (R221, R223). -/
def State.resetFn (s : State) (p f : Nat) : State :=
  let (n, s1) := s.draw
  s1.modHost p fun x => { x with fns := x.fns.put {} f { nonce := BitVec.ofNat 64 n } }

/-- Hobs assigned to a port. -/
def State.hobsOn (s : State) (p : Nat) : List Nat := hobNums.filter fun h => (s.hob h).grant.valid && (s.hob h).grant.hport.toNat == p

/-- Host loss of a whole port (R241): every hob on it, every function's authentication and rings. -/
def State.losePort (s : State) (p : Nat) : State :=
  (s.each (s.hobsOn p) State.loseHost).each [0, 1, 2, 3, 4, 5, 6, 7, 8] fun s f => s.resetFn p f

/-- HOST_LOSS (R241): surprise-down and link disable take the link down; a hot reset does not. -/
def execHostLoss (port : HPort) (linkDown : Bool) (s : State) : Res :=
  let p := port.val
  if !(s.host p).linkUp then done s
  else done ((s.losePort p).modHost p fun x => { x with linkUp := !linkDown })

/-- FLR (R223, R241). -/
def execFlr (port : HPort) (fn : FnId) (s : State) : Res :=
  let p := port.val
  let f := fn.val
  if !(s.host p).linkUp then done s
  else
    let s1 := if f ≠ 0 && s.assigned p f then (s.abortPf (f - 1)).loseHost (f - 1) else s
    done (s1.resetFn p f)

end Sys2Proof.Machine
end

