-- ==== Sys2Proof/Machine/HostCmd.lean ====
section
/-! DEFINITION. Ring commands that run steps, move data and shape a hob: RUN_STEPS, FENCE, COPY, WINDOW_OPEN, WINDOW_CLOSE,
HOB_CONFIG subcodes 0 to 4 and HOB_RELEASE (R63, R133, R175 to R177, R206, R208, R232 to R242, R350, R351). -/

namespace Sys2Proof.Machine

open Sys2Proof

/-! ### Reach of a hob -/

/-- Whether every extent of a run of hob-relative bytes is mapped (R192). -/
def Hob.mapped (h : Hob) (a len : Nat) : Bool :=
  a + len ≤ 2 ^ 41 && (len == 0 || (List.range ((a + len - 1) / 2 ^ 28 + 1 - a / 2 ^ 28)).all fun i =>
    (h.devAddr (max a ((a / 2 ^ 28 + i) * 2 ^ 28))).isSome)

/-- Bytes of a run, in 64 B lines, before the first unmapped one. -/
def Hob.mappedLen (h : Hob) (a len : Nat) : Nat :=
  (List.range (len / 2 ^ 28 + 2)).foldl (fun n i =>
    let at_ := max a ((a / 2 ^ 28 + i) * 2 ^ 28)
    if at_ = a + n && n < len && (h.devAddr at_).isSome then min len ((a / 2 ^ 28 + i + 1) * 2 ^ 28 - a) else n) 0

/-- Lanes per fibre of a Lanper port that is UP (R254). -/
def Lnp.lanes (p : Lnp) : Nat := if p.st = .upFull || p.st = .upReduced then p.width.toNat else 0

/-- The first hob port that falls short of its class (R133), where `dark` says what a port that is not lit counts as; one that is parked or
relights comes UP at its stored width, and so counts as short where that is too small. -/
def State.portBelow (s : State) (h : Nat) (dark : Bool) : Option Nat :=
  let z := s.hob h
  (List.range 16).find? fun j =>
    let c := z.rcp.portcls.getD j 0
    c != 0 && (match z.lnpOf j with
      | some p =>
        let x := s.lnp p
        if x.parked || x.relighting then dark || decide (x.width.toNat < c) else if x.fallback then dark else decide (x.lanes < c)
      | none => true)

/-- The first port that keeps a hob in LOADING: one that is not UP with its lanes (R133). -/
def State.portShort (s : State) (h : Nat) : Option Nat := s.portBelow h true

/-- The first port that has fallen below its class; a parked port is not short, for what needs it relights it first (R259, R367). -/
def State.portFell (s : State) (h : Nat) : Option Nat := s.portBelow h false

/-! ### RUN_STEPS and FENCE (R232, R235, R240) -/

/-- The entry of a RUN_STEPS with these arguments. -/
def runArgs (count : Nat) (each : Bool) (buf bufLen stg stgLen : Nat) (e : List Byte) : Bool :=
  leAt e 8 4 == count && bit 0 (leAt e 0xC 1) == each && leAt e 0x10 8 == buf && leAt e 0x18 8 == bufLen &&
  leAt e 0x20 8 == stg && leAt e 0x28 8 == stgLen

/-- A stopped hob starts its next step, held with cause 8 while something it needs is not ready (R63, R259); the pipelines, regions and pages are those of the step's first cycle. -/
def State.startRun (s : State) (h : Nat) (c : RunCmd) (buf bufLen stg stgLen : Nat) : State :=
  let s1 := s.leaveIdle.modHob h fun y => { y with
    fwdBlocked := false,
    run := { stepsLeft := c.count - 1, buf := buf, bufLen := bufLen, stg := stg, stgLen := stgLen, refs := [c] } }
  let s2 := ((s1.rewind h true).setHobSt h .running).avlStop 3 h
  let s3 := s2.each (s2.classPorts h) State.relight
  if s3.waitsFor8 h then s3.holdFor h 8 else s3

/-- FENCE subcode 0: complete when fence f has committed, or with STATE when it cannot. -/
def execFenceWait (ref : CmdRef) (hob : HobId) (fence : Nat) (s : State) : Res :=
  let h := hob.val
  done (s.command ref h 3 0 (fun e => leAt e 8 8 == fence) fun s =>
    let x := s.hob h
    if x.st = .free then s.complete ref 3 stState 0 0 0
    else if fence ≤ x.fenceLast then s.complete ref 3 stOk 0 0 x.fenceLast
    else if x.st = .running || x.st = .held then s.modHob h fun y => { y with fenceWaits := y.fenceWaits ++ [(ref, fence)] }
    else s.complete ref 3 stState 0 0 x.fenceLast)

/-- FENCE subcode 1: a hob that runs or is held stops at its next fence, after commit. -/
def execFenceStop (ref : CmdRef) (hob : HobId) (s : State) : Res :=
  let h := hob.val
  done (s.command ref h 3 1 (fun _ => true) fun s =>
    let x := s.hob h
    if x.st = .free then s.complete ref 3 stState 0 0 0
    else if x.st = .running || x.st = .held then
      s.modHob h fun y => { y with run := { y.run with
        stopAt := some (y.run.stopAt.getD {}), fenceStops := y.run.fenceStops ++ [ref] } }
    else s.complete ref 3 stOk 0 0 x.fenceLast)

/-! ### COPY (R232, R236, R350 to R352) -/

/-- 64 KiB data pages of a jar. -/
def Jar.pages (j : Jar) : Nat := 4096 * ((stackNums.map fun k => (j.ext.get 0 k).toNat).foldl (· + ·) 0)

/-- Offsets of the four sections behind the header in 4 KiB units, and the jar's size (R350). -/
def Jar.layout (j : Jar) : List Nat × Nat :=
  let up := fun n => (n + 4095) / 4096
  let gens := up (32 * j.shapeW * j.shapeH)
  let tags := up (16 * j.pages)
  let bad := (j.poison.map fun l => l / 1024).dedup.length
  let pois := up (132 * bad)
  ([1, 1 + gens, 1 + gens + tags, 1 + gens + tags + pois], 4096 * (1 + gens + tags + pois) + 65536 * j.pages)

/-- The header fields that are in clear, offsets 0x000 to 0x097 (R351). -/
def Jar.header (j : Jar) : List Byte :=
  leBytes 4 0x4A415246 ++ leBytes 2 1 ++ leBytes 2 ((if j.poison.isEmpty then 0 else 1) + (if j.seqMode then 2 else 0)) ++
  leBytes 8 j.seq ++ leBytes 8 j.fence ++ leBytes 2 j.lead ++ leBytes 2 j.devid ++ leBytes 2 j.members ++ leBytes 1 j.hob ++
  leBytes 1 0 ++ leBytes 2 j.shapeW ++ leBytes 2 j.shapeH ++ (stackNums.flatMap fun k => leBytes 2 (j.ext.get 0 k).toNat) ++
  leBytes 4 j.next ++ leBytes 48 j.digest.toNat ++ leBytes 16 Config.serial.toNat ++ leBytes 8 j.bytes ++
  j.layout.1.flatMap (leBytes 4)

/-- A byte of a jar as it stands on NAND: the header in clear, zeros, and sealed bytes (R351, R352). -/
def Jar.byteAt (j : Jar) (off : Nat) : Byte :=
  if off < 0x98 then j.header.getD off 0
  else if (0xF0 ≤ off && off < 0x100) || (0x160 ≤ off && off < 0x1000) then 0
  else Config.jarByte j.seq j.fence j.digest.toNat off

/-- A slot is valid when its header was programmed (R353). -/
def Hob.jarValid (h : Hob) (slot : Nat) : Bool := (h.jars.get {} slot).sealed

/-- The slot and offset that a jar source names: the slot stands in bits [63:56] (notes/assumptions/41.md). -/
def jarSrc (src : Nat) : Nat × Nat := (src / 2 ^ 56, src % 2 ^ 56)

/-- The entry of a COPY with these arguments. -/
def copyArgs (src dst len after srcKind dstKind : Nat) (e : List Byte) : Bool :=
  leAt e 8 8 == src && leAt e 0x10 8 == dst && leAt e 0x18 8 == len && leAt e 0x20 8 == after &&
  bits 1 0 (leAt e 0x28 1) == srcKind && bits 3 2 (leAt e 0x28 1) == dstKind

/-- COPY: a stack source waits for its fence; anything else starts at once. -/
def execCopy (ref : CmdRef) (hob : HobId) (src dst len after : Nat) (srcKind dstKind : Fin 4) (s : State) : Res :=
  let h := hob.val
  done (s.command ref h 4 0xFFFF (copyArgs src dst len after srcKind.val dstKind.val) fun s =>
    let x := s.hob h
    if len < 64 || 2 ^ 34 < len || len % 64 ≠ 0 || srcKind.val = 3 || 1 < dstKind.val then s.complete ref 4 stRejected 0 0 0
    else if x.st = .free && !(srcKind.val = 2 && s.down) then s.complete ref 4 stState 0 0 0
    else if srcKind.val = 2 && !x.jarValid (jarSrc src).1 then s.complete ref 4 stState 0 0 0
    else
      let c : Copy := { ref := ref, src := src, dst := dst, len := len, after := after, srcKind := srcKind.val, dstKind := dstKind.val,
                        running := srcKind.val != 1 || decide (after ≤ x.fenceLast) }
      s.leaveIdle.modHob h fun y => { y with copies := y.copies ++ [c] })

/-- The lines of a run of hob-relative bytes as their controllers read them (R202, R204): data, poisoned lines, and the state after. -/
def State.stackRead (s : State) (h a n : Nat) : List Byte × List Nat × State :=
  let z := s.hob h
  (List.range ((n + 63) / 64)).foldl (fun (t : List Byte × List Nat × State) i =>
    match z.devAddr (a + 64 * i) with
    | none => (t.1 ++ zeroBytes 64, t.2.1, t.2.2)
    | some dev =>
      let r := t.2.2.readLines z.key dev 1
      (t.1 ++ r.2.2.1, if r.1.isEmpty && r.2.1.isEmpty then t.2.1 else t.2.1 ++ [i], r.2.2.2)) ([], [], s)

/-- A run of bytes within one 4 KiB block written to a hob's memory. A line covered in part is read first, and one that is bad stays
poisoned without the written bytes (R202); during capture the whole block moves to the shadow (R210). -/
def State.storePart (s : State) (h a : Nat) (data : List Byte) (bad : Nat → Bool) : Option State :=
  let base := a / 4096 * 4096
  let o := a % 4096
  let lo := if (s.hob h).cow.armed then 0 else o / 64
  let hi := if (s.hob h).cow.armed then 63 else (o + data.length - 1) / 64
  let (bytes, poisoned, t) := (List.range (hi + 1 - lo)).foldl (fun (t : List Byte × List Nat × State) i =>
    let at_ := 64 * (lo + i)
    let mine := fun (j : Nat) => decide (o ≤ at_ + j ∧ at_ + j < o + data.length)
    let struck := decide (o < at_ + 64 ∧ at_ < o + data.length) && bad ((at_ - o) / 64)
    if mine 0 && mine 63 then (t.1 ++ bytesAt data (at_ - o) 64, if struck then t.2.1 ++ [i] else t.2.1, t.2.2)
    else
      let (old, worse, s1) := t.2.2.stackRead h (base + at_) 64
      if worse.isEmpty then
        (t.1 ++ (List.range 64).map (fun j => if mine j then data.getD (at_ + j - o) 0 else old.getD j 0), if struck then t.2.1 ++ [i] else t.2.1, s1)
      else (t.1 ++ old, t.2.1 ++ [i], s1)) ([], [], s)
  t.storeBlock h (base + 64 * lo) bytes poisoned.contains true

/-- A run of bytes written to a hob's memory, block by block; where R212 withholds the write of a block, the address of that block. -/
def State.storeRun (s : State) (h a : Nat) (data : List Byte) (bad : Nat → Bool) : Except Nat State :=
  (List.range (data.length / 4096 + 2)).foldl (fun (r : Except Nat State) b =>
    r.bind fun t =>
      let from_ := max a ((a / 4096 + b) * 4096)
      let end_ := min (a + data.length) ((a / 4096 + b + 1) * 4096)
      if end_ ≤ from_ then .ok t
      else match t.storePart h from_ (bytesAt data (from_ - a) (end_ - from_)) fun i => bad ((from_ - a) / 64 + i) with
        | some u => .ok u
        | none => .error from_) (.ok s)

/-- A write of a COPY finds no shadow page (R212): it is counted once for its page, which is drained next, and the hob holds under cause 2
until then. -/
def State.copyAwaits (s : State) (h : Nat) (c : Copy) (page : Nat) : State :=
  if c.waited.contains page then s
  else s.modHob h fun y =>
    let y1 := { y with
      copies := y.copies.map fun d => if d = c then { d with waited := d.waited ++ [page] } else d
      cow := { y.cow with waits := y.cow.waits + 1, next := if y.cow.next.contains page then y.cow.next else y.cow.next ++ [page] }
      hold := { y.hold with waits := y.hold.waits ++ [{ xng := 0xFFFF, cause := 2, page := some page }] } }
    if y1.runs && y1.clk.live then (y1.freeze s.now 2 0xFFFF).addCause s.now 2 else y1

/-- What a COPY can move: up to the first byte of its source or destination that is not there. -/
def Hob.copyLimit (h : Hob) (c : Copy) : Nat :=
  let m := fun k a => if k = 1 then h.mappedLen a c.len else c.len
  let src := if c.srcKind = 2 then
      let j := h.jars.get {} (jarSrc c.src).1
      min c.len (j.bytes - (jarSrc c.src).2)
    else m c.srcKind c.src
  min src (m c.dstKind c.dst)

/-- Stacks that a COPY reads or writes. -/
def Copy.stacksOf (c : Copy) : List Nat :=
  ((if c.srcKind = 1 then [relStack c.src, relStack (c.src + c.len - 1)] else []) ++
   (if c.dstKind = 1 then [relStack c.dst, relStack (c.dst + c.len - 1)] else [])).dedup

/-- A COPY of a hob waits while a stack it needs is in reset (R200), and while a pool it draws on is exhausted (R197, R198, R228). The
COPY itself counts in both pools. -/
def State.copyWaits (s : State) (h : Nat) (c : Copy) : Bool :=
  let p := (s.hob h).grant.hport.toNat
  c.stacksOf.any (fun k => (s.stack k).resetting || decide (512 < s.sharedUsed k)) ||
  ((c.srcKind == 0 || c.dstKind == 0) && decide (s.hostShare p < s.hostOwn p h) && decide (448 < s.hostTaken p))

/-- COPY_DONE (R197, R200, R202, R205, R217, R232, R236): the oldest running COPY of the hob has moved its bytes, or `moved` of them
before a host fault. `data` is what was read from host memory, with the blocks whose CRC-32C the controller found wrong. The bytes go to the port that owns the hob (R243). -/
def execCopyDone (hob : HobId) (ok : Bool) (moved : Nat) (data : Moved) (s : State) : Res :=
  let h := hob.val
  let z := s.hob h
  match z.copies.find? fun c => c.running with
  | none => done s
  | some c =>
    if s.copyWaits h c then done s
    else
    let n := min (z.copyLimit c) (if ok then c.len else moved / 64 * 64)
    let s0 := s.each c.stacksOf State.touchStack
    let (bytes, poison, s1) := match c.srcKind with
      | 0 => (bytesAt data.bytes 0 n, [], s0)
      | 1 => s0.stackRead h c.src n
      | _ => ((List.range n).map fun i => (z.jars.get ({} : Jar) (jarSrc c.src).1).byteAt ((jarSrc c.src).2 + i), [], s0)
    let failed := fun (i : Nat) => data.badBlocks.contains ((c.dst % 4096 + 64 * i) / 4096)
    let out := if c.dstKind = 1 then
        let s2 := if data.badBlocks.isEmpty then s1 else s1.emit (.mgt "BLOCK_CHECK_FAIL" (h :: data.badBlocks))
        s2.storeRun h c.dst bytes fun i => poison.contains i || failed i
      else .ok (s1.emit (.hostData z.grant.hport.toNat c.dst bytes))
    done (match out with
      | .error a => s.copyAwaits h c (pageKey ((z.devAddr a).getD 0))
      | .ok s2 =>
        let s3 := s2.modHob h fun y => { y with copies := y.copies.erase c }
        s3.complete c.ref 4 (if n = c.len then stOk else stAddress) 0 0 n)

/-! ### Windows (R175, R176) -/

/-- WINDOW_OPEN: a CLOSED window opens; on one whose quiesce interval runs the open takes effect when it is CLOSED. -/
def execWindowOpen (ref : CmdRef) (hob : HobId) (cell : BitVec 13) (win : WinId) (slot : SlotId) (region : RegionId) (s : State) : Res :=
  let h := hob.val
  let args := fun e => leAt e 8 2 == cell.toNat && leAt e 0xA 1 == win.val && leAt e 0xB 1 == 16 * slot.val + region.val
  done (s.command ref h 5 0xFFFF args fun s =>
    let x := s.hob h
    let p := s.posOf h cell.toNat
    let w := (s.cell p).win win.val
    let r := ((s.cell p).slot slot.val).region region.val
    if !(x.st = .stopped || x.st = .running) || !x.seqMode then s.complete ref 5 stState 0 0 0
    else if x.rect.cells ≤ cell.toNat || !r.valid || !r.landing then s.complete ref 5 stRejected 0 0 0
    else if w.state = 0 && !w.ending then
      (s.leaveIdle.modCell p fun c => c.openWin win.val slot.val region.val).complete ref 5 stOk 0 w.gen.toNat 0
    else if w.state ≠ 1 && w.reopen.isNone then
      s.leaveIdle.modCell p fun c => c.modWin win.val fun y => { y with reopen := some (slot.val, region.val, ref) }
    else s.complete ref 5 stState 0 0 0)

/-- WINDOW_CLOSE: the close edge; a window that is already CLOSING takes the command along. -/
def execWindowClose (ref : CmdRef) (hob : HobId) (cell : BitVec 13) (win : WinId) (s : State) : Res :=
  let h := hob.val
  let args := fun e => leAt e 8 2 == cell.toNat && leAt e 0xA 1 == win.val
  done (s.command ref h 6 0xFFFF args fun s =>
    let x := s.hob h
    let p := s.posOf h cell.toNat
    if x.st = .free then s.complete ref 6 stState 0 0 0
    else if x.rect.cells ≤ cell.toNat then s.complete ref 6 stRejected 0 0 0
    else s.modCell p fun c => c.modWin win.val fun y =>
      if y.state = 2 || y.ending then { y with closers := y.closers ++ [ref] } else { y.close s.now with closers := [ref] })

/-! ### Placing and clearing a hob's cells (R63, R238, R295) -/

/-- A router without static routes: its pages, inputs and checksums; wires and waiting dynamic flits stay. -/
def Router.clearStatic (r : Router) : Router :=
  { r with slots := [], page := 0, pages := 0, pageReq := none, inputs := [], applied := [], crc := [], crcDue := [] }

/-- The placement log in both copies, and its epoch (R190, R278). -/
def State.setPlaces (s : State) (l : List PlaceRec) (epoch : Nat) : State :=
  { s with places := l, places6 := l, hearth := { s.hearth with epoch := epoch } }

/-- A record of the placement log opens a new epoch. -/
def State.placeLog (s : State) (r : PlaceRec) : State :=
  let e := s.hearth.epoch + 1
  s.setPlaces ({ r with time := s.lifeMs, epoch := e } :: s.places) e

/-- The slot entries that the bridge of a cell owned are free again (R112, R296). -/
def State.freeBridge (s : State) (h n : Nat) : State :=
  s.each (s.routers.map fun e => e.1) fun s p => s.modRouter p fun r => { r with bridge := r.bridge.filter fun b => b.1 != h * 8192 + n }

/-- A far placement ends: the lent position and the bridge's entries are free again. -/
def State.endFar (s : State) (h n : Nat) : State :=
  match (s.hob h).fars.find? fun f => f.n == n with
  | none => s
  | some f =>
    let s1 := ((s.freeBridge h n).modHob h fun z => { z with fars := z.fars.filter fun g => g.n != n }).modPos f.far fun x =>
      { x with lent := false, state := if x.state = .active then .spare else x.state }
    s1.placeLog { rack := (Pos.ofIdx f.home).rack.idx, old := f.far + 1, new := 0, bridge := true, hob := h, cell := n }

/-- A cell that loses its work and its state: its windows and queue generations stay (R173, R174). -/
def Cell.cleared (c : Cell) : Cell :=
  { wins := c.wins, slots := [0, 1, 2, 3].foldl (fun (t : Tab Slot) i => t.upd {} i fun x => { x with qgen := (c.slot i).qgen }) [] }

/-- The hob's cells lose their state and its routers their pages; messages that land there end with status 3, its far placements end
and lent positions come back (R63, R179, R295). -/
def State.clearCells (s : State) (h : Nat) : State :=
  let s1 := s.each (s.nums h) fun s n =>
    ((s.dropLandings h n).modCell (s.posOf h n) Cell.cleared).modRouter (s.routerPos h n) Router.clearStatic
  let s2 := s1.each (s.hob h).fars fun s f => s.endFar h f.n
  s2.modHob h fun y => { y with homeless := [] }

/-- The cells of a rectangle carry the hob's work from now on. -/
def State.placeCells (s : State) (h : Nat) : State :=
  s.each (s.nums h) fun s n => s.modCell (s.posOf h n) fun c => { c with hob := some h, n := n }

/-! ### Use and grants (R237 to R239) -/

/-- Extents that a hob holds on a stack. -/
def Hob.extCount (h : Hob) (stack : Nat) : Nat := (h.ext.filter fun e => e.2.valid && e.1 / 352 == stack).length

/-- Pantry bytes that count against the quota: the reserved size of both slots and of a jar under way (R349). -/
def Hob.pantryUse (h : Hob) : Nat :=
  (h.jars.map fun e => if (h.jarRun.map fun j => j.slot) = some e.1 then 0 else e.2.bytes).foldl (· + ·) 0 +
  (match h.jarRun with
    | some j => j.jar.bytes
    | none => 0)

/-- Whether a hob uses more than its grants (R239). -/
def Hob.aboveGrant (h : Hob) : Bool :=
  stackNums.any (fun k => decide ((h.grant.ext.get 0 k).toNat < h.extCount k)) || decide (h.grant.pantry.toNat * 2 ^ 30 < h.pantryUse)

/-- `HP_HOB_OVERQ` follows use and grants (R239). -/
def State.recheckOver (s : State) (h : Nat) : State := s.setOver h (s.hob h).aboveGrant

/-- A privileged O action ends (R9, R10, R370): logged before it takes effect, refused with STATE while the log fails. -/
def State.ringPriv (s : State) (ref : CmdRef) (h sub : Nat) (args : List Nat) (status : Nat) (act : State → State)
    (info : Nat × Nat := (0, 0)) : State :=
  let st := if s.logFail then stState else status
  let result := if st = stOk then 0 else if st = stRejected then 2 else if st = stQuota then 3 else 4
  let s1 := s.logAdd { role := 1, path := 3, code := BitVec.ofNat 16 (0x300 + sub), result := result, hob := h,
                       keyid := (s.hob h).cred, args := args }
  (if st = stOk then act s1 else s1).complete ref 10 st 0 (if st = stOk then info.1 else 0) (if st = stOk then info.2 else 0)

/-! ### HOB_CONFIG (R238) -/

/-- Cells that all hobs but one hold. -/
def State.cellsHeld (s : State) (but : Nat) : Nat :=
  (hobNums.filter fun h => h != but && (s.hob h).st != .free).foldl (fun n h => n + (s.hob h).rect.cells) 0

/-- Whether two rectangles share a cell. -/
def Shape.meets (a b : Shape) : Bool :=
  a.x0 < b.x0 + b.w && b.x0 < a.x0 + a.w && a.y0 < b.y0 + b.h && b.y0 < a.y0 + a.h

/-- What a SHAPE is answered (R238, R375). -/
def State.shapeStatus (s : State) (h : Nat) (sh : Shape) : Nat :=
  let z := s.hob h
  let st := z.st
  if !(st = .free || st = .loading || st = .stopped || st = .held) || s.hearth.jtag then stState
  else if sh.w = 0 || sh.h = 0 || sh.x0 % 8 ≠ 0 || sh.w % 8 ≠ 0 || sh.x0 + sh.w > 96 || sh.y0 + sh.h > 64 then stRejected
  else if hobNums.any fun g => g != h && (s.hob g).st != .free && sh.meets (s.hob g).rect then stRejected
  else if !z.grant.valid || z.grant.cells.toNat < sh.cells || s.cellLimit < s.cellsHeld h + sh.cells then stQuota
  else stOk

/-- A hob that loses its recipe: what the last run, capture and placement left is dropped. -/
def Hob.unload (z : Hob) : Hob :=
  { z with recipe := none, resume := none, nextStep := 0, clk := {}, hold := {}, run := {}, closing := [], peerClosed := [], gens := [],
           eccLines := [], fwdBlocked := false, replay := {}, xng := [], staged := [], restore := none, torn := false, loading := none,
           mcast := [], simmer := z.simmer }

/-- A SHAPE takes effect: from FREE with a new key (R206); the hob is LOADING with no recipe. -/
def State.reshape (s : State) (h : Nat) (sh : Shape) : State :=
  let fresh := (s.hob h).st == .free
  let s1 := ((s.clearCells h).dropShadows h).modHob h fun z =>
    { z.unload with shape := some sh, key := if fresh then s.hearth.keyGen else z.key, cow := {}, jarRun := none }
  let s2 := if fresh then { s1 with hearth := { s1.hearth with keyGen := s1.hearth.keyGen + 1 } } else s1
  let s3 := { s2 with txns := s2.txns.filter fun t => !t.crossingOf h }
  (((s3.placeCells h).failWaits h).setHobSt h .loading).recheckOver h

/-- HOB_CONFIG SHAPE. -/
def execHobConfigShape (ref : CmdRef) (hob : HobId) (x0 y0 w h : Nat) (s : State) : Res :=
  let hn := hob.val
  let sh : Shape := { x0 := x0, y0 := y0, w := w, h := h }
  done (s.command ref hn 10 0 (fun e => leAt e 8 1 == x0 && leAt e 9 1 == y0 && leAt e 0xA 1 == w && leAt e 0xB 1 == h) fun s =>
    s.ringPriv ref hn 0 [x0, y0, w, h] (s.shapeStatus hn sh) fun s => s.reshape hn sh)

/-- Device extents of a stack that no hob holds and none is being zeroed. -/
def State.freeExts (s : State) (stack : Nat) : List Nat :=
  let used := hobNums.flatMap fun h =>
    ((s.hob h).ext.filter fun e => e.2.valid && e.1 / 352 == stack).map (fun e => e.2.dev.toNat) ++
    ((s.hob h).zeroing.filter fun e => e / 352 == stack).map (· % 352)
  (List.range 352).filter fun e => !used.contains e

/-- Blocks that a static crossing reaches over one pass of the step program, first and last (R421). -/
def Recipe.passPeriods (r : Recipe) : Nat := (r.fences.map fun f => f.periods).foldl (· + ·) 0

def Crossing.span (x : Crossing) (passes : Nat) : Int × Int :=
  let last : Int := (x.addr : Int) + (passes - 1 : Nat) * x.stride
  (min (x.addr : Int) last, max (x.addr : Int) last + (x.blocks : Int) - 1)

/-- Whether the loaded recipe needs an extent of a stack at or beyond `n`: a resident slot's home copy, a static crossing
address or a reserved window (R238). -/
def State.needsExt (s : State) (h stack n : Nat) : Bool :=
  let z := s.hob h
  let homes := (s.nums h).any fun m => [0, 1, 2, 3].any fun i =>
    let x := (s.cell (s.posOf h m)).slot i
    x.valid && x.resident && relStack x.home == stack && decide (n ≤ bits 36 28 (x.home + 4096 * x.size.toNat - 1))
  let xng := z.rcp.crossings.any fun x => x.kind ≤ 1 && !x.computed && x.client == stack &&
    decide (((stack * 512 + n) * 65536 : Int) ≤ (x.span z.rcp.passPeriods).2)
  let w := z.rsv.get {} stack
  z.recipe.isSome && (homes || xng || (w.valid && n ≤ w.last.toNat))

/-- Redirect entries of an extent are discarded. -/
def State.dropExtShadows (s : State) (dev : Nat) : State :=
  let mine := s.rdrs.filter fun e => decide (pageKey dev ≤ e.1 ∧ e.1 < pageKey dev + 4096)
  let s1 := s.setRdrs (s.rdrs.filter fun e => !(pageKey dev ≤ e.1 && e.1 < pageKey dev + 4096))
  s1.each mine fun s e => s.modStack (e.1 / 2 ^ 21) fun k => { k with shadowFree := e.2.shadow :: k.shadowFree }

/-- The hob's extent count on a stack set to `n`: growth maps new extents, a shrink zeroes and frees the highest (R192, R238). -/
def State.resize (s : State) (h stack n : Nat) : State :=
  let z := s.hob h
  let cur := z.extCount stack
  if cur ≤ n then
    s.modHob h fun y => { y with ext := ((s.freeExts stack).take (n - cur)).zipIdx.foldl (fun (t : Tab Ext) e =>
      let x : Ext := { valid := true, dev := BitVec.ofNat 9 e.1 }
      t.put {} (extKey stack (cur + e.2)) x) y.ext }
  else
    let gone := (List.range (cur - n)).map fun i => (z.ext.get {} (extKey stack (n + i))).dev.toNat
    let s1 := s.each gone fun s d => ((s.touchStack stack).dropExtShadows (stack * 2 ^ 37 + d * 2 ^ 28)).zeroRange (stack * 2 ^ 37 + d * 2 ^ 28) (2 ^ 28)
    s1.modHob h fun y => { y with ext := y.ext.filter fun e => !(e.1 / 352 == stack && decide (n ≤ e.1 % 352)) }

/-- What a MEMORY is answered. -/
def State.memoryStatus (s : State) (h stack n : Nat) : Nat :=
  let z := s.hob h
  if z.st = .free then stState
  else if 12 ≤ stack || 352 < n then stRejected
  else if z.extCount stack < n then
    if z.reported == .ovr || (z.grant.ext.get 0 stack).toNat < n || (s.freeExts stack).length < n - z.extCount stack || (s.stack stack).pwr = .off then stQuota else stOk
  else if n < z.extCount stack && s.needsExt h stack n then stState
  else stOk

/-- HOB_CONFIG MEMORY. -/
def execHobConfigMemory (ref : CmdRef) (hob : HobId) (stack extents : Nat) (s : State) : Res :=
  let h := hob.val
  done (s.command ref h 10 1 (fun e => leAt e 8 1 == stack && leAt e 0xC 4 == extents) fun s =>
    s.ringPriv ref h 1 [stack, extents] (s.memoryStatus h stack extents) fun s => (s.resize h stack extents).recheckOver h)

/-- HOB_CONFIG PANTRY. -/
def execHobConfigPantry (ref : CmdRef) (hob : HobId) (gib : Nat) (s : State) : Res :=
  let h := hob.val
  done (s.command ref h 10 2 (fun e => leAt e 8 4 == gib) fun s =>
    let z := s.hob h
    let st := if z.st = .free then stState
      else if z.grant.pantry.toNat < gib || (z.reported == .ovr && z.pantryQ < gib) then stQuota else stOk
    s.ringPriv ref h 2 [gib] st fun s => s.modHob h fun y => { y with pantryQ := gib })

/-- HOB_CONFIG POWER: `HOB_SIMMER_SHARE` shows the lesser of this and the grant. -/
def execHobConfigPower (ref : CmdRef) (hob : HobId) (percent : Nat) (s : State) : Res :=
  let h := hob.val
  done (s.command ref h 10 3 (fun e => leAt e 8 1 == percent) fun s =>
    let st := if (s.hob h).st = .free then stState else if 100 < percent then stRejected else stOk
    s.ringPriv ref h 3 [percent] st fun s => s.modHob h fun y =>
      let z := { y with powerQ := percent }
      { z with simmer := { z.simmer with share := BitVec.ofNat 8 z.share } })

/-- HOB_CONFIG JARS. -/
def execHobConfigJars (ref : CmdRef) (hob : HobId) (mode : Nat) (s : State) : Res :=
  let h := hob.val
  done (s.command ref h 10 4 (fun e => leAt e 8 1 == mode) fun s =>
    let st := if (s.hob h).st = .free then stState else if 1 < mode then stRejected else stOk
    s.ringPriv ref h 4 [mode] st fun s => s.modHob h fun y => { y with policy := { y.policy with mode := mode } })

/-! ### PERTURB endings and HOB_RELEASE -/

/-- A PERTURB setting ends, which is logged (R325). -/
def State.endPerturb (s : State) (i : Nat) : State :=
  let x := s.perturbs.get {} i
  if !x.valid then s
  else
    let s1 := { s with perturbs := s.perturbs.upd {} i fun x => { x with valid := false } }
    let s2 := if x.kind = 4 then s1.endHold x.hob.toNat 7 else s1
    s2.logDev 0x0409 x.hob.toNat [i]

/-- PERTURB settings that a test selects end (R325). -/
def State.endPerturbs (s : State) (f : Perturb → Bool) : State :=
  (s.perturbs.filter fun e => f e.2).foldl (fun s e => s.endPerturb e.1) s

/-- Commands of a hob that end with a status: steps, fences, copies, windows, jars (R233, R242). -/
def State.abortCommands (s : State) (h status : Nat) : State :=
  let z := s.hob h
  let s1 := s.endRun h status 0 0 0
  let s2 := z.fenceWaits.foldl (fun s w => s.complete w.1 3 status 0 0 0) s1
  let s3 := z.copies.foldl (fun s c => s.complete c.ref 4 status 0 0 0) s2
  let s4 := match z.jarRun with
    | some j => match j.ref with
      | some r => s3.complete r 7 status 0 0 0
      | none => s3
    | none => s3
  let s5 := match z.restore with
    | some r => s4.complete r.ref 8 status 0 0 0
    | none => s4
  let s6 := match z.loading with
    | some r => s5.complete r 1 status 0 0 0
    | none => s5
  s6.modHob h fun y => { y with fenceWaits := [], copies := [], jarRun := none, restore := none, loading := none }

/-- LOAD_RECIPE and HOB_RELEASE close every window of the hob (R177): WINDOW_CLOSE commands complete as the quiesce interval that starts
now ends (R242), and waiting opens are given up. -/
def State.endWindows (s : State) (h : Nat) : State :=
  s.each (s.nums h) fun s n =>
    let p := s.posOf h n
    let s1 := (s.cell p).wins.foldl (fun s w => match w.2.reopen with
      | some (_, _, r) => s.complete r 5 stAborted 0 0 0
      | none => s) s
    s1.modCell p fun c => { c with wins := c.wins.map fun w => (w.1, w.2.endFor s.now) }

/-- Authentication for a hob ends (R223): its VF's, and its place in every PF's set. -/
def State.endAuth (s : State) (h : Nat) : State :=
  s.each [0, 1, 2, 3] fun s p =>
    (s.modFn p (h + 1) fun x => { x with authOk := false, authHobs := [] }).modFn p 0 fun x =>
      let l := x.authHobs.filter fun g => g != h
      { x with authHobs := l, authOk := x.authOk && !l.isEmpty }

/-- What is left of a hob when it is FREE: what the installer gave it, its jars and their policy, and lost events. -/
def Hob.freed (z : Hob) : Hob :=
  { grant := z.grant, cred := z.cred, rsv := z.rsv.map fun e => (e.1, { on := e.2.on, bw := e.2.bw }), pantryQ := z.pantryQ,
    powerQ := z.powerQ, jars := z.jars, policy := z.policy, lostEvents := z.lostEvents, jarAcl := z.jarAcl, zeroing := z.zeroing,
    st := z.st, overq := z.overq }

/-- A hob becomes FREE (R208, R240): its key is gone, its redirect entries are discarded, its extents wait to be zeroed, its
cells are zeroed. Its jars stay, and may still be more than its grant (R239, R242). -/
def State.freeHob (s : State) (h : Nat) : State :=
  let z := s.hob h
  let exts := (z.ext.filter fun e => e.2.valid).map fun e => e.1 / 352 * 352 + e.2.dev.toNat
  let pages := s.rdrs.filter fun e => e.2.hob == h
  let s1 := pages.foldl (fun s e => s.zeroRange (shadowAddr (e.1 / 2 ^ 21) e.2.shadow) 65536) s
  let s2 := ((s1.dropShadows h).clearCells h).setHobSt h .free
  let s3 := (s2.modHob h fun y => { y.freed with zeroing := y.zeroing ++ exts }).recheckOver h
  let s4 := { s3 with txns := s3.txns.filter fun t => t.hob != h, broadcasts := s3.broadcasts.filter fun b => b.hob != some h }
  (((s4.avlStop 0 h).avlStop 1 h).avlStop 3 h).avlStop 5 h

/-- A release takes effect: the key is destroyed, redirects are discarded, extents wait to be zeroed, queue generations have advanced, the
hob is FREE, and the command completes (R174, R208, R240, R242). -/
def State.finishRelease (s : State) (h : Nat) : State :=
  match (s.hob h).releasing with
  | none => s
  | some r =>
    let s1 := (s.modCells h Cell.advanceGens).freeHob h
    let s2 := match r with
      | some ref => s1.complete ref 11 stOk 0 0 0
      | none => s1
    s2.endAuth h

/-- HOB_RELEASE (R177, R208, R223, R240, R242, R325): the hob's commands end, its run is discarded and its windows close; it is FREE after
their quiesce interval, at once where no window was ever bound. -/
def execHobRelease (ref : CmdRef) (hob : HobId) (s : State) : Res :=
  let h := hob.val
  done (s.command ref h 11 0xFFFF (fun _ => true) fun s =>
    if (s.hob h).st = .free then s.complete ref 11 stState 0 0 0
    else
      let s1 := (((s.abortCommands h stAborted).endWindows h).endPerturbs fun x => x.hob.toNat == h).modHob h fun y =>
        { y.discard with releasing := some (some ref) }
      let s2 := { s1 with txns := s1.txns.filter fun t => !t.crossingOf h }
      if s2.windowsEnding h then s2 else s2.finishRelease h)

/-- WINDOW_QUIESCE_END (R175 to R177, R242): 32 µs after the close edge the window is CLOSED and its commands complete; an open that
waited takes effect. One that LOAD_RECIPE or HOB_RELEASE closed has generation 0 from then on, and a release ends with its last
window. -/
def execWindowQuiesceEnd (cell : Pos) (win : WinId) (s : State) : Res :=
  let p := cell.idx
  let x := (s.cell p).win win.val
  if !(x.state = 2 || x.ending) || s.now < x.closedAt + flightNs then done s
  else
    let s1 := s.modCell p fun c => c.modWin win.val fun y =>
      if x.ending then { landed := y.landed, refused := y.refused } else { y with state := 0, closers := [] }
    let gen := if x.ending then 0 else x.gen.toNat
    let s2 := x.closers.foldl (fun s r => s.complete r 6 stOk 0 x.landed.toNat gen) s1
    let s3 := match x.reopen with
      | some (sl, ri, ref) => (s2.modCell p fun c => c.openWin win.val sl ri).complete ref 5 stOk 0 gen 0
      | none => s2
    done (match (s3.cell p).hob with
      | some h => if (s3.hob h).releasing.isSome && !s3.windowsEnding h then s3.finishRelease h else s3
      | none => s3)

end Sys2Proof.Machine
end

