-- ==== Sys2Proof/Machine/Distance.lean ====
section
/-! DEFINITION. The distance table: the entries of R32 and R33. -/

namespace Sys2Proof.Machine

open Sys2Proof

/-- Five cycles of the receiving clock on the way to a client, in ps (R28, R29). -/
def clientCrossPs (c : Nat) : Nat :=
  if c < 12 then 3125 else if c < 28 then 3200 else if c < 32 then 5000 else if c = 32 then 6250 else 12500

/-- Nominal rim transit in ns: 1.25 ns a node hop, both crossings, rounded up, at most 63 (R33). -/
def rimNs (hops c : Nat) : Nat := min 63 ((1250 * hops + 3125 + clientCrossPs c + 999) / 1000)

/-- The distance table entry of logical (x, y) for a client (R33). -/
def distEntry (x y c : Nat) : W32 :=
  let t := stopFor x y c
  let hops := nodeHops t.node (clientNode c)
  BitVec.ofNat 32 (t.meshCyc x y * 2 ^ 20 + t.edge * 2 ^ 18 + t.stop * 2 ^ 12 + hops * 64 + rimNs hops c)

end Sys2Proof.Machine
end

