-- ==== Sys2Proof/Machine/Image.lean ====
section
/-! DEFINITION. The recipe container: header, section table and section layouts (R51, R52, R55, R87, R99 to R102, R109, R113,
R125, R132, R157, R277, R419). -/

namespace Sys2Proof

open Sys2Proof.Machine

/-- A little-endian field of an image. -/
def Image.nat (im : Image) (off n : Nat) : Nat := leNat ((List.range n).map fun i => Tab.get 0 im.bytes (off + i))

/-- `n` bytes of an image. -/
def Image.raw (im : Image) (off n : Nat) : List Byte := (List.range n).map fun i => Tab.get 0 im.bytes (off + i)

/-- Whether bytes [off, off + n) are all 0. -/
def Image.zero (im : Image) (off n : Nat) : Bool := im.nat off n == 0

end Sys2Proof

namespace Sys2Proof.Machine

open Sys2Proof

/-- An entry of the section table (R100); `off` in bytes. -/
structure Sec where
  typ : Nat := 0
  rsv : Nat := 0
  off : Nat := 0
  len : Nat := 0
  deriving DecidableEq, Repr

end Sys2Proof.Machine

namespace Sys2Proof

open Sys2Proof.Machine

/-- The section table. -/
def Image.secs (im : Image) : List Sec :=
  (List.range (im.nat 0xE 2)).map fun i =>
    let a := 0x100 + 16 * i
    { typ := im.nat a 2, rsv := im.nat (a + 2) 2, off := 4096 * im.nat (a + 4) 4, len := im.nat (a + 8) 8 }

/-- A section by type, an empty one where it is absent. -/
def Image.sec (im : Image) (t : Nat) : Sec := (im.secs.find? fun x => x.typ == t).getD {}
def Image.has (im : Image) (t : Nat) : Bool := im.secs.any fun x => x.typ == t

/-- Width and height in cells, and the number of cells (R419). -/
def Image.w (im : Image) : Nat := 8 * im.nat 0xA 1
def Image.h (im : Image) : Nat := im.nat 0xB 1
def Image.cells (im : Image) : Nat := im.w * im.h

/-- Descriptors of a dense array. -/
def Image.count (im : Image) (t size : Nat) : Nat := (im.sec t).len / size
def Image.each {α : Type} (im : Image) (t size : Nat) (f : Nat → α) : List α :=
  (List.range (im.count t size)).map fun i => f ((im.sec t).off + size * i)

/-- A station descriptor (R102). -/
def Image.station (im : Image) (a : Nat) : Station :=
  let c := im.nat (a + 3) 1
  { id := im.nat a 2, slot := im.nat (a + 2) 1, cls := c / 64, kind := c % 64, x0 := im.nat (a + 4) 1, y0 := im.nat (a + 5) 1,
    w := im.nat (a + 6) 1, h := im.nat (a + 7) 1, seed := BitVec.ofNat 64 (im.nat (a + 8) 8), name := BitVec.ofNat 128 (im.nat (a + 16) 16) }

/-- A region descriptor (R55). -/
def regionOf (v : Nat) : Region :=
  { valid := bit 63 v, landing := bit 62 v, count := BitVec.ofNat 8 (bits 47 40 v), entry := BitVec.ofNat 10 (bits 39 30 v),
    base := BitVec.ofNat 13 (bits 18 6 v) }

/-- `HOB_MATH_CFG` (R87). -/
def mathOf (v : Nat) : MathCfg :=
  { round := BitVec.ofNat 2 (bits 31 30 v), outfmt := BitVec.ofNat 3 (bits 29 27 v), act := BitVec.ofNat 3 (bits 26 24 v),
    scale := BitVec.ofNat 2 (bits 23 22 v), bias := bit 21 v, group := BitVec.ofNat 2 (bits 20 19 v) }

/-- A slot record of the SLOTS section (R419). -/
def Image.slotRec (im : Image) (a : Nat) : Slot :=
  let win := im.nat a 4
  let home := im.nat (a + 8) 8
  { valid := bit 31 win, resident := bit 30 win, size := BitVec.ofNat 8 (bits 15 8 win), base := BitVec.ofNat 7 (bits 6 0 win),
    homeTag := BitVec.ofNat 28 (home / 2 ^ 36), homeAddr := BitVec.ofNat 36 home, math := mathOf (im.nat (a + 4) 4),
    clampLo := BitVec.ofNat 32 (im.nat (a + 0x10) 4), clampHi := BitVec.ofNat 32 (im.nat (a + 0x14) 4),
    regions := (List.range 16).foldl (fun (t : Tab Region) i => t.put {} i (regionOf (im.nat (a + 0x20 + 8 * i) 8))) [] }

/-- The address of the slot record of a cell and slot. -/
def Image.slotAddr (im : Image) (n slot : Nat) : Nat := (im.sec 2).off + 640 * n + 160 * slot

/-- Directory of CELL_CAL: offset of the first word from the section's start in bytes, and the count. -/
def Image.calDir (im : Image) (n : Nat) : Nat × Nat :=
  let a := (im.sec 3).off + 8 * n
  (32 * im.nat a 4, im.nat (a + 4) 2)

/-- The calendar words of a cell. -/
def Image.calWords (im : Image) (n : Nat) : List (BitVec 256) :=
  (List.range (im.calDir n).2).map fun i => BitVec.ofNat 256 (im.nat ((im.sec 3).off + (im.calDir n).1 + 32 * i) 32)

/-- Directory of ROUTER_CAL: page count, and offset of page 0 from the section's start in bytes. -/
def Image.pageDir (im : Image) (n : Nat) : Nat × Nat :=
  let a := (im.sec 4).off + 8 * n
  (im.nat a 1, 512 * im.nat (a + 4) 4)

/-- The pages of a router: 5 × 256 entries each. -/
def Image.pages (im : Image) (n : Nat) : List (List W16) :=
  (List.range (im.pageDir n).1).map fun g => (List.range 1280).map fun i =>
    BitVec.ofNat 16 (im.nat ((im.sec 4).off + (im.pageDir n).2 + 2560 * g + 2 * i) 2)

/-- A stream descriptor (R109); `land_` is the raw landing byte. -/
def Image.stream (im : Image) (a : Nat) : Stream :=
  let l := im.nat (a + 7) 1
  { id := im.nat a 2, src := im.nat (a + 2) 2, dst := im.nat (a + 4) 2, slack := im.nat (a + 6) 1, landed := bit 7 l, region := l % 16 }

/-- A crossing descriptor (R113). -/
def Image.crossing (im : Image) (a : Nat) : Crossing :=
  let r := im.nat (a + 6) 1
  let v := im.nat (a + 0x10) 8
  { id := im.nat a 2, kind := im.nat (a + 2) 1, client := im.nat (a + 3) 1, cell := im.nat (a + 4) 2, slot := r / 64, region := r % 16,
    blocks := im.nat (a + 7) 1, issue := im.nat (a + 8) 4, bound := im.nat (a + 0xC) 4, computed := bit 63 v,
    addr := bits 35 0 v, stride := signed 32 (im.nat (a + 0x18) 4) }

/-- A step entry (R125). -/
def Image.step (im : Image) (a : Nat) : StepEntry := { periods := im.nat a 4, jarPoint := bit 0 (im.nat (a + 4) 1) }

/-- Quiet entries of a cell (R132): directory entry n, whose offset counts from the section's start (DEDUCED from the other
sections of R419; notes/assumptions/42.md). -/
def Image.quietDir (im : Image) (n : Nat) : Nat × Nat :=
  let a := (im.sec 8).off + 8 * n
  (8 * im.nat a 4, im.nat (a + 4) 4)

def Image.quietOf (im : Image) (n : Nat) : List Quiet :=
  (List.range (im.quietDir n).2).map fun i =>
    let a := (im.sec 8).off + (im.quietDir n).1 + 8 * i
    { cyc := im.nat a 3, mask := BitVec.ofNat 32 (im.nat (a + 4) 4) }

/-- The LINEAGE entries from a byte address (R277). -/
def Image.lineage (im : Image) : Nat → Nat → List LinEntry
  | 0, _ => []
  | k + 1, a =>
    let c := im.nat (a + 2) 2
    { xng := im.nat a 2, contrib := (List.range c).map fun i => im.nat (a + 4 + 2 * i) 2 } :: im.lineage k (a + (4 + 2 * c + 7) / 8 * 8)

/-- Start indices and word counts of a SEQ header (R157). -/
def Image.seqHead (im : Image) (a : Nat) : List Nat × List Nat :=
  ((List.range 4).map fun i => im.nat (a + 2 * i) 2, (List.range 4).map fun i => im.nat (a + 8 + 2 * i) 2)

/-- The largest start + count of a header: the cell's words (R419). -/
def seqLen (h : List Nat × List Nat) : Nat := ((h.1.zip h.2).map fun x => x.1 + x.2).foldl max 0

/-- The SEQ parts of cells, one behind the other, from a byte address. -/
def Image.seqs (im : Image) : Nat → Nat → List (List Nat × List Nat × List (BitVec 128))
  | 0, _ => []
  | k + 1, a =>
    let h := im.seqHead a
    let l := seqLen h
    (h.1, h.2, (List.range l).map fun i => BitVec.ofNat 128 (im.nat (a + 16 + 16 * i) 16)) :: im.seqs k (a + 16 + 16 * l)

/-- The reserved window word of a stack (R99). -/
def Image.rsvWord (im : Image) (k : Nat) : Nat := im.nat (0x6C + 4 * k) 4

/-- The recipe that an image holds. -/
def Image.recipe (im : Image) : Recipe :=
  let static := im.nat 6 1 == 0
  let cells := List.range im.cells
  { vmajor := im.nat 4 1, mode := im.nat 6 1, flags := im.nat 7 1, mclk := im.nat 8 2, width := im.nat 0xA 1, height := im.nat 0xB 1,
    period := im.nat 0x10 4, holdlim := im.nat 0x14 4, digest := im.digest, portcls := (List.range 16).map fun j => im.nat (0x50 + j) 1,
    peers := (List.range (im.nat 0x60 2)).map fun i => im.nat (4096 * im.nat 0x64 4 + 2 * i) 2 % 8192,
    msgtmo := im.nat 0x68 2, rsv := stackNums.map im.rsvWord,
    stations := im.each 1 32 im.station, fences := im.each 7 8 im.step,
    slotsImg := cells.map fun n => [0, 1, 2, 3].map fun i => im.slotRec (im.slotAddr n i),
    calImg := if static then cells.map im.calWords else [],
    pagesImg := if static then cells.map im.pages else [],
    streams := if static then im.each 5 16 im.stream else [],
    crossings := if static then im.each 6 32 im.crossing else [],
    quiet := if static then cells.map im.quietOf else [],
    checksums := if static then im.each 9 4 fun a => BitVec.ofNat 32 (im.nat a 4) else [],
    lineage := if im.has 0xA then im.lineage (im.nat (im.sec 0xA).off 4) ((im.sec 0xA).off + 8) else [],
    seqImg := if static then [] else im.seqs im.cells (im.sec 0xB).off }

end Sys2Proof
end

