-- ==== Sys2Proof/Machine/Program.lean ====
section
/-! DEFINITION. A recipe put into the cells and routers of a hob (R62, R93, R104, R156, R157, R174, R177, R185, R272). -/

namespace Sys2Proof.Machine

open Sys2Proof

/-! ### Stations (R93, R102) -/

/-- The station of a cell's task slot, and the cell's rank in it. -/
def Recipe.stationAt (r : Recipe) (n slot : Nat) : Option (Station × Nat) :=
  let w := 8 * r.width
  (r.stations.find? fun t => t.slot % 4 == slot && t.x0 ≤ n % w && n % w < t.x0 + t.w && t.y0 ≤ n / w && n / w < t.y0 + t.h).map
    fun t => (t, (n / w - t.y0) * t.w + (n % w - t.x0))

/-- Cells of a station (R102). -/
def Recipe.stationCells (r : Recipe) (t : Station) : List Nat :=
  (List.range t.h).flatMap fun j => (List.range t.w).map fun i => (t.y0 + j) * (8 * r.width) + t.x0 + i

/-- The slot of a cell with its station and its generator seeded (R93). -/
def Recipe.slotAt (r : Recipe) (n slot : Nat) : Slot :=
  let x := (r.slotsImg.getD n []).getD slot {}
  match r.stationAt n slot with
  | some (t, k) => { x with station := some t.id, sr := srSeed t.seed k, srFence := srSeed t.seed k }
  | none => x

/-! ### Sequencers (R157, R162) -/

/-- Where a sequencer stands after `k` HALT words: its control words run alone, ACT words passed over. -/
def seqWalk (ws : List Nat) : Nat → Nat → Tab (BitVec 16) → Nat → SeqSnap
  | 0, pc, ctr, _ => { pc := pc, ctr := ctr }
  | fuel + 1, pc, ctr, k =>
    if k = 0 then { pc := pc, ctr := ctr }
    else match ws[pc]? with
      | none => { pc := pc, ctr := ctr }
      | some w =>
        match sqKind w with
        | 1 => seqWalk ws fuel (pc + 1) (ctr.put 0 (sqCtr w) (BitVec.ofNat 16 (sqN w))) k
        | 2 =>
          let c := Tab.get 0 ctr (sqCtr w) - 1
          seqWalk ws fuel (if c = 0 then pc + 1 else sqTgt w) (ctr.put 0 (sqCtr w) c) k
        | 3 => seqWalk ws fuel (pc + 1) ctr (k - 1)
        | _ => seqWalk ws fuel (pc + 1) ctr k

/-- A slot whose sequencer stands at the first word of step `k` (R162). -/
def Slot.seqTo (x : Slot) (ws : List (BitVec 128)) (k : Nat) : Slot :=
  if x.seqCount = 0 then x
  else
    let p := seqWalk (ws.map BitVec.toNat) (2 ^ 64) x.seqStart [] k
    { x with seq := { pc := BitVec.ofNat 13 p.pc, step := BitVec.ofNat 12 k }, seqCtr := p.ctr, seqFirst := p, seqLater := [], seqFired := [] }

/-! ### Router pages (R104) -/

/-- The page that a step's calendar asks for last. -/
def lastPage (store : List Nat) (k : Nat) : Option Nat :=
  match stepWords store k with
  | some (_, ws) => ((ws.filter fun w => wordKind w = 0 && (opOf w).steer.pgv).getLast?).map fun w => (opOf w).steer.page
  | none => none

/-- Pages of all routers at the first hob cycle of each step, one row a step, from the page row of the step before. -/
def pageRows (stores : List (List Nat)) : Nat → Nat → List Nat → List Nat
  | 0, _, _ => []
  | steps + 1, k, row => row ++ pageRows stores steps (k + 1) ((stores.zip row).map fun x => (lastPage x.1 k).getD x.2)

def Recipe.pageTable (r : Recipe) : List Nat :=
  pageRows (r.calImg.map fun ws => ws.map BitVec.toNat) r.fences.length 0 (r.calImg.map fun _ => 0)

/-- The pages that the last step leaves in force. -/
def Recipe.lastPages (r : Recipe) : List Nat :=
  (pageRows (r.calImg.map fun ws => ws.map BitVec.toNat) (r.fences.length + 1) 0 (r.calImg.map fun _ => 0)).drop
    (r.fences.length * r.calImg.length)

/-! ### Cells and routers -/

/-- The old slot whose contents a resident slot of the new recipe keeps (R62). -/
def Cell.keeps (c : Cell) (x : Slot) : Option Slot :=
  if !(x.valid && x.resident) then none
  else (c.slots.map fun e => e.2).find? fun y => y.valid && y.resident && y.homeTag == x.homeTag && y.size == x.size

/-- A window's contents moved to the place of another window (R62). -/
def Cell.moveWindow (old new : Cell) (from_ to_ : Slot) : Cell :=
  let shiftB := fun (a : Nat) => a - 64 * from_.winBase + 64 * to_.winBase
  let inB := fun (a : Nat) => decide (64 * from_.winBase ≤ a ∧ a < 64 * (from_.winBase + from_.winGrans))
  let shiftW := fun (a : Nat) => a - 4 * from_.winBase + 4 * to_.winBase
  let inW := fun (a : Nat) => decide (4 * from_.winBase ≤ a ∧ a < 4 * (from_.winBase + from_.winGrans))
  { new with
    scratch := (old.scratch.filter fun e => inB e.1).foldl (fun m e => Tab.put 0 m (shiftB e.1) e.2) new.scratch,
    wordPoison := new.wordPoison ++ (old.wordPoison.filter inW).map shiftW,
    wordErr := (old.wordErr.filter fun e => inW e.1).foldl (fun m e => Tab.put 0 m (shiftW e.1) e.2) new.wordErr }

/-- The cell as the recipe programs it: landing windows as they are (R177), queue generations advanced, non-resident slot windows
zero, kept slots carried over. -/
def Cell.program (c : Cell) (r : Recipe) (h n : Nat) : Cell :=
  let (starts, counts, words) := r.seqImg.getD n ([], [], [])
  let slots := [0, 1, 2, 3].foldl (fun (t : Tab Slot) i =>
    let x := r.slotAt n i
    let y := { x with qgen := (c.slot i).qgen + 1, seqStart := starts.getD i 0, seqCount := counts.getD i 0 }
    t.put {} i (y.seqTo words 0)) []
  let fresh : Cell := { hob := some h, n := n, slots := slots, wins := c.wins, store := r.calImg.getD n [], seqWords := words }
  [0, 1, 2, 3].foldl (fun d i => match c.keeps (fresh.slot i) with
    | some y => c.moveWindow d y (fresh.slot i)
    | none => d) fresh

/-- The router with the recipe's pages; page 0 is in force. -/
def Router.program (r : Router) (pages : List (List W16)) : Router :=
  { r.clearStatic with
    pages := pages.length,
    slots := pages.zipIdx.foldl (fun (t : Tab W16) g => g.1.zipIdx.foldl (fun (t : Tab W16) e =>
      t.put 0 (rtKey (e.2 / 256) g.2 (e.2 % 256)) e.1) t) [] }

/-- All cells and routers of a hob programmed, and the recipe in force from step 0. -/
def State.program (s : State) (h : Nat) (r : Recipe) : State :=
  let s1 := s.each (s.nums h) fun s n =>
    (s.modCell (s.posOf h n) fun c => c.program r h n).modRouter (s.routerPos h n) fun x => x.program (r.pagesImg.getD n [])
  s1.modHob h fun y => { y with recipe := some { r with pageAt := r.pageTable } }

end Sys2Proof.Machine
end

