-- ==== Sys2Proof/Machine/Check.lean ====
section
/-! DEFINITION. The checks of LOAD_RECIPE that read the image alone (R53, R55, R87, R99 to R105, R109, R110, R113 to R115,
R125, R127, R132 to R135, R138 to R150, R157, R158, R165, R193, R194, R277, R297, R419 to R422). -/

namespace Sys2Proof.Machine

open Sys2Proof

/-! ### Code 1: header, section table, lengths -/

/-- Header fields other than the clock and the shape (R99, R101, R420). -/
def headerOk (im : Image) : Bool :=
  let v := im.nat 4 1
  let mode := im.nat 6 1
  let hold := im.nat 0x14 4
  let tmo := im.nat 0x68 2
  let peers := im.nat 0x60 2
  im.nat 0 4 == 0x50524346 && (v == 3 || (v == 2 && mode == 1)) && decide (mode ≤ 1) && im.nat 7 1 / 4 == 0 &&
  decide (1 ≤ im.nat 0xC 2 ∧ im.nat 0xC 2 ≤ 24576) && decide (1 ≤ im.nat 0xE 2 ∧ im.nat 0xE 2 ≤ 32) &&
  decide (1 ≤ im.nat 0x10 4 ∧ im.nat 0x10 4 ≤ 65536) && (hold == 0 || decide (1000 ≤ hold ∧ hold ≤ 1000000)) &&
  im.nat 0x18 8 == im.size && im.size % 4096 == 0 && Config.sha384 im.bytes im.size == im.digest &&
  ((List.range 16).all fun j => let c := im.nat (0x50 + j) 1; c == 0 || decide (4 ≤ c ∧ c ≤ 8)) &&
  decide (peers ≤ 1023) && (peers == 0 || decide (4096 * im.nat 0x64 4 + 2 * peers ≤ im.size)) &&
  im.zero 0x62 2 && im.zero 0x6A 2 && im.zero 0x9C 100 && (tmo == 0 || decide (48 ≤ tmo)) &&
  (stackNums.all fun k => let w := im.rsvWord k; bits 30 25 w == 0 && bits 15 9 w == 0) &&
  (v == 3 || (tmo == 0 && stackNums.all fun k => im.rsvWord k == 0))

/-- Types that a recipe needs, and those that its mode rejects (R100, R101). -/
def typesNeeded (v mode : Nat) : List Nat :=
  if mode = 0 then [1, 2, 3, 4, 5, 7, 8, 9, 0xA] else if v = 2 then [1, 2, 7, 0xB] else [1, 2, 7, 0xA, 0xB]

def typesRejected (mode : Nat) : List Nat := if mode = 0 then [0xB] else [3, 4, 6, 9]

/-- Two sections share a byte. -/
def Sec.meets (a b : Sec) : Bool := decide (a.off < b.off + b.len ∧ b.off < a.off + a.len)

/-- The section table (R100). -/
def tableOk (im : Image) : Bool :=
  let secs := im.secs
  let types : List Nat := secs.map fun x => x.typ
  (secs.all fun x => x.rsv == 0 && decide (1 ≤ x.typ ∧ x.typ ≤ 0xB) && decide (4096 ≤ x.off) && decide (x.off + x.len ≤ im.size)) &&
  decide types.Nodup && (secs.zipIdx.all fun a => secs.zipIdx.all fun b => a.2 == b.2 || !a.1.meets b.1) &&
  ((typesNeeded (im.nat 4 1) (im.nat 6 1)).all types.contains) && !((typesRejected (im.nat 6 1)).any types.contains)

/-- A length rounded up to a multiple. -/
def upTo (n m : Nat) : Nat := (n + m - 1) / m * m

/-- Sum of a function over the cells of an image. -/
def sumCells (im : Image) (f : Nat → Nat) : Nat := ((List.range im.cells).map f).foldl (· + ·) 0

/-- Parts of cells lie behind the directory and inside the section, and no two of them overlap. -/
def partsOk (dir len : Nat) (parts : List (Nat × Nat)) : Bool :=
  (parts.all fun p => p.2 == 0 || (decide (dir ≤ p.1) && decide (p.1 + p.2 ≤ len))) &&
  (parts.zipIdx.all fun a => parts.zipIdx.all fun b =>
    a.2 == b.2 || decide (a.1.1 + a.1.2 ≤ b.1.1) || decide (b.1.1 + b.1.2 ≤ a.1.1))

/-- CELL_CAL: directory, padding and words (R138, R419). -/
def calLayoutOk (im : Image) : Bool :=
  let x := im.sec 3
  let dir := upTo (8 * im.cells) 32
  let cells := List.range im.cells
  (cells.all fun n => im.zero (x.off + 8 * n + 6) 2 && decide (1 ≤ (im.calDir n).2 ∧ (im.calDir n).2 ≤ 4096)) &&
  im.zero (x.off + 8 * im.cells) (dir - 8 * im.cells) && x.len == dir + 32 * sumCells im (fun n => (im.calDir n).2) &&
  partsOk dir x.len (cells.map fun n => ((im.calDir n).1, 32 * (im.calDir n).2))

/-- ROUTER_CAL: directory, padding and pages (R103, R419). -/
def pageLayoutOk (im : Image) : Bool :=
  let x := im.sec 4
  let dir := upTo (8 * im.cells) 512
  let cells := List.range im.cells
  (cells.all fun n => im.zero (x.off + 8 * n + 1) 3 && decide (1 ≤ (im.pageDir n).1 ∧ (im.pageDir n).1 ≤ 4) &&
    decide (dir ≤ (im.pageDir n).2 ∧ (im.pageDir n).2 + 2560 * (im.pageDir n).1 ≤ x.len)) &&
  im.zero (x.off + 8 * im.cells) (dir - 8 * im.cells) && x.len == dir + 2560 * sumCells im (fun n => (im.pageDir n).1)

/-- QUIET: directory and entries. -/
def quietLayoutOk (im : Image) : Bool :=
  let x := im.sec 8
  x.len == 8 * im.cells + 8 * sumCells im (fun n => (im.quietDir n).2) &&
  (List.range im.cells).all fun n => (im.quietDir n).2 == 0 ||
    decide (8 * im.cells ≤ (im.quietDir n).1 ∧ (im.quietDir n).1 + 8 * (im.quietDir n).2 ≤ x.len)

/-- Bytes of a LINEAGE section of `k` entries whose entries begin at an address (R277). -/
def lineageLen (im : Image) : Nat → Nat → Nat
  | 0, _ => 0
  | k + 1, a =>
    let n := (4 + 2 * im.nat (a + 2) 2 + 7) / 8 * 8
    n + lineageLen im k (a + n)

/-- Periods of the step program. -/
def totalPeriods (im : Image) : Nat := ((im.each 7 8 im.step).map fun e => e.periods).foldl (· + ·) 0

/-- Bytes of the SEQ section. -/
def seqBytes (im : Image) : Nat :=
  ((im.seqs im.cells (im.sec 0xB).off).map fun x => 16 * (1 + x.2.2.length)).foldl (· + ·) 0

/-- Every section has the length of its layout (R419). -/
def lengthsOk (im : Image) : Bool :=
  let len := fun t => (im.sec t).len
  let static := im.nat 6 1 == 0
  len 1 == 32 * im.nat 0xC 2 && len 2 == 640 * im.cells && len 7 % 8 == 0 &&
  (!im.has 0xA || (decide (8 ≤ len 0xA) && len 0xA == 8 + lineageLen im (im.nat (im.sec 0xA).off 4) ((im.sec 0xA).off + 8))) &&
  (if static then
    calLayoutOk im && pageLayoutOk im && len 5 % 16 == 0 && len 6 % 32 == 0 && quietLayoutOk im &&
    len 9 == 24 * im.cells * totalPeriods im
  else len 0xB == seqBytes im)

/-! ### Code 1: calendar words and router entries -/

/-- An access field (R142 to R144), whether or not it is enabled. -/
def Acc.ok (a : Acc) : Bool :=
  (!a.wr || (decide (a.unit ≤ 3) && !bit 5 a.low)) && (a.cr || !bit 13 a.off)

/-- The griddle field (R146). -/
def GridF.ok (f : GridF) : Bool :=
  f.arstep != 3 && decide (f.fmt ≤ 12) && (!f.sparse || decide (f.fmt ≤ 3) || f.fmt == 9) && (f.mxi == 0 || f.fmt == 9) && f.rsv == 0

/-- The vector, epilogue and steering fields (R148 to R150). -/
def VecF.ok (f : VecF) : Bool := decide (f.vop ≤ 12) && f.rsv == 0
def EpiF.ok (f : EpiF) : Bool := f.erstep != 3 && decide (f.psel ≤ 5) && f.rsv == 0
def SteerF.ok (f : SteerF) : Bool := f.stok != 3 && !(f.stok == 2 && f.sput)

/-- A stored word on its own; `pages` is what the recipe supplies for the cell's router. -/
def wordOk (pages w : Nat) : Bool :=
  match wordKind w with
  | 0 =>
    let o := opOf w
    o.rsv == 0 && o.accs.all Acc.ok && o.grid.ok && o.vec.ok && o.epi.ok && o.steer.ok && (!o.steer.pgv || decide (o.steer.page < pages))
  | 1 => bits 229 0 w == 0
  | 2 => bits 228 0 w == 0
  | _ => false

/-- Loops of one step's words nest at most 4 deep, each body inside what encloses it (R140). `enclosing` holds the words left
in each open body, innermost first. -/
def loopsOk : List Nat → List Nat → Bool
  | [], enclosing => enclosing.isEmpty
  | w :: ws, enclosing =>
    let rest := (enclosing.map fun e => e - 1)
    if wordKind w = 1 then
      let b := loopBody w
      decide (b ≤ ws.length) && (rest.all fun e => decide (b ≤ e)) && decide ((rest.filter fun e => e != 0).length < 4) &&
        loopsOk ws (b :: rest.filter fun e => e != 0)
    else loopsOk ws (rest.filter fun e => e != 0)

/-- The store cut at its STEP words: each with the words behind it. -/
def segments : List Nat → List (Nat × List Nat)
  | [] => []
  | w :: ws =>
    if wordKind w = 2 then
      (w, ws.takeWhile fun v => wordKind v != 2) :: segments ws
    else segments ws

/-- STEP words: the first word of the store, one for each step in order; an alias names a step that is no alias and has no
words of its own (R140). -/
def storeOk (steps : Nat) (ws : List Nat) : Bool :=
  let segs := segments ws
  ((ws.head?.map wordKind) == some 2) && segs.map (fun x => stepIndex x.1) == List.range steps &&
  segs.all fun x =>
    loopsOk x.2 [] && (!stepAlias x.1 ||
      (x.2.isEmpty && match segs[stepTarget x.1]? with
        | some t => !stepAlias t.1
        | none => false))

/-- A router slot entry (R103). Bits [9:0] are reserved and read 0: DESIGN CHOICE, an image that sets one is rejected with code 1
(notes/assumptions/82.md). -/
def slotEntryOk (e : Nat) : Bool :=
  bits 9 0 e == 0 && (if rtOwn e then decide (rtSrc e ≤ 4) && rtFreeVc e == 0 else rtSrc e == 0)

/-- A static recipe uses the rim when it names a port class, or when a route comes in from the die's edge; it then needs a CROSSINGS
section (R100; what counts as use is DESIGN CHOICE, notes/assumptions/85.md). -/
def usesRim (sh : Shape) (r : Recipe) : Bool :=
  (r.portcls.any fun c => c != 0) || r.pagesImg.zipIdx.any fun x =>
    let xy := sh.xy x.2
    x.1.any fun p => p.any fun e =>
      let d := (Dir.all.find? fun d => d.code == rtSrc e.toNat).getD .loc
      rtOwn e.toNat && d != .loc && (neighbour xy.1 xy.2 d).isNone

/-- Port B is named on banks 0 and 1 alone (R143), judged at each word's first issue in windows as the image lays them. -/
def portBOk (r : Recipe) : Bool :=
  (r.calImg.zip r.slotsImg).all fun x =>
    let c : Cell := { slots := x.2.zipIdx.map fun s => (s.2, s.1) }
    x.1.all fun w => wordKind w.toNat != 0 || (opOf w.toNat).accs.all fun a => !a.en || !a.portB || decide (granBank (c.reach 0 a).at_ < 2)

/-- Calendars and router pages of a static recipe (code 1). -/
def wordsOk (r : Recipe) : Bool :=
  portBOk r &&
  ((r.calImg.zip r.pagesImg).all fun x =>
    let ws := x.1.map BitVec.toNat
    (ws.all (wordOk x.2.length)) && storeOk r.fences.length ws) &&
  r.pagesImg.all fun ps => ps.all fun p => p.all fun e => slotEntryOk e.toNat

/-! ### Codes 4 to 7 -/

/-- FP6 or FP4 in a format field (R134). -/
def narrowFmt (f : Nat) : Bool := decide (4 ≤ f ∧ f ≤ 8)

def usesNarrow (r : Recipe) : Bool :=
  (r.calImg.any fun ws => ws.any fun w => wordKind w.toNat == 0 && narrowFmt (opOf w.toNat).grid.fmt) ||
  (r.seqImg.any fun x => x.2.2.any fun w => sqKind w.toNat == 0 && (actOf w.toNat).unit == 0 && narrowFmt (gridOf (actOf w.toNat).uop).fmt) ||
  r.slotsImg.any fun l => l.any fun x => decide (4 ≤ x.math.outfmt.toNat ∧ x.math.outfmt.toNat ≤ 6)

/-- Flags (R134). -/
def State.flagsOk (s : State) (h : Nat) (r : Recipe) : Bool :=
  (!bit 0 r.flags || (s.hob h).grant.test) && (!bit 1 r.flags || s.hearth.narrow) && (bit 1 r.flags || !usesNarrow r)

/-- The client of a crossing is assigned to the hob (R135). -/
def Hob.clientOk (z : Hob) (x : Crossing) : Bool :=
  if x.kind ≤ 1 then decide (x.client < 12) && decide (0 < z.extCount x.client)
  else if x.kind ≤ 3 then (z.lnpOf x.client).isSome
  else if x.kind ≤ 5 then x.client == z.grant.hport.toNat
  else true

/-- Stations (R102, R297, R101): `raw` are the slot and class bytes as they stand; `void` says which cells no position backs. -/
def stationsOk (void : Nat → Bool) (im : Image) (r : Recipe) : Bool :=
  let raw := im.each 1 32 fun a => (im.nat (a + 2) 1, im.nat (a + 3) 1)
  let cells := r.stations.flatMap fun t => (r.stationCells t).map fun n => (n, t.slot)
  decide (r.stations.map fun t => t.id).Nodup &&
  (raw.all fun b => decide (b.1 < 4) && b.2 / 64 != 3 && b.2 / 16 % 4 == 0 && decide (b.2 % 16 ≤ 4) && (r.vmajor == 3 || b.2 / 64 == 0)) &&
  (r.stations.all fun t => decide (1 ≤ t.w ∧ 1 ≤ t.h ∧ t.x0 + t.w ≤ 8 * r.width ∧ t.y0 + t.h ≤ r.height)) &&
  decide cells.Nodup && cells.all fun c => !void c.1

/-- Two windows share a block. -/
def Slot.overlaps (a b : Slot) : Bool :=
  a.valid && b.valid && decide (a.base.toNat < b.base.toNat + b.size.toNat ∧ b.base.toNat < a.base.toNat + a.size.toNat)

/-- A slot record (R51 to R55, R87); `a` is its address. R87 does not say which order the clamp check uses: DESIGN CHOICE, that of R88,
so that +0 lies above −0 (notes/assumptions/82.md). -/
def Hob.slotOk (z : Hob) (im : Image) (static : Bool) (a : Nat) : Bool :=
  let x := im.slotRec a
  let win := im.nat a 4
  let math := im.nat (a + 4) 4
  let desc := (List.range 16).map fun i => im.nat (a + 0x20 + 8 * i) 8
  bits 29 16 win == 0 && bit 7 win == false && im.zero (a + 0x18) 8 &&
  (!x.valid || decide (1 ≤ x.size.toNat ∧ x.base.toNat + x.size.toNat ≤ 128)) &&
  (!(x.valid && x.resident) || z.mapped x.home (4096 * x.size.toNat)) &&
  (desc.all fun d =>
    let r := regionOf d
    bits 61 48 d == 0 && bits 29 19 d == 0 && bits 5 0 d == 0 &&
    (!r.valid || (r.count != 0 && decide (64 * r.base.toNat + 64 * r.grans * r.size ≤ 4096 * x.size.toNat)))) &&
  bits 18 0 math == 0 && decide (x.math.round.toNat ≤ 1 ∧ x.math.act.toNat ≤ 4 ∧ x.math.scale.toNat ≤ 2) &&
  (!static || x.math.group != 3) && !(x.math.round == 1 && x.math.outfmt == 0) &&
  !isNan32 x.clampHi && !isNan32 x.clampLo && decide (ordKey x.clampLo ≤ ordKey x.clampHi)

/-- Region accesses of a calendar word name a valid region and a granule inside its entry (R143). -/
def Op.regionsOk (o : Op) (slots : List Slot) : Bool :=
  o.accs.all fun a => !a.en || !a.cr ||
    (let r := (slots.getD a.slot {}).region (bits 13 10 a.off)
     r.valid && decide (bits 9 0 a.off < r.grans))

/-- The slot records of every cell, and the region accesses of its calendar (code 7). -/
def State.slotsOk (s : State) (h : Nat) (im : Image) (r : Recipe) : Bool :=
  (List.range im.cells).all fun n =>
    let l := r.slotsImg.getD n []
    ([0, 1, 2, 3].all fun i => (s.hob h).slotOk im (r.mode == 0) (im.slotAddr n i)) &&
    ([(0, 1), (0, 2), (0, 3), (1, 2), (1, 3), (2, 3)].all fun p => !(l.getD p.1 {}).overlaps (l.getD p.2 {})) &&
    (r.calImg.getD n []).all fun w => wordKind w.toNat != 0 || (opOf w.toNat).regionsOk l

/-! ### Code 10 (R105) -/

/-- The longest run of owned entries of one output page, counted cyclically. -/
def longestRun (es : List Nat) : Nat :=
  ((es ++ es).foldl (fun (p : Nat × Nat) e => if rtOwn e then (p.1 + 1, max p.2 (p.1 + 1)) else (0, p.2)) (0, 0)).2

/-- One output's page. -/
def outputOk (es : List Nat) : Bool :=
  let free := es.filter fun e => !rtOwn e
  decide (8 ≤ free.length) && decide (2 ≤ (free.filter fun e => decide (rtFreeVc e ≤ 1)).length) && decide (longestRun es ≤ 64)

def freeOk (r : Recipe) : Bool :=
  r.pagesImg.all fun ps => ps.all fun p => (List.range 5).all fun o => outputOk (((p.drop (256 * o)).take 256).map BitVec.toNat)

/-! ### Code 12 (R125, R140, R162) -/

/-- Hob cycles of a segment's calendar, of its alias target for an alias. -/
def segCycles (segs : List (Nat × List Nat)) (x : Nat × List Nat) : Nat :=
  let ws := if stepAlias x.1 then (segs.getD (stepTarget x.1) (0, [])).2 else x.2
  calLen ws.length ws

def fencesOk (im : Image) (r : Recipe) : Bool :=
  decide (1 ≤ r.fences.length ∧ r.fences.length ≤ 4096) &&
  ((im.each 7 8 fun a => im.nat a 8).all fun v => bits 63 33 v == 0 && decide (1 ≤ bits 31 0 v)) &&
  (if r.mode = 1 then r.fences.all fun e => e.periods == 1
   else
    ((List.range r.fences.length).all fun k => decide (r.stepLen k ≤ 20000 * r.mclk)) &&
    r.calImg.all fun ws =>
      let segs := segments (ws.map BitVec.toNat)
      (List.range r.fences.length).all fun k => segCycles segs (segs.getD k (0, [])) == r.stepLen k)

/-! ### Code 13, static part (R113 to R115, R193, R194) -/

/-- A crossing's bound in its range, converted at f_decl (R114). -/
def boundOk (mclk : Nat) (x : Crossing) : Bool :=
  let ps := x.bound * 1000
  match x.kind with
  | 0 => x.bound == 0 || decide (400 * mclk ≤ ps ∧ ps ≤ 40000 * mclk)
  | 4 => x.bound == 0 || decide (2000 * mclk ≤ ps ∧ ps ≤ 1000000 * mclk)
  | _ => x.bound == 0

/-- A reserved window entry of the header is one that the hob has mapped (R194). -/
def Hob.rsvOk (z : Hob) (k w : Nat) : Bool :=
  !bit 31 w || (decide (bits 8 0 w ≤ bits 24 16 w ∧ bits 24 16 w < 352) &&
    (List.range (bits 24 16 w + 1 - bits 8 0 w)).all fun i => (z.ext.get {} (extKey k (bits 8 0 w + i))).valid)

/-- Every block that a static stack crossing names over a pass lies on its client, in a mapped extent, and for a read inside
the reserved window of the image (R193, R194). -/
def Hob.staticOk (z : Hob) (r : Recipe) (x : Crossing) : Bool :=
  (List.range r.passPeriods).all fun rep => (List.range x.blocks).all fun b =>
    let blk : Int := (x.addr : Int) + rep * x.stride + b
    let a := 4096 * blk.toNat
    let w := r.rsv.getD x.client 0
    decide (0 ≤ blk) && relStack a == x.client && (z.devAddr a).isSome &&
    (x.kind == 1 || (bit 31 w && decide (bits 8 0 w ≤ bits 36 28 a ∧ bits 36 28 a ≤ bits 24 16 w)))

/-- A host crossing's static blocks lie at or behind the buffer's start. -/
def hostStaticOk (r : Recipe) (x : Crossing) : Bool :=
  (List.range r.passPeriods).all fun rep => decide (0 ≤ (x.addr : Int) + rep * x.stride)

/-- A crossing descriptor (R113 to R115); `a` is its address in the image. -/
def Hob.crossingOk (z : Hob) (im : Image) (r : Recipe) (a : Nat) : Bool :=
  let x := im.crossing a
  let v := im.nat (a + 0x10) 8
  let reg := ((r.slotsImg.getD x.cell []).getD x.slot {}).region x.region
  decide (x.kind ≤ 5) && decide (x.cell < im.cells) && im.nat (a + 6) 1 / 16 % 4 == 0 && decide (1 ≤ x.blocks ∧ x.blocks ≤ 16) &&
  decide (x.issue < r.periodLen) && boundOk r.mclk x && im.zero (a + 0x1C) 4 && bits 62 36 v == 0 &&
  (!x.computed || (bits 35 13 v == 0 && x.stride == 0)) && reg.valid && reg.entry == 63 && (!x.lands || reg.landing) &&
  (x.computed || !(decide (x.kind ≤ 1)) || z.staticOk r x) && (x.computed || decide (x.kind ≤ 3) || hostStaticOk r x)

def State.crossingsOk (s : State) (h : Nat) (im : Image) (r : Recipe) : Bool :=
  (stackNums.all fun k => (s.hob h).rsvOk k (im.rsvWord k)) && decide (r.crossings.map fun x => x.id).Nodup &&
  (im.each 6 32 fun a => (s.hob h).crossingOk im r a).all id

/-! ### Code 14, static part (R109 to R111, R422) -/

/-- The slack that a station's class asks of its streams (R110). -/
def classSlack (c : Nat) : Nat := if c = 1 then 6 else if c = 2 then 12 else 0

/-- A stream descriptor; `a` is its address. -/
def streamOk (im : Image) (r : Recipe) (a : Nat) : Bool :=
  let m := im.stream a
  let find := fun id => r.stations.find? fun t => t.id == id
  im.nat (a + 7) 1 / 16 % 8 == 0 && im.zero (a + 8) 8 && decide (m.slack ≤ 12) &&
  match find m.src, find m.dst with
  | some p, some d =>
    decide (classSlack p.cls ≤ m.slack ∧ classSlack d.cls ≤ m.slack) && (d.cls == 0 || m.landed) &&
    (!m.landed || (r.stationCells d).all fun n =>
      let x := (r.slotsImg.getD n []).getD d.slot {}
      let g := x.region m.region
      !g.valid || decide (x.winBase + g.base.toNat + g.grans * g.size ≤ 512))
  | _, _ => false

/-- No cell has two landed streams from one producer (R422). -/
def landedApart (r : Recipe) : Bool :=
  (r.slotsImg.zipIdx).all fun c =>
    let mine := [0, 1, 2, 3].filterMap fun i => (r.stationAt c.2 i).map fun t => t.1.id
    decide ((r.streams.filter fun m => m.landed && mine.contains m.dst).map fun m => m.src).Nodup

def streamsOk (im : Image) (r : Recipe) : Bool := (im.each 5 16 (streamOk im r)).all id && landedApart r

/-! ### Code 15, static part (R132) -/

/-- Every bank has two quiet bank-cycles in every 1,024 hob cycles, cyclically over the period. -/
def quietEnough (len : Nat) (qs : List Quiet) : Bool :=
  (List.range 32).all fun b =>
    let cyc := (qs.filter fun q => q.mask.getLsbD b).map fun q => q.cyc
    (List.range len).all fun t =>
      decide (2 ≤ ((List.range 1024).filter fun k => cyc.contains ((t + k) % len)).length)

def quietOk (im : Image) (r : Recipe) : Bool :=
  (List.range im.cells).all fun n =>
    ((List.range (im.quietDir n).2).all fun i => im.zero ((im.sec 8).off + (im.quietDir n).1 + 8 * i + 3) 1) &&
    ((r.quiet.getD n []).all fun q => decide (q.cyc < r.periodLen)) && quietEnough r.periodLen (r.quiet.getD n [])

/-! ### Code 16 (R127) -/

/-- Stack blocks that static crossings of a kind reach in step k. -/
def Recipe.stepBlocks (r : Recipe) (kind k : Nat) : List Int :=
  (List.range (r.fences.getD k {}).periods).flatMap fun j =>
    (r.crossings.filter fun x => x.kind == kind && !x.computed).flatMap fun x =>
      (List.range x.blocks).map fun (b : Nat) => (x.addr : Int) + (r.passPeriod k j : Nat) * x.stride + b

def overlapOk (r : Recipe) : Bool :=
  (List.range r.fences.length).all fun k =>
    let rd := r.stepBlocks 0 k
    (r.stepBlocks 1 k ++ r.stepBlocks 1 (r.next k)).all fun b => !rd.contains b

/-! ### Code 17, LINEAGE (R277) -/

/-- The contributors of a station: itself and every producer of a stream into a contributor. -/
def contributors (streams : List Stream) : Nat → List Nat → List Nat
  | 0, l => l
  | k + 1, l => contributors streams k (l ++ ((streams.filter fun m => l.contains m.dst && !l.contains m.src).map fun m => m.src).dedup)

/-- Same members, each once. -/
def sameSet (a b : List Nat) : Bool := decide a.Nodup && a.all b.contains && b.all a.contains

/-- One entry for each write crossing, with its closure; in sequencer mode none. -/
def lineageOk (im : Image) (r : Recipe) : Bool :=
  !im.has 0xA || (im.zero ((im.sec 0xA).off + 4) 4 &&
    (if r.mode = 1 then r.lineage.isEmpty
     else sameSet (r.lineage.map fun e => e.xng) ((r.crossings.filter fun x => !x.lands).map fun x => x.id) &&
      r.lineage.all fun e => match r.crossings.find? fun x => x.id == e.xng with
        | none => false
        | some x => match r.stationAt x.cell x.slot with
          | none => e.contrib.isEmpty
          | some t => sameSet e.contrib (contributors r.streams r.stations.length [t.1.id])))

/-! ### Code 18 (R158, R165) -/

/-- An ACT word's fields; sends of a version 2 recipe expect generation 0 (R101), and a steering word asks for no router page, for a
sequencer recipe supplies none (R150). -/
def actOk (v : Nat) (slot : Slot) (w : Nat) : Bool :=
  let a := actOf w
  let named := fun (r : Option Nat) => match r with
    | some i => (slot.region i).valid
    | none => true
  bits 49 0 w == 0 && decide (a.unit ≤ 4) && decide (a.pcnt ≤ 32) && named a.in0 && named a.in1 && named a.out &&
  match a.unit with
  | 0 => (gridOf a.uop).ok
  | 1 => (vecOf a.uop).ok
  | 2 => (epiOf a.uop).ok && a.uop / 2 ^ 20 == 0
  | 3 => (steerOf a.uop).ok && !(steerOf a.uop).pgv && a.uop / 2 ^ 11 == 0
  | _ => bits 27 26 a.uop == 0 && (v == 3 || bits 25 18 a.uop == 0)

/-- A word of the SEQ section on its own, whether or not a slot's range holds it: its kind, and the bits that must be 0 (R158). -/
def seqWordOk (v w : Nat) : Bool :=
  match sqKind w with
  | 0 => actOk v {} (w - w / 2 ^ 106 % 2 ^ 15 * 2 ^ 106)
  | 1 => bits 105 0 w == 0 && decide (1 ≤ sqN w)
  | 2 => bits 108 0 w == 0
  | 3 => bits 123 0 w == 0
  | _ => false

/-- Words of one slot's sequencer: kinds and fields, jump targets inside the slot, a CTR before each JUMP, a HALT word. -/
def seqSlotOk (v start count : Nat) (words : List Nat) (slot : Slot) : Bool :=
  let mine := (words.drop start).take count
  count == 0 || (mine.zipIdx.all fun x =>
    match sqKind x.1 with
    | 0 => actOk v slot x.1
    | 1 => bits 105 0 x.1 == 0 && decide (1 ≤ sqN x.1)
    | 2 => bits 108 0 x.1 == 0 && decide (start ≤ sqTgt x.1 ∧ sqTgt x.1 < start + count) &&
      ((mine.take x.2).any fun y => sqKind y == 1 && sqCtr y == sqCtr x.1)
    | 3 => bits 123 0 x.1 == 0
    | _ => false) && mine.any fun y => sqKind y == 3

def seqOk (r : Recipe) : Bool :=
  r.seqImg.zipIdx.all fun x =>
    let words := x.1.2.2.map BitVec.toNat
    decide (words.length ≤ 8192) && words.all (seqWordOk r.vmajor) && [0, 1, 2, 3].all fun i =>
      seqSlotOk r.vmajor (x.1.1.getD i 0) (x.1.2.1.getD i 0) words ((r.slotsImg.getD x.2 []).getD i {})

end Sys2Proof.Machine
end

