-- ==== Sys2Proof/Machine/DryRun.lean ====
section
/-! DEFINITION. The checks of LOAD_RECIPE that evaluate the calendars over the step program (R44 to R48, R54, R104, R106, R107,
R110, R111, R115, R117, R126, R132, R136, R145 to R147, R155, R273, R421, R422): a run of the hob on its own, two passes long,
with every landing filled on time and landed streams at their earliest and at their latest (notes/assumptions/43.md). -/

namespace Sys2Proof.Machine

open Sys2Proof

/-- A landed flit: nominal arrival, slack, producer cell and the two granules it fills. -/
structure Landed where
  arr : Nat := 0
  slack : Nat := 0
  src : Nat := 0
  g0 : Nat := 0
  g1 : Nat := 0
  deriving DecidableEq, Repr

/-- What the evaluation keeps of a cell beside its state: tag counters, tags held with candidates and token, the last MAC of
each accumulator row plus 1, the rows opened in the step, recent landed flits. -/
structure DryCell where
  ctr : Tab Nat := []
  held : List (Nat × Bool × Bool) := []
  macAt : Tab Nat := []
  rows : List Nat := []
  landed : List Landed := []
  deriving DecidableEq, Repr

/-- The evaluation: the run's state, what is kept of cells, flits of each write crossing in the step, codes that failed. -/
structure Dry where
  st : State := {}
  aux : Tab DryCell := []
  flits : Tab Nat := []
  /-- Flits from a die edge that each cell's port has taken in the step: cell × 256 + stop. -/
  edges : Tab Nat := []
  codes : List Nat := []

/-- Note a failed check. -/
def Dry.fail (d : Dry) (code : Nat) (bad : Bool) : Dry := if bad then { d with codes := mark d.codes code true } else d

/-- The state that a command answers with, where it goes on. -/
def after (r : Res) (s : State) : State :=
  match r with
  | .next t => t
  | _ => s

/-! ### One cell in one hob cycle -/

/-- Bank and port of an access. -/
def portKey (r : Reach) : Nat × Bool := (granBank r.at_, r.acc.portB && decide (granBank r.at_ < 2))

/-- Arrivals agree with the fields that consume them (R145 to R150). -/
def consumersOk (op : Op) (as : List Arrival) : Bool :=
  let n := fun u => (feeds as u).length
  (if op.grid.lop = 1 then decide (1 ≤ n 1) else n 1 == 0) &&
  (n 2 == if op.grid.lop = 2 || op.grid.lop = 3 then 1 else 0) && (n 3 == if op.grid.gop = 3 then 2 else 0) &&
  (if op.vec.vop = 1 then decide (1 ≤ n 4) else n 4 == 0) && (n 5 == if op.epi.psel = 0 then 0 else 1) && decide (n 6 ≤ 2) &&
  (n 7 == if op.steer.sput then 2 else if op.steer.stok = 2 then 1 else 0)

/-- The stream queue holds at most 128 B and a row for each MAC (R147). -/
def queueOk (u : Units) (op : Op) (as : List Arrival) : Bool :=
  let len := u.stream.length + 64 * (feeds as 0).length
  decide (len ≤ 128) && (op.grid.gop == 0 || decide (rowBytes op.grid.fmt op.grid.sparse ≤ len))

/-- A write field finds its source ready (R145). -/
def writeReady (u : Units) (cyc : Nat) (inbound : Bool) (a : Acc) : Bool :=
  match a.unit with
  | 0 => u.epi.any fun r => r.ready == cyc && !r.toPort
  | 1 => u.vstore.any fun r => r.ready == cyc
  | 2 => inbound
  | _ => u.steerOut.any fun r => r.ready == cyc

/-- Tag counters used in a cycle: puts and vector tokens at the first, emits at the second (R152). -/
def DryCell.steer (x : DryCell) (f : SteerF) (granTokens : Bool) : Bool × DryCell :=
  let ta := x.ctr.get 0 f.actr
  let te := x.ctr.get 0 f.ectr
  let old := (x.held.find? fun e => e.1 == ta).getD (ta, false, false)
  let adds := f.sput || f.stok == 1
  let dup := (f.sput && old.2.1) || (f.stok == 1 && old.2.2)
  let held1 := if adds then (ta, old.2.1 || f.sput, old.2.2 || f.stok == 1) :: x.held.filter fun e => e.1 != ta else x.held
  let e := held1.find? fun e => e.1 == te
  let short := f.semit && (match e with
    | some y => !y.2.1 || (!y.2.2 && !granTokens)
    | none => true)
  let held2 := if f.semit then held1.filter fun e => e.1 != te else held1
  let used := ((if adds then [f.actr] else []) ++ (if f.semit then [f.ectr] else [])).dedup
  (dup || short || decide (16 < held1.length),
   { x with held := held2, ctr := used.foldl (fun (t : Tab Nat) k => t.put 0 k ((t.get 0 k + 1) % 65536)) x.ctr })

/-- Two landed flits may need port B of one bank in the same cycle, the cells' extra latencies taken apart, or together where
one cell sends both (R111). -/
def Landed.clash (a b : Landed) : Bool :=
  [(a.g0, 0), (a.g1, 1)].any fun x => [(b.g0, 0), (b.g1, 1)].any fun y =>
    granBank x.1 == granBank y.1 &&
    (if a.src = b.src then a.arr + x.2 == b.arr + y.2
     else decide (a.arr + x.2 ≤ b.arr + y.2 + b.slack ∧ b.arr + y.2 ≤ a.arr + x.2 + a.slack))

/-- An access breaks the wait of a landed flit: port B of its bank inside its slack, or a read too early (R111). -/
def Landed.broken (l : Landed) (cyc : Nat) (r : Reach) : Bool :=
  let early := fun g d => !r.acc.wr && r.addr == some g && decide (cyc < l.arr + l.slack + d)
  (r.acc.portB && (granBank r.at_ == granBank l.g0 || granBank r.at_ == granBank l.g1) && decide (cyc ≤ l.arr + l.slack + 1)) ||
  early l.g0 1 || early l.g1 2

/-- A port-A access meets a landed flit on the granule that it fills, at one of its timings (R48, R136). -/
def Landed.hit (l : Landed) (cyc : Nat) (r : Reach) : Bool :=
  let meets := fun g d => r.addr == some g && decide (l.arr + d ≤ cyc ∧ cyc ≤ l.arr + l.slack + d)
  !r.acc.portB && (meets l.g0 0 || meets l.g1 1)

/-- Landed flits of this cycle put off to their latest arrival. -/
def Cell.defer (c : Cell) (streams : List Stream) (cyc : Nat) : Cell :=
  let slackOf := fun (f : Flit) (k : Nat × Nat) => match f.src with
    | .station p _ => ((streams.find? fun m => m.landed && m.src == p && (c.slot k.1).station == some m.dst).map fun m => m.slack).getD 0
    | _ => 0
  let fs := (c.portNow cyc).filterMap fun f => (c.landRegion streams f.src).map fun k => (f, k)
  let half := fun (f : Flit) (k : Nat × Nat) (at_ i : Nat) =>
    ({ cyc := at_, slot := k.1, region := k.2, gran := { data := bytesAt f.data (64 * i) 64 } } : LandWrite)
  { c with portIn := c.portIn.filter fun x => !(x.cyc == cyc && fs.any fun y => y.1 == x.flit),
           landWrites := c.landWrites ++ fs.flatMap fun y =>
             let at_ := cyc + slackOf y.1 y.2
             [half y.1 y.2 at_ 0, half y.1 y.2 (at_ + 1) 1] }

/-- The flit that lands in this cycle at its earliest, with what R111 asks of it; none for one that no stream names. -/
def Cell.landedNow (c after : Cell) (streams : List Stream) (cyc : Nat) (lands : List (Nat × Nat × Nat)) (f : Flit) : Option Landed :=
  match c.landRegion streams f.src, f.src with
  | some (sl, ri), .station p m =>
    let x := after.slot sl
    let r := x.region ri
    let slack := ((streams.find? fun y => y.landed && y.src == p && (c.slot sl).station == some y.dst).map fun y => y.slack).getD 0
    let g0 := ((lands.filter fun l => l.1 == sl && l.2.1 == ri).getLast?.map fun l => l.2.2).getD 0
    some { arr := cyc, slack := slack, src := m, g0 := g0, g1 := x.entryGran r r.tail.toNat r.landed }
  | _, _ => none

/-- The address reads of computed crossings that fall in this cycle at a cell (R421): slot and granule offset. -/
def Hob.addrReads (z : Hob) (n : Nat) : List Crossing :=
  let len := z.rcp.periodLen
  z.rcp.crossings.filter fun x => x.computed && x.cell == n && len != 0 && (z.inPeriod + 34) % len == x.issue % len

/-- One cell's issue in the cycle, with every check on it. -/
def Dry.cell (h : Nat) (late : Bool) (d : Dry) (n : Nat) : Dry :=
  let s := d.st
  let z := s.hob h
  let r := z.rcp
  let p := s.posOf h n
  let cyc := z.clk.cyc
  let c0 := s.cell p
  let (w, k, _, _) := c0.fetch z.clk.step z.clk.inStep
  let op := opOf w
  let takes := op.accs.any fun a => a.en && a.wr && a.unit == 2
  let c := if late && !takes then c0.defer r.streams cyc else c0
  let s1 := s.setCell p c
  let i := (s1.issueAt z c n).1
  let as := c.units.arrivals.filter fun a => a.ready ≤ cyc
  let a := d.aux.get {} n
  let reads := i.accs.filter fun x => !x.acc.wr && x.addr.isSome && !x.under
  let resident := fun (x : Reach) => (c.slot x.acc.slot).resident
  let fs := c.portNow cyc
  let free := if takes then fs.drop 1 else fs
  let landed := free.filterMap fun f => c.landedNow i.cell r.streams cyc i.lands f
  let recent := (a.landed.filter fun l => decide (cyc ≤ l.arr + l.slack + 16))
  let all := if late then [] else recent ++ landed
  let row := accKey op.grid.abank ((op.grid.arow + k * op.grid.arstep) % 32)
  let drained := accKey op.epi.ebank ((op.epi.erow + k * op.epi.erstep) % 32)
  let (badTag, a1) := a.steer op.steer (c.store.any fun v => wordKind v.toNat == 0 && (opOf v.toNat).steer.stok == 2)
  let addr := z.addrReads n
  let addrGran := fun (x : Crossing) => c.addrGran x.slot (x.addr % 8192)
  let keys := i.accs.map portKey ++ addr.filterMap fun x => (addrGran x).map fun g => (granBank g, false)
  let quietIn := fun t b => (r.quiet.getD n []).any fun q => r.periodLen != 0 && q.cyc == (z.inPeriod + t) % r.periodLen && q.mask.getLsbD b
  let quietNow := quietIn 0
  let touched := i.accs.map (fun x => granBank x.at_) ++ i.lands.map fun l => granBank l.2.2
  let xflit : Option Crossing := match i.flit with
    | some f => match f.src with
      | .crossing id => r.crossings.find? fun x => x.id == id
      | _ => none
    | none => none
  let sent := match xflit with
    | some x => d.flits.get 0 x.id
    | none => 0
  let d1 := { d with
    st := after (execCalWordIssue (Pos.ofIdx p) [] s1) s1,
    aux := d.aux.put {} n { a1 with
      macAt := if op.grid.gop = 0 then a1.macAt else a1.macAt.put 0 row (cyc + 1),
      rows := if op.grid.gop ≤ 1 then a1.rows else mark a1.rows row true, landed := if late then [] else recent ++ landed },
    flits := match xflit with
      | some x => d.flits.put 0 x.id (sent + 1)
      | none => d.flits }
  let d2 := d1.fail 1 ((op.accs.map (c.reach k)).any fun x => x.acc.portB && decide (2 ≤ granBank x.at_))
  let d3 := d2.fail 7 (i.accs.any fun x => x.bound)
  let d4 := d3.fail 8 (!decide keys.Nodup || i.cell.flags.busy || (i.accs.any fun x => all.any fun l => l.hit cyc x) || !consumersOk op as || !queueOk c.units op as ||
    (i.accs.any fun x => x.acc.wr && !writeReady c.units cyc (!fs.isEmpty) x.acc) ||
    (!(feeds as 6).isEmpty && c.units.epi.any fun x => x.ready == cyc && x.toPort) ||
    (op.epi.een && a.macAt.get 0 drained != 0 && decide (cyc + 1 < a.macAt.get 0 drained + 8)) || (op.epi.een && op.grid.gop != 0 && row == drained) ||
    (addr.any fun x => match addrGran x with
      | some g => quietNow (granBank g)
      | none => false))
  let d5 := d4.fail 11 (i.raised.contains stUnderrun || i.raised.contains stOverrun || badTag ||
    (reads.any fun x => !resident x && !c.wrote.contains (x.addr.getD 0)) || (i.accs.any fun x => x.acc.wr && resident x) ||
    (op.grid.gop == 1 && !a.rows.contains row) || (op.epi.een && !a.rows.contains drained) ||
    (addr.any fun x => match addrGran x with
      | some g => !(c.slot x.slot).resident && !c.wrote.contains g
      | none => false))
  let d6 := d5.fail 13 ((addr.any fun x => (addrGran x).isNone) || (match xflit with
    | some x => i.outs.all (fun o => o.2 != 2) || (sent % (32 * x.blocks) == 0 && z.inPeriod != x.issue)
    | none => false))
  let d7 := d6.fail 14 ((free.any fun f => (c.landRegion r.streams f.src).isNone) ||
    (i.accs.any fun x => all.any fun l => l.broken cyc x) ||
    (landed.any fun l => recent.any fun m => m.clash l))
  d7.fail 15 (touched.any quietNow || landed.any fun l => (List.range (l.slack + 1)).any fun t =>
    quietIn t (granBank l.g0) || quietIn (t + 1) (granBank l.g1))

/-! ### One router output in one hob cycle -/

/-- Flits that landing crossings of cell n bring by a stop in a period (R33, R115). -/
def Hob.landFlits (z : Hob) (n stop : Nat) : Nat :=
  (z.rcp.crossings.filter fun y => y.lands && y.cell == n && (z.stopOf y).index == stop).foldl (fun m y => m + 32 * y.blocks) 0

/-- One output: a route leaves the rectangle only at a die edge that borders it (R106 and the limits of its section); a write
crossing's flit leaves the mesh at that crossing's stop, and at no cell port (R33, R115); a flit that entered at an edge
stop reaches only a cell for which a landing crossing enters there, and leaves the mesh nowhere (R422). -/
def Dry.out (h : Nat) (d : Dry) (x : Nat × Dir) : Dry :=
  let s := d.st
  let z := s.hob h
  let n := x.1
  let o := x.2
  let p := s.routerPos h n
  let r := s.router p
  let e := (r.slots.get 0 (rtKey o.code r.page (z.clk.cyc % 256))).toNat
  let (lx, ly) := z.rect.xy n
  let src := (Dir.all.find? fun d => d.code == rtSrc e).getD .loc
  let flit := (r.inputs.find? fun f => f.cyc == z.clk.cyc && f.inp == src).map fun f => f.flit
  let xng := match flit with
    | some f => match f.src with
      | .crossing id => z.rcp.crossing id
      | _ => none
    | none => none
  let outside := rtOwn e && o != .loc && (match neighbour lx ly o with
    | some (a, b) => (z.rect.num a b).isNone
    | none => false)
  let astray := rtOwn e && (match xng with
    | some y =>
      let xy := z.rect.xy y.cell
      o == .loc || ((neighbour lx ly o).isNone && exitStop lx ly o != stopFor xy.1 xy.2 (z.clientOf y))
    | none => false)
  let stop : Option Nat := match flit with
    | some f => match f.src with
      | .edge t => some t
      | _ => none
    | none => if (neighbour lx ly src).isNone && src != .loc then some (exitStop lx ly src).index else none
  let leaves := o != Dir.loc && (neighbour lx ly o).isNone
  let lost := rtOwn e && (match stop with
    | some t => leaves || (o == .loc && z.landFlits n t == 0)
    | none => false)
  let d0 := match stop with
    | some t => if rtOwn e && o == Dir.loc then { d with edges := d.edges.put 0 (256 * n + t) (d.edges.get 0 (256 * n + t) + 1) } else d
    | none => d
  (({ d0 with st := after (execRouterSlotForward (Pos.ofIdx p) o [] s) s }.fail 9 outside).fail 13 astray).fail 14 lost

/-! ### Crossings, periods, fences -/

/-- A landing crossing issues: its entries are reserved and count as filled at once (R117, R136). -/
def Dry.issue (h : Nat) (d : Dry) (x : Crossing) : Dry :=
  let s := d.st
  let z := s.hob h
  if !x.lands || z.inPeriod ≠ x.issue then d
  else
    let p := s.posOf h x.cell
    (List.range x.blocks).foldl (fun (d : Dry) _ =>
      let c := d.st.cell p
      if ((c.slot x.slot).region x.region).isFull then d.fail 13 true
      else
        let (e, c1) := c.reserve x.slot x.region
        { d with st := d.st.setCell p (c1.fillEntry x.slot x.region e (zeroBytes 4096) (fun _ => false) fun _ => false) }) d

/-- The checksums of an ended period against the image (R107). -/
def Dry.sums (h : Nat) (d : Dry) (n : Nat) : Dry :=
  let s := d.st
  let z := s.hob h
  let p := s.posOf h n
  let rp := s.routerPos h n
  let cells := z.rect.cells
  let bad := ((s.cell p).crcDue.any fun e => crcOut e.2.2 != z.rcp.expected cells e.2.1 n 0) ||
    ((s.router rp).crcDue.any fun e => e.2.2.zipIdx.any fun w => crcOut w.1 != z.rcp.expected cells e.2.1 n (w.2 + 1))
  { d with st := (s.modCell p fun c => { c with crcDue := [] }).modRouter rp fun r => { r with crcDue := [] } }.fail 17 bad

/-- What a cell must leave at a fence: regions, stream queue, steering window and half-landed entries empty (R126, R147, R155). -/
def Dry.clean (h : Nat) (d : Dry) (n : Nat) : Dry :=
  let c := d.st.cell (d.st.posOf h n)
  let a := d.aux.get {} n
  let full := [0, 1, 2, 3].any fun i => (c.slot i).regions.any fun r => r.2.valid && (!r.2.isEmpty || r.2.landed != 0)
  { d with aux := d.aux.put {} n { a with ctr := [], held := [], rows := [] } }.fail 11 (full || !c.units.stream.isEmpty || !a.held.isEmpty)

/-- The fence: every write crossing has sent its blocks once a period, no entry fed from a die edge has lacked a flit of a landing (R106),
and the next step begins. -/
def Dry.fence (h : Nat) (d : Dry) : Dry :=
  let z := d.st.hob h
  let r := z.rcp
  if !z.atFence then d
  else
    let d1 := (d.st.nums h).foldl (Dry.clean h) d
    let periods := (r.fences.getD z.clk.step {}).periods
    let short := r.crossings.any fun x => !x.lands && d.flits.get 0 x.id != 32 * x.blocks * periods
    let idle := d.edges.any fun e => decide (z.landFlits (e.1 / 256) (e.1 % 256) * periods < e.2)
    let k := r.next z.clk.step
    let s1 := (d1.st.modCells h fun c => c.fence k).modHob h fun y =>
      { y with clk := { y.clk with stepStart := y.clk.cyc, step := k, fence := y.clk.fence + 1 } }
    ({ d1 with st := s1, flits := [], edges := [] }.fail 13 short).fail 9 idle

/-- One hob cycle of the whole hob. -/
def Dry.cycle (h : Nat) (late : Bool) (d : Dry) : Dry :=
  let nums := d.st.nums h
  let s1 := nums.foldl (fun s n => let q := s.routerPos h n; after (execRouterPageSwitch (Pos.ofIdx q) s) s) d.st
  let d1 := (s1.hob h).rcp.crossings.foldl (Dry.issue h) { d with st := s1 }
  let d2 := nums.foldl (Dry.cell h late) d1
  let d3 := (nums.flatMap fun n => Dir.all.map fun o => (n, o)).foldl (Dry.out h) d2
  let d4 := d3.fail 9 (nums.any fun n => (d3.st.cell (d3.st.posOf h n)).flags.fault)
  let s2 := (d4.st.modHob h fun y => { y with clk := { y.clk with cyc := y.clk.cyc + 1 } }).endPeriod h
  let d5 := nums.foldl (Dry.sums h) { d4 with st := s2 }
  d5.fence h

/-- A run of hob cycles. -/
def Dry.run (h : Nat) (late : Bool) : Nat → Dry → Dry
  | 0, d => d
  | k + 1, d => Dry.run h late k (d.cycle h late)

/-- The hob by itself, loaded with the recipe and at the first cycle of its first step. -/
def State.dryStart (s : State) (h : Nat) (r : Recipe) : Dry :=
  let s1 := (s.clearCells h).program h r
  { st := ({ s1 with txns := [] }).modHob h fun y => { y with
      st := .running, clk := { live := true }, hold := {}, run := {}, replay := {}, xng := [], closing := [] } }

/-- The codes that the evaluation over two passes of the step program fails, at both timings of landed streams. -/
def State.dryCodes (s : State) (h : Nat) (r : Recipe) : List Nat :=
  let n := 2 * ((List.range r.fences.length).map r.stepLen).foldl (· + ·) 0
  (Dry.run h false n (s.dryStart h r)).codes ++ (Dry.run h true n (s.dryStart h r)).codes ++
  (if r.lastPages.all fun g => g == 0 then [] else [9])

/-! ### The check code (R135) -/

/-- The checks in order: the code of each and whether it passes; `void` names the cells that no position backs (R297). -/
def State.recipeChecks (s : State) (h : Nat) (im : Image) (r : Recipe) (void : Nat → Bool) : List (Nat × Bool) :=
  let z := s.hob h
  let static := r.mode == 0
  let bad := if static && (im.w, im.h) == (z.rect.w, z.rect.h) then s.dryCodes h r else []
  let ok := fun c => !bad.contains c
  let only := fun (b : Bool) => !static || b
  [(1, only (wordsOk r && (im.secs.any (fun x => x.typ == 6) || !usesRim z.rect r)) && ok 1), (2, decide (800 ≤ r.mclk ∧ r.mclk ≤ 1600)), (3, (im.w, im.h) == (z.rect.w, z.rect.h)),
   (4, s.flagsOk h r), (5, ((s.setHob h { z with recipe := some r }).portFell h).isNone && r.crossings.all z.clientOk),
   (6, stationsOk void im r), (7, s.slotsOk h im r && ok 7), (8, ok 8), (9, ok 9), (10, only (freeOk r)), (11, ok 11),
   (12, fencesOk im r), (13, s.crossingsOk h im r && ok 13), (14, only (streamsOk im r) && ok 14), (15, only (quietOk im r) && ok 15),
   (16, only (overlapOk r)), (17, lineageOk im r && ok 17), (18, static || seqOk r)]

/-- The code of the first failed check, 0 when all pass. -/
def State.recipeCode (s : State) (h : Nat) (im : Image) (void : Nat → Bool) : Nat :=
  if !headerOk im || !tableOk im || !lengthsOk im then 1
  else (((s.recipeChecks h im im.recipe void).find? fun c => !c.2).map fun c => c.1).getD 0

end Sys2Proof.Machine
end

