-- ==== Sys2Proof/Machine/Place.lean ====
section
/-! DEFINITION. Health of positions, lids, taint and placement: what the hearth does when a position fails (R16, R18, R22, R23,
R112, R276 to R308). -/

namespace Sys2Proof.Machine

open Sys2Proof

/-! ### Condition keys and scores (R282, R283, R301) -/

/-- Temperature bucket of a reading in 0.25 °C. -/
def tempBucket (q : Nat) : Nat :=
  let c := q / 4
  if c < 45 then 0 else if c < 60 then 1 else if c < 70 then 2 else if c < 80 then 3 else if c < 88 then 4 else if c ≤ 92 then 5 else 6

/-- VCORE bin of a setting in mV, MCLK bin of a clock in MHz. -/
def voltBin (mv : Nat) : Nat := if mv < 700 then 10 else if mv < 800 then (mv - 700) / 10 else 11
def clkBin (mhz : Nat) : Nat := min 7 ((mhz - 800) / 100)

/-- The kind of the station that a position's work belongs to; 7 for none. Which station counts for a cell that serves several R282 does
not say: DESIGN CHOICE, that of the lowest task slot (notes/assumptions/82.md). -/
def State.kindAt (s : State) (p : Nat) : Nat :=
  match s.workAt p with
  | none => 7
  | some (h, _) =>
    match [0, 1, 2, 3].filterMap fun i => ((s.cell p).slot i).station with
    | id :: _ => (((s.hob h).rcp.stations.find? fun t => t.id == id).map fun t => t.kind).getD 7
    | [] => 7

/-- The condition key in force at a position: temperature, VCORE, MCLK, station class. -/
def State.condKey (s : State) (p : Nat) : List Nat :=
  let pos := Pos.ofIdx p
  [tempBucket (s.sensors.rack.get 0 pos.rack.idx), voltBin (s.pins.vcore.get 0 pos.quarter), clkBin s.damper.mclk.toNat, s.kindAt p]

/-- ln 2 in fixed point, as 2 artanh(1/3). -/
def fxLn2 : Nat := (List.range 130).foldl (fun a k => a + 2 * fxOne / ((2 * k + 1) * 3 ^ (2 * k + 1))) 0

/-- A score, in units of 2⁻²⁰, `dt` seconds later: it halves in 604,800 s (R301). -/
def decayScore (score dt : Nat) : Nat := if dt = 0 then score else score * fxExpNeg (fxLn2 * dt / 604800) / fxOne

def Health.decayed (x : Health) (now : Nat) : Health := { x with score := decayScore x.score (now - x.scoreAt), scoreAt := now }

/-- A score in whole units, 0 to 1,000. -/
def scoreUnit : Nat := 2 ^ 20
def Health.points (x : Health) : Nat := x.score / scoreUnit

/-- The condition key of a record. -/
def Hist.key (e : Hist) : List Nat := [e.temp.toNat, e.volt.toNat, e.clk.toNat, e.kind.toNat]

/-- Records of failed tests, and fault events; injected errors have weight 0 and are none (R283). -/
def Hist.testFail (e : Hist) : Bool := [0x40, 0x42, 0x44].contains e.code.toNat
def Hist.isFault (e : Hist) : Bool := decide (e.code.toNat < 0x40) && e.wt != 0

/-- The classes of R283. -/
inductive FaultClass where
  | transient | conditional | permanent
  deriving DecidableEq, Repr

/-- Events of the last seven days. -/
def Health.recent (x : Health) (now : Nat) : List Hist := x.hist.filter fun e => decide (now < e.time.toNat + 604800)

/-- The classification of a position (R283). -/
def Health.classify (x : Health) (now : Nat) : FaultClass :=
  let recent := x.recent now
  let faults := recent.filter Hist.isFault
  let keys := (faults.map Hist.key).dedup
  let first := faults.foldl (fun m e => min m e.time.toNat) now
  let others := (x.passKeys.filter fun k => decide (first ≤ k.1) && !keys.contains k.2).map fun k => k.2
  if (recent.any fun e => e.testFail || (e.isFault && e.out == 2)) then .permanent
  else if decide (2 ≤ faults.length) && keys.length == 1 && decide (2 ≤ others.dedup.length) then .conditional
  else if 3 ≤ faults.length then .permanent
  else .transient

/-- The matching set of recent fault events (R285). -/
def Health.condSet (x : Health) (now : Nat) : CondSet :=
  let keys := ((x.recent now).filter Hist.isFault).map Hist.key
  let part := fun i => (keys.map fun k => k.getD i 0).dedup
  { temp := part 0, volt := part 1, clk := part 2, kind := part 3 }

/-- The matching set in force (R285, R303): of the recent fault events, or everything where the expulsion budget has put off a lid. -/
def Health.condNow (x : Health) (now : Nat) : CondSet := if x.cond.all then x.cond else x.condSet now

/-- A history record of now. -/
def State.histRec (s : State) (p code weight unit : Nat) : Hist :=
  let k := s.condKey p
  { time := BitVec.ofNat 32 s.lifeS, code := BitVec.ofNat 8 code, temp := BitVec.ofNat 3 (k.getD 0 0), volt := BitVec.ofNat 4 (k.getD 1 0),
    clk := BitVec.ofNat 3 (k.getD 2 0), kind := BitVec.ofNat 3 (k.getD 3 0), unit := BitVec.ofNat 12 unit, wt := BitVec.ofNat 16 weight }

def State.addHist (s : State) (p : Nat) (e : Hist) : State := s.modPos p fun x => { x with hist := e :: x.hist }

/-! ### Taint (R276 to R280) -/

/-- The placement log, from the copy whose controller is not in reset (R190, R278). -/
def State.placesNow (s : State) : List PlaceRec := if (s.stack 0).resetting then s.places6 else s.places

/-- The lineage record of a hob, from the copy whose controller is not in reset (R190, R278). -/
def State.lineageOf (s : State) (h : Nat) : List LinRun := if (s.stack 0).resetting then (s.hob h).lineage6 else (s.hob h).lineage

/-- A run as the tables hold it: 32 B with its CRC-32C (R278). -/
def LinRun.bytes (r : LinRun) : List Byte :=
  withCrc (leBytes 8 r.first ++ leBytes 8 r.last ++ leBytes 4 r.epoch ++ leBytes 8 r.digest.toNat ++ zeroBytes 4) 28

/-- The gap of a rack during an epoch: later shift changes of the placement log undone. -/
def State.gapAt (s : State) (rack epoch : Nat) : Nat :=
  let later := s.placesNow.filter fun r => r.rack == rack && !r.bridge && decide (epoch < r.epoch)
  match later.getLast? with
  | some r => r.old
  | none => (s.rack rack).gap.toNat

/-- The cell of a hob that a position backed during an epoch: in its own rack by that epoch's gap, or over a bridge. -/
def State.backedAt (s : State) (h p epoch : Nat) : Option Nat :=
  let pos := Pos.ofIdx p
  let g := s.gapAt pos.rack.idx epoch
  let i := pos.inRack
  let own := if i = g then none
    else (s.hob h).rect.num (8 * pos.rack.k.val + (if i < g then i else i - 1)) pos.py.val
  let spans := s.placesNow.filter fun r => r.bridge && r.hob == h && decide (r.epoch ≤ epoch)
  let bridged := (spans.map fun r => r.cell).dedup.find? fun n =>
    match spans.find? fun r => r.cell == n with
    | some r => r.new == p + 1
    | none => false
  match bridged with
  | some n => some n
  | none => own

/-- The recipe of a run: the one loaded, or an earlier one whose sections the hearth has kept; DESIGN CHOICE
(notes/assumptions/82.md). -/
def Hob.recipeOf (h : Hob) (d : W64) : Option Recipe :=
  (h.recipe.toList ++ h.loaded).find? fun r => BitVec.ofNat 64 (r.digest.toNat % 2 ^ 64) == d

/-- The program step of a committed fence: counted back from the next step under the recipe in force, and from the start of an earlier
recipe's first run. -/
def Hob.stepOfFence (h : Hob) (r : Recipe) (d : W64) (f : Nat) : Nat :=
  let n := max r.fences.length 1
  if h.recipe == some r then (h.nextStep + n * h.fenceLast + n + f - (h.fenceLast + 1)) % n
  else (f - ((h.lineage.filter fun x => x.digest == d).getLast?.map LinRun.first).getD f) % n

/-- The first block that a crossing names at a fence: the first period of that fence's step (R421). -/
def Hob.blockAtFence (h : Hob) (r : Recipe) (d : W64) (x : Crossing) (f : Nat) : Nat :=
  if x.computed then 0 else ((x.addr : Int) + (r.passPeriod (h.stepOfFence r d f) 0 : Nat) * x.stride).toNat

/-- A taint entry: crossing, fences, how it was tainted, the station, and the first block of the first fence. -/
structure Taint where
  xng : Crossing := {}
  first : Nat := 0
  last : Nat := 0
  direct : Bool := false
  comp : Bool := false
  station : Nat := 0xFFFF
  addr : Nat := 0
  deriving DecidableEq, Repr

/-- An entry of a report: 32 B (R280). -/
def Taint.bytes (t : Taint) : List Byte :=
  leBytes 8 t.first ++ leBytes 8 t.last ++ leBytes 2 0xFFFF ++ leBytes 2 t.xng.id ++ leBytes 1 t.xng.kind ++
  leBytes 1 ((if t.direct then 1 else 2) + (if t.comp then 4 else 0)) ++ leBytes 2 t.station ++ leBytes 8 t.addr

/-- Two block ranges meet. -/
def rangesMeet (a b : Int × Int) : Bool := decide (a.1 ≤ b.2 ∧ b.1 ≤ a.2)

/-- Blocks a stack crossing reaches over a pass. -/
def Recipe.rangeOf (r : Recipe) (x : Crossing) : Int × Int :=
  let last : Int := (x.addr : Int) + ((r.fences.map fun f => f.periods).foldl (· + ·) 0 - 1 : Nat) * x.stride
  (min (x.addr : Int) last, max (x.addr : Int) last + (x.blocks : Int) - 1)

/-- The static ranges of the stack writes among tainted crossings (R279). -/
def Recipe.taintRanges (r : Recipe) (l : List Taint) : List (Int × Int) :=
  (l.filter fun t => t.xng.kind == 1 && !t.xng.computed).map fun t => r.rangeOf t.xng

/-- A stack read at a computed address (R279). -/
def Recipe.computedRead (r : Recipe) : Bool := r.crossings.any fun x => x.kind == 0 && x.computed

/-- Write crossings that become tainted in a step and are not listed yet (R279): those whose contributors meet the stations that land a
tainted range; with a computed read, all of them. -/
def Recipe.spread (r : Recipe) (ranges : List (Int × Int)) (have_ : List Taint) (f last : Nat) : List Taint :=
  let reads := r.crossings.filter fun x => x.kind == 0 && !x.computed && ranges.any fun a => rangesMeet a (r.rangeOf x)
  let lands := reads.filterMap fun x => (r.stationAt x.cell x.slot).map fun t => t.1.id
  let comp := r.computedRead
  let new := r.crossings.filter fun x => !x.lands && !(have_.any fun t => t.xng == x) &&
    (comp || r.lineage.any fun e => e.xng == x.id && e.contrib.any lands.contains)
  new.map fun x => { xng := x, first := f, last := last, comp := comp }

/-- All indirect taint of the committed steps from f to last under one recipe; it stops spreading when no new write is reached. -/
def Recipe.spreadAll (r : Recipe) : Nat → List (Int × Int) → List Taint → Nat → Nat → List Taint
  | 0, _, l, _, _ => l
  | k + 1, ranges, l, f, last =>
    if last < f then l
    else
      let new := r.spread ranges l f last
      if new.isEmpty then l else r.spreadAll k (ranges ++ r.taintRanges new) (l ++ new) (f + 1) last

/-- The writes that a position taints directly in a run: in static mode those whose contributors meet its stations; in sequencer mode
every one (R279). -/
def Recipe.direct (r : Recipe) (v : LinRun) (st : List Nat) : List Taint :=
  (r.crossings.filter fun x => !x.lands).filterMap fun x =>
    if r.mode = 1 then some { xng := x, first := v.first, last := v.last, direct := true, station := st.headD 0xFFFF }
    else match r.lineage.find? fun e => e.xng == x.id with
      | some e => (e.contrib.find? st.contains).map fun q => { xng := x, first := v.first, last := v.last, direct := true, station := q }
      | none => none

/-- The taint of one run in which the position backed cell n, in its own later steps and in the runs after it, oldest first (R279). -/
def Hob.taintRun (h : Hob) (v : LinRun) (n : Nat) (later : List LinRun) : List Taint :=
  match h.recipeOf v.digest with
  | none => []
  | some r =>
    let st := [0, 1, 2, 3].filterMap fun i => (r.stationAt n i).map fun (t : Station × Nat) => t.1.id
    let located := fun (r : Recipe) (d : W64) (l : List Taint) => l.map fun t => { t with addr := h.blockAtFence r d t.xng t.first }
    let d := r.direct v st
    let own := r.spreadAll r.crossings.length (r.taintRanges d) d (v.first + 1) v.last
    (later.foldl (fun (a : List (Int × Int) × List Taint) w => match h.recipeOf w.digest with
      | none => a
      | some q =>
        let l := q.spreadAll q.crossings.length a.1 [] w.first w.last
        (a.1 ++ q.taintRanges l, a.2 ++ located q w.digest l)) (r.taintRanges own, located r v.digest own)).2

/-- Entries of one crossing and kind whose fences adjoin are one. -/
def mergeTaint (l : List Taint) : List Taint :=
  l.foldl (fun (acc : List Taint) t =>
    match acc.findIdx? fun (u : Taint) => (u.xng, u.direct, u.comp, u.station) == (t.xng, t.direct, t.comp, t.station) &&
        decide (t.first ≤ u.last + 1 ∧ u.first ≤ t.first) with
    | some i => acc.modify i fun u => { u with last := max u.last t.last }
    | none => acc ++ [t]) []

/-- When a position stopped carrying a hob's work after an epoch in which it did, in device time; now where it still carries it (R276,
R280). -/
def State.stoppedAt (s : State) (h p epoch : Nat) : Nat :=
  match s.placesNow.reverse.find? fun r => decide (epoch < r.epoch) && (s.backedAt h p r.epoch).isNone with
  | some r => s.timeMs - (s.lifeMs - r.time)
  | none => s.timeMs

/-- The runs of a hob, oldest first and from the first fence after the position's last clean test on, in which the position backed a cell
of it (R276, R279). -/
def State.taintedRuns (s : State) (h p : Nat) : List (LinRun × Nat) :=
  let cf := (s.hob h).cleanFence.get 0 p
  (s.lineageOf h).reverse.filterMap fun r =>
    if cf < r.last then (s.backedAt h p r.epoch).map fun n => ({ r with first := max r.first (cf + 1) }, n) else none

/-- LATE_TAINT for one hob (R276, R279, R280). -/
def State.taintHob (s : State) (h p cause : Nat) : State :=
  let z := s.hob h
  let runs := s.taintedRuns h p
  match runs.getLast? with
  | none => s
  | some newest =>
    let after_ := fun (v : LinRun) =>
      ((s.lineageOf h).reverse.dropWhile fun w => (w.last, w.epoch, w.digest) != (v.last, v.epoch, v.digest)).drop 1
    let all := mergeTaint (runs.flatMap fun e => z.taintRun e.1 e.2 (after_ e.1))
    let steps := runs.flatMap fun e => (if e.1.first < e.1.last then [e.1] else []) ++ after_ e.1
    let met := fun (d : W64) (f : Recipe → Bool) => match z.recipeOf d with
      | some r => f r
      | none => false
    let flags := (if runs.any fun e => met e.1.digest fun r => r.mode == 1 then 1 else 0) +
      (if steps.any fun w => met w.digest Recipe.computedRead then 2 else 0) +
      (if s.resets.linLost || decide (z.cleanFence.get 0 p < z.linOver) || runs.any fun e => (z.recipeOf e.1.digest).isNone then 4 else 0)
    let spans := if all.isEmpty then runs.map fun e => (e.1.first, e.1.last) else all.map fun t => (t.first, t.last)
    let first := spans.foldl (fun m e => min m e.1) z.fenceLast
    let last := spans.foldl (fun m e => max m e.2) 0
    let (q, s1) := s.nextReport
    let pos := Pos.ofIdx p
    let cleanMs := s.timeMs - (s.lifeMs - (s.pos p).cleanAt)
    let bytes := leBytes 8 q ++ leBytes 1 1 ++ leBytes 1 h ++ leBytes 2 cause ++ leBytes 2 (pos.px.val * 64 + pos.py.val) ++ zeroBytes 2 ++
      leBytes 8 cleanMs ++ leBytes 8 (s.stoppedAt h p newest.1.epoch) ++ leBytes 8 first ++ leBytes 8 last ++ leBytes 4 all.length ++
      leBytes 4 flags ++ zeroBytes 8 ++ all.flatMap Taint.bytes
    s1.report h stLateTaint q (withCrc bytes 0x38)

/-- LATE_TAINT for every hob that a position backed. -/
def State.lateTaint (s : State) (p cause : Nat) : State := hobNums.foldl (fun s h => s.taintHob h p cause) s

/-- The end of a clean test of a position: its time, and the last committed fence of every hob (R276). -/
def State.setClean (s : State) (p : Nat) : State :=
  (s.each hobNums fun t h => t.modHob h fun y => { y with cleanFence := y.cleanFence.put 0 p y.fenceLast }).modPos p fun x =>
    { x with cleanAt := s.lifeMs }

/-! ### Lids and the expulsion budget (R288, R302, R303) -/

/-- Positions that a common-cause test scans in a quarter: all that may carry work in racks with a free gap, else the gap (R303). -/
def State.commonCauseSet (s : State) (q : Nat) : List Nat :=
  (allRacks.filter fun r => r.quarter == q).flatMap fun r =>
    (if s.gapFree r then r.all.map Pos.idx else [s.gapPos r]).filter fun p => (s.pos p).state.backs

/-- A suspect can be tested: it carries no work, or its rack has a free gap to take it (R303). -/
def State.testable (s : State) (p : Nat) : Bool := (s.cell p).hob.isNone || s.gapFree (Pos.ofIdx p).rack

/-- The common-cause test of a quarter starts: lids are suspended, VCORE is raised by 20 mV up to 0.80 V (R303). -/
def State.commonCause (s : State) (q : Nat) : State :=
  let x := s.expel.get {} q
  if x.test then s
  else
    let v := s.pins.vcore.get 0 q
    let m := min 20 (800 - v)
    let y := { x with test := true, margin := BitVec.ofNat 8 m, runs := satInc x.runs, failed := [],
                      pending := x.suspects.filter s.testable ++ (s.commonCauseSet q).filter fun p => !x.suspects.contains p }
    { s with expel := s.expel.put {} q y, pins := { s.pins with vcore := s.pins.vcore.put 0 q (v + m) } }

/-- A position becomes CONDITIONAL: only an ACTIVE one does (R286). -/
def Health.toConditional (x : Health) (now : Nat) (c : CondSet) : Health :=
  if x.state = .active then { x with state := .conditional, cond := c, unmatchedAt := now }
  else if x.state = .conditional then { x with cond := c } else x

/-- A score-driven lid decision (R302, R303): at most 4 are executed in a quarter in 60 minutes; a further one makes the position
CONDITIONAL under every condition and starts the common-cause test. -/
def State.scoreLid (s : State) (p : Nat) : State :=
  let q := (Pos.ofIdx p).quarter
  let x := s.expel.get {} q
  let recent := x.lids.filter fun t => decide (s.lifeS < t + 3600)
  let y := { x with lids := s.lifeS :: recent, suspects := mark (if recent.isEmpty then [] else x.suspects) p true }
  let s1 := { s with expel := s.expel.put {} q y }
  if x.test || 4 ≤ recent.length then (s1.modPos p fun z => z.toConditional s.lifeS { all := true }).commonCause q
  else s1.lid p false

/-- A fault event charged to a position (R302): history, score, lid or condition, taint. -/
def State.charge (s : State) (p code weight unit : Nat) : State :=
  let now := s.lifeS
  let s1 := s.addHist p (s.histRec p code weight unit)
  let x := (s1.pos p).decayed now
  let c := x.classify now
  let score := match c with
    | .permanent => 1000 * scoreUnit
    | .conditional => max (min (1000 * scoreUnit) (x.score + weight * scoreUnit)) (600 * scoreUnit)
    | .transient => min (1000 * scoreUnit) (x.score + weight * scoreUnit)
  let y := { x with score := score, lastFault := now }
  let s2 := s1.setPos p y
  let s3 := if c = .permanent then s2.lateTaint p (if (x.recent now).any fun e => e.isFault && e.out == 2 && e.code == 29 then 2 else 4) else s2
  if 800 * scoreUnit ≤ score && y.state ≠ .lidded then s3.scoreLid p
  else if 600 * scoreUnit ≤ score then s3.modPos p fun z => z.toConditional now (y.condSet now)
  else s3

/-! ### Rack shifts (R16, R23, R108, R278, R289) -/

/-- A router that takes over the logical router of another: its static calendar and every flit that stands in it, none of which is
lost (R23, R108); its wires stay. -/
def Router.withStatic (r src : Router) : Router :=
  { r with slots := src.slots, page := src.page, pages := src.pages, pageReq := src.pageReq, inputs := src.inputs, applied := src.applied,
           crc := src.crc, crcDue := src.crcDue, dyn := src.dyn, bridge := src.bridge }

/-- The taster's sample in progress is lost when a cell moves (R289). -/
def Taste.drop (t : Taste) : Taste :=
  let lost := t.held.isSome || t.checker.isSome
  { t with cur := {}, held := none, checker := none, stat := if lost then { t.stat with skip := satInc t.stat.skip } else t.stat }

/-- A row test that the engine has restored: it starts again later (R320). -/
def Health.endRow (x : Health) : Health := if x.tmt.running then { x with tmt := { x.tmt with running := false } } else x

/-- The rack's gap moves to place g: the cells and router calendars between the old and the new gap move one column (R289). A row test there
restores its row first (R320). -/
def State.shiftRack (s : State) (r : Rack) (g : Nat) : State :=
  let old := (s.rack r.idx).gap.toNat
  if old = g then s
  else
    let at_ := fun (i g : Nat) => (r.pos (if i < g then i else i + 1)).idx
    let s1 := s.each (r.all.map Pos.idx) fun t p => (t.setCell p (if (s.pos p).lent then s.cell p else {})).modRouter p fun x => x.withStatic {}
    let s2 := s1.each (List.range 8) fun t i =>
      let a := at_ i old
      let b := at_ i g
      let c := s.cell a
      ((if (s.pos a).lent then t else t.setCell b (if a = b then c else { c with taste := c.taste.drop }))).modRouter b
        fun x => x.withStatic (s.router a)
    let span := (List.range 9).filter fun i => decide (min old g ≤ i ∧ i ≤ max old g)
    let s3 := s2.each span fun t i => t.modPos (r.pos i).idx Health.endRow
    (s3.modRack r.idx fun x => { x with gap := BitVec.ofNat 4 g }).placeLog { rack := r.idx, old := old, new := g }

/-- The position at the gap takes work: SPARE and TASTING become ACTIVE (R286, R299). -/
def Health.takeWork (x : Health) : Health := if x.state = .spare || x.state = .tasting then { x with state := .active } else x

/-! ### Rebuilding a cell (R291) -/

/-- A cell that has lost its state until it is rebuilt or loaded: what stays is whose work it is, its windows (R173), the replies that wait
for a free slot of its router (R179), and its queue generations, which have advanced (R174). -/
def Cell.blank (c : Cell) : Cell :=
  { hob := c.hob, n := c.n, wins := c.wins, engineOut := c.engineOut.filter fun f => f.vc != 1, lost := c.hob.isSome,
    slots := [0, 1, 2, 3].foldl (fun (t : Tab Slot) i => t.upd {} i fun x => { x with qgen := (c.slot i).qgen + 1 }) [] }

/-- A cell rebuilt from the recipe: slots, stores and generator fence copies; resident slots filled from their home copies. Its windows
stay (R173), and so do its queue generations, which have advanced as it lost its state (R174). -/
def State.rebuildCell (s : State) (h n : Nat) : State :=
  let z := s.hob h
  let r := z.rcp
  let s1 := s.modCell (s.posOf h n) fun old =>
    let c := ({} : Cell).program r h n
    { c with
      wins := old.wins, engineOut := old.engineOut
      slots := [0, 1, 2, 3].foldl (fun (t : Tab Slot) i => t.upd {} i fun x =>
        let g := z.gens.get x.sr (4 * n + i)
        { x.seqTo c.seqWords z.nextStep with sr := g, srFence := g, qgen := (old.slot i).qgen }) c.slots }
  let s2 := s1.modRouter (s.routerPos h n) fun x =>
    { (x.program (r.pagesImg.getD n [])) with page := r.pageAt.getD (z.nextStep * z.rect.cells + n) 0 }
  s2.fillResident h n

/-- A rebuild reads the recipe image in host memory; without it the hob stops with ECC_UE. With an uncommitted step a replay
follows (R291). -/
def State.rebuild (s : State) (h n : Nat) (imageOk : Bool) : State :=
  let t := (s.dropLandings h n).modCell (s.posOf h n) Cell.blank
  if (s.hob h).recipe.isNone then t
  else if !imageOk then
    if (s.hob h).runs then s.stopUncommitted h { status := stEccUe, detail := n } else t
  else (t.rebuildCell h n).replay h stEccUe n

/-- The cells at places a to b of a rack move, and answer landings with status 1, or have moved (R178, R290). -/
def State.setMoving (s : State) (r : Rack) (a b : Nat) (on : Bool) : State :=
  s.each ((List.range 9).filter fun i => decide (min a b ≤ i ∧ i ≤ max a b)) fun s i =>
    let p := (r.pos i).idx
    if (s.cell p).hob.isSome then s.modCell p fun c => { c with moving := on } else s

/-! ### Far placement (R112, R293) -/

/-- A router is usable while no link direction to or from it has more than 16 faulty wires (R68). -/
def State.routerUsable (s : State) (p : Nat) : Bool :=
  (s.router p).linkBad.isEmpty && (linksOf (Pos.ofIdx p)).all fun c => match linkTo (Pos.ofIdx p) c with
    | some q => !(s.router q.idx).linkBad.contains (linkBack c)
    | none => true

/-- Columns of a quarter's half of a row that are reached in k hops through usable routers. -/
def State.reachCols (s : State) (row half : Nat) : Nat → List Nat → List Nat
  | 0, l => l
  | k + 1, l =>
    let cols := (List.range 54).map fun i => 54 * half + i
    s.reachCols row half k (cols.filter fun c =>
      l.contains c || (s.routerUsable (row * 108 + c) && l.any fun a => rowLink a c))

/-- Fewest hops from one column to another in the same half of a row. -/
def State.hopsTo (s : State) (row a b : Nat) : Option Nat :=
  (List.range 54).find? fun k => (s.reachCols row (a / 54) k [a]).contains b

/-- Columns of a shortest way of k hops back from column b to column a, a first. -/
def State.wayBack (s : State) (row a : Nat) : Nat → Nat → List Nat → List Nat
  | 0, _, acc => acc
  | k + 1, b, acc =>
    let prev := (s.reachCols row (a / 54) k [a]).find? fun c => rowLink c b
    match prev with
    | some c => s.wayBack row a k c (c :: acc)
    | none => acc

/-- The positions of the shortest bridge from a home to a far position of its row, both included (R293). -/
def State.bridgePath (s : State) (home far : Nat) : List Nat :=
  let row := home / 108
  match s.hopsTo row (home % 108) (far % 108) with
  | some k => (s.wayBack row (home % 108) k (far % 108) [far % 108]).map fun c => row * 108 + c
  | none => []

/-! ### Retimed routes (R112) -/

/-- A slot entry that a bridge takes: router position, output, entry of its pages. -/
abbrev RtSlot := Nat × Dir × Nat

/-- An output passes on what comes from a source at an entry of some page: pages switch router by router (R104). -/
def Router.takes (r : Router) (o src : Dir) (e : Nat) : Bool :=
  (List.range (max r.pages 1)).any fun g =>
    let w := (r.slots.get 0 (rtKey o.code g e)).toNat
    rtOwn w && rtSrc w == src.code

/-- Entries of a route from an output of logical (x, y) at entry `e` on, with its fan-out, `fuel` hops far, in whatever page each router
is; every one is `late` hob cycles later than the route's own. -/
def State.routeSlots (s : State) (h late : Nat) : Nat → Nat → Nat → Dir → Nat → List RtSlot
  | 0, _, _, _, _ => []
  | fuel + 1, x, y, out, e =>
    let here : RtSlot := ((s.homeOf x y).idx, out, (e + late) % 256)
    match out, neighbour x y out with
    | .loc, _ => [here]
    | _, none => [here]
    | _, some (a, b) =>
      if ((s.hob h).rect.num a b).isNone then [here]
      else
        let e' := (e + hopCycles x y out) % 256
        let r := s.router (s.homeOf a b).idx
        here :: (Dir.all.filter fun o => r.takes o out.facing e').flatMap fun o => s.routeSlots h late fuel a b o e'

/-- The output of a position toward another one of its row. -/
def rowDir (a b : Nat) : Dir := if a < b then .east else .west

/-- Entries along a bridge for a flit that leaves its first position at entry `e`, the last one at the far cell's port. -/
def bridgeSlots : List Nat → Nat → List RtSlot
  | a :: b :: t, e => (a, rowDir a b, e % 256) :: bridgeSlots (b :: t) (e + 2)
  | [a], e => [(a, .loc, e % 256)]
  | [], _ => []

/-- All entries that a far placement of cell n with extra latency e needs over a path from home to far (R112, R293): for each flit
into the cell the bridge from home, for each flit out of it the bridge back and the rest of its route, e later, and for a flit from the
cell to itself the bridge both ways. -/
def State.retimed (s : State) (h n e : Nat) (path : List Nat) : List RtSlot :=
  let xy := (s.hob h).rect.xy n
  let r := s.router (s.routerPos h n)
  (List.range 256).flatMap fun i =>
    let inw := if Dir.all.any fun d => d != .loc && r.takes .loc d i then bridgeSlots path i else []
    let back := (bridgeSlots path.reverse i).dropLast
    let own := if r.takes .loc .loc i then back ++ bridgeSlots path (i + e) else []
    let outs := Dir.all.filter fun o => o != .loc && r.takes o .loc i
    inw ++ own ++ outs.flatMap fun o => back ++ s.routeSlots h e 160 xy.1 xy.2 o i

/-- The keys of an entry in every page of a router. -/
def RtSlot.keys (t : RtSlot) : List (Nat × Nat) := (List.range 4).map fun g => (t.1, rtKey t.2.1.code g t.2.2)

/-- Every retimed entry is free at its router, in every page, and every output touched keeps at least 4 free entries (R112). -/
def State.retimeFits (s : State) (ts : List RtSlot) : Bool :=
  let free := fun (p : Nat) (k : Nat) => !rtOwn ((s.router p).slots.get 0 k).toNat && !(s.router p).bridge.any fun b => b.2 == k
  ts.dedup.all fun t =>
    (RtSlot.keys t).all (fun k => free k.1 k.2) &&
    (List.range 4).all fun g =>
      let taken := (ts.dedup.filter fun u => u.1 == t.1 && u.2.1 == t.2.1).length
      decide (4 + taken ≤ ((List.range 256).filter fun i => free t.1 (rtKey t.2.1.code g i)).length)

/-- The entries are owned by the bridge of cell n for as long as the placement lasts (R21, R112). -/
def State.ownSlots (s : State) (h n : Nat) (ts : List RtSlot) : State :=
  s.each (ts.dedup.flatMap RtSlot.keys) fun s k => s.modRouter k.1 fun r =>
    if r.bridge.contains (h * 8192 + n, k.2) then r else { r with bridge := r.bridge ++ [(h * 8192 + n, k.2)] }

/-! ### Bridges over a rack shift (R21) -/

/-- The far placements whose bridges or retimed routes own entries at routers of a rack, or whose home lies in it. -/
def State.bridgesIn (s : State) (r : Rack) : List (Nat × Far) :=
  hobNums.flatMap fun h => ((s.hob h).fars.filter fun f =>
    (Pos.ofIdx (s.routerPos h f.n)).rack == r ||
    (r.all.map Pos.idx).any fun p => (s.router p).bridge.any fun b => b.1 == h * 8192 + f.n).map fun f => (h, f)

/-- The path of a far placement as the racks' shifts now are: the same positions while its home has not moved. -/
def State.pathNow (s : State) (h : Nat) (f : Far) : List Nat :=
  let home := s.routerPos h f.n
  if home = f.home then f.path else s.bridgePath home f.far

/-- A rack's shift with its bridges laid again over the routers that now stand there; whether every entry that they need is free. -/
def State.relayOver (s : State) (r : Rack) (g : Nat) : Bool × State :=
  let bs := s.bridgesIn r
  let s1 := (s.each bs fun s b => s.freeBridge b.1 b.2.n).shiftRack r g
  bs.foldl (fun (a : Bool × State) b =>
    let path := a.2.pathNow b.1 b.2
    let e := 2 * (path.length - 1)
    let ts := a.2.retimed b.1 b.2.n e path
    (a.1 && a.2.retimeFits ts, (a.2.ownSlots b.1 b.2.n ts).modHob b.1 fun z =>
      { z with fars := z.fars.map fun f => if f.n = b.2.n then { f with home := s1.routerPos b.1 f.n, e := e, path := path } else f })) (true, s1)

/-- A rack's gap moves to place g, and the bridges that its routers carry keep their entries (R21, R289). -/
def State.setGap (s : State) (r : Rack) (g : Nat) : State :=
  if (s.bridgesIn r).isEmpty then s.shiftRack r g else (s.relayOver r g).2

/-- A planned shift leaves every bridge the entries that it needs. A forced shift goes ahead without: DESIGN CHOICE
(notes/assumptions/82.md). -/
def State.shiftFits (s : State) (r : Rack) (g : Nat) : Bool := (s.bridgesIn r).isEmpty || (s.relayOver r g).1

/-- Whether the bridge of a far placement passes through a position (R293). -/
def State.bridged (s : State) (p : Nat) : Bool := hobNums.any fun h => (s.hob h).fars.any fun f => f.path.contains p

/-- A move of a position's work by its rack's shift; the old gap takes work. -/
def State.shiftFrom (s : State) (p : Nat) : State :=
  let pos := Pos.ofIdx p
  let g := s.gapPos pos.rack
  (s.setGap pos.rack pos.inRack).modPos g Health.takeWork

/-- Slack classes that a cell's stations give it (R110). -/
def Recipe.classesOf (r : Recipe) (n : Nat) : List Nat := [0, 1, 2, 3].filterMap fun i => (r.stationAt n i).map fun t => t.1.cls

/-- The largest extra latency of a station's cells other than n. -/
def Hob.extraOf (h : Hob) (station n : Nat) : Nat :=
  (h.fars.filter fun f => f.n != n && [0, 1, 2, 3].any fun i => match h.rcp.stationAt f.n i with
    | some t => t.1.id == station
    | none => false).foldl (fun m f => max m f.e) 0

/-- e fits the slack of every stream into and out of the cell's stations (R112). -/
def Hob.slackFits (h : Hob) (n e : Nat) : Bool :=
  let mine := [0, 1, 2, 3].filterMap fun i => (h.rcp.stationAt n i).map fun t => t.1.id
  let extra := fun t => if mine.contains t then max e (h.extraOf t n) else h.extraOf t n
  h.rcp.streams.all fun m => !(mine.contains m.src || mine.contains m.dst) || decide (extra m.src + extra m.dst ≤ m.slack)

/-- A candidate for a far placement: position, e, rack distance. -/
structure Cand where
  pos : Nat := 0
  e : Nat := 0
  dist : Nat := 0
  west : Bool := false
  deriving DecidableEq, Repr

/-- The SPARE gaps in reach of a cell (R293), best first: lowest e, then rack distance, then west. -/
def State.candidates (s : State) (h n : Nat) : List Cand :=
  let z := s.hob h
  let home := Pos.ofIdx (s.routerPos h n)
  let near := if z.seqMode then 12 else 3
  let all := ((List.range 12).filter fun k => k != home.rack.k.val && decide (max k home.rack.k.val ≤ min k home.rack.k.val + near)).filterMap fun k =>
    let r : Rack := { row := home.py, k := Fin.ofNat 12 k }
    let p := s.gapPos r
    let x := s.pos p
    let owner := s.hobOfRack r
    if r.quarter != home.quarter || x.state != .spare || x.lent || (s.rack r.idx).receiving.isSome || !(owner == none || owner == some h) then none
    else (s.hopsTo home.py.val home.px.val (p % 108)).map fun hops =>
      ({ pos := p, e := 2 * hops, dist := max k home.rack.k.val - min k home.rack.k.val, west := decide (k < home.rack.k.val) } : Cand)
  all.mergeSort fun a b => decide (a.e < b.e) || (a.e == b.e && (decide (a.dist < b.dist) || (a.dist == b.dist && (a.west || !b.west))))

/-- Why a cell cannot be far-placed at a candidate: 0 it can; 2 F0; 3 class or slack; 4 retiming (R298). -/
def State.candFails (s : State) (h n : Nat) (c : Cand) : Nat :=
  let z := s.hob h
  if z.seqMode then 0
  else
    let cls := z.rcp.classesOf n
    if cls.contains 0 then 2
    else if (cls.contains 1 && decide (6 < c.e)) || (cls.contains 2 && decide (12 < c.e)) || !z.slackFits n c.e then 3
    else if s.retimeFits (s.retimed h n c.e (s.bridgePath (s.routerPos h n) c.pos)) then 0 else 4

/-- The placement that R293 accepts, or the reason why there is none and the lowest e found. -/
def State.findFar (s : State) (h n : Nat) : Cand ⊕ (Nat × Nat) :=
  let cs := s.candidates h n
  if !s.routerUsable (s.routerPos h n) then .inr (5, 0xFF)
  else match cs.find? fun c => s.candFails h n c == 0 with
    | some c => .inl c
    | none => match cs with
      | [] => .inr (if !(s.hob h).seqMode && ((s.hob h).rcp.classesOf n).contains 0 then 2 else 1, 0xFF)
      | c :: _ => .inr (s.candFails h n c, c.e)

/-- A cell placed at a far position over a path (R112, R293): an earlier bridge's entries are free, its retimed entries are owned by the new
one, the lent position is ACTIVE, the bridge is in the placement log. -/
def State.placeOver (s : State) (h n : Nat) (c : Cand) (was : Nat) (path : List Nat) : State :=
  let home := s.routerPos h n
  let s1 := ((s.freeBridge h n).ownSlots h n (s.retimed h n c.e path)).modHob h fun z =>
    { z with fars := { n := n, home := home, far := c.pos, e := c.e, path := path } :: z.fars.filter fun f => f.n != n }
  let s2 := s1.modPos c.pos fun x => { x.takeWork with lent := true }
  s2.placeLog { rack := (Pos.ofIdx home).rack.idx, old := was, new := c.pos + 1, bridge := true, hob := h, cell := n }

/-- A cell placed at a far position over the shortest path. -/
def State.placeFar (s : State) (h n : Nat) (c : Cand) (was : Nat) : State :=
  s.placeOver h n c was (s.bridgePath (s.routerPos h n) c.pos)

/-! ### Homeless stations (R297, R298) -/

/-- The REPLACE_NEEDED report. -/
def State.replaceReport (s : State) (h : Nat) : State :=
  let (q, s1) := s.nextReport
  let l := (s.hob h).homeless
  let entries := l.flatMap fun x =>
    let pos := Pos.ofIdx x.pos
    leBytes 2 x.n ++ leBytes 2 x.station ++ leBytes 2 (pos.px.val * 64 + pos.py.val) ++ leBytes 1 x.reason ++ leBytes 1 x.cls ++ leBytes 1 x.best ++ zeroBytes 7
  let head := leBytes 8 q ++ leBytes 1 3 ++ leBytes 1 h ++ leBytes 2 l.length ++ zeroBytes 4 ++ leBytes 8 (s.hob h).fenceLast ++ leBytes 8 s.timeMs ++ zeroBytes 32
  s1.interrupt.report h stReplace q (withCrc (head ++ entries) 0x3C)

/-- A hob with a homeless station is HELD; its RUN_STEPS complete with REPLACE_NEEDED and its uncommitted steps wait (R240, R297). -/
def State.holdHomeless (s : State) (h : Nat) : State :=
  let x := s.hob h
  if !x.runs then s
  else
    let back := x.closing.length + (if x.clk.live then 1 else 0)
    let s1 := (s.cancelCapture h).endRun h stReplace 0 (x.fenceLast + 1) 0
    let s2 := s1.modHob h fun y => { y.discard with
      run := { y.run with stepsLeft := back - 1 },
      hold := { y.hold with causes := [], sched := [], waits := [], req := none, target := none, frozen := false, limitFrom := none } }
    ((s2.setHobSt h .held).avlStop 0 h).avlStart 3 h

/-- The cell's state is discarded; every station it belongs to is homeless. Messages that land there end with status 3, and its windows
and queue generations wait at the position that failed (R173, R174, R179). -/
def State.makeHomeless (s : State) (h n failed reason best : Nat) : State :=
  let z := s.hob h
  let st := [0, 1, 2, 3].filterMap fun i => (z.rcp.stationAt n i).map fun t => t.1
  let s1 := ((s.dropLandings h n).endFar h n).modCell failed fun c => { c.blank with hob := none, n := 0 }
  if st.isEmpty then s1
  else
    let new : List Homeless := st.map fun t => { n := n, station := t.id, pos := failed, reason := reason, cls := t.cls, best := best }
    let s2 := s1.modHob h fun y => { y with homeless := (y.homeless.filter fun x => x.n != n) ++ new }
    (s2.holdHomeless h).replaceReport h

/-! ### Decants under way (R289 to R299) -/

/-- Whether a decant of a hob is under way: a receiving position has not passed its check, or a lidded position still carries
work. -/
def State.decanting (s : State) (h : Nat) : Bool :=
  (s.racks.any fun e => match e.2.receiving with
    | some q => (s.cell q).hob == some h
    | none => false) ||
  (s.nums h).any fun n => let p := s.posOf h n; (s.cell p).hob == some h && (s.pos p).state == .lidded

end Sys2Proof.Machine
end

