-- ==== Sys2Proof/Machine/Load.lean ====
section
/-! DEFINITION. LOAD_RECIPE and LOAD_RECIPE_DONE (R62, R97, R104, R123, R135, R174, R177, R180, R185, R194, R212, R240, R270,
R272, R275, R285, R293, R295, R297, R333). -/

namespace Sys2Proof.Machine

open Sys2Proof

/-- A cell's state moved from one position to another, which takes work (R286); the first loses it. -/
def State.moveCell (s : State) (a b : Nat) : State :=
  if a = b then s else ((s.setCell b { s.cell a with taste := (s.cell a).taste.drop }).setCell a {}).modPos b Health.takeWork

/-- A recipe takes the place of the one loaded, whose sections the hearth keeps (R279). -/
def Hob.takeRecipe (z : Hob) (r : Recipe) : Hob :=
  { z with
    recipe := some r, homeless := [],
    loaded := (z.recipe.toList ++ z.loaded.filter fun q => !(z.recipe.any fun o => o.digest == q.digest)).filter fun q => q.digest != r.digest }

/-- Far placements of the old recipe end, their cells return home (R295). With the new recipe's calendars in the routers, cells of stations
whose home cannot back them go to their rack's free gap, or are placed as the recipe allows (R293). -/
def State.replaceFars (s : State) (h : Nat) (r : Recipe) : State :=
  let s1 := s.each (s.hob h).fars fun s f => (s.moveCell f.far (s.routerPos h f.n)).endFar h f.n
  let s2 := s1.modHob h fun y => y.takeRecipe r
  let s3 := s2.each (s2.nums h) fun s n => s.modRouter (s.routerPos h n) fun x => x.program (r.pagesImg.getD n [])
  s3.each (s2.nums h) fun s n =>
    let home := s.routerPos h n
    let k := (Pos.ofIdx home).rack
    if (s.usable home && !(s.pos home).lent) || (r.classesOf n).isEmpty then s
    else if s.gapFree k && (s.rack k.idx).receiving.isNone then s.shiftFrom home
    else match s.findFar h n with
      | .inl c => (s.placeFar h n c 0).moveCell home c.pos
      | .inr _ => s

/-- A condition set names a station class (R285). -/
def CondSet.matchesKind (c : CondSet) (k : Nat) : Bool := c.all || decide (3 ≤ c.kind.length) || c.kind.contains k

/-- At load, a CONDITIONAL position of a rack with a free gap takes the gap's place when it would back a station of a matching
class (R285). -/
def State.condShifts (s : State) (h : Nat) (r : Recipe) : State :=
  s.each (s.racksOf h) fun s k =>
    let bad := (k.all.map Pos.idx).find? fun p => (s.pos p).state == .conditional && (match s.routerAt p with
      | some (_, n) => [0, 1, 2, 3].any fun i => match r.stationAt n i with
        | some t => ((s.pos p).condNow s.lifeS).matchesKind t.1.kind
        | none => false
      | none => false)
    match bad with
    | some p => if s.gapFree k then s.shiftFrom p else s
    | none => s

/-- The first gap of the taster's samples: from 2,048 to 6,143 output blocks, from 128 to 383 for a CONDITIONAL cell (R270). -/
def State.drawGap (s : State) (p : Nat) : Nat × State :=
  let (d, s1) := s.draw
  (if (s.pos p).state = .conditional then 128 + d % 256 else 2048 + d % 4096, s1)

/-- The recipe step at which the hob starts: the one after the last committed fence when the digest is that before a reset or
in a restored jar, otherwise 0 (R333, R361). -/
def Hob.resumes (z : Hob) (r : Recipe) : Bool := z.resume == some r.digest

/-- What a load leaves of the hob's earlier run: what committed steps staged, and its registers that do not count since
LOAD_RECIPE. -/
def Hob.reload (z : Hob) (r : Recipe) : Hob :=
  { z.discard with
    clk := {}, hold := {}, run := {}, peerClosed := [], fwdBlocked := false, replay := {}, xng := [], mcast := [],
    cow := { z.cow with waits := 0 },
    nextStep := if z.resumes r then z.nextStep else 0,
    gens := if z.resumes r then z.gens else [],
    msgTmo := if r.msgtmo = 0 then 0x40 else BitVec.ofNat 16 r.msgtmo,
    rsv := stackNums.foldl (fun (t : Tab Rsv) k =>
      let w := r.rsv.getD k 0
      t.upd {} k fun x => { x with valid := bit 31 w, last := BitVec.ofNat 9 (bits 24 16 w), first := BitVec.ofNat 9 (bits 8 0 w) }) z.rsv,
    policy := { z.policy with noPointTold := false } }

/-- `RIM_EXT` shows which extents lie in the reserved windows (R192, R194). -/
def Hob.markExts (z : Hob) : Hob :=
  { z with ext := z.ext.map fun e =>
      let w := z.rsv.get {} (e.1 / 352)
      (e.1, { e.2 with rsv := w.valid && decide (w.first.toNat ≤ e.1 % 352 ∧ e.1 % 352 ≤ w.last.toNat) }) }

/-- Each cell's generators and sequencers at the step where the hob resumes (R291, R333), and its taster's first gap. -/
def State.startCell (s : State) (h n : Nat) : State :=
  let z := s.hob h
  let (g, s1) := s.drawGap (s.posOf h n)
  s1.modCell (s.posOf h n) fun c =>
    { c with
      taste := { nextAt := g },
      slots := [0, 1, 2, 3].foldl (fun (t : Tab Slot) i => t.upd {} i fun x =>
        let v := z.gens.get x.sr (4 * n + i)
        { x.seqTo c.seqWords z.nextStep with sr := v, srFence := v }) c.slots }

/-- The image that has passed its checks is put into the hob, which is LOADING until every cell has acknowledged it; the ports it needs
relight (R367). -/
def State.loadImage (s : State) (ref : CmdRef) (h : Nat) (r : Recipe) : State :=
  let s0 := (((s.leaveIdle.endWindows h).cancelCapture h).each (s.nums h) fun s n => s.dropLandings h n)
  let s1 := (s0.replaceFars h r).condShifts h r
  let fill := (s1.nums h).flatMap fun n => [0, 1, 2, 3].filterMap fun i =>
    let x := r.slotAt n i
    if x.valid && x.resident && ((s1.cell (s1.posOf h n)).keeps x).isNone then some (n, i) else none
  let s2 := (s1.program h r).modHob h fun y => (y.reload r).markExts
  let s3 := fill.foldl (fun s e => s.fillSlot h e.1 e.2) s2
  let s4 := ((s3.each (s3.nums h) fun s n => s.startCell h n).keepGens h).each (s2.classPorts h) State.relight
  let s5 := { s4 with txns := s4.txns.filter fun t => !t.crossingOf h }
  let s6 := ((s5.avlStop 0 h).avlStop 1 h).avlStop 5 h
  let s7 := (s6.failWaits h).setHobSt h .loading
  (s7.modHob h fun y => { y with loading := some ref }).startBcast (some h) (s7.nums h)

/-- Internal states in which LOAD_RECIPE is taken: LOADING, STOPPED (also shown as OVER with no step running) and HELD, with no
load or restore in progress (R232, R240). -/
def Hob.takesLoad (z : Hob) : Bool :=
  z.loading.isNone && z.restore.isNone && (z.st == .loading || z.st == .stopped || z.st == .held)

/-- LOAD_RECIPE (R135, R232, R240): the whole image is checked before any cell changes. -/
def execLoadRecipe (ref : CmdRef) (hob : HobId) (image : Image) (s : State) : Res :=
  let h := hob.val
  done (s.command ref h 1 0xFFFF (fun e => leAt e 8 8 == image.addr && leAt e 0x10 8 == image.size) fun s =>
    if !(s.hob h).takesLoad || s.inReset 6 h then s.complete ref 1 stState 0 0 0
    else if !image.readOk then s.complete ref 1 stAddress 0 0 0
    else
      let r := image.recipe
      let code := s.recipeCode h image fun n => (s.replaceFars h r).void h n
      if code ≠ 0 then s.complete ref 1 stRejected code 0 0 else s.loadImage ref h r)

/-- LOAD_RECIPE_DONE (R133, R177, R185, R240): no port falls short of its class, the broadcast has ended, the quiesce interval of the
windows is over and resident slots are filled; the hob is STOPPED, and the completion carries the stations and the first 8 B of the digest. -/
def execLoadRecipeDone (hob : HobId) (s : State) : Res :=
  let h := hob.val
  let z := s.hob h
  match z.loading with
  | none => done s
  | some ref =>
    if z.st ≠ .loading || (s.portShort h).isSome || (s.broadcasts.any fun b => b.hob == some h) || s.windowsEnding h || !z.fills.isEmpty then done s
    else
      let s1 := (s.modHob h fun y => { y with loading := none }).setHobSt h .stopped
      done ((s1.modCells h Cell.advanceGens).complete ref 1 stOk 0 z.rcp.stations.length (z.rcp.digest.toNat % 2 ^ 64))

/-- A running hob has reached the fence of its last queued step, which has not committed, and no stop is due: steps that are queued now
follow at once (R235, R240). -/
def Hob.betweenSteps (x : Hob) : Bool :=
  !x.clk.live && !x.closing.isEmpty && x.run.stopAt.isNone && x.closing.all fun c => c.failed.isNone && !c.fault

/-- A cell of a hob that has lost its state and that nothing is about to rebuild (R63, R291): no reset of its position runs, and no decant
will move it. RUN_STEPS then ends with ECC_UE and names it: DESIGN CHOICE, R291 says so only of a hob that runs
(notes/assumptions/82.md). -/
def State.lostCell (s : State) (h : Nat) : Option Nat :=
  (s.nums h).find? fun n => let p := s.posOf h n; (s.cell p).lost && !(s.cell p).moving && (s.pos p).state != .lidded

/-- RUN_STEPS: a stopped hob starts, a running one takes more steps if buffer and staging are those in force.
A hob with a homeless station is HELD at once (R297). -/
def execRunSteps (ref : CmdRef) (hob : HobId) (count : Nat) (each : Bool) (buf bufLen stg stgLen : Nat) (s : State) : Res :=
  let h := hob.val
  done (s.command ref h 2 0xFFFF (runArgs count each buf bufLen stg stgLen) fun s =>
    let x := s.hob h
    let c : RunCmd := { ref := ref, count := count, each := each }
    if count = 0 then s.complete ref 2 stRejected 0 0 0
    else if x.recipe.isNone || x.restore.isSome || x.torn then s.complete ref 2 stState 0 0 0
    else if x.st = .running then
      if (x.run.buf, x.run.bufLen, x.run.stg, x.run.stgLen) = (buf, bufLen, stg, stgLen) then
        let s1 := s.modHob h fun y => { y with run := { y.run with stepsLeft := y.run.stepsLeft + count, refs := y.run.refs ++ [c] } }
        if x.betweenSteps then s1.nextStepAt h else s1
      else s.complete ref 2 stState 0 0 0
    else if x.st ≠ .stopped then s.complete ref 2 stState 0 0 0
    else if !x.mapped stg stgLen then s.complete ref 2 stAddress 0 0 0
    else match s.portFell h, s.lostCell h with
      | some j, _ => s.complete ref 2 stPort j 0 0
      | none, some n => s.complete ref 2 stEccUe n 0 0
      | none, none =>
        let s1 := s.startRun h c buf bufLen stg stgLen
        let s2 := if s1.decanting h then s1.holdNow h 5 else s1
        if x.homeless.isEmpty then s2 else s2.holdHomeless h)

end Sys2Proof.Machine
end

