-- ==== Sys2Proof/Machine/Health.lean ====
section
/-! DEFINITION. Faults, decants, conditions, parole, rotation, transparent tests and provocation: FAULT_REPORT to
PERTURB_EXPIRY, REPLAY_START and HOB_CONFIG TEST (R273 to R275, R284 to R325). -/

namespace Sys2Proof

/-- Status code of a fault (R233) and its weight (R300); none for what is not charged to a position. -/
def FaultCode.weight : FaultCode → Option (Nat × Nat)
  | .parity => some (Machine.stParity, 40)
  | .residue => some (Machine.stResidue, 200)
  | .eccScratch => some (Machine.stEccUe, 150)
  | .eccStore => some (Machine.stEccUe, 1000)
  | .eccResident => some (Machine.stEccUe, 150)
  | .rowSpent => some (Machine.stEccUe, 100)
  | .blockCheck => some (Machine.stBlockCheck, 120)
  | .tasteMismatch => some (Machine.stTaste, 250)
  | .sched => some (Machine.stSched, 200)
  | .hang => some (0, 150)
  | .underrun | .overrun | .pairTimeout | .eccStack => none

end Sys2Proof

namespace Sys2Proof.Machine

open Sys2Proof

/-- The outcome of the newest event of a position with a code. -/
def State.setOutcome (s : State) (p code out : Nat) : State :=
  s.modPos p fun x =>
    match x.hist.findIdx? fun e => e.code.toNat == code with
    | some i => { x with hist := x.hist.modify i fun e => { e with out := BitVec.ofNat 2 out } }
    | none => x

/-- A position whose history now classifies it permanent is scored, tainted and lidded (R276, R302). -/
def State.settlePermanent (s : State) (p : Nat) : State :=
  let x := (s.pos p).decayed s.lifeS
  if x.classify s.lifeS = .permanent && x.state.backs then
    let cause := if (x.recent s.lifeS).any fun e => e.isFault && e.out == 2 && e.code.toNat == stTaste then 2 else 4
    ((s.setPos p { x with score := 1000 * scoreUnit }).lateTaint p cause).scoreLid p
  else s

/-- An error that PERTURB injected: history with weight 0, no classification (R283, R324). -/
def State.chargeInjected (s : State) (p code unit : Nat) : State :=
  (s.addHist p (s.histRec p code 0 unit)).modPos p fun x => { x with injected := x.injected.erase code }

/-- FAULT_REPORT (R290, R300, R302): the event is charged to its position. A taste mismatch is charged to the checker too
(R284). With the hearth away the hob is held for it (R13). -/
def execFaultReport (cell : Pos) (code : FaultCode) (unit : BitVec 12) (s : State) : Res :=
  let p := cell.idx
  match code.weight with
  | none => done s
  | some (c, w) =>
    if s.resets.hearthDown then done (match (s.cell p).hob with
      | some h => s.awaitHearth h
      | none => s)
    else if (s.pos p).injected.contains c then done (s.chargeInjected p c unit.toNat)
    else
      let s1 := s.charge p c w unit.toNat
      done (match code, (s.cell p).taste.resample with
        | .tasteMismatch, some k => s1.charge k c w unit.toNat
        | _, _ => s1)

/-- REPLAY_START (R273, R274, R275): a fault of a kind that R273 answers with a replay. One that recurred moves the position's
work. -/
def execReplayStart (hob : HobId) (status : Nat) (cell : BitVec 13) (s : State) : Res :=
  if decide (status ∈ [stResidue, stParity, stEccUe, stBlockCheck, stTaste, stSched]) then
    let p := s.posOf hob.val cell.toNat
    let s1 := s.replay hob.val status cell.toNat
    done (if (s1.pos p).hist != (s.pos p).hist then s1.settlePermanent p else s1)
  else done s

/-! ### Decants (R289 to R299) -/

/-- The hearth's cause of a decant ends with its last move (R290, R299); downtime runs until the hob is released (R13). -/
def State.endDecant (s : State) (h : Nat) : State :=
  if s.decanting h then s else s.endHold h 5

/-- DECANT_RACK_LOCAL (R289 to R291, R299): a lidded position at home in a rack with a free gap gives its work to its
neighbours; the old gap receives. A TASTING gap's test is aborted. -/
def execDecantRackLocal (cell : Pos) (readable imageOk : Bool) (s : State) : Res :=
  let p := cell.idx
  let r := cell.rack
  match (s.cell p).hob with
  | none => done s
  | some h =>
    let n := (s.cell p).n
    if s.resets.hearthDown || (s.pos p).state ≠ .lidded || !s.gapFree r || (s.rack r.idx).receiving.isSome || p ≠ s.routerPos h n then done s
    else
      let g := s.gapPos r
      let s1 := ((s.holdNow h 5).setMoving r (Pos.ofIdx g).inRack cell.inRack true).shiftFrom p
      let s2 := s1.modRack r.idx fun x => { x with receiving := some g }
      done (if readable && !(s.cell p).lost then s2 else s2.rebuild h n imageOk)

/-- FUNCTIONAL_CHECK_RESULT (R290, R299): a pass ends the move; a failure lids the receiving position, whose work moves on. -/
def execFunctionalCheckResult (cell : Pos) (pass : Bool) (s : State) : Res :=
  let p := cell.idx
  let r := cell.rack
  if (s.rack r.idx).receiving ≠ some p then done s
  else
    let s1 := (s.modRack r.idx fun x => { x with receiving := none }).setMoving r 0 8 false
    let s2 := if pass then s1 else s1.lid p true
    done (match (s.cell p).hob with
      | some h => s2.endDecant h
      | none => s2)

/-- DECANT_FAR (R291, R293 to R295, R297, R299): a lidded position whose rack cannot take its work. The cell goes to the best candidate
and is rebuilt there where its state is unreadable, or its stations are homeless. -/
def execDecantFar (far : FarDecant) (s : State) : Res :=
  let p := far.cell.idx
  let r := far.cell.rack
  match (s.cell p).hob with
  | none => done s
  | some h =>
    let n := (s.cell p).n
    let home := s.routerPos h n
    if s.resets.hearthDown || (s.pos p).state ≠ .lidded || (p == home && s.gapFree r && (s.rack r.idx).receiving.isNone) then done s
    else
      let s1 := s.holdNow h 5
      let s2 := if p = home then s1 else (s1.freeBridge h n).modPos p fun x => { x with lent := false }
      done (match s2.findFar h n with
        | .inl c =>
          let s3 := (s2.placeFar h n c (if p = home then 0 else p + 1)).moveCell p c.pos
          let s4 := (s3.modCell c.pos fun y => { y with moving := true }).modRack (Pos.ofIdx c.pos).rack.idx fun x => { x with receiving := some c.pos }
          if far.readable && !(s.cell p).lost then s4 else s4.rebuild h n far.imageOk
        | .inr (reason, best) => (s2.makeHomeless h n p reason best).endDecant h)

/-- A rack whose gap can take back a cell of its own (R285, R295, R296): it is free, or CONDITIONAL with conditions that have not matched for
10 minutes, and no decant is in progress. -/
def State.gapReady (s : State) (r : Rack) : Bool :=
  let x := s.pos (s.gapPos r)
  (s.gapFree r || (x.state == .conditional && decide (x.unmatchedAt + 600 ≤ s.lifeS) && !x.lent)) && (s.rack r.idx).receiving.isNone

/-- A place for a homeless cell, if there is one now (R297): its home, its rack's gap, or a far position. -/
def State.placeHomeless (s : State) (h n : Nat) : Option State :=
  let home := s.routerPos h n
  let r := (Pos.ofIdx home).rack
  if s.usable home && !(s.pos home).lent then some (s.modPos home Health.takeWork)
  else if s.gapReady r then some (s.shiftFrom home)
  else match s.findFar h n with
    | .inl c => some (s.placeFar h n c 0)
    | .inr _ => none

/-- STATION_REPLACE (R240, R291, R297): homeless cells that can be placed are placed and rebuilt; when none is left a HELD hob
runs again and replays its uncommitted step. -/
def execStationReplace (hob : HobId) (imageOk : Bool) (s : State) : Res :=
  let h := hob.val
  let ns := ((s.hob h).homeless.map fun x => x.n).dedup
  if s.resets.hearthDown || ns.isEmpty then done s
  else
    let s1 := s.each ns fun s n =>
      let f := (((s.hob h).homeless.find? fun x => x.n == n).getD {}).pos
      match (s.setCell f {}).placeHomeless h n with
      | some t =>
        let u := (t.setCell (t.posOf h n) { s.cell f with hob := some h, n := n }).modHob h fun y =>
          { y with homeless := y.homeless.filter fun x => x.n != n }
        if imageOk then u.rebuildCell h n else u
      | none => s
    if (s1.hob h).homeless.length = (s.hob h).homeless.length then done s
    else if !imageOk then
      done (if (s.hob h).st = .held then (s1.avlStop 3 h).stopUncommitted h { status := stEccUe, detail := ns.headD 0 } else s1)
    else if !(s1.hob h).homeless.isEmpty || (s1.hob h).st ≠ .held then done s1
    else
      let s2 := (s1.setHobSt h .running).avlStop 3 h
      let s3 := s2.modHob h fun y => { y with clk := { y.clk with live := true } }
      done (s3.replay h stReplace (ns.headD 0))

/-! ### Conditions, scores and parole (R285, R302, R305) -/

/-- A value matches a part of a matching set: three or more values match any. -/
def partMatches (l : List Nat) (v : Nat) : Bool := decide (3 ≤ l.length) || l.contains v

/-- All four parts match the conditions now in force: temperature from 2 °C below a bucket on; the station class of a position
that carries work (R285). -/
def State.condMatches (s : State) (p : Nat) : Bool :=
  let c := (s.pos p).condNow s.lifeS
  let k := s.condKey p
  let warm := tempBucket (s.sensors.rack.get 0 (Pos.ofIdx p).rack.idx + 8)
  c.all || ((partMatches c.temp (k.getD 0 0) || partMatches c.temp warm) && partMatches c.volt (k.getD 1 0) && partMatches c.clk (k.getD 2 0) &&
    ((s.workAt p).isNone || partMatches c.kind (k.getD 3 0)))

/-- Far-placed cells of a hob whose rack can back them return home (R295, R296). -/
def State.returnHome (s : State) (h : Nat) : State :=
  s.each (s.hob h).fars fun s f =>
    let home := s.routerPos h f.n
    let r := (Pos.ofIdx home).rack
    let t := if s.usable home && !(s.pos home).lent then some s
      else if s.gapReady r then some (s.shiftFrom home) else none
    match t with
    | some u => (u.moveCell f.far (u.routerPos h f.n)).endFar h f.n
    | none => s

/-- A planned move of a position's work in one hold of cause 6 (R292, R296): far-placed cells return home, and the position becomes its
rack's gap where that is still free. -/
def State.plannedMove (s : State) (h p : Nat) : State :=
  let s1 := (s.holdNow h 6).returnHome h
  (if s1.gapFree (Pos.ofIdx p).rack then s1.shiftFrom p else s1).endHold h 6

/-- CONDITION_EVAL (R285, R299, R303, R308): a CONDITIONAL position whose conditions match gives up its work, or is lidded where its
rack's gap is not free. It waits for a decant of its rack; one that the expulsion budget has put off is not lidded before its quarter's
test has run. -/
def execConditionEval (cell : Pos) (s : State) : Res :=
  let p := cell.idx
  let r := cell.rack
  if s.resets.hearthDown || (s.pos p).state ≠ .conditional || !s.condMatches p then done s
  else
    let s1 := s.modPos p fun x => { x with unmatchedAt := s.lifeS }
    match (s.cell p).hob with
    | none => done s1
    | some h =>
      let decant := (s.rack r.idx).receiving.isSome || (r.all.map Pos.idx).any fun q => (s.pos q).state == .lidded && (s.cell q).hob.isSome
      let deferred := (s.pos p).cond.all && (s.expel.get {} cell.quarter).test
      if decant then done s1
      else if s.gapFree r then done (s1.plannedMove h p)
      else if deferred then done s1
      else done (s1.lid p false)

/-- SCORE_HOURLY (R301, R302): every score decays; a CONDITIONAL position below 450 with no fault event for 24 hours is ACTIVE
again, or SPARE at the gap. -/
def execScoreHourly (s : State) : Res :=
  if s.resets.hearthDown then done s
  else done (s.each allPos fun s q =>
    let p := q.idx
    let x := (s.pos p).decayed s.lifeS
    let calm := x.state == .conditional && decide (x.score < 450 * scoreUnit) && decide (x.lastFault + 86400 ≤ s.lifeS)
    s.setPos p (if calm then { x with state := if p = s.gapPos q.rack then .spare else .active, cond := {} } else x))

/-- PAROLE_START (R305): 24 hours after a score-driven lid. -/
def execParoleStart (cell : Pos) (s : State) : Res :=
  let p := cell.idx
  let x := s.pos p
  if s.resets.hearthDown || x.state ≠ .lidded || x.perm || x.lidTest || (s.cell p).hob.isSome || s.lifeS < x.lidAt + 86400 then done s
  else done (s.modPos p fun x => { x with state := .parole, passes := 0, paroled := true, passAt := 0 })

/-- The window in which a result is valid (R310). -/
def State.windowOk (s : State) (p : Nat) : Bool :=
  let pos := Pos.ofIdx p
  let v := s.pins.vcore.get 0 pos.quarter
  decide (1000 ≤ s.damper.mclk.toNat ∧ s.damper.mclk.toNat ≤ 1600) && decide (700 ≤ v ∧ v ≤ 800) && decide (s.sensors.rack.get 0 pos.rack.idx ≤ 400)

/-- A void result (R310, R317). -/
def State.voidTest (s : State) (r : Rack) : State := s.modRack r.idx fun x => { x with void := satInc x.void }

/-- A clean test that takes in the router island: at a gap that no bridge passes, or at bring-up (R311). -/
def State.testIsland (s : State) (p : Nat) : State :=
  if s.boot.stage = 5 || (p = s.gapPos (Pos.ofIdx p).rack && !s.bridged p) then s.modPos p fun x => { x with islandAt := s.lifeMs } else s

/-- A clean test of a position (R276, R311, R312, R317): record 0x41. -/
def State.cleanTest (s : State) (p : Nat) : State :=
  let s1 := (s.addHist p (s.histRec p 0x41 0 0)).setClean p |>.testIsland p
  s1.modRack (Pos.ofIdx p).rack.idx fun x => { x with pass := satInc x.pass }

/-- A failed test (R276, R288, R312): record 0x40, taint, test-driven lid. -/
def State.failTest (s : State) (p unit cause : Nat) : State :=
  (((s.addHist p (s.histRec p 0x40 0 unit)).modPos p fun x => { x with score := 1000 * scoreUnit, scoreAt := s.lifeS }).lateTaint p cause).lid p true

/-- PAROLE_TEST (R305): three clean tests at least an hour apart make the position SPARE with a score of 400; a failure lids it
for good. -/
def execParoleTest (cell : Pos) (result : TestEnd) (inWindow : Bool) (s : State) : Res :=
  let p := cell.idx
  let x := s.pos p
  let valid := inWindow && s.windowOk p
  if s.resets.hearthDown || x.state ≠ .parole || (x.passes ≠ 0 && s.lifeS < x.passAt + 3600) then done s
  else if !valid then done (s.voidTest cell.rack)
  else if !result.pass then done ((s.failTest p result.unit.toNat 1).logDev 0x0402 0xFF [p, 0])
  else
    let s1 := s.cleanTest p
    if x.passes.toNat + 1 = 3 then
      done ((s1.modPos p fun x => { x with state := .spare, passes := 3, score := 400 * scoreUnit, scoreAt := s.lifeS }).logDev 0x0402 0xFF [p, 1])
    else done (s1.modPos p fun x => { x with passes := x.passes + 1, passAt := s.lifeS })

/-! ### Retire advice (R306 to R308, R394) -/

/-- Racks of a quarter with a free spare. -/
def State.freeSpares (s : State) (q : Nat) : Nat := (allRacks.filter fun r => r.quarter == q && s.gapFree r).length

/-- Logical coordinates that no position backs, in every rack (R297, R307). -/
def State.voids (s : State) : Nat := allRacks.foldl (fun n r => n + (s.unbacked r).length) 0

/-- The three causes of R307: device below 96, a quarter below 16, a VOID exists. -/
def State.adviceWhy (s : State) : Nat :=
  let free := [0, 1, 2, 3].map s.freeSpares
  (if free.foldl (· + ·) 0 < 96 then 4 else 0) + (if free.any fun n => decide (n < 16) then 2 else 0) + (if 0 < s.voids then 1 else 0)

/-- A cause that holds the device DEGRADED (R347, R375, R394). -/
def State.degradedCause (s : State) : Bool :=
  s.hearth.retire || s.boot.fminv || s.boot.reduced || s.logFail || s.hearth.licBad || s.hearth.jtag || decide (2 ≤ s.pantry.level.toNat) || stackNums.any fun k => (s.stack k).unusable

/-- SERVICE or DEGRADED follows the causes. -/
def State.settleService (s : State) : State :=
  if s.st = .service || s.st = .degraded then s.setDev (if s.degradedCause then .degraded else .service) else s

/-- A pseudo-channel has failed with no spare left: its blocks are unreadable (R204). -/
def State.pcLost (s : State) : Bool := stackNums.any fun k => !(s.stack k).pcDead.isEmpty

/-- RETIRE_ADVICE_EVAL (R204, R308): a change is logged and posted, and the device state follows. A pseudo-channel that has failed with
no spare left raises the advice as well; `HRT_SPR_WHY` has no bit for it (notes/assumptions/88.md). -/
def State.evalRetire (s : State) : State :=
  let why := s.adviceWhy
  let advice := why != 0 || s.pcLost
  let s1 := { s with hearth := { s.hearth with retire := advice, retireWhy := BitVec.ofNat 3 why } }
  if advice = s.hearth.retire then s1
  else ((s1.logDev 0x0403 0xFF [why]).devEvent stOk 0 why).settleService

def execRetireAdviceEval (s : State) : Res :=
  if s.resets.hearthDown || s.st = .off then done s else done s.evalRetire

/-- PC_SPARE_START (R204): a failing pseudo-channel starts copying to a spare; with both spares used its blocks become
unreadable, hobs on the stack stop at their next fence, and retire advice is raised. -/
def execPcSpareStart (stack : StackId) (pc : Fin 32) (s : State) : Res :=
  let k := s.stack stack.val
  if !k.pcDue.contains pc.val || k.pcCopy.contains pc.val || k.resetting || k.pwr = .off then done s
  else
    let k1 := { k with pcDue := mark k.pcDue pc.val false }
    if k.sparePc.toNat < 2 then
      done (s.setStack stack.val { k1 with pcCopy := mark k1.pcCopy pc.val true, pcTo := k1.pcTo.put 0 pc.val (k1.sparePc.toNat + 1), sparePc := k1.sparePc + 1 })
    else
      let s1 := (s.setStack stack.val { k1 with pcDead := mark k1.pcDead pc.val true, unusable := true }).stopOnStack stack.val
      done (if s1.resets.hearthDown then s1 else s1.evalRetire)

/-! ### Rotation (R310, R313 to R317) -/

/-- The walk of a rack's gap: the place of the next gap and the direction after it. -/
def nextTarget (g : Nat) (east : Bool) : Nat × Bool :=
  let e := if !east && g = 0 then true else if east && g = 8 then false else east
  (if e then g + 1 else g - 1, e)

/-- Whether a rack takes a step: its gap is SPARE, or CONDITIONAL with conditions that have not matched for 10 minutes (R285,
R313); it is not lent, and no decant is in progress. -/
def State.rotates (s : State) (r : Rack) : Bool :=
  let x := s.pos (s.gapPos r)
  (x.state == .spare || (x.state == .conditional && decide (x.unmatchedAt + 600 ≤ s.lifeS))) && !x.lent && (s.rack r.idx).receiving.isNone

/-- One rack's step, unless a bridge would lose entries (R21): the position that the new gap names is TASTING, and the window of R310 is
judged for its test's start; a cell whose taste mismatch did not recur is next (R284). How the gap
reaches one that is not beside it R313 does not say: DESIGN CHOICE, in one step that moves every cell between, and the walk keeps its
direction (notes/assumptions/82.md). -/
def State.rotate (s : State) (r : Rack) : State :=
  let x := s.rack r.idx
  let g := s.gapPos r
  let walk := nextTarget x.gap.toNat x.dirEast
  let (t, e) := match x.nextTest with
    | some q => if (Pos.ofIdx q).rack = r && q ≠ g then ((Pos.ofIdx q).inRack, x.dirEast) else walk
    | none => walk
  let p := (r.pos t).idx
  if !(s.pos p).state.backs || !s.shiftFits r t then s
  else
    let s1 := (s.setGap r t).modPos g Health.takeWork
    let s2 := s1.modPos p fun y => { y with state := if y.state = .active || y.state = .spare then .tasting else y.state }
    s2.modRack r.idx fun x => { x with dirEast := e, nextTest := none, startOk := s.windowOk p }

/-- Whether rotation tests may start: enabled, not paused, in SERVICE or DEGRADED, MCLK from 1.0 GHz (R310, R313, R316). -/
def State.rotationOn (s : State) : Bool :=
  s.cfgs.tstEn && !s.tasterPaused && s.inService && !s.resets.hearthDown && decide (1000 ≤ s.damper.mclk.toNat)

/-- The largest time since a clean test over the positions of a rack that back logical cells, a lent gap among them, in ms (R317). -/
def State.untestedMs (s : State) (r : Rack) : Nat :=
  ((r.all.map Pos.idx).filter fun p => (p != s.gapPos r || (s.pos p).lent) && s.usable p).foldl (fun m p => max m (s.lifeMs - (s.pos p).cleanAt)) 0

/-- ROTATION_STEP (R296, R313, R315): the racks of a hob that are due step in one hold of cause 6, the oldest first after deep idle, or those
that carry no hob's work. -/
def execRotationStep (hob : Option HobId) (s : State) : Res :=
  if !s.rotationOn then done s
  else match hob with
    | some hn =>
      let h := hn.val
      let z := s.hob h
      if z.st = .free || z.st = .held || z.replay.active || s.decanting h then done s
      else
        let s1 := (s.holdNow h 6).returnHome h
        let due := (s1.racksOf h).filter s1.rotates
        let order := if s.cfgs.woke.contains h then due.insertionSort fun a b => s1.untestedMs b ≤ s1.untestedMs a else due
        let s2 := s1.each order fun s r => if s.rotates r then s.rotate r else s
        done ({ s2 with cfgs := { s2.cfgs with woke := s2.cfgs.woke.filter fun k => k != h } }.endHold h 6)
    | none => done (s.each (allRacks.filter fun r => s.hobOfRack r == none && s.rotates r) State.rotate)

/-- The common-cause test of a quarter has its last result (R303). Its rail, temperature and droop records have no code in R370; they go
to the installer. -/
def State.endCommonCause (s : State) (q : Nat) : State :=
  let x := s.expel.get {} q
  if !x.test || !x.pending.isEmpty then s
  else
    let common := x.suspects.all fun p => !x.failed.contains p
    let s1 := if common then s.each x.suspects fun s p => s.modPos p fun y => { y with score := 300 * scoreUnit, scoreAt := s.lifeS } else s
    let v := s1.pins.vcore.get 0 q
    let s3 := s1.emit (.mctpVals "common-cause records" ([q, v, s1.damper.droops.toNat] ++
      (allRacks.filter fun r => r.quarter == q).map (fun r => s1.sensors.rack.get 0 r.idx) ++
      (List.range 9).map (fun i => s1.sensors.railMv.get 0 i)))
    let s1 := s3
    let s2 := if common then s1.devEvent stOk 0 q
      else { s1 with pins := { s1.pins with vcore := s1.pins.vcore.put 0 q (v - x.margin.toNat) } }
    let y := { x with test := false, result := if common then 1 else 2, margin := if common then x.margin else 0, lids := [], suspects := [], failed := [], resultAt := s.lifeS }
    { s2 with expel := s2.expel.put {} q y }

/-- A tested unit is re-initialised (R311): the cell is blank, and its trace buffer and calendar store are invalid. -/
def State.reinit (s : State) (p : Nat) : State := if (s.cell p).hob.isNone then s.modCell p Cell.cleared else s

/-- The work of a position is moved off it for a test, onto its rack's free gap, in a hold of cause 6 (R292, R303). -/
def State.swapOff (s : State) (p : Nat) : State :=
  match (s.cell p).hob with
  | some h => (s.holdNow h 6).shiftFrom p
  | none => s

/-- The swap is undone: the gap is where it was, and SPARE (R286, R303). -/
def State.swapBack (s : State) (r : Rack) (g : Nat) : State :=
  if s.gapPos r = g then s
  else (s.setGap r (Pos.ofIdx g).inRack).modPos g fun x => { x with state := if x.state = .active then .spare else x.state }

/-- The result of one position of a common-cause test (R303). -/
def State.countSuspect (s : State) (p : Nat) (failed : Bool) : State :=
  { s with expel := s.expel.upd {} (Pos.ofIdx p).quarter fun y => { y with
    pending := mark y.pending p false, failed := if failed then mark y.failed p true else y.failed } }

/-- SCAN_TEST_DONE (R284, R303, R310 to R313): a TASTING position becomes SPARE, or is lidded test-driven; a checker under
arbitration and a position of a common-cause test get their result. In a common-cause test the position's work is off it in a hold of
cause 6 and comes back unless the position fails; where its rack's gap has been taken since, it is not tested. `inWindow` says that the
window of R310 held at the start; at the end, and at the start of a rotation's test, it is read from the sensors. -/
def execScanTestDone (cell : Pos) (pass inWindow : Bool) (unit : BitVec 12) (s : State) : Res :=
  let p := cell.idx
  let r := cell.rack
  let q := cell.quarter
  let x := s.pos p
  let cc := s.expel.get {} q
  let common := cc.test && cc.pending.contains p
  let valid := inWindow && s.windowOk p && (x.state != .tasting || common || (s.rack r.idx).startOk)
  let arbiter := allPos.find? fun c => (s.cell c.idx).taste.resample == some p && (s.pos p).hist.any fun e => e.code.toNat == stTaste && e.out == 0
  let g := s.gapPos r
  let work := common && (s.cell p).hob.isSome
  if s.resets.hearthDown || !(x.state == .tasting || common || arbiter.isSome) then done s
  else if work && (!s.gapFree r || (s.rack r.idx).receiving.isSome || !s.shiftFits r cell.inRack) then done ((s.countSuspect p false).endCommonCause q)
  else
    let s1 := if common then (s.countSuspect p (valid && !pass)) else s
    let s2 := if work then s1.swapOff p else s1
    let back := fun (s : State) => ((s.reinit p).modPos p fun y => { y with state := if y.state = .tasting then .spare else y.state }).swapBack r g
    let s3 := if !valid then back (s2.voidTest r)
      else if pass then back (s2.cleanTest p)
      else match arbiter with
        | some c =>
          let t := ((s2.setOutcome p stTaste 3).setOutcome c.idx stTaste 1).modCell c.idx fun y => { y with taste := { y.taste with resample := none } }
          (t.reinit p).failTest p unit.toNat 1
        | none => (s2.reinit p).failTest p unit.toNat (if common then 3 else 1)
    let s4 := match (s.cell p).hob with
      | some h => if work then s3.endHold h 6 else s3
      | none => s3
    done (s4.endCommonCause q)

/-- UNTESTED_AGE_ALERT (R317): once a rack for each crossing of the threshold. -/
def execUntestedAgeAlert (r : Rack) (s : State) : Res :=
  let above := decide (s.cfgs.tstAlert.toNat * 3600000 ≤ s.untestedMs r)
  let x := s.rack r.idx
  if s.resets.hearthDown || s.st = .off || above = x.alerted then done s
  else
    let s1 := s.modRack r.idx fun x => { x with alerted := above }
    done (if above then (s1.logDev 0x040C 0xFF [r.idx]).devEvent stOk 0 r.idx else s1)

/-! ### Transparent scratchpad test (R319 to R322) -/

/-- Hob cycles below b at which an entry of a quiet list stands, repeating with a period. -/
def quietBelow (period e b : Nat) : Nat := if b ≤ e then 0 else (b - e - 1) / max period 1 + 1

/-- Phases of a row test (R319): 4 granules saved, 12 accesses of the march to each of them, 4 restored, in 56 bank-cycles. -/
inductive RowPhase where
  | save | march | restore | over
  deriving DecidableEq, Repr

/-- The phase that a row test is in after a number of bank-cycles of its bank (R319). -/
def rowPhase (n : Nat) : RowPhase := if n < 4 then .save else if n < 52 then .march else if n < 56 then .restore else .over

/-- Bank-cycles that the row test under way has had: quiet ones in static mode (R132), in sequencer mode those that no sequencer took
(R319). -/
def State.rowCycles (s : State) (h n p : Nat) : Nat :=
  let z := s.hob h
  let t := (s.pos p).tmt
  if z.seqMode then z.clk.cyc - t.began - ((s.cell p).seqBusy.get 0 t.bank.toNat - t.busyAt)
  else ((z.rcp.quiet.getD n []).filter fun q => q.mask.getLsbD t.bank.toNat).foldl
    (fun m q => m + (quietBelow z.rcp.periodLen q.cyc z.clk.cyc - quietBelow z.rcp.periodLen q.cyc t.began)) 0

/-- The row test has had the bank-cycles that it needs; where no calendar runs, every one is free. -/
def State.tmtQuiet (s : State) (p : Nat) : Bool :=
  match s.workAt p with
  | none => true
  | some (h, n) => !(s.hob h).executing || rowPhase (s.rowCycles h n p) == .over

/-- A calendar hold has come since the row test began, and the engine has restored the row for it (R320). -/
def State.rowHeld (s : State) (p : Nat) : Bool :=
  match s.workAt p with
  | none => false
  | some (h, _) => (s.hob h).hold.events.toNat != (s.pos p).tmt.holds

/-- TMT_ROW_START (R319): the row goes to the save buffer. Paused in deep idle (R315). -/
def execTmtRowStart (cell : Pos) (s : State) : Res :=
  let p := cell.idx
  let x := s.pos p
  if !s.inService || s.tasterPaused || !x.state.backs || x.tmt.running then done s
  else
    let (began, holds) := match s.workAt p with
      | some (h, _) => ((s.hob h).clk.cyc, (s.hob h).hold.events.toNat)
      | none => (0, 0)
    let busy := (s.cell p).seqBusy.get 0 x.tmt.bank.toNat
    done (s.modPos p fun x => { x with tmt := { x.tmt with running := true, began := began, busyAt := busy, holds := holds } })

/-- The row after the one under test: 64 rows and 8 spares of each bank, bank after bank. -/
def Tmt.next (t : Tmt) (nowMin : Nat) : Tmt :=
  let row := match t.resume with
    | some r => r
    | none => t.row.toNat + 1
  let t1 := { t with running := false, resume := none }
  if row < 72 then { t1 with row := BitVec.ofNat 7 row }
  else
    let t2 := { t1 with row := 0, covered := t1.covered.put 0 t1.bank.toNat nowMin }
    if t1.bank = 31 then { t2 with bank := 0, passes := satInc t2.passes, badRows := [] } else { t2 with bank := t2.bank + 1 }

/-- The row under test gives its place to spare n of its bank (R50, R321): 64 to 71 are spare rows 1 to 8, whose tenant moves on. -/
def Health.moveRow (x : Health) (bank row n : Nat) : Health :=
  if row < 64 then
    let old := x.rowMap.get 0 (bank * 64 + row)
    { x with rowMap := x.rowMap.put 0 (bank * 64 + row) n, spareBad := if old = 0 then x.spareBad else mark x.spareBad (bank * 16 + old) true }
  else { x with rowMap := x.rowMap.map fun e => if e.1 / 64 == bank && e.2 == row - 63 then (e.1, n) else e }

/-- TMT_ROW_DONE (R319 to R321): after 56 bank-cycles; a row that was restored for a hold is tested again later. A failing row takes a spare,
which is tested next; with no spare left, or at a second failing row of the bank in one pass, record 0x44 and a test-driven lid. -/
def execTmtRowDone (cell : Pos) (pass : Bool) (s : State) : Res :=
  let p := cell.idx
  let x := s.pos p
  let t := x.tmt
  let nowMin := s.lifeS / 60
  if !t.running then done s
  else if s.rowHeld p then done (s.modPos p Health.endRow)
  else if !s.tmtQuiet p then done s
  else if pass then done (s.modPos p fun y => { y with tmt := y.tmt.next nowMin })
  else
    let bank := t.bank.toNat
    let y := if t.row.toNat < 64 then x else { x with spareBad := mark x.spareBad (bank * 16 + (t.row.toNat - 63)) true }
    let again := t.badRows.any fun r => r / 72 == bank
    let t1 := { t with running := false, badRows := mark t.badRows (bank * 72 + t.row.toNat) true }
    let (y1, bad) := match y.nextSpare bank with
      | some n => ({ (y.moveRow bank t.row.toNat n) with
          tmt := { t1 with row := BitVec.ofNat 7 (63 + n), resume := some (t.resume.getD (t.row.toNat + 1)) } }, again)
      | none => ({ y with tmt := { t1 with resume := none } }, true)
    let s1 := s.setPos p y1
    done (if bad then ((s1.addHist p (s.histRec p 0x44 0 (32 * t.row.toNat + bank))).lateTaint p 4).lid p true else s1)

/-! ### Fault provocation (R323 to R325) -/

/-- A setting of the bits of R323. -/
def perturbOf (v : Nat) : Perturb :=
  { valid := bit 127 v, kind := BitVec.ofNat 3 (bits 126 124 v), hob := BitVec.ofNat 3 (bits 123 121 v), life := BitVec.ofNat 10 (bits 110 101 v),
    ttype := BitVec.ofNat 3 (bits 100 98 v), tidx := BitVec.ofNat 13 (bits 97 85 v), param := BitVec.ofNat 48 (bits 47 0 v) }

/-- The target's type fits the kind and its index is in range and inside the hob (R323, R324). -/
def Hob.targetOk (z : Hob) (x : Perturb) : Bool :=
  let t := x.ttype.toNat
  let i := x.tidx.toNat
  (match x.kind.toNat with
    | 1 => t == 1 || t == 2
    | 2 => t == 1 || t == 3
    | 4 => t == 0
    | _ => t == 4) &&
  (match t with
    | 1 => decide (i ≤ 343)
    | 2 => decide (i ≤ 31)
    | 3 => decide (i ≤ 15) && z.grant.lnp.getLsbD i
    | 4 => decide (i < z.rect.cells)
    | _ => true)

/-- Field values are in range (R323, R324). -/
def Perturb.fieldsOk (x : Perturb) : Bool :=
  let v := x.param.toNat
  decide (1 ≤ x.kind.toNat ∧ x.kind.toNat ≤ 5) && decide (1 ≤ x.life.toNat ∧ x.life.toNat ≤ 600) &&
  (match x.kind.toNat with
    | 4 => bits 15 0 v != 0 && decide (256 ≤ bits 47 16 v)
    | 5 => decide (1 ≤ bits 3 0 v ∧ bits 3 0 v ≤ 5) && bits 15 8 v != 0 && bits 31 16 v != 0
    | _ => true)

/-- Why a setting is refused: 0 it is not, 2 value, 3 grant (R323). -/
def State.perturbRefused (s : State) (i : Nat) (x : Perturb) : Nat :=
  let z := s.hob x.hob.toNat
  if !x.valid then 0
  else if !z.grant.test then 3
  else if !x.fieldsOk || !z.targetOk x then 2
  else if s.perturbs.any fun e => e.1 != i && e.2.valid && (e.2.kind, e.2.hob, e.2.ttype, e.2.tidx) == (x.kind, x.hob, x.ttype, x.tidx) then 2
  else 0

/-- PERTURB_SET (R323 to R325): a rewritten setting starts a new lifetime; a refused write is recorded. -/
def execPerturbSet (who : Who) (i : Fin 16) (v : BitVec 128) (s : State) : Res :=
  let x := perturbOf v.toNat
  let h := x.hob.toNat
  let refuse := if s.st = .off || s.down then 4 else s.perturbRefused i.val x
  let s1 := s.priv who [.installer, .maker] 0x010B h [i.val, v.toNat] refuse fun s =>
    let old := s.perturbs.get {} i.val
    let t := if old.valid && old.kind = 4 then s.endHold old.hob.toNat 7 else s
    { t with perturbs := t.perturbs.put {} i.val { x with ends := s.now + x.life.toNat * secNs, from_ := (s.hob h).clk.cyc + 64 } }
  done (if refuse = 0 then s1 else s1.logDev 0x040A h [i.val])

/-- PERTURB_HOLD (R324): a forced hold falls before a hob cycle that is a multiple of the period. -/
def execPerturbHold (i : Fin 16) (s : State) : Res :=
  let x := s.perturbs.get {} i.val
  let h := x.hob.toNat
  let z := s.hob h
  let period := bits 47 16 x.param.toNat
  let n := bits 15 0 x.param.toNat
  if !x.valid || x.kind ≠ 4 || !z.executing || z.clk.cyc < x.from_ || z.clk.cyc % period ≠ 0 || x.lastAt = some z.clk.cyc then done s
  else
    let s1 := s.modHob h fun y =>
      let w := (y.addCause s.now 7).freeze s.now 7 0
      { w with hold := { w.hold with forcedTo := w.hold.cyc.toNat + n } }
    done { s1 with perturbs := s1.perturbs.upd {} i.val fun y => { y with lastAt := some z.clk.cyc } }

/-- The injected error falls on its item (R324): a link wire (output × 2,048 + wire), an accumulator row, a scratchpad word, or
the landing block of a transaction; none where there is no such item now. The second part is the status code it will raise. -/
def State.injectError (s : State) (h n check word : Nat) : Option (State × Option Nat) :=
  let p := s.posOf h n
  match check with
  | 1 =>
    let out := (Dir.all.find? fun d => d.code == word / 2048).getD .loc
    let (x, y) := (s.hob h).rect.xy n
    match neighbour x y out with
    | none => none
    | some (a, b) => match (s.hob h).rect.num a b with
      | none => none
      | some m =>
        let q := s.routerPos h m
        if ((s.router q).inputs.any fun f => f.inp == out.facing) then
          let s1 := s.modRouter q fun r => { r with inputs := r.inputs.map fun f => if f.inp = out.facing then { f with flit := f.flit.cross [word % 2048] } else f }
          some (s1.parityFault h m x y out [word % 2048], some stParity)
        else none
  | 2 => some (after (execResidueFault (Pos.ofIdx p) (Fin.ofNat 2 (word / 32)) (Fin.ofNat 32 word) s) s, some stResidue)
  | 3 => some (s.modCell p fun c => c.upset { word := word % 32768 }, none)
  | 4 => some (s.modCell p fun c => c.upset { word := word % 32768, double := true }, some stEccUe)
  | _ => match s.txn word with
    | none => none
    | some t =>
      if t.crossingOf h && !t.write && t.cell == n then some (after (execBlockLanding word t.data false s) s, some stBlockCheck) else none

/-- PERTURB_INJECT (R324). -/
def execPerturbInject (i : Fin 16) (word : Nat) (s : State) : Res :=
  let x := s.perturbs.get {} i.val
  let h := x.hob.toNat
  let v := x.param.toNat
  let early := match x.lastAt with
    | some t => decide (s.now < t + bits 31 16 v * usNs)
    | none => false
  if !x.valid || x.kind ≠ 5 || bits 15 8 v ≤ x.done || early || !(s.hob h).executing then done s
  else match s.injectError h x.tidx.toNat (bits 3 0 v) word with
    | none => done s
    | some (t, code) =>
      let t1 := match code with
        | some c => t.modPos (s.posOf h x.tidx.toNat) fun y => { y with injected := y.injected ++ [c] }
        | none => t
      done { t1 with perturbs := t1.perturbs.upd {} i.val fun y => { y with done := y.done + 1, lastAt := some s.now } }

/-- PERTURB_EXPIRY (R325). -/
def execPerturbExpiry (i : Fin 16) (s : State) : Res :=
  let x := s.perturbs.get {} i.val
  if x.valid && decide (x.ends ≤ s.now) then done (s.endPerturb i.val) else done s

/-! ### HOB_CONFIG TEST (R318) -/

/-- A tested cell is rebuilt from the image, and what survives a fence is restored (R318). -/
def State.retest (s : State) (h n : Nat) : State :=
  let p := s.posOf h n
  let c := s.cell p
  let s1 := if (s.hob h).recipe.isNone then s.setCell p c.blank else s.rebuildCell h n
  s1.modCell p fun d => { d with slots := [0, 1, 2, 3].foldl (fun (t : Tab Slot) i => t.upd {} i fun x => { x with qgen := (c.slot i).qgen }) d.slots }

/-- HOB_CONFIG TEST (R310 to R312, R318): every position of the hob's racks that backs a cell and is old enough is tested. One that passes is
rebuilt; one that fails is re-initialised too, so that its work is rebuilt where its decant takes it (R291), and is lidded with the group
that failed. -/
def execHobConfigTest (ref : CmdRef) (hob : HobId) (minutes : Nat) (failed : List (Pos × BitVec 12)) (s : State) : Res :=
  let h := hob.val
  done (s.command ref h 10 5 (fun e => leAt e 8 4 == minutes) fun s =>
    let z := s.hob h
    let racks := s.racksOf h
    let old := fun p => decide (minutes * 60000 ≤ s.lifeMs - (s.pos p).cleanAt)
    let due := (s.nums h).filter fun n => let p := s.posOf h n; racks.contains (Pos.ofIdx p).rack && s.usable p && old p
    let tested := due.filter fun n => s.windowOk (s.posOf h n)
    let unit := fun (n : Nat) => (failed.find? fun (f : Pos × BitVec 12) => f.1.idx == s.posOf h n).map fun f => f.2.toNat
    let bad := tested.filter fun n => (unit n).isSome
    let status := if z.st = .stopped && z.restore.isNone then stOk else stState
    s.ringPriv ref h 5 [minutes] status (fun s =>
      let s0 := s.leaveIdle
      let s1 := s0.each (due.filter fun n => !tested.contains n) fun s n => s.voidTest (Pos.ofIdx (s.posOf h n)).rack
      let s2 := s1.each (tested.filter fun n => !bad.contains n) fun s n => (s.cleanTest (s.posOf h n)).retest h n
      s2.each bad fun t n => ((t.dropLandings h n).modCell (s.posOf h n) Cell.blank).failTest (s.posOf h n) ((unit n).getD 0) 1)
      (tested.length, bad.length))

end Sys2Proof.Machine
end

