-- ==== Sys2Proof/Machine/Taster.lean ====
section
/-! DEFINITION. The taster's sampled recomputation: TRACE_WINDOW to TASTER_SAMPLE_ABANDON (R269 to R272, R284). -/

namespace Sys2Proof.Machine

open Sys2Proof

/-- TRACE_WINDOW (R269): at a multiple of 256 hob cycles the window that ends is held when its sample is due, and a new one
opens with a snapshot; at a fence the last window of the step only ends. -/
def execTraceWindow (cell : Pos) (s : State) : Res :=
  let p := cell.idx
  let c := s.cell p
  match c.hob with
  | none => done s
  | some h =>
    let z := s.hob h
    let t := c.taste
    if !z.executing || s.tasterPaused || z.clk.cyc % 256 ≠ 0 || (t.cur.recording && t.cur.start = z.clk.cyc) || (!t.cur.recording && z.atFence) then done s
    else
      let takes := t.cur.recording && t.due && t.held.isNone
      let new : TraceHalf := if z.atFence then {} else
        { recording := true, fence := z.clk.fence, start := z.clk.cyc, snap := c.units, sr := [0, 1, 2, 3].map fun i => (c.slot i).sr }
      done (s.setCell p { c with taste := { t with
        cur := new, held := if takes then some { t.cur with recording := false, ended := s.now } else t.held, due := t.due && !takes } })

/-- A checker that recomputes a sample of some cell in reach is busy. -/
def State.checkerBusy (s : State) (k : Nat) : Bool :=
  let pos := Pos.ofIdx k
  (List.range 27).any fun i =>
    let px := 9 * pos.rack.k.val + i
    decide (9 ≤ px ∧ px < 117) && (s.cell (pos.py.val * 108 + px - 9)).taste.checker == some k

/-- Checkers for a cell, in the order of R270: the gap of its own rack, then of racks k − 1 and k + 1 in the same row and
quarter, if SPARE. -/
def State.checkers (s : State) (p : Nat) : List Nat :=
  let r := (Pos.ofIdx p).rack
  let at_ := fun (k : Nat) => ({ row := r.row, k := Fin.ofNat 12 k } : Rack)
  let near := (if r.k.val = 0 then [] else [at_ (r.k.val - 1)]) ++ (if r.k.val = 11 then [] else [at_ (r.k.val + 1)])
  ((r :: near.filter fun x => x.quarter == r.quarter).map s.gapPos).filter fun k => (s.pos k).state == .spare && !(s.pos k).lent && (s.rack (Pos.ofIdx k).rack.idx).receiving != some k

/-- The sample in progress is over; a new gap is drawn (R270). -/
def State.endSample (s : State) (p : Nat) (stat : TasteStat → TasteStat) : State :=
  let (g, s1) := s.drawGap p
  s1.modCell p fun c => { c with taste := { c.taste with held := none, checker := none, nextAt := c.taste.blocks + g, stat := stat c.taste.stat } }

/-- TASTER_SAMPLE_SHIP (R270, R284): the held window goes to its checker, its own rack's gap where that is SPARE; with the checker busy the
sample moves to the next block, and without one the window is skipped. A sample that settles an arbitration takes another checker if it can. -/
def execTasterSampleShip (cell : Pos) (s : State) : Res :=
  let p := cell.idx
  let t := (s.cell p).taste
  if t.held.isNone || t.checker.isSome then done s
  else
    let all := s.checkers p
    let own := s.gapPos cell.rack
    let free := if all.contains own && s.checkerBusy own && t.resample.isNone then [] else all.filter fun k => !s.checkerBusy k
    let best := match free.find? fun k => t.resample != some k with
      | some k => some k
      | none => free.head?
    done (match best with
      | some k => (s.modCell p fun c => { c with taste := { c.taste with checker := some k } }).emit (.mgt "sample" [p, k])
      | none =>
        if all.isEmpty then s.endSample p fun x => { x with skip := satInc x.skip }
        else s.modCell p fun c => { c with taste := { c.taste with
          held := none, nextAt := c.taste.blocks + 1, stat := { c.taste.stat with defer := satInc c.taste.stat.defer } } })

/-- A checker can still give a verdict: it has not been lidded (R299). -/
def State.checkerGood (s : State) (k : Nat) : Bool := (s.pos k).state == .spare || (s.pos k).state == .tasting

/-- TASTER_VERDICT (R271, R272, R284): a sample passes, or raises TASTE_MISMATCH in the step of its window. The first mismatch
leaves the arbitration to a resample of the same block in the replay; its result settles the events of cell and checker. -/
def execTasterVerdict (cell : Pos) (mismatch : Bool) (s : State) : Res :=
  let p := cell.idx
  let c := s.cell p
  let t := c.taste
  match c.hob, t.held, t.checker with
  | some h, some w, some k =>
    if !s.checkerGood k then done (s.endSample p fun x => { x with skip := satInc x.skip })
    else if !mismatch then
      let key := s.condKey p
      let s1 := (s.endSample p fun x => { x with pass := satInc x.pass }).modPos p fun x =>
        { x with passKeys := (s.lifeS, key) :: x.passKeys.filter fun e => e.2 != key }
      match t.resample with
      | none => done s1
      | some k0 =>
        let s2 := (s1.setOutcome p stTaste 1).setOutcome k0 stTaste 1
        let s3 := s2.modCell p fun c => { c with taste := { c.taste with resample := none } }
        done (s3.modRack cell.rack.idx fun r => { r with nextTest := some p })
    else
      let s1 := (s.modCell p fun c => { c with taste := { c.taste with
        held := none, checker := none, stat := { c.taste.stat with fail := true } } }).faultOf h c.n w.fence
      match t.resample with
      | none => done (s1.modCell p fun c => { c with taste := { c.taste with resample := some k } })
      | some _ =>
        let s2 := (s1.modCell p fun c => { c with taste := { c.taste with resample := none } }).setOutcome p stTaste 2
        done (s2.settlePermanent p)
  | _, _, _ => done s

/-- TASTER_SAMPLE_ABANDON (R271, R299): 1.8 ms after its window, or when its checker is lidded. -/
def execTasterSampleAbandon (cell : Pos) (s : State) : Res :=
  let p := cell.idx
  let t := (s.cell p).taste
  match t.held with
  | none => done s
  | some w =>
    let late := t.checker.isNone && decide (w.ended + 1800 * usNs ≤ s.now)
    let lost := match t.checker with
      | some k => !s.checkerGood k
      | none => false
    if late || lost then done (s.endSample p fun x => { x with skip := satInc x.skip }) else done s

end Sys2Proof.Machine
end

