-- ==== Sys2Proof/Machine/Regs.lean ====
section
/-! DEFINITION. The status registers as they read, in the bit layouts of the spec (R52 to R56, R123, R124, R154, R164, R172,
R192, R194, R214 to R218, R222, R224, R234, R237, R263, R264, R272, R275, R287, R304, R307, R316, R317, R322, R330, R348, R357,
R366, R367, R382, R386, R390, R400). -/

namespace Sys2Proof.Machine

open Sys2Proof

/-- Fields of a register, most significant first: width and value. -/
def pack (l : List (Nat × Nat)) : Nat := l.foldl (fun n f => n * 2 ^ f.1 + f.2 % 2 ^ f.1) 0

/-- A flag as a number. -/
def flag (b : Bool) : Nat := if b then 1 else 0

/-- A number held at the largest value of w bits. -/
def capNat (w n : Nat) : Nat := min n (2 ^ w - 1)

/-! ### Cells -/

/-- Bring-up has set the positions' states and the gaps (R287, R393); before it their registers read their reset values. -/
def State.reserveKnown (s : State) : Bool := decide (6 ≤ s.boot.stage.toNat) || s.boot.warm

/-- `HRT_CELL_STAT` (R287). -/
def State.cellStat (s : State) (p : Nat) : Nat :=
  let x := (s.pos p).decayed s.lifeS
  let r := (Pos.ofIdx p).rack
  let w := s.workAt p
  pack [(3, x.state.code), (1, flag x.perm), (1, flag x.lidTest), (2, x.passes.toNat), (1, flag (s.gapPos r == p && s.reserveKnown)), (1, flag x.lent),
        (1, flag w.isSome), (3, (w.map fun a => a.1).getD 0), (9, 0), (10, min 1000 (x.score / scoreUnit))]

/-- `HRT_TMT_STAT` (R322). -/
def State.tmtStat (s : State) (p : Nat) : Nat :=
  let t := (s.pos p).tmt
  let oldest := (List.range 32).foldl (fun m b => max m (s.lifeS / 60 - t.covered.get 0 b)) 0
  pack [(5, t.bank.toNat), (7, t.row.toNat), (8, t.passes.toNat), (12, capNat 12 oldest)]

/-- `HOB_MSG_QGEN` 0 to 3 of a cell (R174). -/
def Cell.qgens (c : Cell) : Nat :=
  pack [(8, (c.slot 3).qgen.toNat), (8, (c.slot 2).qgen.toNat), (8, (c.slot 1).qgen.toNat), (8, (c.slot 0).qgen.toNat)]

/-- The status register of a landing window (R173). -/
def Win.word (w : Win) : Nat :=
  pack [(2, w.state.toNat), (2, w.slot.toNat), (4, w.region.toNat), (8, w.gen.toNat), (8, w.qgen.toNat), (8, 0)]

/-- The registers of a cell that its operator reads: slot windows, homes, region status, steering, sequencers, windows, taster. -/
def Cell.regs (c : Cell) : List Nat :=
  ([0, 1, 2, 3].flatMap fun i =>
    let x := c.slot i
    [pack [(1, flag x.valid), (1, flag x.resident), (14, 0), (8, x.size.toNat), (1, 0), (7, x.base.toNat)],
     pack [(28, x.homeTag.toNat), (36, x.homeAddr.toNat)], x.seq.word.toNat] ++
    (List.range 16).map fun r => (x.region r).stat.toNat) ++
  [c.qgens, c.units.steer.stat.toNat, c.taste.stat.word.toNat] ++
  (List.range 32).flatMap fun w => [(c.win w).word, pack [(32, (c.win w).landed.toNat), (32, (c.win w).refused.toNat)]]

/-! ### Hobs -/

/-- The hold and simmer registers of a hob (R123, R124). -/
def Hob.holdRegs (h : Hob) : List Nat :=
  [pack [(32, h.hold.events.toNat), (32, h.hold.misses.toNat)], h.hold.cyc.toNat,
   pack [(4, h.hold.cause.toNat), (12, 0), (16, h.hold.xng.toNat), (32, h.hold.atCyc.toNat)],
   pack [(1, flag h.simmer.on), (15, 0), (8, h.simmer.duty.toNat), (8, h.simmer.share.toNat)]]

/-- `HOB_RPL_STAT` (R275). -/
def Replay.word (r : Replay) : Nat := pack [(32, r.count.toNat), (8, r.code.toNat), (2, r.tries.toNat), (9, 0), (13, r.cell.toNat)]

/-- `HOB_GRANT` and `HOB_GRANT_EXT` (R237). -/
def Grant.word (g : Grant) : Nat :=
  pack [(1, flag g.valid), (2, g.hport.toNat), (1, flag g.test), (13, g.cells.toNat), (7, g.power.toNat), (16, g.lnp.toNat),
        (14, g.pantry.toNat), (10, 0)]

def Grant.extWord (g : Grant) : Nat := pack ((20, 0) :: (List.range 12).reverse.map fun k => (9, (g.ext.get 0 k).toNat))

/-- `RIM_EXT` and `RIM_RSV` (R192, R194). -/
def Ext.word (e : Ext) : Nat := pack [(1, flag e.valid), (1, flag e.rsv), (21, 0), (9, e.dev.toNat)]
def Rsv.word (r : Rsv) : Nat := pack [(1, flag r.on), (5, r.bw.toNat), (8, 0), (9, r.last.toNat), (9, r.first.toNat)]

/-- `RIM_COW_STAT` (R216). -/
def State.cowStat (s : State) (h : Nat) : Nat :=
  let c := (s.hob h).cow
  pack [(1, flag c.armed), (1, flag c.draining), (1, flag c.folding), (11, 0), (18, (s.rdrs.filter fun e => e.2.hob == h).length), (32, c.waits.toNat)]

/-- `PNT_JAR_POLICY` (R357). -/
def JarPolicy.word (p : JarPolicy) : Nat := pack [(2, p.kind.toNat), (6, p.ceil.toNat), (8, p.theta.toNat), (16, 0)]

/-- `HP_STATE` of a function (R222). A PF shows no hob. -/
def State.hpState (s : State) (p f : Nat) : Nat :=
  let z := s.hob (f - 1)
  let fn := (s.host p).fnSt f
  if f = 0 then pack [(3, s.st.code), (3, 0), (1, 0), (1, flag fn.authOk), (4, 15), (2, p), (18, 0), (32, 0)]
  else pack [(3, s.st.code), (3, z.reported.code), (1, flag z.overq), (1, flag fn.authOk), (4, f - 1), (2, p), (18, 0), (32, z.fenceLast % 2 ^ 32)]

/-- `HP_RING_CFG` and `HP_RING_STAT` (R224). -/
def Ring.cfgWord (x : Ring) : Nat :=
  pack [(1, flag x.en), (1, flag x.hot), (5, 0), (5, x.log2.toNat), (1, 0), (3, x.vec.toNat), (8, x.count.toNat), (10, x.time.toNat), (30, 0)]
def Ring.statWord (x : Ring) : Nat := pack [(1, flag x.on), (3, x.err.toNat), (19, 0), (9, x.inFlight), (32, x.ci.toNat)]

/-- The 8 B of BAR0 that a function answers a read of offset `off` with (R220, R221): all ones for a VF whose hob is not assigned to the
port, its registers, its MSI-X table and PBA, and 0 elsewhere. -/
def State.bar0 (s : State) (p f off : Nat) : Nat :=
  let fn := (s.host p).fnSt f
  if !s.assigned p f then 2 ^ 64 - 1
  else if off = 0 then s.hpState p f
  else if off = 8 then fn.nonce.toNat
  else if off = 0x10 && f = 0 then fn.authHob.toNat
  else if 0x1000 ≤ off && off < 0x1100 && ringExists f ((off - 0x1000) / 0x40) then
    let x := fn.ring ((off - 0x1000) / 0x40)
    match off % 0x40 with
    | 0 => x.sqBase.toNat
    | 8 => x.cqBase.toNat
    | 0x10 => x.dbAddr.toNat
    | 0x18 => x.cfgWord
    | 0x20 => x.statWord
    | _ => 0
  else if 0x8000 ≤ off && off < 0x8080 && off % 8 = 0 then
    let v := (fn.msix.get msixReset ((off - 0x8000) / 16)).toNat
    if off % 16 = 0 then v % 2 ^ 64 else v / 2 ^ 64
  else if off = 0x9000 then fn.pba.toNat
  else 0

/-- One entry of the hob map (R234). Only a far placement has extra latency. -/
def State.mapEntry (s : State) (h n : Nat) : Nat :=
  let p := s.posOf h n
  let pos := Pos.ofIdx p
  let far := (s.hob h).fars.find? fun f => f.n == n
  let e := (far.map fun f => f.e).getD 0
  if s.void h n then pack [(1, 1), (31, 0)]
  else
    let st := (s.pos p).state.code
    pack [(1, 0), (1, flag far.isSome), (7, min 127 e), (7, pos.px.val), (6, pos.py.val), (3, st), (7, 0)]

/-! ### Racks, quarters and the reserve -/

/-- `HRT_RACK_TEST` (R317). -/
def State.rackTest (s : State) (r : Rack) : Nat :=
  let x := s.rack r.idx
  let g := s.pos (s.gapPos r)
  let block := if !s.cfgs.tstEn || s.tasterPaused then 5
    else if g.state = .lidded || g.state = .fusedOff || g.state = .parole then 1
    else if g.lent then 2
    else if g.state = .conditional then 3
    else if !(decide (1000 ≤ s.damper.mclk.toNat ∧ s.damper.mclk.toNat ≤ 1600) && s.windowOk (s.gapPos r)) then 4
    else 0
  let oldest := ((List.range 9).foldl (fun (b : Nat × Nat) i =>
    let t := (s.pos (r.pos i).idx).cleanAt
    if t < b.2 then (i, t) else b) (0, (s.pos (r.pos 0).idx).cleanAt)).1
  pack [(20, capNat 20 (s.untestedMs r / 60000)), (4, x.gap.toNat), (1, flag x.dirEast), (3, block), (4, oldest), (16, x.pass.toNat), (16, x.void.toNat)]

/-- `HRT_EXPEL` of a quarter (R304). -/
def State.expelWord (s : State) (q : Nat) : Nat :=
  let x := s.expel.get {} q
  pack [(4, min 15 (x.lids.filter fun t => s.lifeS < t + 3600).length), (1, flag x.test), (3, x.result.toNat), (8, x.margin.toNat), (16, x.runs.toNat)]

/-- `HRT_SPARE_STAT` (R307). -/
def State.spareStat (s : State) : Nat :=
  let f := if s.reserveKnown then [0, 1, 2, 3].map s.freeSpares else [0, 0, 0, 0]
  let susp := [0, 1, 2, 3].foldl (fun n q => if (s.expel.get {} q).test then n + 2 ^ q else n) 0
  pack ([(1, flag s.hearth.retire), (3, s.hearth.retireWhy.toNat), (4, susp), (10, f.foldl (· + ·) 0)] ++ f.map (fun n => (8, n)) ++
    [(10, if s.reserveKnown then capNat 10 s.voids else 0), (4, 0)])

/-! ### Stacks, ports and the pantry -/

/-- `RIM_STK_STAT` (R218). -/
def State.stkStat (s : State) (k : Nat) : Nat :=
  let x := s.stack k
  let pwr := match x.pwr with
    | .on => 0 | .powerDown => 1 | .selfRefresh => 2 | .off => 3
  pack [(2, pwr), (2, x.sparePc.toNat), (1, flag x.hotref), (3, 0), (24, x.rowrep.toNat),
        (16, capNat 16 (x.ceAt.filter fun t => s.lifeMs < t + dayMs).length), (16, x.ue.toNat)]

/-- A redirect table entry (R214): the CRC-32C stands over the entry with its field zero. -/
def rdrWord (page : Nat) (r : Rdr) : Nat :=
  let z := pack [(1, 1), (1, flag r.drained), (3, r.hob), (4, page / 2 ^ 21), (4, 0), (21, page % 2 ^ 21), (14, r.shadow), (16, r.bmask.toNat), (32, r.seq.toNat), (32, 0)]
  z + (crc32c (leBytes 16 z)).toNat

/-- `HRT_HIST` of a position's record, with its CRC-32C over bits [127:32] (R283). -/
def Hist.word (e : Hist) (p : Nat) : Nat :=
  let z := pack [(32, e.time.toNat), (7, p % 108), (6, p / 108), (8, e.code.toNat), (3, e.temp.toNat), (4, e.volt.toNat), (3, e.clk.toNat),
    (3, e.kind.toNat), (2, e.out.toNat), (12, e.unit.toNat), (16, e.wt.toNat)]
  z * 2 ^ 32 + (crc32c (leBytes 12 z)).toNat

/-- `LNP_PORT_STAT`, `LNP_PORT_CTL` and `LNP_LANE_STAT` (R263). -/
def LnpState.code : LnpState → Nat
  | .dark => 0 | .training => 1 | .upFull => 2 | .upReduced => 3 | .down => 4

def Lnp.stat (x : Lnp) : Nat :=
  pack [(3, x.st.code), (1, flag x.parked), (4, x.lanes), (1, flag x.session), (13, x.peerDev.toNat), (4, x.peerPort.toNat),
        (2, x.downWhy.toNat), (4, 0), (16, x.retrains.toNat), (16, x.drops.toNat)]
def Lnp.ctl (x : Lnp) : Nat := pack [(1, flag x.en), (1, flag x.park), (1, flag x.transit), (13, x.expDev.toNat), (1, flag x.expV), (15, 0)]
def Fibre.word (f : Fibre) : Nat := pack [(9, f.good.toNat), (9, f.use.toNat), (9, f.worn.toNat), (5, 0)]

/-- `LNP_IDENT`, `LNP_CFG` and `LNP_ROUTE` (R264). -/
def Hearth.ident (x : Hearth) : Nat := pack [(48, x.sysTag.toNat), (3, 0), (13, x.devId.toNat)]
def Hearth.lnpCfg (x : Hearth) : Nat := pack [(10, x.rtmo.toNat), (22, 0)]
def Hearth.routeWord (x : Hearth) (d : Nat) : Nat :=
  match x.routes.get none d with
  | some p => pack [(1, 1), (3, 0), (4, p.toNat)]
  | none => (x.routeIdle.get 0 d).toNat

/-- A block holds pages of a jar that its slot still has: a slot that was erased leaves its blocks free (R352). -/
def State.blockLive (s : State) (b : Nat) : Bool :=
  let o := s.pantry.held.get 0 b - 1
  s.pantry.held.get 0 b != 0 && ((s.hob (o / 2)).jars.get {} (o % 2)).bytes != 0

/-- `PNT_STAT` (R348). -/
def State.pntStat (s : State) : Nat :=
  let x := s.pantry
  let due := x.reads.filter fun e => s.blockLive e.1
  pack [(10, capNat 10 (x.nand / 48000000000000)), (2, x.level.toNat), (8, x.sparePm.toNat), (12, capNat 12 ((due.foldl (fun m e => max m (s.lifeS - e.2)) 0) / 3600)),
        (16, capNat 16 (x.written / 1000000000000)), (8, capNat 8 (x.badDay.filter fun t => s.lifeS < t + 86400).length), (8, 0)]

/-! ### The hearth -/

/-- Counted resets in the current window (R331). -/
def State.windowCount (s : State) : Nat :=
  (s.resets.counted.filter fun t => s.lifeMs < t + s.resets.whours.toNat * 3600000).length

/-- `HRT_RST_CFG` and `HRT_RST_STAT` (R330). -/
def Resets.cfg (x : Resets) : Nat := pack [(4, x.wcount.toNat), (7, x.whours.toNat), (21, 0)]
def State.rstStat (s : State) : Nat :=
  let x := s.resets
  pack [(4, x.last.toNat), (8, x.why.toNat), (4, capNat 4 s.windowCount), (16, x.warms.toNat), (16, x.colds.toNat), (16, x.escal.toNat)]

/-- `HRT_BOOT_STAT` (R400). -/
def Boot.word (x : Boot) : Nat :=
  pack [(3, x.stage.toNat), (1, flag x.warm), (1, flag x.first), (1, flag x.fminv), (1, flag x.reduced), (9, x.newdef.toNat),
        (9, x.fusewin.toNat), (12, x.stkoff.toNat), (11, 0), (16, x.time.toNat)]

/-- `HRT_DAMP_CFG` and `HRT_DAMP_STAT` (R366). -/
def Damper.cfg (x : Damper) : Nat := pack [(12, x.plim.toNat), (11, x.fmax.toNat), (9, 0)]
def Damper.stat (x : Damper) : Nat :=
  pack [(11, x.mclk.toNat), (3, x.why.toNat), (10, x.tjmax.toNat), (12, x.pin.toNat), (12, x.pcore.toNat), (16, x.droops.toNat)]

/-- `HRT_TASTE_CFG` (R316) and `HRT_IDLE_CFG` (R367). -/
def Cfgs.tasteWord (x : Cfgs) : Nat := pack [(1, flag x.tstEn), (1, flag x.tstPaused), (7, x.tstHours.toNat), (10, x.tstAlert.toNat), (13, 0)]
def Cfgs.idleWord (x : Cfgs) : Nat := pack [(1, flag x.idlEn), (1, flag x.idlIn), (14, x.idlDwell.toNat), (16, x.idlEntries.toNat)]

/-- `HRT_LIC_STAT` (R382). -/
def Hearth.licStat (x : Hearth) : Nat :=
  pack [(2, x.item (fun l => l.tier) 0), (1, flag x.narrow), (1, flag x.peerJars), (4, x.hobLimit), (5, x.portLimit), (6, x.licences.length),
        (1, flag x.licBad), (12, 0)]

/-- `HRT_FW_STAT` (R386). -/
def Fw.word (x : Fw) : Nat :=
  pack [(1, flag x.active), (2, x.stateA.toNat), (2, x.stateB.toNat), (3, x.stage.toNat), (8, x.minsvn.toNat), (8, x.svnH.toNat), (8, x.svnR.toNat),
        (8, x.svnC.toNat), (2, x.tries.toNat), (22, 0)]

/-- `HRT_AVL_STAT`, `HRT_AVL_PART` and `HRT_AVL_EXCL` of an accounting year (R390). -/
def AvlYear.stat (y : AvlYear) : Nat := pack [(8, y.year.toNat), (26, y.t / secNs), (30, capNat 30 (y.d / msNs))]
def AvlYear.part (y : AvlYear) (n : Nat) : Nat :=
  let p := y.parts.get (0, 0) n
  pack [(32, capNat 32 (p.1 / msNs)), (32, capNat 32 p.2)]
def AvlYear.exclWord (y : AvlYear) : Nat :=
  pack [(32, capNat 32 (y.excl / secNs)), (32, if y.t = 0 then 0 else capNat 32 ((y.d * 1000000000 + y.t - 1) / y.t))]

end Sys2Proof.Machine
end

