-- ==== Sys2Proof/Machine/Query.lean ====
section
/-! DEFINITION. QUERY subcodes 0 to 7 (R32 to R34, R231, R232, R234, R237, R298, R317, R368, R371, R382). -/

namespace Sys2Proof.Machine

open Sys2Proof

/-! ### The log as bytes (R368, R369, R371) -/

/-- A log record of 256 B; `prev` is the SHA-384 of the record before it. A seal's signature and the fields' places within
`HRT_LOG_ARGS` are open (notes/assumptions/5.md). -/
def LogRec.bytes (r : LogRec) (prev : Nat) : List Byte :=
  withCrc (leBytes 8 r.seq ++ leBytes 8 r.time ++ leBytes 1 r.role ++ leBytes 1 r.path ++ leBytes 2 r.code.toNat ++ leBytes 1 r.result ++
    leBytes 1 r.hob ++ zeroBytes 2 ++ leBytes 8 (if r.role = 0 then 0 else (Config.keyId r.keyid).toNat) ++
    bytesAt (Config.logArgs r.seq r.code.toNat r.args) 0 160 ++ leBytes 48 prev ++ zeroBytes 16) 0xF0

/-- SHA-384 of a byte list. -/
def hashOf (bs : List Byte) : Nat :=
  (Config.sha384 ((bs.zipIdx.filter fun b => b.1 != 0).map fun b => (b.2, b.1)) bs.length).toNat

/-- The records of a log, newest first, each with its 256 B; the oldest kept names a record that was erased. -/
def logBytes : List LogRec → List (LogRec × List Byte)
  | [] => []
  | r :: rest =>
    let l := logBytes rest
    let prev := match l with
      | x :: _ => hashOf x.2
      | [] => if r.seq = 0 then 0 else Config.erasedHash r.seq
    (r, r.bytes prev) :: l

/-- The stub of a withheld record: code 0xFFFF, arguments and key ID zero, and the record's hash in bytes 0x20 to 0x4F. -/
def stubOf (bs : List Byte) : List Byte :=
  withCrc (bs.take 0x12 ++ leBytes 2 0xFFFF ++ bytesAt bs 0x14 4 ++ zeroBytes 8 ++ leBytes 48 (hashOf bs) ++ zeroBytes 112 ++ bs.drop 0xC0) 0xF0

/-- What QUERY subcode 7 gives a hob's operator: the newest whole records that fit (R371). -/
def State.logFor (s : State) (h len : Nat) : List Byte :=
  ((logBytes s.log).take (len / 256)).flatMap fun x => if x.1.hob = h then x.2 else stubOf x.2

/-! ### The subcodes -/

/-- The entry of a QUERY with these arguments. -/
def queryArgs (addr len : Nat) (e : List Byte) : Bool := leAt e 8 8 == addr && leAt e 0x10 8 == len

/-- The answer to a QUERY: SHORT with the bytes needed, or the bytes to host memory and their count. -/
def State.queryAnswer (s : State) (ref : CmdRef) (addr len : Nat) (bytes : List Byte) : State :=
  if len < bytes.length then s.complete ref 9 stShort 0 bytes.length 0
  else (s.emit (.hostData ref.port.val addr bytes)).complete ref 9 stOk 0 bytes.length 0

/-- A QUERY whose layout the spec leaves open: its registers and their bytes (notes/assumptions/44.md). -/
def State.answerRegs (s : State) (ref : CmdRef) (h sub addr len : Nat) (vals : List Nat) : State :=
  (s.emit (.query h sub vals)).queryAnswer ref addr len (Config.queryLayout sub vals)

/-- Subcode 0: device, hob, hold, simmer, replay and capture state, and the registers of the hob's cells (R51, R123, R232). -/
def State.stateRegs (s : State) (h : Nat) : List Nat :=
  let z := s.hob h
  [s.hpState z.grant.hport.toNat (h + 1), z.fenceLast] ++ z.holdRegs ++ [z.replay.word, s.cowStat h, z.msgTmo.toNat, z.tagDrops] ++
  (s.nums h).flatMap fun n => (s.cell (s.posOf h n)).regs

/-- Subcode 3: the rack test registers of the hob's racks, messages dropped for their hob tag, and the state of what serves it (R168,
R232, R317). -/
def State.telemetry (s : State) (h : Nat) : List Nat :=
  (s.racksOf h).map s.rackTest ++ ((List.range 16).filter fun p => (s.hob h).grant.lnp.getLsbD p).flatMap (fun p =>
    let x := s.lnp p
    x.stat :: x.ctl :: (List.range 4).map fun f => (x.fibres.get {} f).word) ++
  stackNums.map s.stkStat ++ (stackNums.map fun k => ((s.hob h).rsv.get {} k).word) ++
  [(s.hob h).tagDrops, s.damper.stat, s.avl.cur.stat, s.avl.cur.exclWord, s.avl.prev.stat, s.avl.prev.exclWord] ++
  ([0, 1, 2, 3, 4, 5].flatMap fun n => [s.avl.cur.part n, s.avl.prev.part n])

/-- Subcode 4: grants, use and the licence limits in force (R237 to R239, R382). -/
def State.grantRegs (s : State) (h : Nat) : List Nat :=
  let z := s.hob h
  [z.grant.word, z.grant.extWord, z.rect.cells, z.powerQ, z.pantryQ, z.pantryUse, flag z.overq] ++ stackNums.map z.extCount ++
  [s.cellLimit, flag s.hearth.narrow, flag s.hearth.peerJars, s.hearth.hobLimit, s.hearth.portLimit, z.policy.word, z.policy.mode]

/-- QUERY subcode 0. -/
def execQueryState (ref : CmdRef) (hob : HobId) (addr len : Nat) (s : State) : Res :=
  done (s.command ref hob.val 9 0 (queryArgs addr len) fun s => s.answerRegs ref hob.val 0 addr len (s.stateRegs hob.val))

/-- QUERY subcode 1: the hob map (R234). -/
def execQueryHobMap (ref : CmdRef) (hob : HobId) (addr len : Nat) (s : State) : Res :=
  done (s.command ref hob.val 9 1 (queryArgs addr len) fun s =>
    s.queryAnswer ref addr len ((s.nums hob.val).flatMap fun n => leBytes 4 (s.mapEntry hob.val n)))

/-- QUERY subcode 2: the distance table (R32, R33). -/
def execQueryDistance (ref : CmdRef) (hob : HobId) (addr len : Nat) (s : State) : Res :=
  done (s.command ref hob.val 9 2 (queryArgs addr len) fun s =>
    s.queryAnswer ref addr len ((s.nums hob.val).flatMap fun n =>
      let p := (s.hob hob.val).rect.xy n
      (List.range 34).flatMap fun c => leBytes 4 (distEntry p.1 p.2 c).toNat))

/-- QUERY subcode 3. -/
def execQueryTelemetry (ref : CmdRef) (hob : HobId) (addr len : Nat) (s : State) : Res :=
  done (s.command ref hob.val 9 3 (queryArgs addr len) fun s => s.answerRegs ref hob.val 3 addr len (s.telemetry hob.val))

/-- QUERY subcode 4. -/
def execQueryGrants (ref : CmdRef) (hob : HobId) (addr len : Nat) (s : State) : Res :=
  done (s.command ref hob.val 9 4 (queryArgs addr len) fun s => s.answerRegs ref hob.val 4 addr len (s.grantRegs hob.val))

/-- QUERY subcode 5: the count of the hob's events not written, and on the management ring that of device events (R231). -/
def execQueryLostEvents (ref : CmdRef) (hob : HobId) (addr len : Nat) (s : State) : Res :=
  done (s.command ref hob.val 9 5 (queryArgs addr len) fun s =>
    s.answerRegs ref hob.val 5 addr len ((s.hob hob.val).lostEvents :: if ref.fn.val = 0 then [(s.host ref.port.val).lostEvents] else []))

/-- QUERY subcode 6: a report by its sequence number (R280, R281, R298); STATE where the hob has none of that number. -/
def execQueryReport (ref : CmdRef) (hob : HobId) (addr len seq : Nat) (s : State) : Res :=
  done (s.command ref hob.val 9 6 (fun e => queryArgs addr len e && leAt e 0x18 8 == seq) fun s =>
    match (s.hob hob.val).reports.find? fun r => r.seq == seq with
    | some r => s.queryAnswer ref addr len r.bytes
    | none => s.complete ref 9 stState 0 0 0)

/-- QUERY subcode 7 (R371): a readout, so a seal record is written first (R369). -/
def execQueryLog (ref : CmdRef) (hob : HobId) (addr len : Nat) (s : State) : Res :=
  done (s.command ref hob.val 9 7 (queryArgs addr len) fun s =>
    let s1 := if s.logFail then s else s.sealLog
    s1.queryAnswer ref addr len (s1.logFor hob.val len))

end Sys2Proof.Machine
end

