-- ==== Sys2Proof/Machine/Lanper.lean ====
section
/-! DEFINITION. Lanper ports: LNP_DATA_FRAME to JAR_READ (R115, R133, R244 to R264). What a MGT, REQ or RPL packet asks for comes
in by a row of its own (a fence report, a jar read, a reply); a frame here moves sequence numbers, credits, keys, Static blocks and
the flits of a peer's message. -/

namespace Sys2Proof.Machine

open Sys2Proof

/-! ### Port state -/

/-- A port carries frames. -/
def Lnp.up (x : Lnp) : Bool := x.st == .upFull || x.st == .upReduced

/-- The UP state of a width (R254). -/
def upOf (w : Nat) : LnpState := if w = 8 then .upFull else .upReduced

/-- Receive buffers in flits by channel (R249). -/
def chanFlits (ch : Nat) : Nat :=
  match ch with
  | 0 => 4096 | 1 => 128 | _ => 2048

/-- A fibre's lanes that are usable, in numeric order. -/
def Fibre.usable (f : Fibre) : List Nat := (List.range 9).filter fun i => f.good.getLsbD i

/-- Lanes that are good spares: usable, not in use, and not worn (R257, R259). -/
def Fibre.spares (f : Fibre) : List Nat := f.usable.filter fun i => !f.use.getLsbD i && !f.worn.getLsbD i

def setBit9 (b : BitVec 9) (i : Nat) (v : Bool) : BitVec 9 := if v then b ||| ((1 : BitVec 9) <<< i) else b &&& ~~~((1 : BitVec 9) <<< i)

/-- The w lanes with the best margin of those usable (R256). -/
def Fibre.choose (f : Fibre) (best : List Nat) (w : Nat) : Fibre :=
  let order := best.filter (fun i => f.usable.contains i) ++ f.usable.filter fun i => !best.contains i
  { f with use := (order.take w).foldl (fun b i => setBit9 b i true) 0 }

def Lnp.fibre (x : Lnp) (i : Nat) : Fibre := x.fibres.get {} i
def Lnp.modFibre (x : Lnp) (i : Nat) (f : Fibre → Fibre) : Lnp := { x with fibres := x.fibres.upd {} i f }

/-- A good spare of a fibre that no substitution to come has taken (R257). -/
def Lnp.spare (x : Lnp) (i : Nat) : Option Nat :=
  (x.fibre i).spares.find? fun k => !x.swaps.any fun w => w.1 == i && w.2.2.1 == k

/-- The width that the usable lanes allow: the least over the four fibres, at most 8 (R256). -/
def Lnp.allowed (x : Lnp) : Nat := (List.range 4).foldl (fun m i => min m (x.fibre i).usable.length) 8

/-- Hobs that a port is assigned to. -/
def State.hobsOfPort (s : State) (p : Nat) : List Nat :=
  hobNums.filter fun h => (s.hob h).grant.valid && (s.hob h).grant.lnp.getLsbD p

/-- A step has run no hob cycle yet, and no earlier one is closing: the hob waits for what its RUN_STEPS needs. -/
def Hob.notBegun (z : Hob) : Bool := z.clk.live && z.hold.frozen && z.clk.cyc == z.clk.stepStart && z.closing.isEmpty

/-- Running hobs whose port has fallen below its class stop at their next fence; one whose step has not begun stops at once, so that no
step begins on fewer lanes (R133). -/
def State.classCheck (s : State) (p : Nat) : State :=
  s.each (s.hobsOfPort p) fun s h =>
    if !(s.hob h).runs then s
    else match s.portFell h with
      | some j =>
        if (s.hob h).notBegun then s.stopUncommitted h { status := stPort, detail := j }
        else s.modHob h fun y => { y with run := { y.run with stopAt := some (y.run.stopAt.getD { status := stPort, detail := j }) } }
      | none => s

/-- Hobs held for a relight go on when none of their ports is still awaited (R120, R259). -/
def State.endRelight (s : State) (p : Nat) : State :=
  s.each (s.hobsOfPort p) State.endHold8

/-- A remote transaction ends with SEND_TIMEOUT (R258, R261): a port send's step does not commit; a jar read ends its JAR_RESTORE; a
message or request tells its sender. -/
def State.endRemote (s : State) (t : Txn) : State :=
  let s1 := s.dropTxn t.id
  match t.kind with
  | .crossing h x _ => if t.write then s1.lostWrite h t.stamp x else s1
  | .copy h => match (s1.hob h).restore with
    | some r => ({ s1 with txns := s1.txns.filter fun (u : Txn) => !(u.pool == Pool.lanper && u.kind == TxnKind.copy h) }.modHob h fun y => { y with restore := none, torn := true }).complete r.ref 8 stSendTimeout 0 0 0
    | none => s1
  | .message h o tag => match s1.sendOf h o tag with
    | some q => s1.endSend h o q 4
    | none => s1
  | .forward _ => s1

/-- Transactions that a port holds end at once with SEND_TIMEOUT when it goes DOWN (R258): its port sends, and the requests it has sent
out. -/
def State.endSends (s : State) (p : Nat) : State :=
  (s.txns.filter fun t => t.pool == .lanper && t.client == p && t.granted && (t.write || !t.crossingOf t.hob)).foldl State.endRemote s

/-- A port stops carrying traffic: DOWN or DARK, its session and buffers gone, its transactions ended (R254, R258). A relight that goes
DOWN is awaited until a later training brings the port UP, unless the port is disabled (R259). -/
def State.lnpEnd (s : State) (p : Nat) (st : LnpState) (why : Nat) : State :=
  let s1 := s.modLnp p fun x =>
    { x with
      st := st, parked := false, width := 0, session := false, downWhy := BitVec.ofNat 2 why, since := s.now, retraining := false,
      relighting := false, fallback := x.en && (x.relighting || x.fallback), replayBuf := [], txQueue := [], rxQueue := [], rxReq := [],
      served := [], jarAsks := [], credits := [], rxUsed := [], creditBack := [],
      txSwitch := [], rxSwitch := [], naked := false, swaps := [],
      fibres := x.fibres.map fun f => (f.1, { f.2 with use := 0 }) }
  ((s1.endSends p).classCheck p).endRelight p

/-! ### Sending (R247 to R253) -/

/-- The next frame is the last before an epoch that needs a new key, and that switch point has not been named (R253). -/
def Lnp.needsKey (x : Lnp) : Bool :=
  x.txSeq == BitVec.allOnes 16 && (x.txEpoch + 1) % 65536 == 0 && !x.txSwitch.contains (0, x.txEpoch + 1)

/-- Lane substitutions at a frame number of one direction take effect: fibres 0 and 1 transmit, 2 and 3 receive (R257). -/
def Lnp.swapAt (x : Lnp) (tx : Bool) (seq : Nat) : Lnp :=
  let due := x.swaps.filter fun w => (decide (w.1 < 2) == tx) && w.2.2.2 == seq
  let x1 := due.foldl (fun (x : Lnp) w => x.modFibre w.1 fun f => { f with use := setBit9 (setBit9 f.use w.2.1 false) w.2.2.1 true }) x
  { x1 with swaps := x1.swaps.filter fun w => !((decide (w.1 < 2) == tx) && w.2.2.2 == seq) }

/-- One new frame: numbered, sealed under the key of its number, with the acknowledgement and the credits of one channel; it
stays in the replay buffer until it is acknowledged. -/
def State.sealFrame (s : State) (p : Nat) (f : Frame) : State :=
  let x := s.lnp p
  let here := (x.txSeq.toNat, x.txEpoch)
  let step := x.txSwitch.contains here
  let key := if step then x.txKey + 1 else x.txKey
  let ch := ((List.range 4).find? fun c => x.creditBack.get 0 c != 0).getD 0
  let cred := min 4095 (x.creditBack.get 0 ch)
  let g := { f with seq := x.txSeq, ack := x.rxSeq, cch := BitVec.ofNat 2 ch, cred := BitVec.ofNat 12 cred, key := key, sends := 1 }
  let x1 := x.swapAt true x.txSeq.toNat
  (s.setLnp p { x1 with
    txSeq := x.txSeq + 1, txEpoch := if x.txSeq = BitVec.allOnes 16 then x.txEpoch + 1 else x.txEpoch,
    txKey := key, txSwitch := x.txSwitch.erase here, replayBuf := x.replayBuf ++ [g],
    creditBack := x.creditBack.put 0 ch (x.creditBack.get 0 ch - cred), lastSent := s.now }).emit (.frame p g)

/-- Send a frame. The last frame before an epoch that needs a new key is the SESSION frame that names it, if nothing named it
earlier (R253). -/
def State.sendFrame (s : State) (p : Nat) (f : Frame) : State :=
  let x := s.lnp p
  if x.needsKey then
    ((s.sealFrame p { kind := 6, note := [4, 0, x.txEpoch + 1] }).modLnp p fun y => { y with txSwitch := y.txSwitch ++ [(0, x.txEpoch + 1)] }).sealFrame p f
  else s.sealFrame p f

/-- A SESSION frame: what it says stands in `note`. -/
def State.sendSession (s : State) (p : Nat) (note : List Nat) : State := s.sendFrame p { kind := 6, note := note }

/-- The next frame number to send, and its epoch, after n more frames. -/
def Lnp.ahead (x : Lnp) (n : Nat) : Nat × Nat := ((x.txSeq.toNat + n) % 65536, x.txEpoch + (x.txSeq.toNat + n) / 65536)

/-- A key step: its switch point is named in a SESSION frame sent before it; one that is named already stands (R253). -/
def State.keyStep (s : State) (p : Nat) (point : Nat × Nat) : State :=
  if (s.lnp p).txSwitch.contains point then s else (s.modLnp p fun x => { x with txSwitch := x.txSwitch ++ [point] }).sendSession p [4, point.1, point.2]

/-- The port enters TRAINING for a retrain; the session, transactions and frames survive (R254, R255). -/
def State.startRetrain (s : State) (p : Nat) : State :=
  s.modLnp p fun x => { x with st := .training, retraining := true, retrains := satInc x.retrains, since := s.now }

/-- Resend of the frames from a number on, bit for bit; a frame sent 16 times makes the port retrain (R248, R254). -/
def State.resend (s : State) (p : Nat) (named : BitVec 16) : State :=
  let x := s.lnp p
  let old := x.replayBuf.takeWhile fun f => f.seq != named
  let again := (x.replayBuf.drop old.length).map fun f => { f with sends := f.sends + 1 }
  let s1 := s.setLnp p { x with replayBuf := old ++ again, lastSent := s.now }
  let s2 := again.foldl (fun s f => s.emit (.frame p f)) s1
  if again.any fun f => decide (16 ≤ f.sends) then s2.startRetrain p else s2

/-- A port-send block goes out when it is whole and the peer has credit for all 32 flits (R249). -/
def State.sendBlock (s : State) (p : Nat) (t : Txn) : State :=
  let x := s.lnp p
  let (h, k) := match t.kind with
    | .crossing h k _ => (h, k)
    | _ => (0, 0)
  let f : Frame := { kind := 0, flits := 32, dest := x.peerDev.toNat, origin := s.hearth.devIdLive.toNat, body := t.data, poison := t.poison,
                     hob := h, xng := k }
  ((s.modLnp p fun x => { x with credits := x.credits.put 0 0 (x.credits.get 0 0 - 32) }).sendFrame p f).modTxn t.id fun t => { t with served := true }

/-- The next port-send block that may go. -/
def State.nextBlock (s : State) (p : Nat) : Option Txn :=
  if (s.lnp p).credits.get 0 0 < 32 then none
  else s.txns.find? fun t => t.pool == .lanper && t.client == p && t.write && t.granted && !t.served && !t.breach && !t.data.isEmpty

/-! ### Receiving (R115, R248, R249, R251, R260) -/

/-- Flits leave a receive buffer: their credits go back to the peer. -/
def Lnp.release (x : Lnp) (ch flits : Nat) : Lnp :=
  { x with rxUsed := x.rxUsed.put 0 ch (x.rxUsed.get 0 ch - flits), creditBack := x.creditBack.put 0 ch (x.creditBack.get 0 ch + flits) }

/-- The port receive crossing that a block belongs to: a running hob's, on a hob port that is this port. -/
def State.portReceive (s : State) (p : Nat) (b : RxBlock) : Option Crossing :=
  let z := s.hob b.hob
  if !z.runs || !z.grant.lnp.getLsbD p then none
  else match z.rcp.crossing b.xng with
    | some x => if x.kind = 3 && z.lnpOf x.client == some p then some x else none
    | none => none

/-- Blocks reserve landing entries in the order in which their first flits arrived; a full region makes those behind it on the
same region wait (R115). -/
def State.reserveRx (s : State) (p : Nat) : State :=
  (List.range (s.lnp p).rxQueue.length).foldl (fun (a : State × List (Nat × Nat × Nat × Nat)) i =>
    let s := a.1
    match (s.lnp p).rxQueue[i]? with
    | none => a
    | some b => if b.txn.isSome then a
      else match s.portReceive p b with
        | none => a
        | some x =>
          let place := (b.hob, x.cell, x.slot, x.region)
          let q := s.posOf b.hob x.cell
          if a.2.contains place || (((s.cell q).slot x.slot).region x.region).isFull then (s, place :: a.2)
          else
            let (e, c) := (s.cell q).reserve x.slot x.region
            let z := s.hob b.hob
            let t : Txn := { kind := .crossing b.hob x.id z.rep, client := p, pool := .lanper, stamp := z.clk.fence, cell := x.cell, slot := x.slot,
                             region := x.region, entry := e }
            let id := s.hearth.txnGen
            let s1 := ((s.setCell q c).addTxn t).modTxn id fun t => { t with granted := true }
            (s1.modLnp p fun l => { l with rxQueue := l.rxQueue.modify i fun b => { b with txn := some id } }, a.2)) (s, []) |>.1

/-- Whole blocks with an entry go to the rim queue: the block can land, its buffer is free, and a block that passed its CRC-32C
is acknowledged on RPL (R251). -/
def State.takeRx (s : State) (p : Nat) : State :=
  let whole := (s.lnp p).rxQueue.filter fun b => decide (4096 ≤ b.data.length) && b.txn.isSome
  let s1 := whole.foldl (fun s b =>
    let s1 := s.modTxn (b.txn.getD 0) fun t => { t with data := b.data, poison := b.poison, served := true, crcBad := !b.good }
    s1.modLnp p fun x =>
      let ack : Frame := { kind := 3, flits := 1, dest := x.peerDev.toNat, origin := s.hearth.devIdLive.toNat, note := [b.hob, b.xng] }
      { x.release 0 32 with txQueue := if b.good then x.txQueue ++ [ack] else x.txQueue }) s
  s1.modLnp p fun x => { x with rxQueue := x.rxQueue.filter fun b => !(decide (4096 ≤ b.data.length) && b.txn.isSome) }

/-- What the receive side can move now. -/
def State.drainRx (s : State) (p : Nat) : State := (s.reserveRx p).takeRx p

/-- Flits of a Static frame join the block they belong to, or begin one; no port-receive crossing of that name leaves the block
unclaimed and it is dropped. -/
def State.staticFlits (s : State) (p : Nat) (f : Frame) (blockOk : Bool) : State :=
  let x := s.lnp p
  let mine := fun (b : RxBlock) => b.hob == f.hob && b.xng == f.xng && decide (b.data.length < 4096)
  let data := bytesAt f.body 0 (128 * f.flits)
  let b := (x.rxQueue.find? mine).getD { hob := f.hob, xng := f.xng }
  let b1 := { b with data := b.data ++ data, poison := b.poison ++ f.poison.map (· + b.data.length / 64), good := b.good && blockOk }
  let x1 := { x with rxUsed := x.rxUsed.put 0 0 (x.rxUsed.get 0 0 + f.flits) }
  if (x.rxQueue.any mine) then
    s.setLnp p { x1 with rxQueue := x1.rxQueue.map fun c => if mine c then b1 else c }
  else if (s.hob f.hob).grant.lnp.getLsbD p && ((s.hob f.hob).rcp.crossing f.xng).any (fun c => c.kind == 3) then
    s.setLnp p { x1 with rxQueue := x1.rxQueue ++ [b1] }
  else s.setLnp p (x1.release 0 f.flits)

/-- Where a packet for another device leaves: its route entry, if the rules of R260 allow it. -/
def State.egress (s : State) (p dest : Nat) : Option Nat :=
  match s.hearth.routes.get none dest with
  | none => none
  | some q =>
    let b := q.toNat
    let both := hobNums.any fun h => let g := (s.hob h).grant; g.valid && g.lnp.getLsbD p && g.lnp.getLsbD b
    if both || ((s.lnp p).transit && (s.lnp b).transit) then some b else none

/-- A message that has come whole: its descriptor and all its data (R169). -/
def Frame.whole (f : Frame) : Bool := decide (64 ≤ f.body.length) && decide (64 + msgLen f.body ≤ f.body.length)

/-- Flits of a peer's message join those that have come of it. -/
def Lnp.addReq (x : Lnp) (f : Frame) : Lnp :=
  let mine := fun (g : Frame) => !g.whole && g.origin == f.origin
  match x.rxReq.find? mine with
  | some g => { x with rxReq := x.rxReq.map fun k => if k == g then { g with body := g.body ++ f.body, flits := g.flits + f.flits } else k }
  | none => { x with rxReq := x.rxReq ++ [f] }

/-- Devices named in a hob's `LNP_JAR_ACL` entry (R264). -/
def Hob.aclAllows (z : Hob) (dev : Nat) : Bool :=
  (List.range 4).any fun n => let f := bits (16 * n + 15) (16 * n) z.jarAcl.toNat; bit 15 f && bits 12 0 f == dev

/-- A JAR_READ that has a place is served (R250, R262): up to 4 KiB of a jar to a device that the hob's entry names; any other request is
answered QUEUE_GONE and logged. The reply leaves by the route of the device that asked (R260). -/
def State.serveJar (s : State) (p : Nat) (a : JarAsk) : State :=
  let z := s.hob a.hob
  let j := z.jars.get {} a.slot
  let ok := (s.inService || s.down) && s.pantry.up && s.hearth.peerJars && z.aclAllows a.origin && j.sealed && decide (a.len ≤ 4096) &&
    decide (a.off + a.len ≤ j.bytes)
  let e := (65536, a.origin, s.now)
  let s1 := s.leaveIdle.modLnp p fun x => { x with served := x.served ++ [e] }
  let send := fun (s : State) (note : List Nat) (body : List Byte) => s.sendPacket p
    { kind := 3, flits := (body.length + 127) / 128 + 1, dest := a.origin, note := note, body := body, serves := some (p, e) }
  if ok then send s1 [0, a.off, a.len] ((List.range a.len).map fun i => j.byteAt (a.off + i))
  else (send s1 [stQueueGone] []).logDev 0x0105 a.hob [a.origin, a.slot, a.off, a.len]

/-- JAR_READ requests that wait are served as the pool has places, oldest first (R250). -/
def State.serveJars (s : State) (p : Nat) : State :=
  (s.lnp p).jarAsks.foldl (fun (s : State) a =>
    if 384 ≤ (s.lnp p).served.length then s
    else (s.modLnp p fun x => { x with jarAsks := x.jarAsks.drop 1 }).serveJar p a) s

/-- Whole messages of peers take a place in the served pool, are signed with their port (R169), stamped with the hob of the port's
assignment and enter the mesh; one that finds no place waits in its buffer (R168, R198, R250), and so do jar reads. A request older than the remote timeout is not held: its sender has given
up (R261; notes/assumptions/89.md). -/
def State.takeReq (s : State) (p : Nat) : State :=
  let s0 := s.modLnp p fun x => { x with served := x.served.filter fun e => decide (s.now < e.2.2 + s.hearth.rtmo.toNat * msNs) }
  (((s0.lnp p).rxReq.filter Frame.whole).foldl (fun (s : State) f =>
    if 384 ≤ (s.lnp p).served.length then s
    else
      let s1 := s.modLnp p fun x => { x.release 2 f.flits with
        rxReq := x.rxReq.erase f, served := x.served ++ [(msgTag f.body, f.origin, s.now)] }
      match (s.hobsOfPort p).head? with
      | none => s1
      | some h =>
        let target := f.note.getD 1 (msgCell f.body)
        let desc := signDesc (.lanper p) (bytesAt f.body 0 64)
        s1.fromRim h target (12 + p) 1 (msgFlits h target ((Origin.lanper p).key (msgTag desc)) s.now desc (f.body.drop 64) [])) s0).serveJars p

/-- Blocks of 4 KiB of the jar that a restore reads (R262). -/
def Restore.blocks (r : Restore) : Nat := (r.jar.bytes + 4095) / 4096

/-- The JAR_READ requests of a restore go out while the port has places for them, each with a timer of its own (R250, R261). -/
def State.askJar (s : State) (h p : Nat) : State :=
  (List.range 512).foldl (fun (s : State) _ =>
    match (s.hob h).restore with
    | none => s
    | some r =>
      let t : Txn := { kind := .copy h, pool := .lanper, client := p, cell := r.dev, slot := r.slot, addr := 4096 * r.asked }
      if !r.remote || r.blocks ≤ r.asked || !s.poolFree t then s
      else (s.addTxn t).modHob h fun y => { y with restore := some { r with asked := r.asked + 1 } }) s

/-- The restores that read over a port go on. -/
def State.askJars (s : State) (p : Nat) : State :=
  s.each hobNums fun s h => match (s.hob h).restore with
    | some r => if r.remote && s.hearth.routes.get none r.dev == some (BitVec.ofNat 4 p) then s.askJar h p else s
    | none => s

/-- The data of a JAR_READ arrives: its transaction ends, and the next request may go (R261). -/
def State.jarReply (s : State) (p : Nat) (f : Frame) : State :=
  if f.kind ≠ 3 || f.body.isEmpty then s
  else match s.txns.find? fun t => t.pool == .lanper && !t.write && t.granted && !t.isXng && t.cell == f.origin && t.addr == f.note.getD 1 0 &&
      (match t.kind with
        | .copy _ => true
        | _ => false) with
    | some t => (s.dropTxn t.id).askJar t.hob p
    | none => s

/-- A packet of MGT, REQ or RPL: taken into the module, forwarded, or discarded and counted (R260). A route that needs a parked port
relights it (R259). Flits of a message to this module stay in the receive buffer until it is served. -/
def State.packet (s : State) (p : Nat) (f : Frame) : State :=
  let ch := f.kind.toNat
  let s0 := s.modLnp p fun x => { x with rxUsed := x.rxUsed.put 0 ch (x.rxUsed.get 0 ch + f.flits) }
  if f.dest = s.hearth.devIdLive.toNat then
    if f.kind = 2 && !f.body.isEmpty then s0.modLnp p fun x => x.addReq f else (s0.modLnp p fun x => x.release ch f.flits).jarReply p f
  else
    let s1 := s0.modLnp p fun x => x.release ch f.flits
    match s.egress p f.dest with
    | none => s1.modLnp p fun x => { x with drops := satInc x.drops }
    | some b => (s1.relight b).modLnp b fun x =>
        { x with txQueue := x.txQueue ++ [{ f with seq := 0, ack := 0, cred := 0, cch := 0, key := 0, sends := 0, serves := none }] }

/-- The key under which the frame now expected is sealed (R253). -/
def Lnp.expectKey (x : Lnp) : Nat := if x.rxSwitch.contains (x.rxSeq.toNat, x.rxEpoch) then x.rxKey + 1 else x.rxKey

/-- The acceptance rule of R248. -/
def Lnp.accepts (x : Lnp) (f : Frame) (decoded tagOk : Bool) : Bool := decoded && tagOk && f.seq == x.rxSeq && f.key == x.expectKey

/-- The control fields of an accepted frame: the next number, the key, the acknowledged frames and the credits. -/
def Lnp.accept (x : Lnp) (f : Frame) (now : Nat) : Lnp :=
  let here := (x.rxSeq.toNat, x.rxEpoch)
  let step := x.rxSwitch.contains here
  let y := x.swapAt false x.rxSeq.toNat
  { y with
    rxSeq := x.rxSeq + 1, rxEpoch := if x.rxSeq = BitVec.allOnes 16 then x.rxEpoch + 1 else x.rxEpoch,
    rxKey := if step then x.rxKey + 1 else x.rxKey, rxSwitch := x.rxSwitch.erase here,
    replayBuf := x.replayBuf.filter fun g => decide ((g.seq - f.ack).toNat < 2 ^ 15),
    credits := x.credits.put 0 f.cch.toNat (x.credits.get 0 f.cch.toNat + f.cred.toNat), lastAccepted := now, naked := false }

/-- A frame that is not accepted is discarded, and a NAK names the expected number (R248). -/
def State.discardFrame (s : State) (p : Nat) (decoded tagOk : Bool) : State :=
  let x := s.lnp p
  if x.naked && decoded && tagOk then s
  else (s.modLnp p fun x => { x with naked := true }).sendFrame p { kind := 5, note := [x.rxSeq.toNat] }

/-- A frame arrives at a port that is UP; `act` is what it does when it is accepted. -/
def State.receive (s : State) (p : Nat) (f : Frame) (decoded tagOk : Bool) (act : State → State) : State :=
  let x := s.lnp p
  if !x.up then s
  else if x.accepts f decoded tagOk then ((act (s.setLnp p (x.accept f s.now))).drainRx p).takeReq p
  else s.discardFrame p decoded tagOk

/-- LNP_DATA_FRAME (R115, R247 to R251, R260): kinds 0 to 3 on Static, MGT, REQ and RPL. A frame of kind 7 is received like any
other, and its slots are discarded. -/
def execLnpDataFrame (port : LnpId) (f : Frame) (decoded tagOk blockOk : Bool) (s : State) : Res :=
  let p := port.val
  if (3 < f.kind.toNat && f.kind ≠ 7) || 40 < f.flits then done s
  else done (s.receive p f decoded tagOk fun s =>
    if f.kind = 0 then s.staticFlits p f blockOk else if f.kind = 7 then s else s.packet p f)

/-- LNP_IDLE_FRAME (R248). -/
def execLnpIdleFrame (port : LnpId) (f : Frame) (decoded tagOk : Bool) (s : State) : Res :=
  if f.kind ≠ 4 then done s else done (s.receive port.val f decoded tagOk id)

/-- LNP_NAK_FRAME (R248): a resend from the named frame on. -/
def execLnpNakFrame (port : LnpId) (f : Frame) (decoded tagOk : Bool) (named : BitVec 16) (s : State) : Res :=
  if f.kind ≠ 5 then done s else done (s.receive port.val f decoded tagOk fun s => s.resend port.val named)

/-- The next waiting packet that may go (R249, R250): each channel in order, with credit for all its flits; at most 128 MGT packets of
this module's own are unacknowledged. -/
def State.nextPacket (s : State) (p : Nat) : Option Frame :=
  let x := s.lnp p
  let mgt := (x.replayBuf.filter fun g => g.kind == 1 && g.origin == s.hearth.devIdLive.toNat).length
  x.txQueue.find? fun f => (x.txQueue.find? fun g => g.kind == f.kind) == some f && decide (f.flits ≤ x.credits.get 0 f.kind.toNat) &&
    (f.kind != 1 || f.origin != s.hearth.devIdLive.toNat || decide (mgt < 128))

/-- LNP_IDLE_SEND (R247 to R250, R260): a waiting port-send block, then a waiting packet, and with no data an IDLE frame. A full
replay buffer lets only IDLE frames through (notes/assumptions/46.md). -/
def execLnpIdleSend (port : LnpId) (s : State) : Res :=
  let p := port.val
  if !(s.lnp p).up then done s
  else
    let s0 := ((s.drainRx p).takeReq p).askJars p
    let room := decide ((s0.lnp p).replayBuf.length < 256)
    match (if room then s0.nextBlock p else none) with
    | some t => done (s0.sendBlock p t)
    | none =>
      match (if room then s0.nextPacket p else none) with
      | some f =>
        let s1 := s0.modLnp p fun x => { x with
          txQueue := x.txQueue.erase f, credits := x.credits.put 0 f.kind.toNat (x.credits.get 0 f.kind.toNat - f.flits) }
        done ((s1.endServe f).sendFrame p { f with serves := none })
      | none => done (s0.sendFrame p { kind := 4 })

/-- LNP_KEY_STEP (R253): the switch point is the first frame of the next epoch that is a multiple of 65,536. -/
def execLnpKeyStep (port : LnpId) (s : State) : Res :=
  let p := port.val
  let x := s.lnp p
  if !x.up || !x.session || x.txSwitch.contains (0, x.txEpoch + 1) then done s
  else if (x.txEpoch + 1) % 65536 = 0 then done (s.keyStep p (0, x.txEpoch + 1))
  else done s

/-! ### Lanes, parking and sessions (R255 to R259) -/

/-- Whether a port may park: no hob of its RUNNING or HELD, and no route that names it (R259). -/
def State.mayPark (s : State) (p : Nat) : Bool :=
  !((s.hobsOfPort p).any fun h => (s.hob h).st == .running || (s.hob h).st == .held) &&
  !(s.hearth.routes.any fun e => e.2 == some (BitVec.ofNat 4 p))

/-- A park that is refused is logged (R259). -/
def State.parkRefused (s : State) (p : Nat) : State := s.logAdd { code := 0x0105, result := 4, args := [p, 3] }

/-- A port parks: dark but for the beacon, with its session and stored equalisation. -/
def State.parkPort (s : State) (p : Nat) : State :=
  let s1 := if (s.lnp p).up then s.sendSession p [3] else s
  s1.modLnp p fun x => { x with st := .dark, parked := true, since := s.now }

/-- Park the port, or refuse and log it (R259). -/
def State.tryPark (s : State) (p : Nat) : State := if s.mayPark p then s.parkPort p else s.parkRefused p

/-- Lane substitution by a frame number 256 ahead; a lane with no spare makes the port retrain (R257). -/
def State.substitute (s : State) (p fibre lane : Nat) : State :=
  let x := s.lnp p
  match x.spare fibre with
  | some k =>
    let first := if fibre < 2 then x.txSeq else x.rxSeq
    let n := (first.toNat + 256) % 65536
    (s.sendSession p [1, fibre, lane, k, n]).modLnp p fun x => { x with swaps := x.swaps ++ [(fibre, lane, k, n)] }
  | none => s

/-- LNP_SESSION_FRAME (R252 to R259). -/
def execLnpSessionFrame (port : LnpId) (f : Frame) (decoded tagOk : Bool) (msg : SessionMsg) (s : State) : Res :=
  let p := port.val
  if f.kind ≠ 6 then done s
  else done (s.receive p f decoded tagOk fun s => match msg with
    | .substitute fib lane spare n => s.modLnp p fun x =>
        let y := if fib.val < 2 then x.modFibre fib.val fun g => { g with good := setBit9 g.good lane.val false } else x
        { y with swaps := y.swaps ++ [(fib.val, lane.val, spare.val, n.toNat)] }
    | .retrain w bad => (s.modLnp p fun x => bad.foldl (fun (x : Lnp) b =>
          if b.1.val < 2 then x.modFibre b.1.val fun g => { g with good := setBit9 g.good b.2.val false } else x)
        { x with width := BitVec.ofNat 4 (min x.width.toNat (max 4 w.toNat)) }).startRetrain p
    | .park => if s.mayPark p then s.modLnp p fun x => { x with st := .dark, parked := true, since := s.now } else s.parkRefused p
    | .keySwitch n e => s.modLnp p fun x => { x with rxSwitch := x.rxSwitch ++ [(n.toNat, e)] }
    | .setup => s)

/-- LNP_LANE_FAIL (R257): a receiver marks a lane failed. A spare takes its place, or the port asks for a retrain, as it does when the
spare that a lost lane was going to has failed too. -/
def execLnpLaneFail (port : LnpId) (fibre : Fin 4) (lane : Fin 9) (s : State) : Res :=
  let p := port.val
  let x := s.lnp p
  if !x.up || fibre.val < 2 || !(x.fibre fibre.val).good.getLsbD lane.val then done s
  else
    let s1 := s.modLnp p fun x => x.modFibre fibre.val fun f => { f with good := setBit9 f.good lane.val false }
    let used := ((s1.lnp p).fibre fibre.val).use.getLsbD lane.val
    let awaited := x.swaps.any fun w => w.1 == fibre.val && w.2.2.1 == lane.val
    if !used && !awaited then done s1
    else if used && ((s1.lnp p).spare fibre.val).isSome then done (s1.substitute p fibre.val lane.val)
    else
      let s2 := s1.sendFrame p { kind := 5, note := [x.rxSeq.toNat] }
      done ((s2.sendSession p [2, min x.width.toNat (s2.lnp p).allowed, fibre.val, lane.val]).startRetrain p)

/-- LASER_WEAR_CHECK (R259): bias and power in permille of the burn-in values. A worn lane in use goes to a good spare. -/
def execLaserWearCheck (port : LnpId) (fibre : Fin 4) (lane : Fin 9) (bias power : Nat) (s : State) : Res :=
  let p := port.val
  let x := s.lnp p
  if 2 ≤ fibre.val || !x.up || s.resets.hearthDown then done s
  else
    let i := 18 * p + 9 * fibre.val + lane.val
    let s1 := { s with sensors := { s.sensors with bias := s.sensors.bias.put 0 i bias, power := s.sensors.power.put 0 i power } }
    let worn := decide (1500 < bias) || decide (power ≤ 501)
    let s2 := s1.modLnp p fun x => x.modFibre fibre.val fun f => { f with worn := setBit9 f.worn lane.val worn }
    done (if worn && ((s2.lnp p).fibre fibre.val).use.getLsbD lane.val && !(s2.lnp p).swaps.any (fun w => w.1 == fibre.val && w.2.1 == lane.val) then
      s2.substitute p fibre.val lane.val else s2)

/-- The port is UP at a width; hobs that waited for it go on, and a class it falls short of stops them at their fence. -/
def State.comeUp (s : State) (p w : Nat) : State :=
  let s1 := s.modLnp p fun x =>
    { x with st := upOf w, width := BitVec.ofNat 4 w, retraining := false, relighting := false, fallback := false, since := s.now, lastAccepted := s.now }
  (s1.classCheck p).endRelight p

/-- A port that has come UP with `LNP_PARK` set parks if it may (R259). -/
def State.parkIfAsked (s : State) (p : Nat) : State := if (s.lnp p).park && (s.lnp p).up then s.tryPark p else s

/-- LNP_TRAINING_DONE (R252, R254, R256, R260): the lane map, the peer's authentication, and a new session. After a warm reset a
port does not widen (R398). -/
def execLnpTrainingDone (port : LnpId) (r : TrainResult) (s : State) : Res :=
  let p := port.val
  let x := s.lnp p
  if x.st ≠ .training || x.retraining || x.relighting || x.fenced || x.resetting then done s
  else
    let x1 := (List.range 4).foldl (fun (x : Lnp) i => x.modFibre i fun f => { f with good := r.lanes.getD i 0 }) x
    let w := if s.boot.warm && !x.fallback && x.width ≠ 0 then min x.width.toNat x1.allowed else x1.allowed
    let refused := !r.peerOk || r.peerTag != s.hearth.sysTag || r.peerDev == s.hearth.devId || (x.expV && r.peerDev != x.expDev)
    if w < 4 then done ((s.setLnp p x1).lnpEnd p .down 1)
    else if refused then done ((s.setLnp p x1).lnpEnd p .down 3)
    else
      let x2 := (List.range 4).foldl (fun (x : Lnp) i => x.modFibre i fun f => f.choose (r.best.getD i []) w) x1
      let s1 := { s with hearth := { s.hearth with devIdLive := s.hearth.devId } }.setLnp p { x2 with
        session := true, peerDev := r.peerDev, peerPort := r.peerPort, downWhy := 0, equalised := true,
        txSeq := 0, txEpoch := 0, rxSeq := 0, rxEpoch := 0, txKey := 0, rxKey := 0, txSwitch := [], rxSwitch := [], naked := false,
        swaps := [], replayBuf := [], creditBack := [], rxUsed := [], rxQueue := [], rxReq := [], served := [], jarAsks := [], lastSent := s.now,
        credits := [(0, chanFlits 0), (1, chanFlits 1), (2, chanFlits 2), (3, chanFlits 3)] }
      done ((s1.comeUp p w).parkIfAsked p)

/-- LNP_TRAINING_TIMEOUT (R254). -/
def execLnpTrainingTimeout (port : LnpId) (s : State) : Res :=
  let x := s.lnp port.val
  if x.st ≠ .training || s.now < x.since + 10 * secNs then done s else done (s.lnpEnd port.val .down 2)

/-- LNP_RETRAIN_DONE (R254 to R256): the width never rises; a key step with its switch point at the next new frame, and a
resend of what is not acknowledged. Whether the 16 sends of a frame (R248) count on over a retrain the spec does not say: DESIGN CHOICE,
the count of every frame kept starts again with this resend (notes/assumptions/82.md). -/
def execLnpRetrainDone (port : LnpId) (best : List (List Nat)) (s : State) : Res :=
  let p := port.val
  let x := s.lnp p
  if x.st ≠ .training || !x.retraining || x.resetting then done s
  else
    let w := min x.width.toNat x.allowed
    if w < 4 then done (s.lnpEnd p .down 1)
    else
      let x1 := (List.range 4).foldl (fun (x : Lnp) i => x.modFibre i fun f => f.choose (best.getD i []) w) { x with swaps := [] }
      let x2 := { x1 with replayBuf := x1.replayBuf.map fun f => { f with sends := 1 }, naked := false }
      let s1 := (s.setLnp p x2).comeUp p w
      let s2 := x2.replayBuf.foldl (fun s f => s.emit (.frame p f)) s1
      done ((s2.keyStep p (x2.ahead 1)).parkIfAsked p)

/-- LNP_LINK_SILENT (R254, R258): no frame accepted for 10 µs. -/
def execLnpLinkSilent (port : LnpId) (s : State) : Res :=
  let x := s.lnp port.val
  if !x.up || s.now < x.lastAccepted + 10 * usNs then done s else done (s.lnpEnd port.val .down 0)

/-- Full training starts. -/
def State.train (s : State) (p : Nat) : State :=
  s.modLnp p fun x => { x with st := .training, parked := false, retraining := false, relighting := false, since := s.now }

/-- LNP_DOWN_RETRY (R254): 1 s after DOWN with `LNP_EN` set. -/
def execLnpDownRetry (port : LnpId) (s : State) : Res :=
  let x := s.lnp port.val
  if x.st ≠ .down || !x.en || x.fenced || x.resetting || s.now < x.since + secNs then done s else done (s.train port.val)

/-- LNP_RELIGHT_DONE (R259): UP at the stored width, with a key step; a lane that fails to lock means full training. -/
def execLnpRelightDone (port : LnpId) (locked : Bool) (s : State) : Res :=
  let p := port.val
  let x := s.lnp p
  if x.st ≠ .training || !x.relighting || x.resetting then done s
  else if !locked then done ((s.train p).modLnp p fun x => { x with fallback := true })
  else
    let s1 := s.comeUp p x.width.toNat
    done ((s1.keyStep p ((s1.lnp p).ahead 1)).parkIfAsked p)

/-- LNP_BEACON (R259, R367): the peer asks a parked port to relight, which also ends deep idle. -/
def execLnpBeacon (port : LnpId) (s : State) : Res :=
  if (s.lnp port.val).parked && s.st ≠ .off then done (s.leaveIdle.relight port.val) else done s

/-- LNP_EN (R254, R263): setting it starts training unless `LNP_PARK` is set; clearing it takes the port DARK. -/
def execLnpEn (who : Who) (port : LnpId) (on : Bool) (s : State) : Res :=
  let p := port.val
  done (s.priv who [.installer] 0x0105 0xFF [p, flag on] 0 fun s =>
    let s1 := s.modLnp p fun x => { x with en := on }
    let x := s1.lnp p
    if !on then s1.lnpEnd p .dark 0
    else if x.st = .dark && !x.park && !x.fenced && !x.resetting then s1.train p
    else s1)

/-- LNP_PARK (R259, R263): refused while a hob of the port is RUNNING or HELD or a route names it; clearing it relights. -/
def execLnpPark (who : Who) (port : LnpId) (on : Bool) (s : State) : Res :=
  let p := port.val
  let refuse := if on && !s.mayPark p then 4 else 0
  done (s.priv who [.installer] 0x0105 0xFF [p, 2 + flag on] refuse fun s =>
    let s1 := s.modLnp p fun x => { x with park := on }
    let x := s1.lnp p
    if on then (if x.up then s1.parkPort p else s1)
    else if x.parked then s1.relight p
    else if x.st = .dark && x.en && !x.fenced && !x.resetting then s1.train p
    else s1)

/-! ### Timers and peer jars (R261, R262) -/

/-- LNP_RTMO_EXPIRY (R261): a port send, a message or a request ends with SEND_TIMEOUT; a jar read is reissued up to 3 times, and then
its JAR_RESTORE completes with SEND_TIMEOUT. -/
def execLnpRtmoExpiry (port : LnpId) (txn : Nat) (s : State) : Res :=
  match s.txn txn with
  | none => done s
  | some t =>
    if t.pool != .lanper || t.client ≠ port.val || !t.granted || s.now < t.startedAt + s.hearth.rtmo.toNat * msNs then done s
    else if (match t.kind with
      | .copy _ => decide (t.tries < 3)
      | _ => false) then
      done ((s.modTxn txn fun t => { t with tries := t.tries + 1, startedAt := s.now }).sendRequest t)
    else if t.crossingOf t.hob && !t.write then done s
    else done (s.endRemote t)

/-- JAR_READ (R250, R260, R262, R367): up to 4 KiB of a hob's jar to a peer that the hob's entry names, in SERVICE, DEGRADED, EMBER and
OUT_OF_SERVICE; any other request is answered QUEUE_GONE and logged. It waits while the served pool is full. -/
def execJarRead (port : LnpId) (origin : BitVec 13) (hob : HobId) (slot : Fin 2) (off len : Nat) (s : State) : Res :=
  let p := port.val
  if !(s.lnp p).up then done s
  else
    let a : JarAsk := { origin := origin.toNat, hob := hob.val, slot := slot.val, off := off, len := len }
    done ((s.modLnp p fun x => { x with jarAsks := x.jarAsks ++ [a] }).takeReq p)

end Sys2Proof.Machine
end

