-- ==== Sys2Proof/Machine/Reset.lean ====
section
/-! DEFINITION. Reset domains, hang watchdogs, counted resets, ash, EMBER and OUT_OF_SERVICE: CELL_HEARTBEAT_MISS to
ASH_READOUT, STACK_CTRL_RESET and the rows that complete a reset (R67, R186, R200, R326 to R341, R399). -/

namespace Sys2Proof.Machine

open Sys2Proof

/-! ### Parts -/

/-- Reset timeouts in ns by domain code (R326). -/
def resetTimeout (dom : Nat) : Nat :=
  match dom with
  | 0 => 100 * usNs | 1 => msNs | 2 => 2 * msNs | 3 => 10 * msNs | 4 => 100 * msNs
  | 5 => 200 * msNs | 6 => 50 * msNs | 7 => 20 * secNs | 8 => 60 * secNs | _ => 5 * secNs

/-- Hobs with a cell on one of the positions. -/
def State.hobsAt (s : State) (ps : List Nat) : List Nat := hobNums.filter fun h => ps.any fun p => (s.cell p).hob == some h

/-- Positions of a quarter (R8). -/
def quarterPos (q : Nat) : List Nat := (allPos.filter fun p => p.quarter == q).map Pos.idx

/-- A router island reset: buffers and calendars (R67); wires stay steered. -/
def Router.cleared (r : Router) : Router := { r.clearStatic with dyn := [], worm := [] }

/-- Messages whose flits were lost with an island no longer hold the channels of other routers (R172). -/
def State.dropWorms (s : State) (ps : List Nat) : State :=
  let lost := ps.flatMap fun p => ((s.router p).dyn.filterMap fun f => f.flit.key) ++ ((s.router p).worm.map fun e => e.2 - 1)
  if lost.isEmpty then s
  else { s with routers := s.routers.map fun (e : Nat × Router) => (e.1, { e.2 with worm := e.2.worm.filter fun w => !lost.contains (w.2 - 1) }) }

/-- Router islands in reset (R67). -/
def State.clearIslands (s : State) (ps : List Nat) : State := (s.dropWorms ps).each ps fun s p => s.modRouter p Router.cleared

/-- Cells lose their state; a row test is abandoned (R320). Cells that carry work end their landings with status 3 (R179) and answer further ones with status 1 until
they are rebuilt (R63, R178). -/
def State.clearAt (s : State) (ps : List Nat) : State :=
  s.each ps fun s p =>
    let s1 := match (s.cell p).hob with
      | some h => s.dropLandings h (s.cell p).n
      | none => s
    (s1.modCell p fun c => if c.hob.isNone then {} else { c.blank with moving := true }).modPos p Health.endRow

/-- Running hobs are held for a reset of their cells (R327). -/
def State.holdAt (s : State) (ps : List Nat) : State := s.each (s.hobsAt ps) fun s h => s.holdNow h 5

/-- The cleared cells of a hob are rebuilt in place and its oldest uncommitted step is replayed; without the image a running
hob stops without commit (R291, R327). -/
def State.rebuildHob (s : State) (h : Nat) (ps : List Nat) (imageOk : Bool) : State :=
  let ns := (s.nums h).filter fun n => ps.contains (s.posOf h n) && (s.cell (s.posOf h n)).hob == some h
  let s1 := s.each ns fun s n => s.modCell (s.posOf h n) fun c => { c with moving := false }
  if ns.isEmpty || (s.hob h).recipe.isNone then s1
  else if !imageOk then
    if (s.hob h).runs then s1.stopUncommitted h { status := stEccUe, detail := ns.headD 0 } else s1
  else (s1.each ns fun s n => s.rebuildCell h n).replay h stEccUe (ns.headD 0)

/-- Every cleared cell of a set of positions. -/
def State.rebuildAt (s : State) (ps : List Nat) (imageOk : Bool) : State :=
  s.each (s.hobsAt ps) fun s h => ((s.rebuildHob h ps imageOk).endDecant h).endHold8 h

/-! ### Hobs after a reset (R327, R333) -/

/-- A hob in LOADING with its resume point: the digest in force, the next step, generator copies, and what committed steps
staged. -/
def Hob.toLoading (z : Hob) : Hob :=
  let y := z.discard
  { y.unload with
    resume := match z.recipe with
      | some r => some r.digest
      | none => z.resume
    nextStep := z.nextStep, gens := z.gens, staged := y.staged, homeless := [], torn := z.torn || z.restore.isSome }

/-- Hob reset and warm reset of a hob: the commands that its cells were running end with ABORTED (R334). Where fence n has not committed,
whether R213 discards the shadows of its capture or R215 folds them back the spec does not say: DESIGN CHOICE, they are discarded first
(notes/assumptions/82.md). -/
def State.hobToLoading (s : State) (h : Nat) : State :=
  let z := s.hob h
  let s1 := (s.failWaits h).endRun h stAborted 0 0 0
  let s2 := match z.loading with
    | some r => s1.complete r 1 stAborted 0 0 0
    | none => s1
  let s3 := match z.restore with
    | some r => s2.complete r.ref 8 stAborted 0 0 0
    | none => s2
  let s4 := (s3.cancelCapture h).modHob h Hob.toLoading
  let s5 := { s4 with txns := s4.txns.filter fun t => !t.crossingOf h, broadcasts := s4.broadcasts.filter fun b => b.hob != some h }
  (((s5.setHobSt h .loading).avlStop 0 h).avlStop 1 h).avlStop 5 h

/-! ### Ash (R335 to R338) -/

/-- Index of a position in an entry (R338): px in bits [12:6], py in bits [5:0]. -/
def ashPos (p : Nat) : Nat := (Pos.ofIdx p).px.val * 64 + (Pos.ofIdx p).py.val

/-- The units of a hob (R326, R335): its cells where they stand, and the islands of its rectangle. -/
def State.hobUnits (s : State) (h : Nat) : List (Nat × Nat) :=
  (List.range (s.hob h).rect.cells).flatMap fun n => [(1, ashPos (s.posOf h n)), (2, ashPos (s.routerPos h n))]

/-- The units of one row segment: its 108 positions and islands in order of column (R335). -/
def rowSegment (py : Nat) : List (Nat × Nat) := (List.range 108).flatMap fun px => [(1, px * 64 + py), (2, px * 64 + py)]

/-- Units of one type with their numbers. -/
def unitsOf (kind n : Nat) : List (Nat × Nat) := (List.range n).map fun i => (kind, i)

/-- The rim segment (R335). DESIGN CHOICE: the hold trees are scanned in it (notes/assumptions/82.md). -/
def rimSegment : List (Nat × Nat) :=
  unitsOf 3 32 ++ unitsOf 4 12 ++ unitsOf 5 16 ++ unitsOf 6 4 ++ unitsOf 7 1 ++ unitsOf 8 1 ++ unitsOf 9 4

/-- The segments of the scan network. -/
def ashSegments : List (List (Nat × Nat)) := (List.range 64).map rowSegment ++ [rimSegment]

/-- The units of a reset domain whose reset hung (R326, R335). -/
def State.domainUnits (s : State) (dom idx : Nat) : List (Nat × Nat) :=
  match dom with
  | 1 =>
    let r := Rack.ofIdx idx
    r.all.map (fun p => (1, ashPos p.idx)) ++ [(2, ashPos (Pos.ofIdx (s.gapPos r)).idx)]
  | 2 => [(4, idx)]
  | 5 => (quarterPos idx).flatMap (fun p => [(1, ashPos p), (2, ashPos p)]) ++ [(9, idx)]
  | 6 => s.hobUnits idx
  | 7 => ashSegments.flatten.filter fun u => !(u.1 == 6 || u.1 == 7 || u.1 == 8)
  | 8 => ashSegments.flatten.filter fun u => u.1 != 8
  | _ => []

/-- A capture starts; what waits for its end follows it. A capture under way takes it along (R334). -/
def State.startAsh (s : State) (domain cause : Nat) (suspects : List (Nat × Nat)) (waiting : List (Nat × Nat × Nat)) : State :=
  match s.ashRun with
  | some a => { s with ashRun := some { a with waiting := a.waiting ++ waiting.filter fun w => !(a.waiting.any fun v => v.1 == w.1 && v.2.1 == w.2.1) } }
  | none =>
    let a : Ash := {
      seq := s.ashSeq, domain := BitVec.ofNat 8 domain, state := s.st.code, cause := cause, time := s.timeMs, life := s.lifeS,
      hobs := hobNums.map fun h => (s.hob h).reported.code, devid := s.hearth.devId.toNat, fw := s.fw.svnH.toNat,
      only := (waiting.find? fun w => w.1 == 6 && domain == 6).map fun w => s.hobUnits w.2.1,
      work := hobNums.flatMap fun h => if (s.hob h).st = .free then [] else (s.hobUnits h).map fun u => (u.1, u.2, h),
      dark := [0, 1, 2, 3].filter fun q => s.pins.vcore.get 0 q == 0, units := suspects.map fun u => (u.1, u.2, 2) }
    ({ s with ashRun := some { ash := a, waiting := waiting, startedAt := s.now }, ashSeq := s.ashSeq + 1 }).avlStart 2 1

/-- One unit entry of a record with its payload (R338). -/
structure AshEntry where
  kind : Nat
  status : Nat
  index : Nat
  hob : Option Nat
  time : Nat := 0
  offset : Nat := 0
  data : List Byte := []
  deriving DecidableEq, Repr

/-- Status of a unit's scan: as noted during the capture, powered off without its core rail, or captured (R338). -/
def Ash.status (a : Ash) (u : Nat × Nat) : Nat :=
  match a.units.find? fun v => (v.1, v.2.1) == u with
  | some v => v.2.2
  | none =>
    let q := if u.1 = 9 then u.2 else (if u.2 / 64 < 54 then 0 else 1) + (if u.2 % 64 < 32 then 0 else 2)
    if (u.1 = 1 || u.1 = 2 || u.1 = 9) && a.dark.contains q then 5 else 0

/-- A record has an entry for the unit: the device has it, and it is the hob's in a capture before a hob reset (R335, R338). -/
def Ash.covers (a : Ash) (u : Nat × Nat) : Bool :=
  (match u.1 with
    | 1 | 2 => decide (u.2 / 64 < 108)
    | 3 => decide (u.2 < 32)
    | 4 => decide (u.2 < 12)
    | 5 => decide (u.2 < 16)
    | 6 | 9 => decide (u.2 < 4)
    | 7 | 8 => u.2 == 0
    | _ => false) && (a.only.map fun l => l.contains u).getD true

/-- The units of a record in the order of their visit: within a segment the suspects last (R335). -/
def Ash.visits (a : Ash) : List (Nat × Nat) :=
  ashSegments.flatMap fun g =>
    let mine := g.filter a.covers
    let suspect := fun u => a.status u == 2 || a.status u == 3
    (mine.filter fun u => !suspect u) ++ mine.filter suspect

/-- Unit entries: a unit with no ash used its 20 ms, and one whose payload would pass 4 GiB is not visited (R336, R338). -/
def Ash.scan (a : Ash) : List (Nat × Nat) → Nat → List AshEntry
  | [], _ => []
  | u :: rest, off =>
    let e : AshEntry := { kind := u.1, status := a.status u, index := u.2, hob := (a.work.find? fun w => (w.1, w.2.1) == u).map fun w => w.2.2 }
    let data := Config.ashData a.seq u.1 u.2
    if e.status = 4 || e.status = 5 then e :: a.scan rest off
    else if e.status = 1 || e.status = 3 then { e with time := 2000 } :: a.scan rest off
    else if 2 ^ 32 < off + data.length then { e with status := 4 } :: a.scan rest off
    else { e with time := min 2000 (Config.ashTime a.seq u.1 u.2), offset := if data.isEmpty then 0 else off, data := data } ::
      a.scan rest (off + data.length)

/-- The entries of a record. -/
def Ash.entries (a : Ash) : List AshEntry := a.scan a.visits (256 + 32 * a.visits.length)

/-- Size of a record in bytes, at most 4 GiB (R336). -/
def Ash.size (a : Ash) : Nat := a.entries.foldl (fun n e => n + 32 + e.data.length) 256

/-- A unit entry's 32 B (R338). -/
def AshEntry.bytes (e : AshEntry) : List Byte :=
  leBytes 1 e.kind ++ leBytes 1 e.status ++ leBytes 2 e.index ++ leBytes 2 ((e.hob.map fun h => 2 ^ 15 + h).getD 0) ++ leBytes 2 e.time ++
  leBytes 8 e.offset ++ leBytes 4 e.data.length ++ leBytes 4 (if e.data.isEmpty then 0 else (crc32c e.data).toNat) ++ zeroBytes 8

/-- The 256 B header with a signature (R338). -/
def Ash.header (a : Ash) (sig : List Byte) : List Byte :=
  leBytes 4 0x41534846 ++ leBytes 2 1 ++
  leBytes 2 (flag (a.entries.any fun e => e.status == 4) + (a.flags.toNat / 2 % 2) * 2 + 4 * flag a.locked) ++ leBytes 8 a.seq ++
  leBytes 16 Config.serial.toNat ++ leBytes 2 a.devid ++ leBytes 1 a.domain.toNat ++ leBytes 1 a.state ++ leBytes 2 a.cause ++
  leBytes 2 a.entries.length ++ leBytes 8 a.time ++ leBytes 8 a.life ++ leBytes 4 a.noash ++ leBytes 4 a.ms ++ leBytes 8 a.size ++
  leBytes 48 (Config.measure 2 [a.fw]).toNat ++ (a.hobs.flatMap fun h => leBytes 1 h) ++ sig ++ zeroBytes 32

/-- A record as it is read out (R338): header, entries, payloads, signed with the signature field as 0. One that a hearth reset
interrupted has no signature: it is sealed last. -/
def Ash.record (a : Ash) : List Byte :=
  let body := (a.entries.flatMap AshEntry.bytes) ++ a.entries.flatMap fun e => e.data
  let sig := (Config.sign ((a.header (zeroBytes 96) ++ body).map fun b => b.toNat) ++ zeroBytes 96).take 96
  a.header (if bits 1 1 a.flags.toNat = 1 then zeroBytes 96 else sig) ++ body

/-- The ash area of 16 GiB: the oldest unlocked records go as space requires (R338). -/
def pruneAsh (room : Nat) : List Ash → List Ash
  | [] => []
  | a :: rest =>
    let n := a.size
    if a.locked || n ≤ room then a :: pruneAsh (room - n) rest else pruneAsh room rest

/-- A record is kept, newest first, and logged. -/
def State.keepAsh (s : State) (a : Ash) : State :=
  let held := (s.ashes.filter fun b => b.locked).foldl (fun n b => n + b.size) 0
  ({ s with ashes := pruneAsh (Config.shelfAsh - held) (a :: s.ashes), ashRun := none }.avlStop 2 1).logDev 0x0406 0xFF [a.seq, a.domain.toNat, a.cause]

/-! ### What a reset does (R326, R327, R332) -/

/-- Cell, rack, quarter. -/
def State.resetCell (s : State) (p why : Nat) : State :=
  let r := (Pos.ofIdx p).rack
  ((s.holdAt (r.all.map Pos.idx)).beginReset 0 p why).clearAt [p]

def State.resetRack (s : State) (i why : Nat) : State :=
  let r := Rack.ofIdx i
  let ps := r.all.map Pos.idx
  (((s.holdAt ps).beginReset 1 i why).clearAt ps).clearIslands [s.gapPos r]

def State.resetQuarter (s : State) (q why : Nat) : State :=
  let ps := quarterPos q
  let s1 := (((s.holdAt ps).beginReset 5 q why).clearAt ps).clearIslands ps
  { s1 with
    edgeIn := s1.edgeIn.filter fun e => !ps.contains (s1.homeOf e.1 e.2.1).idx,
    rimIn := s1.rimIn.filter fun e => !ps.contains (s1.homeOf e.2.1 e.2.2.1).idx }

/-- A stack controller: its stack stays in self-refresh, and what it was serving is reissued (R200). -/
def State.resetStack (s : State) (k why : Nat) : State :=
  let s1 := (s.beginReset 2 k why).modStack k fun x => { x with resetting := true, pwr := .selfRefresh }
  { s1 with txns := s1.txns.map fun t =>
    if t.stackKind && t.client == k then
      { t with served := false, data := if t.write then t.data else [], poison := if t.write then t.poison else [] }
    else t }

/-- A Lanper port: its transactions end as under R258 and it is DARK. -/
def State.resetLnp (s : State) (p why : Nat) : State :=
  ((s.beginReset 3 p why).lnpEnd p .dark 0).modLnp p fun x => { x with resetting := true }

/-- A host port: host loss for its hobs (R241). -/
def State.resetHost (s : State) (p why : Nat) : State :=
  ((s.beginReset 4 p why).losePort p).modHost p fun x => { x with resetting := true }

/-- A hob: its cells, and the islands of its rectangle with those at its racks' gaps, are cleared and it enters LOADING (R67). -/
def State.resetHob (s : State) (h why : Nat) : State :=
  let s1 := (s.beginReset 6 h why).hobToLoading h
  let s2 := s1.each (s1.nums h) fun s n => (s.dropLandings h n).modCell (s.posOf h n) Cell.blank
  s2.clearIslands ((s2.racksOf h).flatMap fun r => r.all.map Pos.idx)

/-- The commands in flight on every ring are recorded as ABORTED where possible, and the rings stop (R332). -/
def State.stopRings (s : State) : State :=
  s.each [0, 1, 2, 3] fun s p => s.each [0, 1, 2, 3, 4, 5, 6, 7, 8] fun s f => s.each [0, 1, 2, 3] fun s r =>
    let x := s.ring p f r
    let ref := fun (e : Sqe) => ({ port := Fin.ofNat 4 p, fn := Fin.ofNat 9 f, ring := Fin.ofNat 4 r, tag := e.tag, noirq := bit 1 e.flags } : CmdRef)
    let s1 := x.sqes.foldl (fun s e => s.complete (ref e) e.op stAborted 0 0 0) s
    if x.en || x.on then s1.modRing p f r fun y => { y with en := false, on := false, sqes := [], fetching := 0, unsignalled := 0, events := [], owed := [], reading := false } else s1

/-- A common-cause test ends with a device reset, and a margin ends with it (R303, R334). -/
def Expel.reset (x : Expel) : Expel :=
  { x with test := false, result := if x.test then 3 else x.result, margin := 0, suspects := [], failed := [], pending := [] }

/-- What every device-level reset takes from the compute die: cells, islands, traffic, far placements, PERTURB settings, deep
idle and thermal holds (R325, R326, R334). -/
def State.dropCompute (s : State) : State :=
  let s1 := s.endPerturbs fun _ => true
  let s2 := s1.each hobNums fun s h => s.each (s.hob h).fars fun s f => s.endFar h f.n
  let s3 := s2.each [0, 1, 2, 3] fun s q => { s with expel := s.expel.upd {} q Expel.reset }
  { s3 with
    cells := [], routers := s3.routers.map fun (e : Nat × Router) => (e.1, e.2.cleared), txns := [], broadcasts := [], edgeIn := [], rimIn := [],
    racks := s3.racks.map fun (e : Nat × RackSt) => (e.1, { e.2 with receiving := none, nextTest := none }),
    health := s3.health.map fun (e : Nat × Health) => (e.1, { e.2 with tmt := { e.2.tmt with running := false, resume := none } }),
    cfgs := { s3.cfgs with idlIn := false, tstPaused := false },
    damper := { s3.damper with duty := 0, overSince := none, hotSince := none, fullSince := none, thermalHold := false } }

/-- Only a device-level reset is in progress; a further one on the warm path keeps its start (R334). -/
def State.onlyReset (s : State) (dom start why : Nat) : State :=
  ({ s with resets := { s.resets with last := BitVec.ofNat 4 dom, why := BitVec.ofNat 8 why, running := [(dom, 0, start)] } }).logDev 0x0404 0xFF [dom, 0, why]

/-- Device warm reset (R326, R327, R332, R398): every hob not FREE is LOADING, rings stop, ports retrain; the path starts at
stage 2. -/
def State.warmReset (s : State) (why : Nat) : State :=
  let start := ((s.resets.running.find? fun r => r.1 == 7).map fun r => r.2.2).getD s.now
  let s1 := s.stopRings
  let s2 := s1.each (hobNums.filter fun h => (s.hob h).st != .free) fun s h =>
    (s.hobToLoading h).modHob h fun z => { z with copies := [], jarRun := none, cow := { waits := z.cow.waits, folding := s.rdrs.any fun e => e.2.hob == h } }
  let s3 := s2.dropCompute
  let s4 := { s3 with
    stk := s3.stk.map fun (e : Nat × Stack) => (e.1, { e.2 with resetting := false, pwr := if e.2.pwr = StkPwr.off then StkPwr.off else StkPwr.selfRefresh }),
    hosts := s3.hosts.map fun (e : Nat × HostPort) => (e.1, { e.2 with fenced := false, resetting := false, linkUp := e.2.linkUp || (e.2.fenced && !e.2.perst) }),
    lnps := s3.lnps.map fun (e : Nat × Lnp) => (e.1, { e.2 with
      st := if e.2.parked || (e.2.st == LnpState.dark && e.2.park) then .dark else if e.2.en then .training else .dark, retraining := false, relighting := false, fallback := false,
      fenced := false, resetting := false, replayBuf := [], txQueue := [], rxQueue := [], rxReq := [], served := [], jarAsks := [], credits := [], rxUsed := [], creditBack := [],
      naked := false, swaps := [], since := s.now }),
    boot := { s3.boot with stage := 2, warm := true, first := false, newdef := 0, fusewin := 0, time := 0, startedAt := s.now },
    resets := { s3.resets with warms := satInc s3.resets.warms } }
  ((s4.onlyReset 7 start why).setDev .bringup).avlStart 2 0

/-- Everything that only core power keeps is gone: stack contents, redirect table, keys, extents, shapes, the lineage record (R332). -/
def State.loseContents (s : State) : State :=
  let s1 := s.each (hobNums.filter fun h => (s.hob h).st != .free) fun s h => (s.abortCommands h stAborted).freeHob h
  { s1 with
    resets := { s1.resets with linLost := true }
    mem := [], lines := [], rdrs := [], rdrs6 := [], places := [], places6 := [],
    hobs := s1.hobs.map fun (e : Nat × Hob) => (e.1, { e.2 with zeroing := [], lineage := [], lineage6 := [], linOver := 0, reports := [] }) }

/-- A stack that has lost power; its repairs are stored (R203, R204). -/
def Stack.powerOff (k : Stack) : Stack :=
  { sparePc := k.sparePc, rowrep := k.rowrep, pcMap := k.pcMap, rowMap := k.rowMap, pcDead := k.pcDead, unusable := k.unusable }

/-- Device cold reset (R326, R327, R332): everything but the hearth, the pantry and hearth flash; the path starts at stage 1. Only one
that the device initiates is downtime (R13). -/
def State.coldReset (s : State) (why : Nat) : State :=
  let s1 := s.each [0, 1, 2, 3] fun s p => (s.losePort p).modHost p fun x => { linkUp := false, perst := x.perst, fns := x.fns }
  let s2 := (s1.loseContents).dropCompute
  let s3 := s2.each (List.range 16) fun s p => s.lnpEnd p .dark 0
  let s4 := { s3 with
    routers := [], stk := s3.stk.map fun (e : Nat × Stack) => (e.1, { e.2.powerOff with ue := 0 }),
    lnps := s3.lnps.map fun (e : Nat × Lnp) => (e.1, { e.2 with fenced := false, resetting := false, retrains := 0, drops := 0, peerDev := 0, peerPort := 0, fibres := [], equalised := false }),
    racks := s3.racks.map fun (e : Nat × RackSt) => (e.1, { e.2 with gap := 8, dirEast := false, pass := 0, void := 0 }),
    health := s3.health.map fun (e : Nat × Health) => (e.1, { e.2 with tmt := { e.2.tmt with passes := 0 } }),
    expel := s3.expel.map fun (e : Nat × Expel) => (e.1, { e.2 with runs := 0 }),
    cfgs := { s3.cfgs with idlEntries := 0, idleSince := 0 }, damper := { s3.damper with mclk := 0, droops := 0, lastChange := 0, noRaiseUntil := 0, cap := false, capUntil := 0 },
    hearth := { s3.hearth with jtag := false },
    boot := { stage := 1, startedAt := s.now },
    resets := { s3.resets with colds := satInc s3.resets.colds, warms := 0 },
    now := 0, sensors := s3.sensors }
  let s5 := (s4.onlyReset 8 0 why).setDev .hearthUp
  if why != 13 then s5.avlStart 2 0 else s5

/-- EMBER and OUT_OF_SERVICE (R339, R340): the mesh rail is off, stacks are OFF, every hob is FREE; VFs keep no ring. -/
def State.enterDown (s : State) (st : DevState) : State :=
  let s1 := (s.interrupt.loseContents).dropCompute
  let s2 := { s1 with
    routers := [], stk := s1.stk.map fun (e : Nat × Stack) => (e.1, e.2.powerOff),
    hosts := s1.hosts.map fun (e : Nat × HostPort) => (e.1, { e.2 with fns := e.2.fns.map fun (f : Nat × Fn) => (f.1, if f.1 = 0 then f.2 else { f.2 with rings := [] }) }),
    damper := { s1.damper with mclk := 0 }, pantry := { s1.pantry with up := true },
    pins := { s1.pins with rails := s1.pins.rails &&& 0x1C8, vcore := [] },
    resets := { s1.resets with running := [], pathCounted := false, oosSticky := s1.resets.oosSticky || st == DevState.outOfService } }
  (((s2.setDev st).avlStop 2 0).avlStart 4 0)

/-- The reset of a domain, or the entry to EMBER (14) or OUT_OF_SERVICE (15). -/
def State.performReset (s : State) (dom idx why : Nat) : State :=
  match dom with
  | 0 => s.resetCell idx why
  | 1 => s.resetRack idx why
  | 2 => s.resetStack idx why
  | 3 => s.resetLnp idx why
  | 4 => s.resetHost idx why
  | 5 => s.resetQuarter idx why
  | 6 => if (s.hob idx).st = .free then s else s.resetHob idx why
  | 7 => s.warmReset why
  | 8 => s.coldReset why
  | 14 => s.enterDown .ember
  | 15 => s.enterDown .outOfService
  | _ => s

/-- A reset is asked for: it waits for a capture to end and for the hearth to return (R327, R334). -/
def State.askReset (s : State) (dom idx why : Nat) : State :=
  if s.inReset dom idx && dom < 7 then s
  else if s.resets.hearthDown then
    if s.resets.queued.any fun r => r.1 == dom && r.2.1 == idx then s
    else { s with resets := { s.resets with queued := s.resets.queued ++ [(dom, idx, why)] } }
  else if s.ashRun.isSome then s.startAsh dom why [] [(dom, idx, why)]
  else s.performReset dom idx why

/-- A device-initiated warm or cold reset is counted; the last one of the window puts the device OUT_OF_SERVICE instead (R331).
On a warm path, and when a warm reset escalates, it is part of the reset already counted (R331, R334). -/
def State.deviceReset (s : State) (dom why : Nat) (suspects : List (Nat × Nat)) : State :=
  let same := s.resets.pathCounted && s.resets.running.any fun r => r.1 == 7
  let waiting := (s.ashRun.map fun a => a.waiting.any fun w => decide (7 ≤ w.1)).getD false
  if s.down || s.st = .off then s
  else if s.resets.hearthDown then s.askReset dom 0 why
  else if same || waiting then s.startAsh dom why suspects [(dom, 0, why)]
  else
    let fresh := s.resets.counted.filter fun t => decide (s.lifeMs < t + s.resets.whours.toNat * 3600000)
    let s1 := { s with resets := { s.resets with counted := s.lifeMs :: fresh, pathCounted := true } }
    if s.resets.wcount.toNat ≤ fresh.length + 1 then s1.startAsh 0xF why suspects [(15, 0, why)]
    else s1.interrupt.startAsh dom why suspects [(dom, 0, why)]

/-! ### Watchdogs (R186, R328) -/

/-- A hang that the hearth answers with a reset. While the hearth is away the reset waits for it, and so do
the hobs that it touches (R13, R327). -/
def State.hang (s : State) (dom idx why : Nat) (hobs : List Nat) : State :=
  if s.st = .off then s
  else (if s.resets.hearthDown then s.each hobs State.awaitHearth else s).askReset dom idx why

/-- Cells that can hang: powered positions that back work or could. -/
def State.cellLive (s : State) (p : Nat) : Bool := (s.pos p).state.backs && !s.down

/-- CELL_HEARTBEAT_MISS (R328 code 1): a running static-mode cell. -/
def execCellHeartbeatMiss (cell : Pos) (s : State) : Res :=
  let p := cell.idx
  match (s.cell p).hob with
  | none => done s
  | some h =>
    if !(s.hob h).runs || (s.hob h).seqMode then done s
    else done (s.hang 0 p 1 (s.hobsAt (cell.rack.all.map Pos.idx)))

/-- CELL_REQUEST_TIMEOUT (R328 code 2). -/
def execCellRequestTimeout (cell : Pos) (s : State) : Res :=
  if s.cellLive cell.idx then done (s.hang 0 cell.idx 2 (s.hobsAt (cell.rack.all.map Pos.idx))) else done s

/-- BROADCAST_UNACKED (R186, R328 code 3): a target that is still open and not lidded 100 ms after the first attempt. -/
def execBroadcastUnacked (id : Nat) (target : Nat) (s : State) : Res :=
  match s.broadcasts.find? fun b => b.id == id with
  | none => done s
  | some b =>
    let p := s.bcastPos b target
    let st := (s.pos p).state
    if !b.targets.contains target || st == .lidded || st == .fusedOff || s.now < b.startedAt + 100 * msNs then done s
    else done (s.hang 0 p 3 (s.hobsAt ((Pos.ofIdx p).rack.all.map Pos.idx)))

/-- QUARTER_HOLD_UNCONFIRMED (R328 code 5): ash, then the quarter's reset. -/
def execQuarterHoldUnconfirmed (q : Quarter) (s : State) : Res :=
  if s.down || s.st = .off then done s
  else if s.resets.hearthDown then done ((s.each (s.hobsAt (quarterPos q.val)) State.awaitHearth).askReset 5 q.val 5)
  else done (s.startAsh 5 5 [(9, q.val)] [(5, q.val, 5)])

/-- STACK_CTRL_HANG (R328 code 6). -/
def execStackCtrlHang (stack : StackId) (s : State) : Res :=
  if (s.stack stack.val).pwr = .off then done s else done (s.hang 2 stack.val 6 [])

/-- LANPER_ENGINE_HANG (R328 code 7). -/
def execLanperEngineHang (port : LnpId) (s : State) : Res :=
  if (s.lnp port.val).fenced then done s else done (s.hang 3 port.val 7 [])

/-- HOST_PORT_HANG (R328 code 8). -/
def execHostPortHang (port : HPort) (s : State) : Res :=
  if (s.host port.val).fenced then done s else done (s.hang 4 port.val 8 [])

/-- HOB_STOP_TIMEOUT (R328 code 9): a hob that should be STOPPED; ash of its units, then its reset. -/
def execHobStopTimeout (hob : HobId) (s : State) : Res :=
  let h := hob.val
  if !((s.hob h).st = .running || (s.hob h).st = .held) then done s
  else if s.resets.hearthDown then done ((s.awaitHearth h).askReset 6 h 9)
  else done (s.startAsh 6 9 (s.hobUnits h) [(6, h, 9)])

/-- RIM_TOKEN_LOSS (R328 code 10). -/
def execRimTokenLoss (s : State) : Res := done (s.deviceReset 7 10 (((List.range 32).map fun n => (3, n))))

/-- WARM_RESET (R331): device-initiated. -/
def execWarmReset (why : Fin 14) (s : State) : Res := done (s.deviceReset 7 why.val [])

/-- COLD_RESET (R331): device-initiated. -/
def execColdReset (why : Fin 14) (s : State) : Res := done (s.deviceReset 8 why.val [])

/-- STACK_CTRL_RESET (R200, R326). -/
def execStackCtrlReset (stack : StackId) (s : State) : Res :=
  if (s.stack stack.val).resetting || (s.stack stack.val).pwr = .off then done s else done (s.askReset 2 stack.val 0)

/-- STACK_CTRL_RESET_DONE (R200): the edge interface reissues every unfinished request, which the controller serves afresh, and
resident slots that waited for the stack are filled (R63). -/
def execStackCtrlResetDone (stack : StackId) (s : State) : Res :=
  if (s.stack stack.val).resetting then
    let s1 := (s.finishReset 2 stack.val).modStack stack.val fun k => { k with resetting := false, pwr := .on, lastTraffic := s.now }
    done (s1.each hobNums fun s h => if (s.hob h).fills.isEmpty then s
      else ((s.hob h).fills.foldl (fun (s : State) f => s.fillSlot h f.1 f.2) s).endHold8 h)
  else done s

/-! ### Cells, racks, quarters and hobs (R326 to R329) -/

/-- CELL_RESET (R329). -/
def execCellReset (cell : Pos) (s : State) : Res := if s.cellLive cell.idx then done (s.askReset 0 cell.idx 0) else done s

/-- CELL_RESET_DONE (R329): a reset that did not complete is a test-driven lid. Otherwise a hang event of weight 150, and after
4 resets in 60 minutes a score-driven lid, else a rebuild in place and a replay. -/
def execCellResetDone (cell : Pos) (ok imageOk : Bool) (s : State) : Res :=
  let p := cell.idx
  if !s.inReset 0 p || s.resets.hearthDown then done s
  else
    let s1 := s.finishReset 0 p
    if !ok then
      let s2 : State := { s1 with resets := { s1.resets with escal := satInc s1.resets.escal } }
      done ((s2.logDev 0x0405 0xFF [0, p]).lid p true)
    else
      let recent := s.lifeMs :: (s.pos p).resets.filter fun t => decide (s.lifeMs < t + 3600000)
      let s2 := (s1.charge p 0 150 0).modPos p fun x => { x with resets := recent }
      let s3 := if 4 ≤ recent.length && (s2.pos p).state != .lidded then s2.scoreLid p else s2
      let ps := cell.rack.all.map Pos.idx
      if (s3.pos p).state = .lidded then done s3
      else done ((s3.rebuildAt [p] imageOk).each (s3.hobsAt ps) State.endDecant)

/-- RACK_RESET (R326, R328 code 4). -/
def execRackReset (r : Rack) (s : State) : Res := if s.down || s.st = .off then done s else done (s.askReset 1 r.idx 4)

/-- RACK_RESET_DONE (R327). -/
def execRackResetDone (r : Rack) (imageOk : Bool) (s : State) : Res :=
  if s.inReset 1 r.idx && !s.resets.hearthDown then done ((s.finishReset 1 r.idx).rebuildAt (r.all.map Pos.idx) imageOk) else done s

/-- QUARTER_RESET (R326). -/
def execQuarterReset (q : Quarter) (s : State) : Res := if s.down || s.st = .off then done s else done (s.askReset 5 q.val 5)

/-- QUARTER_RESET_DONE (R327). -/
def execQuarterResetDone (q : Quarter) (imageOk : Bool) (s : State) : Res :=
  if s.inReset 5 q.val && !s.resets.hearthDown then done ((s.finishReset 5 q.val).rebuildAt (quarterPos q.val) imageOk) else done s

/-- HOB_RESET (R327). -/
def execHobReset (hob : HobId) (s : State) : Res := if (s.hob hob.val).st = .free then done s else done (s.askReset 6 hob.val 9)

/-- HOB_RESET_DONE (R327, R333): the hob rests in LOADING. -/
def execHobResetDone (hob : HobId) (s : State) : Res := done (s.finishReset 6 hob.val)

/-- The far cells whose bridges pass through a position, as hob and cell. -/
def State.bridgesAt (s : State) (p : Nat) : List (Nat × Nat) :=
  hobNums.flatMap fun h => ((s.hob h).fars.filter fun f => f.path.contains p && f.far != p).map fun f => (h, f.n)

/-- A far cell is placed again over a route that avoids a router island (R67, R295): the best candidate with that island left out. -/
def State.rerouteFar (s : State) (p : Nat) (c : Nat × Nat) : State :=
  let (h, n) := c
  let old := s.posOf h n
  let away := s.modRouter p fun r => { r with linkBad := mark r.linkBad 0 true }
  let open_ := away.endFar h n
  match open_.findFar h n with
  | .inl d =>
    let s1 := ((s.holdNow h 5).moveCell old d.pos).endFar h n
    let path := open_.bridgePath (s.routerPos h n) d.pos
    (s1.placeOver h n d 0 path).endHold h 5
  | .inr _ => s

/-- ROUTER_ISLAND_RESET (R67): only at a rack's gap. Where bridges pass, their far cells are first placed again over routes that
avoid the island; with a bridge left the island is not reset. -/
def execRouterIslandReset (cell : Pos) (s : State) : Res :=
  let p := cell.idx
  if s.gapPos cell.rack = p && !s.down && s.st ≠ .off && !s.resets.hearthDown then
    let s1 := s.each (s.bridgesAt p) fun s c => s.rerouteFar p c
    done (if s1.bridged p then s1 else s1.clearIslands [p])
  else done s

/-! ### Ports (R326) -/

/-- LNP_PORT_RESET. -/
def execLnpPortReset (port : LnpId) (s : State) : Res :=
  if s.st = .off || (s.lnp port.val).fenced then done s else done (s.askReset 3 port.val 0)

/-- LNP_PORT_RESET_DONE: buffers, credits and session are clear and the port is DARK; training needs a later enable or LINK event (R254). -/
def execLnpPortResetDone (port : LnpId) (s : State) : Res :=
  let p := port.val
  if !s.inReset 3 p then done s
  else
    let s1 := (s.finishReset 3 p).modLnp p fun x => { x with resetting := false }
    done s1

/-- HOST_PORT_RESET. -/
def execHostPortReset (port : HPort) (s : State) : Res :=
  if s.st = .off || (s.host port.val).fenced then done s else done (s.askReset 4 port.val 0)

/-- HOST_PORT_RESET_DONE: the port can carry rings again. -/
def execHostPortResetDone (port : HPort) (s : State) : Res :=
  if s.inReset 4 port.val then done ((s.finishReset 4 port.val).modHost port.val fun x => { x with resetting := false }) else done s

/-! ### Timeouts (R326, R328 code 12) -/

/-- RESET_TIMEOUT: the reset is handled as R326's last column states, and the escalation is logged. -/
def execResetTimeout (domain : Fin 10) (index : Nat) (s : State) : Res :=
  let d := domain.val
  match s.resets.running.find? fun r => r.1 == d && r.2.1 == index with
  | none => done s
  | some r =>
    if s.now < r.2.2 + resetTimeout d || (s.resets.hearthDown && d != 9) || (d = 9 && s.fw.recovery) then done s
    else
      let s1 := (s.finishReset d index).logDev 0x0405 0xFF [d, index]
      let s2 := { s1 with resets := { s1.resets with escal := satInc s1.resets.escal } }
      done (match d with
        | 0 => s2.lid index true
        | 1 => s2.startAsh 5 12 (s2.domainUnits 1 index) [(5, (Rack.ofIdx index).quarter, 12)]
        | 2 => s2.deviceReset 7 12 [(4, index)]
        | 3 => s2.modLnp index fun x => { x with fenced := true, resetting := false, st := .dark }
        | 4 => s2.modHost index fun x => { x with fenced := true, resetting := false, linkUp := false }
        | 5 => s2.deviceReset 7 12 (s2.domainUnits 5 index)
        | 6 => s2.deviceReset 7 12 (s2.domainUnits 6 index)
        | 7 =>
          let again := s.resets.pathCounted
          if again then s2.startAsh 8 12 (s2.domainUnits 7 0) [(8, 0, 12)] else s2.deviceReset 8 12 (s2.domainUnits 7 0)
        | 8 => s2.startAsh 0xE 12 (s2.domainUnits 8 0) [(14, 0, 12)]
        | _ => { s2 with resets := { s2.resets with hearthHeld := true, running := s2.resets.running ++ [(9, 0, r.2.2)] }, pins := { s2.pins with alert := true } })

/-! ### The hearth (R327, R363, R386, R399) -/

/-- A boot of the hearth chooses its slot (R386): a pending slot is tried 3 times, and a slot whose signature or SVN fails is
bad; with no slot left the recovery loader runs. `okA` and `okB` are the signatures. -/
def Fw.boot (x : Fw) (okA okB : Bool) : Fw :=
  let state := fun (y : Fw) (b : Bool) => if b then y.stateB else y.stateA
  let set := fun (y : Fw) (b : Bool) (v : BitVec 2) => if b then { y with stateB := v } else { y with stateA := v }
  let svns := fun (b : Bool) => if b then x.svnB else x.svnA
  let ok := fun (b : Bool) => (if b then okB else okA) && (svns b).all fun v => decide (x.minsvn ≤ v)
  let x1 := if state x x.active = 1 then { x with tries := satInc x.tries } else x
  let worn := state x x.active = 1 && x.tries = 3
  let x2 := if worn then { set x1 x.active 3 with active := !x.active, fuseRaises := x1.fuseRaises } else x1
  let x3 := if state x2 x2.active ≠ 3 && !ok x2.active then { set x2 x2.active 3 with active := !x2.active } else x2
  if state x3 x3.active = 3 || state x3 x3.active = 0 || !ok x3.active then { x3 with recovery := true }
  else
    let h := (svns x3.active).getD 0 0
    { x3 with recovery := false, svnH := h, tries := if state x3 x3.active = 1 then x3.tries else 0 }

/-- The hearth boots; a change of slot is a rollback and logged (R386). -/
def State.bootHearth (s : State) (okA okB : Bool) : State :=
  let f := s.fw.boot okA okB
  let s1 := { s with fw := { f with pendingSince := s.life }, pins := { s.pins with alert := s.pins.alert || f.recovery } }
  if f.active != s.fw.active || f.stateA.toNat == 3 && s.fw.stateA.toNat != 3 || f.stateB.toNat == 3 && s.fw.stateB.toNat != 3 then s1.logDev 0x0407 0xFF [flag f.active] else s1

/-- The state of an update stands in the hearth's SRAM, which a hearth reset clears (R326; notes/assumptions/90.md). -/
def Fw.forget (x : Fw) : Fw :=
  { x with updating := false, comps := [], applied := [], comp := none, stage := 0, received := 0, compSize := 0, activateAt := 0 }

/-- The hearth resets (R326, R327): its sessions end, a capture is interrupted, compute runs on. -/
def State.hearthReset (s : State) (why : Nat) : State :=
  if s.st = .off || s.resets.hearthDown then s
  else
    let waiting := (s.ashRun.map fun a => a.waiting).getD []
    let s1 := match s.ashRun with
      | some a => s.keepAsh { a.ash with flags := a.ash.flags ||| 2, ms := (s.now - a.startedAt) / msNs }
      | none => s
    let s2 := s1.beginReset 9 0 why
    { s2 with
      sessions := [], resets := { s2.resets with hearthDown := true, queued := s2.resets.queued ++ waiting },
      hearth := { s2.hearth with spdmAlgs := false }, fw := s2.fw.forget }

/-- HEARTH_LOCKSTEP_MISMATCH (R328 code 11, R363). -/
def execHearthLockstepMismatch (s : State) : Res := done (s.hearthReset 11)

/-- HEARTH_WATCHDOG_EXPIRY (R328 code 11): the watchdog also drives ALERT (R363). -/
def execHearthWatchdogExpiry (s : State) : Res :=
  if s.st = .off || s.resets.hearthDown then done s
  else done { s.hearthReset 11 with pins := { s.pins with alert := true } }

/-- HEARTH_RESET (R326). -/
def execHearthReset (s : State) : Res := done (s.hearthReset 0)

/-- HEARTH_RESET_DONE (R327, R332, R386, R399): holds of hearth absence end, `PRT_LEFT` resumes, faults and resets that waited are handled, and
a bring-up starts again on the cold path. Under the recovery loader the hearth stays away. -/
def execHearthResetDone (s : State) : Res :=
  match s.resets.running.find? fun r => r.1 == 9 with
  | none => done s
  | some r =>
    if s.resets.hearthHeld || s.fw.recovery then done s
    else
      let away := s.now - r.2.2
      let s1 := (s.finishReset 9 0).bootHearth true true
      if s1.fw.recovery then done { s1 with resets := { s1.resets with running := s.resets.running } } else
      let s2 := { s1 with
        resets := { s1.resets with hearthDown := false, queued := [] },
        pins := { s1.pins with alert := s1.fw.recovery || s1.damper.thermalHold },
        perturbs := s1.perturbs.map fun (e : Nat × Perturb) => (e.1, { e.2 with ends := e.2.ends + away }) }
      let s3 := s2.each hobNums fun s h =>
        let t := (if (s.hob h).hold.frozen then s else s.avlStop 5 h).endHold8 h
        match (t.hob h).awaits with
        | some (st, n) => (t.modHob h fun y => { y with awaits := none }).replay h st n
        | none => t
      let s4 := if 2 ≤ s.boot.stage && s.boot.stage ≤ 6 && s.resets.running.any (fun r => r.1 == 7 || r.1 == 8) then s3.coldReset 11 else s3
      done (s.resets.queued.foldl (fun s r =>
        if 7 ≤ r.1 && r.1 ≤ 8 then s.deviceReset r.1 r.2.2 []
        else if r.1 = 5 || r.1 = 6 then s.startAsh r.1 r.2.2 (if r.2.2 = 5 then [(9, r.2.1)] else if r.2.2 = 9 then s.hobUnits r.2.1 else []) [(r.1, r.2.1, r.2.2)]
        else s.askReset r.1 r.2.1 r.2.2) s4)

/-! ### Ash rows -/

/-- ASH_CAPTURE (R335). -/
def execAshCapture (domain : BitVec 8) (cause : Fin 14) (s : State) : Res :=
  if s.st = .off || s.resets.hearthDown || s.ashRun.isSome then done s else done (s.startAsh domain.toNat cause.val [] [])

/-- ASH_UNIT_TIMEOUT (R336): the unit is recorded as no ash, and capture goes on. -/
def execAshUnitTimeout (kind : Fin 10) (index : Nat) (s : State) : Res :=
  match s.ashRun with
  | none => done s
  | some a =>
    let mine := fun (u : Nat × Nat × Nat) => u.1 == kind.val && u.2.1 == index
    if !a.ash.covers (kind.val, index) || (a.ash.units.any fun u => mine u && (u.2.2 == 1 || u.2.2 == 3)) then done s
    else
      let status := if a.ash.units.any mine then 3 else 1
      let units := (a.ash.units.filter fun u => !mine u) ++ [(kind.val, index, status)]
      done { s with ashRun := some { a with ash := { a.ash with units := units, noash := a.ash.noash + 1 } } }

/-- ASH_CAPTURE_DONE (R334, R335, R338): the record is sealed, and what waited for it is done. -/
def execAshCaptureDone (ms : Nat) (s : State) : Res :=
  match s.ashRun with
  | none => done s
  | some a =>
    if s.resets.hearthDown then done s
    else
      done (a.waiting.foldl (fun s w => s.performReset w.1 w.2.1 w.2.2) (s.keepAsh { a.ash with ms := ms }))

/-! ### Reset commands (R330, R338, R341, R372) -/

/-- A write to `HRT_RST_CMD`: action and argument are logged under R10 before anything is done. -/
def State.rstCmd (s : State) (who : Who) (action arg refuse : Nat) (act : State → State) : State :=
  s.priv who [.installer, .maker] 0x0107 0xFF [action, arg] refuse act

/-- An uncounted reset by command. -/
def State.commandedReset (s : State) (dom : Nat) : State :=
  if s.ashRun.isSome then s.startAsh dom 13 [] [(dom, 0, 13)]
  else ({ s with resets := { s.resets with pathCounted := false } }).performReset dom 0 13

/-- What a write to `HRT_RST_CMD` does (R330, R338, R341): 1 warm reset, 2 cold reset, 3 restore, which leaves EMBER or
OUT_OF_SERVICE, clears the window count and starts an uncounted cold reset, 4 capture ash, 5 lock one ash record, 6 release every
unlocked record; any other is refused. DESIGN CHOICE (notes/assumptions/82.md): action 4 while a capture is under way has result 4, and
action 5 for a number that no kept record has result 2. -/
def State.rstAction (s : State) (who : Who) (action arg : Nat) : State :=
  match action with
  | 1 => s.rstCmd who 1 arg (if s.down then 4 else 0) fun s => s.commandedReset 7
  | 2 => s.rstCmd who 2 arg (if s.down then 4 else 0) fun s => s.commandedReset 8
  | 3 => s.rstCmd who 3 arg (if s.down then 0 else 4) fun s =>
      let s1 := { s with resets := { s.resets with counted := [], oosSticky := false, railFault := false, tripped := false } }
      (s1.avlStop 4 0).commandedReset 8
  | 4 => s.rstCmd who 4 arg (if s.ashRun.isSome then 4 else 0) fun s => s.startAsh 0xF 13 [] []
  | 5 =>
    let mine := fun (a : Ash) => a.seq % 2 ^ 28 == arg
    s.rstCmd who 5 arg (if s.ashes.any mine then 0 else 2) fun s => { s with ashes := s.ashes.map fun a => { a with locked := mine a } }
  | 6 => s.rstCmd who 6 arg 0 fun s => { s with ashes := s.ashes.filter fun a => a.locked }
  | n => s.rstCmd who n arg 2 fun s => s

/-- RST_CMD_WARM. -/
def execRstCmdWarm (who : Who) (s : State) : Res := done (s.rstAction who 1 0)

/-- RST_CMD_COLD. -/
def execRstCmdCold (who : Who) (s : State) : Res := done (s.rstAction who 2 0)

/-- RST_CMD_RESTORE. -/
def execRstCmdRestore (who : Who) (s : State) : Res := done (s.rstAction who 3 0)

/-- RST_CMD_ASH. -/
def execRstCmdAsh (who : Who) (s : State) : Res := done (s.rstAction who 4 0)

/-- RST_CMD_LOCK_ASH: at most one record is locked at a time. -/
def execRstCmdLockAsh (who : Who) (arg : BitVec 28) (s : State) : Res := done (s.rstAction who 5 arg.toNat)

/-- RST_CMD_RELEASE_ASH. -/
def execRstCmdReleaseAsh (who : Who) (s : State) : Res := done (s.rstAction who 6 0)

/-- ASH_READOUT (R338, R372): by the installer or the maker, over MCTP, in every device state. -/
def execAshReadout (who : Who) (seq : Nat) (s : State) : Res :=
  if s.st = .off || s.resets.hearthDown || !s.authorised who [.installer, .maker] then done s
  else match s.ashes.find? fun a => a.seq == seq with
    | some a => done (s.emit (.mctp "ash" a.record))
    | none => done s

end Sys2Proof.Machine
end

