-- ==== Sys2Proof/Machine/Power.lean ====
section
/-! DEFINITION. Power, bring-up, the damper and the thermal limits: POWER_GOOD to SENSOR_SAMPLE (R196, R215, R365, R366, R391 to
R400, R404, R405, R407, R414, R415). -/

namespace Sys2Proof.Machine

open Sys2Proof

/-- MCLK changes on one glitch-free edge, on which the accumulator of every gated hob starts at 0 again (R98). -/
def State.setDamper (s : State) (d : Damper) : State :=
  if d.mclk = s.damper.mclk then { s with damper := d }
  else
    let f := max d.mclk.toNat s.damper.mclk.toNat
    { s with damper := d, hobs := s.hobs.map fun (e : Nat × Hob) => (e.1, if e.2.rcp.mclk < f then { e.2 with clk := { e.2.clk with acc := 0 } } else e.2) }

/-! ### Rails and power (R403 to R405) -/

/-- Bits of a list of PMBus pages in `Pins.rails`. -/
def railBits (l : List Nat) : BitVec 9 := l.foldl (fun b i => b ||| ((1 : BitVec 9) <<< i)) 0

/-- POWER_GOOD (R391, R404): VUNCORE and VHEARTH rise, the time base starts (R280), and stage 1 of the cold path runs. -/
def execPowerGood (s : State) : Res :=
  if s.pins.pwrgd then done s
  else
    let s1 := s.each [0, 1, 2, 3] fun s p => s.modHost p fun x => { x with perst := true }
    done { s1 with
      pins := { s1.pins with pwrgd := true, rails := railBits [3, 8] }, now := 0, boot := {},
      resets := { s1.resets with running := [(8, 0, 0)], pathCounted := false } }

/-- What a position keeps without power: its history. -/
def Health.stored (x : Health) : Health := { x with tmt := {}, injected := [], lent := false }

/-- What a Lanper port keeps without power: its settings, equalisation and laser wear. -/
def Lnp.stored (x : Lnp) : Lnp :=
  { en := x.en, park := x.park, transit := x.transit, expDev := x.expDev, expV := x.expV, equalised := x.equalised,
    fibres := x.fibres.map fun (f : Nat × Fibre) => (f.1, { worn := f.2.worn }) }

/-- An update that power loss meets leaves the inactive slot empty (R384). -/
def Fw.cut (x : Fw) : Fw :=
  let y := if x.updating then (if x.active then { x with stateA := 0 } else { x with stateB := 0 }) else x
  { y with updating := false, comps := [], applied := [], comp := none, stage := 0, recovery := false, received := 0, compSize := 0, activateAt := 0 }

/-- The rails are off (R404, R405): everything but what the hearth flash and the pantry hold is lost (notes/assumptions/48.md). -/
def State.powerOff (s : State) : State :=
  let s0 : State := {
    pending := s.pending, life := s.life, log := s.log, logSeq := s.logSeq, logFail := s.logFail, ashes := s.ashes, ashSeq := s.ashSeq,
    bcastSeq := s.bcastSeq, out := s.out, free := s.free, sensors := s.sensors,
    resets := { s.resets with running := [], queued := [], pathCounted := false, linLost := true, hearthDown := false, hearthHeld := false, railFault := false, tripped := false },
    damper := { plim := s.damper.plim, fmax := s.damper.fmax }
    pins := { vinMv := s.pins.vinMv }
    avl := { s.avl with active := [] }
    cfgs := { tstEn := s.cfgs.tstEn, tstHours := s.cfgs.tstHours, tstAlert := s.cfgs.tstAlert, idlEn := s.cfgs.idlEn, idlDwell := s.cfgs.idlDwell }
    hearth := { s.hearth with jtag := false, spdmAlgs := false, devIdLive := s.hearth.devId }
    fw := s.fw.cut
    pantry := { s.pantry with up := false } }
  let s1 := s0.each (List.range 6912) fun t p => t.setPos p (s.pos p).stored
  let s2 := s1.each hobNums fun t h => t.setHob h { (s.hob h).freed with zeroing := [], lostEvents := 0, st := .free, overq := false }
  let s3 := s2.each stackNums fun t k => t.setStack k { (s.stack k).powerOff with ue := 0 }
  let s4 := s3.each (List.range 16) fun t p => t.setLnp p (s.lnp p).stored
  s4.each [0, 1, 2, 3] fun t p => t.each [0, 1, 2, 3, 4, 5, 6, 7, 8] fun t f => t.resetFn p f

/-- POWER_GOOD_DEASSERT (R404): what is being written is closed and the rails drop. -/
def execPowerGoodDeassert (s : State) : Res := if s.pins.pwrgd then done s.powerOff else done s

/-- VIN_LOW (R405): a damper action reported as input power. -/
def execVinLow (s : State) : Res :=
  if s.damper.mclk = 0 then done s
  else done (s.setDamper { s.damper with mclk := 800, why := 1, lastChange := s.now })

/-- VIN_FAULT (R405): below 36 V or above 62 V. -/
def execVinFault (mv : Nat) (s : State) : Res :=
  if s.pins.pwrgd && (decide (mv < 36000) || decide (62000 < mv)) then
    done ({ s with pins := { s.pins with vinMv := mv } }).powerOff
  else done s

/-- PERST_ASSERT (R407): host loss for the hobs on the port, and its link only. -/
def execPerstAssert (port : HPort) (s : State) : Res :=
  let p := port.val
  if !s.pins.pwrgd || (s.host p).perst then done s
  else done ((s.losePort p).modHost p fun x => { x with perst := true, linkUp := false })

/-- PERST_DEASSERT (R396, R407): the link trains; configuration requests are answered with CRS until the PF is ready. -/
def execPerstDeassert (port : HPort) (s : State) : Res :=
  let p := port.val
  let x := s.host p
  if !s.pins.pwrgd || !x.perst then done s
  else
    let s1 := s.setHost p { x with perst := false, linkUp := !x.fenced }
    done (if x.ready then s1 else s1.emit (.crs p))

/-! ### Stages of a bring-up path (R391, R392, R398) -/

/-- A stage of a path runs and may end: the hearth is in service and no capture is under way. -/
def State.inStage (s : State) (k : Nat) : Bool :=
  s.pins.pwrgd && !s.resets.hearthDown && s.ashRun.isNone && !s.down && s.boot.stage.toNat == k &&
  s.resets.running.any fun r => r.1 == 7 || r.1 == 8

def State.toStage (s : State) (k : Nat) : State := { s with boot := { s.boot with stage := BitVec.ofNat 3 k } }

/-- First use (R397): the burn-in record becomes history. -/
def State.importBurnIn (s : State) : State :=
  s.each s.hearth.burnIn fun s b =>
    (s.addHist b.1 (s.histRec b.1 0x41 0 0)).modPos b.1 fun x => { x with score := b.2 * scoreUnit, scoreAt := s.lifeS }

/-- Every function has a random nonce when its port comes up (R221). -/
def State.freshNonces (s : State) : State :=
  s.each [0, 1, 2, 3] fun s p => s.each [0, 1, 2, 3, 4, 5, 6, 7, 8] fun s f =>
    let (n, t) := s.draw
    t.modFn p f fun x => { x with nonce := BitVec.ofNat 64 n }

/-- HEARTH_BOOT_DONE (R386, R391, R396, R397): the boot ROM has chosen a slot, unless only a cold reset brought stage 1; records
are read and host links enabled. `copies`: a copy of the licence store reads back (R382). OUT_OF_SERVICE is entered again (R339). -/
def execHearthBootDone (okA okB : Bool) (copies : Bool) (s : State) : Res :=
  if !s.inStage 1 then done s
  else
    let s1 := if s.st = .off then s.bootHearth okA okB else s
    if s1.fw.recovery then done s1
    else
      let s2 := (s1.each [0, 1, 2, 3] fun s p => s.modHost p fun x => { x with ready := true, linkUp := !x.perst && !x.fenced }).freshNonces
      let first := s.health.all fun e => e.2.hist.isEmpty
      let s3 := { s2 with hearth := { s2.hearth with licBad := !copies }, boot := { s2.boot with first := first } }
      let s4 := (if first then s3.importBurnIn else s3).setDev .hearthUp
      done (if s4.resets.oosSticky then s4.startAsh 0xF s4.resets.why.toNat [] [(15, 0, s4.resets.why.toNat)] else s4.toStage 2)

/-- The SVN of a component of the active slot. -/
def Fw.svnOf (x : Fw) (i : Nat) : BitVec 8 := (if x.active then x.svnB else x.svnA).getD i 0

/-- CLOCKS_UP (R339, R391, R404): core rails, the mesh PLL at 1.5 GHz, networks released, and the stack rails of stage 3. A PLL that does not lock is a rail fault;
one that persists through a cold reset ends in EMBER. -/
def execClocksUp (pllLocked : Bool) (s : State) : Res :=
  if !s.inStage 2 then done s
  else if !pllLocked then
    done (if s.resets.railFault then s.startAsh 0xE 0 [] [(14, 0, 0)]
      else ({ s with resets := { s.resets with railFault := true } }).deviceReset 8 0 [])
  else
    let s1 := { s with
      pins := { s.pins with rails := s.pins.rails ||| railBits [1, 2, 4, 5], vcore := [(0, 750), (1, 750), (2, 750), (3, 750)] }
      damper := { s.damper with mclk := 1500, why := 0, lastChange := s.now }
      fw := { s.fw with svnR := s.fw.svnOf 1 } }
    done ((s1.setDev .bringup).toStage 3)

/-- A stack at the end of stage 3 (R203, R204, R394): pseudo-channels that fail training take spares; with none left the stack
stays OFF. A warm path has no training. -/
def Stack.bringUp (k : Stack) (bad : List Nat) (warm : Bool) (now : Nat) : Stack :=
  let fresh := if warm then [] else bad.dedup.filter fun pc => !(k.pcMap.any fun e => e.1 == pc)
  let left := 2 - k.sparePc.toNat
  if k.pwr = .off && (left < fresh.length || !k.pcDead.isEmpty) || (warm && k.pwr = .off) then { k with pwr := .off, unusable := true, resetting := false }
  else
    let k1 := fresh.foldl (fun (k : Stack) pc => { k with pcMap := k.pcMap.put 0 pc (k.sparePc.toNat + 1), sparePc := k.sparePc + 1 }) k
    { k1 with pwr := .on, unusable := !k.pcDead.isEmpty, resetting := false, lastTraffic := now }

/-- Lines marked poisoned, from a line number on. -/
def State.poisonLines (s : State) (first n : Nat) : State :=
  { s with lines := (List.range n).foldl (fun (t : Tab Line) i => t.upd {} (first + i) fun l => { l with poison := true }) s.lines }

/-- The 64 B lines of an extent of 256 MiB (R192). -/
def extLines : Nat := 2 ^ 22

/-- An entry that fails its CRC in both tables (R215): the extents of its hob on that stack are poisoned and reported. -/
def State.lostEntry (s : State) (key : Nat) : State :=
  match s.rdrs.find? fun e => e.1 == key with
  | none => s
  | some (_, r) =>
    let stack := key / 2 ^ 21
    let exts := (s.hob r.hob).ext.filter fun e => e.2.valid && e.1 / 352 == stack
    let s1 := s.each exts fun s e => s.poisonLines ((stack * 2 ^ 37 + e.2.dev.toNat * 2 ^ 28) / 64) extLines
    let rep := exts.map fun e => ({ addr := stack * 2 ^ 37 + (e.1 % 352) * 2 ^ 28, source := 2, stack := stack } : EccLine)
    (s1.setRdrs (s1.rdrs.erase key)).eccReport r.hob rep

/-- Fold-back of every entry (R215, R216): one that fails its CRC in the S0 copy is taken from the S6 copy, and is lost if it fails
in both. -/
def State.foldAll (s : State) (badS0 badS6 : List Nat) : State :=
  let s1 := s.each (badS0.filter badS6.contains).dedup State.lostEntry
  let s2 := s1.setRdrs (s1.rdrs.map fun e => if badS0.contains e.1 then (e.1, s1.rdrs6.get e.2 e.1) else e)
  let s3 := s2.each (s2.rdrs.map fun e => e.1) State.fold
  s3.each hobNums fun s h => s.modHob h fun z => { z with cow := { z.cow with folding := false } }

/-- MEMORIES_UP (R215, R309, R391, R398): stacks on, fold-back, test content verified, the pantry up; enabled ports start to train.
`badS0` and `badS6` name redirect entries that fail their CRC in a table. -/
def execMemoriesUp (bad : List (StackId × Nat)) (copyOk : Bool) (badS0 badS6 : List Nat) (s : State) : Res :=
  if !s.inStage 3 then done s
  else
    let warm := s.boot.warm
    let s1 := s.each stackNums fun s k =>
      s.modStack k fun x => x.bringUp ((bad.filter fun b => b.1.val == k).map fun b => b.2) warm s.now
    let s2 := s1.foldAll badS0 badS6
    let off := stackNums.foldl (fun (b : BitVec 12) k => if (s2.stack k).unusable then b ||| ((1 : BitVec 12) <<< k) else b) 0
    let s3 := { s2 with
      boot := { s2.boot with reduced := !copyOk, stkoff := off }
      pantry := { s2.pantry with up := true }
      pins := { s2.pins with rails := s2.pins.rails ||| railBits [6, 7] } }
    let s4 := s3.each (List.range 16) fun s p =>
      let x := s.lnp p
      if x.en && !x.park && !x.parked && x.st = .dark && !x.fenced then s.train p else s
    done (s4.toStage 4)

/-- LINKS_UP (R185, R255, R391, R392, R394): the ports that trained; one that did not goes DOWN and does not stop bring-up. Stage 5 begins
with the broadcast of microcode to every position. -/
def execLinksUp (results : List (LnpId × TrainResult)) (s : State) : Res :=
  if !s.inStage 4 then done s
  else
    let s1 := results.foldl (fun s r => after (execLnpTrainingDone r.1 r.2 s) s) s
    let s2 := s1.each (List.range 16) fun s p => if (s.lnp p).st = .training then s.lnpEnd p .down 2 else s
    done ((s2.toStage 5).startBcast none (List.range 6912))

/-! ### Stage 5 (R68, R392, R393) -/

/-- Faulty wires of one link direction, by the position that drives it and its link code, up to 16 of them steered to spares (R68). -/
def State.wireTest (s : State) (w : Pos × Fin 23 × List Nat) : State :=
  s.modRouter w.1.idx fun r =>
    let o := w.2.1.val
    let l := w.2.2.dedup
    if !(linksOf w.1).contains o then r
    else if l.length ≤ 16 then { r with wireBad := r.wireBad.put [] o l, wireSteered := r.wireSteered.put 0 o l.length }
    else { r with linkBad := mark r.linkBad o true }

/-- Positions that a link direction with more than 16 faulty wires joins. -/
def wireFails (l : List (Pos × Fin 23 × List Nat)) : List Nat :=
  (l.filter fun w => (linksOf w.1).contains w.2.1.val && decide (16 < w.2.2.dedup.length)).flatMap fun w =>
    w.1.idx :: ((linkTo w.1 w.2.1.val).map Pos.idx).toList

/-- Reconciliation of one position (R393); `bist` names the unit that failed its tests (R312). On a warm path the fuse map in force stays. -/
def State.reconcile (s : State) (useMap : Bool) (bist : Nat → Option Nat) (p : Nat) : State :=
  let x := s.pos p
  let map := match s.hearth.fuseShadow with
    | some l => l.contains p
    | none => x.fusedBad
  let fused := if s.boot.warm then x.state == .fusedOff else useMap && map && !s.hearth.overrides.contains p
  let freed := x.override && !s.boot.warm
  let s0 := if (bist p).isNone then (s.setClean p).modPos p fun y => { y with islandAt := s.lifeMs, override := y.override && s.boot.warm } else s
  if fused then
    let s1 := s0.modPos p fun y => { y with state := .fusedOff }
    if (bist p).isNone then { s1 with boot := { s1.boot with fusewin := satInc s1.boot.fusewin } } else s1
  else if (bist p).isSome then
    let s1 := (s0.addHist p (s.histRec p 0x42 0 ((bist p).getD 0))).modPos p fun y => { y with score := 1000 * scoreUnit, scoreAt := s.lifeS, state := .spare }
    let s2 := (s1.lateTaint p 1).lid p true
    { s2 with boot := { s2.boot with newdef := satInc s2.boot.newdef } }
  else if (x.state == .lidded && !freed) || x.state == .parole || x.state == .conditional then s0
  else (s0.addHist p (s.histRec p 0x43 0 0)).modPos p fun y => { y with state := .spare, perm := false, lidTest := false }

/-- A rack's gap: its westmost position that cannot back a cell, else position 8; the others carry work (R16, R393). -/
def State.placeGap (s : State) (r : Rack) : State :=
  let g := ((List.range 9).find? fun i => !(s.pos (r.pos i).idx).state.backs).getD 8
  let old := (s.rack r.idx).gap.toNat
  let s1 := if g = old then s
    else (s.modRack r.idx fun x => { x with gap := BitVec.ofNat 4 g }).placeLog { rack := r.idx, old := old, new := g }
  s1.each ((List.range 9).filter fun i => i != g) fun s i =>
    s.modPos (r.pos i).idx fun x => if x.state = .spare then { x with state := .active } else x

/-- Scratchpad rows that the fuse map remaps (R50): the position, bank × 64 + row, and the spare row. -/
def State.fuseRows (s : State) (rows : List (Pos × Nat × Nat)) : State :=
  s.each (rows.filter fun e => decide (e.2.1 < 2048 ∧ 1 ≤ e.2.2 ∧ e.2.2 ≤ 8)) fun s e =>
    s.modPos e.1.idx fun x => { x with rowMap := x.rowMap.put 0 e.2.1 e.2.2 }

/-- CELLS_TESTED (R50, R312, R385, R392, R393, R398): microcode, tests, wires, row remaps, reconciliation. A map in the shadow stands in for
a fused array that fails its check code. The broadcast of microcode has ended (R185). -/
def execCellsTested (fuse : FuseRead) (failed : List (Pos × BitVec 12)) (wires : List (Pos × Fin 23 × List Nat)) (s : State) : Res :=
  if !s.inStage 5 || s.broadcasts.any (fun b => b.hob.isNone) then done s
  else
    let warm := s.boot.warm
    let s1 := if warm then s else (s.each wires State.wireTest).fuseRows (if fuse.ok then fuse.rows else [])
    let links := if warm then [] else wireFails wires
    let bad := fun p => match failed.find? fun (f : Pos × BitVec 12) => f.1.idx == p with
      | some f => some f.2.toNat
      | none => if links.contains p then some 0 else none
    let map := fuse.ok || s.hearth.fuseShadow.isSome
    let s2 := { s1 with
      boot := { s1.boot with fminv := if warm then s1.boot.fminv else !map, mapShadow := if warm then s1.boot.mapShadow else s1.hearth.fuseShadow.isSome, newdef := 0, fusewin := 0 }
      fw := { s1.fw with svnC := s1.fw.svnOf 2 } }
    let s3 := s2.each (List.range 6912) fun s p => s.reconcile map bad p
    done ((s3.each allRacks State.placeGap).toStage 6)

/-- HANDOVER (R394, R395, R397): hob maps of surviving shapes, retire advice, the bring-up record, the device state. -/
def execHandover (s : State) : Res :=
  if !s.inStage 6 then done s
  else
    let s1 := s.each (hobNums.filter fun h => (s.hob h).st != .free) State.placeCells
    let s2 := s1.evalRetire.logDev 0x040B 0xFF [flag s.boot.warm, s.boot.newdef.toNat, s.boot.fusewin.toNat, s.boot.stkoff.toNat]
    let s3 := { s2 with
      resets := { s2.resets with running := s2.resets.running.filter fun r => !(r.1 == 7 || r.1 == 8), pathCounted := false, railFault := false, tripped := false }
      boot := { s2.boot with stage := 7, time := satNat 16 ((s.now - s.boot.startedAt) / (10 * msNs)) }
      damper := { s2.damper with cap := true, capUntil := s.now + 60 * secNs, why := 5 }
      cfgs := { s2.cfgs with idleSince := s.now } }
    let s4 := if s3.boot.fminv then s3.devEvent stFuseMap 0 0 else s3
    done ((s4.setDev (if s4.degradedCause then .degraded else .service)).avlStop 2 0)

/-! ### The damper (R366, R395) -/

/-- The input power limit in force, in W: 85 % of `HRT_DMP_PLIM` for 60 s after bring-up. -/
def Damper.limit (d : Damper) : Nat := if d.cap then 85 * d.plim.toNat / 100 else d.plim.toNat

/-- The over condition of R366. -/
def Damper.above (d : Damper) : Bool := decide (d.limit < d.pin.toNat) || decide (3400 < d.pcore.toNat) || decide (380 < d.tjmax.toNat)

/-- What limits f (`HRT_DMP_WHY`). -/
def Damper.reason (d : Damper) (now : Nat) : Nat :=
  if d.cap then 5
  else if 97 * d.limit ≤ 100 * d.pin.toNat then 1
  else if 3298 ≤ d.pcore.toNat then 2
  else if 368 < d.tjmax.toNat then 3
  else if now < d.noRaiseUntil then 4
  else if d.mclk = d.fmax then 6
  else 0

/-- One evaluation of R366's rule; MCLK does not rise while thermal duty is in force (R414). -/
def Damper.step (d : Damper) (now : Nat) : Damper :=
  let f := d.mclk.toNat
  let quiet := decide (100 * d.pin.toNat < 97 * d.limit) && decide (d.pcore.toNat < 3298) && decide (d.tjmax.toNat ≤ 368) &&
    decide (d.lastChange + msNs ≤ now) && decide (d.noRaiseUntil ≤ now) && d.duty = 0
  let g := if d.above then max 800 (f - 25) else if quiet then min d.fmax.toNat (f + 25) else f
  let e := { d with mclk := BitVec.ofNat 11 g, lastChange := if g = f then d.lastChange else now }
  { e with
    why := BitVec.ofNat 3 (e.reason now)
    overSince := if e.above && e.mclk = 800 then some (e.overSince.getD now) else none
    hotSince := if 400 < e.tjmax.toNat then some (e.hotSince.getD now) else none
    fullSince := if decide (e.plim.toNat < e.pin.toNat) && e.duty = 224 then some (e.fullSince.getD now) else none }

/-- Input voltage or temperature outside the recommended conditions (R390, R411), or a thermal hold (R414). -/
def State.recheckOutside (s : State) : State :=
  { s with avl := { s.avl with
      outside := s.pins.vinMv < 40000 || 60000 < s.pins.vinMv || decide (380 < s.damper.tjmax.toNat) || s.damper.thermalHold } }

/-- Thermal holds end at 92 °C and below 0.97 of the limit (R414). -/
def State.thermalRelease (s : State) : State :=
  let d := s.damper
  if !d.thermalHold || 368 < d.tjmax.toNat || 97 * d.plim.toNat ≤ 100 * d.pin.toNat then s
  else
    let s1 := { s with damper := { d with thermalHold := false, hotSince := none, fullSince := none }, pins := { s.pins with alert := s.fw.recovery } }
    (s1.each hobNums fun s h =>
      s.endHold8 h).recheckOutside

/-- DAMPER_TICK (R366, R414). -/
def execDamperTick (s : State) : Res :=
  if s.damper.mclk = 0 || s.resets.hearthDown then done s
  else done (s.setDamper (s.damper.step s.now)).thermalRelease

/-- DROOP (R366). -/
def execDroop (_q : Quarter) (s : State) : Res :=
  let d := s.damper
  if d.mclk = 0 then done s
  else done (s.setDamper { d with
    mclk := BitVec.ofNat 11 (max 800 (d.mclk.toNat - 100)), droops := satInc d.droops, why := if d.cap then 5 else 4,
    noRaiseUntil := s.now + msNs, lastChange := s.now })

/-- POWER_CAP_LIFT (R395). -/
def execPowerCapLift (s : State) : Res :=
  let d := s.damper
  if !d.cap || s.now < d.capUntil then done s
  else
    let e := { d with cap := false }
    done { s with damper := { e with why := BitVec.ofNat 3 (e.reason s.now) } }

/-! ### Thermal limits (R414, R415) -/

/-- THERMAL_DUTY_TICK (R414): thermal duty rises by 16 each ms while over at 800 MHz, from 10 ms on, and falls by 16 each ms while not. -/
def execThermalDutyTick (s : State) : Res :=
  let d := s.damper
  if d.mclk = 0 || s.resets.hearthDown then done s
  else
    let n := d.duty.toNat
    let long := match d.overSince with
      | some t => decide (t + 10 * msNs ≤ s.now)
      | none => false
    let m := if d.above && d.mclk = 800 then (if n = 0 then (if long then 16 else 0) else min 224 (n + 16)) else n - 16
    let s1 := { s with damper := { d with duty := BitVec.ofNat 8 m } }
    done (s1.each (hobNums.filter fun h => (s.hob h).runs) fun s h => s.modHob h fun z =>
      let v := max z.simmer.own m
      { z with simmer := { z.simmer with duty := BitVec.ofNat 8 v, on := v != 0 } })

/-- THERMAL_HOLD (R414): above 100 °C for 100 ms, or above the limit for 1 s at full duty. -/
def execThermalHold (s : State) : Res :=
  let d := s.damper
  let hot := match d.hotSince with
    | some t => decide (t + 100 * msNs ≤ s.now) && decide (400 < d.tjmax.toNat)
    | none => false
  let full := match d.fullSince with
    | some t => decide (t + secNs ≤ s.now) && decide (d.plim.toNat < d.pin.toNat) && d.duty == 224
    | none => false
  if d.thermalHold || s.resets.hearthDown || !(hot || full) then done s
  else
    let s1 := { s with damper := { d with thermalHold := true }, pins := { s.pins with alert := true } }
    done (s1.each hobNums fun s h => s.holdFor h 8).recheckOutside

/-- THERMAL_TRIP (R415): the core and stack rails go off; hobs as under a cold reset. The second trip before the restart reaches
SERVICE is a persistent rail fault: EMBER (R339). -/
def execThermalTrip (r : Rack) (s : State) : Res :=
  if s.damper.mclk = 0 || s.sensors.rack.get 0 r.idx < 420 then done s
  else
    let s1 := s.loseContents.dropCompute
    let s2 := { s1 with
      routers := [], stk := s1.stk.map fun (e : Nat × Stack) => (e.1, e.2.powerOff)
      damper := { s1.damper with mclk := 0, why := 3 }
      pins := { s1.pins with rails := s1.pins.rails &&& railBits [3, 6, 7, 8], vcore := [] }
      ashRun := none
      resets := { s1.resets with running := s1.resets.running.filter (fun r => r.1 == 9), tripped := true } }
    let s3 := (s2.setDev .hearthUp).logDev 0x0400 0xFF [DevState.hearthUp.code, r.idx, s.sensors.rack.get 0 r.idx]
    done (if s.resets.tripped then s3.startAsh 0xE 0 [] [(14, 0, 0)] else s3)

/-- TRIP_RESTART (R415): every rack sensor below 60 °C; a counted device-initiated cold reset. -/
def execTripRestart (s : State) : Res :=
  let cool := (List.range 768).all fun i => decide (s.sensors.rack.get 0 i < 240)
  if !s.resets.tripped || s.st ≠ .hearthUp || s.resets.running.any (fun r => r.1 == 8) || s.ashRun.isSome || !cool then done s
  else done (s.deviceReset 8 0 [])

/-- SENSOR_SAMPLE (R196, R365, R366): temperatures in 0.25 °C or °C, laser bias and power in permille, rails in mV and 0.1 A, input
and core package power in W. -/
def execSensorSample (sensor : Sensor) (value value2 : Nat) (s : State) : Res :=
  if !s.pins.pwrgd || s.resets.hearthDown then done s
  else
    let x := s.sensors
    done (match sensor with
      | .rack r =>
        let t := x.rack.put 0 r.idx value
        let top := t.foldl (fun m (e : Nat × Nat) => max m e.2) 0
        ({ s with
          sensors := { x with rack := t }
          damper := { s.damper with tjmax := satNat 10 top, hotSince := if 400 < top then some (s.damper.hotSince.getD s.now) else none } }).recheckOutside
      | .stack k => ({ s with sensors := { x with stack := x.stack.put 0 k.val value } }).modStack k.val fun y => { y with hotref := decide (85 < value) }
      | .lanper p => { s with sensors := { x with lanper := x.lanper.put 0 p.val value } }
      | .laser i => { s with sensors := { x with bias := x.bias.put 0 i.val value, power := x.power.put 0 i.val value2 } }
      | .rail i =>
        let s1 := { s with sensors := { x with railMv := x.railMv.put 0 i.val value, railDa := x.railDa.put 0 i.val value2 } }
        if i.val = 0 then ({ s1 with pins := { s1.pins with vinMv := value } }).recheckOutside else s1
      | .input => { s with damper := { s.damper with pin := satNat 12 value, pcore := satNat 12 value2 } })

end Sys2Proof.Machine
end

