-- ==== Sys2Proof/Machine/Pantry.lean ====
section
/-! DEFINITION. The pantry: JAR_TAKE to JAR_RESTORE_DONE and JAR_SET_PLAN to PANTRY_SCRUB (R342 to R362). -/

namespace Sys2Proof.Machine

open Sys2Proof

/-! ### Wear (R345 to R347) -/

/-- The wear level of R347. -/
def Pantry.wear (x : Pantry) : Nat :=
  if 48 * 10 ^ 15 ≤ x.nand || x.noSpare then 3
  else if 432 * 10 ^ 14 ≤ x.nand || x.sparePm.toNat < 20 then 2
  else if 36 * 10 ^ 15 ≤ x.nand then 1
  else 0

/-- The level follows wear: level 1 is posted and logged, level 2 makes the device DEGRADED. It never falls. -/
def State.settlePantry (s : State) : State :=
  let new := max s.pantry.level.toNat s.pantry.wear
  if new = s.pantry.level.toNat then s
  else
    let s1 := { s with pantry := { s.pantry with level := BitVec.ofNat 2 new } }
    let s2 := if s.pantry.level = 0 then (s1.devEvent stOk 0 new).logDev 0x0400 0xFF [s.st.code, new] else s1
    s2.settleService

/-- Bytes written to NAND. -/
def State.nandWrite (s : State) (jar other : Nat) : State :=
  ({ s with pantry := { s.pantry with written := s.pantry.written + jar, nand := s.pantry.nand + jar + other } }).settlePantry

/-- Blocks that can be opened: neither bad nor with live data. -/
def State.freeBlocks (s : State) : List Nat :=
  (List.range Config.nandBlocks).filter fun b => !s.pantry.badBlocks.contains b && !s.blockLive b

/-- The first of the blocks that `key` ranks lowest. -/
def lowest (key : Nat → Nat) : List Nat → Option Nat
  | [] => none
  | b :: rest => match lowest key rest with
    | some c => if key c < key b then some c else some b
    | none => some b

/-- A block gives its data up: it is erased (R345). -/
def State.vacate (s : State) (block : Nat) : State :=
  let x := s.pantry
  { s with pantry := { x with erases := x.erases.upd 0 block (· + 1), held := x.held.erase block } }

/-- A block takes data, written now; one that still holds what nobody needs is erased first. -/
def State.occupy (s : State) (block owner : Nat) : State :=
  let s1 := if s.pantry.held.get 0 block = 0 then s else s.vacate block
  let x := s1.pantry
  { s1 with pantry := { x with held := x.held.put 0 block owner, reads := Tab.ins (x.reads.erase block) block s.lifeS } }

/-- A new block is opened from the free blocks with the lowest erase count (R345). DESIGN CHOICE (notes/assumptions/82.md): of those, the
one with the lowest number. -/
def State.openBlock (s : State) (owner : Nat) : State :=
  match lowest (s.pantry.erases.get 0) s.freeBlocks with
  | some b => s.occupy b owner
  | none => s

/-- The die of a block. DESIGN CHOICE (notes/assumptions/82.md): blocks are numbered over the 192 dies in turn. -/
def dieOf (block : Nat) : Nat := block % 192

/-- Wear levelling of one die: where its erase counts differ by more than 500, the data of its least-worn block goes to its most-worn
free block (R345). -/
def State.levelDie (s : State) (die : Nat) : State :=
  let wear := s.pantry.erases.get 0
  let mine := (List.range Config.nandBlocks).filter fun b => dieOf b == die && !s.pantry.badBlocks.contains b
  match lowest wear mine with
  | some b =>
    let spread := (mine.foldl (fun m c => max m (wear c)) 0) - wear b
    match lowest (fun c => 2 ^ 64 - wear c) (mine.filter fun c => !s.blockLive c) with
    | some t =>
      if 500 < spread && s.blockLive b then ((s.occupy t (s.pantry.held.get 0 b)).vacate b).nandWrite 0 Config.nandBlockBytes else s
    | none => s
  | none => s

/-- Bytes of a jar written in whole blocks one after the other: a block is opened where the last one is full, and wear is levelled
(R343, R345). The first write of a jar gives up the blocks of the jar that its slot held. -/
def State.jarWrite (s : State) (h slot bytes : Nat) (first : Bool) : State :=
  let owner := 1 + 2 * h + slot
  let old := (s.pantry.held.filter fun e => e.2 == owner).map fun e => e.1
  let s1 := if first then (s.each old State.vacate) else s
  let left := if first then 0 else s1.pantry.room.get 0 owner
  let n := (bytes - left + Config.nandBlockBytes - 1) / Config.nandBlockBytes
  let s2 := s1.each (List.range n) fun s _ => s.openBlock owner
  let s3 := { s2 with pantry := { s2.pantry with room := s2.pantry.room.put 0 owner (left + n * Config.nandBlockBytes - bytes) } }
  (s3.nandWrite bytes 0).each (List.range 192) State.levelDie

/-- The data of a block goes to a new one (R345, R346). -/
def State.moveBlock (s : State) (block : Nat) : State :=
  if s.blockLive block then s.openBlock (s.pantry.held.get 0 block) else s

/-- A block is retired and its data rewritten (R345). -/
def State.retireBlock (s : State) (block : Nat) : State :=
  let x := s.pantry
  if x.badBlocks.contains block then s
  else
    let s1 := s.moveBlock block
    let x := s1.pantry
    let bad := mark x.badBlocks block true
    let used := (1000 * bad.length + Config.nandBlocks - 1) / Config.nandBlocks
    ({ s1 with pantry := { x with
        badBlocks := bad, badDay := s.lifeS :: x.badDay.filter fun t => decide (s.lifeS < t + 86400), held := x.held.erase block
        sparePm := BitVec.ofNat 8 (120 - used), noSpare := decide (120 * Config.nandBlocks ≤ 1000 * bad.length), weak := mark x.weak block false } }).nandWrite 0 Config.nandBlockBytes

/-- NAND_BLOCK_FAIL (R345): the write in progress goes on. -/
def execNandBlockFail (block : Nat) (s : State) : Res := if s.pantry.up then done (s.retireBlock block) else done s

/-- PANTRY_SCRUB (R345, R346): permille of correction capacity that the worst page of a block needs, and the age of its data. -/
def execPantryScrub (block : Nat) (permille ageDays : Nat) (s : State) : Res :=
  if !s.pantry.up || s.pantry.badBlocks.contains block then done s
  else
    let x := s.pantry
    let s1 := { s with pantry := { x with reads := Tab.ins (x.reads.erase block) block s.lifeS, weak := mark x.weak block (decide (700 < permille)) } }
    done (if 700 < permille && x.weak.contains block then s1.retireBlock block
      else if 500 < permille || 90 < ageDays then ((s1.moveBlock block).vacate block).nandWrite 0 Config.nandBlockBytes
      else s1)

/-! ### Taking a jar (R349, R354 to R356) -/

/-- Step index of a fence that has not committed. -/
def Hob.stepAt (z : Hob) (f : Nat) : Nat := (z.nextStep + (f - (z.fenceLast + 1))) % max 1 z.rcp.fences.length

/-- Whether a fence is a jar point (R125). -/
def Hob.jarPoint (z : Hob) (f : Nat) : Bool := ((z.rcp.fences[z.stepAt f]?).map fun e => e.jarPoint).getD false

/-- The first jar point at or after a fence. -/
def Hob.nextJarPoint (z : Hob) (f : Nat) : Option Nat := ((List.range z.rcp.fences.length).map (f + ·)).find? z.jarPoint

/-- The slot of a new jar: not the one of the newest complete set (R349). -/
def Hob.newSlot (z : Hob) : Nat :=
  let a := z.jars.get {} 0
  let b := z.jars.get {} 1
  let newer := fun (p : Jar → Bool) => if p a && (!p b || decide (b.seq < a.seq)) then some 1 else if p b then some 0 else none
  match newer fun j => j.sealed && j.complete with
  | some k => k
  | none => (newer fun j => j.sealed).getD 0

/-- The next set sequence number of a hob. -/
def Hob.nextSeq (z : Hob) : Nat :=
  1 + max (max (z.jars.get {} 0).seq (z.jars.get {} 1).seq) ((z.jarRun.map fun j => j.jar.seq).getD 0)

/-- Whether this module leads the hob's set: the lowest device ID (R355). -/
def State.leads (s : State) (h : Nat) : Bool := (s.hob h).rcp.peers.all fun p => decide (s.hearth.devIdLive.toNat < p)

/-- The device ID of the set's leader. -/
def State.leader (s : State) (h : Nat) : Nat := (s.hob h).rcp.peers.foldl min s.hearth.devIdLive.toNat

/-- The header of a jar that starts (R351); its size without a poison list. -/
def State.newJar (s : State) (h fence seq lead : Nat) : Jar :=
  let z := s.hob h
  let j : Jar := {
    seq := seq, fence := fence, lead := lead, devid := s.hearth.devIdLive.toNat, members := z.rcp.peers.length + 1, hob := h,
    shapeW := z.rect.w, shapeH := z.rect.h, ext := stackNums.foldl (fun (t : Tab (BitVec 9)) k => t.put 0 k (BitVec.ofNat 9 (z.extCount k))) [],
    next := z.nextStep, digest := z.rcp.digest, seqMode := z.seqMode, cred := z.cred, gens := z.gens }
  { j with bytes := j.layout.2 }

/-- Whether a jar fits the quota: the reserved size of both slots (R349); a hob in OVER may not grow (R239). -/
def Hob.jarFits (z : Hob) (slot bytes : Nat) : Bool :=
  let use := (z.jars.get {} (1 - slot)).bytes + bytes
  decide (use ≤ min z.pantryQ z.grant.pantry.toNat * 2 ^ 30) && !(z.reported == .ovr && decide (z.pantryUse < use))

/-- A jar reserves its slot and starts: a hob that runs captures, a STOPPED one drains at once (R354). -/
def State.reserveJar (s : State) (h slot fence seq lead : Nat) (ref : Option CmdRef) : State :=
  let j := s.newJar h fence seq lead
  let runs := (s.hob h).st == .running
  let s1 := s.leaveIdle.modHob h fun y => { y with
    jars := y.jars.put {} slot { bytes := j.bytes }
    jarRun := some { slot := slot, fence := fence, started := !runs, startedAt := s.lifeMs, ref := ref, jar := j }
    cow := if runs then y.cow else { y.cow with draining := true, drained := [], drained6 := [], fence := fence } }
  s1.recheckOver h

/-- The leader starts a set: its choice goes to every member (R355). -/
def State.startSet (s : State) (h fence : Nat) (ref : Option CmdRef) : State :=
  let z := s.hob h
  let slot := z.newSlot
  let seq := z.nextSeq
  let s1 := s.tellPeers h 3 "jar plan" [fence, seq, slot, s.hearth.devIdLive.toNat]
  s1.reserveJar h slot fence seq s.hearth.devIdLive.toNat ref

/-- The fence of a set: at least one step ahead (R355). -/
def Hob.setFence (z : Hob) (fence : Nat) : Nat :=
  if z.rcp.peers.isEmpty || z.st != .running || !z.clk.live then fence else (z.nextJarPoint (max fence (z.clk.fence + 1))).getD fence

/-- JAR_TAKE (R232, R347, R354 to R356). -/
def execJarTake (ref : CmdRef) (hob : HobId) (fence : Nat) (s : State) : Res :=
  let h := hob.val
  done (s.command ref h 7 0xFFFF (fun e => leAt e 8 8 == fence) fun s =>
    let z := s.hob h
    let runs := z.st == .running
    if !(runs || z.st == .stopped) || z.jarRun.isSome || z.restore.isSome || s.pantry.level = 3 || !s.pantry.up then s.complete ref 7 stState 0 0 0
    else if (if runs then fence ≤ z.fenceLast || !z.jarPoint fence else fence != z.fenceLast) then s.complete ref 7 stRejected 0 0 0
    else if !z.jarFits z.newSlot (s.newJar h fence 0 0).bytes then s.complete ref 7 stQuota 0 0 0
    else if s.leads h then s.startSet h (z.setFence fence) (some ref)
    else
      (s.leaveIdle.modHob h fun y => { y with jarRun := some { fence := fence, planned := false, ref := some ref } }).tellPeer
        h (s.leader h) 4 "jar request" [fence])

/-- JAR_SET_PLAN (R355, R356): a member takes the leader's fence, number and slot. -/
def execJarSetPlan (hob : HobId) (fence seq : Nat) (slot : Fin 2) (lead : BitVec 13) (s : State) : Res :=
  let h := hob.val
  let z := s.hob h
  let ref := z.jarRun.bind fun j => j.ref
  let runs := z.st == .running
  let busy := match z.jarRun with
    | some j => j.planned
    | none => false
  if !(runs || z.st == .stopped) || lead.toNat ≠ s.leader h || s.leads h || busy || z.restore.isSome || !s.pantry.up ||
      (if runs then fence ≤ z.fenceLast else fence != z.fenceLast) then done s
  else
    let refuse := fun (s : State) (st : Nat) =>
      let s1 := s.modHob h fun y => { y with jarRun := none }
      match ref with
      | some r => s1.complete r 7 st 0 0 0
      | none => s1.hobEvent h st 0 seq
    done (if s.pantry.level = 3 then refuse s stState
      else if !z.jarFits slot.val (s.newJar h fence seq 0).bytes then refuse s stQuota
      else s.reserveJar h slot.val fence seq lead.toNat ref)

/-! ### Cadence (R357 to R359) -/

/-- S and n of R358: seconds in SERVICE or DEGRADED, and interruptions, over the last 365 days. -/
def State.estimate (s : State) : Nat × Nat :=
  let day := s.lifeS / 86400
  ((s.avl.serviceDays.foldl (fun n e => if day < e.1 + 365 then n + e.2 else n) 0) / secNs,
   (s.avl.interruptions.filter fun t => decide (s.lifeS < t + 31536000)).length)

/-- The hazard factor of this module (R359). -/
def State.hazard (s : State) : Nat :=
  let common := [0, 1, 2, 3].any fun q => let x := s.expel.get {} q; x.result == 1 && decide (s.lifeS < x.resultAt + 86400)
  (if s.hearth.retire then 4 else 1) * (if common then 4 else 1) * (if s.damper.why = 3 then 2 else 1) * (1 + s.windowCount)

/-- Σ 1 / M over the members, or Σ of the products of R359, as a fraction. -/
def rateSum (l : List (Nat × Nat × Nat)) : Nat × Nat :=
  l.foldl (fun (a : Nat × Nat) m => (a.1 * (m.1 + 7200000) + (m.2.1 + 1) * m.2.2 * a.2, a.2 * (m.1 + 7200000))) (0, 1)

/-- Whether an automatic jar is due (R347, R357 to R359). -/
def State.jarIsDue (s : State) (h : Nat) : Bool :=
  let z := s.hob h
  let p := z.policy
  let tau := s.lifeS - p.lastAt
  let ceil := decide (p.ceil.toNat * 60 ≤ tau)
  let own := s.estimate
  let all := (own.1, own.2, s.hazard) :: p.members.map fun m => m.2
  let known := z.rcp.peers.all fun q => p.members.any fun m => m.1 == q
  let rule :=
    if p.kind = 1 then
      let r := rateSum all
      p.costMs != 0 && decide (p.theta.toNat * 2 * p.costMs * r.2 ≤ 16000 * r.1 * tau ^ 2)
    else
      let r := rateSum (all.map fun m => (m.1, m.2.1, 1))
      known && p.costMs != 0 && all.all (fun m => decide (2592000 ≤ m.1)) && decide (2 * p.costMs * r.2 ≤ 1000 * r.1 * tau ^ 2)
  decide (300 ≤ tau) && (s.pantry.level.toNat < 2 || decide (14400 ≤ tau)) && (ceil || rule)

/-- An automatic jar starts at the next jar point of a hob that runs; one short of quota is skipped with a hob event (R356, R357). -/
def State.startAuto (s : State) (h : Nat) : State :=
  let z := s.hob h
  if !z.policy.due || z.jarRun.isSome || z.st != .running then s
  else match z.nextJarPoint (if z.clk.live then z.clk.fence else z.fenceLast + 1) with
    | none => s
    | some f =>
      let s1 := s.modHob h fun y => { y with policy := { y.policy with due := false } }
      if !z.jarFits z.newSlot (s.newJar h f 0 0).bytes then s1.hobEvent h stQuota 0 0 else s1.startSet h (z.setFence f) none

/-- JAR_DUE (R347, R356, R357): a recipe with no jar point gets one hob event and no automatic jars. -/
def execJarDue (hob : HobId) (s : State) : Res :=
  let h := hob.val
  let z := s.hob h
  if s.resets.hearthDown || !s.inService || z.policy.mode ≠ 0 || z.recipe.isNone || !s.leads h || s.pantry.level = 3 then done s
  else if !(z.rcp.fences.any fun e => e.jarPoint) then
    done (if z.policy.noPointTold then s
      else (s.modHob h fun y => { y with policy := { y.policy with noPointTold := true } }).hobEvent h stState 0 0)
  else if !s.jarIsDue h then done s
  else done ((s.modHob h fun y => { y with policy := { y.policy with due := true } }).startAuto h)

/-- JAR_MTBI_GATHER (R358, R359): a member's service seconds, interruptions and hazard factor reach the leader. -/
def execJarMtbiGather (hob : HobId) (member : BitVec 13) (service count factor : Nat) (s : State) : Res :=
  let h := hob.val
  let z := s.hob h
  let m := member.toNat
  if s.resets.hearthDown || !s.leads h || !z.rcp.peers.contains m then done s
  else done (s.modHob h fun y => { y with policy := { y.policy with
    members := (y.policy.members.filter fun e => e.1 != m) ++ [(m, service, count, factor)] } })

/-! ### Draining and sealing (R350, R353 to R355) -/

/-- PAGE_DRAIN_DONE (R211, R212): the original page is in the jar and marked drained; its shadow blocks are folded back. A page that a
waiting write needs is drained first, and a controller in reset drains nothing, nor one without 16 places in its device pool (R197). The
rim refuses and reports a page with no memory behind it (R189). The command names errors that have struck the page;
the drain's reads meet them (R202). A jar carries the poison bits of its lines (R268). -/
def execPageDrainDone (hob : HobId) (drained : Drained) (s : State) : Res :=
  let h := hob.val
  let page := drained.page
  let z := s.hob h
  let base := (page / 2 ^ 21) * 2 ^ 37 + (page % 2 ^ 21) * 65536
  if !devAddrOk base then done (if z.jarRun.isSome then s.refuseAddr base else s)
  else match z.jarRun, s.pageRel h page with
  | some j, some a =>
    let first := match z.cow.next.find? fun p => !z.cow.drained.contains p && (s.pageRel h p).isSome with
      | some p => p != page
      | none => false
    if !z.cow.draining || z.cow.drained.contains page || (s.stack (page / 2 ^ 21)).resetting || first || !s.deviceRoom (page / 2 ^ 21) 16 then done s
    else
      let s := (List.range 1024).foldl (fun (s : State) i => (s.readLine (base + 64 * i)).2)
        ((drained.badLines.foldl (fun (s : State) b => s.strike (base + 64 * (b.1 % 1024)) b.2) s).touchStack (page / 2 ^ 21))
      let own := fun d => (s.lines.get {} (d / 64)).key == z.key
      let data := (s.mem.filter fun c => decide (base ≤ c.1 ∧ c.1 < base + 65536) && own c.1).map fun c => (a + (c.1 - base), c.2)
      let poison := (s.lines.filter fun l => decide (base / 64 ≤ l.1 ∧ l.1 < base / 64 + 1024) && l.2.poison).map fun l =>
        a / 64 + (l.1 - base / 64)
      let lines := (s.lines.filter fun l => decide (base / 64 ≤ l.1 ∧ l.1 < base / 64 + 1024) && l.2.key == z.key).map fun l =>
        a / 64 + (l.1 - base / 64)
      let j1 := { j with jar := { j.jar with
        data := data.foldl (fun t c => Tab.put 0 t c.1 c.2) j.jar.data, poison := j.jar.poison ++ poison, lines := j.jar.lines ++ lines } }
      done ((s.setHob h { z with jarRun := some j1, cow := { z.cow with drained := mark z.cow.drained page true, drained6 := mark z.cow.drained page true, next := z.cow.next.filter fun p => p != page } }).fold page |>.settleWaits h |>.jarWrite h j.slot 65536 z.cow.drained.isEmpty)
  | _, _ => done s

/-- A set is complete when every member has reported. -/
def Hob.setDone (z : Hob) (j : Jar) : Bool := j.sealed && z.rcp.peers.all j.reported.contains

/-- JAR_SEAL (R353, R354): every page is drained and read back; the header makes the jar valid. -/
def execJarSeal (hob : HobId) (s : State) : Res :=
  let h := hob.val
  let z := s.hob h
  match z.jarRun with
  | none => done s
  | some r =>
    let pages := 4096 * (z.ext.filter fun e => e.2.valid).length
    if !s.pantry.up || !r.planned || !z.cow.draining || z.fenceLast < r.fence || z.cow.drained.length ≠ pages then done s
    else
      let cost := s.lifeMs - r.startedAt
      let j1 := { r.jar with poison := r.jar.poison.dedup, sealed := true, costMs := max r.jar.costMs cost }
      let j2 := { j1 with bytes := j1.layout.2 }
      let j3 := { j2 with complete := s.leads h && z.setDone j2 }
      let s1 := s.setHob h { z with
        jars := z.jars.put {} r.slot j3, jarRun := none
        cow := { z.cow with armed := false, draining := false, folding := false, drained := [], drained6 := [] }
        policy := { z.policy with costMs := if j3.complete then j3.costMs else z.policy.costMs, lastAt := r.startedAt / 1000 } }
      let s2 := s1.jarWrite h r.slot (j3.bytes - 65536 * pages) (pages == 0)
      let s3 := if s.leads h then s2 else s2.tellPeer h j3.lead 5 "jar sealed" [j3.seq, cost]
      let s4 := match r.ref with
        | some c => s3.complete c 7 stOk 0 r.slot j3.seq
        | none => s3
      done ((s4.recheckOver h).startAuto h)

/-- JAR_SEAL_REPORT (R355, R358): a member has sealed, at a cost; the leader records a complete set and its largest cost. -/
def execJarSealReport (hob : HobId) (r : SealReport) (s : State) : Res :=
  let h := hob.val
  let z := s.hob h
  let add := fun (j : Jar) =>
    let k := { j with reported := mark j.reported r.member.toNat true, costMs := max j.costMs r.costMs }
    { k with complete := k.complete || z.setDone k }
  if !s.leads h || !z.rcp.peers.contains r.member.toNat then done s
  else match z.jarRun with
    | some run => done (s.setHob h { z with jarRun := some { run with jar := add run.jar } })
    | none =>
      let newest := if (z.jars.get {} 0).seq < (z.jars.get {} 1).seq then 1 else 0
      let j := add (z.jars.get {} newest)
      if (z.jars.get {} newest).sealed then
        done (s.setHob h { z with
          jars := z.jars.upd {} newest add, policy := { z.policy with costMs := if j.complete then j.costMs else z.policy.costMs } })
      else done s

/-! ### Restoring (R360, R361) -/

/-- The port that a packet to a device leaves by, if it is UP. -/
def State.routeUp (s : State) (dev : Nat) : Option Nat :=
  match s.hearth.routes.get none dev with
  | some p => if (s.lnp p.toNat).up then some p.toNat else none
  | none => none

/-- The detail of the first check of R360 that a jar fails; 0 where it passes. -/
def Hob.jarFault (z : Hob) (j : Jar) (seq : Nat) : Nat :=
  if !j.sealed then 0x40
  else if seq ≠ 0 && j.seq ≠ seq then 0x41
  else if j.cred ≠ z.cred then 0x42
  else if j.digest ≠ z.rcp.digest then 0x43
  else if j.shapeW ≠ z.rect.w || j.shapeH ≠ z.rect.h then 0x44
  else if stackNums.any fun k => decide (z.extCount k < (j.ext.get 0 k).toNat) then 0x45
  else 0

/-- JAR_RESTORE (R232, R262, R360): `peerJar` is what the peer's JAR_READ service returned, none where it refused or was out of
reach. -/
def execJarRestore (ref : CmdRef) (hob : HobId) (slot : Fin 2) (dev : BitVec 16) (seq : Nat) (peerJar : Option Jar) (s : State) : Res :=
  let h := hob.val
  let args := fun e => leAt e 8 1 == slot.val && leAt e 0xA 2 == dev.toNat && leAt e 0x10 8 == seq
  done (s.command ref h 8 0xFFFF args fun s =>
    let z := s.hob h
    let peer := bits 12 0 dev.toNat
    let route := s.routeUp peer
    if !(z.st = .stopped || z.st = .held) || z.recipe.isNone || z.restore.isSome || z.jarRun.isSome then s.complete ref 8 stState 0 0 0
    else if dev ≠ 0 && !bit 15 dev.toNat then s.complete ref 8 stRejected 0 0 0
    else
      let jar := if dev = 0 then some (z.jars.get {} slot.val) else if route.isSome then peerJar else none
      match jar with
      | none => s.complete ref 8 stRejected 0x46 0 0
      | some j =>
        let d := z.jarFault j seq
        if d ≠ 0 then s.complete ref 8 stRejected d 0 0
        else
          let s1 := s.leaveIdle.modHob h fun y => { y with restore := some { slot := slot.val, dev := peer, remote := dev != 0, ref := ref, jar := j } }
          match route with
          | some p => s1.askJar h p
          | none => s1)

/-- One line of a jar written into the hob's memory under its own key (R361). -/
def State.restoreLine (s : State) (h : Nat) (j : Jar) (line : Nat) : State :=
  let z := s.hob h
  match z.devAddr (64 * line) with
  | some d => s.putLine z.key d ((List.range 64).map fun i => Tab.get 0 j.data (64 * line + i)) (j.poison.contains line)
  | none => s

/-- The data pages of a jar in order of stack, then hob extent, then offset: a page's first line (R350). -/
def Jar.pageLines (j : Jar) : List Nat :=
  stackNums.flatMap fun k => (List.range (4096 * (j.ext.get 0 k).toNat)).map fun i => (k * 2 ^ 37 + 65536 * i) / 64

/-- Pages of a jar written: their lines are zeroed, then those that the jar holds are stored. -/
def State.restorePages (s : State) (h : Nat) (j : Jar) (pages : List Nat) : State :=
  let s1 := s.each pages fun s l => match (s.hob h).devAddr (64 * l) with
    | some d => s.zeroRange d 65536
    | none => s
  let mine := (j.lines ++ j.poison).dedup.filter fun l => pages.contains (l / 1024 * 1024)
  s1.each mine fun s l => s.restoreLine h j l

/-- JAR_RESTORE_DONE (R333, R360, R361): the hob is STOPPED at the jar's fence. A page that fails its tag leaves its extents partly
overwritten, by a free number of pages, until a restore succeeds. It waits for a stack in reset, and wakes the stacks it writes (R200,
R217); a peer's jar has been read whole first (R261). -/
def execJarRestoreDone (hob : HobId) (tagsOk : Bool) (s : State) : Res :=
  let h := hob.val
  let z := s.hob h
  match z.restore with
  | none => done s
  | some r =>
    let j := r.jar
    let pages := j.pageLines
    let mine := fun (t : Txn) => t.pool == Pool.lanper && t.kind == TxnKind.copy h
    let used := stackNums.filter fun k => z.ext.any fun e => e.2.valid && e.1 / 352 == k
    if (r.remote && tagsOk && (decide (r.asked < r.blocks) || s.txns.any mine)) || used.any (fun k => (s.stack k).resetting) then done s
    else
    let s0 := { s with txns := s.txns.filter fun t => !mine t }.each used State.touchStack
    if !tagsOk then
      let (n, s1) := s0.draw
      let s2 := s1.restorePages h j (pages.take (n % (pages.length + 1)))
      let s3 := s2.modHob h fun y => { y with restore := none, torn := true }
      done ((if z.st = .held then s3.stopHob h stOk 0 0 0 else s3).complete r.ref 8 stRejected 0x47 0 0)
    else
      let s1 := s0.restorePages h j pages
      let extra := z.ext.filter fun e => e.2.valid && decide ((j.ext.get 0 (e.1 / 352)).toNat ≤ e.1 % 352)
      let s2 := s1.each extra fun s e => s.zeroRange ((e.1 / 352) * 2 ^ 37 + e.2.dev.toNat * 2 ^ 28) (2 ^ 28)
      let s3 := s2.modHob h fun y => { y.discard with
        restore := none, torn := false, gens := j.gens, fenceLast := j.fence, cleanFence := y.cleanFence.capAt j.fence, nextStep := j.next, staged := [] }
      let s4 := s3.each (s3.nums h) fun s n =>
        (s.modCell (s.posOf h n) fun c => [0, 1, 2, 3].foldl (fun (c : Cell) i =>
          c.modSlot i fun x => let g := j.gens.get 0 (4 * n + i); { x with sr := g, srFence := g, srLater := [] }) c).fillResident h n
      done ((if z.st = .held then s4.stopHob h stOk 0 0 0 else s4).complete r.ref 8 stOk 0 j.fence 0)

end Sys2Proof.Machine
end

