-- ==== Sys2Proof/Machine/Hearth.lean ====
section
/-! DEFINITION. The hearth's own actions: deep idle, the log, ownership, grants, credentials, limits, maintenance windows,
availability years, licences and maker actions: DEEP_IDLE_ENTRY to TRUST_LIST_CHANGE (R9, R10, R194, R237, R239, R309, R352, R366,
R367, R369, R371 to R376, R381, R382, R389, R390, R393). -/

namespace Sys2Proof.Machine

open Sys2Proof

/-! ### Deep idle (R259, R315, R367) -/

/-- DEEP_IDLE_ENTRY: ports that may park are parked, stacks go to self-refresh, the taster pauses. -/
def execDeepIdleEntry (s : State) : Res :=
  let c := s.cfgs
  if !c.idlEn || c.idlIn || !s.inService || s.resets.hearthDown || s.busy || s.now < c.idleSince + c.idlDwell.toNat * secNs then done s
  else
    let s1 := { s with cfgs := { c with idlIn := true, tstPaused := true, idlEntries := satInc c.idlEntries } }
    let s2 := s1.each (List.range 16) fun s p => if (s.lnp p).up then s.tryPark p else s
    done (s2.each stackNums fun s k =>
      if (s.stack k).pwr = .on || (s.stack k).pwr = .powerDown then s.modStack k fun x => { x with pwr := .selfRefresh } else s)

/-- HRT_IDL_EN: clearing it ends deep idle. -/
def execHrtIdlEn (who : Who) (on : Bool) (s : State) : Res :=
  done (s.priv who [.installer] 0x0108 0xFF [1, flag on] 0 fun s =>
    let s1 := { s with cfgs := { s.cfgs with idlEn := on } }
    if on then s1 else s1.leaveIdle)

/-! ### The log (R369, R371, R372) -/

/-- LOG_SEAL: the seal before a readout; that of every 64 records is written with the record before it. -/
def execLogSeal (s : State) : Res :=
  if s.st = .off || s.resets.hearthDown || s.logFail then done s else done s.sealLog

/-- LOG_READOUT: the whole log, oldest record first, behind a fresh seal. -/
def execLogReadout (who : Who) (s : State) : Res :=
  if s.st = .off || s.resets.hearthDown || !s.authorised who [.installer, .maker] then done s
  else
    let s1 := if s.logFail then s else s.sealLog
    done (s1.emit (.mctp "log" ((logBytes s1.log).reverse.flatMap fun x => x.2)))

/-! ### Maker tokens (R375) -/

/-- A token that has been accepted, not used, and has not run out. -/
def State.tokenLive (s : State) (nonce : Nat) : Bool := s.hearth.tokens.any fun t => t.1 == nonce && decide (s.lifeMs < t.2.1)

/-- Whether it permits a maker action. -/
def State.tokenOk (s : State) (nonce code : Nat) : Bool :=
  s.hearth.tokens.any fun t => t.1 == nonce && decide (s.lifeMs < t.2.1) && t.2.2.getLsbD (code % 16)

/-- Each token is used once. -/
def State.spendToken (s : State) (nonce : Nat) : State :=
  { s with hearth := { s.hearth with tokens := s.hearth.tokens.erase nonce, tokensUsed := mark s.hearth.tokensUsed nonce true } }

/-- A maker action: a maker session and an accepted token, which it spends. -/
def State.makerAct (s : State) (who : Who) (code nonce : Nat) (args : List Nat) (refuse : Nat) (act : State → State) : State :=
  s.priv who [.maker] code 0xFF (nonce :: args) (if s.tokenOk nonce code then refuse else 1) fun s => act (s.spendToken nonce)

/-- MAKER_TOKEN_USE: the token names the module's serial number, carries a good signature, a nonce that was not used before and a
lifetime of at most 24 hours. -/
def execMakerTokenUse (who : Who) (token : MakerToken) (sigOk serialOk : Bool) (s : State) : Res :=
  let bad := !sigOk || !serialOk || 86400000 < token.lifeMs || s.hearth.tokensUsed.contains token.nonce || s.hearth.tokens.any fun t => t.1 == token.nonce
  done (s.priv who [.maker] 0x0200 0xFF [token.nonce, token.permits.toNat, token.lifeMs] (if bad then 1 else 0) fun s =>
    { s with hearth := { s.hearth with tokens := Tab.ins s.hearth.tokens token.nonce (s.lifeMs + token.lifeMs, token.permits) } })

/-- Every hob is FREE. -/
def State.allFree (s : State) : Bool := hobNums.all fun h => (s.hob h).st == .free

/-- JTAG_UNLOCK (R375): a challenge and response over a token; the device is DEGRADED until the next cold reset. -/
def execJtagUnlock (nonce : Nat) (ok : Bool) (s : State) : Res :=
  if s.st = .off || s.resets.hearthDown then done s
  else
    let result := if !ok || !s.tokenOk nonce 0x0201 then 1 else if s.logFail || !s.allFree then 4 else 0
    let s1 := s.logAdd { role := roleNum .maker, path := 4, code := 0x0201, result := result, args := [nonce] }
    let s2 := if result = 0 then
        let t := s1.spendToken nonce
        ({ t with hearth := { t.hearth with jtag := true } }).settleService
      else s1
    done (s2.emit (.mctpVals "result" [0x0201, result]))

/-- FUSE_MAP_WRITE (R393): a signed fuse-map record goes into the shadow, for the next cold bring-up. -/
def execFuseMapWrite (who : Who) (nonce : Nat) (bad : List Pos) (sigOk : Bool) (s : State) : Res :=
  done (s.makerAct who 0x0202 nonce (bad.map Pos.idx) (if sigOk then 0 else 2) fun s =>
    { s with hearth := { s.hearth with fuseShadow := some (bad.map Pos.idx) } })

/-- TEST_CONTENT_INSTALL (R309). -/
def execTestContentInstall (who : Who) (nonce : Nat) (version : Nat) (sigOk : Bool) (s : State) : Res :=
  done (s.makerAct who 0x0203 nonce [version] (if sigOk then 0 else 2) fun s =>
    ({ s with hearth := { s.hearth with testContent := version }, boot := { s.boot with reduced := false } }).settleService)

/-- CELL_OVERRIDE (R286, R375): it takes effect at the next cold reset. -/
def execCellOverride (who : Who) (nonce : Nat) (cell : Pos) (s : State) : Res :=
  done (s.makerAct who 0x0204 nonce [cell.idx] 0 fun s =>
    ({ s with hearth := { s.hearth with overrides := mark s.hearth.overrides cell.idx true } }).modPos cell.idx fun x => { x with override := true })

/-- TRUST_LIST_CHANGE (R370, R383). -/
def execTrustListChange (who : Who) (nonce : Nat) (keys : List Nat) (s : State) : Res :=
  done (s.makerAct who 0x0205 nonce keys 0 fun s => { s with hearth := { s.hearth with trust := keys } })

/-! ### Ownership, grants and credentials (R237, R239, R241, R352, R373, R376) -/

/-- Both jar slots of a hob are erased; a jar under way is invalid. -/
def State.eraseJars (s : State) (h : Nat) : State :=
  let z := s.hob h
  let s1 := match z.jarRun with
    | some j => match j.ref with
      | some r => s.complete r 7 stAborted 0 0 0
      | none => s
    | none => s
  let live := z.jarRun.isSome
  let s2 := if live then s1.each (s1.rdrs.filter fun e => e.2.hob == h) fun s e => s.fold e.1 else s1
  (s2.modHob h fun y => { y with
    jars := [], jarRun := none
    cow := if live then { y.cow with armed := false, draining := false, folding := false, drained := [], drained6 := [] } else y.cow }).recheckOver h

/-- TAKE_OWNERSHIP (R376, R389): the first owner needs no credential, for the record that would hold it does not exist; a transfer
needs a maker token and every hob FREE, and destroys credentials, grants and jars. -/
def execTakeOwnership (who : Who) (key : Nat) (sysTag : BitVec 48) (devId : BitVec 13) (token : Option Nat) (s : State) : Res :=
  if s.st = .off || s.resets.hearthDown then done s
  else
    let tok := match token with
      | some n => s.tokenLive n
      | none => false
    let result := if s.hearth.owned && !tok then 1 else if s.logFail || (s.hearth.owned && !s.allFree) then 4 else 0
    let s1 := s.logAdd { role := 2, path := who.path, code := 0x0100, result := result, keyid := who.session, args := [key, sysTag.toNat, devId.toNat] }
    let s2 := if result ≠ 0 then s1
      else
        let t := if !s.hearth.owned then { s1 with avl := { s1.avl with started := true, poweredNs := 0 } }
          else ((s1.spendToken (token.getD 0)).each hobNums fun s h => (s.eraseJars h).modHob h fun y => { y with grant := {}, cred := 0 })
        { t with hearth := { t.hearth with owned := true, ownerKey := key, sysTag := sysTag, devId := devId } }
    done (s2.emit (.mctpVals "result" [0x0100, result]))

/-- Hobs other than one with a valid grant. -/
def State.otherGrants (s : State) (h : Nat) : List Grant := (hobNums.filter fun g => g != h && (s.hob g).grant.valid).map fun g => (s.hob g).grant

/-- Number of Lanper ports in a grant. -/
def Grant.ports (g : Grant) : Nat := (List.range 16).foldl (fun n p => n + flag (g.lnp.getLsbD p)) 0

/-- Why a grant is refused (R2, R3, R237, R239, R241, R342, R394): 0 it is not, 2 value, 3 licence or grant, 4 state. -/
def State.grantRefused (s : State) (h : Nat) (g : Grant) : Nat :=
  let z := s.hob h
  let all := (if g.valid then [g] else []) ++ s.otherGrants h
  let sum := fun (f : Grant → Nat) => all.foldl (fun n x => n + f x) 0
  let moved := { z with grant := g }
  if 6144 < g.cells.toNat || 100 < g.power.toNat || g.ext.any (fun e => 12 ≤ e.1 || 352 < e.2.toNat) || 14901 < sum (fun x => x.pantry.toNat) then 2
  else if 100 < sum (fun x => x.power.toNat) || (s.otherGrants h).any (fun x => g.valid && x.lnp &&& g.lnp != 0) ||
      s.hearth.cellLimit < sum (fun x => x.cells.toNat) || s.hearth.hobLimit < all.length || s.hearth.portLimit < sum Grant.ports ||
      g.ext.any (fun e => (s.stack e.1).unusable && (s.stack e.1).pwr == .off) then 3
  else if z.st ≠ .free && (!g.valid || g.cells.toNat < z.rect.cells) then 4
  else if (List.range 16).any fun j => z.rcp.portcls.getD j 0 != 0 && moved.lnpOf j != z.lnpOf j then 4
  else if g.hport ≠ z.grant.hport && !(z.st = .free || z.st = .stopped || z.st = .held) then 4
  else 0

/-- GRANT_SET: a hob that moves to another port loses its old host; a released grant erases the jars, a cleared TEST flag ends
PERTURB settings (R325). -/
def execGrantSet (who : Who) (hob : HobId) (grant : Grant) (s : State) : Res :=
  let h := hob.val
  let old := (s.hob h).grant
  done (s.priv who [.installer] 0x0102 h [grant.word, grant.extWord] (s.grantRefused h grant) fun s =>
    let moves := old.valid && (!grant.valid || old.hport != grant.hport)
    let s1 := if moves then ((s.loseHost h).endAuth h).resetFn old.hport.toNat (h + 1) else s
    let s2 := s1.modHob h fun y =>
      let z := { y with grant := grant }
      { z with simmer := { z.simmer with share := BitVec.ofNat 8 z.share } }
    let s3 := if old.valid && !grant.valid then s2.eraseJars h else s2
    let s4 := if grant.test then s3 else s3.endPerturbs fun x => x.hob.toNat == h
    s4.recheckOver h)

/-- CREDENTIAL_SET (R352, R373): sealed into hearth flash; a change erases both jar slots. -/
def execCredentialSet (who : Who) (hob : HobId) (cred : Nat) (s : State) : Res :=
  let h := hob.val
  done (s.priv who [.installer] 0x0103 h [] 0 fun s =>
    (if cred = (s.hob h).cred then s else s.eraseJars h).modHob h fun y => { y with cred := cred })

/-- RSV_WINDOW_SET (R194). -/
def execRsvWindowSet (who : Who) (hob : HobId) (stack : StackId) (on : Bool) (bw : BitVec 5) (s : State) : Res :=
  let h := hob.val
  let k := stack.val
  let rest := (hobNums.filter fun g => g != h).foldl (fun n g => n + ((s.hob g).rsv.get {} k).bw.toNat) 0
  done (s.priv who [.installer] 0x0104 h [k, flag on, bw.toNat] (if 28 < rest + bw.toNat then 2 else 0) fun s =>
    s.modHob h fun y => { y with rsv := y.rsv.upd {} k fun x => { x with on := on, bw := bw } })

/-- POWER_LIMIT_SET (R366): `HRT_DMP_PLIM` 1,000 to 3,800 W and `HRT_DMP_FMAX` 800 to 1,600 MHz. -/
def execPowerLimitSet (who : Who) (v : W32) (s : State) : Res :=
  let p := bits 31 20 v.toNat
  let f := bits 19 9 v.toNat
  let ok := decide (1000 ≤ p ∧ p ≤ 3800 ∧ 800 ≤ f ∧ f ≤ 1600)
  done (s.priv who [.installer] 0x0101 0xFF [v.toNat] (if ok then 0 else 2) fun s =>
    { s with damper := { s.damper with plim := BitVec.ofNat 12 p, fmax := BitVec.ofNat 11 f } })

/-! ### Maintenance windows and years (R389, R390) -/

/-- MAINT_WINDOW_DECLARE: `start` in s of lifetime, 0 for now; `len` in s; or the end of the open window. -/
def execMaintWindowDeclare (who : Who) (start len : Nat) (endNow : Bool) (s : State) : Res :=
  let a := s.avl
  let now := start = 0 || start = s.lifeS
  let refuse := if endNow then (if a.windowUntil.isSome then 0 else 4)
    else if len < 60 || 86400 < len || (!now && start < s.lifeS) then 2
    else if (if now then a.windowUntil.isSome else a.pending.isSome) then 4
    else 0
  done (s.priv who [.installer] 0x010A 0xFF [start, len, flag endNow] refuse fun s =>
    { s with avl := if endNow then { s.avl with windowUntil := none }
      else if now then { s.avl with windowUntil := some (s.life + len * secNs) }
      else { s.avl with pending := some (start, len) } })

/-- MAINT_WINDOW_START: the pending window opens once no other is open. -/
def execMaintWindowStart (s : State) : Res :=
  match s.avl.pending with
  | some (start, len) =>
    if s.lifeS < start || s.avl.windowUntil.isSome || s.resets.hearthDown then done s
    else done { s with avl := { s.avl with pending := none, windowUntil := some (s.life + len * secNs) } }
  | none => done s

/-- MAINT_WINDOW_END. -/
def execMaintWindowEnd (s : State) : Res :=
  match s.avl.windowUntil with
  | some t => if t ≤ s.life && !s.resets.hearthDown then done { s with avl := { s.avl with windowUntil := none } } else done s
  | none => done s

/-- An accounting year: 31,536,000 s of powered time, in ns. -/
def yearNs : Nat := 31536000 * secNs

/-- AVL_YEAR_ROLLOVER: the counters become the previous year's. -/
def execAvlYearRollover (s : State) : Res :=
  let a := s.avl
  if !a.started || a.poweredNs < yearNs || s.resets.hearthDown then done s
  else done { s with avl := { a with prev := a.cur, cur := { year := a.cur.year + 1 }, poweredNs := a.poweredNs - yearNs } }

/-! ### Licences (R381, R382) -/

/-- Fields of a licence have values of R381. -/
def Licence.fieldsOk (l : Licence) : Bool :=
  decide (l.tier ≤ 2) && (l.hobs == 0 || decide (3 ≤ l.hobs ∧ l.hobs ≤ 8)) && (l.ports == 0 || decide (5 ≤ l.ports ∧ l.ports ≤ 16))

/-- LICENCE_INSTALL: it takes effect at once. -/
def execLicenceInstall (who : Who) (lic : Licence) (sigOk serialOk : Bool) (s : State) : Res :=
  let x := s.hearth
  let refuse := if !sigOk || !serialOk || !lic.fieldsOk || (x.licences.any fun l => l.id == lic.id) then 2
    else if 32 ≤ x.licences.length then 4
    else 0
  done (s.priv who [.installer] 0x010C 0xFF [0, lic.id] refuse fun s => { s with hearth := { s.hearth with licences := s.hearth.licences ++ [lic] } })

/-- Whether a set of licences covers current use (R382). -/
def State.covered (s : State) (l : List Licence) : Bool :=
  let x := { s.hearth with licences := l }
  let grants := (hobNums.filter fun h => (s.hob h).grant.valid).map fun h => (s.hob h).grant
  decide (s.cellsHeld 8 ≤ x.cellLimit) && decide (grants.length ≤ x.hobLimit) && decide ((grants.foldl (fun n g => n + g.ports) 0) ≤ x.portLimit) &&
  (x.narrow || hobNums.all fun h => !bit 1 (s.hob h).rcp.flags) &&
  (x.peerJars || hobNums.all fun h => (List.range 4).all fun n => !bit (16 * n + 15) (s.hob h).jarAcl.toNat)

/-- LICENCE_REMOVE. -/
def execLicenceRemove (who : Who) (id : Nat) (s : State) : Res :=
  let rest := s.hearth.licences.filter fun l => l.id != id
  let refuse := if rest.length = s.hearth.licences.length then 2 else if s.covered rest then 0 else 3
  done (s.priv who [.installer] 0x010C 0xFF [1, id] refuse fun s => { s with hearth := { s.hearth with licences := rest } })

end Sys2Proof.Machine
end

