-- ==== Sys2Proof/Machine/Firmware.lean ====
section
/-! DEFINITION. Firmware slots and updates: FW_CONFIRM to CANCEL_UPDATE and APPLY_COMPLETE (R383 to R386), and what passing time
does. -/

namespace Sys2Proof.Machine

open Sys2Proof

/-! ### Slots (R383, R386) -/

/-- State of the active slot, and of the other one. -/
def Fw.activeState (x : Fw) : BitVec 2 := if x.active then x.stateB else x.stateA
def Fw.setActive (x : Fw) (v : BitVec 2) : Fw := if x.active then { x with stateB := v } else { x with stateA := v }
def Fw.setOther (x : Fw) (v : BitVec 2) : Fw := if x.active then { x with stateA := v } else { x with stateB := v }
def Fw.activeSvns (x : Fw) : List (BitVec 8) := if x.active then x.svnB else x.svnA
def Fw.otherSvns (x : Fw) : List (BitVec 8) := if x.active then x.svnA else x.svnB
def Fw.setOtherSvns (x : Fw) (l : List (BitVec 8)) : Fw := if x.active then { x with svnA := l } else { x with svnB := l }

/-- The SVN of a slot: the least of its images. -/
def Fw.slotSvn (x : Fw) : BitVec 8 := BitVec.ofNat 8 (x.activeSvns.foldl (fun m v => min m v.toNat) 255)

/-- Who answers PLDM: the hearth in service, or the recovery loader. -/
def State.pldmUp (s : State) : Bool := s.st != .off && (s.fw.recovery || !s.resets.hearthDown)

/-- An update command in an installer session; the recovery loader has no sessions and takes it as it comes (R384, R386). -/
def State.fwAct (s : State) (who : Who) (args : List Nat) (refuse : Nat) (act : State → State) : State :=
  if s.fw.recovery then
    let result := if s.logFail then 4 else refuse
    let s1 := s.logAdd { role := 2, path := who.path, code := 0x010D, result := result, args := args }
    (if result = 0 then act s1 else s1).emit (.mctpVals "result" [0x010D, result])
  else s.priv who [.installer] 0x010D 0xFF args refuse act

def State.modFw (s : State) (f : Fw → Fw) : State := { s with fw := f s.fw }

/-- FW_CONFIRM (R386): the running slot is good and the fused minimum SVN is its SVN; it can rise 64 times. -/
def execFwConfirm (who : Who) (s : State) : Res :=
  let x := s.fw
  let rises := decide (x.minsvn < x.slotSvn)
  let refuse := if x.activeState ≠ 1 && x.activeState ≠ 2 || (rises && 64 ≤ x.fuseRaises) then 4 else 0
  done (s.fwAct who [0] refuse fun s => s.modFw fun x =>
    let y := { (x.setActive 2) with tries := 0 }
    if rises then { y with minsvn := x.slotSvn, fuseRaises := x.fuseRaises + 1 } else y)

/-- FW_REVERT (R386): while the slot is pending. -/
def execFwRevert (who : Who) (s : State) : Res :=
  done (s.fwAct who [1] (if s.fw.activeState = 1 then 0 else 4) fun s =>
    (s.modFw fun x => { x with active := !x.active, tries := 0 }).hearthReset 0)

/-- FW_GOOD_TIMER (R386): 10 minutes in hearth service. -/
def execFwGoodTimer (s : State) : Res :=
  if s.fw.activeState ≠ 1 || s.fw.recovery || s.resets.hearthDown || s.st = .off || s.life < s.fw.pendingSince + 600 * secNs then done s
  else done (s.modFw fun x => { (x.setActive 2) with tries := 0 })

/-! ### Queries without a credential (R374, R384) -/

/-- QUERY_DEVICE_IDENTIFIERS. -/
def execQueryDeviceIdentifiers (s : State) : Res :=
  if s.pldmUp then done (s.emit (.mctp "QueryDeviceIdentifiers" (Config.replyBytes "QueryDeviceIdentifiers" 0))) else done s

/-- GET_FIRMWARE_PARAMETERS: the components 0x0001 to 0x0003 with their active and pending SVNs. -/
def execGetFirmwareParameters (s : State) : Res :=
  if s.pldmUp then
    let x := s.fw
    done (s.emit (.mctpVals "GetFirmwareParameters" ([1, x.svnH.toNat, 2, x.svnR.toNat, 3, x.svnC.toNat] ++ x.otherSvns.map BitVec.toNat ++
      [x.stateA.toNat, x.stateB.toNat, flag x.active])))
  else done s

/-- GET_STATUS: the stage and, after a failure, its reason. -/
def execGetStatus (s : State) : Res :=
  if s.pldmUp then done (s.emit (.mctpVals "GetStatus" [s.fw.stage.toNat, s.fw.reason])) else done s

/-! ### Transfers (R383, R384) -/

/-- ALREADY_IN_UPDATE_MODE. -/
def pldmBusy : Nat := 0x81

/-- REQUEST_UPDATE. -/
def execRequestUpdate (who : Who) (s : State) : Res :=
  if !s.pldmUp then done s
  else if s.fw.updating then done (s.emit (.mctpVals "RequestUpdate" [pldmBusy]))
  else done (s.fwAct who [2] 0 fun s => (s.modFw fun x =>
    { x with updating := true, comps := [], applied := [], comp := none, stage := 0, reason := 0 }).emit (.mctpVals "RequestUpdate" [0]))

/-- PASS_COMPONENT_TABLE: components are hearth firmware 1, rim bundle 2 and microcode 3. -/
def execPassComponentTable (who : Who) (comps : List Nat) (s : State) : Res :=
  let refuse := if !s.fw.updating || s.fw.stage ≠ 0 then 4 else if comps.all fun c => decide (1 ≤ c ∧ c ≤ 3) then 0 else 2
  if s.pldmUp then done (s.fwAct who (3 :: comps) refuse fun s => s.modFw fun x => { x with comps := comps }) else done s

/-- Bytes that the FC6 asks for next: 64 B to 4,096 B. -/
def State.askData (s : State) : State :=
  let x := s.fw
  s.emit (.mctpVals "RequestFirmwareData" [x.comp.getD 0, x.received, max 64 (min 4096 (x.compSize - x.received))])

/-- UPDATE_COMPONENT: the inactive slot is written and is empty until the update is applied. -/
def execUpdateComponent (who : Who) (comp : Nat) (size : Nat) (svn : BitVec 8) (s : State) : Res :=
  let x := s.fw
  let refuse := if !x.updating || !(x.stage = 0 || x.stage = 4) then 4 else if x.comps.contains comp then 0 else 2
  if s.pldmUp then
    done (s.fwAct who [4, comp, size, svn.toNat] refuse fun s => (s.modFw fun x =>
      { (x.setOther 0) with stage := 1, comp := some comp, compSvn := svn, received := 0, compSize := size, reason := 0 }).askData)
  else done s

/-- FIRMWARE_DATA: a transfer of 64 B to 4,096 B, a step of the update that is logged like the others (R10, R384); with the last one the
transfer is complete. -/
def execFirmwareData (who : Who) (bytes : Nat) (s : State) : Res :=
  let x := s.fw
  let n := x.received + bytes
  let refuse := if x.stage ≠ 1 then 4 else if bytes < 64 || 4096 < bytes then 2 else 0
  if s.pldmUp then
    done (s.fwAct who [8, n] refuse fun s =>
      if x.compSize ≤ n then s.modFw fun y => { y with received := x.compSize, stage := 2 }
      else (s.modFw fun y => { y with received := n }).askData)
  else done s

/-- VERIFY_COMPLETE: it fails on a bad signature or an SVN below the fused minimum. -/
def execVerifyComplete (sigOk : Bool) (s : State) : Res :=
  let x := s.fw
  if !s.pldmUp || x.stage ≠ 2 then done s
  else
    let reason := if !sigOk then 1 else if x.compSvn < x.minsvn then 2 else 0
    let t := if reason = 0 then s.modFw fun y => { y with stage := 3 } else s.modFw fun y => { y with stage := 0, comp := none, reason := reason }
    done (t.emit (.mctpVals "VerifyComplete" [reason]))

/-- APPLY_COMPLETE. -/
def execApplyComplete (s : State) : Res :=
  let x := s.fw
  if !s.pldmUp || x.stage ≠ 3 then done s
  else done ((s.modFw fun y =>
    let c := y.comp.getD 0
    { (y.setOtherSvns (y.otherSvns.set (c - 1) y.compSvn)) with stage := 4, applied := mark y.applied c true, comp := none }).emit
      (.mctpVals "ApplyComplete" [0]))

/-! ### Activation (R385) -/

/-- What makes the hearth defer its own reset. -/
def State.defersReset (s : State) : Bool :=
  s.ashRun.isSome || (s.expel.any fun e => e.2.test) ||
  (s.boot.stage = 3 && !s.rdrs.isEmpty) ||
  hobNums.any fun h =>
    let z := s.hob h
    s.decanting h || z.replay.active ||
    (z.jarRun.isSome && z.cow.draining && z.cow.drained.length == 4096 * (z.ext.filter fun e => e.2.valid).length)

/-- The new hearth firmware starts: a hearth reset, or a restart of the loader. -/
def State.startFirmware (s : State) : State :=
  let s1 := s.modFw fun x => { x with stage := 0, activateAt := 0 }
  if !s.fw.recovery then s1.hearthReset 0
  else
    let start := ((s.resets.running.find? fun r => r.1 == 9).map fun r => r.2.2).getD s.now
    { s1 with
      fw := { s1.fw with recovery := false }
      perturbs := s1.perturbs.map fun (e : Nat × Perturb) => (e.1, { e.2 with ends := e.2.ends + (s.now - start) })
      resets := { s1.resets with running := s1.resets.running.map fun (r : Nat × Nat × Nat) => if r.1 = 9 then (9, r.2.1, s.now) else r } }

/-- ACTIVATE_FIRMWARE: components that the package omits come from the active slot; the new slot is active and PENDING. -/
def execActivateFirmware (who : Who) (s : State) : Res :=
  let refuse := if s.fw.updating && s.fw.stage = 4 then 0 else 4
  if !s.pldmUp then done s
  else done (s.fwAct who [5] refuse fun s =>
    let x := s.fw
    let svns := [1, 2, 3].map fun c => if x.applied.contains c then x.otherSvns.getD (c - 1) 0 else x.activeSvns.getD (c - 1) 0
    let y := (x.setOther 1).setOtherSvns svns
    let s1 := { s with fw := { y with active := !x.active, updating := false, tries := 0, comps := [] } }
    if s1.defersReset then s1.modFw fun y => { y with stage := 5, activateAt := s.life } else s1.startFirmware)

/-- ACTIVATE_TIMEOUT: after 10 minutes the old slot is active again, and GetStatus gives the reason. -/
def execActivateTimeout (s : State) : Res :=
  let x := s.fw
  if x.stage ≠ 5 || s.resets.hearthDown || s.life < x.activateAt + 600 * secNs then done s
  else done (s.modFw fun x => { x with active := !x.active, updating := true, stage := 4, reason := 3, activateAt := 0 })

/-- CANCEL_UPDATE_COMPONENT. -/
def execCancelUpdateComponent (who : Who) (s : State) : Res :=
  let refuse := if s.fw.stage = 1 || s.fw.stage = 2 || s.fw.stage = 3 then 0 else 4
  if s.pldmUp then done (s.fwAct who [6] refuse fun s => s.modFw fun x => { x with stage := 0, comp := none, received := 0 }) else done s

/-- CANCEL_UPDATE: a slot written in part is empty. -/
def execCancelUpdate (who : Who) (s : State) : Res :=
  if s.pldmUp then
    done (s.fwAct who [7] (if s.fw.updating then 0 else 4) fun s => s.modFw fun x =>
      let y := if x.comp.isSome || !x.applied.isEmpty then x.setOther 0 else x
      { y with updating := false, stage := 0, comps := [], applied := [], comp := none, received := 0 })
  else done s

/-- What passing time does when nothing is commanded: one ns, and a hearth reset that was deferred comes as soon as it may
(notes/assumptions/3.md). -/
def State.elapse (s : State) : State :=
  let s1 := s.tick
  if s1.fw.stage = 5 && !s1.resets.hearthDown && !s1.defersReset then s1.startFirmware else s1

end Sys2Proof.Machine
end

