-- ==== Sys2Proof/Machine/Session.lean ====
section
/-! DEFINITION. MCTP, SPDM and IDE_KM: GET_VERSION to MCTP_CONTROL (R373, R374, R377 to R380, R387). -/

namespace Sys2Proof.Machine

open Sys2Proof

/-- The hearth answers SPDM while it is in service; the recovery loader does not (R386). -/
def State.spdmUp (s : State) : Bool := s.st != .off && !s.resets.hearthDown

/-- A reply of the hearth to an SPDM request. -/
def State.spdm (s : State) (what : String) (vals : List Nat) : State := if s.spdmUp then s.emit (.mctpVals what vals) else s

/-! ### Outside a session (R374, R378, R380) -/

/-- GET_VERSION: 1.3 only. -/
def execGetVersion (s : State) : Res := done (s.spdm "VERSION" [0x13])

/-- GET_CAPABILITIES: the capability flags are the standard's (notes/assumptions/5.md). -/
def execGetCapabilities (s : State) : Res :=
  done (if s.spdmUp then s.emit (.mctp "CAPABILITIES" (Config.replyBytes "CAPABILITIES" 0)) else s)

/-- NEGOTIATE_ALGORITHMS: each algorithm of R380 that the requester offers is chosen; no other is. -/
def execNegotiateAlgorithms (ecdsaP384 sha384 secp384r1 aes256gcm : Bool) (s : State) : Res :=
  if s.spdmUp then
    done (({ s with hearth := { s.hearth with spdmAlgs := ecdsaP384 && sha384 && secp384r1 && aes256gcm } }).emit
      (.mctpVals "ALGORITHMS" [flag ecdsaP384, flag sha384, flag secp384r1, flag aes256gcm]))
  else done s

/-- The certificate chain of slot 0: root, product CA and DeviceID certificate (R378). -/
def certChain : List Byte := Config.replyBytes "CERTIFICATE" 0

/-- GET_DIGESTS: the digest of slot 0. -/
def execGetDigests (s : State) : Res := done (s.spdm "DIGESTS" [hashOf certChain])

/-- GET_CERTIFICATE: a portion of the chain. Only slot 0 holds one. -/
def execGetCertificate (slot off len : Nat) (s : State) : Res :=
  if !s.spdmUp then done s
  else if slot ≠ 0 then done (s.spdm "ERROR" [slot])
  else done (s.emit (.mctp "CERTIFICATE" ((certChain.drop off).take len)))

/-- CHALLENGE: the chain's digest and the nonce, signed by the device attestation key. -/
def execChallenge (nonce : Nat) (s : State) : Res :=
  if s.spdmUp then
    let vals := [hashOf certChain, nonce]
    done ((s.emit (.mctpVals "CHALLENGE_AUTH" vals)).emit (.mctp "SIGNATURE" (Config.sign vals)))
  else done s

/-! ### Measurements (R379) -/

/-- Measurement indexes. -/
def measurements : List Nat := [1, 2, 3, 4, 5, 6, 7, 8, 9, 16, 17, 18, 19, 20, 21, 22, 23]

/-- What a measurement block is taken over. -/
def State.measured (s : State) (index : Nat) : List Nat :=
  let x := s.hearth
  match index with
  | 1 => []
  | 2 => [s.fw.svnH.toNat]
  | 3 => [s.fw.svnH.toNat, s.fw.svnR.toNat, s.fw.svnC.toNat, s.fw.minsvn.toNat]
  | 4 => [s.fw.svnC.toNat]
  | 5 => [s.fw.svnR.toNat]
  | 6 => [x.testContent]
  | 7 => flag s.boot.mapShadow :: (x.fuseShadow.getD []) ++ x.overrides ++ x.licences.flatMap fun l => [l.id, l.tier, flag l.narrow, flag l.peer, l.hobs, l.ports]
  | 8 => [flag x.owned, x.ownerKey, x.sysTag.toNat, x.devId.toNat]
  | 9 => flag x.jtag :: (s.perturbs.filter fun e => e.2.valid).flatMap fun e =>
      [e.1, e.2.kind.toNat, e.2.hob.toNat, e.2.life.toNat, e.2.ttype.toNat, e.2.tidx.toNat, e.2.param.toNat]
  | n =>
    let z := s.hob (n - 16)
    match z.recipe with
    | some r => if z.st = .free then [0, 0, 0] else [r.digest.toNat, r.mode, flag z.grant.test]
    | none => [0, 0, 0]

/-- A measurement block. -/
def State.measurement (s : State) (index : Nat) : Nat := (Config.measure index (s.measured index)).toNat

/-- GET_MEASUREMENTS, signed: one block, all of them (index 0xFF) or their number (index 0). -/
def execGetMeasurements (index : Nat) (s : State) : Res :=
  if !s.spdmUp then done s
  else if index ≠ 0 && index ≠ 0xFF && !measurements.contains index then done (s.spdm "ERROR" [index])
  else
    let vals := if index = 0 then [measurements.length] else if index = 0xFF then measurements.map s.measurement else [s.measurement index]
    done ((s.emit (.mctpVals "MEASUREMENTS" (index :: vals))).emit (.mctp "SIGNATURE" (Config.sign (index :: vals))))

/-! ### Sessions (R373, R380) -/

def State.session (s : State) (n : Nat) : Session := s.sessions.get {} n
def State.setSession (s : State) (n : Nat) (x : Session) : State := { s with sessions := s.sessions.put {} n x }

/-- KEY_EXCHANGE: a session with the algorithms agreed on. -/
def execKeyExchange (session : Nat) (role : Role) (path : Nat) (pf : Option HPort) (s : State) : Res :=
  if !s.spdmUp then done s
  else if !s.hearth.spdmAlgs || (s.session session).state ≠ 0 then done (s.spdm "ERROR" [session])
  else done ((s.setSession session { state := 1, role := role, path := path, pf := pf.map fun p => p.val }).spdm "KEY_EXCHANGE_RSP" [session])

/-- Whether a requester's role can authenticate: the installer by the key in the installation record, the maker under its root. The
operator has no session. -/
def State.roleHasKey (s : State) : Role → Bool
  | .operator => false
  | .installer => s.hearth.owned
  | .maker => true

/-- FINISH: with mutual authentication the session carries commands in its role; without, it ends. -/
def execFinish (session : Nat) (mutualOk : Bool) (s : State) : Res :=
  let x := s.session session
  if !s.spdmUp then done s
  else if x.state ≠ 1 then done (s.spdm "ERROR" [session])
  else if mutualOk && s.roleHasKey x.role then done ((s.setSession session { x with state := 2 }).spdm "FINISH_RSP" [session])
  else done ((s.setSession session {}).spdm "ERROR" [session])

/-- A request inside a finished session. -/
def State.inSession (s : State) (n : Nat) (what : String) (act : Session → Session) : State :=
  let x := s.session n
  if !s.spdmUp then s
  else if x.state = 2 then (s.setSession n (act x)).spdm what [n]
  else s.spdm "ERROR" [n]

/-- KEY_UPDATE. -/
def execKeyUpdate (session : Nat) (s : State) : Res :=
  done (s.inSession session "KEY_UPDATE_ACK" fun x => { x with keyGen := x.keyGen + 1 })

/-- HEARTBEAT: the session stays. -/
def execHeartbeat (session : Nat) (s : State) : Res := done (s.inSession session "HEARTBEAT_ACK" fun x => x)

/-- END_SESSION. -/
def execEndSession (session : Nat) (s : State) : Res := done (s.inSession session "END_SESSION_ACK" fun _ => {})

/-! ### IDE_KM (R219, R380) -/

/-- The host port whose PF a finished session runs on. -/
def State.idePort (s : State) (session : Nat) : Option Nat := if (s.session session).state = 2 then (s.session session).pf else none

/-- An IDE_KM message: the new key state of one stream and the status returned, 0 for done. Each function has one stream. -/
def State.ideKm (s : State) (session stream : Nat) (what : String) (act : Nat → Nat × Nat) : State :=
  if !s.spdmUp then s
  else match s.idePort session with
    | some p =>
      let r := act ((s.host p).ideKeys.get 0 stream)
      if 9 ≤ stream then s.spdm what [stream, 1]
      else (s.modHost p fun x => { x with ideKeys := x.ideKeys.put 0 stream r.1 }).spdm what [stream, r.2]
    | none => s.spdm "ERROR" [session]

/-- IDE_KM QUERY. -/
def execIdeKmQuery (session : Nat) (s : State) : Res :=
  if !s.spdmUp then done s
  else match s.idePort session with
    | some p => done (s.emit (.mctp "QUERY_RESP" (Config.replyBytes "QUERY_RESP" p)))
    | none => done (s.spdm "ERROR" [session])

/-- KEY_PROG: a key set that is not in use is programmed. -/
def execKeyProg (session stream : Nat) (s : State) : Res :=
  done (s.ideKm session stream "KP_ACK" fun k => if k = 2 then (2, 1) else (1, 0))

/-- K_SET_GO: a programmed key set comes into use. -/
def execKSetGo (session stream : Nat) (s : State) : Res :=
  done (s.ideKm session stream "K_GOSTOP_ACK" fun k => if k = 0 then (0, 1) else (2, 0))

/-- K_SET_STOP: use of the key set ends. -/
def execKSetStop (session stream : Nat) (s : State) : Res := done (s.ideKm session stream "K_GOSTOP_ACK" fun _ => (0, 0))

/-! ### MCTP (R374, R387) -/

/-- MCTP control is answered by the hearth and by the recovery loader (R386). -/
def execSetEndpointId (binding : Fin 5) (eid : Byte) (s : State) : Res :=
  if s.pldmUp then
    done (({ s with pins := { s.pins with eids := s.pins.eids.put 0 binding.val eid.toNat } }).emit (.mctpVals "Set Endpoint ID" [eid.toNat]))
  else done s

/-- MCTP_CONTROL: another control message; its reply is the standard's. -/
def execMctpControl (cmd : Byte) (s : State) : Res :=
  if s.pldmUp then done (s.emit (.mctp "control" (Config.replyBytes "control" cmd.toNat))) else done s

end Sys2Proof.Machine
end

