-- ==== Sys2Proof/Machine/Pmbus.lean ====
section
/-! DEFINITION. PMBus: PAGE to PMBUS_REFRESH (R388, R403). -/

namespace Sys2Proof.Machine

open Sys2Proof

/-! ### Values (R388, R403) -/

/-- The largest value of a table. -/
def topOf (t : Tab Nat) : Nat := t.foldl (fun m (e : Nat × Nat) => max m e.2) 0

/-- Output voltage of a page in mV: VCORE is its highest segment. -/
def State.railMv (s : State) (page : Nat) : Nat := if page = 1 then topOf s.pins.vcore else s.sensors.railMv.get 0 page

/-- Current of a page in mA. -/
def State.railMa (s : State) (page : Nat) : Nat := 100 * s.sensors.railDa.get 0 page

/-- The pages of rails. -/
def railPages : List Nat := [1, 2, 3, 4, 5, 6, 7, 8]

/-- A table from a list of numbers. -/
def tabOf (l : List Nat) (f : Nat → Nat) : Tab Nat := l.foldl (fun t i => t.put 0 i (f i)) []

/-- Readings of a page, from which its status bits come: volts, current, and on page 0 power and temperatures. -/
def Pmbus.readings (x : Pmbus) (page : Nat) : List Nat :=
  if page = 0 then [x.vin, x.iin, x.pin, x.temps.get 0 0, x.temps.get 0 1, x.temps.get 0 2] else [x.vout.get 0 page, x.iout.get 0 page]

/-- Status is latched: bits that the readings set are added to it. -/
def Pmbus.latch (x : Pmbus) : Pmbus :=
  { x with status := (List.range 64).foldl (fun t i =>
      if i % 16 < 9 then t.put 0 i (Tab.get 0 t i ||| Config.pmbusStatus (i / 16) (i % 16) (x.readings (i % 16))) else t) x.status }

/-- SMBALERT# follows the status bits. -/
def State.followAlert (s : State) : State := { s with pins := { s.pins with smbAlert := s.pmbus.status.any fun e => e.2 != 0 } }

/-- The device answers while the hearth runs. -/
def State.pmbusUp (s : State) : Bool := s.st != .off && !s.resets.hearthDown

/-- PMBUS_REFRESH: every 1 ms. -/
def execPmbusRefresh (s : State) : Res :=
  if !s.pmbusUp || s.life < s.pmbus.refreshed + msNs then done s
  else done ({ s with pmbus := ({ s.pmbus with
    vin := s.railMv 0
    iin := s.railMa 0
    pin := 1000 * s.damper.pin.toNat
    vout := tabOf railPages s.railMv
    iout := tabOf railPages s.railMa
    temps := tabOf [0, 1, 2] fun i =>
      if i = 0 then 250 * s.damper.tjmax.toNat else 1000 * topOf (if i = 1 then s.sensors.stack else s.sensors.lanper)
    refreshed := s.life } : Pmbus).latch }).followAlert

/-! ### Commands -/

/-- An answer, or none where the command is not one of the selected page. -/
def State.pmbusAnswer (s : State) (cmd : String) (pageOk : Bool) (vals : List Nat) : State :=
  if !s.pmbusUp then s else if pageOk then s.emit (.mctpVals cmd vals) else s.emit (.mctpVals "NACK" [])

/-- A LINEAR11 value. -/
def lin (v : Nat) : List Nat := [(Config.linear11 v).toNat]

/-- PAGE: pages 0 to 8. -/
def execPage (n : Byte) (s : State) : Res :=
  if !s.pmbusUp then done s
  else if 8 < n.toNat then done (s.emit (.mctpVals "NACK" []))
  else done { s with pmbus := { s.pmbus with page := n.toNat } }

/-- CLEAR_FAULTS: latched status clears, and SMBALERT# with it. -/
def execClearFaults (s : State) : Res :=
  if s.pmbusUp then done ({ s with pmbus := { s.pmbus with status := [] } }).followAlert else done s

def State.onInput (s : State) : Bool := s.pmbus.page == 0
def State.onRail (s : State) : Bool := railPages.contains s.pmbus.page

def execReadVin (s : State) : Res := done (s.pmbusAnswer "READ_VIN" s.onInput (lin s.pmbus.vin))
def execReadIin (s : State) : Res := done (s.pmbusAnswer "READ_IIN" s.onInput (lin s.pmbus.iin))
def execReadPin (s : State) : Res := done (s.pmbusAnswer "READ_PIN" s.onInput (lin s.pmbus.pin))
def execReadVout (s : State) : Res := done (s.pmbusAnswer "READ_VOUT" s.onRail (lin (s.pmbus.vout.get 0 s.pmbus.page)))
def execReadIout (s : State) : Res := done (s.pmbusAnswer "READ_IOUT" s.onRail (lin (s.pmbus.iout.get 0 s.pmbus.page)))

/-- READ_POUT: the rail's power, of the refreshed voltage and current. -/
def execReadPout (s : State) : Res :=
  done (s.pmbusAnswer "READ_POUT" s.onRail (lin (s.pmbus.vout.get 0 s.pmbus.page * s.pmbus.iout.get 0 s.pmbus.page / 1000)))

def execReadTemperature1 (s : State) : Res := done (s.pmbusAnswer "READ_TEMPERATURE_1" s.onInput (lin (s.pmbus.temps.get 0 0)))
def execReadTemperature2 (s : State) : Res := done (s.pmbusAnswer "READ_TEMPERATURE_2" s.onInput (lin (s.pmbus.temps.get 0 1)))
def execReadTemperature3 (s : State) : Res := done (s.pmbusAnswer "READ_TEMPERATURE_3" s.onInput (lin (s.pmbus.temps.get 0 2)))

/-- Latched status of the selected page: STATUS_WORD is two bytes, the others one. -/
def State.statusReg (s : State) (register : Nat) : Nat := (s.pmbus.status.get 0 (16 * register + s.pmbus.page)).toNat

def execStatusWord (s : State) : Res := done (s.pmbusAnswer "STATUS_WORD" true [s.statusReg 0])
def execStatusInput (s : State) : Res := done (s.pmbusAnswer "STATUS_INPUT" true [s.statusReg 1 % 256])
def execStatusIout (s : State) : Res := done (s.pmbusAnswer "STATUS_IOUT" true [s.statusReg 2 % 256])
def execStatusTemperature (s : State) : Res := done (s.pmbusAnswer "STATUS_TEMPERATURE" true [s.statusReg 3 % 256])

/-- PMBUS_REVISION: 1.3, part I and part II each, in the standard's coding. -/
def execPmbusRevision (s : State) : Res := done (s.pmbusAnswer "PMBUS_REVISION" s.onInput [0x33])

/-- CAPABILITY: the standard's byte (notes/assumptions/5.md). -/
def execCapability (s : State) : Res := done (s.pmbusAnswer "CAPABILITY" s.onInput ((Config.replyBytes "CAPABILITY" 0).map BitVec.toNat))

/-- The ASCII codes of a text. -/
def ascii (t : String) : List Nat := t.toList.map Char.toNat

def execMfrId (s : State) : Res := done (s.pmbusAnswer "MFR_ID" s.onInput (ascii "SPEHA"))
def execMfrModel (s : State) : Res := done (s.pmbusAnswer "MFR_MODEL" s.onInput (ascii "FC6"))
def execMfrSerial (s : State) : Res := done (s.pmbusAnswer "MFR_SERIAL" s.onInput [Config.serial.toNat])

/-- PMBUS_WRITE_REFUSED: power limits are installer actions. -/
def execPmbusWriteRefused (cmd : Byte) (s : State) : Res :=
  if s.pmbusUp then done (s.emit (.mctpVals "NACK" [cmd.toNat])) else done s

end Sys2Proof.Machine
end

