-- ==== Sys2Proof/Machine/RegWrite.lean ====
section
/-! DEFINITION. REGISTER_WRITE: the registers that have no row of their own (R10, R221 to R224, R259 to R264, R316, R330, R357,
R367). -/

namespace Sys2Proof.Machine

open Sys2Proof

/-! ### Host port registers (R221 to R224) -/

/-- A write to a ring's registers: after authentication, and ignored while the ring is enabled. -/
def State.writeRing (s : State) (p f r : Nat) (g : Ring → Ring) : State :=
  if s.barOpen p f && ringExists f r && ((s.host p).fnSt f).authOk && !(s.ring p f r).en then s.modRing p f r g else s

/-- The fields of `HP_RING_CFG` but its enable, which has rows of its own; a size outside 2⁶ to 2¹⁶ is refused. -/
def ringCfg (v : Nat) (x : Ring) : Ring :=
  let n := bits 56 52 v
  if n < 6 || 16 < n then x
  else { x with
    hot := bit 62 v, log2 := BitVec.ofNat 5 n, vec := BitVec.ofNat 3 (bits 50 48 v), count := BitVec.ofNat 8 (bits 47 40 v),
    time := BitVec.ofNat 10 (bits 39 30 v) }

/-- An MSI-X table entry; a message that was pending goes out once its vector is unmasked. -/
def State.writeMsix (s : State) (p f e : Nat) (v : BitVec 128) : State :=
  let s1 := s.modFn p f fun x => { x with msix := x.msix.put msixReset e v }
  if ((s1.host p).fnSt f).pba.getLsbD e && !v.getLsbD 96 then
    (s1.modFn p f fun x => { x with pba := x.pba &&& ~~~((1 : BitVec 8) <<< e) }).emit (.msix p f e)
  else s1

/-! ### Installer registers -/

/-- An installer's register write (R10, R372). -/
def State.iWrite (s : State) (who : Who) (code hob : Nat) (args : List Nat) (refuse : Nat) (act : State → State) : State :=
  s.priv who [.installer] code hob args refuse act

/-- Whether a value is outside a range. -/
def outOf (lo hi v : Nat) : Bool := decide (v < lo) || decide (hi < v)

/-- `LNP_PORT_CTL` but for its enable and park bits, which have rows of their own; transit is refused while a hob is granted the port. -/
def State.writePortCtl (s : State) (who : Who) (p v : Nat) : State :=
  let refuse := if bit 29 v && !(s.hobsOfPort p).isEmpty then 4 else 0
  s.iWrite who 0x0105 0xFF [4, p, v] refuse fun s =>
    s.modLnp p fun x => { x with transit := bit 29 v, expDev := BitVec.ofNat 13 (bits 28 16 v), expV := bit 15 v }

/-- `LNP_ROUTE`: a parked port that a valid entry names relights (R259). -/
def State.writeRoute (s : State) (who : Who) (dest v : Nat) : State :=
  let port := bits 3 0 v
  s.iWrite who 0x0105 0xFF [7, dest, v] 0 fun s =>
    let s1 := { s with hearth := { s.hearth with
      routes := s.hearth.routes.put none dest (if bit 7 v then some (BitVec.ofNat 4 port) else none),
      routeIdle := s.hearth.routeIdle.put 0 dest (if bit 7 v then 0 else BitVec.ofNat 4 port) } }
    if bit 7 v && (s1.lnp port).parked then s1.relight port else s1

/-- `LNP_JAR_ACL`: reserved bits read 0; a valid field needs the peer jar service licence (R2). -/
def State.writeJarAcl (s : State) (who : Who) (h v : Nat) : State :=
  let mask := (List.range 4).foldl (fun n i => n + 0x9FFF * 2 ^ (16 * i)) 0
  let valid := (List.range 4).any fun n => bit (16 * n + 15) v
  s.iWrite who 0x0105 h [8, v] (if valid && !s.hearth.peerJars then 3 else 0) fun s =>
    s.modHob h fun y => { y with jarAcl := BitVec.ofNat 64 (v &&& mask) }

/-- `HRT_TASTE_CFG` (R316). -/
def State.writeTaste (s : State) (who : Who) (v : Nat) : State :=
  let hours := bits 29 23 v
  let alert := bits 22 13 v
  s.iWrite who 0x0108 0xFF [0, v] (if outOf 2 72 hours || outOf 12 720 alert then 2 else 0) fun s =>
    { s with cfgs := { s.cfgs with tstEn := bit 31 v, tstHours := BitVec.ofNat 7 hours, tstAlert := BitVec.ofNat 10 alert } }

/-- `HRT_RST_CFG` (R330). -/
def State.writeRstCfg (s : State) (who : Who) (v : Nat) : State :=
  let count := bits 31 28 v
  let hours := bits 27 21 v
  s.iWrite who 0x0106 0xFF [v] (if outOf 2 8 count || outOf 1 72 hours then 2 else 0) fun s =>
    { s with resets := { s.resets with wcount := BitVec.ofNat 4 count, whours := BitVec.ofNat 7 hours } }

/-- `HRT_IDLE_CFG` but for `HRT_IDL_EN`, which has a row of its own (R367). -/
def State.writeIdle (s : State) (who : Who) (v : Nat) : State :=
  let dwell := bits 29 16 v
  s.iWrite who 0x0108 0xFF [2, v] (if outOf 10 16383 dwell then 2 else 0) fun s =>
    { s with cfgs := { s.cfgs with idlDwell := BitVec.ofNat 14 dwell } }

/-- `PNT_JAR_POLICY` (R357). -/
def State.writePolicy (s : State) (who : Who) (h v : Nat) : State :=
  let kind := bits 31 30 v
  let ceil := bits 29 24 v
  let theta := bits 23 16 v
  s.iWrite who 0x0109 h [v] (if 1 < kind || outOf 10 60 ceil || outOf 1 255 theta then 2 else 0) fun s =>
    s.modHob h fun y => { y with policy := { y.policy with kind := BitVec.ofNat 2 kind, ceil := BitVec.ofNat 6 ceil, theta := BitVec.ofNat 8 theta } }

/-- REGISTER_WRITE. -/
def execRegisterWrite (who : Who) (w : RegWrite) (s : State) : Res :=
  done (match w with
    | .hpSqBase p f r v => s.writeRing p.val f.val r.val fun x => { x with sqBase := v }
    | .hpCqBase p f r v => s.writeRing p.val f.val r.val fun x => { x with cqBase := v }
    | .hpDbAddr p f r v => s.writeRing p.val f.val r.val fun x => { x with dbAddr := v }
    | .hpRingCfg p f r v => s.writeRing p.val f.val r.val (ringCfg v.toNat)
    | .hpAuthHob p v => if s.barOpen p.val 0 then s.modFn p.val 0 fun x => { x with authHob := v } else s
    | .msixTable p f e v => if s.barOpen p.val f.val then s.writeMsix p.val f.val e.val v else s
    | .bar0Other _ _ _ _ => s
    | .lnpPortCtl p v => s.writePortCtl who p.val v.toNat
    | .lnpIdent v => s.iWrite who 0x0105 0xFF [5, v.toNat] 0 fun s =>
        { s with hearth := { s.hearth with sysTag := BitVec.ofNat 48 (bits 63 16 v.toNat), devId := BitVec.ofNat 13 (bits 12 0 v.toNat) } }
    | .lnpCfg v => s.iWrite who 0x0105 0xFF [6, v.toNat] (if outOf 2 1000 (bits 31 22 v.toNat) then 2 else 0) fun s =>
        { s with hearth := { s.hearth with rtmo := BitVec.ofNat 10 (bits 31 22 v.toNat) } }
    | .lnpRoute d v => s.writeRoute who d.toNat v.toNat
    | .lnpJarAcl h v => s.writeJarAcl who h.val v.toNat
    | .hrtTasteCfg v => s.writeTaste who v.toNat
    | .hrtRstCfg v => s.writeRstCfg who v.toNat
    | .hrtRstCmd v => s.rstAction who (bits 31 28 v.toNat) (bits 27 0 v.toNat)
    | .hrtIdleCfg v => s.writeIdle who v.toNat
    | .pntJarPolicy h v => s.writePolicy who h.val v.toNat)

end Sys2Proof.Machine
end

