-- ==== Sys2Proof/Machine/Dispatch.lean ====
section
/-! DEFINITION. The dispatch: one arm per command, each one call of its meaning. -/

namespace Sys2Proof.Machine

open Sys2Proof

/-- The effect of a command on everything but the queue. -/
def exec (i : Instr) (s : State) : Host.Outcome State Fault Refusal :=
  match i with
  | .powerGood => Sys2Proof.Machine.execPowerGood s
  | .powerGoodDeassert => Sys2Proof.Machine.execPowerGoodDeassert s
  | .vinLow => Sys2Proof.Machine.execVinLow s
  | .vinFault mv => Sys2Proof.Machine.execVinFault mv s
  | .perstAssert port => Sys2Proof.Machine.execPerstAssert port s
  | .perstDeassert port => Sys2Proof.Machine.execPerstDeassert port s
  | .hearthBootDone okA okB copies => Sys2Proof.Machine.execHearthBootDone okA okB copies s
  | .clocksUp pllLocked => Sys2Proof.Machine.execClocksUp pllLocked s
  | .memoriesUp bad copyOk badS0 badS6 => Sys2Proof.Machine.execMemoriesUp bad copyOk badS0 badS6 s
  | .linksUp results => Sys2Proof.Machine.execLinksUp results s
  | .cellsTested fuse failed wires => Sys2Proof.Machine.execCellsTested fuse failed wires s
  | .handover => Sys2Proof.Machine.execHandover s
  | .powerCapLift => Sys2Proof.Machine.execPowerCapLift s
  | .damperTick => Sys2Proof.Machine.execDamperTick s
  | .droop q => Sys2Proof.Machine.execDroop q s
  | .thermalDutyTick => Sys2Proof.Machine.execThermalDutyTick s
  | .thermalHold => Sys2Proof.Machine.execThermalHold s
  | .thermalTrip r => Sys2Proof.Machine.execThermalTrip r s
  | .tripRestart => Sys2Proof.Machine.execTripRestart s
  | .sensorSample sensor value value2 => Sys2Proof.Machine.execSensorSample sensor value value2 s
  | .hobCycleAdvance hob => Sys2Proof.Machine.execHobCycleAdvance hob s
  | .calWordIssue cell upsets => Sys2Proof.Machine.execCalWordIssue cell upsets s
  | .residueFault cell bank row => Sys2Proof.Machine.execResidueFault cell bank row s
  | .eccWriteBack cell => Sys2Proof.Machine.execEccWriteBack cell s
  | .spareRowRemap cell => Sys2Proof.Machine.execSpareRowRemap cell s
  | .routerSlotForward cell out flipped => Sys2Proof.Machine.execRouterSlotForward cell out flipped s
  | .routerPageSwitch cell => Sys2Proof.Machine.execRouterPageSwitch cell s
  | .periodChecksum cell => Sys2Proof.Machine.execPeriodChecksum cell s
  | .crossingAddrRead hob xng => Sys2Proof.Machine.execCrossingAddrRead hob xng s
  | .crossingIssue hob xng => Sys2Proof.Machine.execCrossingIssue hob xng s
  | .checkPoint hob xng => Sys2Proof.Machine.execCheckPoint hob xng s
  | .holdEdge hob => Sys2Proof.Machine.execHoldEdge hob s
  | .holdRelease hob => Sys2Proof.Machine.execHoldRelease hob s
  | .holdLimitExpiry hob => Sys2Proof.Machine.execHoldLimitExpiry hob s
  | .edgeCreditGrant hob xng => Sys2Proof.Machine.execEdgeCreditGrant hob xng s
  | .transactionGrant txn => Sys2Proof.Machine.execTransactionGrant txn s
  | .blockLanding txn data crcOk => Sys2Proof.Machine.execBlockLanding txn data crcOk s
  | .simmerWindow hob => Sys2Proof.Machine.execSimmerWindow hob s
  | .simmerDutyUpdate hob watts => Sys2Proof.Machine.execSimmerDutyUpdate hob watts s
  | .stepFence hob => Sys2Proof.Machine.execStepFence hob s
  | .clientWriteAck txn ok => Sys2Proof.Machine.execClientWriteAck txn ok s
  | .fenceLocalClose hob => Sys2Proof.Machine.execFenceLocalClose hob s
  | .peerFenceReport hob peer fence => Sys2Proof.Machine.execPeerFenceReport hob peer fence s
  | .stagedWriteForward hob => Sys2Proof.Machine.execStagedWriteForward hob s
  | .hostAccessFault what => Sys2Proof.Machine.execHostAccessFault what s
  | .stepTimerExpiry hob => Sys2Proof.Machine.execStepTimerExpiry hob s
  | .seqActFire cell slot => Sys2Proof.Machine.execSeqActFire cell slot s
  | .seqCtr cell slot => Sys2Proof.Machine.execSeqCtr cell slot s
  | .seqJump cell slot => Sys2Proof.Machine.execSeqJump cell slot s
  | .seqHalt cell slot => Sys2Proof.Machine.execSeqHalt cell slot s
  | .seqSendRetry cell slot => Sys2Proof.Machine.execSeqSendRetry cell slot s
  | .msgHeaderArrival cell m => Sys2Proof.Machine.execMsgHeaderArrival cell m s
  | .msgLandingDone cell landing data crcOk => Sys2Proof.Machine.execMsgLandingDone cell landing data crcOk s
  | .msgLandingTimeout cell landing => Sys2Proof.Machine.execMsgLandingTimeout cell landing s
  | .msgReply hob origin tag target status => Sys2Proof.Machine.execMsgReply hob origin tag target status s
  | .sendTimeout hob origin tag => Sys2Proof.Machine.execSendTimeout hob origin tag s
  | .msgWaitRelaunch hob origin tag => Sys2Proof.Machine.execMsgWaitRelaunch hob origin tag s
  | .mcastRelaunch hob origin tag target => Sys2Proof.Machine.execMcastRelaunch hob origin tag target s
  | .windowQuiesceEnd cell win => Sys2Proof.Machine.execWindowQuiesceEnd cell win s
  | .broadcastAck id target => Sys2Proof.Machine.execBroadcastAck id target s
  | .broadcastRetry id => Sys2Proof.Machine.execBroadcastRetry id s
  | .stackReadRequest txn badLines => Sys2Proof.Machine.execStackReadRequest txn badLines s
  | .stackWriteRequest txn crcOk => Sys2Proof.Machine.execStackWriteRequest txn crcOk s
  | .refresh stack pc => Sys2Proof.Machine.execRefresh stack pc s
  | .stackRowRepair stack row => Sys2Proof.Machine.execStackRowRepair stack row s
  | .pcSpareStart stack pc => Sys2Proof.Machine.execPcSpareStart stack pc s
  | .pcSpareDone stack pc => Sys2Proof.Machine.execPcSpareDone stack pc s
  | .patrolScrub stack line badSymbols => Sys2Proof.Machine.execPatrolScrub stack line badSymbols s
  | .stackPowerDown stack => Sys2Proof.Machine.execStackPowerDown stack s
  | .captureArm hob => Sys2Proof.Machine.execCaptureArm hob s
  | .pageDrainDone hob page => Sys2Proof.Machine.execPageDrainDone hob page s
  | .zeroiseDone hob => Sys2Proof.Machine.execZeroiseDone hob s
  | .stackCtrlReset stack => Sys2Proof.Machine.execStackCtrlReset stack s
  | .stackCtrlResetDone stack => Sys2Proof.Machine.execStackCtrlResetDone stack s
  | .doorbellPoll port fn ring => Sys2Proof.Machine.execDoorbellPoll port fn ring s
  | .doorbellLineReturn port fn ring pi cqCi ok => Sys2Proof.Machine.execDoorbellLineReturn port fn ring pi cqCi ok s
  | .sqeArrival port fn ring entry ok => Sys2Proof.Machine.execSqeArrival port fn ring entry ok s
  | .cqInterruptTimer port fn ring => Sys2Proof.Machine.execCqInterruptTimer port fn ring s
  | .loadRecipe ref hob image => Sys2Proof.Machine.execLoadRecipe ref hob image s
  | .loadRecipeDone hob => Sys2Proof.Machine.execLoadRecipeDone hob s
  | .runSteps ref hob count each buf bufLen stg stgLen => Sys2Proof.Machine.execRunSteps ref hob count each buf bufLen stg stgLen s
  | .fenceWait ref hob fence => Sys2Proof.Machine.execFenceWait ref hob fence s
  | .fenceStop ref hob => Sys2Proof.Machine.execFenceStop ref hob s
  | .copy ref hob src dst len after srcKind dstKind => Sys2Proof.Machine.execCopy ref hob src dst len after srcKind dstKind s
  | .windowOpen ref hob cell win slot region => Sys2Proof.Machine.execWindowOpen ref hob cell win slot region s
  | .windowClose ref hob cell win => Sys2Proof.Machine.execWindowClose ref hob cell win s
  | .jarTake ref hob fence => Sys2Proof.Machine.execJarTake ref hob fence s
  | .jarRestore ref hob slot dev seq peerJar => Sys2Proof.Machine.execJarRestore ref hob slot dev seq peerJar s
  | .jarRestoreDone hob tagsOk => Sys2Proof.Machine.execJarRestoreDone hob tagsOk s
  | .queryState ref hob addr len => Sys2Proof.Machine.execQueryState ref hob addr len s
  | .queryHobMap ref hob addr len => Sys2Proof.Machine.execQueryHobMap ref hob addr len s
  | .queryDistance ref hob addr len => Sys2Proof.Machine.execQueryDistance ref hob addr len s
  | .queryTelemetry ref hob addr len => Sys2Proof.Machine.execQueryTelemetry ref hob addr len s
  | .queryGrants ref hob addr len => Sys2Proof.Machine.execQueryGrants ref hob addr len s
  | .queryLostEvents ref hob addr len => Sys2Proof.Machine.execQueryLostEvents ref hob addr len s
  | .queryReport ref hob addr len seq => Sys2Proof.Machine.execQueryReport ref hob addr len seq s
  | .queryLog ref hob addr len => Sys2Proof.Machine.execQueryLog ref hob addr len s
  | .hobConfigShape ref hob x0 y0 w h => Sys2Proof.Machine.execHobConfigShape ref hob x0 y0 w h s
  | .hobConfigMemory ref hob stack extents => Sys2Proof.Machine.execHobConfigMemory ref hob stack extents s
  | .hobConfigPantry ref hob gib => Sys2Proof.Machine.execHobConfigPantry ref hob gib s
  | .hobConfigPower ref hob percent => Sys2Proof.Machine.execHobConfigPower ref hob percent s
  | .hobConfigJars ref hob mode => Sys2Proof.Machine.execHobConfigJars ref hob mode s
  | .hobConfigTest ref hob minutes failed => Sys2Proof.Machine.execHobConfigTest ref hob minutes failed s
  | .hobRelease ref hob => Sys2Proof.Machine.execHobRelease ref hob s
  | .hpAuthMac port fn mac => Sys2Proof.Machine.execHpAuthMac port fn mac s
  | .authLockoutEnd port fn => Sys2Proof.Machine.execAuthLockoutEnd port fn s
  | .ringEnable port fn ring => Sys2Proof.Machine.execRingEnable port fn ring s
  | .ringDisable port fn ring => Sys2Proof.Machine.execRingDisable port fn ring s
  | .hostLoss port linkDown => Sys2Proof.Machine.execHostLoss port linkDown s
  | .flr port fn => Sys2Proof.Machine.execFlr port fn s
  | .lnpDataFrame port f decoded tagOk blockOk => Sys2Proof.Machine.execLnpDataFrame port f decoded tagOk blockOk s
  | .lnpIdleFrame port f decoded tagOk => Sys2Proof.Machine.execLnpIdleFrame port f decoded tagOk s
  | .lnpNakFrame port f decoded tagOk named => Sys2Proof.Machine.execLnpNakFrame port f decoded tagOk named s
  | .lnpSessionFrame port f decoded tagOk msg => Sys2Proof.Machine.execLnpSessionFrame port f decoded tagOk msg s
  | .lnpIdleSend port => Sys2Proof.Machine.execLnpIdleSend port s
  | .lnpKeyStep port => Sys2Proof.Machine.execLnpKeyStep port s
  | .lnpEn who port on => Sys2Proof.Machine.execLnpEn who port on s
  | .lnpPark who port on => Sys2Proof.Machine.execLnpPark who port on s
  | .lnpTrainingDone port r => Sys2Proof.Machine.execLnpTrainingDone port r s
  | .lnpTrainingTimeout port => Sys2Proof.Machine.execLnpTrainingTimeout port s
  | .lnpLaneFail port fibre lane => Sys2Proof.Machine.execLnpLaneFail port fibre lane s
  | .lnpRetrainDone port best => Sys2Proof.Machine.execLnpRetrainDone port best s
  | .lnpLinkSilent port => Sys2Proof.Machine.execLnpLinkSilent port s
  | .lnpDownRetry port => Sys2Proof.Machine.execLnpDownRetry port s
  | .lnpRelightDone port locked => Sys2Proof.Machine.execLnpRelightDone port locked s
  | .lnpBeacon port => Sys2Proof.Machine.execLnpBeacon port s
  | .laserWearCheck port fibre lane bias power => Sys2Proof.Machine.execLaserWearCheck port fibre lane bias power s
  | .lnpRtmoExpiry port txn => Sys2Proof.Machine.execLnpRtmoExpiry port txn s
  | .jarRead port origin hob slot off len => Sys2Proof.Machine.execJarRead port origin hob slot off len s
  | .traceWindow cell => Sys2Proof.Machine.execTraceWindow cell s
  | .tasterSampleShip cell => Sys2Proof.Machine.execTasterSampleShip cell s
  | .tasterVerdict cell mismatch => Sys2Proof.Machine.execTasterVerdict cell mismatch s
  | .tasterSampleAbandon cell => Sys2Proof.Machine.execTasterSampleAbandon cell s
  | .faultReport cell code unit => Sys2Proof.Machine.execFaultReport cell code unit s
  | .replayStart hob status cell => Sys2Proof.Machine.execReplayStart hob status cell s
  | .decantRackLocal cell readable imageOk => Sys2Proof.Machine.execDecantRackLocal cell readable imageOk s
  | .functionalCheckResult cell pass => Sys2Proof.Machine.execFunctionalCheckResult cell pass s
  | .decantFar far => Sys2Proof.Machine.execDecantFar far s
  | .stationReplace hob imageOk => Sys2Proof.Machine.execStationReplace hob imageOk s
  | .conditionEval cell => Sys2Proof.Machine.execConditionEval cell s
  | .scoreHourly => Sys2Proof.Machine.execScoreHourly s
  | .paroleStart cell => Sys2Proof.Machine.execParoleStart cell s
  | .paroleTest cell result valid => Sys2Proof.Machine.execParoleTest cell result valid s
  | .retireAdviceEval => Sys2Proof.Machine.execRetireAdviceEval s
  | .rotationStep hob => Sys2Proof.Machine.execRotationStep hob s
  | .scanTestDone cell pass valid unit => Sys2Proof.Machine.execScanTestDone cell pass valid unit s
  | .untestedAgeAlert r => Sys2Proof.Machine.execUntestedAgeAlert r s
  | .tmtRowStart cell => Sys2Proof.Machine.execTmtRowStart cell s
  | .tmtRowDone cell pass => Sys2Proof.Machine.execTmtRowDone cell pass s
  | .perturbSet who k v => Sys2Proof.Machine.execPerturbSet who k v s
  | .perturbHold k => Sys2Proof.Machine.execPerturbHold k s
  | .perturbInject k word => Sys2Proof.Machine.execPerturbInject k word s
  | .perturbExpiry k => Sys2Proof.Machine.execPerturbExpiry k s
  | .cellHeartbeatMiss cell => Sys2Proof.Machine.execCellHeartbeatMiss cell s
  | .cellRequestTimeout cell => Sys2Proof.Machine.execCellRequestTimeout cell s
  | .broadcastUnacked id target => Sys2Proof.Machine.execBroadcastUnacked id target s
  | .quarterHoldUnconfirmed q => Sys2Proof.Machine.execQuarterHoldUnconfirmed q s
  | .stackCtrlHang stack => Sys2Proof.Machine.execStackCtrlHang stack s
  | .lanperEngineHang port => Sys2Proof.Machine.execLanperEngineHang port s
  | .hostPortHang port => Sys2Proof.Machine.execHostPortHang port s
  | .hobStopTimeout hob => Sys2Proof.Machine.execHobStopTimeout hob s
  | .rimTokenLoss => Sys2Proof.Machine.execRimTokenLoss s
  | .hearthLockstepMismatch => Sys2Proof.Machine.execHearthLockstepMismatch s
  | .hearthWatchdogExpiry => Sys2Proof.Machine.execHearthWatchdogExpiry s
  | .resetTimeout domain index => Sys2Proof.Machine.execResetTimeout domain index s
  | .cellReset cell => Sys2Proof.Machine.execCellReset cell s
  | .cellResetDone cell ok imageOk => Sys2Proof.Machine.execCellResetDone cell ok imageOk s
  | .rackReset r => Sys2Proof.Machine.execRackReset r s
  | .lnpPortReset port => Sys2Proof.Machine.execLnpPortReset port s
  | .hostPortReset port => Sys2Proof.Machine.execHostPortReset port s
  | .quarterReset q => Sys2Proof.Machine.execQuarterReset q s
  | .hobReset hob => Sys2Proof.Machine.execHobReset hob s
  | .routerIslandReset cell => Sys2Proof.Machine.execRouterIslandReset cell s
  | .warmReset why => Sys2Proof.Machine.execWarmReset why s
  | .coldReset why => Sys2Proof.Machine.execColdReset why s
  | .hearthReset => Sys2Proof.Machine.execHearthReset s
  | .hearthResetDone => Sys2Proof.Machine.execHearthResetDone s
  | .ashCapture domain cause => Sys2Proof.Machine.execAshCapture domain cause s
  | .ashUnitTimeout kind index => Sys2Proof.Machine.execAshUnitTimeout kind index s
  | .ashCaptureDone ms => Sys2Proof.Machine.execAshCaptureDone ms s
  | .rstCmdWarm who => Sys2Proof.Machine.execRstCmdWarm who s
  | .rstCmdCold who => Sys2Proof.Machine.execRstCmdCold who s
  | .rstCmdRestore who => Sys2Proof.Machine.execRstCmdRestore who s
  | .rstCmdAsh who => Sys2Proof.Machine.execRstCmdAsh who s
  | .rstCmdLockAsh who arg => Sys2Proof.Machine.execRstCmdLockAsh who arg s
  | .rstCmdReleaseAsh who => Sys2Proof.Machine.execRstCmdReleaseAsh who s
  | .ashReadout who seq => Sys2Proof.Machine.execAshReadout who seq s
  | .jarSetPlan hob fence seq slot lead => Sys2Proof.Machine.execJarSetPlan hob fence seq slot lead s
  | .jarSeal hob => Sys2Proof.Machine.execJarSeal hob s
  | .jarSealReport hob member => Sys2Proof.Machine.execJarSealReport hob member s
  | .jarDue hob => Sys2Proof.Machine.execJarDue hob s
  | .jarMtbiGather hob member service count factor => Sys2Proof.Machine.execJarMtbiGather hob member service count factor s
  | .nandBlockFail block => Sys2Proof.Machine.execNandBlockFail block s
  | .pantryScrub block permille ageDays => Sys2Proof.Machine.execPantryScrub block permille ageDays s
  | .deepIdleEntry => Sys2Proof.Machine.execDeepIdleEntry s
  | .hrtIdlEn who on => Sys2Proof.Machine.execHrtIdlEn who on s
  | .logSeal => Sys2Proof.Machine.execLogSeal s
  | .logReadout who => Sys2Proof.Machine.execLogReadout who s
  | .takeOwnership who key sysTag devId token => Sys2Proof.Machine.execTakeOwnership who key sysTag devId token s
  | .grantSet who hob grant => Sys2Proof.Machine.execGrantSet who hob grant s
  | .credentialSet who hob cred => Sys2Proof.Machine.execCredentialSet who hob cred s
  | .rsvWindowSet who hob stack on bw => Sys2Proof.Machine.execRsvWindowSet who hob stack on bw s
  | .powerLimitSet who v => Sys2Proof.Machine.execPowerLimitSet who v s
  | .maintWindowDeclare who start len endNow => Sys2Proof.Machine.execMaintWindowDeclare who start len endNow s
  | .maintWindowStart => Sys2Proof.Machine.execMaintWindowStart s
  | .maintWindowEnd => Sys2Proof.Machine.execMaintWindowEnd s
  | .avlYearRollover => Sys2Proof.Machine.execAvlYearRollover s
  | .licenceInstall who lic sigOk serialOk => Sys2Proof.Machine.execLicenceInstall who lic sigOk serialOk s
  | .licenceRemove who id => Sys2Proof.Machine.execLicenceRemove who id s
  | .makerTokenUse who token sigOk serialOk => Sys2Proof.Machine.execMakerTokenUse who token sigOk serialOk s
  | .jtagUnlock nonce ok => Sys2Proof.Machine.execJtagUnlock nonce ok s
  | .fuseMapWrite who nonce bad sigOk => Sys2Proof.Machine.execFuseMapWrite who nonce bad sigOk s
  | .testContentInstall who nonce version sigOk => Sys2Proof.Machine.execTestContentInstall who nonce version sigOk s
  | .cellOverride who nonce cell => Sys2Proof.Machine.execCellOverride who nonce cell s
  | .trustListChange who nonce keys => Sys2Proof.Machine.execTrustListChange who nonce keys s
  | .fwConfirm who => Sys2Proof.Machine.execFwConfirm who s
  | .fwRevert who => Sys2Proof.Machine.execFwRevert who s
  | .fwGoodTimer => Sys2Proof.Machine.execFwGoodTimer s
  | .queryDeviceIdentifiers => Sys2Proof.Machine.execQueryDeviceIdentifiers s
  | .getFirmwareParameters => Sys2Proof.Machine.execGetFirmwareParameters s
  | .getStatus => Sys2Proof.Machine.execGetStatus s
  | .requestUpdate who => Sys2Proof.Machine.execRequestUpdate who s
  | .passComponentTable who comps => Sys2Proof.Machine.execPassComponentTable who comps s
  | .updateComponent who comp size svn => Sys2Proof.Machine.execUpdateComponent who comp size svn s
  | .firmwareData who bytes => Sys2Proof.Machine.execFirmwareData who bytes s
  | .verifyComplete sigOk => Sys2Proof.Machine.execVerifyComplete sigOk s
  | .activateFirmware who => Sys2Proof.Machine.execActivateFirmware who s
  | .activateTimeout => Sys2Proof.Machine.execActivateTimeout s
  | .cancelUpdateComponent who => Sys2Proof.Machine.execCancelUpdateComponent who s
  | .cancelUpdate who => Sys2Proof.Machine.execCancelUpdate who s
  | .getVersion => Sys2Proof.Machine.execGetVersion s
  | .getCapabilities => Sys2Proof.Machine.execGetCapabilities s
  | .negotiateAlgorithms ecdsaP384 sha384 secp384r1 aes256gcm => Sys2Proof.Machine.execNegotiateAlgorithms ecdsaP384 sha384 secp384r1 aes256gcm s
  | .getDigests => Sys2Proof.Machine.execGetDigests s
  | .getCertificate slot off len => Sys2Proof.Machine.execGetCertificate slot off len s
  | .challenge nonce => Sys2Proof.Machine.execChallenge nonce s
  | .getMeasurements index => Sys2Proof.Machine.execGetMeasurements index s
  | .keyExchange session role path pf => Sys2Proof.Machine.execKeyExchange session role path pf s
  | .finish session mutualOk => Sys2Proof.Machine.execFinish session mutualOk s
  | .keyUpdate session => Sys2Proof.Machine.execKeyUpdate session s
  | .heartbeat session => Sys2Proof.Machine.execHeartbeat session s
  | .endSession session => Sys2Proof.Machine.execEndSession session s
  | .ideKmQuery session => Sys2Proof.Machine.execIdeKmQuery session s
  | .keyProg session stream => Sys2Proof.Machine.execKeyProg session stream s
  | .kSetGo session stream => Sys2Proof.Machine.execKSetGo session stream s
  | .kSetStop session stream => Sys2Proof.Machine.execKSetStop session stream s
  | .setEndpointId binding eid => Sys2Proof.Machine.execSetEndpointId binding eid s
  | .mctpControl cmd => Sys2Proof.Machine.execMctpControl cmd s
  | .page n => Sys2Proof.Machine.execPage n s
  | .clearFaults => Sys2Proof.Machine.execClearFaults s
  | .readVin => Sys2Proof.Machine.execReadVin s
  | .readIin => Sys2Proof.Machine.execReadIin s
  | .readPin => Sys2Proof.Machine.execReadPin s
  | .readVout => Sys2Proof.Machine.execReadVout s
  | .readIout => Sys2Proof.Machine.execReadIout s
  | .readPout => Sys2Proof.Machine.execReadPout s
  | .readTemperature1 => Sys2Proof.Machine.execReadTemperature1 s
  | .readTemperature2 => Sys2Proof.Machine.execReadTemperature2 s
  | .readTemperature3 => Sys2Proof.Machine.execReadTemperature3 s
  | .statusWord => Sys2Proof.Machine.execStatusWord s
  | .statusInput => Sys2Proof.Machine.execStatusInput s
  | .statusIout => Sys2Proof.Machine.execStatusIout s
  | .statusTemperature => Sys2Proof.Machine.execStatusTemperature s
  | .pmbusRevision => Sys2Proof.Machine.execPmbusRevision s
  | .capability => Sys2Proof.Machine.execCapability s
  | .mfrId => Sys2Proof.Machine.execMfrId s
  | .mfrModel => Sys2Proof.Machine.execMfrModel s
  | .mfrSerial => Sys2Proof.Machine.execMfrSerial s
  | .pmbusWriteRefused cmd => Sys2Proof.Machine.execPmbusWriteRefused cmd s
  | .pmbusRefresh => Sys2Proof.Machine.execPmbusRefresh s
  | .registerWrite who w => Sys2Proof.Machine.execRegisterWrite who w s
  | .copyDone hob ok moved data => Sys2Proof.Machine.execCopyDone hob ok moved data s
  | .applyComplete => Sys2Proof.Machine.execApplyComplete s
  | .peerFenceFailed hob peer fence => Sys2Proof.Machine.execPeerFenceFailed hob peer fence s
  | .rackResetDone r imageOk => Sys2Proof.Machine.execRackResetDone r imageOk s
  | .quarterResetDone q imageOk => Sys2Proof.Machine.execQuarterResetDone q imageOk s
  | .hobResetDone hob => Sys2Proof.Machine.execHobResetDone hob s
  | .hostPortResetDone port => Sys2Proof.Machine.execHostPortResetDone port s
  | .lnpPortResetDone port => Sys2Proof.Machine.execLnpPortResetDone port s

end Sys2Proof.Machine
end

