-- ==== Sys2Proof/Safety.lean ====
section
/-! DEFINITION. What a safe run of the block is: no command of the queue is refused and none faults; and the canonical form
of the stack memory. -/

namespace Sys2Proof

open Sys2Proof.Machine

/-- A step that answers a next state. -/
def Safe.step (s : State) : Prop := ∃ t, Machine.step s = .next t

/-- n steps, each with a next state. -/
def Safe.run : Nat → State → Prop
  | 0, _ => True
  | n + 1, s => ∃ t, Machine.step s = .next t ∧ Safe.run n t

end Sys2Proof

namespace Sys2Proof.Machine

/-- The canonical form of the stack memory: addresses strictly rising, and no byte that an unlisted address reads as. -/
def Memory.wf (m : List Host.Cell) : Bool := Tab.wf (0 : Byte) m

/-! ### Terms that the statements share -/

/-- A ring command whose turn has come and that is admitted: its ring runs, entry `e` is the first waiting one with the command's
tag, opcode and flags, everything before it allows it to start, no other ring of the hob runs a command that has to end first,
the function is authenticated for the hob, the hob is not being released, and the device is in SERVICE or DEGRADED (R223, R229,
R232, R242, R340). -/
def State.turn (s : State) (ref : CmdRef) (hob op : Nat) (e : Sqe) : Bool :=
  let x := s.ring ref.port.val ref.fn.val ref.ring.val
  x.on && s.authFor ref.port.val ref.fn.val hob && s.inService && ((s.hob hob).releasing.isNone || op == 9) &&
  (!actsAsBarrier op || s.othersIdle ref.port.val (if ref.fn.val = 0 then hob + 1 else ref.fn.val) (if ref.fn.val = 0 then 4 else ref.ring.val) op) &&
  (x.sqes.findIdx? fun d => d.tag == ref.tag && !d.started && d.op == op && ref.noirq == bit 1 d.flags).any fun i =>
    x.mayStart i && x.sqes[i]? == some e

/-- The command's entry, the first waiting one with its tag, opcode and flags, is marked as started; nothing else changes. -/
def State.started (s : State) (ref : CmdRef) (op : Nat) : State :=
  let x := s.ring ref.port.val ref.fn.val ref.ring.val
  match x.sqes.findIdx? fun d => d.tag == ref.tag && !d.started && d.op == op && ref.noirq == bit 1 d.flags with
  | none => s
  | some i => s.modRing ref.port.val ref.fn.val ref.ring.val fun x =>
    { x with sqes := x.sqes.modify i fun d => { d with started := true } }

/-- Between `s` and `t` the command's completion record was written, at the ring's next completion slot with that slot's phase,
at most one interrupt message followed it, and the command's entry is gone (R224, R226, R229, R230). -/
def State.answers (s t : State) (ref : CmdRef) (op status detail info0 info1 : Nat) : Prop :=
  let x := s.ring ref.port.val ref.fn.val ref.ring.val
  let y := t.ring ref.port.val ref.fn.val ref.ring.val
  let n := x.cqPi.toNat
  (∃ irq : List Out, irq.length ≤ 1 ∧
    t.out = irq ++ .cqe ref.port.val ref.fn.val ref.ring.val (n % x.size) ref.tag status op ((n / x.size) % 2 == 0)
      (x.ci.toNat % 65536) (detail % 65536) (info0 % 2 ^ 32) (info1 % 2 ^ 64) (Config.ptmTime s.now) :: s.out) ∧
  y.cqPi = x.cqPi + 1 ∧ y.sqes.length + 1 = x.sqes.length

/-- The command's completion record with these fields is among the outputs that `t` has and `s` had not (R226, R230). -/
def State.told (s t : State) (ref : CmdRef) (op status detail info0 info1 : Nat) : Prop :=
  ∃ (slot head : Nat) (phase : Bool) (time : W64),
    Out.cqe ref.port.val ref.fn.val ref.ring.val slot ref.tag status op phase head (detail % 65536) (info0 % 2 ^ 32)
        (info1 % 2 ^ 64) time ∈
      t.out.take (t.out.length - s.out.length)

/-- A command that completes later is still owed its record: its ring runs and holds an entry with its tag (R229, R241). -/
def State.owed (s : State) (ref : CmdRef) : Bool :=
  let x := s.ring ref.port.val ref.fn.val ref.ring.val
  x.on && x.sqes.any fun e => e.tag == ref.tag

/-- A privileged I or M action is open to its sender: the module is powered, the hearth runs, its log takes records, and the
sender's session is finished under an allowed role (R9, R10, R373). -/
def State.mayAct (s : State) (who : Who) (roles : List Role) : Bool :=
  s.st != .off && !s.resets.hearthDown && !s.logFail && s.authorised who roles

/-- Between `s` and `t` a privileged action was logged under the next record number with this code and result, and the sender
was told the result (R10, R368, R370). -/
def State.acted (s t : State) (who : Who) (code result : Nat) : Prop :=
  (∃ r ∈ t.log, r.seq = s.logSeq ∧ r.code = BitVec.ofNat 16 code ∧ r.result = result ∧ r.path = who.path) ∧
  t.out.head? = some (.mctpVals "result" [code, result])

end Sys2Proof.Machine
end

