-- ==== Sys2Proof/Certificates/Slice0/Obligations.lean ====
section
/-! DEFINITION. The statements for the provers. -/

section

open Sys2Proof Sys2Proof.Machine

/-- For every command c, queue rest and state s, step of s with c at the front of its queue is exec of c on s with the rest of
the queue. -/
def Obligations.StepRunsFront : Prop :=
  ∀ (c : Instr) (rest : List Instr) (s : State),
    step { s with pending := c :: rest } = exec c { s with pending := rest }

/-- On every state every command answers a next state, whose queue of waiting commands and whose device lifetime are those it
found: no command faults or is refused, and only time moves the lifetime. -/
def Obligations.EveryCommandGoesOn : Prop :=
  ∀ (c : Instr) (s : State),
    ∃ t, exec c s = .next t ∧ t.pending = s.pending ∧ t.life = s.life

/-- With no command waiting a step answers a next state; device time and device lifetime are one nanosecond on where the board's
power is good, and as they were where it is not. That an idle step is one nanosecond is the model's choice (log entry 3). -/
def Obligations.IdleStepIsOneNanosecond : Prop :=
  ∀ (s : State),
    s.pending = [] →
    ∃ t, step s = .next t ∧
      (s.pins.pwrgd = true → t.now = s.now + 1 ∧ t.life = s.life + 1) ∧
      (s.pins.pwrgd = false → t.now = s.now ∧ t.life = s.life)

/-- At reset the stack memory lists no byte and is in the canonical form. -/
def Obligations.MemoryCanonicalAtReset : Prop :=
  Memory.wf State.reset.mem = true ∧ ∀ a, Tab.get (0 : Byte) State.reset.mem a = 0

/-- If the stack memory is in canonical form (addresses strictly rising, no byte listed that an unlisted address reads as) and a
step answers a next state, the stack memory of that state is in canonical form. -/
def Obligations.MemoryStaysCanonical : Prop :=
  ∀ (s t : State),
    Memory.wf s.mem = true →
    step s = .next t →
    Memory.wf t.mem = true

/-- HOB_CYCLE_ADVANCE on a running static-mode hob with a step in progress completes. On a held edge the hob cycle counter and
the accumulator stay and HOB_HOLD_CYC is one higher. On an unheld edge before the step's fence: while MCLK is at most the
declared clock the counter advances by one and the accumulator stays; while MCLK exceeds it the accumulator takes the
declared clock, and when it reaches MCLK the counter advances and MCLK is subtracted. Stack memory and every other hob are
as they were. -/
def Obligations.HobCycleAdvanceCounts : Prop :=
  ∀ (hob : HobId) (s : State),
    (s.hob hob.val).runs = true →
    (s.hob hob.val).clk.live = true →
    (s.hob hob.val).seqMode = false →
    ∃ t, exec (.hobCycleAdvance hob) s = .next t ∧ t.mem = s.mem ∧ (∀ k, k ≠ hob.val → t.hob k = s.hob k) ∧
      ((s.hob hob.val).hold.frozen = true →
        (t.hob hob.val).clk = (s.hob hob.val).clk ∧ (t.hob hob.val).hold.cyc = (s.hob hob.val).hold.cyc + 1) ∧
      ((s.hob hob.val).hold.frozen = false → (s.hob hob.val).atFence = false →
        (s.damper.mclk.toNat ≤ (s.hob hob.val).rcp.mclk →
          (t.hob hob.val).clk.cyc = (s.hob hob.val).clk.cyc + 1 ∧ (t.hob hob.val).clk.acc = (s.hob hob.val).clk.acc) ∧
        ((s.hob hob.val).rcp.mclk < s.damper.mclk.toNat →
          (s.damper.mclk.toNat ≤ (s.hob hob.val).clk.acc + (s.hob hob.val).rcp.mclk →
            (t.hob hob.val).clk.cyc = (s.hob hob.val).clk.cyc + 1 ∧
            (t.hob hob.val).clk.acc = (s.hob hob.val).clk.acc + (s.hob hob.val).rcp.mclk - s.damper.mclk.toNat) ∧
          ((s.hob hob.val).clk.acc + (s.hob hob.val).rcp.mclk < s.damper.mclk.toNat →
            (t.hob hob.val).clk.cyc = (s.hob hob.val).clk.cyc ∧
            (t.hob hob.val).clk.acc = (s.hob hob.val).clk.acc + (s.hob hob.val).rcp.mclk)))

/-- CHECK_POINT on an executing static-mode hob whose check fails completes with HOB_HOLD_MISSES one higher, the wait kept and a
request made. HOLD_EDGE on a running, unfrozen hob with a step in progress and a hold request of cause c and crossing x
completes with the hob frozen, HOB_HOLD_EVENTS one higher, HOB_HOLD_CAUSE c, HOB_HOLD_XNG x and HOB_HOLD_AT the hob cycle
counted from the step's opening fence, the clock as it was. HOLD_RELEASE on a frozen hob with no cause in force completes
with the hob unfrozen and otherwise as it was. HOLD_LIMIT_EXPIRY on a running, frozen hob whose limit has run completes with
the hob STOPPED, no step queued, no fence committed, its crossing transactions gone but for the writes whose blocks are
already on their way, which go on and count for no step, and no hold in force. Each names the parts of the state it may
change; every other part, and every other hob, is as it was. SIMMER_WINDOW on a running hob whose window of 4,096 edges has
run completes with the window at its start; with a duty of 0 nothing else changes, and with another duty the hob is frozen
with cause 4 in force. SIMMER_DUTY_UPDATE on a hob that is not FREE completes with HOB_SIMMER_SHARE the lesser of the
grant's share and the hob's own, HOB_SIMMER_DUTY its own duty (free, at most 224) or the thermal duty where that is higher,
HOB_SIMMER_ON set exactly when that is not 0, and nothing else changed. -/
def Obligations.HoldsFreezeAndResume : Prop :=
  (∀ (hob : HobId) (xng : BitVec 16) (s : State) (x : Crossing) (w : Wait),
     (s.hob hob.val).executing = true →
     (s.hob hob.val).seqMode = false →
     (s.hob hob.val).rcp.crossing xng.toNat = some x →
     s.checkFails hob.val x = some w →
     ∃ t, exec (.checkPoint hob xng) s = .next t ∧ t = { s with hobs := t.hobs } ∧ (∀ k, k ≠ hob.val → t.hob k = s.hob k) ∧
       (t.hob hob.val).hold.misses = (s.hob hob.val).hold.misses + 1 ∧
       (t.hob hob.val).hold.waits = (s.hob hob.val).hold.waits ++ [w] ∧ (t.hob hob.val).hold.req.isSome = true ∧
       (t.hob hob.val).hold.frozen = (s.hob hob.val).hold.frozen ∧ (t.hob hob.val).clk = (s.hob hob.val).clk) ∧
  (∀ (hob : HobId) (s : State) (c x : Nat),
     (s.hob hob.val).runs = true →
     (s.hob hob.val).clk.live = true →
     (s.hob hob.val).hold.frozen = false →
     (s.hob hob.val).hold.req = some (c, x) →
     ∃ t, exec (.holdEdge hob) s = .next t ∧ t = { s with hobs := t.hobs } ∧ (∀ k, k ≠ hob.val → t.hob k = s.hob k) ∧
       (t.hob hob.val).hold.frozen = true ∧ (t.hob hob.val).hold.events = (s.hob hob.val).hold.events + 1 ∧
       (t.hob hob.val).hold.cause = BitVec.ofNat 4 c ∧ (t.hob hob.val).hold.xng = BitVec.ofNat 16 x ∧
       (t.hob hob.val).hold.atCyc = BitVec.ofNat 32 ((s.hob hob.val).clk.cyc - (s.hob hob.val).clk.stepStart) ∧
       (t.hob hob.val).clk = (s.hob hob.val).clk) ∧
  (∀ (hob : HobId) (s : State),
     (s.hob hob.val).hold.frozen = true →
     (s.hob hob.val).hold.causes = [] →
     ∃ t, exec (.holdRelease hob) s = .next t ∧ t = { s with hobs := t.hobs, avl := t.avl } ∧
       t.hob hob.val = { s.hob hob.val with hold := { (s.hob hob.val).hold with frozen := false } } ∧
       (∀ k, k ≠ hob.val → t.hob k = s.hob k)) ∧
  (∀ (hob : HobId) (s : State) (f : Nat),
     (s.hob hob.val).runs = true →
     (s.hob hob.val).hold.frozen = true →
     (s.hob hob.val).hold.limitFrom = some f →
     f + (s.hob hob.val).rcp.holdLimitNs < s.now →
     ∃ t, exec (.holdLimitExpiry hob) s = .next t ∧ t.mem = s.mem ∧ t.lines = s.lines ∧
       t.txns = runOut s.txns hob.val ∧
       (t.hob hob.val).st = .stopped ∧ (t.hob hob.val).run.stepsLeft = 0 ∧
       (t.hob hob.val).fenceLast = (s.hob hob.val).fenceLast ∧ (t.hob hob.val).hold.frozen = false ∧
       (t.hob hob.val).hold.causes = [] ∧ (∀ k, k ≠ hob.val → t.hob k = s.hob k)) ∧
  (∀ (hob : HobId) (s : State),
     (s.hob hob.val).runs = true →
     4096 ≤ (s.hob hob.val).simmer.edge →
     ∃ t, exec (.simmerWindow hob) s = .next t ∧ t = { s with hobs := t.hobs } ∧ (∀ k, k ≠ hob.val → t.hob k = s.hob k) ∧
       t.hob hob.val = { s.hob hob.val with simmer := { (s.hob hob.val).simmer with edge := 0 }, hold := (t.hob hob.val).hold } ∧
       ((s.hob hob.val).simmer.duty = 0 → (t.hob hob.val).hold = (s.hob hob.val).hold) ∧
       ((s.hob hob.val).simmer.duty ≠ 0 → (t.hob hob.val).hold.frozen = true ∧ 4 ∈ (t.hob hob.val).hold.causes)) ∧
  (∀ (hob : HobId) (watts : Nat) (s : State),
     (s.hob hob.val).st ≠ .free →
     ∃ t own, own ≤ 224 ∧ exec (.simmerDutyUpdate hob watts) s = .next t ∧ t = { s with hobs := t.hobs } ∧
       (∀ k, k ≠ hob.val → t.hob k = s.hob k) ∧ t.hob hob.val = { s.hob hob.val with simmer := (t.hob hob.val).simmer } ∧
       (t.hob hob.val).simmer = { (s.hob hob.val).simmer with
         on := max own s.damper.duty.toNat != 0, duty := BitVec.ofNat 8 (max own s.damper.duty.toNat), own := own
         share := BitVec.ofNat 8 (min (s.hob hob.val).grant.power.toNat (s.hob hob.val).powerQ) })

/-- CAL_WORD_ISSUE on a cell of an executing static-mode hob that has not issued in the hob cycle in force completes: the cell
has issued in that hob cycle, its period checksum has taken the 32 bytes of the word fetched, and stack memory, every other
cell and the hob cycle counter are as they were; a second CAL_WORD_ISSUE in the same hob cycle leaves the state as it is.
RESIDUE_FAULT on a cell that carries work completes with the accumulator row poisoned and its values kept, the fault flag
set, and every other part of the cell and the state as it was. ECC_WRITE_BACK on a cell with a corrected word waiting
completes with the oldest one written back with good check bits and no longer waiting. SPARE_ROW_REMAP on a TASTING position
completes with only that position's row map, due rows, row history and spent spare rows changed; a position in another state
is left as it is. -/
def Obligations.CellsIssueAndRepair : Prop :=
  (∀ (cell : Pos) (ups : List Upset) (s : State) (h : Nat),
     (s.cell cell.idx).hob = some h →
     (s.hob h).executing = true →
     (s.hob h).seqMode = false →
     (s.hob h).atFence = false →
     (s.cell cell.idx).issued ≠ (s.hob h).clk.cyc + 1 →
     ∃ t, exec (.calWordIssue cell ups) s = .next t ∧ t.mem = s.mem ∧ (t.hob h).clk = (s.hob h).clk ∧
       (∀ p, p ≠ cell.idx → t.cell p = s.cell p) ∧ (t.cell cell.idx).issued = (s.hob h).clk.cyc + 1 ∧
       (t.cell cell.idx).crc =
         crcFeed (s.issueAt (s.hob h) (ups.foldl Cell.upset (s.cell cell.idx)) (s.cell cell.idx).n).1.cell.crc
           (leBytes 32 (s.issueAt (s.hob h) (ups.foldl Cell.upset (s.cell cell.idx)) (s.cell cell.idx).n).2)) ∧
  (∀ (cell : Pos) (ups : List Upset) (s : State) (h : Nat),
     (s.cell cell.idx).hob = some h →
     (s.cell cell.idx).issued = (s.hob h).clk.cyc + 1 →
     exec (.calWordIssue cell ups) s = .next s) ∧
  (∀ (cell : Pos) (bank : Fin 2) (row : Fin 32) (s : State),
     (s.cell cell.idx).hob.isSome = true →
     ∃ t, exec (.residueFault cell bank row) s = .next t ∧ t = { s with cells := t.cells } ∧
       (∀ p, p ≠ cell.idx → t.cell p = s.cell p) ∧
       t.cell cell.idx = { s.cell cell.idx with units := (t.cell cell.idx).units, flags := (t.cell cell.idx).flags } ∧
       (t.cell cell.idx).flags = { (s.cell cell.idx).flags with fault := true } ∧
       (t.cell cell.idx).units = { (s.cell cell.idx).units with acc := (t.cell cell.idx).units.acc } ∧
       (t.cell cell.idx).units.acc.get {} (accKey bank.val row.val) =
         { (s.cell cell.idx).units.acc.get {} (accKey bank.val row.val) with poison := true }) ∧
  (∀ (cell : Pos) (s : State) (w : Nat) (rest : List Nat),
     (s.cell cell.idx).writeBack = w :: rest →
     ∃ t, exec (.eccWriteBack cell) s = .next t ∧ t = { s with cells := t.cells } ∧
       (∀ p, p ≠ cell.idx → t.cell p = s.cell p) ∧
       t.cell cell.idx = { s.cell cell.idx with writeBack := rest, wordErr := (t.cell cell.idx).wordErr } ∧
       (t.cell cell.idx).wordErr.get 0 w = 0 ∧
       (∀ v, v ≠ w → (t.cell cell.idx).wordErr.get 0 v = (s.cell cell.idx).wordErr.get 0 v)) ∧
  (∀ (cell : Pos) (s : State),
     (s.pos cell.idx).state = .tasting →
     ∃ t, exec (.spareRowRemap cell) s = .next t ∧ t = { s with health := t.health } ∧
       (∀ p, p ≠ cell.idx → t.pos p = s.pos p) ∧
       t.pos cell.idx = { s.pos cell.idx with
         rowMap := (t.pos cell.idx).rowMap, remapDue := (t.pos cell.idx).remapDue, rowCe := (t.pos cell.idx).rowCe, spareBad := (t.pos cell.idx).spareBad }) ∧
  (∀ (cell : Pos) (s : State),
     (s.pos cell.idx).state ≠ .tasting →
     exec (.spareRowRemap cell) s = .next s)

/-- CAL_WORD_ISSUE on a cell of an executing static-mode hob before the fence that has not issued in the hob cycle in force
answers a next state in which the cell has issued in that hob cycle; stack memory, the transactions, the lines, the logs,
every other cell, every other hob, every router but the cell's own, every other position, and all of the cell's hob but its
run's noted breach are as they were; in every other state it answers the state it found. RESIDUE_FAULT on a cell that
carries work answers a next state in which the accumulator row's values are kept and poisoned, every other accumulator row
and every other unit's state is as it was, the fault flag is set, and so the hob counts as having met a fault in its step;
on a cell of no hob it answers the state it found. ECC_WRITE_BACK given once for each word waiting answers next states,
after which no word waits, every word that waited has good check bits, and every other word, every other part of the cell
and every other cell is as it was. SPARE_ROW_REMAP on a TASTING position whose one due row has a spare row left answers a
next state in which the row is read from that spare, no row is due, the row's error history is gone, every other row is read
from where it was, a spare row the row used before is marked bad and no other mark changes; with no spare left, or on a
position not TASTING, every position is as it was. -/
def Obligations.CellsRepairThemselves : Prop :=
  (∀ (cell : Pos) (ups : List Upset) (s : State) (h : Nat),
     (s.cell cell.idx).hob = some h →
     (s.hob h).executing = true →
     (s.hob h).seqMode = false →
     (s.hob h).atFence = false →
     (s.cell cell.idx).issued ≠ (s.hob h).clk.cyc + 1 →
     ∃ t, exec (.calWordIssue cell ups) s = .next t ∧
       t = { s with free := t.free, cells := t.cells, hobs := t.hobs, routers := t.routers, health := t.health } ∧
       (t.cell cell.idx).issued = (s.hob h).clk.cyc + 1 ∧ (t.cell cell.idx).hob = some h ∧
       (∀ p, p ≠ cell.idx → t.cell p = s.cell p ∧ t.pos p = s.pos p) ∧
       (∀ p, p ≠ s.routerPos h (s.cell cell.idx).n → t.router p = s.router p) ∧
       (∀ k, k ≠ h → t.hob k = s.hob k) ∧ t.hob h = { s.hob h with run := (t.hob h).run } ∧
       exec (.calWordIssue cell ups) t = .next t) ∧
  (∀ (cell : Pos) (ups : List Upset) (s : State),
     (∀ h, (s.cell cell.idx).hob = some h → (s.hob h).executing = false ∨ (s.hob h).seqMode = true ∨ (s.hob h).atFence = true ∨ (s.cell cell.idx).issued = (s.hob h).clk.cyc + 1) →
     exec (.calWordIssue cell ups) s = .next s) ∧
  (∀ (cell : Pos) (bank : Fin 2) (row : Fin 32) (s : State) (h : Nat),
     (s.cell cell.idx).hob = some h →
     (s.hob h).clk.live = true →
     cell.idx ∈ (s.nums h).map (s.posOf h) →
     ∃ t, exec (.residueFault cell bank row) s = .next t ∧ t = { s with cells := t.cells } ∧
       (∀ p, p ≠ cell.idx → t.cell p = s.cell p) ∧
       t.cell cell.idx = { s.cell cell.idx with
         units := { (s.cell cell.idx).units with acc := (t.cell cell.idx).units.acc }, flags := { (s.cell cell.idx).flags with fault := true } } ∧
       (t.cell cell.idx).units.acc.get {} (accKey bank.val row.val) =
         { (s.cell cell.idx).units.acc.get {} (accKey bank.val row.val) with poison := true } ∧
       (∀ k, k ≠ accKey bank.val row.val → (t.cell cell.idx).units.acc.get {} k = (s.cell cell.idx).units.acc.get {} k) ∧
       t.faulted h = true) ∧
  (∀ (cell : Pos) (bank : Fin 2) (row : Fin 32) (s : State),
     (s.cell cell.idx).hob = none →
     exec (.residueFault cell bank row) s = .next s) ∧
  (∀ (cell : Pos) (s : State),
     (∃ t, exec (.eccWriteBack cell) s = .next t) ∧
       ∃ t, (s.cell cell.idx).writeBack.foldl (fun (r : Host.Outcome State Fault Refusal) _ => match r with
         | .next u => exec (.eccWriteBack cell) u
         | x => x) (.next s) = .next t ∧ t = { s with cells := t.cells } ∧ (∀ p, p ≠ cell.idx → t.cell p = s.cell p) ∧
         t.cell cell.idx = { s.cell cell.idx with writeBack := [], wordErr := (t.cell cell.idx).wordErr } ∧
         (∀ w ∈ (s.cell cell.idx).writeBack, (t.cell cell.idx).wordErr.get 0 w = 0) ∧
         (∀ w, w ∉ (s.cell cell.idx).writeBack → (t.cell cell.idx).wordErr.get 0 w = (s.cell cell.idx).wordErr.get 0 w)) ∧
  (∀ (cell : Pos) (s : State) (r n : Nat),
     (s.pos cell.idx).state = .tasting →
     (s.pos cell.idx).remapDue = [r] →
     (s.pos cell.idx).nextSpare (r / 64) = some n →
     ∃ t, exec (.spareRowRemap cell) s = .next t ∧ t = { s with health := t.health } ∧ (∀ p, p ≠ cell.idx → t.pos p = s.pos p) ∧
       t.pos cell.idx = { s.pos cell.idx with
         rowMap := (t.pos cell.idx).rowMap, remapDue := [], rowCe := (t.pos cell.idx).rowCe, spareBad := (t.pos cell.idx).spareBad } ∧
       (t.pos cell.idx).rowMap.get 0 r = n ∧ (t.pos cell.idx).rowCe.get [] r = [] ∧
       (∀ q, q ≠ r → (t.pos cell.idx).rowMap.get 0 q = (s.pos cell.idx).rowMap.get 0 q ∧ (t.pos cell.idx).rowCe.get [] q = (s.pos cell.idx).rowCe.get [] q) ∧
       (∀ b, b ∈ (t.pos cell.idx).spareBad ↔ b ∈ (s.pos cell.idx).spareBad ∨
         ((s.pos cell.idx).rowMap.get 0 r ≠ 0 ∧ b = r / 64 * 16 + (s.pos cell.idx).rowMap.get 0 r))) ∧
  (∀ (cell : Pos) (s : State),
     ((s.pos cell.idx).state ≠ .tasting ∨ ∀ r ∈ (s.pos cell.idx).remapDue, (s.pos cell.idx).nextSpare (r / 64) = none) →
     ∃ t, exec (.spareRowRemap cell) s = .next t ∧ t = { s with health := t.health } ∧ ∀ p, t.pos p = s.pos p)

/-- ROUTER_SLOT_FORWARD on an output of an executing static-mode hob's router that has not applied an entry in the hob cycle in
force completes, and the output has then applied its entry of that cycle; stack memory, every position and the hob cycle
counter are as they were; an output that has applied it is left as it is. Where the entry is owned and its input has a flit
in that hob cycle, the flit goes to the cell's router port one cycle later, or to the neighbour's input on the facing side
after the hop's cycles. ROUTER_PAGE_SWITCH at a hob cycle that is a multiple of 256, with a page requested before it,
completes with that page in force and no request. PERIOD_CHECKSUM on a cell whose oldest ended period has the expected
checksums completes with that period no longer due and nothing else changed; where the cell's own checksum differs in the
step in progress the cell's fault flag is set, and the hob notes the cell and the period once, or, where a replay already
ran for the same cell and period, breaks the step with SCHED_VIOLATION. -/
def Obligations.RouterOutputs : Prop :=
  (∀ (cell : Pos) (out : Dir) (fl : List Nat) (s : State) (h n : Nat),
     s.routerAt cell.idx = some (h, n) →
     (s.hob h).executing = true →
     (s.hob h).seqMode = false →
     (s.hob h).atFence = false →
     s.islandRuns cell.idx = true →
     (s.router cell.idx).applied.get 0 out.code ≠ (s.hob h).clk.cyc + 1 →
     ∃ t, exec (.routerSlotForward cell out fl) s = .next t ∧ t.mem = s.mem ∧ t.health = s.health ∧
       (t.hob h).clk = (s.hob h).clk ∧ (t.router cell.idx).applied.get 0 out.code = (s.hob h).clk.cyc + 1) ∧
  (∀ (cell : Pos) (out : Dir) (s : State) (h n e : Nat) (f : FlitAt),
     s.routerAt cell.idx = some (h, n) →
     (s.hob h).executing = true →
     (s.hob h).seqMode = false →
     (s.hob h).atFence = false →
     s.islandRuns cell.idx = true →
     (s.router cell.idx).applied.get 0 out.code ≠ (s.hob h).clk.cyc + 1 →
     e = ((s.router cell.idx).slots.get 0 (rtKey out.code (s.router cell.idx).page ((s.hob h).clk.cyc % 256))).toNat →
     rtOwn e = true →
     ((s.router cell.idx).inputs.find? fun g => g.cyc == (s.hob h).clk.cyc && g.inp == (Dir.all.find? fun d => d.code == rtSrc e).getD .loc) = some f →
     ∃ t, exec (.routerSlotForward cell out []) s = .next t ∧
       (out = .loc → ({ cyc := (s.hob h).clk.cyc + 1, flit := f.flit } : FlitAt) ∈ (t.cell (s.posOf h n)).portIn) ∧
       (∀ x y m, neighbour ((s.hob h).rect.xy n).1 ((s.hob h).rect.xy n).2 out = some (x, y) → (s.hob h).rect.num x y = some m →
         ({ cyc := (s.hob h).clk.cyc + hopCycles ((s.hob h).rect.xy n).1 ((s.hob h).rect.xy n).2 out, inp := out.facing,
            flit := f.flit.cross [] } : FlitAt) ∈ (t.router (s.routerPos h m)).inputs)) ∧
  (∀ (cell : Pos) (out : Dir) (fl : List Nat) (s : State) (h n : Nat),
     s.routerAt cell.idx = some (h, n) →
     (s.hob h).executing = true →
     (s.hob h).seqMode = false →
     (s.hob h).atFence = false →
     (s.router cell.idx).applied.get 0 out.code = (s.hob h).clk.cyc + 1 →
     exec (.routerSlotForward cell out fl) s = .next s) ∧
  (∀ (cell : Pos) (s : State) (h n g c : Nat),
     s.routerAt cell.idx = some (h, n) →
     (s.router cell.idx).pageReq = some (g, c) →
     (s.hob h).executing = true →
     (s.hob h).clk.cyc % 256 = 0 →
     c < (s.hob h).clk.cyc →
     ∃ t, exec (.routerPageSwitch cell) s = .next t ∧ t = { s with routers := t.routers } ∧
       (∀ p, p ≠ cell.idx → t.router p = s.router p) ∧
       t.router cell.idx = { s.router cell.idx with page := g, pageReq := none }) ∧
  (∀ (cell : Pos) (s : State) (h : Nat) (f1 i f2 j v : Nat) (vs : List Nat) (r1 : List (Nat × Nat × Nat)) (r2 : List (Nat × Nat × List Nat)),
     (s.cell cell.idx).hob = some h →
     (s.cell cell.idx).crcDue = (f1, i, v) :: r1 →
     (s.router (s.routerPos h (s.cell cell.idx).n)).crcDue = (f2, j, vs) :: r2 →
     crcOut v = (s.hob h).rcp.expected (s.hob h).rect.cells i (s.cell cell.idx).n 0 →
     (∀ w ∈ vs.zipIdx, crcOut w.1 = (s.hob h).rcp.expected (s.hob h).rect.cells i (s.cell cell.idx).n (w.2 + 1)) →
     ∃ t, exec (.periodChecksum cell) s = .next t ∧ t = { s with cells := t.cells, routers := t.routers } ∧
       (∀ p, p ≠ cell.idx → t.cell p = s.cell p) ∧ t.cell cell.idx = { s.cell cell.idx with crcDue := r1 } ∧
       (∀ p, p ≠ s.routerPos h (s.cell cell.idx).n → t.router p = s.router p) ∧
       t.router (s.routerPos h (s.cell cell.idx).n) = { s.router (s.routerPos h (s.cell cell.idx).n) with crcDue := r2 }) ∧
  (∀ (cell : Pos) (s : State) (h : Nat) (f1 i f2 j v : Nat) (vs : List Nat) (r1 : List (Nat × Nat × Nat)) (r2 : List (Nat × Nat × List Nat)),
     (s.cell cell.idx).hob = some h →
     (s.cell cell.idx).crcDue = (f1, i, v) :: r1 →
     (s.router (s.routerPos h (s.cell cell.idx).n)).crcDue = (f2, j, vs) :: r2 →
     crcOut v ≠ (s.hob h).rcp.expected (s.hob h).rect.cells i (s.cell cell.idx).n 0 →
     ((s.hob h).closing.any fun c => c.fence == f1) = false →
     ∃ t, exec (.periodChecksum cell) s = .next t ∧ t = { s with cells := t.cells, routers := t.routers, hobs := t.hobs } ∧
       (t.cell (s.posOf h (s.cell cell.idx).n)).flags.fault = true ∧
       (((s.cell cell.idx).n, i) ∈ (s.hob h).replay.sched → (t.hob h).run.breach.isSome = true ∧ (t.hob h).replay = (s.hob h).replay) ∧
       (((s.cell cell.idx).n, i) ∉ (s.hob h).replay.sched → (t.hob h).run = (s.hob h).run ∧
         (((s.cell cell.idx).n, i) ∈ (s.hob h).replay.noted → (t.hob h).replay = (s.hob h).replay) ∧
         (((s.cell cell.idx).n, i) ∉ (s.hob h).replay.noted → (t.hob h).replay = { (s.hob h).replay with noted := (s.hob h).replay.noted ++ [((s.cell cell.idx).n, i)] })))

/-- CROSSING_ADDR_READ of a computed-address crossing of a running static-mode hob, at the hob cycle that is 34 before its issue
in the period, completes with the value read at the granule (or the value that no valid address equals) kept for the
crossing, the granule's read counted at its cell and row by its corrected and uncorrectable words, and nothing else changed.
CROSSING_ISSUE of a write or read crossing of an executing hob at its issue cycle, not yet issued in that hob cycle,
completes: the crossing has issued in that hob cycle, a write kind has given up the credit of its blocks, one transaction is
added for each block, and stack memory, the clock and the routers are as they were. EDGE_CREDIT_GRANT to a write crossing
whose pool has a place, whose client is up and whose stop's queue has room for a whole block completes with one more block
of credit and only that hob and the PERTURB entries' records of a credit granted changed. TRANSACTION_GRANT of a waiting
request whose pool has a place completes with that request granted from now, and every other request as it was; where it is
no remote read nothing else changes, and where it is one only the Lanper ports change. BLOCK_LANDING of a served read
crossing completes: its landing entry holds the block's data, poisoned throughout where the block fails its CRC-32C, the
entry is no longer reserved, and the transaction is gone; the cell's fault flag is set then, and the code BLOCK_CHECK_FAIL
goes out exactly then. Stack memory, routers, every other cell and every other hob are as they were. A block of whose entry
a bank is quiet in the hob cycle in force waits: nothing changes. -/
def Obligations.CrossingsReadIssueAndTakeCredit : Prop :=
  (∀ (hob : HobId) (xng : BitVec 16) (s : State) (x : Crossing),
     (s.hob hob.val).rcp.crossing xng.toNat = some x →
     x.computed = true →
     (s.hob hob.val).runs = true →
     (s.hob hob.val).clk.live = true →
     (s.hob hob.val).seqMode = false →
     (s.hob hob.val).rcp.periodLen ≠ 0 →
     ((s.hob hob.val).inPeriod + 34) % (s.hob hob.val).rcp.periodLen = x.issue % (s.hob hob.val).rcp.periodLen →
     ∃ t, exec (.crossingAddrRead hob xng) s = .next t ∧ t = { (s.meter (s.posOf hob.val x.cell)
           (((s.cell (s.posOf hob.val x.cell)).addrGran x.slot (x.addr % 8192)).map (s.cell (s.posOf hob.val x.cell)).readGran).toList) with
         hobs := t.hobs } ∧
       (∀ k, k ≠ hob.val → t.hob k = s.hob k) ∧ t.hob hob.val = { s.hob hob.val with xng := (t.hob hob.val).xng } ∧
       ((t.hob hob.val).xng.get {} x.id).addrRead =
         some (match (s.cell (s.posOf hob.val x.cell)).addrGran x.slot (x.addr % 8192) with
           | some g => if ((s.cell (s.posOf hob.val x.cell)).readGran g).gran.bad then badAddr
               else leAt ((s.cell (s.posOf hob.val x.cell)).readGran g).gran.data 0 8
           | none => badAddr)) ∧
  (∀ (hob : HobId) (xng : BitVec 16) (s : State) (x : Crossing),
     (s.hob hob.val).rcp.crossing xng.toNat = some x →
     (s.hob hob.val).executing = true →
     (s.hob hob.val).seqMode = false →
     (s.hob hob.val).atFence = false →
     x.kind ≠ 3 →
     (s.hob hob.val).inPeriod = x.issue →
     ((s.hob hob.val).xng.get {} x.id).issued ≠ (s.hob hob.val).clk.cyc + 1 →
     ∃ t, exec (.crossingIssue hob xng) s = .next t ∧ t.mem = s.mem ∧ t.lines = s.lines ∧ t.routers = s.routers ∧
       (t.hob hob.val).clk = (s.hob hob.val).clk ∧ (∀ k, k ≠ hob.val → t.hob k = s.hob k) ∧
       ((t.hob hob.val).xng.get {} x.id).issued = (s.hob hob.val).clk.cyc + 1 ∧
       ((t.hob hob.val).xng.get {} x.id).credit =
         (if x.lands then ((s.hob hob.val).xng.get {} x.id).credit else ((s.hob hob.val).xng.get {} x.id).credit - x.blocks) ∧
       t.txns.length = s.txns.length + x.blocks) ∧
  (∀ (hob : HobId) (xng : BitVec 16) (s : State) (x : Crossing),
     (s.hob hob.val).rcp.crossing xng.toNat = some x →
     x.lands = false →
     s.poolFree ((s.hob hob.val).egressTxn hob.val x) = true →
     s.clientUp (s.hob hob.val) x = true →
     roomForBlock (s.outQueued ((s.hob hob.val).stopOf x)) = true →
     s.throttled hob.val x = false →
     ∃ t, exec (.edgeCreditGrant hob xng) s = .next t ∧ t = { s with hobs := t.hobs, perturbs := t.perturbs } ∧ (∀ k, k ≠ hob.val → t.hob k = s.hob k) ∧
       t.hob hob.val = { s.hob hob.val with xng := (t.hob hob.val).xng, hold := (t.hob hob.val).hold } ∧
       ((t.hob hob.val).xng.get {} x.id).credit = ((s.hob hob.val).xng.get {} x.id).credit + 1) ∧
  (∀ (txn : Nat) (s : State) (x : Txn),
     s.txn txn = some x →
     x.granted = false →
     s.poolFree { x with pool := s.poolNow x } = true →
     ∃ t, exec (.transactionGrant txn) s = .next t ∧
       t.txns = (s.txns.map fun u => if u.id = txn then { x with pool := s.poolNow x, granted := true, startedAt := s.now } else u) ∧
       ((s.poolNow x ≠ .lanper ∨ x.write = true) → t = { s with txns := t.txns }) ∧
       t = { s with txns := t.txns, lnps := t.lnps }) ∧
  (∀ (txn : Nat) (data : List Byte) (ok : Bool) (s : State) (x : Txn) (h k r : Nat),
     s.txn txn = some x →
     x.kind = .crossing h k r →
     x.write = false →
     x.granted = true →
     x.served = true →
     x.breach = false →
     x.crcBad = false →
     x.pool ≠ .host →
     s.txnDelayed x 2 = false →
     (((s.hob h).quietBanks x.cell).any ((s.cell (s.posOf h x.cell)).entryBanks x.slot x.region x.entry).contains) = false →
     ∃ t, exec (.blockLanding txn data ok) s = .next t ∧
       t = { s with cells := t.cells, txns := s.txns.filter (fun u => u.id != txn), hobs := t.hobs, out := t.out } ∧
       t.out = (if ok then s.out else .mgt "BLOCK_CHECK_FAIL" [h, x.cell, k] :: s.out) ∧
       (∀ p, p ≠ s.posOf h x.cell → t.cell p = s.cell p) ∧ (∀ j, j ≠ h → t.hob j = s.hob j) ∧
       t.hob h = { s.hob h with hold := (t.hob h).hold } ∧
       (ok = true → t.cell (s.posOf h x.cell) = (s.cell (s.posOf h x.cell)).fillEntry x.slot x.region x.entry x.data
         (fun i => x.poison.contains i) fun i => x.stored.contains i) ∧
       (ok = false → (t.cell (s.posOf h x.cell)).flags.fault = true ∧
         (t.cell (s.posOf h x.cell)).scratch = ((s.cell (s.posOf h x.cell)).fillEntry x.slot x.region x.entry x.data
           (fun _ => true) fun _ => false).scratch)) ∧
  (∀ (txn : Nat) (data : List Byte) (ok : Bool) (s : State) (x : Txn) (h k r : Nat),
     s.txn txn = some x →
     x.kind = .crossing h k r →
     (((s.hob h).quietBanks x.cell).any ((s.cell (s.posOf h x.cell)).entryBanks x.slot x.region x.entry).contains) = true →
     exec (.blockLanding txn data ok) s = .next s)

/-- STEP_FENCE on an executing static-mode hob at its fence with steps queued, no stop asked for and no breach completes with
one more fence closing, numbered as the step's, and the next step begun at the hob cycle of the fence with the next fence
number, one step fewer queued; with no earlier fence closing the calendars run on, and with one still closing the hob is
frozen with cause 3 in force. STEP_TIMER_EXPIRY on a running sequencer-mode hob whose step has had 20 ms of unheld time,
with a sequencer not halted, completes with the hob STOPPED and no fence committed, and so does STEP_FENCE when every
sequencer has halted and the step has had more than 20 ms. Stack memory and the transactions are as they were. -/
def Obligations.StepsReachTheirFences : Prop :=
  (∀ (hob : HobId) (s : State) (n : Nat),
     (s.hob hob.val).executing = true →
     (s.hob hob.val).seqMode = false →
     (s.hob hob.val).atFence = true →
     s.fenceBreach hob.val = none →
     (s.hob hob.val).closing = [] →
     (s.hob hob.val).run.stepsLeft = n + 1 →
     (s.hob hob.val).run.stopAt = none →
     ∃ t, exec (.stepFence hob) s = .next t ∧ t = { s with hobs := t.hobs, cells := t.cells } ∧ (∀ k, k ≠ hob.val → t.hob k = s.hob k) ∧
       ((t.hob hob.val).closing.map fun c => c.fence) = [(s.hob hob.val).clk.fence] ∧
       (t.hob hob.val).run.stepsLeft = n ∧ (t.hob hob.val).hold = (s.hob hob.val).hold ∧
       (t.hob hob.val).clk.fence = (s.hob hob.val).clk.fence + 1 ∧ (t.hob hob.val).clk.stepStart = (s.hob hob.val).clk.cyc ∧
       (t.hob hob.val).clk.cyc = (s.hob hob.val).clk.cyc ∧
       (t.hob hob.val).clk.step = (s.hob hob.val).rcp.next (s.hob hob.val).clk.step) ∧
  (∀ (hob : HobId) (s : State) (n : Nat) (c : Closing),
     (s.hob hob.val).executing = true →
     (s.hob hob.val).seqMode = false →
     (s.hob hob.val).atFence = true →
     s.fenceBreach hob.val = none →
     (s.hob hob.val).closing = [c] →
     c.failed = none →
     (s.hob hob.val).run.stepsLeft = n + 1 →
     (s.hob hob.val).run.stopAt = none →
     ∃ t, exec (.stepFence hob) s = .next t ∧ t = { s with hobs := t.hobs, cells := t.cells } ∧ (∀ k, k ≠ hob.val → t.hob k = s.hob k) ∧
       ((t.hob hob.val).closing.map fun c => c.fence) = [c.fence, (s.hob hob.val).clk.fence] ∧
       (t.hob hob.val).run.stepsLeft = n ∧ (t.hob hob.val).hold.frozen = true ∧ 3 ∈ (t.hob hob.val).hold.causes) ∧
  (∀ (hob : HobId) (s : State),
     (s.hob hob.val).runs = true →
     (s.hob hob.val).clk.live = true →
     (s.hob hob.val).seqMode = true →
     atStepLimit (s.hob hob.val).clk.unheld = true →
     (s.nums hob.val).all (fun n => (s.cell (s.posOf hob.val n)).allHalted) = false →
     (s.hob hob.val).closing = [] →
     ∃ t, exec (.stepTimerExpiry hob) s = .next t ∧ t.mem = s.mem ∧ t.lines = s.lines ∧ (∀ k, k ≠ hob.val → t.hob k = s.hob k) ∧
       (t.hob hob.val).st = .stopped ∧ (t.hob hob.val).fenceLast = (s.hob hob.val).fenceLast ∧ (t.hob hob.val).closing = [] ∧
       (t.hob hob.val).clk.live = false) ∧
  (∀ (hob : HobId) (s : State),
     (s.hob hob.val).executing = true →
     (s.hob hob.val).seqMode = true →
     overStepLimit (s.hob hob.val).clk.unheld = true →
     (s.nums hob.val).all (fun n => (s.cell (s.posOf hob.val n)).allHalted) = true →
     (s.hob hob.val).closing = [] →
     ∃ t, exec (.stepFence hob) s = .next t ∧ t.mem = s.mem ∧ t.lines = s.lines ∧ (∀ k, k ≠ hob.val → t.hob k = s.hob k) ∧
       (t.hob hob.val).st = .stopped ∧ (t.hob hob.val).fenceLast = (s.hob hob.val).fenceLast ∧ (t.hob hob.val).closing = [] ∧
       (t.hob hob.val).clk.live = false)

/-- FENCE_LOCAL_CLOSE on a running hob with one fence closing, nothing of whose step is outstanding, completes: when every peer
has reported it and no step has met a fault, that fence is the last committed one, it is no longer closing, and the step
after it is the one to resume from; while a peer has not, it has only closed locally. PEER_FENCE_REPORT from a peer of a
fence not yet committed nor reported by it completes with the report kept; with no fence closing nothing else changes. Stack
memory and the redirect table are as they were. -/
def Obligations.FencesCloseAndCommit : Prop :=
  (∀ (hob : HobId) (s : State) (c : Closing),
     (s.hob hob.val).runs = true →
     (s.hob hob.val).clk.live = true →
     (s.hob hob.val).closing = [c] →
     c.localClosed = false →
     c.fault = false →
     c.failed = none →
     s.faulted hob.val = false →
     s.fenceOpen hob.val c.fence = false →
     (s.hob hob.val).peersClosed c.fence = true →
     ∃ t, exec (.fenceLocalClose hob) s = .next t ∧ t.mem = s.mem ∧ t.rdrs = s.rdrs ∧ t.txns = s.txns ∧
       (∀ k, k ≠ hob.val → t.hob k = s.hob k) ∧ (t.hob hob.val).fenceLast = c.fence ∧ (t.hob hob.val).closing = [] ∧
       (t.hob hob.val).nextStep = (s.hob hob.val).rcp.next c.step ∧ (t.hob hob.val).st = (s.hob hob.val).st ∧
       (t.hob hob.val).clk.cyc = (s.hob hob.val).clk.cyc) ∧
  (∀ (hob : HobId) (s : State) (c : Closing),
     (s.hob hob.val).runs = true →
     (s.hob hob.val).closing = [c] →
     c.localClosed = false →
     c.fault = false →
     c.failed = none →
     s.fenceOpen hob.val c.fence = false →
     (s.hob hob.val).peersClosed c.fence = false →
     ∃ t, exec (.fenceLocalClose hob) s = .next t ∧ t = { s with hobs := t.hobs, lnps := t.lnps, out := t.out } ∧
       (∀ k, k ≠ hob.val → t.hob k = s.hob k) ∧ t.hob hob.val = { s.hob hob.val with closing := [{ c with localClosed := true }] }) ∧
  (∀ (hob : HobId) (peer : BitVec 13) (f : Nat) (s : State),
     peer.toNat ∈ (s.hob hob.val).rcp.peers →
     (s.hob hob.val).fenceLast < f →
     (f, peer.toNat) ∉ (s.hob hob.val).peerClosed →
     (s.hob hob.val).closing = [] →
     ∃ t, exec (.peerFenceReport hob peer f) s = .next t ∧ t = { s with hobs := t.hobs } ∧ (∀ k, k ≠ hob.val → t.hob k = s.hob k) ∧
       t.hob hob.val = { s.hob hob.val with peerClosed := (s.hob hob.val).peerClosed ++ [(f, peer.toNat)] }) ∧
  (∀ (hob : HobId) (peer : BitVec 13) (f : Nat) (s : State),
     peer.toNat ∉ (s.hob hob.val).rcp.peers →
     exec (.peerFenceReport hob peer f) s = .next s ∧ exec (.peerFenceFailed hob peer f) s = .next s)

/-- PEER_FENCE_FAILED of the oldest uncommitted fence, and REPLAY_START, on a running hob with an uncommitted step, the hearth
present and fewer than three replays of that step, whose oldest uncommitted step has not failed, complete with HOB_RPL_COUNT
and HOB_RPL_TRIES one higher, no fence closing, the last committed fence as it was, and the clock at the first hob cycle of
the step after it. The same commands after three replays complete with the hob STOPPED, its last committed fence as it was.
Stack memory is as it was. -/
def Obligations.FaultsReplayTheStep : Prop :=
  (∀ (hob : HobId) (peer : BitVec 13) (f : Nat) (s : State),
     peer.toNat ∈ (s.hob hob.val).rcp.peers →
     f = (s.hob hob.val).fenceLast + 1 →
     (s.hob hob.val).runs = true →
     (s.hob hob.val).uncommitted = true →
     s.resets.hearthDown = false →
     (s.hob hob.val).oldestFailed = false →
     (s.hob hob.val).replay.tries ≠ 3 →
     ∃ t, exec (.peerFenceFailed hob peer f) s = .next t ∧ t.mem = s.mem ∧
       ((t.hob hob.val).replay.code.toNat ≠ stEccUe → t.lines = s.lines) ∧
       (t.hob hob.val).replay.count = (s.hob hob.val).replay.count + 1 ∧
       (t.hob hob.val).replay.tries = (s.hob hob.val).replay.tries + 1 ∧ (t.hob hob.val).closing = [] ∧
       (t.hob hob.val).fenceLast = (s.hob hob.val).fenceLast ∧ (t.hob hob.val).clk.cyc = (s.hob hob.val).clk.nextStart ∧
       (t.hob hob.val).clk.step = (s.hob hob.val).nextStep ∧ (t.hob hob.val).clk.fence = (s.hob hob.val).fenceLast + 1) ∧
  (∀ (hob : HobId) (st : Nat) (cell : BitVec 13) (s : State),
     st ∈ [25, 26, 27, 28, 29, 30] →
     (s.hob hob.val).runs = true →
     (s.hob hob.val).uncommitted = true →
     s.resets.hearthDown = false →
     (s.hob hob.val).oldestFailed = false →
     (s.hob hob.val).replay.tries ≠ 3 →
     ∃ t, exec (.replayStart hob st cell) s = .next t ∧ t.mem = s.mem ∧ (st ≠ stEccUe → t.lines = s.lines) ∧
       (t.hob hob.val).replay.count = (s.hob hob.val).replay.count + 1 ∧
       (t.hob hob.val).replay.tries = (s.hob hob.val).replay.tries + 1 ∧ (t.hob hob.val).closing = [] ∧
       (t.hob hob.val).fenceLast = (s.hob hob.val).fenceLast ∧ (t.hob hob.val).clk.cyc = (s.hob hob.val).clk.nextStart ∧
       (t.hob hob.val).clk.step = (s.hob hob.val).nextStep ∧ (t.hob hob.val).clk.fence = (s.hob hob.val).fenceLast + 1) ∧
  (∀ (hob : HobId) (st : Nat) (cell : BitVec 13) (s : State),
     st ∈ [25, 26, 27, 28, 29, 30] →
     (s.hob hob.val).runs = true →
     (s.hob hob.val).uncommitted = true →
     s.resets.hearthDown = false →
     (s.hob hob.val).oldestFailed = false →
     (s.hob hob.val).replay.tries = 3 →
     ∃ t, exec (.replayStart hob st cell) s = .next t ∧ t.mem = s.mem ∧ (t.hob hob.val).st = .stopped ∧
       (t.hob hob.val).fenceLast = (s.hob hob.val).fenceLast) ∧
  (∀ (hob : HobId) (peer : BitVec 13) (f : Nat) (s : State),
     peer.toNat ∈ (s.hob hob.val).rcp.peers →
     f = (s.hob hob.val).fenceLast + 1 →
     (s.hob hob.val).runs = true →
     (s.hob hob.val).uncommitted = true →
     s.resets.hearthDown = false →
     (s.hob hob.val).oldestFailed = false →
     (s.hob hob.val).replay.tries = 3 →
     ∃ t, exec (.peerFenceFailed hob peer f) s = .next t ∧ t.mem = s.mem ∧ (t.hob hob.val).st = .stopped ∧
       (t.hob hob.val).fenceLast = (s.hob hob.val).fenceLast)

/-- STAGED_WRITE_FORWARD with the oldest staged block of a committed step, the port up and authenticated, the block inside the
host buffer and a free place in both pools (the port's and the staging stack's), the staging stack's controller out of
reset, completes: that stack is touched, the block is staged no more, one transaction is added and the block goes out to its
host address; where the block lies beyond the buffer the step's forwarding stops and a stop with ADDRESS is asked for;
before the step has committed nothing happens. CLIENT_WRITE_ACK of a served stack write or of a served port send completes
with the transaction gone. HOST_ACCESS_FAULT on a host read whose step's fence is not closing completes with the read marked
and the step in breach; where its fence is the oldest closing one the hob is STOPPED and the fence not committed; on a
forwarded write the block goes back, as it was, to the front of staging and forwarding stops. -/
def Obligations.HostWritesAreStagedUntilCommit : Prop :=
  (∀ (hob : HobId) (s : State) (w : Staged) (rest : List Staged),
     (s.hob hob.val).staged = w :: rest →
     w.fence ≤ (s.hob hob.val).fenceLast →
     s.hostUp hob.val = true →
     s.hostAuth hob.val = true →
     (s.hob hob.val).fwdBlocked = false →
     4096 * w.block + 4096 ≤ w.bufLen →
     s.sharedUsed (relStack w.stgAddr) < 512 →
     (s.stack (relStack w.stgAddr)).resetting = false →
     s.poolFree { kind := .forward hob.val, write := true, client := (s.hob hob.val).grant.hport.toNat, pool := .host, addr := 4096 * w.block, data := w.data, stamp := w.fence, region := w.xng, also := some (relStack w.stgAddr), staged := some w } = true →
     ∃ t, exec (.stagedWriteForward hob) s = .next t ∧ t = { s with hobs := t.hobs, txns := t.txns, hearth := t.hearth, out := t.out, stk := t.stk } ∧
       (∀ k, k ≠ relStack w.stgAddr → t.stack k = s.stack k) ∧
       (∀ k, k ≠ hob.val → t.hob k = s.hob k) ∧ t.hob hob.val = { s.hob hob.val with staged := rest } ∧
       t.txns.length = s.txns.length + 1 ∧
       t.out = .hostData (s.hob hob.val).grant.hport.toNat (w.buf + 4096 * w.block) w.data :: s.out) ∧
  (∀ (hob : HobId) (s : State) (w : Staged) (rest : List Staged),
     (s.hob hob.val).staged = w :: rest →
     w.fence ≤ (s.hob hob.val).fenceLast →
     s.hostUp hob.val = true →
     s.hostAuth hob.val = true →
     (s.hob hob.val).fwdBlocked = false →
     w.bufLen < 4096 * w.block + 4096 →
     (s.hob hob.val).run.stopAt = none →
     ∃ t e, exec (.stagedWriteForward hob) s = .next t ∧ t = { s with hobs := t.hobs } ∧ (∀ k, k ≠ hob.val → t.hob k = s.hob k) ∧
       t.hob hob.val = { s.hob hob.val with fwdBlocked := true, run := { (s.hob hob.val).run with stopAt := some e } } ∧
       e.status = stAddress ∧ e.info0 = w.xng ∧ e.info1 = w.block) ∧
  (∀ (hob : HobId) (s : State) (w : Staged) (rest : List Staged),
     (s.hob hob.val).staged = w :: rest →
     (s.hob hob.val).fenceLast < w.fence →
     exec (.stagedWriteForward hob) s = .next s) ∧
  (∀ (txn : Nat) (ok : Bool) (s : State) (x : Txn) (h k r : Nat),
     s.txn txn = some x →
     x.kind = .crossing h k r →
     x.write = true →
     x.granted = true →
     x.served = true →
     (x.pool ≠ .lanper ∨ ok = true) →
     ∃ t, exec (.clientWriteAck txn ok) s = .next t ∧ t = { s with txns := s.txns.filter fun u => u.id != txn }) ∧
  (∀ (txn : Nat) (s : State) (x : Txn) (h k r : Nat),
     s.txn txn = some x →
     x.pool = .host →
     x.kind = .crossing h k r →
     x.breach = false →
     ((s.hob h).closing.any fun c => c.fence == x.stamp) = false →
     ∃ t, exec (.hostAccessFault (.txn txn)) s = .next t ∧ t = { s with hobs := t.hobs, txns := t.txns } ∧
       t.txns = s.txns.map (fun u => if u.id = txn then { u with breach := true } else u) ∧ (∀ j, j ≠ h → t.hob j = s.hob j) ∧
       (t.hob h).run.breach.isSome = true ∧ (t.hob h).clk = (s.hob h).clk) ∧
  (∀ (txn : Nat) (s : State) (x : Txn) (h k r : Nat) (c : Closing) (rest : List Closing),
     s.txn txn = some x →
     x.pool = .host →
     x.kind = .crossing h k r →
     x.breach = false →
     (s.hob h).closing = c :: rest →
     c.fence = x.stamp →
     c.failed = none →
     ∃ t, exec (.hostAccessFault (.txn txn)) s = .next t ∧ t.mem = s.mem ∧ t.lines = s.lines ∧ (∀ j, j ≠ h → t.hob j = s.hob j) ∧
       (t.hob h).st = .stopped ∧ (t.hob h).fenceLast = (s.hob h).fenceLast ∧ (t.hob h).closing = []) ∧
  (∀ (txn : Nat) (s : State) (x : Txn) (h : Nat),
     s.txn txn = some x →
     x.pool = .host →
     x.kind = .forward h →
     ∃ t, exec (.hostAccessFault (.txn txn)) s = .next t ∧ t = { s with hobs := t.hobs, txns := s.txns.filter fun u => u.id != txn } ∧
       (∀ j, j ≠ h → t.hob j = s.hob j) ∧ (t.hob h).fwdBlocked = true ∧
       (t.hob h).staged = x.staged.getD { fence := x.stamp, xng := x.region, block := x.addr / 4096, data := x.data } :: (s.hob h).staged)

/-- FAULT_REPORT of a kind that has a weight, other than a taste mismatch, with the hearth present and no injected error of that
code outstanding, completes: the position's history starts with the record of the event and its weight, the score of a
position whose classification is transient is its decayed score plus the weight, at most 1,000, every other position is as
it was, and so are stack memory, transactions and routers. With an injected error of that code outstanding the record has
weight 0, the score stays and that error is no longer outstanding. A kind without a weight leaves the state as it is. -/
def Obligations.FaultsAreChargedToPositions : Prop :=
  (∀ (cell : Pos) (code : FaultCode) (unit : BitVec 12) (s : State) (c w : Nat),
     code.weight = some (c, w) →
     code ≠ .tasteMismatch →
     s.resets.hearthDown = false →
     c ∉ (s.pos cell.idx).injected →
     ∃ t, exec (.faultReport cell code unit) s = .next t ∧ t.mem = s.mem ∧ t.txns = s.txns ∧ t.routers = s.routers ∧
       (∀ q, q ≠ cell.idx → t.pos q = s.pos q) ∧
       (t.pos cell.idx).hist = s.histRec cell.idx c w unit.toNat :: (s.pos cell.idx).hist ∧
       (Health.classify { s.pos cell.idx with hist := s.histRec cell.idx c w unit.toNat :: (s.pos cell.idx).hist } s.lifeS = .transient →
         (t.pos cell.idx).score =
           min (1000 * scoreUnit) (decayScore (s.pos cell.idx).score (s.lifeS - (s.pos cell.idx).scoreAt) + w * scoreUnit))) ∧
  (∀ (cell : Pos) (code : FaultCode) (unit : BitVec 12) (s : State) (c w : Nat),
     code.weight = some (c, w) →
     s.resets.hearthDown = false →
     c ∈ (s.pos cell.idx).injected →
     ∃ t, exec (.faultReport cell code unit) s = .next t ∧ t = { s with health := t.health } ∧ (∀ q, q ≠ cell.idx → t.pos q = s.pos q) ∧
       t.pos cell.idx = { s.pos cell.idx with
         hist := s.histRec cell.idx c 0 unit.toNat :: (s.pos cell.idx).hist, injected := (s.pos cell.idx).injected.erase c }) ∧
  (∀ (cell : Pos) (code : FaultCode) (unit : BitVec 12) (s : State),
     code.weight = none →
     exec (.faultReport cell code unit) s = .next s)

/-- With the hearth present, DECANT_RACK_LOCAL of a readable lidded position at home in a rack with a free gap and no move under
way, its cell's state not lost, completes: the rack's gap stands at that position and the old gap receives.
FUNCTIONAL_CHECK_RESULT of the receiving position completes with the move over; a failure lids that position for good.
DECANT_FAR of a readable lidded home position, its cell's state not lost, whose rack cannot take its work completes with the
cell placed at the candidate found, which is lent and receives, or, with no candidate, with no work left at the position.
STATION_REPLACE of a HELD hob whose only homeless cell has its home back and whose image is readable completes with no cell
homeless and the hob RUNNING. Stack memory is as it was. -/
def Obligations.DecantsMoveWorkOffALid : Prop :=
  (∀ (cell : Pos) (image : Bool) (s : State) (h : Nat),
     (s.cell cell.idx).hob = some h →
     s.resets.hearthDown = false →
     (s.pos cell.idx).state = .lidded →
     s.gapFree cell.rack = true →
     (s.rack cell.rack.idx).receiving = none →
     cell.idx = s.routerPos h (s.cell cell.idx).n →
     (s.cell cell.idx).lost = false →
     ∃ t, exec (.decantRackLocal cell true image) s = .next t ∧ t.mem = s.mem ∧ t.txns = s.txns ∧
       (∀ k, k ≠ h → t.hob k = { s.hob k with fars := (t.hob k).fars }) ∧
       (t.rack cell.rack.idx).gap = BitVec.ofNat 4 cell.inRack ∧ (t.rack cell.rack.idx).receiving = some (s.gapPos cell.rack) ∧
       (∀ r, r ≠ cell.rack.idx → t.rack r = s.rack r)) ∧
  (∀ (cell : Pos) (s : State),
     (s.rack cell.rack.idx).receiving = some cell.idx →
     ∃ t, exec (.functionalCheckResult cell true) s = .next t ∧ t.mem = s.mem ∧ t.health = s.health ∧
       t.rack cell.rack.idx = { s.rack cell.rack.idx with receiving := none } ∧ (∀ r, r ≠ cell.rack.idx → t.rack r = s.rack r)) ∧
  (∀ (cell : Pos) (s : State),
     (s.rack cell.rack.idx).receiving = some cell.idx →
     (s.pos cell.idx).state ≠ .fusedOff →
     ∃ t, exec (.functionalCheckResult cell false) s = .next t ∧ t.mem = s.mem ∧ (∀ q, q ≠ cell.idx → t.pos q = s.pos q) ∧
       t.rack cell.rack.idx = { s.rack cell.rack.idx with receiving := none } ∧
       (t.pos cell.idx).state = .lidded ∧ (t.pos cell.idx).perm = true ∧ (t.pos cell.idx).lidTest = true) ∧
  (∀ (cell : Pos) (image : Bool) (s : State) (h : Nat) (c : Cand),
     (s.cell cell.idx).hob = some h →
     (s.cell cell.idx).lost = false →
     s.resets.hearthDown = false →
     (s.pos cell.idx).state = .lidded →
     s.gapFree cell.rack = false →
     cell.idx = s.routerPos h (s.cell cell.idx).n →
     (s.holdNow h 5).findFar h (s.cell cell.idx).n = .inl c →
     ∃ t, exec (.decantFar { cell := cell, imageOk := image }) s = .next t ∧ t.mem = s.mem ∧ t.txns = s.txns ∧ (∀ k, k ≠ h → t.hob k = s.hob k) ∧
       (∃ f ∈ (t.hob h).fars, f.n = (s.cell cell.idx).n ∧ f.home = cell.idx ∧ f.far = c.pos ∧ f.e = c.e) ∧
       (t.pos c.pos).lent = true ∧ (t.rack (Pos.ofIdx c.pos).rack.idx).receiving = some c.pos) ∧
  (∀ (cell : Pos) (read image : Bool) (s : State) (h r b : Nat),
     (s.cell cell.idx).hob = some h →
     s.resets.hearthDown = false →
     (s.pos cell.idx).state = .lidded →
     s.gapFree cell.rack = false →
     cell.idx = s.routerPos h (s.cell cell.idx).n →
     (s.holdNow h 5).findFar h (s.cell cell.idx).n = .inr (r, b) →
     ∃ t, exec (.decantFar { cell := cell, readable := read, imageOk := image }) s = .next t ∧ t.mem = s.mem ∧ t.lines = s.lines ∧ (∀ k, k ≠ h → t.hob k = s.hob k) ∧ (t.cell cell.idx).hob = none ∧
       t.racks = s.racks) ∧
  (∀ (hob : HobId) (s : State) (x : Homeless),
     (s.hob hob.val).homeless = [x] →
     (s.hob hob.val).st = .held →
     s.resets.hearthDown = false →
     s.usable (s.routerPos hob.val x.n) = true →
     (s.pos (s.routerPos hob.val x.n)).lent = false →
     (s.hob hob.val).replay.tries ≠ 3 →
     ∃ t, exec (.stationReplace hob true) s = .next t ∧ t.mem = s.mem ∧ t.lines = s.lines ∧ (t.hob hob.val).homeless = [] ∧
       (t.hob hob.val).st = .running ∧ (t.hob hob.val).fenceLast = (s.hob hob.val).fenceLast)

/-- With the hearth present: CONDITION_EVAL of a CONDITIONAL position whose conditions match completes with its unmatched time
restarted, and where it carries no work nothing else changes; where its rack's gap is free, no decant runs in the rack and
the hob has no far placement, its work moves and the gap stands there; where the gap is not free the position is LIDDED,
unless the expulsion budget has put it off and its quarter's test has not run; during a decant of the rack it waits.
SCORE_HOURLY completes with every position's score decayed to now and no part of the state but positions changed.
PAROLE_START 24 hours after a score-driven lid of a position without work puts it in PAROLE with no passes. PAROLE_TEST with
clock, voltage and temperature in the window counts a clean test, at the third makes the position SPARE with a score of 400,
voids an invalid one, and lids the position after a failure. RETIRE_ADVICE_EVAL sets the three causes and the advice, which
a pseudo-channel lost with no spare raises as well. -/
def Obligations.ConditionsScoresAndParole : Prop :=
  (∀ (cell : Pos) (s : State),
     s.resets.hearthDown = false →
     (s.pos cell.idx).state = .conditional →
     s.condMatches cell.idx = true →
     (s.cell cell.idx).hob = none →
     ∃ t, exec (.conditionEval cell) s = .next t ∧ t = { s with health := t.health } ∧ (∀ q, q ≠ cell.idx → t.pos q = s.pos q) ∧
       t.pos cell.idx = { s.pos cell.idx with unmatchedAt := s.lifeS }) ∧
  (∀ (cell : Pos) (s : State) (h : Nat),
     s.resets.hearthDown = false →
     (s.pos cell.idx).state = .conditional →
     s.condMatches cell.idx = true →
     (s.cell cell.idx).hob = some h →
     (s.rack cell.rack.idx).receiving = none →
     (cell.rack.all.map Pos.idx).any (fun q => (s.pos q).state == .lidded && (s.cell q).hob.isSome) = false →
     s.gapFree cell.rack = true →
     (s.hob h).fars = [] →
     ∃ t, exec (.conditionEval cell) s = .next t ∧ t.mem = s.mem ∧ t.txns = s.txns ∧
       (t.rack cell.rack.idx).gap = BitVec.ofNat 4 cell.inRack ∧ (∀ r, r ≠ cell.rack.idx → t.rack r = s.rack r)) ∧
  (∀ (cell : Pos) (s : State) (h : Nat),
     s.resets.hearthDown = false →
     (s.pos cell.idx).state = .conditional →
     s.condMatches cell.idx = true →
     (s.cell cell.idx).hob = some h →
     (s.rack cell.rack.idx).receiving = none →
     (cell.rack.all.map Pos.idx).any (fun q => (s.pos q).state == .lidded && (s.cell q).hob.isSome) = false →
     s.gapFree cell.rack = false →
     ((s.pos cell.idx).cond.all && (s.expel.get {} cell.quarter).test) = false →
     ∃ t, exec (.conditionEval cell) s = .next t ∧ t.mem = s.mem ∧ t.cells = s.cells ∧ t.racks = s.racks ∧
       (t.pos cell.idx).state = .lidded ∧ (∀ q, q ≠ cell.idx → t.pos q = s.pos q)) ∧
  (∀ (cell : Pos) (s : State) (h : Nat),
     s.resets.hearthDown = false →
     (s.pos cell.idx).state = .conditional →
     s.condMatches cell.idx = true →
     (s.cell cell.idx).hob = some h →
     ((s.rack cell.rack.idx).receiving.isSome = true ∨ (s.gapFree cell.rack = false ∧ (s.pos cell.idx).cond.all = true ∧ (s.expel.get {} cell.quarter).test = true)) →
     ∃ t, exec (.conditionEval cell) s = .next t ∧ t = { s with health := t.health } ∧ (∀ q, q ≠ cell.idx → t.pos q = s.pos q) ∧
       t.pos cell.idx = { s.pos cell.idx with unmatchedAt := s.lifeS }) ∧
  (∀ (s : State),
     s.resets.hearthDown = false →
     ∃ t, exec .scoreHourly s = .next t ∧ t = { s with health := t.health } ∧ ∀ q : Pos,
       (t.pos q.idx).score = decayScore (s.pos q.idx).score (s.lifeS - (s.pos q.idx).scoreAt) ∧ (t.pos q.idx).scoreAt = s.lifeS ∧
       (t.pos q.idx).hist = (s.pos q.idx).hist ∧ ((s.pos q.idx).state ≠ .conditional → (t.pos q.idx).state = (s.pos q.idx).state)) ∧
  (∀ (cell : Pos) (s : State),
     s.resets.hearthDown = false →
     (s.pos cell.idx).state = .lidded →
     (s.pos cell.idx).perm = false →
     (s.pos cell.idx).lidTest = false →
     (s.cell cell.idx).hob = none →
     (s.pos cell.idx).lidAt + 86400 ≤ s.lifeS →
     ∃ t, exec (.paroleStart cell) s = .next t ∧ t = { s with health := t.health } ∧ (∀ q, q ≠ cell.idx → t.pos q = s.pos q) ∧
       t.pos cell.idx = { s.pos cell.idx with state := .parole, passes := 0, paroled := true, passAt := 0 }) ∧
  (∀ (cell : Pos) (s : State),
     s.resets.hearthDown = false →
     (s.pos cell.idx).state = .parole →
     (s.pos cell.idx).passes = 0 →
     s.windowOk cell.idx = true →
     ∃ t, exec (.paroleTest cell {} true) s = .next t ∧ t = { s with health := t.health, racks := t.racks, hobs := t.hobs } ∧
       (∀ k, t.hob k = { s.hob k with cleanFence := (t.hob k).cleanFence }) ∧
       (∀ q, q ≠ cell.idx → t.pos q = s.pos q) ∧ (t.pos cell.idx).state = .parole ∧ (t.pos cell.idx).passes = 1 ∧
       (t.pos cell.idx).passAt = s.lifeS ∧ (t.pos cell.idx).cleanAt = s.lifeMs) ∧
  (∀ (cell : Pos) (s : State),
     s.resets.hearthDown = false →
     (s.pos cell.idx).state = .parole →
     (s.pos cell.idx).passes = 2 →
     (s.pos cell.idx).passAt + 3600 ≤ s.lifeS →
     s.windowOk cell.idx = true →
     ∃ t, exec (.paroleTest cell {} true) s = .next t ∧ t.mem = s.mem ∧ (∀ k, t.hob k = { s.hob k with cleanFence := (t.hob k).cleanFence }) ∧ (∀ q, q ≠ cell.idx → t.pos q = s.pos q) ∧
       (t.pos cell.idx).state = .spare ∧ (t.pos cell.idx).passes = 3 ∧ (t.pos cell.idx).score = 400 * scoreUnit) ∧
  (∀ (cell : Pos) (result : TestEnd) (s : State),
     s.resets.hearthDown = false →
     (s.pos cell.idx).state = .parole →
     (s.pos cell.idx).passes = 0 →
     ∃ t, exec (.paroleTest cell result false) s = .next t ∧ t = { s with racks := t.racks } ∧
       t.rack cell.rack.idx = { s.rack cell.rack.idx with void := satInc (s.rack cell.rack.idx).void }) ∧
  (∀ (cell : Pos) (unit : BitVec 12) (s : State),
     s.resets.hearthDown = false →
     (s.pos cell.idx).state = .parole →
     (s.pos cell.idx).passes = 0 →
     s.windowOk cell.idx = true →
     ∃ t, exec (.paroleTest cell { pass := false, unit := unit } true) s = .next t ∧ t.mem = s.mem ∧ (∀ q, q ≠ cell.idx → t.pos q = s.pos q) ∧
       (t.pos cell.idx).state = .lidded ∧ (t.pos cell.idx).perm = true) ∧
  (∀ (s : State),
     s.resets.hearthDown = false →
     s.st ≠ .off →
     ∃ t, exec .retireAdviceEval s = .next t ∧ t.mem = s.mem ∧ t.health = s.health ∧ t.hearth = { s.hearth with
       retire := s.adviceWhy != 0 || s.pcLost, retireWhy := BitVec.ofNat 3 s.adviceWhy })

/-- ROTATION_STEP of the racks that carry no hob's work, with rotation on and no far placement on the device, completes with
hobs and transactions as they were, and each such rack that rotates has its gap at the next place of its walk, TASTING where
it was ACTIVE or SPARE; with rotation off nothing changes. SCAN_TEST_DONE of a TASTING position outside a common-cause test,
the hearth present, completes: a pass with clock, voltage and temperature in the window at its start and its end makes it
SPARE, its last clean test now, the rack's passes one higher; an invalid one makes it SPARE and counts void; a failure, with
no arbitration, lids it test-driven. UNTESTED_AGE_ALERT marks the crossing of the threshold once each way. TMT_ROW_START
starts a row test of a position that can carry work; TMT_ROW_DONE goes on to the next row after a pass, remaps a failing row
to a spare row, lids the position where no spare is left or another row of the bank failed in the pass, and ends without a
result after a hold. -/
def Obligations.RotationAndScanTests : Prop :=
  (∀ (s : State) (r : Rack),
     s.rotationOn = true →
     s.hobOfRack r = none →
     s.rotates r = true →
     (s.rack r.idx).nextTest = none →
     (s.pos (r.pos (nextTarget (s.rack r.idx).gap.toNat (s.rack r.idx).dirEast).1).idx).state = .active →
     (nextTarget (s.rack r.idx).gap.toNat (s.rack r.idx).dirEast).1 < 9 →
     (s.rack r.idx).gap.toNat < 9 →
     (∀ k ∈ hobNums, (s.hob k).fars = []) →
     ∃ t, exec (.rotationStep none) s = .next t ∧ t.mem = s.mem ∧ t.hobs = s.hobs ∧ t.txns = s.txns ∧
       (t.rack r.idx).gap = BitVec.ofNat 4 (nextTarget (s.rack r.idx).gap.toNat (s.rack r.idx).dirEast).1 ∧
       (t.rack r.idx).dirEast = (nextTarget (s.rack r.idx).gap.toNat (s.rack r.idx).dirEast).2 ∧
       (t.pos (r.pos (nextTarget (s.rack r.idx).gap.toNat (s.rack r.idx).dirEast).1).idx).state = .tasting) ∧
  (∀ (hob : Option HobId) (s : State),
     s.rotationOn = false →
     exec (.rotationStep hob) s = .next s) ∧
  (∀ (cell : Pos) (unit : BitVec 12) (s : State),
     s.resets.hearthDown = false →
     (s.pos cell.idx).state = .tasting →
     (s.expel.get {} cell.quarter).test = false →
     s.windowOk cell.idx = true →
     (s.rack cell.rack.idx).startOk = true →
     ∃ t, exec (.scanTestDone cell true true unit) s = .next t ∧ t = { s with health := t.health, racks := t.racks, cells := t.cells, hobs := t.hobs } ∧
       (∀ k, t.hob k = { s.hob k with cleanFence := (t.hob k).cleanFence }) ∧
       (∀ q, q ≠ cell.idx → t.pos q = s.pos q) ∧ (t.pos cell.idx).state = .spare ∧ (t.pos cell.idx).cleanAt = s.lifeMs ∧
       (t.rack cell.rack.idx).pass = satInc (s.rack cell.rack.idx).pass) ∧
  (∀ (cell : Pos) (pass : Bool) (unit : BitVec 12) (s : State),
     s.resets.hearthDown = false →
     (s.pos cell.idx).state = .tasting →
     (s.expel.get {} cell.quarter).test = false →
     ∃ t, exec (.scanTestDone cell pass false unit) s = .next t ∧ t = { s with health := t.health, racks := t.racks, cells := t.cells } ∧
       t.pos cell.idx = { s.pos cell.idx with state := .spare } ∧ (t.rack cell.rack.idx).void = satInc (s.rack cell.rack.idx).void) ∧
  (∀ (cell : Pos) (pass window : Bool) (unit : BitVec 12) (s : State),
     s.resets.hearthDown = false →
     (s.pos cell.idx).state = .tasting →
     (s.expel.get {} cell.quarter).test = false →
     (s.rack cell.rack.idx).startOk = false →
     ∃ t, exec (.scanTestDone cell pass window unit) s = .next t ∧ t = { s with health := t.health, racks := t.racks, cells := t.cells } ∧
       t.pos cell.idx = { s.pos cell.idx with state := .spare } ∧ (t.rack cell.rack.idx).void = satInc (s.rack cell.rack.idx).void) ∧
  (∀ (cell : Pos) (unit : BitVec 12) (s : State),
     s.resets.hearthDown = false →
     (s.pos cell.idx).state = .tasting →
     (s.expel.get {} cell.quarter).test = false →
     (∀ q : Pos, (s.cell q.idx).taste.resample ≠ some cell.idx) →
     s.windowOk cell.idx = true →
     (s.rack cell.rack.idx).startOk = true →
     ∃ t, exec (.scanTestDone cell false true unit) s = .next t ∧ t.mem = s.mem ∧ (∀ q, q ≠ cell.idx → t.pos q = s.pos q) ∧
       (t.pos cell.idx).state = .lidded ∧ (t.pos cell.idx).lidTest = true ∧ (t.pos cell.idx).score = 1000 * scoreUnit) ∧
  (∀ (r : Rack) (s : State) (a : Bool),
     s.resets.hearthDown = false →
     s.st ≠ .off →
     a = decide (s.cfgs.tstAlert.toNat * 3600000 ≤ s.untestedMs r) →
     (s.rack r.idx).alerted ≠ a →
     ∃ t, exec (.untestedAgeAlert r) s = .next t ∧ t.mem = s.mem ∧ t.health = s.health ∧ t.rack r.idx = { s.rack r.idx with alerted := a } ∧
       (∀ q, q ≠ r.idx → t.rack q = s.rack q) ∧ (a = false → t = { s with racks := t.racks })) ∧
  (∀ (cell : Pos) (s : State),
     s.inService = true →
     s.tasterPaused = false →
     (s.pos cell.idx).state.backs = true →
     (s.pos cell.idx).tmt.running = false →
     ∃ t, exec (.tmtRowStart cell) s = .next t ∧ t = { s with health := t.health } ∧ (∀ q, q ≠ cell.idx → t.pos q = s.pos q) ∧
       t.pos cell.idx = { s.pos cell.idx with tmt := { (s.pos cell.idx).tmt with
         running := true, began := (t.pos cell.idx).tmt.began,
         busyAt := (t.pos cell.idx).tmt.busyAt, holds := (t.pos cell.idx).tmt.holds } }) ∧
  (∀ (cell : Pos) (s : State),
     (s.pos cell.idx).tmt.running = true →
     s.rowHeld cell.idx = false →
     s.tmtQuiet cell.idx = true →
     ∃ t, exec (.tmtRowDone cell true) s = .next t ∧ t = { s with health := t.health } ∧ (∀ q, q ≠ cell.idx → t.pos q = s.pos q) ∧
       t.pos cell.idx = { s.pos cell.idx with tmt := (s.pos cell.idx).tmt.next (s.lifeS / 60) }) ∧
  (∀ (cell : Pos) (s : State) (k : Nat),
     (s.pos cell.idx).tmt.running = true →
     s.rowHeld cell.idx = false →
     s.tmtQuiet cell.idx = true →
     (s.pos cell.idx).nextSpare (s.pos cell.idx).tmt.bank.toNat = some k →
     (s.pos cell.idx).tmt.badRows = [] →
     (s.pos cell.idx).tmt.row.toNat < 64 →
     ∃ t, exec (.tmtRowDone cell false) s = .next t ∧ t = { s with health := t.health } ∧ (∀ q, q ≠ cell.idx → t.pos q = s.pos q) ∧
       (t.pos cell.idx).rowMap.get 0 ((s.pos cell.idx).tmt.bank.toNat * 64 + (s.pos cell.idx).tmt.row.toNat) = k ∧
       (t.pos cell.idx).state = (s.pos cell.idx).state ∧ (t.pos cell.idx).tmt.running = false) ∧
  (∀ (cell : Pos) (s : State),
     (s.pos cell.idx).tmt.running = true →
     s.rowHeld cell.idx = false →
     s.tmtQuiet cell.idx = true →
     (s.pos cell.idx).tmt.row.toNat < 64 →
     (s.pos cell.idx).nextSpare (s.pos cell.idx).tmt.bank.toNat = none →
     (s.pos cell.idx).state = .active →
     ∃ t, exec (.tmtRowDone cell false) s = .next t ∧ t.mem = s.mem ∧ (∀ q, q ≠ cell.idx → t.pos q = s.pos q) ∧
       (t.pos cell.idx).state = .lidded ∧ (t.pos cell.idx).lidTest = true) ∧
  (∀ (cell : Pos) (s : State) (k : Nat),
     (s.pos cell.idx).tmt.running = true →
     s.rowHeld cell.idx = false →
     s.tmtQuiet cell.idx = true →
     (s.pos cell.idx).nextSpare (s.pos cell.idx).tmt.bank.toNat = some k →
     (s.pos cell.idx).tmt.badRows.any (fun r => r / 72 == (s.pos cell.idx).tmt.bank.toNat) = true →
     (s.pos cell.idx).tmt.row.toNat < 64 →
     (s.pos cell.idx).state = .active →
     ∃ t, exec (.tmtRowDone cell false) s = .next t ∧ t.mem = s.mem ∧ (∀ q, q ≠ cell.idx → t.pos q = s.pos q) ∧
       (t.pos cell.idx).rowMap.get 0 ((s.pos cell.idx).tmt.bank.toNat * 64 + (s.pos cell.idx).tmt.row.toNat) = k ∧
       (t.pos cell.idx).state = .lidded ∧ (t.pos cell.idx).lidTest = true) ∧
  (∀ (cell : Pos) (pass : Bool) (s : State),
     (s.pos cell.idx).tmt.running = true →
     s.rowHeld cell.idx = true →
     ∃ t, exec (.tmtRowDone cell pass) s = .next t ∧ t = { s with health := t.health } ∧ (∀ q, q ≠ cell.idx → t.pos q = s.pos q) ∧
       t.pos cell.idx = { s.pos cell.idx with tmt := { (s.pos cell.idx).tmt with running := false } })

/-- TRACE_WINDOW on a cell of an executing hob at a hob cycle that is a multiple of 256 and not a fence, no window having
started there, completes with a new window that starts there with a snapshot of the cell's units, and the one that ended
held when a sample is due. TASTER_SAMPLE_SHIP of a held window with a free checker in reach and no arbitration sends it to
the first such checker; with its own rack's gap SPARE and busy it moves to the next block and is counted as deferred; with
no checker in reach it is skipped. TASTER_VERDICT from a good checker counts a pass, or sets HOB_TST_FAIL, marks the fault
at the cell or at its closing fence, and keeps the checker for the arbitration. TASTER_SAMPLE_ABANDON 1.8 ms after the
window, no checker having it, counts the sample as skipped. Only cells, and what is named, change. -/
def Obligations.TasterSamples : Prop :=
  (∀ (cell : Pos) (s : State) (h : Nat),
     (s.cell cell.idx).hob = some h →
     (s.hob h).executing = true →
     s.tasterPaused = false →
     (s.hob h).clk.cyc % 256 = 0 →
     (s.hob h).atFence = false →
     ((s.cell cell.idx).taste.cur.recording = false ∨ (s.cell cell.idx).taste.cur.start ≠ (s.hob h).clk.cyc) →
     ∃ t, exec (.traceWindow cell) s = .next t ∧ t = { s with cells := t.cells } ∧ (∀ p, p ≠ cell.idx → t.cell p = s.cell p) ∧
       t.cell cell.idx = { s.cell cell.idx with taste := (t.cell cell.idx).taste } ∧
       (t.cell cell.idx).taste.cur.recording = true ∧ (t.cell cell.idx).taste.cur.start = (s.hob h).clk.cyc ∧
       (t.cell cell.idx).taste.cur.snap = (s.cell cell.idx).units ∧
       ((s.cell cell.idx).taste.cur.recording = true → (s.cell cell.idx).taste.due = true → (s.cell cell.idx).taste.held = none →
         (t.cell cell.idx).taste.held = some { (s.cell cell.idx).taste.cur with recording := false, ended := s.now })) ∧
  (∀ (cell : Pos) (s : State) (k : Nat) (rest : List Nat),
     (s.cell cell.idx).taste.held ≠ none →
     (s.cell cell.idx).taste.checker = none →
     (s.cell cell.idx).taste.resample = none →
     ((s.checkers cell.idx).contains (s.gapPos cell.rack) && s.checkerBusy (s.gapPos cell.rack)) = false →
     (s.checkers cell.idx).filter (fun k => !s.checkerBusy k) = k :: rest →
     ∃ t, exec (.tasterSampleShip cell) s = .next t ∧ t = { s with cells := t.cells, out := t.out } ∧
       (∀ p, p ≠ cell.idx → t.cell p = s.cell p) ∧
       t.cell cell.idx = { s.cell cell.idx with taste := { (s.cell cell.idx).taste with checker := some k } }) ∧
  (∀ (cell : Pos) (s : State),
     (s.cell cell.idx).taste.held ≠ none →
     (s.cell cell.idx).taste.checker = none →
     s.checkers cell.idx = [] →
     ∃ t, exec (.tasterSampleShip cell) s = .next t ∧ t = { s with cells := t.cells, free := t.free } ∧
       (∀ p, p ≠ cell.idx → t.cell p = s.cell p) ∧ (t.cell cell.idx).taste.held = none ∧
       (t.cell cell.idx).taste.stat.skip = satInc (s.cell cell.idx).taste.stat.skip) ∧
  (∀ (cell : Pos) (s : State),
     (s.cell cell.idx).taste.held ≠ none →
     (s.cell cell.idx).taste.checker = none →
     (s.cell cell.idx).taste.resample = none →
     (s.checkers cell.idx).contains (s.gapPos cell.rack) = true →
     s.checkerBusy (s.gapPos cell.rack) = true →
     ∃ t, exec (.tasterSampleShip cell) s = .next t ∧ t = { s with cells := t.cells } ∧ (∀ p, p ≠ cell.idx → t.cell p = s.cell p) ∧
       (t.cell cell.idx).taste.held = none ∧ (t.cell cell.idx).taste.nextAt = (s.cell cell.idx).taste.blocks + 1 ∧
       (t.cell cell.idx).taste.stat.defer = satInc (s.cell cell.idx).taste.stat.defer) ∧
  (∀ (cell : Pos) (s : State) (h k : Nat) (w : TraceHalf),
     (s.cell cell.idx).hob = some h →
     (s.cell cell.idx).taste.held = some w →
     (s.cell cell.idx).taste.checker = some k →
     (s.cell cell.idx).taste.resample = none →
     s.checkerGood k = true →
     ∃ t, exec (.tasterVerdict cell false) s = .next t ∧ t = { s with cells := t.cells, health := t.health, free := t.free } ∧
       (∀ p, p ≠ cell.idx → t.cell p = s.cell p) ∧ (t.cell cell.idx).taste.held = none ∧
       (t.cell cell.idx).taste.stat.pass = satInc (s.cell cell.idx).taste.stat.pass) ∧
  (∀ (cell : Pos) (s : State) (h k : Nat) (w : TraceHalf),
     (s.cell cell.idx).hob = some h →
     (s.cell cell.idx).taste.held = some w →
     (s.cell cell.idx).taste.checker = some k →
     (s.cell cell.idx).taste.resample = none →
     s.checkerGood k = true →
     (s.hob h).closing = [] →
     ∃ t, exec (.tasterVerdict cell true) s = .next t ∧ t = { s with cells := t.cells } ∧
       (t.cell cell.idx).taste.held = none ∧ (t.cell cell.idx).taste.stat.fail = true ∧
       (t.cell cell.idx).taste.resample = some k ∧ (t.cell (s.posOf h (s.cell cell.idx).n)).flags.fault = true) ∧
  (∀ (cell : Pos) (s : State) (w : TraceHalf),
     (s.cell cell.idx).taste.held = some w →
     (s.cell cell.idx).taste.checker = none →
     w.ended + 1800000 ≤ s.now →
     ∃ t, exec (.tasterSampleAbandon cell) s = .next t ∧ t = { s with cells := t.cells, free := t.free } ∧
       (∀ p, p ≠ cell.idx → t.cell p = s.cell p) ∧ (t.cell cell.idx).taste.held = none ∧
       (t.cell cell.idx).taste.stat.skip = satInc (s.cell cell.idx).taste.stat.skip)

/-- PERTURB_SET by an authorised installer or maker, the device up, the log writing and the setting allowed, completes with the
setting stored, its lifetime started and the action logged. PERTURB_HOLD of a forced-hold setting, at a hob cycle of its
period from which holds fall, freezes the hob with cause 7 for its held edges. PERTURB_INJECT of an error setting that has
errors left and is due counts one more when the error has an item to fall on. PERTURB_EXPIRY at the end of the lifetime
clears the setting's valid bit. -/
def Obligations.PerturbSettings : Prop :=
  (∀ (who : Who) (i : Fin 16) (v : BitVec 128) (s : State),
     s.st ≠ .off →
     s.down = false →
     s.resets.hearthDown = false →
     s.logFail = false →
     s.authorised who [.installer, .maker] = true →
     s.perturbRefused i.val (perturbOf v.toNat) = 0 →
     ∃ t, exec (.perturbSet who i v) s = .next t ∧ t.mem = s.mem ∧ t.cells = s.cells ∧ t.health = s.health ∧ s.logSeq < t.logSeq ∧
       t.perturbs.get {} i.val = { perturbOf v.toNat with
         ends := s.now + (perturbOf v.toNat).life.toNat * secNs, from_ := (s.hob (perturbOf v.toNat).hob.toNat).clk.cyc + 64 } ∧
       (∀ j, j ≠ i.val → t.perturbs.get {} j = s.perturbs.get {} j)) ∧
  (∀ (i : Fin 16) (s : State),
     (s.perturbs.get {} i.val).valid = true →
     (s.perturbs.get {} i.val).kind = 4 →
     (s.hob (s.perturbs.get {} i.val).hob.toNat).executing = true →
     (s.perturbs.get {} i.val).from_ ≤ (s.hob (s.perturbs.get {} i.val).hob.toNat).clk.cyc →
     (s.hob (s.perturbs.get {} i.val).hob.toNat).clk.cyc % bits 47 16 (s.perturbs.get {} i.val).param.toNat = 0 →
     (s.perturbs.get {} i.val).lastAt ≠ some (s.hob (s.perturbs.get {} i.val).hob.toNat).clk.cyc →
     ∃ t, exec (.perturbHold i) s = .next t ∧ t = { s with hobs := t.hobs, perturbs := t.perturbs } ∧
       (t.hob (s.perturbs.get {} i.val).hob.toNat).hold.frozen = true ∧ 7 ∈ (t.hob (s.perturbs.get {} i.val).hob.toNat).hold.causes ∧
       (t.hob (s.perturbs.get {} i.val).hob.toNat).hold.forcedTo =
         (s.hob (s.perturbs.get {} i.val).hob.toNat).hold.cyc.toNat + bits 15 0 (s.perturbs.get {} i.val).param.toNat) ∧
  (∀ (i : Fin 16) (word : Nat) (s u : State) (code : Option Nat),
     (s.perturbs.get {} i.val).valid = true →
     (s.perturbs.get {} i.val).kind = 5 →
     (s.perturbs.get {} i.val).done < bits 15 8 (s.perturbs.get {} i.val).param.toNat →
     (s.perturbs.get {} i.val).lastAt = none →
     (s.hob (s.perturbs.get {} i.val).hob.toNat).executing = true →
     s.injectError (s.perturbs.get {} i.val).hob.toNat (s.perturbs.get {} i.val).tidx.toNat (bits 3 0 (s.perturbs.get {} i.val).param.toNat) word = some (u, code) →
     ∃ t, exec (.perturbInject i word) s = .next t ∧ t = { u with health := t.health, perturbs := t.perturbs } ∧
       (t.perturbs.get {} i.val).done = (u.perturbs.get {} i.val).done + 1 ∧ (t.perturbs.get {} i.val).lastAt = some s.now) ∧
  (∀ (i : Fin 16) (s : State),
     (s.perturbs.get {} i.val).valid = true →
     (s.perturbs.get {} i.val).ends ≤ s.now →
     ∃ t, exec (.perturbExpiry i) s = .next t ∧ t.mem = s.mem ∧ t.cells = s.cells ∧
       t.perturbs.get {} i.val = { s.perturbs.get {} i.val with valid := false } ∧
       (∀ j, j ≠ i.val → t.perturbs.get {} j = s.perturbs.get {} j))

/-- For a ready sequencer of a sequencer-mode cell standing at a word whose check bits do not lose it: SEQ_ACT_FIRE of an ACT
word that is blocked leaves it there with the wait code, and of a griddle, vector or epilogue ACT that is not, and that is
granted its unit and bank ports, does its unit's work on its inputs and goes on to the next word; SEQ_CTR sets the named
counter to N and goes on; SEQ_JUMP decrements the counter and goes to the target while the result is not zero, to the next
word otherwise; SEQ_HALT at a HALT word, or past its words, halts it. SEQ_SEND_RETRY 1 µs after SEND_FULL of a message to
this device sends the same descriptor again. Only that cell changes, and for the retry the router and the outputs. -/
def Obligations.SequencersExecuteTheirWords : Prop :=
  (∀ (cell : Pos) (slot : SlotId) (s : State) (h : Nat) (z : Hob) (c : Cell) (x : Slot) (w code : Nat),
     s.seqReady cell.idx slot.val = some (h, z, c, x) →
     c.seqWord x = some w →
     (c.seqFetch x).1 = false →
     sqKind w = 0 →
     x.blocked (actOf w) = some code →
     ∃ t, exec (.seqActFire cell slot) s = .next t ∧ t = { s with cells := t.cells } ∧ (∀ p, p ≠ cell.idx → t.cell p = s.cell p) ∧
       ((t.cell cell.idx).slot slot.val).seq = { x.seq with wait := BitVec.ofNat 3 code }) ∧
  (∀ (cell : Pos) (slot : SlotId) (s : State) (h : Nat) (z : Hob) (c : Cell) (x : Slot) (w : Nat),
     s.seqReady cell.idx slot.val = some (h, z, c, x) →
     c.seqWord x = some w →
     (c.seqFetch x).1 = false →
     sqKind w = 0 →
     x.blocked (actOf w) = none →
     (actOf w).unit < 3 →
     (c.seqFetch x).2.sendHeld slot.val = none →
     (c.seqFetch x).2.grants z.clk.cyc slot.val (actOf w) = true →
     ∃ t, exec (.seqActFire cell slot) s = .next t ∧ t = { s with cells := t.cells, health := t.health } ∧
       (∀ p, p ≠ cell.idx → t.cell p = s.cell p ∧ t.pos p = s.pos p) ∧
       ((t.cell cell.idx).slot slot.val).seq.pc = BitVec.ofNat 13 (x.seq.pc.toNat + 1) ∧
       ((t.cell cell.idx).slot slot.val).seq.wait = 0 ∧
       (t.cell cell.idx).units = ((c.seqFetch x).2.fire slot.val (actOf w)).1.units ∧
       (t.cell cell.idx).scratch = ((c.seqFetch x).2.fire slot.val (actOf w)).1.scratch) ∧
  (∀ (cell : Pos) (slot : SlotId) (s : State) (h : Nat) (z : Hob) (c : Cell) (x : Slot) (w : Nat),
     s.seqReady cell.idx slot.val = some (h, z, c, x) →
     c.seqWord x = some w →
     (c.seqFetch x).1 = false →
     sqKind w = 1 →
     ∃ t, exec (.seqCtr cell slot) s = .next t ∧ t = { s with cells := t.cells } ∧ (∀ p, p ≠ cell.idx → t.cell p = s.cell p) ∧
       ((t.cell cell.idx).slot slot.val).seqCtr.get 0 (sqCtr w) = BitVec.ofNat 16 (sqN w) ∧
       ((t.cell cell.idx).slot slot.val).seq.pc = BitVec.ofNat 13 (x.seq.pc.toNat + 1) ∧
       (t.cell cell.idx).scratch = (s.cell cell.idx).scratch ∧ (t.cell cell.idx).units = (s.cell cell.idx).units) ∧
  (∀ (cell : Pos) (slot : SlotId) (s : State) (h : Nat) (z : Hob) (c : Cell) (x : Slot) (w : Nat),
     s.seqReady cell.idx slot.val = some (h, z, c, x) →
     c.seqWord x = some w →
     (c.seqFetch x).1 = false →
     sqKind w = 2 →
     ∃ t, exec (.seqJump cell slot) s = .next t ∧ t = { s with cells := t.cells } ∧ (∀ p, p ≠ cell.idx → t.cell p = s.cell p) ∧
       ((t.cell cell.idx).slot slot.val).seqCtr.get 0 (sqCtr w) = x.seqCtr.get 0 (sqCtr w) - 1 ∧
       ((t.cell cell.idx).slot slot.val).seq.pc =
         BitVec.ofNat 13 (if x.seqCtr.get 0 (sqCtr w) - 1 = 0 then x.seq.pc.toNat + 1 else sqTgt w) ∧
       (t.cell cell.idx).scratch = (s.cell cell.idx).scratch ∧ (t.cell cell.idx).units = (s.cell cell.idx).units) ∧
  (∀ (cell : Pos) (slot : SlotId) (s : State) (h : Nat) (z : Hob) (c : Cell) (x : Slot),
     s.seqReady cell.idx slot.val = some (h, z, c, x) →
     (c.seqWord x).all (fun w => sqKind w == 3) = true →
     (c.seqWord x = none ∨ (c.seqFetch x).1 = false) →
     ∃ t, exec (.seqHalt cell slot) s = .next t ∧ t = { s with cells := t.cells } ∧ (∀ p, p ≠ cell.idx → t.cell p = s.cell p) ∧
       ((t.cell cell.idx).slot slot.val).seq = { x.seq with halted := true, wait := 0 } ∧
       (t.cell cell.idx).scratch = (s.cell cell.idx).scratch ∧ (t.cell cell.idx).units = (s.cell cell.idx).units) ∧
  (∀ (cell : Pos) (slot : SlotId) (s : State) (h : Nat) (z : Hob) (c : Cell) (x : Slot) (q : Send),
     s.seqReady cell.idx slot.val = some (h, z, c, x) →
     (c.sends.find? fun q => leAt q.desc 0x1E 1 == slot.val && q.waiting && q.repliedAt + usNs ≤ s.now) = some q →
     msgRemote q.desc = none →
     s.posOf h c.n = cell.idx →
     ∃ t, exec (.seqSendRetry cell slot) s = .next t ∧ t = { s with cells := t.cells, routers := t.routers, out := t.out } ∧
       (∀ p, p ≠ cell.idx → t.cell p = s.cell p) ∧
       t.out = .message h (.cell c.n slot.val) (leAt q.desc 4 2) s.now q.desc :: s.out)

/-- MSG_HEADER_ARRIVAL at a position whose message engine serves a cell, not held back by the calendar of a far placement,
completes: a header older than 32 µs is discarded without a reply; one whose hob tag is not the cell's, or that a port not
assigned to that hob installed, is discarded and counted in that hob's health telemetry; one that fails a check of R178 is
answered with that status and counted by the window; an accepted NOTE with no landing before it lands in the tail entry of
its region with its header, is counted and answered 0; an accepted SEND, with room in its stack's pool where its source is a
stack, reserves the tail entry of its region and waits for its data, and no answer goes out yet. The first header of a send
of a host port or the hearth also starts that send's record in the hob (the model's choice, log entry 40). Stack memory,
every other cell and every other hob are as they were. MSG_LANDING_DONE of the only landing of a cell, all of its data there
within 32 µs of launch and its stack's controller out of reset, completes, beside what reading its stack source does, with
it gone, its data in its entry, the window's count one higher and the answer 0, or, when the data differs from the CRC-32C
of its descriptor, the entry poisoned, the answer 5 and the fault flag set. MSG_LANDING_TIMEOUT 32 µs after launch completes
with the landing gone, what has come of it in its entry and the rest poisoned, its count one higher and the answer 4; before
that it leaves the state as it is. -/
def Obligations.MessageHeadersAreAnswered : Prop :=
  (∀ (cell : Pos) (m : Msg) (s : State) (h n : Nat),
     s.engineOf cell.idx = some (h, n) →
     m.stamp + 32000 < s.now →
     ∃ t, exec (.msgHeaderArrival cell m) s = .next t ∧ t = { s with cells := t.cells, hobs := t.hobs, lnps := t.lnps } ∧
       (∀ k, k ≠ h → t.hob k = s.hob k) ∧ t.hob h = { s.hob h with mcast := (t.hob h).mcast } ∧
       (∀ p, p ≠ cell.idx → t.cell p = s.cell p) ∧
       t.cell cell.idx = { s.cell cell.idx with engineIn := (t.cell cell.idx).engineIn }) ∧
  (∀ (cell : Pos) (m : Msg) (s : State) (h n : Nat),
     s.engineOf cell.idx = some (h, n) →
     s.now ≤ m.stamp + 32000 →
     s.msgDelayed h n m = false →
     s.tagOk m h = false →
     ∃ t, exec (.msgHeaderArrival cell m) s = .next t ∧ t = { s with cells := t.cells, hobs := t.hobs, lnps := t.lnps } ∧
       (∀ p, p ≠ cell.idx → t.cell p = s.cell p) ∧ (∀ k, k ≠ h → t.hob k = s.hob k) ∧
       t.cell cell.idx = { s.cell cell.idx with engineIn := (t.cell cell.idx).engineIn } ∧
       t.hob h = { s.hob h with tagDrops := (s.hob h).tagDrops + 1, mcast := (t.hob h).mcast }) ∧
  (∀ (cell : Pos) (m : Msg) (s : State) (h n st : Nat),
     s.engineOf cell.idx = some (h, n) →
     s.posOf h n = cell.idx →
     s.now ≤ m.stamp + 32000 →
     s.msgDelayed h n m = false →
     s.tagOk m h = true →
     ((s.heldSend h m).modCell cell.idx fun c => c.takeHeader m).headerStatus h n cell.idx m = some st →
     ∃ t a b, exec (.msgHeaderArrival cell m) s = .next t ∧ t = { s with cells := t.cells, hobs := t.hobs, routers := t.routers, out := t.out } ∧
       (∀ k, k ≠ h → t.hob k = s.hob k) ∧ t.hob h = { s.hob h with mcast := (t.hob h).mcast } ∧
       (∀ p, p ≠ cell.idx → t.cell p = s.cell p) ∧ t.out = .reply m.origin (msgTag m.desc) st a b :: s.out ∧
       ((t.cell cell.idx).win (msgWin m.desc)).refused =
         (if st = 0 then ((s.cell cell.idx).win (msgWin m.desc)).refused else satInc ((s.cell cell.idx).win (msgWin m.desc)).refused)) ∧
  (∀ (cell : Pos) (m : Msg) (s : State) (h n : Nat),
     s.engineOf cell.idx = some (h, n) →
     s.posOf h n = cell.idx →
     s.now ≤ m.stamp + 32000 →
     s.msgDelayed h n m = false →
     s.tagOk m h = true →
     ((s.heldSend h m).modCell cell.idx fun c => c.takeHeader m).headerStatus h n cell.idx m = none →
     msgKind m.desc = 1 →
     msgStack m.desc = none →
     (s.cell cell.idx).landings = [] →
     ∃ t, exec (.msgHeaderArrival cell m) s = .next t ∧
       t = { s with cells := t.cells, hobs := t.hobs, routers := t.routers, hearth := t.hearth, out := t.out } ∧
       (∀ k, k ≠ h → t.hob k = s.hob k) ∧ t.hob h = { s.hob h with mcast := (t.hob h).mcast } ∧
       (∀ p, p ≠ cell.idx → t.cell p = s.cell p) ∧ t.out = .reply m.origin (msgTag m.desc) 0 0 0 :: s.out ∧
       (t.cell cell.idx).landings = [] ∧
       ((t.cell cell.idx).win (msgWin m.desc)).landed = satInc ((s.cell cell.idx).win (msgWin m.desc)).landed ∧
       (t.cell cell.idx).scratch = (((s.cell cell.idx).reserve ((s.cell cell.idx).win (msgWin m.desc)).slot.toNat ((s.cell cell.idx).win (msgWin m.desc)).region.toNat).2.writeEntry ((s.cell cell.idx).win (msgWin m.desc)).slot.toNat ((s.cell cell.idx).win (msgWin m.desc)).region.toNat ((s.cell cell.idx).reserve ((s.cell cell.idx).win (msgWin m.desc)).slot.toNat ((s.cell cell.idx).win (msgWin m.desc)).region.toNat).1 m.desc
           (fun _ => false) fun _ => false).scratch ∧
       (t.cell cell.idx).wordPoison = (((s.cell cell.idx).reserve ((s.cell cell.idx).win (msgWin m.desc)).slot.toNat ((s.cell cell.idx).win (msgWin m.desc)).region.toNat).2.writeEntry ((s.cell cell.idx).win (msgWin m.desc)).slot.toNat ((s.cell cell.idx).win (msgWin m.desc)).region.toNat ((s.cell cell.idx).reserve ((s.cell cell.idx).win (msgWin m.desc)).slot.toNat ((s.cell cell.idx).win (msgWin m.desc)).region.toNat).1 m.desc
           (fun _ => false) fun _ => false).wordPoison) ∧
  (∀ (cell : Pos) (m : Msg) (s : State) (h n : Nat),
     s.engineOf cell.idx = some (h, n) →
     s.now ≤ m.stamp + 32000 →
     s.msgDelayed h n m = false →
     s.tagOk m h = true →
     ((s.heldSend h m).modCell cell.idx fun c => c.takeHeader m).headerStatus h n cell.idx m = none →
     msgKind m.desc ≠ 1 →
     (∀ a, msgStack m.desc = some a → s.sharedUsed (relStack a) < 512) →
     (∀ l ∈ (s.cell cell.idx).landings, l.ready = none) →
     ∃ t l, exec (.msgHeaderArrival cell m) s = .next t ∧ t = { s with cells := t.cells, hobs := t.hobs, hearth := t.hearth } ∧
       (∀ k, k ≠ h → t.hob k = s.hob k) ∧ t.hob h = { s.hob h with mcast := (t.hob h).mcast } ∧
       (∀ p, p ≠ cell.idx → t.cell p = s.cell p) ∧ (t.cell cell.idx).landings = (s.cell cell.idx).landings ++ [l] ∧
       l.win = msgWin m.desc ∧ l.tag = msgTag m.desc ∧ l.origin = m.origin ∧ l.stamp = m.stamp ∧ l.ready = none ∧
       l.entry = ((s.cell cell.idx).reserve ((s.cell cell.idx).win (msgWin m.desc)).slot.toNat ((s.cell cell.idx).win (msgWin m.desc)).region.toNat).1 ∧ l.slot = ((s.cell cell.idx).win (msgWin m.desc)).slot.toNat ∧ l.region = ((s.cell cell.idx).win (msgWin m.desc)).region.toNat ∧
       (t.cell cell.idx).wins = (s.cell cell.idx).wins) ∧
  (∀ (cell : Pos) (i : Nat) (data : List Byte) (ok : Bool) (s u : State) (h n : Nat) (l : Landing) (bytes : List Byte) (bad : List Nat),
     s.engineOf cell.idx = some (h, n) →
     s.posOf h n = cell.idx →
     (s.cell cell.idx).landings = [l] →
     l.id = i →
     l.ready = none →
     (∀ k, l.stack = some k → (s.stack k).resetting = false) →
     s.now ≤ l.stamp + 32000 →
     s.landingData h cell.idx l data = (bytes, bad, u) →
     (u.cell cell.idx).landings = [l] →
     u.posOf h n = cell.idx →
     bytes.length = msgLen l.desc →
     ∃ t, exec (.msgLandingDone cell i data ok) s = .next t ∧ t = { u with cells := t.cells, routers := t.routers, out := t.out } ∧
       (∀ p, p ≠ cell.idx → t.cell p = u.cell p) ∧
       t.out = .reply l.origin l.tag (if (ok && (crc32c bytes).toNat == msgCrc l.desc) = true then 0 else 5) 0 0 :: u.out ∧
       (t.cell cell.idx).landings = [] ∧
       ((t.cell cell.idx).win l.win).landed = satInc ((u.cell cell.idx).win l.win).landed ∧
       ((ok && (crc32c bytes).toNat == msgCrc l.desc) = false → (t.cell cell.idx).flags.fault = true) ∧
       (t.cell cell.idx).scratch = ((u.cell cell.idx).writeEntry l.slot l.region l.entry bytes
           (fun i => !(ok && (crc32c bytes).toNat == msgCrc l.desc) || bad.contains i) fun _ => false).scratch ∧
       (t.cell cell.idx).wordPoison = ((u.cell cell.idx).writeEntry l.slot l.region l.entry bytes
           (fun i => !(ok && (crc32c bytes).toNat == msgCrc l.desc) || bad.contains i) fun _ => false).wordPoison) ∧
  (∀ (cell : Pos) (i : Nat) (s : State) (h n : Nat) (l : Landing),
     s.engineOf cell.idx = some (h, n) →
     s.posOf h n = cell.idx →
     (s.cell cell.idx).landings = [l] →
     l.id = i →
     l.ready = none →
     l.stamp + 32000 ≤ s.now →
     ∃ t, exec (.msgLandingTimeout cell i) s = .next t ∧ t = { s with cells := t.cells, routers := t.routers, out := t.out } ∧
       (∀ p, p ≠ cell.idx → t.cell p = s.cell p) ∧ t.out = .reply l.origin l.tag 4 0 0 :: s.out ∧
       (t.cell cell.idx).landings = [] ∧
       ((t.cell cell.idx).win l.win).landed = satInc ((s.cell cell.idx).win l.win).landed ∧
       (t.cell cell.idx).scratch = ((s.cell cell.idx).writeEntry l.slot l.region l.entry (((s.cell cell.idx).engineIn.filter fun f => f.key == some (l.origin.key l.tag)).flatMap fun f => bytesAt f.data 0 128)
           (fun i => 2 * ((s.cell cell.idx).engineIn.filter fun f => f.key == some (l.origin.key l.tag)).length ≤ i || (((s.cell cell.idx).engineIn.filter fun f => f.key == some (l.origin.key l.tag)).getD (i / 2) {}).poison) fun _ => false).scratch ∧
       (t.cell cell.idx).wordPoison = ((s.cell cell.idx).writeEntry l.slot l.region l.entry (((s.cell cell.idx).engineIn.filter fun f => f.key == some (l.origin.key l.tag)).flatMap fun f => bytesAt f.data 0 128)
           (fun i => 2 * ((s.cell cell.idx).engineIn.filter fun f => f.key == some (l.origin.key l.tag)).length ≤ i || (((s.cell cell.idx).engineIn.filter fun f => f.key == some (l.origin.key l.tag)).getD (i / 2) {}).poison) fun _ => false).wordPoison) ∧
  (∀ (cell : Pos) (i : Nat) (s : State) (l : Landing),
     ((s.cell cell.idx).landings.find? fun l => l.id == i) = some l →
     s.now < l.stamp + 32000 →
     exec (.msgLandingTimeout cell i) s = .next s)

/-- With the hob not held, MSG_REPLY of status 0 to a sequencer's single send completes with the send gone and the sequencer at
the next word; of status 1, held or not, with the send waiting, its place in a port's pool given back, and, where the hob is
not held, wait code 5; of any other status with the sequencer halted and its queue generation advanced. SEND_TIMEOUT of a
rim origin's single send that has run out completes with it gone and status 4 told. MSG_WAIT_RELAUNCH 1 µs after status 1
launches the same descriptor, to this device, with the same tag. MCAST_RELAUNCH 2 µs after status 1 launches to that target
once more. -/
def Obligations.SendsEndOrGoAgain : Prop :=
  (∀ (hob : HobId) (n : Nat) (slot : Nat) (tag : BitVec 16) (tg : Nat) (st : Fin 8) (s : State) (q : Send),
     s.sendOf hob.val (.cell n slot) tag.toNat = some q →
     q.tag = tag.toNat →
     q.targets = [] →
     st.val = 0 →
     (s.hob hob.val).hold.frozen = false →
     ∃ t, exec (.msgReply hob (.cell n slot) tag tg st) s = .next t ∧ t = { s with cells := t.cells } ∧
       (∀ p, p ≠ s.posOf hob.val n → t.cell p = s.cell p) ∧
       (t.cell (s.posOf hob.val n)).sends = (s.cell (s.posOf hob.val n)).sends.filter (fun x => x.tag != tag.toNat) ∧
       ((t.cell (s.posOf hob.val n)).slot slot).seq.pc = ((s.cell (s.posOf hob.val n)).slot slot).seq.pc + 1 ∧
       ((t.cell (s.posOf hob.val n)).slot slot).seq.wait = 0) ∧
  (∀ (hob : HobId) (n : Nat) (slot : Nat) (tag : BitVec 16) (tg : Nat) (st : Fin 8) (s : State) (q : Send),
     s.sendOf hob.val (.cell n slot) tag.toNat = some q →
     q.targets = [] →
     st.val = 1 →
     ∃ t, exec (.msgReply hob (.cell n slot) tag tg st) s = .next t ∧
       t = { s with cells := t.cells, txns := s.txns.filter fun x => x.kind != TxnKind.message hob.val (.cell n slot) tag.toNat } ∧
       (∀ p, p ≠ s.posOf hob.val n → t.cell p = s.cell p) ∧
       (t.cell (s.posOf hob.val n)).sends = (s.cell (s.posOf hob.val n)).sends.map
         (fun x => if x.tag = tag.toNat then { x with waiting := true, repliedAt := s.now } else x) ∧
       ((s.hob hob.val).hold.frozen = true → ((t.cell (s.posOf hob.val n)).slot slot).seq = ((s.cell (s.posOf hob.val n)).slot slot).seq) ∧
       ((s.hob hob.val).hold.frozen = false →
         ((t.cell (s.posOf hob.val n)).slot slot).seq = { ((s.cell (s.posOf hob.val n)).slot slot).seq with wait := 5 })) ∧
  (∀ (hob : HobId) (n : Nat) (slot : Nat) (tag : BitVec 16) (tg : Nat) (st : Fin 8) (s : State) (q : Send),
     s.sendOf hob.val (.cell n slot) tag.toNat = some q →
     q.tag = tag.toNat →
     q.targets = [] →
     2 ≤ st.val →
     (s.hob hob.val).hold.frozen = false →
     ∃ t, exec (.msgReply hob (.cell n slot) tag tg st) s = .next t ∧ t = { s with cells := t.cells } ∧
       (∀ p, p ≠ s.posOf hob.val n → t.cell p = s.cell p) ∧
       ((t.cell (s.posOf hob.val n)).slot slot).seq.wait = (if st.val = 4 then 7 else 6) ∧
       ((t.cell (s.posOf hob.val n)).slot slot).qgen = ((s.cell (s.posOf hob.val n)).slot slot).qgen + 1) ∧
  (∀ (hob : HobId) (tag : BitVec 16) (s : State) (q : Send),
     s.sendOf hob.val .hearth tag.toNat = some q →
     q.tag = tag.toNat →
     q.targets = [] →
     q.ref = none →
     (if q.wait then q.first else q.launched) + s.sendTimeoutNs hob.val (bit 15 (leAt q.desc 6 2)) ≤ s.now →
     ∃ t m, exec (.sendTimeout hob .hearth tag) s = .next t ∧ t = { s with hobs := t.hobs, txns := t.txns, out := t.out } ∧
       (∀ k, k ≠ hob.val → t.hob k = s.hob k) ∧
       t.hob hob.val = { s.hob hob.val with mcast := (s.hob hob.val).mcast.filter fun x => x.tag != tag.toNat } ∧
       t.out = .mgt "send" [hob.val, tag.toNat, 4, m] :: s.out) ∧
  (∀ (hob : HobId) (tag : BitVec 16) (s : State) (q : Send),
     s.sendOf hob.val .hearth tag.toNat = some q →
     q.wait = true →
     q.waiting = true →
     q.repliedAt + 1000 ≤ s.now →
     msgRemote q.desc = none →
     ∃ t, exec (.msgWaitRelaunch hob .hearth tag) s = .next t ∧
       t = { s with hobs := t.hobs, routers := t.routers, edgeIn := t.edgeIn, rimIn := t.rimIn, out := t.out } ∧
       (∀ k, k ≠ hob.val → t.hob k = s.hob k) ∧
       t.hob hob.val = { s.hob hob.val with mcast := (s.hob hob.val).mcast.map fun x =>
         if x.tag = tag.toNat then { x with waiting := false, launched := s.now } else x } ∧
       t.out = .message hob.val .hearth (leAt q.desc 4 2) s.now q.desc :: s.out) ∧
  (∀ (hob : HobId) (tag : BitVec 16) (tg : Nat) (s : State) (q : Send) (m : McTarget) (a : Nat),
     s.sendOf hob.val .hearth tag.toNat = some q →
     m ∈ q.targets →
     m.cell = tg →
     m.tries < 8 →
     m.fullAt = some a →
     a + 2000 ≤ s.now →
     msgRemote q.desc = none →
     ∃ t, exec (.mcastRelaunch hob .hearth tag tg) s = .next t ∧
       t = { s with hobs := t.hobs, routers := t.routers, edgeIn := t.edgeIn, rimIn := t.rimIn, out := t.out } ∧
       (∀ k, k ≠ hob.val → t.hob k = s.hob k) ∧
       t.hob hob.val = { s.hob hob.val with mcast := (s.hob hob.val).mcast.map fun x => if x.tag = tag.toNat then
         { x with targets := x.targets.map fun y => if y.cell = tg then { y with fullAt := none, tries := y.tries + 1 } else y } else x } ∧
       t.out = .message hob.val .hearth tg s.now q.desc :: s.out)

/-- WINDOW_QUIESCE_END of a CLOSING window, 32 µs after its close edge, with no command waiting and no open to come, completes
with the window CLOSED and all its other fields kept. The last one of a hob that is being released leaves that hob FREE,
without rectangle, recipe, key and extents. BROADCAST_ACK completes with that target gone from the broadcast, and with the
broadcast gone when it was the last. BROADCAST_RETRY 10 µs on repeats the broadcast to the targets that are not LIDDED or
FUSED_OFF, or are a hob's cells that still carry its work or move, lists the rest, and counts the attempt. -/
def Obligations.WindowsCloseAndBroadcastsEnd : Prop :=
  (∀ (cell : Pos) (win : WinId) (s : State),
     ((s.cell cell.idx).win win.val).state = 2 →
     ((s.cell cell.idx).win win.val).closedAt + 32000 ≤ s.now →
     ((s.cell cell.idx).win win.val).ending = false →
     ((s.cell cell.idx).win win.val).closers = [] →
     ((s.cell cell.idx).win win.val).reopen = none →
     (∀ h, (s.cell cell.idx).hob = some h → (s.hob h).releasing = none) →
     ∃ t, exec (.windowQuiesceEnd cell win) s = .next t ∧ t = { s with cells := t.cells } ∧ (∀ p, p ≠ cell.idx → t.cell p = s.cell p) ∧
       (t.cell cell.idx).win win.val = { (s.cell cell.idx).win win.val with state := 0 } ∧
       (∀ w, w ≠ win.val → (t.cell cell.idx).win w = (s.cell cell.idx).win w)) ∧
  (∀ (cell : Pos) (win : WinId) (s : State) (h : Nat) (r : Option CmdRef),
     ((s.cell cell.idx).win win.val).ending = true →
     ((s.cell cell.idx).win win.val).closedAt + 32000 ≤ s.now →
     ((s.cell cell.idx).win win.val).closers = [] →
     ((s.cell cell.idx).win win.val).reopen = none →
     (s.cell cell.idx).hob = some h →
     (s.hob h).releasing = some r →
     (s.nums h).filter (fun n => (s.cell (s.posOf h n)).wins.any fun w => w.2.ending && (s.posOf h n != cell.idx || w.1 != win.val)) = [] →
     ∃ t, exec (.windowQuiesceEnd cell win) s = .next t ∧ (t.hob h).st = .free ∧ (t.hob h).shape = none ∧ (t.hob h).recipe = none ∧
       (t.hob h).key = 0 ∧ (t.hob h).ext = [] ∧ (t.hob h).releasing = none ∧ (t.hob h).grant = (s.hob h).grant) ∧
  (∀ (i tg : Nat) (s : State) (b : Broadcast),
     s.broadcasts = [b] →
     b.id = i →
     b.targets.filter (fun x => x != tg) ≠ [] →
     ∃ t, exec (.broadcastAck i tg) s = .next t ∧
       t = { s with cells := t.cells, broadcasts := [{ b with targets := b.targets.filter fun x => x != tg }] } ∧
       (∀ p, p ≠ s.bcastPos b tg → t.cell p = s.cell p)) ∧
  (∀ (i tg : Nat) (s : State) (b : Broadcast),
     s.broadcasts = [b] →
     b.id = i →
     b.targets = [tg] →
     b.ended = [] →
     ∃ t, exec (.broadcastAck i tg) s = .next t ∧ t = { s with cells := t.cells, broadcasts := [] }) ∧
  (∀ (i : Nat) (s : State) (b : Broadcast),
     s.broadcasts = [b] →
     b.id = i →
     b.startedAt + (b.tries + 1) * 10000 ≤ s.now →
     (∃ x ∈ b.targets, ((s.pos (s.bcastPos b x)).state ≠ .lidded ∧ (s.pos (s.bcastPos b x)).state ≠ .fusedOff) ∨ (b.hob.isSome = true ∧ ((s.cell (s.bcastPos b x)).moving = true ∨ (s.cell (s.bcastPos b x)).hob.isSome = true))) →
     ∃ t, exec (.broadcastRetry i) s = .next t ∧ t = { s with broadcasts := t.broadcasts, out := t.out, routers := t.routers, edgeIn := t.edgeIn, rimIn := t.rimIn } ∧
       t.broadcasts = [{ b with
         targets := b.targets.filter (fun x => !(((s.pos (s.bcastPos b x)).state == .lidded || (s.pos (s.bcastPos b x)).state == .fusedOff) &&
           !(b.hob.isSome && ((s.cell (s.bcastPos b x)).moving || (s.cell (s.bcastPos b x)).hob.isSome))))
         ended := b.ended ++ b.targets.filter (fun x => ((s.pos (s.bcastPos b x)).state == .lidded || (s.pos (s.bcastPos b x)).state == .fusedOff) &&
           !(b.hob.isSome && ((s.cell (s.bcastPos b x)).moving || (s.cell (s.bcastPos b x)).hob.isSome)))
         tries := b.tries + 1 }])

/-- STACK_READ_REQUEST of a granted, unserved read of a mapped block whose lines are good, with no unserved write to that block
before it through the same edge stop and room for the block on the way, completes with the transaction served, its data the
4 KiB that the memory holds there under the hob's key and no line poisoned, and memory and line records as they were; when
the first line has two bad symbols, that line is poisoned from then on and named by the transaction, and memory keeps its
bytes; where it is a crossing's read and a step of its hob is still closing, the hob is STOPPED and the fence not committed.
STACK_WRITE_REQUEST of a granted, unserved 4 KiB write outside capture completes with the transaction served, the block's
bytes in memory at its device address, its lines under the hob's key, poisoned just where the block's CRC-32C failed, here
or on its way, and every byte outside the block as it was. Where the extents of a hob are extents of a stack, every device
address that a hob-relative address reaches has memory behind it. -/
def Obligations.StackAccessesMoveBytes : Prop :=
  (∀ (h : Hob) (a dev : Nat),
     ((∀ e ∈ h.ext, e.2.dev.toNat < 352)) →
     h.devAddr a = some dev →
     devAddrOk dev = true ∧ dev / 2 ^ 37 = relStack a ∧ dev % 2 ^ 28 = a % 2 ^ 28) ∧
  (∀ (txn : Nat) (s : State) (u : Txn) (dev : Nat),
     s.txn txn = some u →
     u.write = false →
     u.granted = true →
     u.served = false →
     u.breach = false →
     u.stackKind = true →
     (s.stack (relStack (s.txnTarget u))).resetting = false →
     (s.hob u.hob).devAddr (s.txnTarget u) = some dev →
     s.rdrs = [] →
     (∀ k ∈ List.range 16, (s.stack k).pcDead = []) →
     (∀ i ∈ List.range 64, (s.lines.get {} ((dev + 64 * i) / 64)).poison = false ∧ s.errs.get 0 ((dev + 64 * i) / 64) = 0) →
     s.behindWrite u = false →
     s.roomFor u = true →
     s.txnDelayed u 1 = false →
     ∃ t v, exec (.stackReadRequest txn []) s = .next t ∧ t = { s with txns := t.txns, stk := t.stk, hobs := t.hobs } ∧
       (∀ k, t.hob k = s.hob k) ∧ t.txn txn = some v ∧
       v = { u with served := true, data := s.memBytes (s.hob u.hob).key dev 4096, poison := [], stored := [] }) ∧
  (∀ (txn : Nat) (s : State) (u : Txn) (dev : Nat),
     s.txn txn = some u →
     u.write = false →
     u.granted = true →
     u.served = false →
     u.breach = false →
     u.stackKind = true →
     (s.stack (relStack (s.txnTarget u))).resetting = false →
     (s.hob u.hob).devAddr (s.txnTarget u) = some dev →
     s.rdrs = [] →
     (s.lines.get {} (dev / 64)).poison = false →
     (∀ e ∈ (s.hob u.hob).ext, e.2.dev.toNat < 352) →
     (s.hob u.hob).closing = [] →
     s.behindWrite u = false →
     s.roomFor u = true →
     s.txnDelayed u 1 = false →
     ∃ t v, exec (.stackReadRequest txn [(0, 2)]) s = .next t ∧ t.mem = s.mem ∧ t.txn txn = some v ∧ v.served = true ∧
       0 ∈ v.poison ∧ (t.lines.get {} (dev / 64)).poison = true ∧ (t.lines.get {} (dev / 64)).key = (s.lines.get {} (dev / 64)).key) ∧
  (∀ (txn : Nat) (s : State) (u : Txn) (dev h k r : Nat) (c : Closing) (rest : List Closing),
     s.txn txn = some u →
     u.write = false →
     u.granted = true →
     u.served = false →
     u.breach = false →
     u.stackKind = true →
     (s.stack (relStack (s.txnTarget u))).resetting = false →
     (s.hob u.hob).devAddr (s.txnTarget u) = some dev →
     s.rdrs = [] →
     (s.lines.get {} (dev / 64)).poison = false →
     (∀ e ∈ (s.hob u.hob).ext, e.2.dev.toNat < 352) →
     u.kind = .crossing h k r →
     (s.hob h).closing = c :: rest →
     s.behindWrite u = false →
     s.roomFor u = true →
     s.txnDelayed u 1 = false →
     ∃ t, exec (.stackReadRequest txn [(0, 2)]) s = .next t ∧ t.mem = s.mem ∧ (t.lines.get {} (dev / 64)).poison = true ∧
       (∀ j, j ≠ h → t.hob j = s.hob j) ∧ (t.hob h).st = .stopped ∧ (t.hob h).closing = [] ∧ (t.hob h).fenceLast = (s.hob h).fenceLast) ∧
  (∀ (txn : Nat) (ok : Bool) (s : State) (u : Txn) (dev : Nat),
     s.txn txn = some u →
     u.write = true →
     u.granted = true →
     u.served = false →
     u.breach = false →
     u.stackKind = true →
     u.data.length = 4096 →
     u.poison = [] →
     (s.stack (relStack (s.txnTarget u))).resetting = false →
     (s.hob u.hob).devAddr (s.txnTarget u) = some dev →
     dev % 64 = 0 →
     s.rdrs = [] →
     (s.hob u.hob).cow.armed = false →
     s.behindWrite u = false →
     s.txnDelayed u 1 = false →
     ∃ t v, exec (.stackWriteRequest txn ok) s = .next t ∧ t.txn txn = some v ∧ v.served = true ∧
       (∀ i, i < 4096 → Tab.get 0 t.mem (dev + i) = u.data.getD i 0) ∧
       (∀ a, a < dev ∨ dev + 4096 ≤ a → Tab.get 0 t.mem a = Tab.get 0 s.mem a) ∧
       (∀ i, i < 64 → (t.lines.get {} (dev / 64 + i)).key = (s.hob u.hob).key ∧ (t.lines.get {} (dev / 64 + i)).poison = !(ok && !u.crcBad)) ∧
       (∀ l, l < dev / 64 ∨ dev / 64 + 64 ≤ l → t.lines.get {} l = s.lines.get {} l))

/-- REFRESH of a powered stack completes with only the refresh place moved. STACK_ROW_REPAIR of a due row completes with the row
no longer due, and mapped to the next spare row of its bank with the repair counted, or, with no spare row left, its
pseudo-channel due for a spare. PC_SPARE_START of a due pseudo-channel completes with the copy to the next spare under way
and that spare used, or, with both used, the pseudo-channel unreadable, the stack unusable, retire advice given where the
hearth is present, and every hob with an extent on it to stop at its next fence. PC_SPARE_DONE completes with the spare that
the copy went to in place. PATROL_SCRUB of a good line completes with only the scrub's place and the stack's last traffic
moved, and the stack out of power-down, and of a line with two bad symbols with that line poisoned and no byte changed.
STACK_POWER_DOWN after 1 µs without traffic completes with the stack in power-down. Every other stack is as it was. -/
def Obligations.StacksRepairAndScrub : Prop :=
  (∀ (stack : StackId) (pc : Fin 34) (s : State),
     ((s.stack stack.val).pwr = .on ∨ (s.stack stack.val).pwr = .powerDown) →
     (s.stack stack.val).resetting = false →
     ∃ t, exec (.refresh stack pc) s = .next t ∧ t = { s with stk := t.stk } ∧ (∀ k, k ≠ stack.val → t.stack k = s.stack k) ∧
       t.stack stack.val = { s.stack stack.val with refreshed := pc.val }) ∧
  (∀ (stack : StackId) (row : Nat) (s : State),
     (s.stack stack.val).rowDue.get 0 row ≠ 0 →
     (s.stack stack.val).resetting = false →
     (s.stack stack.val).pwr ≠ .off →
     s.deviceRoom stack.val 1 = true →
     ∃ t, exec (.stackRowRepair stack row) s = .next t ∧ t = { s with stk := t.stk } ∧ (∀ k, k ≠ stack.val → t.stack k = s.stack k) ∧
       (t.stack stack.val).rowDue.get 0 row = 0 ∧
       ((s.stack stack.val).rowUsed.get 0 (Config.stackBank row) < Config.spareRows →
         (t.stack stack.val).rowMap.get 0 row = (s.stack stack.val).rowUsed.get 0 (Config.stackBank row) + 1 ∧
         (t.stack stack.val).rowUsed.get 0 (Config.stackBank row) = (s.stack stack.val).rowUsed.get 0 (Config.stackBank row) + 1 ∧
         (t.stack stack.val).rowrep = satInc (s.stack stack.val).rowrep) ∧
       (Config.spareRows ≤ (s.stack stack.val).rowUsed.get 0 (Config.stackBank row) →
         (t.stack stack.val).rowMap = (s.stack stack.val).rowMap ∧ (t.stack stack.val).pcDue.contains (pcOf (64 * ((s.stack stack.val).rowDue.get 0 row - 1))) = true)) ∧
  (∀ (stack : StackId) (pc : Fin 32) (s : State),
     (s.stack stack.val).pcDue.contains pc.val = true →
     (s.stack stack.val).pcCopy.contains pc.val = false →
     (s.stack stack.val).resetting = false →
     (s.stack stack.val).pwr ≠ .off →
     (s.stack stack.val).sparePc.toNat < 2 →
     ∃ t, exec (.pcSpareStart stack pc) s = .next t ∧ t = { s with stk := t.stk } ∧ (∀ k, k ≠ stack.val → t.stack k = s.stack k) ∧
       (t.stack stack.val).sparePc = (s.stack stack.val).sparePc + 1 ∧
       (t.stack stack.val).pcTo.get 0 pc.val = (s.stack stack.val).sparePc.toNat + 1 ∧ (t.stack stack.val).pcCopy.contains pc.val = true ∧
       (t.stack stack.val).pcDue.contains pc.val = false) ∧
  (∀ (stack : StackId) (pc : Fin 32) (s : State),
     (s.stack stack.val).pcDue.contains pc.val = true →
     (s.stack stack.val).pcCopy.contains pc.val = false →
     (s.stack stack.val).resetting = false →
     (s.stack stack.val).pwr ≠ .off →
     2 ≤ (s.stack stack.val).sparePc.toNat →
     ∃ t, exec (.pcSpareStart stack pc) s = .next t ∧ t.mem = s.mem ∧ t.lines = s.lines ∧ t.txns = s.txns ∧ (∀ k, k ≠ stack.val → t.stack k = s.stack k) ∧
       (s.resets.hearthDown = false → t.hearth.retire = true) ∧
       (t.stack stack.val).pcDead.contains pc.val = true ∧ (t.stack stack.val).unusable = true ∧
       (∀ h ∈ hobNums, ((s.hob h).ext.any fun e => e.2.valid && e.1 / 352 == stack.val) = true → (t.hob h).run.stopAt.isSome = true)) ∧
  (∀ (stack : StackId) (pc : Fin 32) (s : State),
     (s.stack stack.val).pcCopy.contains pc.val = true →
     (s.stack stack.val).resetting = false →
     ∃ t, exec (.pcSpareDone stack pc) s = .next t ∧ t = { s with stk := t.stk } ∧ (∀ k, k ≠ stack.val → t.stack k = s.stack k) ∧
       (t.stack stack.val).pcCopy.contains pc.val = false ∧
       (t.stack stack.val).pcMap.get 0 pc.val = (s.stack stack.val).pcTo.get 0 pc.val) ∧
  (∀ (stack : StackId) (line : Nat) (s : State),
     64 * line < stackBytes →
     (s.stack stack.val).resetting = false →
     ((s.stack stack.val).pwr = .on ∨ (s.stack stack.val).pwr = .powerDown) →
     (s.lines.get {} ((stack.val * 2 ^ 37 + 64 * line) / 64)).poison = false →
     s.errs.get 0 ((stack.val * 2 ^ 37 + 64 * line) / 64) = 0 →
     (s.stack stack.val).pcDead = [] →
     s.deviceRoom stack.val 1 = true →
     ∃ t, exec (.patrolScrub stack line 0) s = .next t ∧ t = { s with stk := t.stk } ∧ (∀ k, k ≠ stack.val → t.stack k = s.stack k) ∧
       t.stack stack.val = { s.stack stack.val with scrubAt := line, pwr := .on, lastTraffic := s.now }) ∧
  (∀ (stack : StackId) (line : Nat) (s : State),
     64 * line < stackBytes →
     (s.stack stack.val).resetting = false →
     ((s.stack stack.val).pwr = .on ∨ (s.stack stack.val).pwr = .powerDown) →
     (s.lines.get {} ((stack.val * 2 ^ 37 + 64 * line) / 64)).poison = false →
     s.deviceRoom stack.val 1 = true →
     ∃ t, exec (.patrolScrub stack line 2) s = .next t ∧ t.mem = s.mem ∧
       (t.lines.get {} ((stack.val * 2 ^ 37 + 64 * line) / 64)).poison = true ∧ (t.stack stack.val).scrubAt = line ∧
       (t.stack stack.val).ue = satInc (s.stack stack.val).ue) ∧
  (∀ (stack : StackId) (s : State),
     (s.stack stack.val).pwr = .on →
     (s.stack stack.val).lastTraffic + 1000 ≤ s.now →
     ∃ t, exec (.stackPowerDown stack) s = .next t ∧ t = { s with stk := t.stk } ∧ (∀ k, k ≠ stack.val → t.stack k = s.stack k) ∧
       t.stack stack.val = { s.stack stack.val with pwr := .powerDown })

/-- CAPTURE_ARM of a hob with a planned jar, at the first hob cycle of the step after the jar's fence or with no step in
progress and that fence committed, completes with copy-on-write armed at that fence, nothing drained, and draining only if
the fence has committed; nothing else changes. PAGE_DRAIN_DONE of a page of the hob that is not yet drained, no other page
being waited for, completes with the page drained in both copies of the drained bitmap, 64 KiB written to the jar area, the
bytes of its lines under the hob's key in the jar where it held none, and, where the page has no shadow, stack memory as it
was. ZEROISE_DONE waits for a stack controller in reset, and else completes with every byte of the hob's freed extents 0,
every byte outside them as it was, and no extent waiting. -/
def Obligations.CapturesArmDrainAndZero : Prop :=
  (∀ (hob : HobId) (s : State) (j : JarRun),
     (s.hob hob.val).jarRun = some j →
     (s.hob hob.val).cow.armed = false →
     j.planned = true →
     (((s.hob hob.val).clk.live && (s.hob hob.val).clk.inStep == 0 && (s.hob hob.val).clk.fence == j.fence + 1) ||
       (!(s.hob hob.val).clk.live && (s.hob hob.val).fenceLast == j.fence)) = true →
     ∃ t, exec (.captureArm hob) s = .next t ∧ t = { s with hobs := t.hobs } ∧ (∀ k, k ≠ hob.val → t.hob k = s.hob k) ∧
       t.hob hob.val = { s.hob hob.val with jarRun := some { j with started := true, startedAt := s.lifeMs }, cow := (t.hob hob.val).cow } ∧
       (t.hob hob.val).cow.armed = true ∧ (t.hob hob.val).cow.fence = j.fence ∧ (t.hob hob.val).cow.drained = [] ∧
       ((t.hob hob.val).cow.draining = true ↔ j.fence ≤ (s.hob hob.val).fenceLast)) ∧
  (∀ (hob : HobId) (page : Nat) (s : State) (j : JarRun) (a : Nat),
     (s.hob hob.val).jarRun = some j →
     s.pageRel hob.val page = some a →
     (s.hob hob.val).cow.draining = true →
     (s.hob hob.val).cow.drained.contains page = false →
     (s.hob hob.val).cow.next = [] →
     (s.stack (page / 2 ^ 21)).resetting = false →
     devAddrOk ((page / 2 ^ 21) * 2 ^ 37 + (page % 2 ^ 21) * 65536) = true →
     s.deviceRoom (page / 2 ^ 21) 16 = true →
     ∃ t, exec (.pageDrainDone hob ⟨page, []⟩) s = .next t ∧ (∀ k, k ≠ hob.val → t.hob k = s.hob k) ∧
       (t.hob hob.val).cow.drained.contains page = true ∧ (t.hob hob.val).cow.drained6.contains page = true ∧ t.pantry.written = s.pantry.written + 65536 ∧
       (s.rdrs.find? (fun e => e.1 == page) = none → t.mem = s.mem ∧ t.rdrs = s.rdrs) ∧
       (Memory.wf s.mem = true → ∃ k, (t.hob hob.val).jarRun = some k ∧ ∀ i, i < 65536 →
         (s.lines.get {} (((page / 2 ^ 21) * 2 ^ 37 + (page % 2 ^ 21) * 65536 + i) / 64)).key = (s.hob hob.val).key →
         Tab.get 0 j.jar.data (a + i) = 0 →
         Tab.get 0 k.jar.data (a + i) = Tab.get 0 s.mem ((page / 2 ^ 21) * 2 ^ 37 + (page % 2 ^ 21) * 65536 + i))) ∧
  (∀ (hob : HobId) (s : State),
     ((s.hob hob.val).zeroing.any fun e => (s.stack (e / 352)).resetting) = true →
     exec (.zeroiseDone hob) s = .next s) ∧
  (∀ (hob : HobId) (s : State),
     ((s.hob hob.val).zeroing.any fun e => (s.stack (e / 352)).resetting) = false →
     ∃ t, exec (.zeroiseDone hob) s = .next t ∧ t = { s with mem := t.mem, lines := t.lines, hobs := t.hobs, stk := t.stk } ∧
       (∀ k, k ≠ hob.val → t.hob k = s.hob k) ∧ (t.hob hob.val).zeroing = [] ∧
       (∀ e ∈ (s.hob hob.val).zeroing, ∀ i, i < 2 ^ 28 → Tab.get 0 t.mem ((e / 352) * 2 ^ 37 + (e % 352) * 2 ^ 28 + i) = 0) ∧
       (∀ a, (∀ e ∈ (s.hob hob.val).zeroing, a < (e / 352) * 2 ^ 37 + (e % 352) * 2 ^ 28 ∨ (e / 352) * 2 ^ 37 + (e % 352) * 2 ^ 28 + 2 ^ 28 ≤ a) →
         Tab.get 0 t.mem a = Tab.get 0 s.mem a))

/-- HP_AUTH_MAC on an open function that is not locked out completes, and only host port state and the free-value counter
change. The right MAC of a hob with a credential that is assigned to the port leaves the function authenticated for that hob
with no failures counted. Any other MAC leaves its authentication as it was and counts a failure, the third of which locks
the function out for 1 s. During a lockout a write changes the nonce alone. The nonce afterwards is the next free value.
AUTH_LOCKOUT_END once the time has passed completes with no lockout. -/
def Obligations.FunctionsAuthenticate : Prop :=
  (∀ (port : HPort) (fn : FnId) (s : State),
     s.barOpen port.val fn.val = true →
     ((s.host port.val).fnSt fn.val).lockedUntil ≤ s.now →
     (s.hob (s.claimed port.val fn.val)).cred ≠ 0 →
     (s.hob (s.claimed port.val fn.val)).assignedTo port.val = true →
     ∃ t, exec (.hpAuthMac port fn
           (Config.hmacSha256 (s.hob (s.claimed port.val fn.val)).cred ((s.host port.val).fnSt fn.val).nonce port.val fn.val)) s = .next t ∧
       t = { s with hosts := t.hosts, free := s.free + 1 } ∧ ((t.host port.val).fnSt fn.val).authOk = true ∧ ((t.host port.val).fnSt fn.val).fails = 0 ∧
       ((t.host port.val).fnSt fn.val).authHobs.contains (s.claimed port.val fn.val) = true ∧ ((t.host port.val).fnSt fn.val).nonce = BitVec.ofNat 64 (Config.freeNat s.free) ∧
       ((t.host port.val).fnSt fn.val).rings = ((s.host port.val).fnSt fn.val).rings) ∧
  (∀ (port : HPort) (fn : FnId) (mac : BitVec 256) (s : State),
     s.barOpen port.val fn.val = true →
     ((s.host port.val).fnSt fn.val).lockedUntil ≤ s.now →
     ((s.hob (s.claimed port.val fn.val)).cred = 0 ∨ (s.hob (s.claimed port.val fn.val)).assignedTo port.val = false ∨
       mac ≠ Config.hmacSha256 (s.hob (s.claimed port.val fn.val)).cred ((s.host port.val).fnSt fn.val).nonce port.val fn.val) →
     ∃ t, exec (.hpAuthMac port fn mac) s = .next t ∧ t = { s with hosts := t.hosts, free := s.free + 1 } ∧
       ((t.host port.val).fnSt fn.val).authOk = ((s.host port.val).fnSt fn.val).authOk ∧ ((t.host port.val).fnSt fn.val).authHobs = ((s.host port.val).fnSt fn.val).authHobs ∧
       ((t.host port.val).fnSt fn.val).nonce = BitVec.ofNat 64 (Config.freeNat s.free) ∧
       (((s.host port.val).fnSt fn.val).fails < 2 → ((t.host port.val).fnSt fn.val).fails = ((s.host port.val).fnSt fn.val).fails + 1 ∧ ((t.host port.val).fnSt fn.val).lockedUntil = ((s.host port.val).fnSt fn.val).lockedUntil) ∧
       (2 ≤ ((s.host port.val).fnSt fn.val).fails → ((t.host port.val).fnSt fn.val).fails = 0 ∧ ((t.host port.val).fnSt fn.val).lockedUntil = s.now + 1000000000)) ∧
  (∀ (port : HPort) (fn : FnId) (mac : BitVec 256) (s : State),
     s.barOpen port.val fn.val = true →
     s.now < ((s.host port.val).fnSt fn.val).lockedUntil →
     ∃ t, exec (.hpAuthMac port fn mac) s = .next t ∧ t = { s with hosts := t.hosts, free := s.free + 1 } ∧
       ((t.host port.val).fnSt fn.val) = { ((s.host port.val).fnSt fn.val) with nonce := BitVec.ofNat 64 (Config.freeNat s.free) }) ∧
  (∀ (port : HPort) (fn : FnId) (s : State),
     ((s.host port.val).fnSt fn.val).lockedUntil ≠ 0 →
     ((s.host port.val).fnSt fn.val).lockedUntil ≤ s.now →
     ∃ t, exec (.authLockoutEnd port fn) s = .next t ∧ t = { s with hosts := t.hosts } ∧
       ((t.host port.val).fnSt fn.val) = { ((s.host port.val).fnSt fn.val) with lockedUntil := 0 })

/-- RING_ENABLE of a disabled ring of an authenticated open function with a size of 2⁶ to 2¹⁶ completes with the ring enabled,
running where the PF owns it or the device is in SERVICE or DEGRADED; a misaligned address leaves it disabled with ring
error 4. RING_DISABLE completes with the ring disabled, running on only while commands are in flight or entry reads
outstanding. DOORBELL_POLL at its time, with fewer than 64 ring transactions of the port outstanding, reads the doorbell
line and sets the next poll. DOORBELL_LINE_RETURN, with no record waiting for a slot, keeps the new indexes and asks for no
more entries than the producer index and 256 in flight allow; a failed read is ring error 1 and a producer index beyond the
ring error 5. SQE_ARRIVAL of a well-formed entry appends it, unstarted, answers nothing, and may read further entries up to
the producer index; a malformed one is answered REJECTED. CQ_INTERRUPT_TIMER, once the time since the oldest unsignalled
record has passed, sends the interrupt or keeps it pending. -/
def Obligations.RingsFetchAndPoll : Prop :=
  (∀ (port : HPort) (fn : FnId) (ring : RingId) (s : State),
     s.barOpen port.val fn.val = true →
     ringExists fn.val ring.val = true →
     (s.ring port.val fn.val ring.val).en = false →
     ((s.host port.val).fnSt fn.val).authOk = true →
     6 ≤ (s.ring port.val fn.val ring.val).log2.toNat →
     (s.ring port.val fn.val ring.val).log2.toNat ≤ 16 →
     (s.ring port.val fn.val ring.val).sqBase.toNat % 4096 = 0 →
     (s.ring port.val fn.val ring.val).cqBase.toNat % 4096 = 0 →
     (s.ring port.val fn.val ring.val).dbAddr.toNat % 64 = 0 →
     ∃ t, exec (.ringEnable port fn ring) s = .next t ∧ t = { s with hosts := t.hosts } ∧ (t.ring port.val fn.val ring.val).en = true ∧ (t.ring port.val fn.val ring.val).err = 0 ∧
       (t.ring port.val fn.val ring.val).on = ((s.ring port.val fn.val ring.val).on || fn.val == 0 || s.inService) ∧ (t.ring port.val fn.val ring.val).sqes = (s.ring port.val fn.val ring.val).sqes ∧ (t.ring port.val fn.val ring.val).ci = (s.ring port.val fn.val ring.val).ci ∧ (t.ring port.val fn.val ring.val).cqPi = (s.ring port.val fn.val ring.val).cqPi ∧
       (t.ring port.val fn.val ring.val).pollAt = s.now) ∧
  (∀ (port : HPort) (fn : FnId) (ring : RingId) (s : State),
     s.barOpen port.val fn.val = true →
     ringExists fn.val ring.val = true →
     (s.ring port.val fn.val ring.val).en = false →
     ((s.host port.val).fnSt fn.val).authOk = true →
     6 ≤ (s.ring port.val fn.val ring.val).log2.toNat →
     (s.ring port.val fn.val ring.val).log2.toNat ≤ 16 →
     ((s.ring port.val fn.val ring.val).sqBase.toNat % 4096 ≠ 0 ∨ (s.ring port.val fn.val ring.val).cqBase.toNat % 4096 ≠ 0 ∨ (s.ring port.val fn.val ring.val).dbAddr.toNat % 64 ≠ 0) →
     ∃ t, exec (.ringEnable port fn ring) s = .next t ∧ t = { s with hosts := t.hosts, out := t.out, hobs := t.hobs } ∧
       (t.ring port.val fn.val ring.val).en = false ∧ (t.ring port.val fn.val ring.val).err = 4) ∧
  (∀ (port : HPort) (fn : FnId) (ring : RingId) (s : State),
     s.barOpen port.val fn.val = true →
     (s.ring port.val fn.val ring.val).en = true →
     ∃ t, exec (.ringDisable port fn ring) s = .next t ∧ t = { s with hosts := t.hosts } ∧ (t.ring port.val fn.val ring.val).en = false ∧
       (t.ring port.val fn.val ring.val).on = ((s.ring port.val fn.val ring.val).on && !((s.ring port.val fn.val ring.val).sqes.isEmpty && (s.ring port.val fn.val ring.val).fetching == 0)) ∧ (t.ring port.val fn.val ring.val).sqes = (s.ring port.val fn.val ring.val).sqes) ∧
  (∀ (port : HPort) (fn : FnId) (ring : RingId) (s : State),
     (s.host port.val).carries = true →
     (s.ring port.val fn.val ring.val).on = true →
     (s.ring port.val fn.val ring.val).en = true →
     (s.ring port.val fn.val ring.val).pollAt ≤ s.now →
     s.ringTraffic port.val < 64 →
     ∃ t, exec (.doorbellPoll port fn ring) s = .next t ∧ t = { s with hosts := t.hosts, out := t.out } ∧
       t.out = .doorbellRead port.val fn.val ring.val (s.ring port.val fn.val ring.val).dbAddr :: s.out ∧
       (t.ring port.val fn.val ring.val) = { (s.ring port.val fn.val ring.val) with pollAt := s.now + (if (s.ring port.val fn.val ring.val).active s.now then 500 else (s.ring port.val fn.val ring.val).interval), reading := true }) ∧
  (∀ (port : HPort) (fn : FnId) (ring : RingId) (pi cqCi : W32) (s : State),
     (s.ring port.val fn.val ring.val).on = true →
     (s.ring port.val fn.val ring.val).en = true →
     (pi - (s.ring port.val fn.val ring.val).ci).toNat ≤ (s.ring port.val fn.val ring.val).size →
     (s.ring port.val fn.val ring.val).owed = [] →
     ∃ t n, exec (.doorbellLineReturn port fn ring pi cqCi true) s = .next t ∧ t = { s with hosts := t.hosts, out := t.out } ∧
       (t.ring port.val fn.val ring.val).pi = pi ∧ (t.ring port.val fn.val ring.val).cqCi = cqCi ∧ (t.ring port.val fn.val ring.val).ci = (s.ring port.val fn.val ring.val).ci + BitVec.ofNat 32 n ∧ (t.ring port.val fn.val ring.val).fetching = (s.ring port.val fn.val ring.val).fetching + n ∧
       (t.ring port.val fn.val ring.val).sqes = (s.ring port.val fn.val ring.val).sqes ∧ n ≤ (pi - (s.ring port.val fn.val ring.val).ci).toNat ∧ n ≤ 256 - (s.ring port.val fn.val ring.val).inFlight ∧
       t.out = ((List.range n).map fun i => Out.entryRead port.val fn.val ring.val ((s.ring port.val fn.val ring.val).ci + BitVec.ofNat 32 i)).reverse ++ s.out) ∧
  (∀ (port : HPort) (fn : FnId) (ring : RingId) (pi cqCi : W32) (ok : Bool) (s : State),
     (s.ring port.val fn.val ring.val).on = true →
     (s.ring port.val fn.val ring.val).en = true →
     (ok = false ∨ (s.ring port.val fn.val ring.val).size < (pi - (s.ring port.val fn.val ring.val).ci).toNat) →
     ∃ t, exec (.doorbellLineReturn port fn ring pi cqCi ok) s = .next t ∧ t = { s with hosts := t.hosts, out := t.out, hobs := t.hobs } ∧
       (t.ring port.val fn.val ring.val).en = false ∧ (t.ring port.val fn.val ring.val).err = (if ok then 5 else 1)) ∧
  (∀ (port : HPort) (fn : FnId) (ring : RingId) (entry : List Byte) (s : State),
     (s.ring port.val fn.val ring.val).on = true →
     (s.ring port.val fn.val ring.val).fetching ≠ 0 →
     entryOk entry = true →
     ∃ t n, exec (.sqeArrival port fn ring entry true) s = .next t ∧ t = { s with hosts := t.hosts, out := t.out } ∧
       n ≤ ((s.ring port.val fn.val ring.val).pi - (s.ring port.val fn.val ring.val).ci).toNat ∧
       t.out = ((List.range n).map fun i => Out.entryRead port.val fn.val ring.val ((s.ring port.val fn.val ring.val).ci + BitVec.ofNat 32 i)).reverse ++ s.out ∧
       (t.ring port.val fn.val ring.val) = { (s.ring port.val fn.val ring.val) with
         fetching := (s.ring port.val fn.val ring.val).fetching - 1 + n, ci := (s.ring port.val fn.val ring.val).ci + BitVec.ofNat 32 n,
         sqes := (s.ring port.val fn.val ring.val).sqes ++ [{ op := leAt entry 0 1, sub := leAt entry 2 2, flags := leAt entry 1 1, tag := BitVec.ofNat 32 (leAt entry 4 4), args := entry }] }) ∧
  (∀ (port : HPort) (fn : FnId) (ring : RingId) (entry : List Byte) (s : State),
     (s.ring port.val fn.val ring.val).on = true →
     (s.ring port.val fn.val ring.val).fetching ≠ 0 →
     entryOk entry = false →
     ∃ t, exec (.sqeArrival port fn ring entry true) s = .next t ∧ t = { s with hosts := t.hosts, out := t.out } ∧
       s.told t { port := port, fn := fn, ring := ring, tag := BitVec.ofNat 32 (leAt entry 4 4), noirq := bit 1 (leAt entry 1 1) }
         (leAt entry 0 1) 1 0 0 0) ∧
  (∀ (port : HPort) (fn : FnId) (ring : RingId) (s : State),
     (s.ring port.val fn.val ring.val).unsignalled ≠ 0 →
     (s.ring port.val fn.val ring.val).oldest + (s.ring port.val fn.val ring.val).time.toNat * 1000 ≤ s.now →
     ∃ t, exec (.cqInterruptTimer port fn ring) s = .next t ∧ t = { s with hosts := t.hosts, out := t.out } ∧
       (t.ring port.val fn.val ring.val) = { (s.ring port.val fn.val ring.val) with unsignalled := 0 } ∧
       ((((s.host port.val).fnSt fn.val).msix.get msixReset (s.ring port.val fn.val ring.val).vec.toNat).getLsbD 96 = false → t.out = .msix port.val fn.val (s.ring port.val fn.val ring.val).vec.toNat :: s.out) ∧
       ((((s.host port.val).fnSt fn.val).msix.get msixReset (s.ring port.val fn.val ring.val).vec.toNat).getLsbD 96 = true → t.out = s.out ∧
         ((t.host port.val).fnSt fn.val).pba = ((s.host port.val).fnSt fn.val).pba ||| ((1 : BitVec 8) <<< (s.ring port.val fn.val ring.val).vec.toNat)))

/-- HOST_LOSS of a port with a link completes with every function of the port back at its reset registers (no authentication, no
ring), the link down unless it was a hot reset, each hob assigned to the port without commands in flight and to stop at its
next fence if it runs, and stack memory and every other port as they were. FLR of a function does the same to that function
and its hob; of every other function only rings and pending interrupts change, by the completions of the hob's commands from
PF rings, and nothing where there are none. PERST_ASSERT does it to the port and holds it in reset; PERST_DEASSERT lets the
link train and answers configuration requests with CRS until the PF is ready. -/
def Obligations.HostLossEndsTheHostsWork : Prop :=
  (∀ (port : HPort) (linkDown : Bool) (s : State),
     (s.host port.val).linkUp = true →
     ∃ t, exec (.hostLoss port linkDown) s = .next t ∧ t = { s with hobs := t.hobs, txns := t.txns, hosts := t.hosts, free := t.free, cells := t.cells, broadcasts := t.broadcasts } ∧
       (t.host port.val).linkUp = !linkDown ∧ (∀ q, q ≠ port.val → t.host q = s.host q) ∧
       (∀ f ∈ List.range 9, ((t.host port.val).fnSt f).authOk = false ∧ ((t.host port.val).fnSt f).rings = []) ∧
       (∀ h ∈ s.hobsOn port.val, (t.hob h).run.refs = [] ∧ (t.hob h).fenceWaits = [] ∧ (t.hob h).copies = [] ∧
         ((s.hob h).runs = true → (t.hob h).run.stopAt.isSome = true))) ∧
  (∀ (port : HPort) (fn : FnId) (s : State),
     (s.host port.val).linkUp = true →
     ∃ t, exec (.flr port fn) s = .next t ∧ t = { s with hobs := t.hobs, txns := t.txns, hosts := t.hosts, free := t.free, cells := t.cells, broadcasts := t.broadcasts, out := t.out } ∧
       (∀ q g, q ≠ port.val ∨ g ≠ fn.val → (t.host q).fnSt g = { (s.host q).fnSt g with
         rings := ((t.host q).fnSt g).rings, pba := ((t.host q).fnSt g).pba }) ∧
       ((fn.val = 0 ∨ s.assigned port.val fn.val = false ∨ s.pfRefs (fn.val - 1) = []) →
         t.out = s.out ∧ (∀ q, q ≠ port.val → t.host q = s.host q) ∧ (∀ g, g ≠ fn.val → (t.host port.val).fnSt g = (s.host port.val).fnSt g)) ∧
       ((t.host port.val).fnSt fn.val).authOk = false ∧ ((t.host port.val).fnSt fn.val).rings = [] ∧
       (fn.val ≠ 0 → s.assigned port.val fn.val = true → (t.hob (fn.val - 1)).run.refs = [] ∧ (t.hob (fn.val - 1)).fenceWaits = [])) ∧
  (∀ (port : HPort) (s : State),
     s.pins.pwrgd = true →
     (s.host port.val).perst = false →
     ∃ t, exec (.perstAssert port) s = .next t ∧ t = { s with hobs := t.hobs, txns := t.txns, hosts := t.hosts, free := t.free, cells := t.cells, broadcasts := t.broadcasts } ∧
       (t.host port.val).perst = true ∧ (t.host port.val).linkUp = false ∧ (∀ q, q ≠ port.val → t.host q = s.host q) ∧
       (∀ f ∈ List.range 9, ((t.host port.val).fnSt f).authOk = false ∧ ((t.host port.val).fnSt f).rings = [])) ∧
  (∀ (port : HPort) (s : State),
     s.pins.pwrgd = true →
     (s.host port.val).perst = true →
     ∃ t, exec (.perstDeassert port) s = .next t ∧ t = { s with hosts := t.hosts, out := t.out } ∧
       t.host port.val = { s.host port.val with perst := false, linkUp := !(s.host port.val).fenced } ∧
       t.out = (if (s.host port.val).ready then s.out else .crs port.val :: s.out))

/-- For a ring command whose turn has come: RUN_STEPS of at least one step on a stopped hob with a recipe, its staging mapped,
its ports at their class, no cell's state lost and no homeless station completes with the hob RUNNING that many steps under
this command, answered only when they commit; on a running hob with the same buffers with the steps added, the next one
begun at once where the last queued step has reached its fence and only waits for its commit; with count 0 answered
REJECTED. FENCE subcode 0 is answered at once with the last committed fence where that is at or beyond the one named, and
waits on a hob that runs or is held otherwise; subcode 1 makes a hob that runs or is held stop at its next fence, and is
answered at once on any other that is not FREE. LOAD_RECIPE on a hob in a state that takes one is answered REJECTED with the
code of the first failed check, the hob as it was, or leaves the hob LOADING with that recipe; on any other hob it is
answered STATE. LOAD_RECIPE_DONE with no port short, the broadcast and its windows' closing ended and its home copies filled
leaves the hob STOPPED and tells the stations and the first 8 B of the digest. -/
def Obligations.RunsStartStopAndWait : Prop :=
  (∀ (ref : CmdRef) (hob : HobId) (count : Nat) (each : Bool) (buf bufLen stg stgLen : Nat) (s : State) (e : Sqe),
     s.turn ref hob.val 2 e = true →
     runArgs count each buf bufLen stg stgLen e.args = true →
     count ≠ 0 →
     (s.hob hob.val).recipe.isSome = true →
     (s.hob hob.val).restore = none →
     (s.hob hob.val).torn = false →
     (s.hob hob.val).st = .stopped →
     (s.hob hob.val).homeless = [] →
     (s.hob hob.val).mapped stg stgLen = true →
     s.portFell hob.val = none →
     s.lostCell hob.val = none →
     ∃ t, exec (.runSteps ref hob count each buf bufLen stg stgLen) s = .next t ∧ t.mem = s.mem ∧ (t.hob hob.val).st = .running ∧
       (t.hob hob.val).run = {
         stepsLeft := count - 1, buf := buf, bufLen := bufLen, stg := stg, stgLen := stgLen,
         refs := [{ ref := ref, count := count, each := each }] } ∧
       (t.hob hob.val).fenceLast = (s.hob hob.val).fenceLast ∧ (t.hob hob.val).clk.live = true ∧ (t.hob hob.val).clk.fence = (s.hob hob.val).fenceLast + 1) ∧
  (∀ (ref : CmdRef) (hob : HobId) (count : Nat) (each : Bool) (buf bufLen stg stgLen : Nat) (s : State) (e : Sqe),
     s.turn ref hob.val 2 e = true →
     runArgs count each buf bufLen stg stgLen e.args = true →
     count ≠ 0 →
     (s.hob hob.val).recipe.isSome = true →
     (s.hob hob.val).restore = none →
     (s.hob hob.val).torn = false →
     (s.hob hob.val).st = .running →
     ((s.hob hob.val).run.buf, (s.hob hob.val).run.bufLen, (s.hob hob.val).run.stg, (s.hob hob.val).run.stgLen) = (buf, bufLen, stg, stgLen) →
     (s.hob hob.val).betweenSteps = false →
     ∃ t, exec (.runSteps ref hob count each buf bufLen stg stgLen) s = .next t ∧ t = { s with hobs := t.hobs, hosts := t.hosts } ∧ (∀ k, k ≠ hob.val → t.hob k = s.hob k) ∧
       (t.hob hob.val) = { (s.hob hob.val) with run := { (s.hob hob.val).run with
         stepsLeft := (s.hob hob.val).run.stepsLeft + count, refs := (s.hob hob.val).run.refs ++ [{ ref := ref, count := count, each := each }] } }) ∧
  (∀ (ref : CmdRef) (hob : HobId) (count : Nat) (each : Bool) (buf bufLen stg stgLen : Nat) (s : State) (e : Sqe),
     s.turn ref hob.val 2 e = true →
     runArgs count each buf bufLen stg stgLen e.args = true →
     count ≠ 0 →
     (s.hob hob.val).recipe.isSome = true →
     (s.hob hob.val).restore = none →
     (s.hob hob.val).torn = false →
     (s.hob hob.val).st = .running →
     ((s.hob hob.val).run.buf, (s.hob hob.val).run.bufLen, (s.hob hob.val).run.stg, (s.hob hob.val).run.stgLen) = (buf, bufLen, stg, stgLen) →
     (s.hob hob.val).betweenSteps = true →
     (s.hob hob.val).closing.length < 2 →
     ∃ t, exec (.runSteps ref hob count each buf bufLen stg stgLen) s = .next t ∧ t = { s with hobs := t.hobs, hosts := t.hosts } ∧ (∀ k, k ≠ hob.val → t.hob k = s.hob k) ∧
       (t.hob hob.val).run.stepsLeft = (s.hob hob.val).run.stepsLeft + count - 1 ∧ (t.hob hob.val).run.refs = (s.hob hob.val).run.refs ++ [{ ref := ref, count := count, each := each }] ∧
       (t.hob hob.val).clk.live = true ∧ (t.hob hob.val).clk.fence = (s.hob hob.val).clk.fence + 1 ∧ (t.hob hob.val).clk.stepStart = (s.hob hob.val).clk.cyc ∧ (t.hob hob.val).st = .running ∧
       (t.hob hob.val).hold = (s.hob hob.val).hold) ∧
  (∀ (ref : CmdRef) (hob : HobId) (each : Bool) (buf bufLen stg stgLen : Nat) (s : State) (e : Sqe),
     s.turn ref hob.val 2 e = true →
     runArgs 0 each buf bufLen stg stgLen e.args = true →
     ∃ t, exec (.runSteps ref hob 0 each buf bufLen stg stgLen) s = .next t ∧ t = { s with hosts := t.hosts, out := t.out } ∧
       s.answers t ref 2 1 0 0 0) ∧
  (∀ (ref : CmdRef) (hob : HobId) (fence : Nat) (s : State) (e : Sqe),
     s.turn ref hob.val 3 e = true →
     (leAt e.args 8 8 == fence) = true →
     e.sub = 0 →
     (s.hob hob.val).st ≠ .free →
     fence ≤ (s.hob hob.val).fenceLast →
     ∃ t, exec (.fenceWait ref hob fence) s = .next t ∧ t = { s with hosts := t.hosts, out := t.out } ∧
       s.answers t ref 3 0 0 0 (s.hob hob.val).fenceLast) ∧
  (∀ (ref : CmdRef) (hob : HobId) (fence : Nat) (s : State) (e : Sqe),
     s.turn ref hob.val 3 e = true →
     (leAt e.args 8 8 == fence) = true →
     e.sub = 0 →
     ((s.hob hob.val).st = .running ∨ (s.hob hob.val).st = .held) →
     (s.hob hob.val).fenceLast < fence →
     ∃ t, exec (.fenceWait ref hob fence) s = .next t ∧ t = { s with hobs := t.hobs, hosts := t.hosts } ∧ (∀ k, k ≠ hob.val → t.hob k = s.hob k) ∧
       (t.hob hob.val) = { (s.hob hob.val) with fenceWaits := (s.hob hob.val).fenceWaits ++ [(ref, fence)] }) ∧
  (∀ (ref : CmdRef) (hob : HobId) (s : State) (e : Sqe),
     s.turn ref hob.val 3 e = true →
     e.sub = 1 →
     ((s.hob hob.val).st = .running ∨ (s.hob hob.val).st = .held) →
     ∃ t, exec (.fenceStop ref hob) s = .next t ∧ t = { s with hobs := t.hobs, hosts := t.hosts } ∧ (∀ k, k ≠ hob.val → t.hob k = s.hob k) ∧
       (t.hob hob.val).run.stopAt.isSome = true ∧ (t.hob hob.val).run.fenceStops = (s.hob hob.val).run.fenceStops ++ [ref] ∧ (t.hob hob.val).st = (s.hob hob.val).st) ∧
  (∀ (ref : CmdRef) (hob : HobId) (s : State) (e : Sqe),
     s.turn ref hob.val 3 e = true →
     e.sub = 1 →
     (s.hob hob.val).st ≠ .free →
     (s.hob hob.val).st ≠ .running →
     (s.hob hob.val).st ≠ .held →
     ∃ t, exec (.fenceStop ref hob) s = .next t ∧ t = { s with hosts := t.hosts, out := t.out } ∧
       s.answers t ref 3 0 0 0 (s.hob hob.val).fenceLast) ∧
  (∀ (ref : CmdRef) (hob : HobId) (image : Image) (s : State) (e : Sqe),
     s.turn ref hob.val 1 e = true →
     (leAt e.args 8 8 == image.addr && leAt e.args 0x10 8 == image.size) = true →
     (s.hob hob.val).takesLoad = true →
     s.inReset 6 hob.val = false →
     image.readOk = true →
     ∃ t, exec (.loadRecipe ref hob image) s = .next t ∧ t.mem = s.mem ∧ t.lines = s.lines ∧
       ((s.started ref 1).recipeCode hob.val image (fun n => ((s.started ref 1).replaceFars hob.val image.recipe).void hob.val n) = 0 →
         (t.hob hob.val).st = .loading ∧ (t.hob hob.val).recipe = some image.recipe ∧ (t.hob hob.val).loading = some ref) ∧
       ((s.started ref 1).recipeCode hob.val image (fun n => ((s.started ref 1).replaceFars hob.val image.recipe).void hob.val n) ≠ 0 →
         t = { s with hosts := t.hosts, out := t.out } ∧
         s.answers t ref 1 1 ((s.started ref 1).recipeCode hob.val image fun n => ((s.started ref 1).replaceFars hob.val image.recipe).void hob.val n) 0 0)) ∧
  (∀ (ref : CmdRef) (hob : HobId) (image : Image) (s : State) (e : Sqe),
     s.turn ref hob.val 1 e = true →
     (leAt e.args 8 8 == image.addr && leAt e.args 0x10 8 == image.size) = true →
     (s.hob hob.val).takesLoad = false →
     ∃ t, exec (.loadRecipe ref hob image) s = .next t ∧ t = { s with hosts := t.hosts, out := t.out } ∧ s.answers t ref 1 3 0 0 0) ∧
  (∀ (hob : HobId) (s : State) (ref : CmdRef),
     (s.hob hob.val).loading = some ref →
     (s.hob hob.val).st = .loading →
     s.portShort hob.val = none →
     (s.broadcasts.any fun b => b.hob == some hob.val) = false →
     s.windowsEnding hob.val = false →
     (s.hob hob.val).fills = [] →
     (s.ring ref.port.val ref.fn.val ref.ring.val).on = true →
     ∃ t, exec (.loadRecipeDone hob) s = .next t ∧ t = { s with cells := t.cells, hobs := t.hobs, hosts := t.hosts, out := t.out } ∧ (∀ k, k ≠ hob.val → t.hob k = s.hob k) ∧
       (t.hob hob.val).st = .stopped ∧ (t.hob hob.val).loading = none ∧ (t.hob hob.val).recipe = (s.hob hob.val).recipe ∧ (t.hob hob.val).fenceLast = (s.hob hob.val).fenceLast ∧
       s.told t ref 1 0 0 (s.hob hob.val).rcp.stations.length ((s.hob hob.val).rcp.digest.toNat % 2 ^ 64))

/-- For a ring command whose turn has come: COPY of a length the spec allows, not from a jar, on a hob that is not FREE
completes with the copy queued, running unless its stack source still waits for its fence, and answered later; one of a
length that is no multiple of 64 is answered REJECTED. COPY_DONE of a running copy from a stack to host memory completes
with the copy gone, the bytes read put out to the hob's host port and the count told; of one from host memory to a stack
with the bytes stored. WINDOW_OPEN on a CLOSED window of a landing region of a sequencer-mode hob opens it with that slot's
queue generation and answers its generation; on a CLOSING one it waits. WINDOW_CLOSE on an open window makes it CLOSING and
advances its generation; a CLOSING one takes the command along. Stack memory and every other cell are as they were. -/
def Obligations.CopiesAndWindowsServeTheirCommands : Prop :=
  (∀ (ref : CmdRef) (hob : HobId) (src dst len after : Nat) (srcKind dstKind : Fin 4) (s : State) (e : Sqe),
     s.turn ref hob.val 4 e = true →
     copyArgs src dst len after srcKind.val dstKind.val e.args = true →
     64 ≤ len →
     len ≤ 2 ^ 34 →
     len % 64 = 0 →
     srcKind.val ≤ 1 →
     dstKind.val ≤ 1 →
     (s.hob hob.val).st ≠ .free →
     ∃ t, exec (.copy ref hob src dst len after srcKind dstKind) s = .next t ∧
       t = { s with hobs := t.hobs, hosts := t.hosts, cfgs := t.cfgs, stk := t.stk } ∧ (∀ k, k ≠ hob.val → t.hob k = s.hob k) ∧
       (t.hob hob.val) = { (s.hob hob.val) with copies := (s.hob hob.val).copies ++ [{
         ref := ref, src := src, dst := dst, len := len, after := after, srcKind := srcKind.val, dstKind := dstKind.val,
         running := srcKind.val == 0 || decide (after ≤ (s.hob hob.val).fenceLast) }] }) ∧
  (∀ (ref : CmdRef) (hob : HobId) (src dst len after : Nat) (srcKind dstKind : Fin 4) (s : State) (e : Sqe),
     s.turn ref hob.val 4 e = true →
     copyArgs src dst len after srcKind.val dstKind.val e.args = true →
     len % 64 ≠ 0 →
     ∃ t, exec (.copy ref hob src dst len after srcKind dstKind) s = .next t ∧ t = { s with hosts := t.hosts, out := t.out } ∧
       s.answers t ref 4 1 0 0 0) ∧
  (∀ (hob : HobId) (moved : Nat) (data : List Byte) (s : State) (c : Copy),
     ((s.hob hob.val).copies.find? fun c => c.running) = some c →
     s.copyWaits hob.val c = false →
     c.dstKind = 0 →
     c.srcKind = 1 →
     s.owed c.ref = true →
     ∃ t, exec (.copyDone hob true moved ⟨data, []⟩) s = .next t ∧
       t = { s with hobs := t.hobs, hosts := t.hosts, out := t.out, stk := t.stk, errs := t.errs, lines := t.lines } ∧ (∀ k, k ≠ hob.val → t.hob k = s.hob k) ∧
       (t.hob hob.val) = { (s.hob hob.val) with copies := (s.hob hob.val).copies.erase c } ∧
       .hostData (s.hob hob.val).grant.hport.toNat c.dst
         ((s.each c.stacksOf State.touchStack).stackRead hob.val c.src (min ((s.hob hob.val).copyLimit c) c.len)).1 ∈ t.out ∧
       s.told t c.ref 4 (if min ((s.hob hob.val).copyLimit c) c.len = c.len then 0 else 5) 0 0 (min ((s.hob hob.val).copyLimit c) c.len)) ∧
  (∀ (hob : HobId) (moved : Nat) (data : List Byte) (s u : State) (c : Copy),
     ((s.hob hob.val).copies.find? fun c => c.running) = some c →
     s.copyWaits hob.val c = false →
     c.dstKind = 1 →
     c.srcKind = 0 →
     s.owed c.ref = true →
     (s.each c.stacksOf State.touchStack).storeRun hob.val c.dst (bytesAt data 0 (min ((s.hob hob.val).copyLimit c) c.len)) (fun _ => false) = .ok u →
     ∃ t, exec (.copyDone hob true moved ⟨data, []⟩) s = .next t ∧ t = { u with hobs := t.hobs, hosts := t.hosts, out := t.out } ∧
       (t.hob hob.val).copies = (s.hob hob.val).copies.erase c ∧
       s.told t c.ref 4 (if min ((s.hob hob.val).copyLimit c) c.len = c.len then 0 else 5) 0 0 (min ((s.hob hob.val).copyLimit c) c.len)) ∧
  (∀ (ref : CmdRef) (hob : HobId) (cell : BitVec 13) (win : WinId) (slot : SlotId) (region : RegionId) (s : State) (e : Sqe),
     s.turn ref hob.val 5 e = true →
     (leAt e.args 8 2 == cell.toNat && leAt e.args 0xA 1 == win.val && leAt e.args 0xB 1 == 16 * slot.val + region.val) = true →
     ((s.hob hob.val).st = .stopped ∨ (s.hob hob.val).st = .running) →
     (s.hob hob.val).seqMode = true →
     cell.toNat < (s.hob hob.val).rect.cells →
     (((s.cell (s.posOf hob.val cell.toNat)).slot slot.val).region region.val).valid = true →
     (((s.cell (s.posOf hob.val cell.toNat)).slot slot.val).region region.val).landing = true →
     ((s.cell (s.posOf hob.val cell.toNat)).win win.val).state = 0 →
     ((s.cell (s.posOf hob.val cell.toNat)).win win.val).ending = false →
     ∃ t, exec (.windowOpen ref hob cell win slot region) s = .next t ∧
       t = { s with cells := t.cells, hosts := t.hosts, cfgs := t.cfgs, stk := t.stk, out := t.out } ∧
       (∀ p, p ≠ s.posOf hob.val cell.toNat → t.cell p = s.cell p) ∧
       (t.cell (s.posOf hob.val cell.toNat)).win win.val = { (s.cell (s.posOf hob.val cell.toNat)).win win.val with
         state := 1, slot := BitVec.ofNat 2 slot.val, region := BitVec.ofNat 4 region.val,
         qgen := ((s.cell (s.posOf hob.val cell.toNat)).slot slot.val).qgen, landed := 0, refused := 0, reopen := none } ∧
       s.answers t ref 5 0 0 ((s.cell (s.posOf hob.val cell.toNat)).win win.val).gen.toNat 0) ∧
  (∀ (ref : CmdRef) (hob : HobId) (cell : BitVec 13) (win : WinId) (slot : SlotId) (region : RegionId) (s : State) (e : Sqe),
     s.turn ref hob.val 5 e = true →
     (leAt e.args 8 2 == cell.toNat && leAt e.args 0xA 1 == win.val && leAt e.args 0xB 1 == 16 * slot.val + region.val) = true →
     ((s.hob hob.val).st = .stopped ∨ (s.hob hob.val).st = .running) →
     (s.hob hob.val).seqMode = true →
     cell.toNat < (s.hob hob.val).rect.cells →
     (((s.cell (s.posOf hob.val cell.toNat)).slot slot.val).region region.val).valid = true →
     (((s.cell (s.posOf hob.val cell.toNat)).slot slot.val).region region.val).landing = true →
     ((s.cell (s.posOf hob.val cell.toNat)).win win.val).state = 2 →
     ((s.cell (s.posOf hob.val cell.toNat)).win win.val).reopen = none →
     ∃ t, exec (.windowOpen ref hob cell win slot region) s = .next t ∧
       t = { s with cells := t.cells, hosts := t.hosts, cfgs := t.cfgs, stk := t.stk } ∧
       (∀ p, p ≠ s.posOf hob.val cell.toNat → t.cell p = s.cell p) ∧
       (t.cell (s.posOf hob.val cell.toNat)).win win.val = { (s.cell (s.posOf hob.val cell.toNat)).win win.val with
         reopen := some (slot.val, region.val, ref) }) ∧
  (∀ (ref : CmdRef) (hob : HobId) (cell : BitVec 13) (win : WinId) (s : State) (e : Sqe),
     s.turn ref hob.val 6 e = true →
     (leAt e.args 8 2 == cell.toNat && leAt e.args 0xA 1 == win.val) = true →
     (s.hob hob.val).st ≠ .free →
     cell.toNat < (s.hob hob.val).rect.cells →
     ((s.cell (s.posOf hob.val cell.toNat)).win win.val).ending = false →
     ∃ t, exec (.windowClose ref hob cell win) s = .next t ∧ t = { s with cells := t.cells, hosts := t.hosts } ∧
       (∀ p, p ≠ s.posOf hob.val cell.toNat → t.cell p = s.cell p) ∧
       (((s.cell (s.posOf hob.val cell.toNat)).win win.val).state = 2 →
         (t.cell (s.posOf hob.val cell.toNat)).win win.val = { (s.cell (s.posOf hob.val cell.toNat)).win win.val with
           closers := ((s.cell (s.posOf hob.val cell.toNat)).win win.val).closers ++ [ref] }) ∧
       (((s.cell (s.posOf hob.val cell.toNat)).win win.val).state ≠ 2 →
         (t.cell (s.posOf hob.val cell.toNat)).win win.val = { (s.cell (s.posOf hob.val cell.toNat)).win win.val with
           state := 2, gen := ((s.cell (s.posOf hob.val cell.toNat)).win win.val).gen + 1, closedAt := s.now, closers := [ref] }))

/-- For a ring command whose turn has come, with the log working: HOB_CONFIG SHAPE that is allowed leaves the hob LOADING with
that rectangle and no recipe, under a new memory key where it was FREE. MEMORY that is allowed leaves no extent at or beyond
the count on that stack when it shrinks, and maps each new one to a free device extent when it grows. PANTRY, POWER and JARS
set their one value, within the grant, at most 100 and 0 or 1. TEST on a stopped hob leaves every failed position of its
racks lidded. Each is logged with the hob and result 0 and answered; one that is not allowed changes nothing but the log,
the ring and the outputs. HOB_RELEASE of a hob that is not FREE, none of whose cells has a window, leaves it FREE, without
rectangle, recipe, key and extents, the extents it held waiting to be zeroed, and its commands answered; where a cell has a
window, the hob first waits for the quiesce interval of its windows, all of them closing. -/
def Obligations.HobConfigShapesAHob : Prop :=
  (∀ (ref : CmdRef) (hob : HobId) (x0 y0 w h : Nat) (s : State) (e : Sqe),
     s.turn ref hob.val 10 e = true →
     (leAt e.args 8 1 == x0 && leAt e.args 9 1 == y0 && leAt e.args 0xA 1 == w && leAt e.args 0xB 1 == h) = true →
     e.sub = 0 →
     (s.ring ref.port.val ref.fn.val ref.ring.val).en = true →
     s.logFail = false →
     s.shapeStatus hob.val { x0 := x0, y0 := y0, w := w, h := h } = 0 →
     ∃ t, exec (.hobConfigShape ref hob x0 y0 w h) s = .next t ∧ t.mem = s.mem ∧ (∀ k, k ≠ hob.val → t.hob k = s.hob k) ∧ (t.hob hob.val).st = .loading ∧
       (t.hob hob.val).shape = some { x0 := x0, y0 := y0, w := w, h := h } ∧ (t.hob hob.val).recipe = none ∧ (t.hob hob.val).ext = (s.hob hob.val).ext ∧
       (t.hob hob.val).key = (if (s.hob hob.val).st = .free then s.hearth.keyGen else (s.hob hob.val).key) ∧ (∃ r ∈ t.log, r.seq = s.logSeq ∧ r.role = 1 ∧ r.code = BitVec.ofNat 16 (0x300 + 0) ∧ r.result = 0 ∧ r.hob = hob.val) ∧ s.told t ref 10 0 0 0 0) ∧
  (∀ (ref : CmdRef) (hob : HobId) (x0 y0 w h : Nat) (s : State) (e : Sqe),
     s.turn ref hob.val 10 e = true →
     (leAt e.args 8 1 == x0 && leAt e.args 9 1 == y0 && leAt e.args 0xA 1 == w && leAt e.args 0xB 1 == h) = true →
     e.sub = 0 →
     s.shapeStatus hob.val { x0 := x0, y0 := y0, w := w, h := h } ≠ 0 →
     ∃ t, exec (.hobConfigShape ref hob x0 y0 w h) s = .next t ∧
       t = { s with log := t.log, logSeq := t.logSeq, hosts := t.hosts, out := t.out } ∧
       s.answers t ref 10 (if s.logFail then 3 else s.shapeStatus hob.val { x0 := x0, y0 := y0, w := w, h := h }) 0 0 0) ∧
  (∀ (ref : CmdRef) (hob : HobId) (stack extents : Nat) (s : State) (e : Sqe),
     s.turn ref hob.val 10 e = true →
     (leAt e.args 8 1 == stack && leAt e.args 0xC 4 == extents) = true →
     e.sub = 1 →
     s.logFail = false →
     s.memoryStatus hob.val stack extents = 0 →
     ∃ t, exec (.hobConfigMemory ref hob stack extents) s = .next t ∧ (∀ k, k ≠ hob.val → t.hob k = s.hob k) ∧ (t.hob hob.val).st = (s.hob hob.val).st ∧ (t.hob hob.val).recipe = (s.hob hob.val).recipe ∧
       (extents < (s.hob hob.val).extCount stack → ∀ e ∈ (t.hob hob.val).ext, ¬ (e.1 / 352 = stack ∧ extents ≤ e.1 % 352)) ∧
       ((s.hob hob.val).extCount stack ≤ extents → t.mem = s.mem ∧ ∀ i, (s.hob hob.val).extCount stack ≤ i → i < extents →
         ((t.hob hob.val).ext.get {} (extKey stack i)).valid = true ∧
         ((t.hob hob.val).ext.get {} (extKey stack i)).dev.toNat ∈ s.freeExts stack) ∧
       (∃ r ∈ t.log, r.seq = s.logSeq ∧ r.role = 1 ∧ r.code = BitVec.ofNat 16 (0x300 + 1) ∧ r.result = 0 ∧ r.hob = hob.val) ∧ s.told t ref 10 0 0 0 0) ∧
  (∀ (ref : CmdRef) (hob : HobId) (gib : Nat) (s : State) (e : Sqe),
     s.turn ref hob.val 10 e = true →
     (leAt e.args 8 4 == gib) = true →
     e.sub = 2 →
     s.logFail = false →
     (s.hob hob.val).st ≠ .free →
     gib ≤ (s.hob hob.val).grant.pantry.toNat →
     ((s.hob hob.val).reported ≠ .ovr ∨ gib ≤ (s.hob hob.val).pantryQ) →
     ∃ t, exec (.hobConfigPantry ref hob gib) s = .next t ∧ (∀ k, k ≠ hob.val → t.hob k = s.hob k) ∧
       t = { s with hobs := t.hobs, log := t.log, logSeq := t.logSeq, hosts := t.hosts, out := t.out } ∧
       (t.hob hob.val) = { (s.hob hob.val) with pantryQ := gib } ∧ (∃ r ∈ t.log, r.seq = s.logSeq ∧ r.role = 1 ∧ r.code = BitVec.ofNat 16 (0x300 + 2) ∧ r.result = 0 ∧ r.hob = hob.val) ∧ s.answers t ref 10 0 0 0 0) ∧
  (∀ (ref : CmdRef) (hob : HobId) (percent : Nat) (s : State) (e : Sqe),
     s.turn ref hob.val 10 e = true →
     (leAt e.args 8 1 == percent) = true →
     e.sub = 3 →
     s.logFail = false →
     (s.hob hob.val).st ≠ .free →
     percent ≤ 100 →
     ∃ t, exec (.hobConfigPower ref hob percent) s = .next t ∧ (∀ k, k ≠ hob.val → t.hob k = s.hob k) ∧
       t = { s with hobs := t.hobs, log := t.log, logSeq := t.logSeq, hosts := t.hosts, out := t.out } ∧
       (t.hob hob.val) = { (s.hob hob.val) with powerQ := percent, simmer := { (s.hob hob.val).simmer with share := (t.hob hob.val).simmer.share } } ∧
       (∃ r ∈ t.log, r.seq = s.logSeq ∧ r.role = 1 ∧ r.code = BitVec.ofNat 16 (0x300 + 3) ∧ r.result = 0 ∧ r.hob = hob.val) ∧ s.answers t ref 10 0 0 0 0) ∧
  (∀ (ref : CmdRef) (hob : HobId) (mode : Nat) (s : State) (e : Sqe),
     s.turn ref hob.val 10 e = true →
     (leAt e.args 8 1 == mode) = true →
     e.sub = 4 →
     s.logFail = false →
     (s.hob hob.val).st ≠ .free →
     mode ≤ 1 →
     ∃ t, exec (.hobConfigJars ref hob mode) s = .next t ∧ (∀ k, k ≠ hob.val → t.hob k = s.hob k) ∧
       t = { s with hobs := t.hobs, log := t.log, logSeq := t.logSeq, hosts := t.hosts, out := t.out } ∧
       (t.hob hob.val) = { (s.hob hob.val) with policy := { (s.hob hob.val).policy with mode := mode } } ∧ (∃ r ∈ t.log, r.seq = s.logSeq ∧ r.role = 1 ∧ r.code = BitVec.ofNat 16 (0x300 + 4) ∧ r.result = 0 ∧ r.hob = hob.val) ∧ s.answers t ref 10 0 0 0 0) ∧
  (∀ (ref : CmdRef) (hob : HobId) (minutes : Nat) (s : State) (e : Sqe),
     s.turn ref hob.val 10 e = true →
     (leAt e.args 8 4 == minutes) = true →
     e.sub = 5 →
     s.logFail = false →
     (s.hob hob.val).st ≠ .stopped →
     ∃ t, exec (.hobConfigTest ref hob minutes []) s = .next t ∧
       t = { s with log := t.log, logSeq := t.logSeq, hosts := t.hosts, out := t.out } ∧ s.answers t ref 10 3 0 0 0) ∧
  (∀ (ref : CmdRef) (hob : HobId) (minutes : Nat) (failed : List (Pos × BitVec 12)) (s : State) (e : Sqe),
     s.turn ref hob.val 10 e = true →
     (leAt e.args 8 4 == minutes) = true →
     e.sub = 5 →
     s.logFail = false →
     (s.hob hob.val).st = .stopped →
     (s.hob hob.val).restore = none →
     ∃ t, exec (.hobConfigTest ref hob minutes failed) s = .next t ∧ t.mem = s.mem ∧
       (∀ n ∈ s.nums hob.val, (s.racksOf hob.val).contains (Pos.ofIdx (s.posOf hob.val n)).rack = true → s.usable (s.posOf hob.val n) = true →
         minutes * 60000 ≤ s.lifeMs - (s.pos (s.posOf hob.val n)).cleanAt → s.windowOk (s.posOf hob.val n) = true →
         (failed.any fun e => e.1.idx == s.posOf hob.val n) = true → (t.pos (s.posOf hob.val n)).state = .lidded)) ∧
  (∀ (ref : CmdRef) (hob : HobId) (s : State) (e : Sqe),
     s.turn ref hob.val 11 e = true →
     (s.ring ref.port.val ref.fn.val ref.ring.val).en = true →
     (s.hob hob.val).st ≠ .free →
     (∀ n ∈ s.nums hob.val, (s.cell (s.posOf hob.val n)).wins = []) →
     ∃ t, exec (.hobRelease ref hob) s = .next t ∧ (t.hob hob.val).st = .free ∧ (t.hob hob.val).shape = none ∧ (t.hob hob.val).recipe = none ∧ (t.hob hob.val).key = 0 ∧
       (t.hob hob.val).ext = [] ∧ (t.hob hob.val).grant = (s.hob hob.val).grant ∧
       (t.hob hob.val).zeroing = (s.hob hob.val).zeroing ++ ((s.hob hob.val).ext.filter fun e => e.2.valid).map (fun e => e.1 / 352 * 352 + e.2.dev.toNat) ∧
       (∀ p ∈ [0, 1, 2, 3], ((t.host p).fnSt (hob.val + 1)).authOk = false) ∧ s.told t ref 11 0 0 0 0) ∧
  (∀ (ref : CmdRef) (hob : HobId) (s : State) (e : Sqe) (n : Nat) (w : Nat × Win),
     s.turn ref hob.val 11 e = true →
     (s.hob hob.val).st ≠ .free →
     n ∈ s.nums hob.val →
     w ∈ (s.cell (s.posOf hob.val n)).wins →
     ∃ t, exec (.hobRelease ref hob) s = .next t ∧ t.mem = s.mem ∧ (∀ k, k ≠ hob.val → t.hob k = s.hob k) ∧ (t.hob hob.val).releasing = some (some ref) ∧ (t.hob hob.val).st = (s.hob hob.val).st ∧
       (t.hob hob.val).ext = (s.hob hob.val).ext ∧ (∀ v ∈ (t.cell (s.posOf hob.val n)).wins, v.2.ending = true ∧ v.2.state ≠ 1 ∧ v.2.closedAt = s.now))

/-- For a QUERY whose turn has come, each subcode changes only host port state and the outputs (the log readout also the log,
which it seals first). Where the destination is long enough the bytes go out to the host port at the address given and the
record carries OK and their count; otherwise the record carries SHORT and the count needed. The bytes are: 0 the hob's state
registers, 1 one word of the hob map for each cell, 2 the distance table of each cell, 3 telemetry, 4 grants, 5 the count of
lost events (on function 0 also that of the port's device events), 6 the report of that number (STATE where there is none),
7 the newest whole log records that fit, those of other hobs as stubs. How subcodes 0, 3, 4 and 5 lay their registers out is
open (log entry 44). -/
def Obligations.QueriesAnswerFromTheRegisters : Prop :=
  (∀ (ref : CmdRef) (hob : HobId) (addr len : Nat) (s : State) (e : Sqe),
     s.turn ref hob.val 9 e = true →
     queryArgs addr len e.args = true →
     e.sub = 0 →
     ∃ t, exec (.queryState ref hob addr len) s = .next t ∧ t = { s with hosts := t.hosts, out := t.out } ∧
       ((Config.queryLayout 0 ((s.started ref 9).stateRegs hob.val)).length ≤ len →
         ((s.emit (.query hob.val 0 ((s.started ref 9).stateRegs hob.val))).emit (.hostData ref.port.val addr ((Config.queryLayout 0 ((s.started ref 9).stateRegs hob.val))))).answers t ref 9 0 0 (Config.queryLayout 0 ((s.started ref 9).stateRegs hob.val)).length 0) ∧
       (len < (Config.queryLayout 0 ((s.started ref 9).stateRegs hob.val)).length → (s.emit (.query hob.val 0 ((s.started ref 9).stateRegs hob.val))).answers t ref 9 7 0 (Config.queryLayout 0 ((s.started ref 9).stateRegs hob.val)).length 0)) ∧
  (∀ (ref : CmdRef) (hob : HobId) (addr len : Nat) (s : State) (e : Sqe),
     s.turn ref hob.val 9 e = true →
     queryArgs addr len e.args = true →
     e.sub = 1 →
     ∃ t, exec (.queryHobMap ref hob addr len) s = .next t ∧ t = { s with hosts := t.hosts, out := t.out } ∧
       (((s.nums hob.val).flatMap fun n => leBytes 4 (s.mapEntry hob.val n)).length ≤ len →
         (s.emit (.hostData ref.port.val addr (((s.nums hob.val).flatMap fun n => leBytes 4 (s.mapEntry hob.val n))))).answers t ref 9 0 0 ((s.nums hob.val).flatMap fun n => leBytes 4 (s.mapEntry hob.val n)).length 0) ∧
       (len < ((s.nums hob.val).flatMap fun n => leBytes 4 (s.mapEntry hob.val n)).length → s.answers t ref 9 7 0 ((s.nums hob.val).flatMap fun n => leBytes 4 (s.mapEntry hob.val n)).length 0)) ∧
  (∀ (ref : CmdRef) (hob : HobId) (addr len : Nat) (s : State) (e : Sqe),
     s.turn ref hob.val 9 e = true →
     queryArgs addr len e.args = true →
     e.sub = 2 →
     ∃ t, exec (.queryDistance ref hob addr len) s = .next t ∧ t = { s with hosts := t.hosts, out := t.out } ∧
       (((s.nums hob.val).flatMap fun n => (List.range 34).flatMap fun c =>
           leBytes 4 (distEntry ((s.hob hob.val).rect.xy n).1 ((s.hob hob.val).rect.xy n).2 c).toNat).length ≤ len →
         (s.emit (.hostData ref.port.val addr (((s.nums hob.val).flatMap fun n => (List.range 34).flatMap fun c =>
           leBytes 4 (distEntry ((s.hob hob.val).rect.xy n).1 ((s.hob hob.val).rect.xy n).2 c).toNat)))).answers t ref 9 0 0 ((s.nums hob.val).flatMap fun n => (List.range 34).flatMap fun c =>
           leBytes 4 (distEntry ((s.hob hob.val).rect.xy n).1 ((s.hob hob.val).rect.xy n).2 c).toNat).length 0) ∧
       (len < ((s.nums hob.val).flatMap fun n => (List.range 34).flatMap fun c =>
           leBytes 4 (distEntry ((s.hob hob.val).rect.xy n).1 ((s.hob hob.val).rect.xy n).2 c).toNat).length → s.answers t ref 9 7 0 ((s.nums hob.val).flatMap fun n => (List.range 34).flatMap fun c =>
           leBytes 4 (distEntry ((s.hob hob.val).rect.xy n).1 ((s.hob hob.val).rect.xy n).2 c).toNat).length 0)) ∧
  (∀ (ref : CmdRef) (hob : HobId) (addr len : Nat) (s : State) (e : Sqe),
     s.turn ref hob.val 9 e = true →
     queryArgs addr len e.args = true →
     e.sub = 3 →
     ∃ t, exec (.queryTelemetry ref hob addr len) s = .next t ∧ t = { s with hosts := t.hosts, out := t.out } ∧
       ((Config.queryLayout 3 ((s.started ref 9).telemetry hob.val)).length ≤ len →
         ((s.emit (.query hob.val 3 ((s.started ref 9).telemetry hob.val))).emit (.hostData ref.port.val addr ((Config.queryLayout 3 ((s.started ref 9).telemetry hob.val))))).answers t ref 9 0 0 (Config.queryLayout 3 ((s.started ref 9).telemetry hob.val)).length 0) ∧
       (len < (Config.queryLayout 3 ((s.started ref 9).telemetry hob.val)).length → (s.emit (.query hob.val 3 ((s.started ref 9).telemetry hob.val))).answers t ref 9 7 0 (Config.queryLayout 3 ((s.started ref 9).telemetry hob.val)).length 0)) ∧
  (∀ (ref : CmdRef) (hob : HobId) (addr len : Nat) (s : State) (e : Sqe),
     s.turn ref hob.val 9 e = true →
     queryArgs addr len e.args = true →
     e.sub = 4 →
     ∃ t, exec (.queryGrants ref hob addr len) s = .next t ∧ t = { s with hosts := t.hosts, out := t.out } ∧
       ((Config.queryLayout 4 (s.grantRegs hob.val)).length ≤ len →
         ((s.emit (.query hob.val 4 (s.grantRegs hob.val))).emit (.hostData ref.port.val addr ((Config.queryLayout 4 (s.grantRegs hob.val))))).answers t ref 9 0 0 (Config.queryLayout 4 (s.grantRegs hob.val)).length 0) ∧
       (len < (Config.queryLayout 4 (s.grantRegs hob.val)).length → (s.emit (.query hob.val 4 (s.grantRegs hob.val))).answers t ref 9 7 0 (Config.queryLayout 4 (s.grantRegs hob.val)).length 0)) ∧
  (∀ (ref : CmdRef) (hob : HobId) (addr len : Nat) (s : State) (e : Sqe),
     s.turn ref hob.val 9 e = true →
     queryArgs addr len e.args = true →
     e.sub = 5 →
     ∃ t, exec (.queryLostEvents ref hob addr len) s = .next t ∧ t = { s with hosts := t.hosts, out := t.out } ∧
       ((Config.queryLayout 5 ((s.hob hob.val).lostEvents :: if ref.fn.val = 0 then [(s.host ref.port.val).lostEvents] else [])).length ≤ len →
         ((s.emit (.query hob.val 5 ((s.hob hob.val).lostEvents :: if ref.fn.val = 0 then [(s.host ref.port.val).lostEvents] else []))).emit (.hostData ref.port.val addr ((Config.queryLayout 5 ((s.hob hob.val).lostEvents :: if ref.fn.val = 0 then [(s.host ref.port.val).lostEvents] else []))))).answers t ref 9 0 0 (Config.queryLayout 5 ((s.hob hob.val).lostEvents :: if ref.fn.val = 0 then [(s.host ref.port.val).lostEvents] else [])).length 0) ∧
       (len < (Config.queryLayout 5 ((s.hob hob.val).lostEvents :: if ref.fn.val = 0 then [(s.host ref.port.val).lostEvents] else [])).length → (s.emit (.query hob.val 5 ((s.hob hob.val).lostEvents :: if ref.fn.val = 0 then [(s.host ref.port.val).lostEvents] else []))).answers t ref 9 7 0 (Config.queryLayout 5 ((s.hob hob.val).lostEvents :: if ref.fn.val = 0 then [(s.host ref.port.val).lostEvents] else [])).length 0)) ∧
  (∀ (ref : CmdRef) (hob : HobId) (addr len seq : Nat) (s : State) (e : Sqe) (r : Report),
     s.turn ref hob.val 9 e = true →
     (queryArgs addr len e.args && leAt e.args 0x18 8 == seq) = true →
     e.sub = 6 →
     ((s.hob hob.val).reports.find? fun r => r.seq == seq) = some r →
     r.bytes.length ≤ len →
     ∃ t, exec (.queryReport ref hob addr len seq) s = .next t ∧ t = { s with hosts := t.hosts, out := t.out } ∧
       (s.emit (.hostData ref.port.val addr r.bytes)).answers t ref 9 0 0 r.bytes.length 0) ∧
  (∀ (ref : CmdRef) (hob : HobId) (addr len seq : Nat) (s : State) (e : Sqe),
     s.turn ref hob.val 9 e = true →
     (queryArgs addr len e.args && leAt e.args 0x18 8 == seq) = true →
     e.sub = 6 →
     ((s.hob hob.val).reports.find? fun r => r.seq == seq) = none →
     ∃ t, exec (.queryReport ref hob addr len seq) s = .next t ∧ t = { s with hosts := t.hosts, out := t.out } ∧
       s.answers t ref 9 3 0 0 0) ∧
  (∀ (ref : CmdRef) (hob : HobId) (addr len : Nat) (s : State) (e : Sqe),
     s.turn ref hob.val 9 e = true →
     queryArgs addr len e.args = true →
     e.sub = 7 →
     s.logFail = false →
     ∃ t, exec (.queryLog ref hob addr len) s = .next t ∧
       t = { s.sealLog with hosts := t.hosts, out := t.out } ∧
       (s.emit (.hostData ref.port.val addr (s.sealLog.logFor hob.val len))).answers t ref 9 0 0 (s.sealLog.logFor hob.val len).length 0)

/-- JAR_TAKE whose turn has come, on a leader of its set that is STOPPED at the fence named or runs towards it as a jar point,
with the pantry up, below wear level 3 and the jar within quota, completes with a jar under way in the slot that does not
hold the newest complete set, under the next set number, and answers when it is sealed; at wear level 3 it is answered
STATE. JAR_SET_PLAN gives a member the leader's fence, number and slot. JAR_DUE tells a hob without jar points once, and
makes a jar due that the cadence asks for, which starts at once on a hob that runs. JAR_MTBI_GATHER keeps a member's
figures. JAR_SEAL of a jar whose fence has committed and whose pages are all drained leaves the slot sealed, no jar under
way and capture off, and tells the command the slot and number. JAR_SEAL_REPORT notes the member in the jar under way or the
newest sealed one, whose cost is at least the member's. -/
def Obligations.JarsAreTakenAndSealed : Prop :=
  (∀ (ref : CmdRef) (hob : HobId) (fence : Nat) (s : State) (e : Sqe),
     s.turn ref hob.val 7 e = true →
     (leAt e.args 8 8 == fence) = true →
     ((s.hob hob.val).st = .stopped ∧ fence = (s.hob hob.val).fenceLast ∨ (s.hob hob.val).st = .running ∧ (s.hob hob.val).fenceLast < fence ∧ (s.hob hob.val).jarPoint fence = true) →
     (s.hob hob.val).jarRun = none →
     (s.hob hob.val).restore = none →
     s.pantry.level ≠ 3 →
     s.pantry.up = true →
     (s.hob hob.val).jarFits (s.hob hob.val).newSlot (s.newJar hob.val fence 0 0).bytes = true →
     s.leads hob.val = true →
     ∃ t j, exec (.jarTake ref hob fence) s = .next t ∧ t.mem = s.mem ∧ (∀ k, k ≠ hob.val → t.hob k = s.hob k) ∧ (t.hob hob.val).jarRun = some j ∧ j.ref = some ref ∧
       j.slot = (s.hob hob.val).newSlot ∧ j.planned = true ∧ j.fence = (s.hob hob.val).setFence fence ∧ j.jar.seq = (s.hob hob.val).nextSeq ∧ j.jar.fence = j.fence ∧
       ((t.hob hob.val).jars.get {} (s.hob hob.val).newSlot).sealed = false ∧ (t.hob hob.val).fenceLast = (s.hob hob.val).fenceLast) ∧
  (∀ (ref : CmdRef) (hob : HobId) (fence : Nat) (s : State) (e : Sqe),
     s.turn ref hob.val 7 e = true →
     (leAt e.args 8 8 == fence) = true →
     s.pantry.level = 3 →
     ∃ t, exec (.jarTake ref hob fence) s = .next t ∧ t = { s with hosts := t.hosts, out := t.out } ∧ s.answers t ref 7 3 0 0 0) ∧
  (∀ (hob : HobId) (fence seq : Nat) (slot : Fin 2) (lead : BitVec 13) (s : State),
     ((s.hob hob.val).st = .stopped ∧ fence = (s.hob hob.val).fenceLast ∨ (s.hob hob.val).st = .running ∧ (s.hob hob.val).fenceLast < fence) →
     lead.toNat = s.leader hob.val →
     s.leads hob.val = false →
     (s.hob hob.val).jarRun = none →
     (s.hob hob.val).restore = none →
     s.pantry.up = true →
     s.pantry.level ≠ 3 →
     (s.hob hob.val).jarFits slot.val (s.newJar hob.val fence seq 0).bytes = true →
     ∃ t j, exec (.jarSetPlan hob fence seq slot lead) s = .next t ∧ t.mem = s.mem ∧ (∀ k, k ≠ hob.val → t.hob k = s.hob k) ∧ (t.hob hob.val).jarRun = some j ∧ j.slot = slot.val ∧
       j.fence = fence ∧ j.jar.seq = seq ∧ j.jar.lead = lead.toNat ∧ j.planned = true) ∧
  (∀ (hob : HobId) (s : State),
     s.resets.hearthDown = false →
     s.inService = true →
     (s.hob hob.val).policy.mode = 0 →
     (s.hob hob.val).recipe.isSome = true →
     s.leads hob.val = true →
     s.pantry.level ≠ 3 →
     ((s.hob hob.val).rcp.fences.any fun e => e.jarPoint) = false →
     (s.hob hob.val).policy.noPointTold = false →
     ∃ t, exec (.jarDue hob) s = .next t ∧ t = { s with hobs := t.hobs, hosts := t.hosts, out := t.out } ∧ (∀ k, k ≠ hob.val → t.hob k = s.hob k) ∧
       (t.hob hob.val).policy = { (s.hob hob.val).policy with noPointTold := true } ∧ (t.hob hob.val).jarRun = (s.hob hob.val).jarRun) ∧
  (∀ (hob : HobId) (s : State),
     s.resets.hearthDown = false →
     s.inService = true →
     (s.hob hob.val).policy.mode = 0 →
     (s.hob hob.val).recipe.isSome = true →
     s.leads hob.val = true →
     s.pantry.level ≠ 3 →
     ((s.hob hob.val).rcp.fences.any fun e => e.jarPoint) = true →
     s.jarIsDue hob.val = true →
     (s.hob hob.val).st ≠ .running →
     ∃ t, exec (.jarDue hob) s = .next t ∧ t = { s with hobs := t.hobs } ∧ (∀ k, k ≠ hob.val → t.hob k = s.hob k) ∧
       (t.hob hob.val) = { (s.hob hob.val) with policy := { (s.hob hob.val).policy with due := true } }) ∧
  (∀ (hob : HobId) (member : BitVec 13) (service count factor : Nat) (s : State),
     s.resets.hearthDown = false →
     s.leads hob.val = true →
     (s.hob hob.val).rcp.peers.contains member.toNat = true →
     ∃ t, exec (.jarMtbiGather hob member service count factor) s = .next t ∧ t = { s with hobs := t.hobs } ∧ (∀ k, k ≠ hob.val → t.hob k = s.hob k) ∧
       (t.hob hob.val) = { (s.hob hob.val) with policy := { (s.hob hob.val).policy with members :=
         ((s.hob hob.val).policy.members.filter fun e => e.1 != member.toNat) ++ [(member.toNat, service, count, factor)] } }) ∧
  (∀ (hob : HobId) (s : State) (r : JarRun),
     (s.hob hob.val).jarRun = some r →
     s.pantry.up = true →
     r.planned = true →
     (s.hob hob.val).cow.draining = true →
     r.fence ≤ (s.hob hob.val).fenceLast →
     (s.hob hob.val).cow.drained.length = 4096 * ((s.hob hob.val).ext.filter fun e => e.2.valid).length →
     (s.hob hob.val).policy.due = false →
     ∃ t, exec (.jarSeal hob) s = .next t ∧ t.mem = s.mem ∧ (∀ k, k ≠ hob.val → t.hob k = s.hob k) ∧ (t.hob hob.val).jarRun = none ∧ ((t.hob hob.val).jars.get {} r.slot).sealed = true ∧
       ((t.hob hob.val).jars.get {} r.slot).seq = r.jar.seq ∧ ((t.hob hob.val).jars.get {} r.slot).data = r.jar.data ∧
       (t.hob hob.val).cow.armed = false ∧ (t.hob hob.val).cow.draining = false ∧ (t.hob hob.val).cow.drained = [] ∧
       (∀ c, r.ref = some c → (s.ring c.port.val c.fn.val c.ring.val).on = true → s.told t c 7 0 0 r.slot r.jar.seq)) ∧
  (∀ (hob : HobId) (member : BitVec 13) (costMs : Nat) (s : State),
     s.leads hob.val = true →
     (s.hob hob.val).rcp.peers.contains member.toNat = true →
     ∃ t, exec (.jarSealReport hob ⟨member, costMs⟩) s = .next t ∧ t = { s with hobs := t.hobs } ∧ (∀ k, k ≠ hob.val → t.hob k = s.hob k) ∧
       (∀ r, (s.hob hob.val).jarRun = some r → (t.hob hob.val).jars = (s.hob hob.val).jars ∧ ∃ j, (t.hob hob.val).jarRun = some j ∧ j.jar.reported.contains member.toNat = true ∧
         j.jar.costMs = max r.jar.costMs costMs ∧ j.slot = r.slot) ∧
       ((s.hob hob.val).jarRun = none → ((s.hob hob.val).jars.get {} 0).seq < ((s.hob hob.val).jars.get {} 1).seq → ((s.hob hob.val).jars.get {} 1).sealed = true →
         ((t.hob hob.val).jars.get {} 1).reported.contains member.toNat = true ∧
         ((t.hob hob.val).jars.get {} 1).costMs = max ((s.hob hob.val).jars.get {} 1).costMs costMs ∧ (t.hob hob.val).jars.get {} 0 = (s.hob hob.val).jars.get {} 0) ∧
       ((s.hob hob.val).jarRun = none → ((s.hob hob.val).jars.get {} 1).seq ≤ ((s.hob hob.val).jars.get {} 0).seq → ((s.hob hob.val).jars.get {} 0).sealed = true →
         ((t.hob hob.val).jars.get {} 0).reported.contains member.toNat = true ∧
         ((t.hob hob.val).jars.get {} 0).costMs = max ((s.hob hob.val).jars.get {} 0).costMs costMs ∧ (t.hob hob.val).jars.get {} 1 = (s.hob hob.val).jars.get {} 1))

/-- JAR_RESTORE of a local slot whose turn has come, on a STOPPED or HELD hob with a recipe and no jar or restore under way,
completes with the restore under way where the jar passes the checks of R360 in order, and is answered REJECTED with the
detail of the first that fails otherwise. JAR_RESTORE_DONE waits while a stack of the hob is in reset, and with good tags
until a peer's jar has been read whole; then with good tags it leaves the hob STOPPED at the jar's fence, next step and
generator copies, and tells the fence; with a bad tag it leaves the hob torn, tells REJECTED 0x47, and no restore is under
way. JAR_READ on a port that serves fewer than 384 requests answers at most 4 KiB within a sealed jar to a device that the
hob's access list names, and QUEUE_GONE, logged, to any other; the reply leaves by the port that LNP_ROUTE names; with that
pool full the request waits. PANTRY_SCRUB of a page within correction notes the read; above 500 permille it refreshes the
block; a block above 700 permille a second time is retired, as is one that fails (NAND_BLOCK_FAIL); a block that is
rewritten or retired holds nothing more, and what it held stands in a free block where there is one. A new block is one of
the free blocks with the lowest erase count. -/
def Obligations.JarsRestoreAndServePeers : Prop :=
  (∀ (ref : CmdRef) (hob : HobId) (slot : Fin 2) (seq : Nat) (pj : Option Jar) (s : State) (e : Sqe),
     s.turn ref hob.val 8 e = true →
     (leAt e.args 8 1 == slot.val && leAt e.args 0xA 2 == 0 && leAt e.args 0x10 8 == seq) = true →
     ((s.hob hob.val).st = .stopped ∨ (s.hob hob.val).st = .held) →
     (s.hob hob.val).recipe.isSome = true →
     (s.hob hob.val).restore = none →
     (s.hob hob.val).jarRun = none →
     ∃ t, exec (.jarRestore ref hob slot 0 seq pj) s = .next t ∧ (∀ k, k ≠ hob.val → t.hob k = s.hob k) ∧
       ((s.hob hob.val).jarFault ((s.hob hob.val).jars.get {} slot.val) seq = 0 →
         t = { s with hobs := t.hobs, hosts := t.hosts, cfgs := t.cfgs, stk := t.stk } ∧
         (t.hob hob.val) = { (s.hob hob.val) with restore := some { slot := slot.val, dev := 0, ref := ref, jar := (s.hob hob.val).jars.get {} slot.val } }) ∧
       ((s.hob hob.val).jarFault ((s.hob hob.val).jars.get {} slot.val) seq ≠ 0 → t = { s with hosts := t.hosts, out := t.out } ∧
         s.answers t ref 8 1 ((s.hob hob.val).jarFault ((s.hob hob.val).jars.get {} slot.val) seq) 0 0)) ∧
  (∀ (hob : HobId) (s : State) (r : Restore),
     (s.hob hob.val).restore = some r →
     ((s.hob hob.val).st = .stopped ∨ (s.hob hob.val).st = .held) →
     (s.ring r.ref.port.val r.ref.fn.val r.ref.ring.val).on = true →
     (s.ring r.ref.port.val r.ref.fn.val r.ref.ring.val).en = true →
     (r.remote && (decide (r.asked < r.blocks) || s.txns.any fun t => t.pool == Pool.lanper && t.kind == TxnKind.copy hob.val)) = false →
     (stackNums.any fun k => ((s.hob hob.val).ext.any fun e => e.2.valid && e.1 / 352 == k) && (s.stack k).resetting) = false →
     ∃ t, exec (.jarRestoreDone hob true) s = .next t ∧ (∀ k, k ≠ hob.val → t.hob k = s.hob k) ∧ (t.hob hob.val).st = .stopped ∧ (t.hob hob.val).restore = none ∧ (t.hob hob.val).torn = false ∧
       (t.hob hob.val).fenceLast = r.jar.fence ∧ (t.hob hob.val).nextStep = r.jar.next ∧ (t.hob hob.val).gens = r.jar.gens ∧ (t.hob hob.val).recipe = (s.hob hob.val).recipe ∧
       s.told t r.ref 8 0 0 r.jar.fence 0) ∧
  (∀ (hob : HobId) (ok : Bool) (s : State) (r : Restore),
     (s.hob hob.val).restore = some r →
     ((r.remote && ok && (decide (r.asked < r.blocks) || s.txns.any fun t => t.pool == Pool.lanper && t.kind == TxnKind.copy hob.val)) = true ∨
       (stackNums.any fun k => ((s.hob hob.val).ext.any fun e => e.2.valid && e.1 / 352 == k) && (s.stack k).resetting) = true) →
     exec (.jarRestoreDone hob ok) s = .next s) ∧
  (∀ (hob : HobId) (s : State) (r : Restore),
     (s.hob hob.val).restore = some r →
     ((s.hob hob.val).st = .stopped ∨ (s.hob hob.val).st = .held) →
     (s.ring r.ref.port.val r.ref.fn.val r.ref.ring.val).on = true →
     (s.ring r.ref.port.val r.ref.fn.val r.ref.ring.val).en = true →
     (stackNums.any fun k => ((s.hob hob.val).ext.any fun e => e.2.valid && e.1 / 352 == k) && (s.stack k).resetting) = false →
     ∃ t, exec (.jarRestoreDone hob false) s = .next t ∧ (∀ k, k ≠ hob.val → t.hob k = s.hob k) ∧ (t.hob hob.val).st = .stopped ∧ (t.hob hob.val).restore = none ∧ (t.hob hob.val).torn = true ∧
       s.told t r.ref 8 1 0x47 0 0) ∧
  (∀ (port : LnpId) (origin : BitVec 13) (hob : HobId) (slot : Fin 2) (off len : Nat) (s : State) (q : BitVec 4),
     (s.lnp port.val).up = true →
     (s.lnp port.val).jarAsks = [] →
     ((s.takeReq port.val).lnp port.val).served.length < 384 →
     s.hearth.routes.get none origin.toNat = some q →
     ((s.inService || s.down) && s.pantry.up && s.hearth.peerJars && (s.hob hob.val).aclAllows origin.toNat && ((s.hob hob.val).jars.get {} slot.val).sealed) = true →
     len ≤ 4096 →
     off + len ≤ ((s.hob hob.val).jars.get {} slot.val).bytes →
     ∃ t, exec (.jarRead port origin hob slot off len) s = .next t ∧
       t = { s.takeReq port.val with lnps := t.lnps, cfgs := t.cfgs, stk := t.stk } ∧
       (∀ r, r ≠ port.val → r ≠ q.toNat → t.lnp r = (s.takeReq port.val).lnp r) ∧
       (t.lnp port.val).served = ((s.takeReq port.val).lnp port.val).served ++ [(65536, origin.toNat, s.now)] ∧
       (t.lnp q.toNat).txQueue = ((s.takeReq port.val).lnp q.toNat).txQueue ++ [{
         kind := 3, flits := (len + 127) / 128 + 1, dest := origin.toNat, origin := s.hearth.devIdLive.toNat, note := [0, off, len],
         body := (List.range len).map fun i => ((s.hob hob.val).jars.get {} slot.val).byteAt (off + i),
         serves := some (port.val, (65536, origin.toNat, s.now)) }]) ∧
  (∀ (port : LnpId) (origin : BitVec 13) (hob : HobId) (slot : Fin 2) (off len : Nat) (s : State) (q : BitVec 4),
     (s.lnp port.val).up = true →
     (s.lnp port.val).jarAsks = [] →
     ((s.takeReq port.val).lnp port.val).served.length < 384 →
     s.hearth.routes.get none origin.toNat = some q →
     s.logFail = false →
     ((s.inService || s.down) && s.pantry.up && s.hearth.peerJars && (s.hob hob.val).aclAllows origin.toNat && ((s.hob hob.val).jars.get {} slot.val).sealed && decide (len ≤ 4096) && decide (off + len ≤ ((s.hob hob.val).jars.get {} slot.val).bytes)) = false →
     ∃ t, exec (.jarRead port origin hob slot off len) s = .next t ∧
       t = { s.takeReq port.val with lnps := t.lnps, cfgs := t.cfgs, stk := t.stk, log := t.log, logSeq := t.logSeq } ∧
       (t.lnp q.toNat).txQueue = ((s.takeReq port.val).lnp q.toNat).txQueue ++ [{
         kind := 3, flits := 1, dest := origin.toNat, origin := s.hearth.devIdLive.toNat, note := [20], body := [],
         serves := some (port.val, (65536, origin.toNat, s.now)) }] ∧
       (∃ r ∈ t.log, r.seq = s.logSeq ∧ r.code = 0x0105 ∧ r.hob = hob.val)) ∧
  (∀ (port : LnpId) (origin : BitVec 13) (hob : HobId) (slot : Fin 2) (off len : Nat) (s : State),
     (s.lnp port.val).up = true →
     (s.lnp port.val).jarAsks = [] →
     384 ≤ ((s.takeReq port.val).lnp port.val).served.length →
     ∃ t, exec (.jarRead port origin hob slot off len) s = .next t ∧ t = { s.takeReq port.val with lnps := t.lnps } ∧
       (∀ r, r ≠ port.val → t.lnp r = (s.takeReq port.val).lnp r) ∧
       t.lnp port.val = { (s.takeReq port.val).lnp port.val with
         jarAsks := [{ origin := origin.toNat, hob := hob.val, slot := slot.val, off := off, len := len }] }) ∧
  (∀ (block permille ageDays : Nat) (s : State),
     s.pantry.up = true →
     s.pantry.badBlocks.contains block = false →
     permille ≤ 500 →
     ageDays ≤ 90 →
     ∃ t, exec (.pantryScrub block permille ageDays) s = .next t ∧ t = { s with pantry := t.pantry } ∧
       t.pantry = { s.pantry with reads := t.pantry.reads, weak := t.pantry.weak } ∧ t.pantry.reads.get 0 block = s.lifeS ∧
       t.pantry.weak.contains block = false) ∧
  (∀ (block permille ageDays : Nat) (s : State),
     s.pantry.up = true →
     s.pantry.badBlocks.contains block = false →
     (500 < permille ∨ 90 < ageDays) →
     permille ≤ 700 →
     ∃ t, exec (.pantryScrub block permille ageDays) s = .next t ∧ t.pantry.erases.get 0 block = s.pantry.erases.get 0 block + 1 ∧
       t.pantry.nand = s.pantry.nand + Config.nandBlockBytes ∧ t.pantry.badBlocks = s.pantry.badBlocks ∧ t.mem = s.mem ∧
       t.pantry.held.get 0 block = 0 ∧
       (s.blockLive block = true → ∀ c ∈ s.freeBlocks, ∃ d ∈ s.freeBlocks, t.pantry.held.get 0 d = s.pantry.held.get 0 block)) ∧
  (∀ (block permille ageDays : Nat) (s : State),
     s.pantry.up = true →
     s.pantry.badBlocks.contains block = false →
     700 < permille →
     s.pantry.weak.contains block = true →
     ∃ t, exec (.pantryScrub block permille ageDays) s = .next t ∧ t.pantry.badBlocks.contains block = true ∧
       t.pantry.nand = s.pantry.nand + Config.nandBlockBytes ∧ t.pantry.weak.contains block = false ∧ t.mem = s.mem) ∧
  (∀ (block : Nat) (s : State),
     s.pantry.up = true →
     s.pantry.badBlocks.contains block = false →
     ∃ t, exec (.nandBlockFail block) s = .next t ∧ t.pantry.badBlocks.contains block = true ∧
       t.pantry.nand = s.pantry.nand + Config.nandBlockBytes ∧ t.pantry.weak.contains block = false ∧
       t.pantry.written = s.pantry.written ∧ t.mem = s.mem ∧
       t.pantry.held.get 0 block = 0 ∧
       (s.blockLive block = true → ∀ c ∈ s.freeBlocks, ∃ d ∈ s.freeBlocks, t.pantry.held.get 0 d = s.pantry.held.get 0 block)) ∧
  (∀ (owner : Nat) (s : State),
     (s.freeBlocks = [] → s.openBlock owner = s) ∧
       ∀ c ∈ s.freeBlocks, ∃ d ∈ s.freeBlocks, s.openBlock owner = s.occupy d owner ∧ s.pantry.erases.get 0 d ≤ s.pantry.erases.get 0 c)

/-- For a frame that an UP port accepts: the expected number is one higher, what it acknowledges leaves the replay buffer, and
the time of the latest accepted frame is now. A DATA frame of MGT, REQ or RPL to this module gives its flits back as credit,
one with flits of a message that has not come whole keeps them in the receive buffer, and the data of a jar read ends the
transaction of that read; an IDLE frame does no more; a NAK resends the frames from the one named on, bit for bit; a SESSION
frame parks the port where it may park and is logged where it may not, names the next key's first frame, notes a lane
substitution, or starts a retrain at the width it names. A frame that is not accepted leaves the expected number and is
answered with a NAK that names it. LNP_IDLE_SEND with nothing waiting sends an IDLE frame under the next number and keeps
it; a waiting packet that has its credits goes out instead. LNP_KEY_STEP before an epoch that needs a new key names its
first frame as the switch point. Stack memory is as it was, and so is every other port, but that a reply sent frees the
place it held in the served pool of the port it answers. -/
def Obligations.LanperFramesCount : Prop :=
  (∀ (port : LnpId) (f : Frame) (decoded tagOk blockOk : Bool) (s : State),
     (s.lnp port.val).up = true →
     (s.lnp port.val).accepts f decoded tagOk = true →
     (s.lnp port.val).rxQueue = [] →
     (s.lnp port.val).rxReq = [] →
     (s.lnp port.val).jarAsks = [] →
     1 ≤ f.kind.toNat →
     f.kind.toNat ≤ 3 →
     f.flits ≤ 40 →
     f.dest = s.hearth.devIdLive.toNat →
     (f.kind = 2 ∨ f.kind = 3 → f.body = []) →
     ∃ t, exec (.lnpDataFrame port f decoded tagOk blockOk) s = .next t ∧ t.mem = s.mem ∧ (∀ q, q ≠ port.val → t.lnp q = s.lnp q) ∧ (t.lnp port.val).rxSeq = (s.lnp port.val).rxSeq + 1 ∧ (t.lnp port.val).lastAccepted = s.now ∧ (t.lnp port.val).naked = false ∧
       (t.lnp port.val).replayBuf = (s.lnp port.val).replayBuf.filter (fun g => decide ((g.seq - f.ack).toNat < 2 ^ 15)) ∧
       (t.lnp port.val).creditBack.get 0 f.kind.toNat = (s.lnp port.val).creditBack.get 0 f.kind.toNat + f.flits ∧ (t.lnp port.val).txQueue = (s.lnp port.val).txQueue) ∧
  (∀ (port : LnpId) (f : Frame) (decoded tagOk blockOk : Bool) (s : State),
     (s.lnp port.val).up = true →
     (s.lnp port.val).accepts f decoded tagOk = true →
     (s.lnp port.val).rxQueue = [] →
     (s.lnp port.val).rxReq = [] →
     (s.lnp port.val).jarAsks = [] →
     f.kind = 2 →
     f.flits ≤ 40 →
     f.dest = s.hearth.devIdLive.toNat →
     f.body ≠ [] →
     f.whole = false →
     ∃ t, exec (.lnpDataFrame port f decoded tagOk blockOk) s = .next t ∧ t = { s with lnps := t.lnps } ∧ (∀ q, q ≠ port.val → t.lnp q = s.lnp q) ∧ (t.lnp port.val).rxSeq = (s.lnp port.val).rxSeq + 1 ∧ (t.lnp port.val).lastAccepted = s.now ∧ (t.lnp port.val).naked = false ∧
       (t.lnp port.val).rxReq = [f] ∧ (t.lnp port.val).creditBack = (s.lnp port.val).creditBack) ∧
  (∀ (port : LnpId) (f : Frame) (decoded tagOk blockOk : Bool) (s : State) (u : Txn),
     (s.lnp port.val).up = true →
     (s.lnp port.val).accepts f decoded tagOk = true →
     (s.lnp port.val).rxQueue = [] →
     (s.lnp port.val).rxReq = [] →
     (s.lnp port.val).jarAsks = [] →
     f.kind = 3 →
     f.flits ≤ 40 →
     f.dest = s.hearth.devIdLive.toNat →
     f.body ≠ [] →
     (∀ h ∈ hobNums, ((s.hob h).restore.all fun r => !r.remote || decide (r.blocks ≤ r.asked)) = true) →
     (s.txns.find? fun t => t.pool == .lanper && !t.write && t.granted && !t.isXng && t.cell == f.origin && t.addr == f.note.getD 1 0 &&
       (match t.kind with
         | .copy _ => true
         | _ => false)) = some u →
     ∃ t, exec (.lnpDataFrame port f decoded tagOk blockOk) s = .next t ∧ t = { s with lnps := t.lnps, txns := s.txns.filter fun v => v.id != u.id } ∧
       (∀ q, q ≠ port.val → t.lnp q = s.lnp q) ∧ (t.lnp port.val).rxSeq = (s.lnp port.val).rxSeq + 1 ∧ (t.lnp port.val).lastAccepted = s.now ∧ (t.lnp port.val).naked = false ∧ (t.lnp port.val).creditBack.get 0 3 = (s.lnp port.val).creditBack.get 0 3 + f.flits) ∧
  (∀ (port : LnpId) (f : Frame) (decoded tagOk blockOk : Bool) (s : State),
     (s.lnp port.val).up = true →
     (s.lnp port.val).accepts f decoded tagOk = true →
     (s.lnp port.val).jarAsks = [] →
     f.kind = 0 →
     f.flits ≤ 40 →
     ∃ t, exec (.lnpDataFrame port f decoded tagOk blockOk) s = .next t ∧ t.mem = s.mem ∧ (∀ q, q ≠ port.val → t.lnp q = s.lnp q) ∧ (t.lnp port.val).rxSeq = (s.lnp port.val).rxSeq + 1 ∧ (t.lnp port.val).lastAccepted = s.now ∧ (t.lnp port.val).naked = false ∧
       (t.lnp port.val).replayBuf = (s.lnp port.val).replayBuf.filter (fun g => decide ((g.seq - f.ack).toNat < 2 ^ 15))) ∧
  (∀ (port : LnpId) (f : Frame) (decoded tagOk : Bool) (s : State),
     (s.lnp port.val).up = true →
     (s.lnp port.val).accepts f decoded tagOk = true →
     (s.lnp port.val).jarAsks = [] →
     f.kind = 4 →
     ∃ t, exec (.lnpIdleFrame port f decoded tagOk) s = .next t ∧ t.mem = s.mem ∧ (∀ q, q ≠ port.val → t.lnp q = s.lnp q) ∧ (t.lnp port.val).rxSeq = (s.lnp port.val).rxSeq + 1 ∧ (t.lnp port.val).lastAccepted = s.now ∧ (t.lnp port.val).naked = false ∧
       (t.lnp port.val).replayBuf = (s.lnp port.val).replayBuf.filter (fun g => decide ((g.seq - f.ack).toNat < 2 ^ 15)) ∧
       (t.lnp port.val).credits = (s.lnp port.val).credits.put 0 f.cch.toNat ((s.lnp port.val).credits.get 0 f.cch.toNat + f.cred.toNat)) ∧
  (∀ (port : LnpId) (f : Frame) (decoded tagOk : Bool) (s : State),
     (s.lnp port.val).up = true →
     (s.lnp port.val).accepts f decoded tagOk = false →
     f.kind = 4 →
     ((s.lnp port.val).naked = false ∨ decoded = false ∨ tagOk = false) →
     (s.lnp port.val).needsKey = false →
     ∃ t g, exec (.lnpIdleFrame port f decoded tagOk) s = .next t ∧ t = { s with lnps := t.lnps, out := t.out } ∧ (∀ q, q ≠ port.val → t.lnp q = s.lnp q) ∧
       t.out = .frame port.val g :: s.out ∧ g.kind = 5 ∧ g.note = [(s.lnp port.val).rxSeq.toNat] ∧ g.seq = (s.lnp port.val).txSeq ∧
       (t.lnp port.val).rxSeq = (s.lnp port.val).rxSeq ∧ (t.lnp port.val).naked = true) ∧
  (∀ (port : LnpId) (f : Frame) (decoded tagOk : Bool) (named : BitVec 16) (s : State),
     (s.lnp port.val).up = true →
     (s.lnp port.val).accepts f decoded tagOk = true →
     f.kind = 5 →
     (s.lnp port.val).rxQueue = [] →
     (s.lnp port.val).rxReq = [] →
     (s.lnp port.val).jarAsks = [] →
     ∃ t, exec (.lnpNakFrame port f decoded tagOk named) s = .next t ∧ t = { s with lnps := t.lnps, out := t.out } ∧ (∀ q, q ≠ port.val → t.lnp q = s.lnp q) ∧ (t.lnp port.val).rxSeq = (s.lnp port.val).rxSeq + 1 ∧ (t.lnp port.val).lastAccepted = s.now ∧ (t.lnp port.val).naked = false ∧
       t.out = (((((s.lnp port.val).accept f s.now).replayBuf.dropWhile fun g => g.seq != named).map fun g =>
         Out.frame port.val { g with sends := g.sends + 1 }).reverse) ++ s.out) ∧
  (∀ (port : LnpId) (f : Frame) (decoded tagOk : Bool) (s : State),
     (s.lnp port.val).up = true →
     (s.lnp port.val).accepts f decoded tagOk = true →
     f.kind = 6 →
     (s.lnp port.val).rxQueue = [] →
     (s.lnp port.val).rxReq = [] →
     (s.lnp port.val).jarAsks = [] →
     s.mayPark port.val = true →
     ∃ t, exec (.lnpSessionFrame port f decoded tagOk .park) s = .next t ∧ t = { s with lnps := t.lnps } ∧ (∀ q, q ≠ port.val → t.lnp q = s.lnp q) ∧ (t.lnp port.val).rxSeq = (s.lnp port.val).rxSeq + 1 ∧ (t.lnp port.val).lastAccepted = s.now ∧ (t.lnp port.val).naked = false ∧
       (t.lnp port.val).st = .dark ∧ (t.lnp port.val).parked = true ∧ (t.lnp port.val).session = (s.lnp port.val).session) ∧
  (∀ (port : LnpId) (f : Frame) (decoded tagOk : Bool) (s : State),
     (s.lnp port.val).up = true →
     (s.lnp port.val).accepts f decoded tagOk = true →
     f.kind = 6 →
     (s.lnp port.val).rxQueue = [] →
     (s.lnp port.val).rxReq = [] →
     (s.lnp port.val).jarAsks = [] →
     s.mayPark port.val = false →
     s.logFail = false →
     ∃ t, exec (.lnpSessionFrame port f decoded tagOk .park) s = .next t ∧ t = { s with lnps := t.lnps, log := t.log, logSeq := t.logSeq } ∧
       (∀ q, q ≠ port.val → t.lnp q = s.lnp q) ∧ (t.lnp port.val).rxSeq = (s.lnp port.val).rxSeq + 1 ∧ (t.lnp port.val).lastAccepted = s.now ∧ (t.lnp port.val).naked = false ∧ (t.lnp port.val).st = (s.lnp port.val).st ∧ (t.lnp port.val).parked = (s.lnp port.val).parked ∧
       (∃ r ∈ t.log, r.seq = s.logSeq ∧ r.code = 0x0105 ∧ r.result = 4)) ∧
  (∀ (port : LnpId) (f : Frame) (decoded tagOk : Bool) (n : BitVec 16) (e : Nat) (s : State),
     (s.lnp port.val).up = true →
     (s.lnp port.val).accepts f decoded tagOk = true →
     f.kind = 6 →
     (s.lnp port.val).rxQueue = [] →
     (s.lnp port.val).rxReq = [] →
     (s.lnp port.val).jarAsks = [] →
     ∃ t, exec (.lnpSessionFrame port f decoded tagOk (.keySwitch n e)) s = .next t ∧ t = { s with lnps := t.lnps } ∧ (∀ q, q ≠ port.val → t.lnp q = s.lnp q) ∧ (t.lnp port.val).rxSeq = (s.lnp port.val).rxSeq + 1 ∧ (t.lnp port.val).lastAccepted = s.now ∧ (t.lnp port.val).naked = false ∧
       (n.toNat, e) ∈ (t.lnp port.val).rxSwitch ∧ (t.lnp port.val).st = (s.lnp port.val).st) ∧
  (∀ (port : LnpId) (f : Frame) (decoded tagOk : Bool) (fib : Fin 4) (lane spare : Fin 9) (n : BitVec 16) (s : State),
     (s.lnp port.val).up = true →
     (s.lnp port.val).accepts f decoded tagOk = true →
     f.kind = 6 →
     (s.lnp port.val).rxQueue = [] →
     (s.lnp port.val).rxReq = [] →
     (s.lnp port.val).jarAsks = [] →
     ∃ t, exec (.lnpSessionFrame port f decoded tagOk (.substitute fib lane spare n)) s = .next t ∧ t = { s with lnps := t.lnps } ∧ (∀ q, q ≠ port.val → t.lnp q = s.lnp q) ∧ (t.lnp port.val).rxSeq = (s.lnp port.val).rxSeq + 1 ∧ (t.lnp port.val).lastAccepted = s.now ∧ (t.lnp port.val).naked = false ∧
       (fib.val, lane.val, spare.val, n.toNat) ∈ (t.lnp port.val).swaps ∧ (t.lnp port.val).st = (s.lnp port.val).st) ∧
  (∀ (port : LnpId) (f : Frame) (decoded tagOk : Bool) (w : BitVec 4) (bad : List (Fin 4 × Fin 9)) (s : State),
     (s.lnp port.val).up = true →
     (s.lnp port.val).accepts f decoded tagOk = true →
     f.kind = 6 →
     (s.lnp port.val).rxQueue = [] →
     (s.lnp port.val).rxReq = [] →
     (s.lnp port.val).jarAsks = [] →
     ∃ t, exec (.lnpSessionFrame port f decoded tagOk (.retrain w bad)) s = .next t ∧ t = { s with lnps := t.lnps } ∧ (∀ q, q ≠ port.val → t.lnp q = s.lnp q) ∧ (t.lnp port.val).rxSeq = (s.lnp port.val).rxSeq + 1 ∧ (t.lnp port.val).lastAccepted = s.now ∧ (t.lnp port.val).naked = false ∧
       (t.lnp port.val).st = .training ∧ (t.lnp port.val).retraining = true ∧ (t.lnp port.val).session = (s.lnp port.val).session ∧ (t.lnp port.val).width.toNat = min (s.lnp port.val).width.toNat (max 4 w.toNat) ∧
       (∀ b ∈ bad, b.1.val < 2 → ((t.lnp port.val).fibre b.1.val).good.getLsbD b.2.val = false)) ∧
  (∀ (port : LnpId) (s : State),
     (s.lnp port.val).up = true →
     (s.lnp port.val).rxQueue = [] →
     (s.lnp port.val).rxReq = [] →
     (s.lnp port.val).jarAsks = [] →
     (∀ h ∈ hobNums, ((s.hob h).restore.all fun r => !r.remote || decide (r.blocks ≤ r.asked)) = true) →
     (s.lnp port.val).needsKey = false →
     (s.lnp port.val).txQueue = [] →
     s.nextBlock port.val = none →
     ∃ t g, exec (.lnpIdleSend port) s = .next t ∧ t = { s with lnps := t.lnps, out := t.out } ∧ (∀ q, q ≠ port.val → t.lnp q = s.lnp q) ∧
       t.out = .frame port.val g :: s.out ∧ g.kind = 4 ∧ g.seq = (s.lnp port.val).txSeq ∧ g.ack = (s.lnp port.val).rxSeq ∧
       (t.lnp port.val).txSeq = (s.lnp port.val).txSeq + 1 ∧ (t.lnp port.val).replayBuf = (s.lnp port.val).replayBuf ++ [g] ∧ (t.lnp port.val).lastSent = s.now) ∧
  (∀ (port : LnpId) (f : Frame) (rest : List Frame) (s : State),
     (s.lnp port.val).up = true →
     (s.lnp port.val).rxQueue = [] →
     (s.lnp port.val).rxReq = [] →
     (s.lnp port.val).jarAsks = [] →
     (∀ h ∈ hobNums, ((s.hob h).restore.all fun r => !r.remote || decide (r.blocks ≤ r.asked)) = true) →
     (s.lnp port.val).needsKey = false →
     (s.lnp port.val).replayBuf.length < 256 →
     (s.lnp port.val).txQueue = f :: rest →
     (f.kind = 1 → f.origin = s.hearth.devIdLive.toNat →
       ((s.lnp port.val).replayBuf.filter fun g => g.kind == 1 && g.origin == s.hearth.devIdLive.toNat).length < 128) →
     f.flits ≤ (s.lnp port.val).credits.get 0 f.kind.toNat →
     s.nextBlock port.val = none →
     ∃ t g, exec (.lnpIdleSend port) s = .next t ∧ t = { s with lnps := t.lnps, out := t.out } ∧
       (∀ q, q ≠ port.val → t.lnp q = (s.endServe f).lnp q) ∧ t.out = .frame port.val g :: s.out ∧ g.kind = f.kind ∧ g.dest = f.dest ∧ g.body = f.body ∧ g.seq = (s.lnp port.val).txSeq ∧
       (t.lnp port.val).txSeq = (s.lnp port.val).txSeq + 1 ∧ (t.lnp port.val).txQueue = rest ∧
       (t.lnp port.val).credits = (s.lnp port.val).credits.put 0 f.kind.toNat ((s.lnp port.val).credits.get 0 f.kind.toNat - f.flits)) ∧
  (∀ (port : LnpId) (s : State),
     (s.lnp port.val).up = true →
     (s.lnp port.val).session = true →
     (s.lnp port.val).txSwitch.contains (0, (s.lnp port.val).txEpoch + 1) = false →
     ((s.lnp port.val).txEpoch + 1) % 65536 = 0 →
     ∃ t g, exec (.lnpKeyStep port) s = .next t ∧ t = { s with lnps := t.lnps, out := t.out } ∧ (∀ q, q ≠ port.val → t.lnp q = s.lnp q) ∧
       (0, (s.lnp port.val).txEpoch + 1) ∈ (t.lnp port.val).txSwitch ∧ t.out = .frame port.val g :: s.out ∧ g.kind = 6 ∧ g.note = [4, 0, (s.lnp port.val).txEpoch + 1])

/-- LNP_TRAINING_DONE of a port in full training with at least 4 usable lanes on each fibre and an acceptable peer completes
with the port UP in a new session with that peer and numbers from 0; with fewer lanes the port is DOWN for reason 1, and
with an unacceptable peer (its identity not proved, another LNP_SYSTAG, this module's own device ID, or not the device
expected) for reason 3. LNP_TRAINING_TIMEOUT after 10 s leaves it DOWN for reason 2, LNP_LINK_SILENT after 10 µs for reason
0. LNP_LANE_FAIL marks the lane failed, has a spare take the place of a lane in use from a frame 256 ahead, and retrains
where there is none. LNP_RETRAIN_DONE leaves the port UP at a width no higher than before and announces a key step;
LNP_RELIGHT_DONE leaves it UP at the stored width where every lane locked and in full training otherwise. LNP_DOWN_RETRY
after 1 s trains an enabled port; LNP_BEACON relights a parked one. LASER_WEAR_CHECK marks a lane worn above 1.5 times its
bias or below 0.501 of its power. LNP_EN and LNP_PARK, by an authorised installer and logged, set the enable and park bits
and train, relight, park or darken the port. LNP_RTMO_EXPIRY drops a port send, and reissues a jar read up to 3 times before
its JAR_RESTORE ends with SEND_TIMEOUT, the hob then torn (log entry 91). -/
def Obligations.LanperPortsTrainAndFail : Prop :=
  (∀ (port : LnpId) (r : TrainResult) (s : State),
     (s.lnp port.val).st = .training →
     (s.lnp port.val).retraining = false →
     (s.lnp port.val).relighting = false →
     (s.lnp port.val).fenced = false →
     (s.lnp port.val).resetting = false →
     s.boot.warm = false →
     4 ≤ ((List.range 4).foldl (fun (x : Lnp) i => x.modFibre i fun f => { f with good := r.lanes.getD i 0 }) (s.lnp port.val)).allowed →
     r.peerOk = true →
     r.peerTag = s.hearth.sysTag →
     r.peerDev ≠ s.hearth.devId →
     ((s.lnp port.val).expV = false ∨ r.peerDev = (s.lnp port.val).expDev) →
     (s.lnp port.val).park = false →
     ∃ t, exec (.lnpTrainingDone port r) s = .next t ∧ (∀ q, q ≠ port.val → t.lnp q = s.lnp q) ∧ (t.lnp port.val).up = true ∧ (t.lnp port.val).session = true ∧ (t.lnp port.val).peerDev = r.peerDev ∧
       (t.lnp port.val).peerPort = r.peerPort ∧ (t.lnp port.val).downWhy = 0 ∧ (t.lnp port.val).txSeq = 0 ∧ (t.lnp port.val).rxSeq = 0 ∧ (t.lnp port.val).replayBuf = [] ∧ 4 ≤ (t.lnp port.val).width.toNat ∧
       t.hearth.devIdLive = s.hearth.devId) ∧
  (∀ (port : LnpId) (r : TrainResult) (s : State),
     (s.lnp port.val).st = .training →
     (s.lnp port.val).retraining = false →
     (s.lnp port.val).relighting = false →
     (s.lnp port.val).fenced = false →
     (s.lnp port.val).resetting = false →
     s.boot.warm = false →
     ((List.range 4).foldl (fun (x : Lnp) i => x.modFibre i fun f => { f with good := r.lanes.getD i 0 }) (s.lnp port.val)).allowed < 4 →
     ∃ t, exec (.lnpTrainingDone port r) s = .next t ∧ (∀ q, q ≠ port.val → t.lnp q = s.lnp q) ∧ (t.lnp port.val).st = .down ∧ (t.lnp port.val).downWhy = 1 ∧ (t.lnp port.val).session = false) ∧
  (∀ (port : LnpId) (r : TrainResult) (s : State),
     (s.lnp port.val).st = .training →
     (s.lnp port.val).retraining = false →
     (s.lnp port.val).relighting = false →
     (s.lnp port.val).fenced = false →
     (s.lnp port.val).resetting = false →
     s.boot.warm = false →
     4 ≤ ((List.range 4).foldl (fun (x : Lnp) i => x.modFibre i fun f => { f with good := r.lanes.getD i 0 }) (s.lnp port.val)).allowed →
     (r.peerOk = false ∨ r.peerTag ≠ s.hearth.sysTag ∨ r.peerDev = s.hearth.devId ∨ (s.lnp port.val).expV = true ∧ r.peerDev ≠ (s.lnp port.val).expDev) →
     ∃ t, exec (.lnpTrainingDone port r) s = .next t ∧ (∀ q, q ≠ port.val → t.lnp q = s.lnp q) ∧ (t.lnp port.val).st = .down ∧ (t.lnp port.val).downWhy = 3 ∧ (t.lnp port.val).session = false) ∧
  (∀ (port : LnpId) (s : State),
     (s.lnp port.val).st = .training →
     (s.lnp port.val).since + 10000000000 ≤ s.now →
     ∃ t, exec (.lnpTrainingTimeout port) s = .next t ∧ (∀ q, q ≠ port.val → t.lnp q = s.lnp q) ∧ (t.lnp port.val).st = .down ∧ (t.lnp port.val).downWhy = 2 ∧ (t.lnp port.val).session = false ∧ t.mem = s.mem) ∧
  (∀ (port : LnpId) (fibre : Fin 4) (lane : Fin 9) (s : State),
     (s.lnp port.val).up = true →
     2 ≤ fibre.val →
     ((s.lnp port.val).fibre fibre.val).good.getLsbD lane.val = true →
     ∃ t, exec (.lnpLaneFail port fibre lane) s = .next t ∧ t = { s with lnps := t.lnps, out := t.out } ∧ (∀ q, q ≠ port.val → t.lnp q = s.lnp q) ∧
       ((t.lnp port.val).fibre fibre.val).good.getLsbD lane.val = false ∧
       (((s.lnp port.val).fibre fibre.val).use.getLsbD lane.val = false → ((s.lnp port.val).swaps.any fun w => w.1 == fibre.val && w.2.2.1 == lane.val) = false →
         t.out = s.out ∧ (t.lnp port.val).st = (s.lnp port.val).st) ∧
       (((s.lnp port.val).fibre fibre.val).use.getLsbD lane.val = true →
         (∀ k, ((s.lnp port.val).modFibre fibre.val fun f => { f with good := setBit9 f.good lane.val false }).spare fibre.val = some k →
           (fibre.val, lane.val, k, ((s.lnp port.val).rxSeq.toNat + 256) % 65536) ∈ (t.lnp port.val).swaps) ∧
         (((s.lnp port.val).modFibre fibre.val fun f => { f with good := setBit9 f.good lane.val false }).spare fibre.val = none →
           (t.lnp port.val).st = .training ∧ (t.lnp port.val).retraining = true))) ∧
  (∀ (port : LnpId) (best : List (List Nat)) (s : State),
     (s.lnp port.val).st = .training →
     (s.lnp port.val).retraining = true →
     (s.lnp port.val).resetting = false →
     (s.lnp port.val).park = false →
     4 ≤ min (s.lnp port.val).width.toNat (s.lnp port.val).allowed →
     ∃ t, exec (.lnpRetrainDone port best) s = .next t ∧ (∀ q, q ≠ port.val → t.lnp q = s.lnp q) ∧ (t.lnp port.val).up = true ∧ (t.lnp port.val).retraining = false ∧
       (t.lnp port.val).width.toNat = min (s.lnp port.val).width.toNat (s.lnp port.val).allowed ∧ (s.lnp port.val).ahead 1 ∈ (t.lnp port.val).txSwitch ∧ (t.lnp port.val).session = (s.lnp port.val).session) ∧
  (∀ (port : LnpId) (s : State),
     (s.lnp port.val).up = true →
     (s.lnp port.val).lastAccepted + 10000 ≤ s.now →
     ∃ t, exec (.lnpLinkSilent port) s = .next t ∧ (∀ q, q ≠ port.val → t.lnp q = s.lnp q) ∧ (t.lnp port.val).st = .down ∧ (t.lnp port.val).downWhy = 0 ∧ (t.lnp port.val).session = false ∧ (t.lnp port.val).replayBuf = [] ∧ t.mem = s.mem) ∧
  (∀ (port : LnpId) (s : State),
     (s.lnp port.val).st = .down →
     (s.lnp port.val).en = true →
     (s.lnp port.val).fenced = false →
     (s.lnp port.val).resetting = false →
     (s.lnp port.val).since + 1000000000 ≤ s.now →
     ∃ t, exec (.lnpDownRetry port) s = .next t ∧ t = { s with lnps := t.lnps } ∧ (∀ q, q ≠ port.val → t.lnp q = s.lnp q) ∧ (t.lnp port.val).st = .training ∧ (t.lnp port.val).retraining = false ∧
       (t.lnp port.val).since = s.now) ∧
  (∀ (port : LnpId) (s : State),
     (s.lnp port.val).st = .training →
     (s.lnp port.val).relighting = true →
     (s.lnp port.val).resetting = false →
     ∃ t, exec (.lnpRelightDone port false) s = .next t ∧ t = { s with lnps := t.lnps } ∧ (∀ q, q ≠ port.val → t.lnp q = s.lnp q) ∧ (t.lnp port.val).st = .training ∧
       (t.lnp port.val).relighting = false ∧ (t.lnp port.val).fallback = true) ∧
  (∀ (port : LnpId) (s : State),
     (s.lnp port.val).st = .training →
     (s.lnp port.val).relighting = true →
     (s.lnp port.val).resetting = false →
     (s.lnp port.val).park = false →
     ∃ t, exec (.lnpRelightDone port true) s = .next t ∧ (∀ q, q ≠ port.val → t.lnp q = s.lnp q) ∧ (t.lnp port.val).up = true ∧ (t.lnp port.val).relighting = false ∧ (t.lnp port.val).width = (s.lnp port.val).width ∧
       (t.lnp port.val).session = (s.lnp port.val).session ∧ (s.lnp port.val).ahead 1 ∈ (t.lnp port.val).txSwitch) ∧
  (∀ (port : LnpId) (s : State),
     (s.lnp port.val).parked = true →
     s.st ≠ .off →
     (s.lnp port.val).fenced = false →
     (s.lnp port.val).resetting = false →
     ∃ t, exec (.lnpBeacon port) s = .next t ∧ t = { s with lnps := t.lnps, cfgs := t.cfgs, stk := t.stk } ∧ (∀ q, q ≠ port.val → t.lnp q = s.lnp q) ∧
       (t.lnp port.val) = { (s.lnp port.val) with parked := false, relighting := true, st := .training, since := s.now } ∧ t.cfgs.idlIn = false) ∧
  (∀ (port : LnpId) (fibre : Fin 4) (lane : Fin 9) (bias power : Nat) (s : State),
     fibre.val < 2 →
     (s.lnp port.val).up = true →
     s.resets.hearthDown = false →
     ∃ t, exec (.laserWearCheck port fibre lane bias power) s = .next t ∧ t = { s with lnps := t.lnps, sensors := t.sensors, out := t.out } ∧ (∀ q, q ≠ port.val → t.lnp q = s.lnp q) ∧
       ((t.lnp port.val).fibre fibre.val).worn.getLsbD lane.val = (decide (1500 < bias) || decide (power ≤ 501)) ∧
       t.sensors.bias.get 0 (18 * port.val + 9 * fibre.val + lane.val) = bias ∧
       t.sensors.power.get 0 (18 * port.val + 9 * fibre.val + lane.val) = power) ∧
  (∀ (port : LnpId) (txn : Nat) (s : State) (u : Txn) (h x r : Nat),
     s.txn txn = some u →
     u.pool = .lanper →
     u.client = port.val →
     u.granted = true →
     u.startedAt + s.hearth.rtmo.toNat * 1000000 ≤ s.now →
     u.kind = .crossing h x r →
     u.write = true →
     ∃ t, exec (.lnpRtmoExpiry port txn) s = .next t ∧ t.mem = s.mem ∧ t.txn txn = none ∧ (∀ k, k ≠ h → t.hob k = s.hob k)) ∧
  (∀ (port : LnpId) (txn : Nat) (s : State) (u : Txn) (h : Nat) (q : BitVec 4),
     s.txn txn = some u →
     u.pool = .lanper →
     u.client = port.val →
     u.granted = true →
     u.startedAt + s.hearth.rtmo.toNat * 1000000 ≤ s.now →
     u.kind = .copy h →
     u.tries < 3 →
     u.write = false →
     u.data = [] →
     s.hearth.routes.get none u.cell = some q →
     ∃ t v, exec (.lnpRtmoExpiry port txn) s = .next t ∧ t = { s with txns := t.txns, lnps := t.lnps } ∧ t.txn txn = some v ∧
       v = { u with tries := u.tries + 1, startedAt := s.now } ∧ (∀ r, r ≠ q.toNat → t.lnp r = s.lnp r) ∧
       (t.lnp q.toNat).txQueue = (s.lnp q.toNat).txQueue ++ [{
         kind := 2, flits := 1, dest := u.cell, hob := u.hob, origin := s.hearth.devIdLive.toNat, note := [u.slot, u.addr, 4096] }]) ∧
  (∀ (port : LnpId) (txn : Nat) (s : State) (u : Txn) (h : Nat) (r : Restore),
     s.txn txn = some u →
     u.pool = .lanper →
     u.client = port.val →
     u.granted = true →
     u.startedAt + s.hearth.rtmo.toNat * 1000000 ≤ s.now →
     u.kind = .copy h →
     3 ≤ u.tries →
     (s.hob h).restore = some r →
     (s.ring r.ref.port.val r.ref.fn.val r.ref.ring.val).on = true →
     ∃ t, exec (.lnpRtmoExpiry port txn) s = .next t ∧ t = { s with txns := t.txns, hobs := t.hobs, hosts := t.hosts, out := t.out } ∧
       t.txn txn = none ∧ (t.hob h).restore = none ∧ (t.hob h).torn = true ∧ s.told t r.ref 8 21 0 0 0) ∧
  (∀ (who : Who) (port : LnpId) (s : State),
     s.mayAct who [.installer] = true →
     ∃ t, exec (.lnpEn who port false) s = .next t ∧ (∀ q, q ≠ port.val → t.lnp q = s.lnp q) ∧ (t.lnp port.val).en = false ∧ (t.lnp port.val).st = .dark ∧ (t.lnp port.val).session = false ∧ s.acted t who 0x0105 0) ∧
  (∀ (who : Who) (port : LnpId) (s : State),
     s.mayAct who [.installer] = true →
     ∃ t, exec (.lnpEn who port true) s = .next t ∧
       t = { s with lnps := t.lnps, log := t.log, logSeq := t.logSeq, out := t.out } ∧ (∀ q, q ≠ port.val → t.lnp q = s.lnp q) ∧ (t.lnp port.val).en = true ∧
       ((s.lnp port.val).st = .dark → (s.lnp port.val).park = false → (s.lnp port.val).fenced = false → (s.lnp port.val).resetting = false → (t.lnp port.val).st = .training) ∧
       ((s.lnp port.val).st ≠ .dark → (t.lnp port.val) = { (s.lnp port.val) with en := true }) ∧ s.acted t who 0x0105 0) ∧
  (∀ (who : Who) (port : LnpId) (s : State),
     s.mayAct who [.installer] = true →
     s.mayPark port.val = true →
     (s.lnp port.val).up = true →
     ∃ t, exec (.lnpPark who port true) s = .next t ∧ t.mem = s.mem ∧ (∀ q, q ≠ port.val → t.lnp q = s.lnp q) ∧ (t.lnp port.val).park = true ∧ (t.lnp port.val).parked = true ∧ (t.lnp port.val).st = .dark ∧
       (t.lnp port.val).session = (s.lnp port.val).session) ∧
  (∀ (who : Who) (port : LnpId) (s : State),
     s.mayAct who [.installer] = true →
     (s.lnp port.val).parked = true →
     (s.lnp port.val).fenced = false →
     (s.lnp port.val).resetting = false →
     ∃ t, exec (.lnpPark who port false) s = .next t ∧
       t = { s with lnps := t.lnps, log := t.log, logSeq := t.logSeq, out := t.out } ∧ (∀ q, q ≠ port.val → t.lnp q = s.lnp q) ∧ (t.lnp port.val).park = false ∧ (t.lnp port.val).parked = false ∧
       (t.lnp port.val).relighting = true ∧ (t.lnp port.val).st = .training ∧ s.acted t who 0x0105 0)

/-- For a module that is powered, with the hearth in service and no capture under way, and the unit not in reset: a missed
heartbeat of a running static-mode cell, a cell's request timeout and a broadcast target that is open, and not lidded, 100
ms after the first attempt start that cell's reset with codes 1, 2 and 3, and hold the hobs of the rack; a hung stack
controller, Lanper engine or host port starts its reset with codes 6, 7 and 8. A quarter that does not confirm its hold and
a hob that does not stop start a capture of ash that the reset follows, with codes 5 and 9. Loss of the rim token is a
counted warm reset with code 10. A hearth lockstep mismatch and the hearth's watchdog start the hearth's reset with code 11,
which ends its sessions and leaves the compute die as it was; the watchdog also drives ALERT. With the hearth away a
heartbeat miss starts nothing: the reset is kept for the hearth's return and the hob waits. -/
def Obligations.HangsAreAnsweredWithResets : Prop :=
  (∀ (cell : Pos) (s : State) (h : Nat),
     (s.cell cell.idx).hob = some h →
     h < 8 →
     (s.hob h).runs = true →
     (s.hob h).seqMode = false →
     s.st ≠ .off →
     s.resets.hearthDown = false →
     s.ashRun = none →
     s.inReset 0 cell.idx = false →
     ∃ t, exec (.cellHeartbeatMiss cell) s = .next t ∧ t.mem = s.mem ∧ t.inReset 0 cell.idx = true ∧ t.resets.last = 0 ∧ t.resets.why = 1 ∧
       (t.cell cell.idx).moving = true ∧ (t.cell cell.idx).hob = some h ∧ (t.hob h).hold.causes.contains 5 = true ∧
       (∀ k ∈ s.hobsAt (cell.rack.all.map Pos.idx), (s.hob k).runs = true → (t.hob k).hold.causes.contains 5 = true)) ∧
  (∀ (cell : Pos) (s : State) (h : Nat),
     (s.cell cell.idx).hob = some h →
     h < 8 →
     (s.hob h).runs = true →
     (s.hob h).seqMode = false →
     s.st ≠ .off →
     s.resets.hearthDown = true →
     s.inReset 0 cell.idx = false →
     ∃ t, exec (.cellHeartbeatMiss cell) s = .next t ∧ t = { s with hobs := t.hobs, avl := t.avl, resets := t.resets } ∧
       t.resets.running = s.resets.running ∧ (t.resets.queued.any fun r => r.1 == 0 && r.2.1 == cell.idx) = true ∧ (t.hob h).hold.causes.contains 8 = true) ∧
  (∀ (cell : Pos) (s : State),
     (s.pos cell.idx).state.backs = true →
     s.down = false →
     s.st ≠ .off →
     s.resets.hearthDown = false →
     s.ashRun = none →
     s.inReset 0 cell.idx = false →
     ∃ t, exec (.cellRequestTimeout cell) s = .next t ∧ t.mem = s.mem ∧ t.inReset 0 cell.idx = true ∧ t.resets.last = 0 ∧ t.resets.why = 2 ∧
       (∀ k ∈ s.hobsAt (cell.rack.all.map Pos.idx), (s.hob k).runs = true → (t.hob k).hold.causes.contains 5 = true)) ∧
  (∀ (i target : Nat) (s : State) (b : Broadcast),
     (s.broadcasts.find? fun b => b.id == i) = some b →
     b.targets.contains target = true →
     b.startedAt + 100000000 ≤ s.now →
     (s.pos (s.bcastPos b target)).state ≠ .lidded →
     (s.pos (s.bcastPos b target)).state ≠ .fusedOff →
     s.st ≠ .off →
     s.resets.hearthDown = false →
     s.ashRun = none →
     s.inReset 0 (s.bcastPos b target) = false →
     ∃ t, exec (.broadcastUnacked i target) s = .next t ∧ t.mem = s.mem ∧ t.inReset 0 (s.bcastPos b target) = true ∧ t.resets.last = 0 ∧
       t.resets.why = 3 ∧ (∀ k ∈ s.hobsAt ((Pos.ofIdx (s.bcastPos b target)).rack.all.map Pos.idx), (s.hob k).runs = true →
         (t.hob k).hold.causes.contains 5 = true)) ∧
  (∀ (q : Quarter) (s : State),
     s.down = false →
     s.st ≠ .off →
     s.resets.hearthDown = false →
     s.ashRun = none →
     ∃ t a, exec (.quarterHoldUnconfirmed q) s = .next t ∧ t = { s with ashRun := t.ashRun, ashSeq := s.ashSeq + 1, avl := t.avl } ∧
       t.ashRun = some a ∧ a.waiting = [(5, q.val, 5)] ∧ a.ash.domain = 5 ∧ a.ash.cause = 5 ∧ a.ash.units = [(9, q.val, 2)]) ∧
  (∀ (stack : StackId) (s : State),
     (s.stack stack.val).pwr ≠ .off →
     s.st ≠ .off →
     s.resets.hearthDown = false →
     s.ashRun = none →
     s.inReset 2 stack.val = false →
     ∃ t, exec (.stackCtrlHang stack) s = .next t ∧ t.mem = s.mem ∧ t.lines = s.lines ∧ t.inReset 2 stack.val = true ∧ t.resets.why = 6 ∧
       (t.stack stack.val).resetting = true ∧ (t.stack stack.val).pwr = .selfRefresh) ∧
  (∀ (port : LnpId) (s : State),
     (s.lnp port.val).fenced = false →
     s.st ≠ .off →
     s.resets.hearthDown = false →
     s.ashRun = none →
     s.inReset 3 port.val = false →
     ∃ t, exec (.lanperEngineHang port) s = .next t ∧ t.mem = s.mem ∧ t.inReset 3 port.val = true ∧ t.resets.why = 7 ∧
       (t.lnp port.val).resetting = true ∧ (t.lnp port.val).st = .dark ∧ (t.lnp port.val).session = false) ∧
  (∀ (port : HPort) (s : State),
     (s.host port.val).fenced = false →
     s.st ≠ .off →
     s.resets.hearthDown = false →
     s.ashRun = none →
     s.inReset 4 port.val = false →
     ∃ t, exec (.hostPortHang port) s = .next t ∧ t.mem = s.mem ∧ t.inReset 4 port.val = true ∧ t.resets.why = 8 ∧
       (t.host port.val).resetting = true ∧ (∀ f ∈ List.range 9, ((t.host port.val).fnSt f).authOk = false)) ∧
  (∀ (hob : HobId) (s : State),
     ((s.hob hob.val).st = .running ∨ (s.hob hob.val).st = .held) →
     s.resets.hearthDown = false →
     s.ashRun = none →
     ∃ t a, exec (.hobStopTimeout hob) s = .next t ∧ t = { s with ashRun := t.ashRun, ashSeq := s.ashSeq + 1, avl := t.avl } ∧
       t.ashRun = some a ∧ a.waiting = [(6, hob.val, 9)] ∧ a.ash.domain = 6 ∧ a.ash.cause = 9) ∧
  (∀ (s : State),
     s.down = false →
     s.st ≠ .off →
     s.resets.hearthDown = false →
     s.ashRun = none →
     (s.resets.pathCounted && s.resets.running.any fun r => r.1 == 7) = false →
     (s.resets.counted.filter fun t => decide (s.lifeMs < t + s.resets.whours.toNat * 3600000)).length + 1 < s.resets.wcount.toNat →
     ∃ t a, exec .rimTokenLoss s = .next t ∧ t = { s with ashRun := t.ashRun, ashSeq := s.ashSeq + 1, avl := t.avl, resets := t.resets } ∧
       t.ashRun = some a ∧ a.waiting = [(7, 0, 10)] ∧ a.ash.cause = 10 ∧ t.resets.counted.head? = some s.lifeMs) ∧
  (∀ (s : State),
     s.st ≠ .off →
     s.resets.hearthDown = false →
     ∃ t, exec .hearthLockstepMismatch s = .next t ∧ t.hobs = s.hobs ∧ t.cells = s.cells ∧ t.mem = s.mem ∧ t.resets.hearthDown = true ∧
       t.sessions = [] ∧ t.inReset 9 0 = true ∧ t.resets.why = 11 ∧ t.st = s.st ∧ t.pins = s.pins) ∧
  (∀ (s : State),
     s.st ≠ .off →
     s.resets.hearthDown = false →
     ∃ t, exec .hearthWatchdogExpiry s = .next t ∧ t.hobs = s.hobs ∧ t.cells = s.cells ∧ t.mem = s.mem ∧ t.resets.hearthDown = true ∧
       t.sessions = [] ∧ t.inReset 9 0 = true ∧ t.resets.why = 11 ∧ t.st = s.st ∧ t.pins = { s.pins with alert := true })

/-- For a module that is powered, with the hearth in service and no capture under way: CELL_RESET, RACK_RESET and QUARTER_RESET
start the reset and clear the cells; HOB_RESET of a hob that is not FREE clears its cells and leaves it LOADING without a
recipe, its resume point kept; STACK_CTRL_RESET leaves its stack in self-refresh with its contents; LNP_PORT_RESET leaves
the port DARK, HOST_PORT_RESET loses the host. Each completion ends that reset: a cell that did not complete is lidded by
test, the stack is on again, the port can carry traffic. ROUTER_ISLAND_RESET at a gap that no bridge passes clears that
router, and at the others only frees the channels that messages lost with it were holding. -/
def Obligations.UnitResetsClearAndComplete : Prop :=
  (∀ (cell : Pos) (s : State),
     (s.pos cell.idx).state.backs = true →
     s.down = false →
     s.st ≠ .off →
     s.resets.hearthDown = false →
     s.ashRun = none →
     s.inReset 0 cell.idx = false →
     ∃ t, exec (.cellReset cell) s = .next t ∧ t.mem = s.mem ∧ t.inReset 0 cell.idx = true ∧ t.resets.last = 0 ∧
       (t.cell cell.idx).hob = (s.cell cell.idx).hob ∧ (t.cell cell.idx).scratch = []) ∧
  (∀ (cell : Pos) (imageOk : Bool) (s : State),
     s.inReset 0 cell.idx = true →
     s.resets.hearthDown = false →
     (s.pos cell.idx).state ≠ .fusedOff →
     ∃ t, exec (.cellResetDone cell false imageOk) s = .next t ∧ t.mem = s.mem ∧ t.inReset 0 cell.idx = false ∧
       (t.pos cell.idx).state = .lidded) ∧
  (∀ (cell : Pos) (imageOk : Bool) (s : State),
     s.inReset 0 cell.idx = true →
     s.resets.hearthDown = false →
     ∃ t, exec (.cellResetDone cell true imageOk) s = .next t ∧ t.mem = s.mem ∧ t.inReset 0 cell.idx = false ∧
       (t.pos cell.idx).resets.head? = some s.lifeMs) ∧
  (∀ (r : Rack) (s : State),
     s.down = false →
     s.st ≠ .off →
     s.resets.hearthDown = false →
     s.ashRun = none →
     s.inReset 1 r.idx = false →
     ∃ t, exec (.rackReset r) s = .next t ∧ t.mem = s.mem ∧ t.inReset 1 r.idx = true ∧ t.resets.why = 4 ∧
       (∀ p ∈ r.all.map Pos.idx, (t.cell p).scratch = [])) ∧
  (∀ (r : Rack) (imageOk : Bool) (s : State),
     s.inReset 1 r.idx = true →
     s.resets.hearthDown = false →
     ∃ t, exec (.rackResetDone r imageOk) s = .next t ∧ t.mem = s.mem ∧ t.inReset 1 r.idx = false) ∧
  (∀ (q : Quarter) (s : State),
     s.down = false →
     s.st ≠ .off →
     s.resets.hearthDown = false →
     s.ashRun = none →
     s.inReset 5 q.val = false →
     ∃ t, exec (.quarterReset q) s = .next t ∧ t.mem = s.mem ∧ t.inReset 5 q.val = true ∧ t.resets.why = 5 ∧
       (∀ p ∈ quarterPos q.val, (t.cell p).scratch = [])) ∧
  (∀ (q : Quarter) (imageOk : Bool) (s : State),
     s.inReset 5 q.val = true →
     s.resets.hearthDown = false →
     ∃ t, exec (.quarterResetDone q imageOk) s = .next t ∧ t.mem = s.mem ∧ t.inReset 5 q.val = false) ∧
  (∀ (hob : HobId) (s : State),
     (s.hob hob.val).st ≠ .free →
     s.resets.hearthDown = false →
     s.ashRun = none →
     s.inReset 6 hob.val = false →
     ∃ t, exec (.hobReset hob) s = .next t ∧ t.mem = s.mem ∧ (∀ k, k ≠ hob.val → t.hob k = s.hob k) ∧ t.inReset 6 hob.val = true ∧
       (t.hob hob.val).st = .loading ∧ (t.hob hob.val).recipe = none ∧ (t.hob hob.val).shape = (s.hob hob.val).shape ∧
       (t.hob hob.val).ext = (s.hob hob.val).ext ∧ (t.hob hob.val).fenceLast = (s.hob hob.val).fenceLast ∧
       (∀ r, (s.hob hob.val).recipe = some r → (t.hob hob.val).resume = some r.digest) ∧
       (∀ n ∈ s.nums hob.val, (t.cell (s.posOf hob.val n)).scratch = [])) ∧
  (∀ (hob : HobId) (s : State),
     s.inReset 6 hob.val = true →
     ∃ t, exec (.hobResetDone hob) s = .next t ∧ t = { s with resets := t.resets } ∧ t.inReset 6 hob.val = false) ∧
  (∀ (cell : Pos) (s : State),
     s.gapPos cell.rack = cell.idx →
     s.bridged cell.idx = false →
     s.down = false →
     s.st ≠ .off →
     s.resets.hearthDown = false →
     ∃ t, exec (.routerIslandReset cell) s = .next t ∧ t = { s with routers := t.routers } ∧
       (∀ p, p ≠ cell.idx → t.router p = { s.router p with worm := (t.router p).worm }) ∧
       ((s.router cell.idx).dyn = [] → (s.router cell.idx).worm = [] → ∀ p, p ≠ cell.idx → t.router p = s.router p) ∧
       t.router cell.idx = (s.router cell.idx).cleared) ∧
  (∀ (port : LnpId) (s : State),
     (s.lnp port.val).fenced = false →
     s.st ≠ .off →
     s.resets.hearthDown = false →
     s.ashRun = none →
     s.inReset 3 port.val = false →
     ∃ t, exec (.lnpPortReset port) s = .next t ∧ t.mem = s.mem ∧ (∀ q, q ≠ port.val → t.lnp q = s.lnp q) ∧ t.inReset 3 port.val = true ∧
       (t.lnp port.val).st = .dark ∧ (t.lnp port.val).resetting = true ∧ (t.lnp port.val).session = false) ∧
  (∀ (port : LnpId) (s : State),
     s.inReset 3 port.val = true →
     ∃ t, exec (.lnpPortResetDone port) s = .next t ∧ t = { s with resets := t.resets, lnps := t.lnps } ∧ t.inReset 3 port.val = false ∧
       t.lnp port.val = { s.lnp port.val with resetting := false } ∧ (∀ q, q ≠ port.val → t.lnp q = s.lnp q)) ∧
  (∀ (port : HPort) (s : State),
     (s.host port.val).fenced = false →
     s.st ≠ .off →
     s.resets.hearthDown = false →
     s.ashRun = none →
     s.inReset 4 port.val = false →
     ∃ t, exec (.hostPortReset port) s = .next t ∧ t.mem = s.mem ∧ (∀ q, q ≠ port.val → t.host q = s.host q) ∧ t.inReset 4 port.val = true ∧
       (t.host port.val).resetting = true ∧ (∀ f ∈ List.range 9, ((t.host port.val).fnSt f).authOk = false)) ∧
  (∀ (port : HPort) (s : State),
     s.inReset 4 port.val = true →
     ∃ t, exec (.hostPortResetDone port) s = .next t ∧ t = { s with resets := t.resets, hosts := t.hosts } ∧ t.inReset 4 port.val = false ∧
       t.host port.val = { s.host port.val with resetting := false } ∧ (∀ q, q ≠ port.val → t.host q = s.host q)) ∧
  (∀ (stack : StackId) (s : State),
     (s.stack stack.val).pwr ≠ .off →
     (s.stack stack.val).resetting = false →
     s.resets.hearthDown = false →
     s.ashRun = none →
     s.inReset 2 stack.val = false →
     ∃ t, exec (.stackCtrlReset stack) s = .next t ∧ t.mem = s.mem ∧ t.lines = s.lines ∧ t.hobs = s.hobs ∧ t.inReset 2 stack.val = true ∧
       t.stack stack.val = { s.stack stack.val with resetting := true, pwr := .selfRefresh } ∧
       (∀ k, k ≠ stack.val → t.stack k = s.stack k)) ∧
  (∀ (stack : StackId) (s : State),
     (s.stack stack.val).resetting = true →
     ∃ t, exec (.stackCtrlResetDone stack) s = .next t ∧ t.mem = s.mem ∧ t.inReset 2 stack.val = false ∧
       (t.stack stack.val).resetting = false ∧ (t.stack stack.val).pwr = .on) ∧
  (∀ (stack : StackId) (s : State),
     (s.stack stack.val).resetting = true →
     (∀ h ∈ hobNums, (s.hob h).fills = []) →
     ∃ t, exec (.stackCtrlResetDone stack) s = .next t ∧ t = { s with resets := t.resets, stk := t.stk } ∧ t.inReset 2 stack.val = false ∧
       t.stack stack.val = { s.stack stack.val with resetting := false, pwr := .on, lastTraffic := s.now } ∧
       (∀ k, k ≠ stack.val → t.stack k = s.stack k))

/-- For a module that is powered, with the hearth in service and no capture under way, in a device state that runs: WARM_RESET
and COLD_RESET are counted and start a capture that the reset follows, or, as the last of the window, OUT_OF_SERVICE
follows. ASH_CAPTURE_DONE ends the capture, logs it, and does what waited: a warm reset leaves BRINGUP at stage 2 with stack
memory kept and every hob not FREE in LOADING; a cold reset leaves stage 1 with stack memory empty and device time 0; entry
to EMBER or OUT_OF_SERVICE leaves that state with stack memory empty. RESET_TIMEOUT once the time of R326 has passed counts
an escalation and does what its column says: for a cell a lid by test, for a Lanper port a fence. HEARTH_RESET starts the
hearth's reset and leaves the compute die; HEARTH_RESET_DONE, with a slot that boots, puts the hearth back in service. -/
def Obligations.DeviceResetsAreCountedAndDone : Prop :=
  (∀ (why : Fin 14) (s : State),
     s.down = false →
     s.st ≠ .off →
     s.resets.hearthDown = false →
     s.ashRun = none →
     (s.resets.pathCounted && s.resets.running.any fun r => r.1 == 7) = false →
     (s.resets.counted.filter fun t => decide (s.lifeMs < t + s.resets.whours.toNat * 3600000)).length + 1 < s.resets.wcount.toNat →
     ∃ t a, exec (.warmReset why) s = .next t ∧ t = { s with ashRun := t.ashRun, ashSeq := s.ashSeq + 1, avl := t.avl, resets := t.resets } ∧
       t.ashRun = some a ∧ a.waiting = [(7, 0, why.val)] ∧ t.resets.counted.head? = some s.lifeMs ∧ t.resets.pathCounted = true) ∧
  (∀ (why : Fin 14) (s : State),
     s.down = false →
     s.st ≠ .off →
     s.resets.hearthDown = false →
     s.ashRun = none →
     (s.resets.pathCounted && s.resets.running.any fun r => r.1 == 7) = false →
     s.resets.wcount.toNat ≤ (s.resets.counted.filter fun t => decide (s.lifeMs < t + s.resets.whours.toNat * 3600000)).length + 1 →
     ∃ t a, exec (.warmReset why) s = .next t ∧ t.ashRun = some a ∧ a.waiting = [(15, 0, why.val)] ∧ a.ash.domain = 0xF ∧ t.mem = s.mem) ∧
  (∀ (why : Fin 14) (s : State),
     s.down = false →
     s.st ≠ .off →
     s.resets.hearthDown = false →
     s.ashRun = none →
     (s.resets.pathCounted && s.resets.running.any fun r => r.1 == 7) = false →
     (s.resets.counted.filter fun t => decide (s.lifeMs < t + s.resets.whours.toNat * 3600000)).length + 1 < s.resets.wcount.toNat →
     ∃ t a, exec (.coldReset why) s = .next t ∧ t = { s with ashRun := t.ashRun, ashSeq := s.ashSeq + 1, avl := t.avl, resets := t.resets } ∧
       t.ashRun = some a ∧ a.waiting = [(8, 0, why.val)] ∧ t.resets.counted.head? = some s.lifeMs ∧ t.resets.pathCounted = true) ∧
  (∀ (why : Fin 14) (s : State),
     s.down = false →
     s.st ≠ .off →
     s.resets.hearthDown = false →
     s.ashRun = none →
     (s.resets.pathCounted && s.resets.running.any fun r => r.1 == 7) = false →
     s.resets.wcount.toNat ≤ (s.resets.counted.filter fun t => decide (s.lifeMs < t + s.resets.whours.toNat * 3600000)).length + 1 →
     ∃ t a, exec (.coldReset why) s = .next t ∧ t.ashRun = some a ∧ a.waiting = [(15, 0, why.val)] ∧ a.ash.domain = 0xF ∧ t.mem = s.mem) ∧
  (∀ (ms : Nat) (s : State) (a : AshRun),
     s.ashRun = some a →
     a.waiting = [] →
     s.resets.hearthDown = false →
     ∃ t, exec (.ashCaptureDone ms) s = .next t ∧
       t = { s with ashRun := none, ashes := t.ashes, log := t.log, logSeq := t.logSeq, avl := t.avl } ∧
       (s.logFail = false → ∃ r ∈ t.log, r.seq = s.logSeq ∧ r.code = 0x0406 ∧ r.args = [a.ash.seq, a.ash.domain.toNat, a.ash.cause])) ∧
  (∀ (ms w : Nat) (s : State) (a : AshRun),
     s.ashRun = some a →
     a.waiting = [(7, 0, w)] →
     s.resets.hearthDown = false →
     ∃ t, exec (.ashCaptureDone ms) s = .next t ∧ t.mem = s.mem ∧ t.ashRun = none ∧ t.st = .bringup ∧ t.boot.stage = 2 ∧ t.boot.warm = true ∧
       t.resets.warms = satInc s.resets.warms ∧ t.cells = [] ∧
       (∀ h ∈ hobNums, (s.hob h).st ≠ .free → (t.hob h).st = .loading ∧ (t.hob h).recipe = none)) ∧
  (∀ (ms w : Nat) (s : State) (a : AshRun),
     s.ashRun = some a →
     a.waiting = [(8, 0, w)] →
     s.resets.hearthDown = false →
     ∃ t, exec (.ashCaptureDone ms) s = .next t ∧ t.mem = [] ∧ t.lines = [] ∧ t.ashRun = none ∧ t.st = .hearthUp ∧ t.boot.stage = 1 ∧
       t.now = 0 ∧ t.life = s.life ∧ t.resets.colds = satInc s.resets.colds ∧ t.cells = [] ∧ t.rdrs = []) ∧
  (∀ (ms d w : Nat) (s : State) (a : AshRun),
     s.ashRun = some a →
     (d = 14 ∨ d = 15) →
     a.waiting = [(d, 0, w)] →
     s.resets.hearthDown = false →
     ∃ t, exec (.ashCaptureDone ms) s = .next t ∧ t.mem = [] ∧ t.ashRun = none ∧ t.st = (if d = 14 then .ember else .outOfService) ∧
       t.cells = [] ∧ t.resets.running = [] ∧ t.damper.mclk = 0 ∧ (∀ h ∈ hobNums, (t.hob h).st = .free)) ∧
  (∀ (i : Nat) (s : State) (r : Nat × Nat × Nat),
     (s.resets.running.find? fun r => r.1 == 0 && r.2.1 == i) = some r →
     r.2.2 + 100000 ≤ s.now →
     s.resets.hearthDown = false →
     (s.pos i).state ≠ .fusedOff →
     ∃ t, exec (.resetTimeout 0 i) s = .next t ∧ t.mem = s.mem ∧ t.resets.escal = satInc s.resets.escal ∧ t.inReset 0 i = false ∧
       (t.pos i).state = .lidded) ∧
  (∀ (i : Nat) (s : State) (r : Nat × Nat × Nat),
     (s.resets.running.find? fun r => r.1 == 3 && r.2.1 == i) = some r →
     r.2.2 + 10000000 ≤ s.now →
     s.resets.hearthDown = false →
     ∃ t, exec (.resetTimeout 3 i) s = .next t ∧
       t = { s with resets := t.resets, lnps := t.lnps, log := t.log, logSeq := t.logSeq } ∧ t.resets.escal = satInc s.resets.escal ∧
       t.inReset 3 i = false ∧ t.lnp i = { s.lnp i with fenced := true, resetting := false, st := .dark }) ∧
  (∀ (s : State),
     s.st ≠ .off →
     s.resets.hearthDown = false →
     ∃ t, exec .hearthReset s = .next t ∧ t.hobs = s.hobs ∧ t.cells = s.cells ∧ t.mem = s.mem ∧ t.resets.hearthDown = true ∧
       t.sessions = [] ∧ t.inReset 9 0 = true ∧ t.resets.why = 0 ∧ t.st = s.st) ∧
  (∀ (s : State),
     (s.resets.running.any fun r => r.1 == 9) = true →
     s.resets.hearthHeld = false →
     s.fw.recovery = false →
     (s.fw.boot true true).recovery = false →
     s.st ≠ .bringup →
     s.resets.queued = [] →
     (∀ h ∈ hobNums, (s.hob h).awaits = none) →
     ∃ t, exec .hearthResetDone s = .next t ∧ t.mem = s.mem ∧ t.cells = s.cells ∧ t.st = s.st ∧ t.resets.hearthDown = false ∧
       t.inReset 9 0 = false ∧ t.resets.queued = [])

/-- By an installer or maker whose session is finished, with the hearth in service and the log working: RST_CMD_WARM and
RST_CMD_COLD outside EMBER and OUT_OF_SERVICE start a warm or cold reset at once where no capture runs; RST_CMD_RESTORE in
them clears the window and starts a cold reset; RST_CMD_ASH starts a capture; RST_CMD_LOCK_ASH leaves just the named record
locked; RST_CMD_RELEASE_ASH leaves only locked records. Each is answered with result 0. ASH_CAPTURE starts a record of its
domain and cause; ASH_UNIT_TIMEOUT notes a unit that gave none. ASH_READOUT puts out the record and changes nothing else. A
record is at most 4 GiB; its entries are of units that its capture covers, none of a scan above 20 ms, and a unit with no
ash, not visited or powered off has no payload. -/
def Obligations.ResetCommandsAndAsh : Prop :=
  (∀ (who : Who) (s : State),
     s.mayAct who [.installer, .maker] = true →
     s.down = false →
     s.ashRun = none →
     ∃ t, exec (.rstCmdWarm who) s = .next t ∧ t.mem = s.mem ∧ t.st = .bringup ∧ t.boot.stage = 2 ∧ t.boot.warm = true ∧
       t.out.head? = some (.mctpVals "result" [0x0107, 0])) ∧
  (∀ (who : Who) (s : State),
     s.mayAct who [.installer, .maker] = true →
     s.down = false →
     s.ashRun = none →
     ∃ t, exec (.rstCmdCold who) s = .next t ∧ t.mem = [] ∧ t.st = .hearthUp ∧ t.boot.stage = 1 ∧ t.now = 0 ∧
       t.out.head? = some (.mctpVals "result" [0x0107, 0])) ∧
  (∀ (who : Who) (s : State),
     s.mayAct who [.installer, .maker] = true →
     s.down = true →
     s.ashRun = none →
     ∃ t, exec (.rstCmdRestore who) s = .next t ∧ t.mem = [] ∧ t.st = .hearthUp ∧ t.boot.stage = 1 ∧ t.resets.counted = [] ∧
       t.resets.oosSticky = false ∧ t.out.head? = some (.mctpVals "result" [0x0107, 0])) ∧
  (∀ (who : Who) (s : State),
     s.mayAct who [.installer, .maker] = true →
     s.ashRun = none →
     ∃ t a, exec (.rstCmdAsh who) s = .next t ∧
       t = { s with ashRun := t.ashRun, ashSeq := s.ashSeq + 1, avl := t.avl, log := t.log, logSeq := t.logSeq, out := t.out } ∧
       t.ashRun = some a ∧ a.ash.domain = 0xF ∧ a.ash.cause = 13 ∧ a.waiting = [] ∧ s.acted t who 0x0107 0) ∧
  (∀ (who : Who) (arg : BitVec 28) (s : State),
     s.mayAct who [.installer, .maker] = true →
     (s.ashes.any fun a => a.seq % 2 ^ 28 == arg.toNat) = true →
     ∃ t, exec (.rstCmdLockAsh who arg) s = .next t ∧
       t = { s with ashes := t.ashes, log := t.log, logSeq := t.logSeq, out := t.out } ∧
       t.ashes = s.ashes.map (fun a => { a with locked := a.seq % 2 ^ 28 == arg.toNat }) ∧ s.acted t who 0x0107 0) ∧
  (∀ (who : Who) (s : State),
     s.mayAct who [.installer, .maker] = true →
     ∃ t, exec (.rstCmdReleaseAsh who) s = .next t ∧
       t = { s with ashes := t.ashes, log := t.log, logSeq := t.logSeq, out := t.out } ∧
       t.ashes = s.ashes.filter (fun a => a.locked) ∧ s.acted t who 0x0107 0) ∧
  (∀ (domain : BitVec 8) (cause : Fin 14) (s : State),
     s.st ≠ .off →
     s.resets.hearthDown = false →
     s.ashRun = none →
     ∃ t a, exec (.ashCapture domain cause) s = .next t ∧ t = { s with ashRun := t.ashRun, ashSeq := s.ashSeq + 1, avl := t.avl } ∧
       t.ashRun = some a ∧ a.ash.seq = s.ashSeq ∧ a.ash.domain = domain ∧ a.ash.cause = cause.val ∧ a.waiting = [] ∧ a.startedAt = s.now) ∧
  (∀ (kind : Fin 10) (i : Nat) (s : State) (a : AshRun),
     s.ashRun = some a →
     a.ash.covers (kind.val, i) = true →
     (a.ash.units.any fun u => u.1 == kind.val && u.2.1 == i) = false →
     ∃ t, exec (.ashUnitTimeout kind i) s = .next t ∧ t = { s with ashRun := t.ashRun } ∧
       t.ashRun = some { a with ash := { a.ash with units := a.ash.units ++ [(kind.val, i, 1)], noash := a.ash.noash + 1 } }) ∧
  (∀ (who : Who) (q : Nat) (s : State) (a : Ash),
     s.st ≠ .off →
     s.resets.hearthDown = false →
     s.authorised who [.installer, .maker] = true →
     (s.ashes.find? fun a => a.seq == q) = some a →
     ∃ t, exec (.ashReadout who q) s = .next t ∧ t = { s with out := t.out } ∧
       t.out = .mctp "ash" a.record :: s.out) ∧
  (∀ (a : Ash),
     a.size ≤ 2 ^ 32 ∧ (∀ e ∈ a.entries, e.time ≤ 2000 ∧ a.covers (e.kind, e.index) = true) ∧
       (∀ e ∈ a.entries, e.status = 1 ∨ e.status = 3 ∨ e.status = 4 ∨ e.status = 5 → e.data = [] ∧ e.offset = 0))

/-- POWER_GOOD on an unpowered module starts device time at 0 and stage 1 of the cold path, with every host port in reset.
POWER_GOOD_DEASSERT, and VIN_FAULT at a voltage outside 36 to 62 V, leave the module off with stack memory empty, every hob
FREE, and its log, lifetime and sensors kept; VIN_LOW caps MCLK at 800 MHz and reports input power. With the path at its
stage, HEARTH_BOOT_DONE with a slot that boots enters stage 2 with the host ports ready, CLOCKS_UP enters BRINGUP and stage
3 with MCLK at 1.5 GHz or notes a rail fault, MEMORIES_UP enters stage 4 with the pantry up, LINKS_UP enters stage 5 with no
port left in training and a broadcast under way to every position, CELLS_TESTED, once every position has answered that
broadcast, enters stage 6 with every failed position lidded or fused off, and HANDOVER ends the path in SERVICE or DEGRADED
at stage 7, with input power capped for 60 s. -/
def Obligations.PowerAndBringUpAdvance : Prop :=
  (∀ (s : State),
     s.pins.pwrgd = false →
     ∃ t, exec .powerGood s = .next t ∧ t = { s with pins := t.pins, now := 0, boot := {}, resets := t.resets, hosts := t.hosts } ∧
       t.pins = { s.pins with pwrgd := true, rails := railBits [3, 8] } ∧ t.resets.running = [(8, 0, 0)] ∧
       (∀ p ∈ [0, 1, 2, 3], (t.host p).perst = true)) ∧
  (∀ (s : State),
     s.pins.pwrgd = true →
     ∃ t, exec .powerGoodDeassert s = .next t ∧ t.st = .off ∧ t.pins.pwrgd = false ∧ t.mem = [] ∧ t.lines = [] ∧ t.cells = [] ∧
       t.log = s.log ∧ t.life = s.life ∧ t.sensors = s.sensors ∧ t.resets.running = [] ∧ t.pantry.up = false ∧
       (∀ h ∈ hobNums, (t.hob h).st = .free ∧ (t.hob h).key = 0 ∧ (t.hob h).jars = (s.hob h).jars)) ∧
  (∀ (mv : Nat) (s : State),
     s.pins.pwrgd = true →
     (mv < 36000 ∨ 62000 < mv) →
     ∃ t, exec (.vinFault mv) s = .next t ∧ t.st = .off ∧ t.pins.pwrgd = false ∧ t.mem = [] ∧ t.cells = [] ∧ t.log = s.log ∧
       t.life = s.life ∧ t.pins.vinMv = mv) ∧
  (∀ (s : State),
     s.damper.mclk ≠ 0 →
     ∃ t, exec .vinLow s = .next t ∧
       t = { s with damper := { s.damper with mclk := 800, why := 1, lastChange := s.now }, hobs := t.hobs } ∧
       (t.damper.mclk = s.damper.mclk → t.hobs = s.hobs) ∧
       (t.damper.mclk ≠ s.damper.mclk → ∀ k, t.hob k = { s.hob k with clk := { (s.hob k).clk with
         acc := if (s.hob k).rcp.mclk < max t.damper.mclk.toNat s.damper.mclk.toNat then 0 else (s.hob k).clk.acc } })) ∧
  (∀ (okA okB copies : Bool) (s : State),
     s.inStage 1 = true →
     (if s.st = .off then s.bootHearth okA okB else s).fw.recovery = false →
     s.resets.oosSticky = false →
     ∃ t, exec (.hearthBootDone okA okB copies) s = .next t ∧ t.mem = s.mem ∧ t.st = .hearthUp ∧ t.boot.stage = 2 ∧
       t.hearth.licBad = !copies ∧ (∀ p ∈ [0, 1, 2, 3], (t.host p).ready = true)) ∧
  (∀ (s : State),
     s.inStage 2 = true →
     ∃ t, exec (.clocksUp true) s = .next t ∧ t.mem = s.mem ∧ t.st = .bringup ∧ t.boot.stage = 3 ∧ t.damper.mclk = 1500 ∧
       t.fw.svnR = s.fw.svnOf 1) ∧
  (∀ (s : State),
     s.inStage 2 = true →
     s.resets.railFault = false →
     ∃ t, exec (.clocksUp false) s = .next t ∧ t.mem = s.mem ∧ t.resets.railFault = true ∧ t.boot.stage = 2 ∧ t.damper = s.damper) ∧
  (∀ (bad : List (StackId × Nat)) (copyOk : Bool) (badS0 badS6 : List Nat) (s : State),
     s.inStage 3 = true →
     ∃ t, exec (.memoriesUp bad copyOk badS0 badS6) s = .next t ∧ t.boot.stage = 4 ∧ t.boot.reduced = !copyOk ∧ t.pantry.up = true ∧
       t.st = s.st ∧ (s.rdrs = [] → t.mem = s.mem ∧ t.lines = s.lines)) ∧
  (∀ (results : List (LnpId × TrainResult)) (s : State),
     s.inStage 4 = true →
     ∃ t, exec (.linksUp results) s = .next t ∧ t.mem = s.mem ∧ t.boot.stage = 5 ∧ t.st = s.st ∧
       (∀ p ∈ List.range 16, (t.lnp p).st ≠ .training) ∧
       (∃ b ∈ t.broadcasts, b.hob = none ∧ b.targets = List.range 6912)) ∧
  (∀ (fuse : FuseRead) (failed : List (Pos × BitVec 12)) (wires : List (Pos × Fin 23 × List Nat)) (s : State),
     s.inStage 5 = true →
     (s.broadcasts.any fun b => b.hob.isNone) = false →
     ∃ t, exec (.cellsTested fuse failed wires) s = .next t ∧ t.mem = s.mem ∧ t.boot.stage = 6 ∧ t.fw.svnC = s.fw.svnOf 2 ∧
       (∀ c ∈ failed, (t.pos c.1.idx).state = .lidded ∨ (t.pos c.1.idx).state = .fusedOff)) ∧
  (∀ (s : State),
     s.inStage 6 = true →
     ∃ t, exec .handover s = .next t ∧ t.mem = s.mem ∧ (t.st = .service ∨ t.st = .degraded) ∧ t.boot.stage = 7 ∧
       t.damper.cap = true ∧ t.damper.capUntil = s.now + 60000000000 ∧ t.damper.why = 5 ∧
       (t.resets.running.any fun r => r.1 == 7 || r.1 == 8) = false ∧ t.resets.pathCounted = false)

/-- With MCLK running and the hearth in service: DAMPER_TICK while the over condition of R366 holds lowers MCLK by 25 MHz to no
less than 800. DROOP lowers it by 100 MHz to no less than 800, counts and bars a rise for 1 ms. Where any of these changes
MCLK, the clock accumulator of a hob whose declared clock is below the old or the new MCLK is 0. POWER_CAP_LIFT after its
time lifts the cap. THERMAL_DUTY_TICK raises thermal duty by 16 each ms while over at 800 MHz, from 10 ms on, to at most
224, and lowers it by 16 while not, and each running hob simmers at the larger of its own and the thermal duty. THERMAL_HOLD
above 100 °C for 100 ms drives ALERT and holds every running hob with cause 8, at once where it is frozen or has no step in
progress and at the hob cycle 64 ahead where it has. THERMAL_TRIP at 105 °C ends with MCLK 0 and stack memory empty;
TRIP_RESTART with every rack below 60 °C is a counted cold reset. SENSOR_SAMPLE keeps the reading of its sensor. Nothing but
what each names changes. -/
def Obligations.TheDamperHoldsPowerAndHeat : Prop :=
  (∀ (s : State),
     s.damper.mclk ≠ 0 →
     s.resets.hearthDown = false →
     s.damper.above = true →
     s.damper.thermalHold = false →
     ∃ t, exec .damperTick s = .next t ∧ t = { s with damper := t.damper, hobs := t.hobs } ∧
       t.damper.mclk = BitVec.ofNat 11 (max 800 (s.damper.mclk.toNat - 25)) ∧ t.damper.plim = s.damper.plim ∧
       t.damper.duty = s.damper.duty ∧ t.damper.droops = s.damper.droops ∧
       (t.damper.mclk = s.damper.mclk → t.hobs = s.hobs) ∧
       (t.damper.mclk ≠ s.damper.mclk → ∀ k, t.hob k = { s.hob k with clk := { (s.hob k).clk with
         acc := if (s.hob k).rcp.mclk < max t.damper.mclk.toNat s.damper.mclk.toNat then 0 else (s.hob k).clk.acc } })) ∧
  (∀ (q : Quarter) (s : State),
     s.damper.mclk ≠ 0 →
     ∃ t, exec (.droop q) s = .next t ∧ t = { s with damper := { s.damper with
         mclk := BitVec.ofNat 11 (max 800 (s.damper.mclk.toNat - 100)), droops := satInc s.damper.droops,
         why := if s.damper.cap then 5 else 4, noRaiseUntil := s.now + 1000000, lastChange := s.now }, hobs := t.hobs } ∧
       (t.damper.mclk = s.damper.mclk → t.hobs = s.hobs) ∧
       (t.damper.mclk ≠ s.damper.mclk → ∀ k, t.hob k = { s.hob k with clk := { (s.hob k).clk with
         acc := if (s.hob k).rcp.mclk < max t.damper.mclk.toNat s.damper.mclk.toNat then 0 else (s.hob k).clk.acc } })) ∧
  (∀ (s : State),
     s.damper.cap = true →
     s.damper.capUntil ≤ s.now →
     ∃ t, exec .powerCapLift s = .next t ∧ t = { s with damper := t.damper } ∧
       t.damper = { s.damper with cap := false, why := t.damper.why }) ∧
  (∀ (s : State),
     s.damper.mclk ≠ 0 →
     s.resets.hearthDown = false →
     ∃ t, exec .thermalDutyTick s = .next t ∧ t = { s with damper := t.damper, hobs := t.hobs } ∧
       (s.damper.above = false ∨ s.damper.mclk ≠ 800 → t.damper.duty.toNat = s.damper.duty.toNat - 16) ∧
       (s.damper.above = true → s.damper.mclk = 800 → s.damper.duty ≠ 0 → t.damper.duty.toNat = min 224 (s.damper.duty.toNat + 16)) ∧
       (∀ h ∈ hobNums, (s.hob h).runs = true →
         (t.hob h).simmer.duty.toNat = max (s.hob h).simmer.own t.damper.duty.toNat % 256) ∧
       (∀ h ∈ hobNums, (s.hob h).runs = false → t.hob h = s.hob h)) ∧
  (∀ (s : State) (f : Nat),
     s.damper.hotSince = some f →
     f + 100000000 ≤ s.now →
     400 < s.damper.tjmax.toNat →
     s.damper.thermalHold = false →
     s.resets.hearthDown = false →
     ∃ t, exec .thermalHold s = .next t ∧ t = { s with damper := t.damper, pins := t.pins, hobs := t.hobs, avl := t.avl } ∧
       t.damper.thermalHold = true ∧ t.pins.alert = true ∧
       (∀ h ∈ hobNums, (s.hob h).runs = true → ((s.hob h).hold.sched.any fun y => y.1 == 8) = false →
         ((s.hob h).clk.live = false ∨ (s.hob h).hold.frozen = true →
           (t.hob h).hold.causes.contains 8 = true ∧ (t.hob h).hold.frozen = true) ∧
         ((s.hob h).clk.live = true → (s.hob h).hold.frozen = false → (s.hob h).hold.causes.contains 8 = false →
           (t.hob h).hold.sched = (s.hob h).hold.sched ++ [(8, (s.hob h).clk.cyc + 64)]))) ∧
  (∀ (r : Rack) (s : State),
     s.damper.mclk ≠ 0 →
     420 ≤ s.sensors.rack.get 0 r.idx →
     ∃ t, exec (.thermalTrip r) s = .next t ∧ t.mem = [] ∧ t.cells = [] ∧ t.damper.mclk = 0 ∧ t.damper.why = 3 ∧ t.resets.tripped = true ∧
       t.pins.vcore = [] ∧ (∀ h ∈ hobNums, (t.hob h).st = .free)) ∧
  (∀ (s : State),
     s.resets.tripped = true →
     s.st = .hearthUp →
     (s.resets.running.any fun r => r.1 == 8) = false →
     s.ashRun = none →
     s.resets.hearthDown = false →
     ((∀ i ∈ List.range 768, s.sensors.rack.get 0 i < 240)) →
     (s.resets.pathCounted && s.resets.running.any fun r => r.1 == 7) = false →
     (s.resets.counted.filter fun t => decide (s.lifeMs < t + s.resets.whours.toNat * 3600000)).length + 1 < s.resets.wcount.toNat →
     ∃ t a, exec .tripRestart s = .next t ∧ t.mem = s.mem ∧ t.ashRun = some a ∧ a.waiting = [(8, 0, 0)] ∧
       t.resets.counted.head? = some s.lifeMs) ∧
  (∀ (r : Rack) (v v2 : Nat) (s : State),
     s.pins.pwrgd = true →
     s.resets.hearthDown = false →
     ∃ t, exec (.sensorSample (.rack r) v v2) s = .next t ∧ t = { s with sensors := t.sensors, damper := t.damper, avl := t.avl } ∧
       t.sensors = { s.sensors with rack := t.sensors.rack } ∧ t.sensors.rack.get 0 r.idx = v ∧
       t.damper = { s.damper with tjmax := t.damper.tjmax, hotSince := t.damper.hotSince } ∧
       (v < 1024 → v ≤ t.damper.tjmax.toNat)) ∧
  (∀ (k : StackId) (v v2 : Nat) (s : State),
     s.pins.pwrgd = true →
     s.resets.hearthDown = false →
     ∃ t, exec (.sensorSample (.stack k) v v2) s = .next t ∧ t = { s with sensors := t.sensors, stk := t.stk } ∧
       t.sensors.stack.get 0 k.val = v ∧ t.stack k.val = { s.stack k.val with hotref := decide (85 < v) } ∧
       (∀ j, j ≠ k.val → t.stack j = s.stack j)) ∧
  (∀ (p : LnpId) (v v2 : Nat) (s : State),
     s.pins.pwrgd = true →
     s.resets.hearthDown = false →
     exec (.sensorSample (.lanper p) v v2) s =
       .next { s with sensors := { s.sensors with lanper := s.sensors.lanper.put 0 p.val v } }) ∧
  (∀ (i : Fin 288) (v v2 : Nat) (s : State),
     s.pins.pwrgd = true →
     s.resets.hearthDown = false →
     exec (.sensorSample (.laser i) v v2) s = .next { s with sensors := { s.sensors with
         bias := s.sensors.bias.put 0 i.val v, power := s.sensors.power.put 0 i.val v2 } }) ∧
  (∀ (i : Fin 9) (v v2 : Nat) (s : State),
     s.pins.pwrgd = true →
     s.resets.hearthDown = false →
     ∃ t, exec (.sensorSample (.rail i) v v2) s = .next t ∧ t = { s with sensors := t.sensors, pins := t.pins, avl := t.avl } ∧
       t.sensors = { s.sensors with railMv := s.sensors.railMv.put 0 i.val v, railDa := s.sensors.railDa.put 0 i.val v2 } ∧
       t.pins = (if i.val = 0 then { s.pins with vinMv := v } else s.pins)) ∧
  (∀ (v v2 : Nat) (s : State),
     s.pins.pwrgd = true →
     s.resets.hearthDown = false →
     v < 4096 →
     v2 < 4096 →
     ∃ t, exec (.sensorSample .input v v2) s = .next t ∧ t = { s with damper := { s.damper with
         pin := BitVec.ofNat 12 v, pcore := BitVec.ofNat 12 v2 } })

/-- DEEP_IDLE_ENTRY, after the dwell with the device in service and nothing under way, sets the idle and the taster's pause
bits, counts the entry and puts every stack that is on into self-refresh, contents kept. HRT_IDL_EN by an installer session
stores the bit and is logged; clearing it ends deep idle. LOG_SEAL writes one seal record. LOG_READOUT by an installer or
maker session seals and answers with the log, unchanged but for the seal. A pending maintenance window opens at its start
while no other is open, and an open one ends at its time. AVL_YEAR_ROLLOVER moves the year's counters to the previous
year's. -/
def Obligations.IdleLogAndWindowsMoveOn : Prop :=
  (∀ (s : State),
     s.cfgs.idlEn = true →
     s.cfgs.idlIn = false →
     s.inService = true →
     s.resets.hearthDown = false →
     s.busy = false →
     s.cfgs.idleSince + s.cfgs.idlDwell.toNat * 1000000000 ≤ s.now →
     ∃ t, exec .deepIdleEntry s = .next t ∧ t.mem = s.mem ∧ t.hobs = s.hobs ∧ t.cells = s.cells ∧ t.st = s.st ∧
       t.cfgs = { s.cfgs with idlIn := true, tstPaused := true, idlEntries := satInc s.cfgs.idlEntries } ∧
       (∀ k ∈ stackNums, (t.stack k).pwr = if (s.stack k).pwr = .on ∨ (s.stack k).pwr = .powerDown then .selfRefresh else (s.stack k).pwr)) ∧
  (∀ (who : Who) (s : State),
     s.mayAct who [.installer] = true →
     ∃ t, exec (.hrtIdlEn who true) s = .next t ∧ t = { s with cfgs := { s.cfgs with idlEn := true }, log := t.log, logSeq := t.logSeq, out := t.out } ∧ s.acted t who 0x0108 0) ∧
  (∀ (who : Who) (s : State),
     s.mayAct who [.installer] = true →
     ∃ t, exec (.hrtIdlEn who false) s = .next t ∧ t = { s with cfgs := t.cfgs, stk := t.stk, log := t.log, logSeq := t.logSeq, out := t.out } ∧ s.acted t who 0x0108 0 ∧
       t.cfgs.idlEn = false ∧ t.cfgs.idlIn = false ∧ t.cfgs.idleSince = s.now) ∧
  (∀ (s : State),
     s.st ≠ .off →
     s.resets.hearthDown = false →
     s.logFail = false →
     ∃ t, exec .logSeal s = .next t ∧ t = { s with log := t.log, logSeq := s.logSeq + 1 } ∧
       t.log.head? = some { seq := s.logSeq, time := s.lifeMs, code := 0x0001 }) ∧
  (∀ (who : Who) (s : State),
     s.mayAct who [.installer, .maker] = true →
     ∃ t, exec (.logReadout who) s = .next t ∧ t = { s with log := t.log, logSeq := s.logSeq + 1, out := t.out } ∧
       t.out = .mctp "log" ((logBytes t.log).reverse.flatMap fun x => x.2) :: s.out ∧
       t.log.head? = some { seq := s.logSeq, time := s.lifeMs, code := 0x0001 }) ∧
  (∀ (start len : Nat) (s : State),
     s.avl.pending = some (start, len) →
     start ≤ s.lifeS →
     s.avl.windowUntil = none →
     s.resets.hearthDown = false →
     ∃ t, exec .maintWindowStart s = .next t ∧
       t = { s with avl := { s.avl with pending := none, windowUntil := some (s.life + len * 1000000000) } }) ∧
  (∀ (u : Nat) (s : State),
     s.avl.windowUntil = some u →
     u ≤ s.life →
     s.resets.hearthDown = false →
     ∃ t, exec .maintWindowEnd s = .next t ∧ t = { s with avl := { s.avl with windowUntil := none } }) ∧
  (∀ (s : State),
     s.avl.started = true →
     31536000000000000 ≤ s.avl.poweredNs →
     s.resets.hearthDown = false →
     ∃ t, exec .avlYearRollover s = .next t ∧ t = { s with avl := { s.avl with
         prev := s.avl.cur, cur := { year := s.avl.cur.year + 1 }, poweredNs := s.avl.poweredNs - 31536000000000000 } })

/-- With the module powered, the hearth in service, the log taking records and the sender in a finished installer session:
GRANT_SET stores a grant that R237 admits, CREDENTIAL_SET a credential, erasing the hob's jars where it changes,
RSV_WINDOW_SET the reserved rate of one hob on one stack while the sum stays at 28 or below, POWER_LIMIT_SET both fields,
MAINT_WINDOW_DECLARE a window that opens at once, LICENCE_INSTALL one more licence, LICENCE_REMOVE drops one that current
use does not need. A value out of range is logged with result 2 and changes nothing. TAKE_OWNERSHIP on a module without an
owner needs no credential and writes the record. Each action is answered with its code and result and logged with them; a
grant and a new credential apart, nothing but what it names changes. -/
def Obligations.InstallersConfigureTheModule : Prop :=
  (∀ (who : Who) (key : Nat) (sysTag : BitVec 48) (devId : BitVec 13) (s : State),
     s.st ≠ .off →
     s.resets.hearthDown = false →
     s.logFail = false →
     s.hearth.owned = false →
     ∃ t, exec (.takeOwnership who key sysTag devId none) s = .next t ∧ s.acted t who 0x0100 0 ∧
       t = { s with
         avl := { s.avl with started := true, poweredNs := 0 }, log := t.log, logSeq := t.logSeq, out := t.out, hearth := { s.hearth with owned := true, ownerKey := key, sysTag := sysTag, devId := devId } }) ∧
  (∀ (who : Who) (hob : HobId) (g : Grant) (s : State),
     s.mayAct who [.installer] = true →
     s.grantRefused hob.val g = 0 →
     ∃ t, exec (.grantSet who hob g) s = .next t ∧ (t.hob hob.val).grant = g ∧ (t.hob hob.val).st = (s.hob hob.val).st ∧
       t.out.head? = some (.mctpVals "result" [0x0102, 0]) ∧ (∀ h ∈ hobNums, h ≠ hob.val → (t.hob h).grant = (s.hob h).grant)) ∧
  (∀ (who : Who) (hob : HobId) (cred : Nat) (s : State),
     s.mayAct who [.installer] = true →
     ∃ t, exec (.credentialSet who hob cred) s = .next t ∧ (t.hob hob.val).cred = cred ∧
       t.out.head? = some (.mctpVals "result" [0x0103, 0]) ∧ (cred ≠ (s.hob hob.val).cred → (t.hob hob.val).jars = []) ∧
       (cred = (s.hob hob.val).cred → t = { s with hobs := t.hobs, log := t.log, logSeq := t.logSeq, out := t.out } ∧ ∀ k, t.hob k = s.hob k)) ∧
  (∀ (who : Who) (hob : HobId) (stack : StackId) (on : Bool) (bw : BitVec 5) (s : State),
     s.mayAct who [.installer] = true →
     ((hobNums.filter fun g => g != hob.val).foldl (fun n g => n + ((s.hob g).rsv.get {} stack.val).bw.toNat) 0) + bw.toNat ≤ 28 →
     ∃ t, exec (.rsvWindowSet who hob stack on bw) s = .next t ∧ t = { s with hobs := t.hobs, log := t.log, logSeq := t.logSeq, out := t.out } ∧ s.acted t who 0x0104 0 ∧
       t.hob hob.val = { s.hob hob.val with rsv := (t.hob hob.val).rsv } ∧
       (t.hob hob.val).rsv.get {} stack.val = { (s.hob hob.val).rsv.get {} stack.val with on := on, bw := bw } ∧
       (∀ k, k ≠ stack.val → (t.hob hob.val).rsv.get {} k = (s.hob hob.val).rsv.get {} k) ∧ (∀ h, h ≠ hob.val → t.hob h = s.hob h)) ∧
  (∀ (who : Who) (hob : HobId) (stack : StackId) (on : Bool) (bw : BitVec 5) (s : State),
     s.mayAct who [.installer] = true →
     28 < ((hobNums.filter fun g => g != hob.val).foldl (fun n g => n + ((s.hob g).rsv.get {} stack.val).bw.toNat) 0) + bw.toNat →
     ∃ t, exec (.rsvWindowSet who hob stack on bw) s = .next t ∧ t = { s with log := t.log, logSeq := t.logSeq, out := t.out } ∧ s.acted t who 0x0104 2) ∧
  (∀ (who : Who) (v : W32) (s : State),
     s.mayAct who [.installer] = true →
     1000 ≤ bits 31 20 v.toNat →
     bits 31 20 v.toNat ≤ 3800 →
     800 ≤ bits 19 9 v.toNat →
     bits 19 9 v.toNat ≤ 1600 →
     ∃ t, exec (.powerLimitSet who v) s = .next t ∧ s.acted t who 0x0101 0 ∧ t = { s with
         log := t.log, logSeq := t.logSeq, out := t.out, damper := { s.damper with plim := BitVec.ofNat 12 (bits 31 20 v.toNat), fmax := BitVec.ofNat 11 (bits 19 9 v.toNat) } }) ∧
  (∀ (who : Who) (v : W32) (s : State),
     s.mayAct who [.installer] = true →
     (bits 31 20 v.toNat < 1000 ∨ 3800 < bits 31 20 v.toNat ∨ bits 19 9 v.toNat < 800 ∨ 1600 < bits 19 9 v.toNat) →
     ∃ t, exec (.powerLimitSet who v) s = .next t ∧ s.acted t who 0x0101 2 ∧ t = { s with log := t.log, logSeq := t.logSeq, out := t.out }) ∧
  (∀ (who : Who) (len : Nat) (s : State),
     s.mayAct who [.installer] = true →
     60 ≤ len →
     len ≤ 86400 →
     s.avl.windowUntil = none →
     ∃ t, exec (.maintWindowDeclare who 0 len false) s = .next t ∧ s.acted t who 0x010A 0 ∧
       t = { s with avl := { s.avl with windowUntil := some (s.life + len * 1000000000) }, log := t.log, logSeq := t.logSeq, out := t.out }) ∧
  (∀ (who : Who) (start len : Nat) (s : State),
     s.mayAct who [.installer] = true →
     (len < 60 ∨ 86400 < len) →
     ∃ t, exec (.maintWindowDeclare who start len false) s = .next t ∧ s.acted t who 0x010A 2 ∧ t = { s with log := t.log, logSeq := t.logSeq, out := t.out }) ∧
  (∀ (who : Who) (lic : Licence) (s : State),
     s.mayAct who [.installer] = true →
     lic.fieldsOk = true →
     (s.hearth.licences.any fun l => l.id == lic.id) = false →
     s.hearth.licences.length < 32 →
     ∃ t, exec (.licenceInstall who lic true true) s = .next t ∧ s.acted t who 0x010C 0 ∧
       t = { s with hearth := { s.hearth with licences := s.hearth.licences ++ [lic] }, log := t.log, logSeq := t.logSeq, out := t.out }) ∧
  (∀ (who : Who) (i : Nat) (s : State),
     s.mayAct who [.installer] = true →
     s.hearth.licences.any (fun l => l.id == i) = true →
     s.covered (s.hearth.licences.filter fun l => l.id != i) = true →
     ∃ t, exec (.licenceRemove who i) s = .next t ∧ s.acted t who 0x010C 0 ∧
       t = { s with hearth := { s.hearth with licences := s.hearth.licences.filter fun l => l.id != i }, log := t.log, logSeq := t.logSeq, out := t.out })

/-- With the module powered, the hearth in service, the log taking records and the sender in a finished maker session:
MAKER_TOKEN_USE stores the end of the life, of at most 24 hours, and the actions of a token whose signature and serial hold
and whose nonce is new; a nonce that was used is refused with result 1. A fuse-map write with a good signature goes into the
shadow, TEST_CONTENT_INSTALL stores the version and ends the reduced pattern set, CELL_OVERRIDE notes the position,
TRUST_LIST_CHANGE replaces the list; each spends the token it names. JTAG_UNLOCK with a good answer over an accepted token
and every hob FREE unlocks and spends it. With a token that does not permit it, is past its life or was not accepted, the
action is logged with result 1 and changes nothing. -/
def Obligations.MakersActUnderTokens : Prop :=
  (∀ (who : Who) (nonce : Nat) (permits : BitVec 16) (lifeMs : Nat) (sigOk serialOk : Bool) (s : State),
     s.mayAct who [.maker] = true →
     s.hearth.tokensUsed.contains nonce = true →
     ∃ t, exec (.makerTokenUse who ⟨nonce, permits, lifeMs⟩ sigOk serialOk) s = .next t ∧ s.acted t who 0x0200 1 ∧ t = { s with log := t.log, logSeq := t.logSeq, out := t.out }) ∧
  (∀ (who : Who) (nonce : Nat) (permits : BitVec 16) (lifeMs : Nat) (s : State),
     s.mayAct who [.maker] = true →
     s.hearth.tokensUsed.contains nonce = false →
     (s.hearth.tokens.any fun t => t.1 == nonce) = false →
     lifeMs ≤ 86400000 →
     ∃ t, exec (.makerTokenUse who ⟨nonce, permits, lifeMs⟩ true true) s = .next t ∧ s.acted t who 0x0200 0 ∧
       t = { s with hearth := { s.hearth with tokens := t.hearth.tokens }, log := t.log, logSeq := t.logSeq, out := t.out } ∧
       (∀ c, t.tokenOk nonce c = (decide (0 < lifeMs) && permits.getLsbD (c % 16)))) ∧
  (∀ (nonce : Nat) (s : State),
     s.st ≠ .off →
     s.resets.hearthDown = false →
     s.tokenOk nonce 0x0201 = true →
     s.logFail = false →
     s.allFree = true →
     ∃ t, exec (.jtagUnlock nonce true) s = .next t ∧ t.hearth.jtag = true ∧ t.hearth.tokensUsed.contains nonce = true ∧
       t.mem = s.mem ∧ t.out.head? = some (.mctpVals "result" [0x0201, 0]) ∧ (s.inService = true → t.st = .degraded)) ∧
  (∀ (who : Who) (nonce : Nat) (bad : List Pos) (s : State),
     s.mayAct who [.maker] = true →
     s.tokenOk nonce 0x0202 = true →
     ∃ t, exec (.fuseMapWrite who nonce bad true) s = .next t ∧ s.acted t who 0x0202 0 ∧
       t = { s with hearth := { (s.spendToken nonce).hearth with fuseShadow := some (bad.map Pos.idx) }, log := t.log, logSeq := t.logSeq, out := t.out }) ∧
  (∀ (who : Who) (nonce version : Nat) (s : State),
     s.mayAct who [.maker] = true →
     s.tokenOk nonce 0x0203 = true →
     ∃ t, exec (.testContentInstall who nonce version true) s = .next t ∧ t.hearth.testContent = version ∧ t.boot.reduced = false ∧
       t.hearth.tokensUsed.contains nonce = true ∧ t.mem = s.mem ∧ t.hobs = s.hobs ∧ t.out.head? = some (.mctpVals "result" [0x0203, 0])) ∧
  (∀ (who : Who) (nonce : Nat) (cell : Pos) (s : State),
     s.mayAct who [.maker] = true →
     s.tokenOk nonce 0x0204 = true →
     ∃ t, exec (.cellOverride who nonce cell) s = .next t ∧ s.acted t who 0x0204 0 ∧ t = { s with hearth := t.hearth, health := t.health, log := t.log, logSeq := t.logSeq, out := t.out } ∧
       t.hearth.overrides.contains cell.idx = true ∧ t.hearth.tokensUsed.contains nonce = true ∧
       t.pos cell.idx = { s.pos cell.idx with override := true } ∧ (∀ p, p ≠ cell.idx → t.pos p = s.pos p)) ∧
  (∀ (who : Who) (nonce : Nat) (keys : List Nat) (s : State),
     s.mayAct who [.maker] = true →
     s.tokenOk nonce 0x0205 = true →
     ∃ t, exec (.trustListChange who nonce keys) s = .next t ∧ s.acted t who 0x0205 0 ∧
       t = { s with hearth := { (s.spendToken nonce).hearth with trust := keys }, log := t.log, logSeq := t.logSeq, out := t.out }) ∧
  (∀ (who : Who) (nonce : Nat) (keys : List Nat) (s : State),
     s.mayAct who [.maker] = true →
     s.tokenOk nonce 0x0205 = false →
     ∃ t, exec (.trustListChange who nonce keys) s = .next t ∧ s.acted t who 0x0205 1 ∧ t = { s with log := t.log, logSeq := t.logSeq, out := t.out }) ∧
  (∀ (who : Who) (nonce : Nat) (bad : List Pos) (sigOk : Bool) (s : State),
     s.mayAct who [.maker] = true →
     s.tokenOk nonce 0x0202 = false →
     ∃ t, exec (.fuseMapWrite who nonce bad sigOk) s = .next t ∧ s.acted t who 0x0202 1 ∧ t = { s with log := t.log, logSeq := t.logSeq, out := t.out }) ∧
  (∀ (who : Who) (nonce version : Nat) (sigOk : Bool) (s : State),
     s.mayAct who [.maker] = true →
     s.tokenOk nonce 0x0203 = false →
     ∃ t, exec (.testContentInstall who nonce version sigOk) s = .next t ∧ s.acted t who 0x0203 1 ∧ t = { s with log := t.log, logSeq := t.logSeq, out := t.out }) ∧
  (∀ (who : Who) (nonce : Nat) (cell : Pos) (s : State),
     s.mayAct who [.maker] = true →
     s.tokenOk nonce 0x0204 = false →
     ∃ t, exec (.cellOverride who nonce cell) s = .next t ∧ s.acted t who 0x0204 1 ∧ t = { s with log := t.log, logSeq := t.logSeq, out := t.out })

/-- While PLDM answers, QUERY_DEVICE_IDENTIFIERS, GET_FIRMWARE_PARAMETERS and GET_STATUS answer anyone and change nothing else.
In an installer session: REQUEST_UPDATE starts an update, and a second one is answered ALREADY_IN_UPDATE_MODE;
PASS_COMPONENT_TABLE stores components 1 to 3; UPDATE_COMPONENT of a listed component empties the inactive slot and asks for
the first data; FIRMWARE_DATA of 64 to 4,096 B counts bytes and asks for more, or ends the transfer, and is logged, in
recovery as well. VERIFY_COMPLETE passes, or fails with reason 1 on a bad signature and 2 on an SVN below the fused minimum.
APPLY_COMPLETE puts the component's SVN into the inactive slot. The cancels end the component and the update. The active
slot is untouched throughout. -/
def Obligations.FirmwareUpdatesFollowTheirStages : Prop :=
  (∀ (s : State),
     s.pldmUp = true →
     ∃ t, exec .queryDeviceIdentifiers s = .next t ∧
       t = { s with out := .mctp "QueryDeviceIdentifiers" (Config.replyBytes "QueryDeviceIdentifiers" 0) :: s.out }) ∧
  (∀ (s : State),
     s.pldmUp = true →
     ∃ t, exec .getFirmwareParameters s = .next t ∧ t = { s with
         out := .mctpVals "GetFirmwareParameters" ([1, s.fw.svnH.toNat, 2, s.fw.svnR.toNat, 3, s.fw.svnC.toNat] ++
           (if s.fw.active then s.fw.svnA else s.fw.svnB).map BitVec.toNat ++
           [s.fw.stateA.toNat, s.fw.stateB.toNat, if s.fw.active then 1 else 0]) :: s.out }) ∧
  (∀ (s : State),
     s.pldmUp = true →
     ∃ t, exec .getStatus s = .next t ∧ t = { s with out := .mctpVals "GetStatus" [s.fw.stage.toNat, s.fw.reason] :: s.out }) ∧
  (∀ (who : Who) (s : State),
     s.mayAct who [.installer] = true →
     s.fw.recovery = false →
     s.fw.updating = false →
     ∃ t, exec (.requestUpdate who) s = .next t ∧ s.acted t who 0x010D 0 ∧ .mctpVals "RequestUpdate" [0] ∈ t.out ∧ t = { s with
         fw := { s.fw with updating := true, comps := [], applied := [], comp := none, stage := 0, reason := 0 }, log := t.log, logSeq := t.logSeq, out := t.out }) ∧
  (∀ (who : Who) (s : State),
     s.pldmUp = true →
     s.fw.updating = true →
     ∃ t, exec (.requestUpdate who) s = .next t ∧ t = { s with out := .mctpVals "RequestUpdate" [0x81] :: s.out }) ∧
  (∀ (who : Who) (comps : List Nat) (s : State),
     s.mayAct who [.installer] = true →
     s.fw.recovery = false →
     s.fw.updating = true →
     s.fw.stage = 0 →
     (comps.all fun c => decide (1 ≤ c ∧ c ≤ 3)) = true →
     ∃ t, exec (.passComponentTable who comps) s = .next t ∧ s.acted t who 0x010D 0 ∧ t = { s with fw := { s.fw with comps := comps }, log := t.log, logSeq := t.logSeq, out := t.out }) ∧
  (∀ (who : Who) (comp size : Nat) (svn : BitVec 8) (s : State),
     s.mayAct who [.installer] = true →
     s.fw.recovery = false →
     s.fw.updating = true →
     (s.fw.stage = 0 ∨ s.fw.stage = 4) →
     s.fw.comps.contains comp = true →
     ∃ t, exec (.updateComponent who comp size svn) s = .next t ∧ s.acted t who 0x010D 0 ∧ t = { s with fw := t.fw, log := t.log, logSeq := t.logSeq, out := t.out } ∧
       t.fw.stage = 1 ∧ t.fw.comp = some comp ∧ t.fw.compSvn = svn ∧ t.fw.received = 0 ∧ t.fw.compSize = size ∧ t.fw.active = s.fw.active ∧
       t.fw.activeState = s.fw.activeState ∧ (if s.fw.active then t.fw.stateA = 0 else t.fw.stateB = 0) ∧
       .mctpVals "RequestFirmwareData" [comp, 0, max 64 (min 4096 size)] ∈ t.out) ∧
  (∀ (who : Who) (bytes : Nat) (s : State),
     s.mayAct who [.installer] = true →
     s.fw.recovery = false →
     s.fw.stage = 1 →
     64 ≤ bytes →
     bytes ≤ 4096 →
     s.fw.received + bytes < s.fw.compSize →
     ∃ t, exec (.firmwareData who bytes) s = .next t ∧ s.acted t who 0x010D 0 ∧
       t = { s with fw := { s.fw with received := s.fw.received + bytes }, log := t.log, logSeq := t.logSeq, out := t.out } ∧
       .mctpVals "RequestFirmwareData" [s.fw.comp.getD 0, s.fw.received + bytes,
         max 64 (min 4096 (s.fw.compSize - (s.fw.received + bytes)))] ∈ t.out) ∧
  (∀ (who : Who) (bytes : Nat) (s : State),
     s.mayAct who [.installer] = true →
     s.fw.recovery = false →
     s.fw.stage = 1 →
     64 ≤ bytes →
     bytes ≤ 4096 →
     s.fw.compSize ≤ s.fw.received + bytes →
     ∃ t, exec (.firmwareData who bytes) s = .next t ∧ s.acted t who 0x010D 0 ∧
       t = { s with fw := { s.fw with received := s.fw.compSize, stage := 2 }, log := t.log, logSeq := t.logSeq, out := t.out }) ∧
  (∀ (who : Who) (bytes : Nat) (s : State),
     s.pldmUp = true →
     s.fw.recovery = true →
     s.logFail = false →
     s.fw.stage = 1 →
     64 ≤ bytes →
     bytes ≤ 4096 →
     s.fw.compSize ≤ s.fw.received + bytes →
     ∃ t, exec (.firmwareData who bytes) s = .next t ∧ t.out = .mctpVals "result" [0x010D, 0] :: s.out ∧
       t = { s with fw := { s.fw with received := s.fw.compSize, stage := 2 }, log := t.log, logSeq := t.logSeq, out := t.out } ∧
       (∃ r ∈ t.log, r.seq = s.logSeq ∧ r.code = 0x010D ∧ r.result = 0)) ∧
  (∀ (s : State),
     s.pldmUp = true →
     s.fw.stage = 2 →
     s.fw.minsvn ≤ s.fw.compSvn →
     ∃ t, exec (.verifyComplete true) s = .next t ∧ t = { s with
         fw := { s.fw with stage := 3 }, out := .mctpVals "VerifyComplete" [0] :: s.out }) ∧
  (∀ (sigOk : Bool) (s : State),
     s.pldmUp = true →
     s.fw.stage = 2 →
     (sigOk = false ∨ s.fw.compSvn < s.fw.minsvn) →
     ∃ t, exec (.verifyComplete sigOk) s = .next t ∧ t = { s with
         fw := { s.fw with stage := 0, comp := none, reason := if sigOk then 2 else 1 },
         out := .mctpVals "VerifyComplete" [if sigOk then 2 else 1] :: s.out }) ∧
  (∀ (c : Nat) (s : State),
     s.pldmUp = true →
     s.fw.stage = 3 →
     s.fw.comp = some c →
     ∃ t, exec .applyComplete s = .next t ∧ t = { s with fw := t.fw, out := .mctpVals "ApplyComplete" [0] :: s.out } ∧
       t.fw.stage = 4 ∧ t.fw.comp = none ∧ t.fw.applied.contains c = true ∧ t.fw.active = s.fw.active ∧ t.fw.activeSvns = s.fw.activeSvns ∧
       (1 ≤ c → c ≤ s.fw.otherSvns.length → t.fw.otherSvns.getD (c - 1) 0 = s.fw.compSvn)) ∧
  (∀ (who : Who) (s : State),
     s.mayAct who [.installer] = true →
     s.fw.recovery = false →
     (s.fw.stage = 1 ∨ s.fw.stage = 2 ∨ s.fw.stage = 3) →
     ∃ t, exec (.cancelUpdateComponent who) s = .next t ∧ s.acted t who 0x010D 0 ∧
       t = { s with fw := { s.fw with stage := 0, comp := none, received := 0 }, log := t.log, logSeq := t.logSeq, out := t.out }) ∧
  (∀ (who : Who) (s : State),
     s.mayAct who [.installer] = true →
     s.fw.recovery = false →
     s.fw.updating = true →
     ∃ t, exec (.cancelUpdate who) s = .next t ∧ s.acted t who 0x010D 0 ∧ t = { s with fw := t.fw, log := t.log, logSeq := t.logSeq, out := t.out } ∧ t.fw.updating = false ∧ t.fw.stage = 0 ∧
       t.fw.comps = [] ∧ t.fw.comp = none ∧ t.fw.active = s.fw.active ∧ t.fw.activeState = s.fw.activeState)

/-- ACTIVATE_FIRMWARE in an installer session, of an update that awaits activation, makes the other slot active and PENDING: the
hearth resets at once, its sessions gone and the compute die untouched, or, while one of the activities of R385 runs,
activation is deferred; after 10 minutes of that ACTIVATE_TIMEOUT makes the old slot active again with reason 3. FW_CONFIRM
makes the active slot good and raises the fused minimum SVN to the slot's where that is higher. FW_REVERT while the slot is
pending makes the other slot active and resets the hearth. FW_GOOD_TIMER after 10 minutes in hearth service makes the slot
good. -/
def Obligations.FirmwareSlotsAreChosenAndConfirmed : Prop :=
  (∀ (who : Who) (s : State),
     s.mayAct who [.installer] = true →
     s.fw.recovery = false →
     s.fw.updating = true →
     s.fw.stage = 4 →
     s.defersReset = true →
     ∃ t, exec (.activateFirmware who) s = .next t ∧ s.acted t who 0x010D 0 ∧ t = { s with fw := t.fw, log := t.log, logSeq := t.logSeq, out := t.out } ∧ t.fw.active = !s.fw.active ∧
       t.fw.activeState = 1 ∧ t.fw.stage = 5 ∧ t.fw.activateAt = s.life ∧ t.fw.updating = false ∧ t.fw.tries = 0 ∧
       (∀ c ∈ [1, 2, 3], s.fw.applied.contains c = false → t.fw.activeSvns.getD (c - 1) 0 = s.fw.activeSvns.getD (c - 1) 0)) ∧
  (∀ (who : Who) (s : State),
     s.mayAct who [.installer] = true →
     s.fw.recovery = false →
     s.fw.updating = true →
     s.fw.stage = 4 →
     s.defersReset = false →
     ∃ t, exec (.activateFirmware who) s = .next t ∧ t.fw.active = !s.fw.active ∧ t.fw.activeState = 1 ∧ t.fw.stage = 0 ∧
       t.resets.hearthDown = true ∧ t.inReset 9 0 = true ∧ t.sessions = [] ∧ t.mem = s.mem ∧ t.cells = s.cells ∧ t.hobs = s.hobs ∧
       t.out.head? = some (.mctpVals "result" [0x010D, 0])) ∧
  (∀ (s : State),
     s.fw.stage = 5 →
     s.resets.hearthDown = false →
     s.fw.activateAt + 600000000000 ≤ s.life →
     ∃ t, exec .activateTimeout s = .next t ∧ t = { s with fw := { s.fw with
         active := !s.fw.active, updating := true, stage := 4, reason := 3, activateAt := 0 } }) ∧
  (∀ (who : Who) (s : State),
     s.mayAct who [.installer] = true →
     s.fw.recovery = false →
     (s.fw.activeState = 1 ∨ s.fw.activeState = 2) →
     (s.fw.slotSvn ≤ s.fw.minsvn ∨ s.fw.fuseRaises < 64) →
     ∃ t, exec (.fwConfirm who) s = .next t ∧ s.acted t who 0x010D 0 ∧ t = { s with fw := t.fw, log := t.log, logSeq := t.logSeq, out := t.out } ∧ t.fw.active = s.fw.active ∧
       t.fw.activeState = 2 ∧ t.fw.tries = 0 ∧
       (t.fw.minsvn, t.fw.fuseRaises) =
         if s.fw.minsvn < s.fw.slotSvn then (s.fw.slotSvn, s.fw.fuseRaises + 1) else (s.fw.minsvn, s.fw.fuseRaises)) ∧
  (∀ (who : Who) (s : State),
     s.mayAct who [.installer] = true →
     s.fw.recovery = false →
     s.fw.activeState = 1 →
     ∃ t, exec (.fwRevert who) s = .next t ∧ t.fw.active = !s.fw.active ∧ t.fw.tries = 0 ∧ t.resets.hearthDown = true ∧ t.sessions = [] ∧
       t.mem = s.mem ∧ t.cells = s.cells ∧ t.hobs = s.hobs ∧ t.out.head? = some (.mctpVals "result" [0x010D, 0])) ∧
  (∀ (s : State),
     s.fw.activeState = 1 →
     s.fw.recovery = false →
     s.resets.hearthDown = false →
     s.st ≠ .off →
     s.fw.pendingSince + 600000000000 ≤ s.life →
     ∃ t, exec .fwGoodTimer s = .next t ∧ t = { s with fw := t.fw } ∧ t.fw.activeState = 2 ∧ t.fw.tries = 0 ∧ t.fw.active = s.fw.active ∧
       t.fw.minsvn = s.fw.minsvn)

/-- While the hearth is in service GET_VERSION is answered 1.3, GET_CAPABILITIES, GET_DIGESTS, GET_CERTIFICATE of slot 0 and
CHALLENGE are answered to anyone, and none changes anything else; another certificate slot is an error. NEGOTIATE_ALGORITHMS
agrees only where all four algorithms of R380 are offered. GET_MEASUREMENTS answers one block, their number or all of them,
signed, and an index that does not exist with an error. KEY_EXCHANGE after an agreement opens a session in its role, FINISH
with mutual authentication of a role that has a key completes it and without it ends it, KEY_UPDATE and HEARTBEAT are
acknowledged inside a finished session, and END_SESSION ends it; outside one they are errors, as is FINISH where no exchange
is open. MCTP control is answered by the hearth and the recovery loader, and Set Endpoint ID stores the ID of its binding.
-/
def Obligations.SpdmIsAnsweredByItsRules : Prop :=
  (∀ (s : State),
     s.spdmUp = true →
     ∃ t, exec .getVersion s = .next t ∧ t = { s with out := .mctpVals "VERSION" [0x13] :: s.out }) ∧
  (∀ (s : State),
     s.spdmUp = true →
     ∃ t, exec .getCapabilities s = .next t ∧ t = { s with out := .mctp "CAPABILITIES" (Config.replyBytes "CAPABILITIES" 0) :: s.out }) ∧
  (∀ (a b c d : Bool) (s : State),
     s.spdmUp = true →
     ∃ t, exec (.negotiateAlgorithms a b c d) s = .next t ∧ t = { s with
         hearth := { s.hearth with spdmAlgs := a && b && c && d },
         out := .mctpVals "ALGORITHMS" [flag a, flag b, flag c, flag d] :: s.out }) ∧
  (∀ (s : State),
     s.spdmUp = true →
     ∃ t, exec .getDigests s = .next t ∧ t = { s with out := .mctpVals "DIGESTS" [hashOf certChain] :: s.out }) ∧
  (∀ (off len : Nat) (s : State),
     s.spdmUp = true →
     ∃ t, exec (.getCertificate 0 off len) s = .next t ∧ t = { s with out := .mctp "CERTIFICATE" ((certChain.drop off).take len) :: s.out }) ∧
  (∀ (slot off len : Nat) (s : State),
     s.spdmUp = true →
     slot ≠ 0 →
     ∃ t, exec (.getCertificate slot off len) s = .next t ∧ t = { s with out := .mctpVals "ERROR" [slot] :: s.out }) ∧
  (∀ (nonce : Nat) (s : State),
     s.spdmUp = true →
     ∃ t, exec (.challenge nonce) s = .next t ∧ t = { s with
         out := .mctp "SIGNATURE" (Config.sign [hashOf certChain, nonce]) :: .mctpVals "CHALLENGE_AUTH" [hashOf certChain, nonce] :: s.out }) ∧
  (∀ (i : Nat) (s : State),
     s.spdmUp = true →
     i ∈ [1, 2, 3, 4, 5, 6, 7, 8, 9, 16, 17, 18, 19, 20, 21, 22, 23] →
     ∃ t, exec (.getMeasurements i) s = .next t ∧ t = { s with
         out := .mctp "SIGNATURE" (Config.sign [i, s.measurement i]) :: .mctpVals "MEASUREMENTS" [i, s.measurement i] :: s.out }) ∧
  (∀ (s : State),
     s.spdmUp = true →
     ∃ t, exec (.getMeasurements 0) s = .next t ∧ t = { s with
         out := .mctp "SIGNATURE" (Config.sign [0, 17]) :: .mctpVals "MEASUREMENTS" [0, 17] :: s.out }) ∧
  (∀ (i : Nat) (s : State),
     s.spdmUp = true →
     i ≠ 0 →
     i ≠ 0xFF →
     i ∉ [1, 2, 3, 4, 5, 6, 7, 8, 9, 16, 17, 18, 19, 20, 21, 22, 23] →
     ∃ t, exec (.getMeasurements i) s = .next t ∧ t = { s with out := .mctpVals "ERROR" [i] :: s.out }) ∧
  (∀ (n : Nat) (role : Role) (path : Nat) (pf : Option HPort) (s : State),
     s.spdmUp = true →
     s.hearth.spdmAlgs = true →
     (s.session n).state = 0 →
     ∃ t, exec (.keyExchange n role path pf) s = .next t ∧ t = { s with
         sessions := t.sessions, out := .mctpVals "KEY_EXCHANGE_RSP" [n] :: s.out } ∧
       t.session n = { state := 1, role := role, path := path, pf := pf.map fun p => p.val } ∧ (∀ m, m ≠ n → t.session m = s.session m)) ∧
  (∀ (n : Nat) (role : Role) (path : Nat) (pf : Option HPort) (s : State),
     s.spdmUp = true →
     (s.hearth.spdmAlgs = false ∨ (s.session n).state ≠ 0) →
     ∃ t, exec (.keyExchange n role path pf) s = .next t ∧ t = { s with out := .mctpVals "ERROR" [n] :: s.out }) ∧
  (∀ (n : Nat) (s : State),
     s.spdmUp = true →
     (s.session n).state = 1 →
     s.roleHasKey (s.session n).role = true →
     ∃ t, exec (.finish n true) s = .next t ∧ t = { s with sessions := t.sessions, out := .mctpVals "FINISH_RSP" [n] :: s.out } ∧
       t.session n = { s.session n with state := 2 } ∧ (∀ m, m ≠ n → t.session m = s.session m)) ∧
  (∀ (n : Nat) (ok : Bool) (s : State),
     s.spdmUp = true →
     (s.session n).state = 1 →
     (ok = false ∨ s.roleHasKey (s.session n).role = false) →
     ∃ t, exec (.finish n ok) s = .next t ∧ t = { s with sessions := t.sessions, out := .mctpVals "ERROR" [n] :: s.out } ∧
       t.session n = {} ∧ (∀ m, m ≠ n → t.session m = s.session m)) ∧
  (∀ (n : Nat) (s : State),
     s.spdmUp = true →
     (s.session n).state = 2 →
     ∃ t, exec (.keyUpdate n) s = .next t ∧ t = { s with sessions := t.sessions, out := .mctpVals "KEY_UPDATE_ACK" [n] :: s.out } ∧
       t.session n = { s.session n with keyGen := (s.session n).keyGen + 1 } ∧ (∀ m, m ≠ n → t.session m = s.session m)) ∧
  (∀ (n : Nat) (s : State),
     s.spdmUp = true →
     (s.session n).state = 2 →
     ∃ t, exec (.heartbeat n) s = .next t ∧ t = { s with sessions := t.sessions, out := .mctpVals "HEARTBEAT_ACK" [n] :: s.out } ∧
       (∀ m, t.session m = s.session m)) ∧
  (∀ (n : Nat) (s : State),
     s.spdmUp = true →
     (s.session n).state = 2 →
     ∃ t, exec (.endSession n) s = .next t ∧ t = { s with sessions := t.sessions, out := .mctpVals "END_SESSION_ACK" [n] :: s.out } ∧
       t.session n = {} ∧ (∀ m, m ≠ n → t.session m = s.session m)) ∧
  (∀ (n : Nat) (s : State),
     s.spdmUp = true →
     (s.session n).state ≠ 2 →
     ∃ t, exec (.heartbeat n) s = .next t ∧ exec (.keyUpdate n) s = .next t ∧ exec (.endSession n) s = .next t ∧
       t = { s with out := .mctpVals "ERROR" [n] :: s.out }) ∧
  (∀ (n : Nat) (ok : Bool) (s : State),
     s.spdmUp = true →
     (s.session n).state ≠ 1 →
     ∃ t, exec (.finish n ok) s = .next t ∧ t = { s with out := .mctpVals "ERROR" [n] :: s.out }) ∧
  (∀ (s : State),
     s.spdmUp = true →
     ∃ t, exec (.getMeasurements 0xFF) s = .next t ∧
       t = { s with
         out := .mctp "SIGNATURE" (Config.sign (0xFF :: [1, 2, 3, 4, 5, 6, 7, 8, 9, 16, 17, 18, 19, 20, 21, 22, 23].map s.measurement)) ::
         .mctpVals "MEASUREMENTS" (0xFF :: [1, 2, 3, 4, 5, 6, 7, 8, 9, 16, 17, 18, 19, 20, 21, 22, 23].map s.measurement) :: s.out }) ∧
  (∀ (binding : Fin 5) (eid : Byte) (s : State),
     s.pldmUp = true →
     ∃ t, exec (.setEndpointId binding eid) s = .next t ∧ t = { s with
         pins := { s.pins with eids := t.pins.eids }, out := .mctpVals "Set Endpoint ID" [eid.toNat] :: s.out } ∧
       t.pins.eids.get 0 binding.val = eid.toNat ∧ (∀ b, b ≠ binding.val → t.pins.eids.get 0 b = s.pins.eids.get 0 b)) ∧
  (∀ (cmd : Byte) (s : State),
     s.pldmUp = true →
     ∃ t, exec (.mctpControl cmd) s = .next t ∧ t = { s with out := .mctp "control" (Config.replyBytes "control" cmd.toNat) :: s.out })

/-- Inside a finished session on the PF of a host port, QUERY is answered; KEY_PROG programs the stream's key set unless it is
in use; K_SET_GO brings a programmed set into use; K_SET_STOP ends its use. A key set in use and one not programmed answer
status 1 and stay. Outside such a session each is an error and changes nothing. No other stream, port or state changes. -/
def Obligations.IdeKeysFollowTheirSession : Prop :=
  (∀ (n p : Nat) (s : State),
     s.spdmUp = true →
     s.idePort n = some p →
     ∃ t, exec (.ideKmQuery n) s = .next t ∧ t = { s with out := .mctp "QUERY_RESP" (Config.replyBytes "QUERY_RESP" p) :: s.out }) ∧
  (∀ (n : Nat) (s : State),
     s.spdmUp = true →
     s.idePort n = none →
     ∃ t, exec (.ideKmQuery n) s = .next t ∧ t = { s with out := .mctpVals "ERROR" [n] :: s.out }) ∧
  (∀ (n stream p : Nat) (s : State),
     s.spdmUp = true →
     s.idePort n = some p →
     stream < 9 →
     (s.host p).ideKeys.get 0 stream ≠ 2 →
     ∃ t, exec (.keyProg n stream) s = .next t ∧ t = { s with hosts := t.hosts, out := .mctpVals "KP_ACK" [stream, 0] :: s.out } ∧
       ((t.host p).ideKeys.get 0 stream) = 1 ∧ (∀ q, q ≠ p → t.host q = s.host q) ∧
       t.host p = { s.host p with ideKeys := (t.host p).ideKeys } ∧
       (∀ k, k ≠ stream → (t.host p).ideKeys.get 0 k = (s.host p).ideKeys.get 0 k)) ∧
  (∀ (n stream p : Nat) (s : State),
     s.spdmUp = true →
     s.idePort n = some p →
     stream < 9 →
     (s.host p).ideKeys.get 0 stream = 2 →
     ∃ t, exec (.keyProg n stream) s = .next t ∧ t = { s with hosts := t.hosts, out := .mctpVals "KP_ACK" [stream, 1] :: s.out } ∧
       ((t.host p).ideKeys.get 0 stream) = 2 ∧ (∀ q, q ≠ p → t.host q = s.host q) ∧
       t.host p = { s.host p with ideKeys := (t.host p).ideKeys } ∧
       (∀ k, k ≠ stream → (t.host p).ideKeys.get 0 k = (s.host p).ideKeys.get 0 k)) ∧
  (∀ (n stream p : Nat) (s : State),
     s.spdmUp = true →
     s.idePort n = some p →
     stream < 9 →
     (s.host p).ideKeys.get 0 stream ≠ 0 →
     ∃ t, exec (.kSetGo n stream) s = .next t ∧ t = { s with hosts := t.hosts, out := .mctpVals "K_GOSTOP_ACK" [stream, 0] :: s.out } ∧
       ((t.host p).ideKeys.get 0 stream) = 2 ∧ (∀ q, q ≠ p → t.host q = s.host q) ∧
       t.host p = { s.host p with ideKeys := (t.host p).ideKeys } ∧
       (∀ k, k ≠ stream → (t.host p).ideKeys.get 0 k = (s.host p).ideKeys.get 0 k)) ∧
  (∀ (n stream p : Nat) (s : State),
     s.spdmUp = true →
     s.idePort n = some p →
     stream < 9 →
     (s.host p).ideKeys.get 0 stream = 0 →
     ∃ t, exec (.kSetGo n stream) s = .next t ∧ t = { s with hosts := t.hosts, out := .mctpVals "K_GOSTOP_ACK" [stream, 1] :: s.out } ∧
       ((t.host p).ideKeys.get 0 stream) = 0 ∧ (∀ q, q ≠ p → t.host q = s.host q) ∧
       t.host p = { s.host p with ideKeys := (t.host p).ideKeys } ∧
       (∀ k, k ≠ stream → (t.host p).ideKeys.get 0 k = (s.host p).ideKeys.get 0 k)) ∧
  (∀ (n stream p : Nat) (s : State),
     s.spdmUp = true →
     s.idePort n = some p →
     stream < 9 →
     ∃ t, exec (.kSetStop n stream) s = .next t ∧ t = { s with hosts := t.hosts, out := .mctpVals "K_GOSTOP_ACK" [stream, 0] :: s.out } ∧
       ((t.host p).ideKeys.get 0 stream) = 0 ∧ (∀ q, q ≠ p → t.host q = s.host q) ∧
       t.host p = { s.host p with ideKeys := (t.host p).ideKeys } ∧
       (∀ k, k ≠ stream → (t.host p).ideKeys.get 0 k = (s.host p).ideKeys.get 0 k)) ∧
  (∀ (n stream : Nat) (s : State),
     s.spdmUp = true →
     s.idePort n = none →
     ∃ t, exec (.keyProg n stream) s = .next t ∧ exec (.kSetGo n stream) s = .next t ∧ exec (.kSetStop n stream) s = .next t ∧
       t = { s with out := .mctpVals "ERROR" [n] :: s.out })

/-- While the hearth runs, PAGE selects pages 0 to 8 and another page is refused; CLEAR_FAULTS clears the latched status and
releases SMBALERT#. On page 0 READ_VIN, READ_IIN, READ_PIN and the three temperatures, and on pages 1 to 8 READ_VOUT,
READ_IOUT and READ_POUT answer the value refreshed last in LINEAR11; on a page of the other kind they are not acknowledged.
The four status commands answer the latched status of the selected page. PMBUS_REVISION, CAPABILITY and the MFR commands
answer on page 0. Every other write is refused. PMBUS_REFRESH takes the readings of its rails and sensors 1 ms after the
last and latches their status bits, and SMBALERT# follows them. Nothing else changes. -/
def Obligations.PmbusAnswersItsPages : Prop :=
  (∀ (n : Byte) (s : State),
     s.pmbusUp = true →
     n.toNat ≤ 8 →
     ∃ t, exec (.page n) s = .next t ∧ t = { s with pmbus := { s.pmbus with page := n.toNat } }) ∧
  (∀ (n : Byte) (s : State),
     s.pmbusUp = true →
     8 < n.toNat →
     ∃ t, exec (.page n) s = .next t ∧ t = { s with out := .mctpVals "NACK" [] :: s.out }) ∧
  (∀ (s : State),
     s.pmbusUp = true →
     ∃ t, exec .clearFaults s = .next t ∧ t = { s with
         pmbus := { s.pmbus with status := [] }, pins := { s.pins with smbAlert := false } }) ∧
  (∀ (s : State),
     s.pmbusUp = true →
     s.pmbus.page = 0 →
     ∃ t, exec .readVin s = .next t ∧ t = { s with out := .mctpVals "READ_VIN" [(Config.linear11 s.pmbus.vin).toNat] :: s.out }) ∧
  (∀ (s : State),
     s.pmbusUp = true →
     s.pmbus.page = 0 →
     ∃ t, exec .readIin s = .next t ∧ t = { s with out := .mctpVals "READ_IIN" [(Config.linear11 s.pmbus.iin).toNat] :: s.out }) ∧
  (∀ (s : State),
     s.pmbusUp = true →
     s.pmbus.page = 0 →
     ∃ t, exec .readPin s = .next t ∧ t = { s with out := .mctpVals "READ_PIN" [(Config.linear11 s.pmbus.pin).toNat] :: s.out }) ∧
  (∀ (s : State),
     s.pmbusUp = true →
     s.pmbus.page = 0 →
     ∃ t, exec .readTemperature1 s = .next t ∧ t = { s with out := .mctpVals "READ_TEMPERATURE_1" [(Config.linear11 (s.pmbus.temps.get 0 0)).toNat] :: s.out }) ∧
  (∀ (s : State),
     s.pmbusUp = true →
     s.pmbus.page = 0 →
     ∃ t, exec .readTemperature2 s = .next t ∧ t = { s with out := .mctpVals "READ_TEMPERATURE_2" [(Config.linear11 (s.pmbus.temps.get 0 1)).toNat] :: s.out }) ∧
  (∀ (s : State),
     s.pmbusUp = true →
     s.pmbus.page = 0 →
     ∃ t, exec .readTemperature3 s = .next t ∧ t = { s with out := .mctpVals "READ_TEMPERATURE_3" [(Config.linear11 (s.pmbus.temps.get 0 2)).toNat] :: s.out }) ∧
  (∀ (s : State),
     s.pmbusUp = true →
     1 ≤ s.pmbus.page ∧ s.pmbus.page ≤ 8 →
     ∃ t, exec .readVout s = .next t ∧ t = { s with out := .mctpVals "READ_VOUT" [(Config.linear11 (s.pmbus.vout.get 0 s.pmbus.page)).toNat] :: s.out }) ∧
  (∀ (s : State),
     s.pmbusUp = true →
     1 ≤ s.pmbus.page ∧ s.pmbus.page ≤ 8 →
     ∃ t, exec .readIout s = .next t ∧ t = { s with out := .mctpVals "READ_IOUT" [(Config.linear11 (s.pmbus.iout.get 0 s.pmbus.page)).toNat] :: s.out }) ∧
  (∀ (s : State),
     s.pmbusUp = true →
     1 ≤ s.pmbus.page ∧ s.pmbus.page ≤ 8 →
     ∃ t, exec .readPout s = .next t ∧ t = { s with out := .mctpVals "READ_POUT" [(Config.linear11 (s.pmbus.vout.get 0 s.pmbus.page * s.pmbus.iout.get 0 s.pmbus.page / 1000)).toNat] :: s.out }) ∧
  (∀ (s : State),
     s.pmbusUp = true →
     s.pmbus.page ≠ 0 →
     ∃ t, exec .readVin s = .next t ∧ exec .readIin s = .next t ∧ exec .readPin s = .next t ∧ exec .readTemperature1 s = .next t ∧
       exec .readTemperature2 s = .next t ∧ exec .readTemperature3 s = .next t ∧ t = { s with out := .mctpVals "NACK" [] :: s.out }) ∧
  (∀ (s : State),
     s.pmbusUp = true →
     (s.pmbus.page = 0 ∨ 8 < s.pmbus.page) →
     ∃ t, exec .readVout s = .next t ∧ exec .readIout s = .next t ∧ exec .readPout s = .next t ∧ t = { s with out := .mctpVals "NACK" [] :: s.out }) ∧
  (∀ (s : State),
     s.pmbusUp = true →
     ∃ t, exec .statusWord s = .next t ∧ t = { s with out := .mctpVals "STATUS_WORD" [(s.pmbus.status.get 0 s.pmbus.page).toNat] :: s.out }) ∧
  (∀ (s : State),
     s.pmbusUp = true →
     ∃ t, exec .statusInput s = .next t ∧ t = { s with out := .mctpVals "STATUS_INPUT" [(s.pmbus.status.get 0 (16 + s.pmbus.page)).toNat % 256] :: s.out }) ∧
  (∀ (s : State),
     s.pmbusUp = true →
     ∃ t, exec .statusIout s = .next t ∧ t = { s with out := .mctpVals "STATUS_IOUT" [(s.pmbus.status.get 0 (32 + s.pmbus.page)).toNat % 256] :: s.out }) ∧
  (∀ (s : State),
     s.pmbusUp = true →
     ∃ t, exec .statusTemperature s = .next t ∧ t = { s with out := .mctpVals "STATUS_TEMPERATURE" [(s.pmbus.status.get 0 (48 + s.pmbus.page)).toNat % 256] :: s.out }) ∧
  (∀ (s : State),
     s.pmbusUp = true →
     s.pmbus.page = 0 →
     ∃ t, exec .pmbusRevision s = .next t ∧ t = { s with out := .mctpVals "PMBUS_REVISION" [0x33] :: s.out }) ∧
  (∀ (s : State),
     s.pmbusUp = true →
     s.pmbus.page = 0 →
     ∃ t, exec .capability s = .next t ∧ t = { s with out := .mctpVals "CAPABILITY" ((Config.replyBytes "CAPABILITY" 0).map BitVec.toNat) :: s.out }) ∧
  (∀ (s : State),
     s.pmbusUp = true →
     s.pmbus.page = 0 →
     ∃ t, exec .mfrId s = .next t ∧ t = { s with out := .mctpVals "MFR_ID" [0x53, 0x50, 0x45, 0x48, 0x41] :: s.out }) ∧
  (∀ (s : State),
     s.pmbusUp = true →
     s.pmbus.page = 0 →
     ∃ t, exec .mfrModel s = .next t ∧ t = { s with out := .mctpVals "MFR_MODEL" [0x46, 0x43, 0x36] :: s.out }) ∧
  (∀ (s : State),
     s.pmbusUp = true →
     s.pmbus.page = 0 →
     ∃ t, exec .mfrSerial s = .next t ∧ t = { s with out := .mctpVals "MFR_SERIAL" [Config.serial.toNat] :: s.out }) ∧
  (∀ (cmd : Byte) (s : State),
     s.pmbusUp = true →
     ∃ t, exec (.pmbusWriteRefused cmd) s = .next t ∧ t = { s with out := .mctpVals "NACK" [cmd.toNat] :: s.out }) ∧
  (∀ (s : State),
     s.pmbusUp = true →
     s.pmbus.refreshed + 1000000 ≤ s.life →
     ∃ t, exec .pmbusRefresh s = .next t ∧ t = { s with pmbus := t.pmbus, pins := { s.pins with smbAlert := t.pins.smbAlert } } ∧
       t.pmbus.refreshed = s.life ∧ t.pmbus.page = s.pmbus.page ∧ t.pmbus.vin = s.sensors.railMv.get 0 0 ∧
       t.pmbus.iin = 100 * s.sensors.railDa.get 0 0 ∧ t.pmbus.pin = 1000 * s.damper.pin.toNat ∧
       (∀ g ∈ [2, 3, 4, 5, 6, 7, 8], t.pmbus.vout.get 0 g = s.sensors.railMv.get 0 g) ∧
       (∀ g ∈ [1, 2, 3, 4, 5, 6, 7, 8], t.pmbus.iout.get 0 g = 100 * s.sensors.railDa.get 0 g) ∧
       t.pmbus.temps.get 0 0 = 250 * s.damper.tjmax.toNat ∧
       (∀ k, s.sensors.stack.get 0 k * 1000 ≤ t.pmbus.temps.get 0 1) ∧
       (∀ i, i % 16 < 9 → i < 64 → s.pmbus.status.get 0 i ||| t.pmbus.status.get 0 i = t.pmbus.status.get 0 i) ∧
       t.pins.smbAlert = t.pmbus.status.any fun e => e.2 != 0)

/-- A write to a ring register of an authenticated open function stores it while the ring is disabled and does nothing while it
is enabled; HP_RING_CFG with a size outside 2⁶ to 2¹⁶ is not stored. HP_AUTH_HOB and the MSI-X table are written on an open
function, and unmasking a vector sends its pending message. Another BAR0 register ignores a write. In an installer session
LNP_PORT_CTL stores transit and the expected peer, refusing transit on a port granted to a hob; LNP_IDENT, LNP_CFG,
HRT_TASTE_CFG, HRT_RST_CFG, HRT_IDLE_CFG and PNT_JAR_POLICY store their fields, and a value outside its range is logged with
result 2 and not stored; LNP_ROUTE stores the port of a destination and relights it where it is parked; LNP_JAR_ACL is
stored with its reserved bits zero, where a valid field has its licence. Each installer write is logged. -/
def Obligations.RegisterWritesKeepTheirFields : Prop :=
  (∀ (who : Who) (port : HPort) (fn : FnId) (ring : RingId) (v : W64) (s : State),
     s.barOpen port.val fn.val = true →
     ringExists fn.val ring.val = true →
     ((s.host port.val).fnSt fn.val).authOk = true →
     (s.ring port.val fn.val ring.val).en = false →
     ∃ t, exec (.registerWrite who (.hpSqBase port fn ring v)) s = .next t ∧ t = { s with hosts := t.hosts } ∧
       (t.ring port.val fn.val ring.val) = { (s.ring port.val fn.val ring.val) with sqBase := v } ∧ (∀ p f r, (p, f, r) ≠ (port.val, fn.val, ring.val) → t.ring p f r = s.ring p f r)) ∧
  (∀ (who : Who) (port : HPort) (fn : FnId) (ring : RingId) (v : W64) (s : State),
     s.barOpen port.val fn.val = true →
     ringExists fn.val ring.val = true →
     ((s.host port.val).fnSt fn.val).authOk = true →
     (s.ring port.val fn.val ring.val).en = false →
     ∃ t, exec (.registerWrite who (.hpCqBase port fn ring v)) s = .next t ∧ t = { s with hosts := t.hosts } ∧
       (t.ring port.val fn.val ring.val) = { (s.ring port.val fn.val ring.val) with cqBase := v } ∧ (∀ p f r, (p, f, r) ≠ (port.val, fn.val, ring.val) → t.ring p f r = s.ring p f r)) ∧
  (∀ (who : Who) (port : HPort) (fn : FnId) (ring : RingId) (v : W64) (s : State),
     s.barOpen port.val fn.val = true →
     ringExists fn.val ring.val = true →
     ((s.host port.val).fnSt fn.val).authOk = true →
     (s.ring port.val fn.val ring.val).en = false →
     ∃ t, exec (.registerWrite who (.hpDbAddr port fn ring v)) s = .next t ∧ t = { s with hosts := t.hosts } ∧
       (t.ring port.val fn.val ring.val) = { (s.ring port.val fn.val ring.val) with dbAddr := v } ∧ (∀ p f r, (p, f, r) ≠ (port.val, fn.val, ring.val) → t.ring p f r = s.ring p f r)) ∧
  (∀ (who : Who) (port : HPort) (fn : FnId) (ring : RingId) (v : W64) (s : State),
     s.barOpen port.val fn.val = true →
     ringExists fn.val ring.val = true →
     ((s.host port.val).fnSt fn.val).authOk = true →
     (s.ring port.val fn.val ring.val).en = false →
     6 ≤ bits 56 52 v.toNat →
     bits 56 52 v.toNat ≤ 16 →
     ∃ t, exec (.registerWrite who (.hpRingCfg port fn ring v)) s = .next t ∧ t = { s with hosts := t.hosts } ∧
       (t.ring port.val fn.val ring.val) = { (s.ring port.val fn.val ring.val) with
         hot := bit 62 v.toNat, log2 := BitVec.ofNat 5 (bits 56 52 v.toNat), vec := BitVec.ofNat 3 (bits 50 48 v.toNat),
         count := BitVec.ofNat 8 (bits 47 40 v.toNat), time := BitVec.ofNat 10 (bits 39 30 v.toNat) } ∧ (∀ p f r, (p, f, r) ≠ (port.val, fn.val, ring.val) → t.ring p f r = s.ring p f r)) ∧
  (∀ (who : Who) (port : HPort) (fn : FnId) (ring : RingId) (v : W64) (s : State),
     s.barOpen port.val fn.val = true →
     ringExists fn.val ring.val = true →
     ((s.host port.val).fnSt fn.val).authOk = true →
     (s.ring port.val fn.val ring.val).en = false →
     (bits 56 52 v.toNat < 6 ∨ 16 < bits 56 52 v.toNat) →
     ∃ t, exec (.registerWrite who (.hpRingCfg port fn ring v)) s = .next t ∧ t = { s with hosts := t.hosts } ∧
       (∀ p f r, t.ring p f r = s.ring p f r)) ∧
  (∀ (who : Who) (port : HPort) (fn : FnId) (ring : RingId) (v : W64) (s : State),
     (s.ring port.val fn.val ring.val).en = true →
     ∃ t, exec (.registerWrite who (.hpSqBase port fn ring v)) s = .next t ∧
       exec (.registerWrite who (.hpCqBase port fn ring v)) s = .next t ∧ exec (.registerWrite who (.hpDbAddr port fn ring v)) s = .next t ∧
       exec (.registerWrite who (.hpRingCfg port fn ring v)) s = .next t ∧ t = s) ∧
  (∀ (who : Who) (port : HPort) (v : W32) (s : State),
     s.barOpen port.val 0 = true →
     ∃ t, exec (.registerWrite who (.hpAuthHob port v)) s = .next t ∧ t = { s with hosts := t.hosts } ∧
       ((t.host port.val).fnSt 0) = { (s.host port.val).fnSt 0 with authHob := v } ∧
       (∀ p f, (p, f) ≠ (port.val, 0) → (t.host p).fnSt f = (s.host p).fnSt f)) ∧
  (∀ (who : Who) (port : HPort) (fn : FnId) (e : Fin 8) (v : BitVec 128) (s : State),
     s.barOpen port.val fn.val = true →
     (((s.host port.val).fnSt fn.val).pba.getLsbD e.val = false ∨ v.getLsbD 96 = true) →
     ∃ t, exec (.registerWrite who (.msixTable port fn e v)) s = .next t ∧ t = { s with hosts := t.hosts } ∧
       ((t.host port.val).fnSt fn.val).msix.get msixReset e.val = v ∧ ((t.host port.val).fnSt fn.val).pba = ((s.host port.val).fnSt fn.val).pba ∧
       (∀ k, k ≠ e.val → ((t.host port.val).fnSt fn.val).msix.get msixReset k = ((s.host port.val).fnSt fn.val).msix.get msixReset k)) ∧
  (∀ (who : Who) (port : HPort) (fn : FnId) (e : Fin 8) (v : BitVec 128) (s : State),
     s.barOpen port.val fn.val = true →
     ((s.host port.val).fnSt fn.val).pba.getLsbD e.val = true →
     v.getLsbD 96 = false →
     ∃ t, exec (.registerWrite who (.msixTable port fn e v)) s = .next t ∧
       t = { s with hosts := t.hosts, out := .msix port.val fn.val e.val :: s.out } ∧
       ((t.host port.val).fnSt fn.val).msix.get msixReset e.val = v ∧ ((t.host port.val).fnSt fn.val).pba.getLsbD e.val = false) ∧
  (∀ (who : Who) (port : HPort) (fn : FnId) (off : BitVec 16) (v : W64) (s : State),
     ∃ t, exec (.registerWrite who (.bar0Other port fn off v)) s = .next t ∧ t = s) ∧
  (∀ (who : Who) (port : LnpId) (v : W32) (s : State),
     s.mayAct who [.installer] = true →
     (bit 29 v.toNat = false ∨ s.hobsOfPort port.val = []) →
     ∃ t, exec (.registerWrite who (.lnpPortCtl port v)) s = .next t ∧ s.acted t who 0x0105 0 ∧ t = { s with lnps := t.lnps, log := t.log, logSeq := t.logSeq, out := t.out } ∧
       t.lnp port.val = { s.lnp port.val with
         transit := bit 29 v.toNat, expDev := BitVec.ofNat 13 (bits 28 16 v.toNat), expV := bit 15 v.toNat } ∧
       (∀ p, p ≠ port.val → t.lnp p = s.lnp p)) ∧
  (∀ (who : Who) (port : LnpId) (v : W32) (s : State),
     s.mayAct who [.installer] = true →
     bit 29 v.toNat = true →
     s.hobsOfPort port.val ≠ [] →
     ∃ t, exec (.registerWrite who (.lnpPortCtl port v)) s = .next t ∧ s.acted t who 0x0105 4 ∧
       t = { s with
         log := t.log, logSeq := t.logSeq, out := t.out }) ∧
  (∀ (who : Who) (v : W64) (s : State),
     s.mayAct who [.installer] = true →
     ∃ t, exec (.registerWrite who (.lnpIdent v)) s = .next t ∧ s.acted t who 0x0105 0 ∧
       t = { s with
         hearth := { s.hearth with sysTag := BitVec.ofNat 48 (bits 63 16 v.toNat), devId := BitVec.ofNat 13 (bits 12 0 v.toNat) }, log := t.log, logSeq := t.logSeq, out := t.out }) ∧
  (∀ (who : Who) (v : W32) (s : State),
     s.mayAct who [.installer] = true →
     2 ≤ bits 31 22 v.toNat →
     bits 31 22 v.toNat ≤ 1000 →
     ∃ t, exec (.registerWrite who (.lnpCfg v)) s = .next t ∧ s.acted t who 0x0105 0 ∧
       t = { s with
         hearth := { s.hearth with rtmo := BitVec.ofNat 10 (bits 31 22 v.toNat) }, log := t.log, logSeq := t.logSeq, out := t.out }) ∧
  (∀ (who : Who) (v : W32) (s : State),
     s.mayAct who [.installer] = true →
     (bits 31 22 v.toNat < 2 ∨ 1000 < bits 31 22 v.toNat) →
     ∃ t, exec (.registerWrite who (.lnpCfg v)) s = .next t ∧ s.acted t who 0x0105 2 ∧
       t = { s with
         log := t.log, logSeq := t.logSeq, out := t.out }) ∧
  (∀ (who : Who) (dest : BitVec 13) (v : Byte) (s : State),
     s.mayAct who [.installer] = true →
     (bit 7 v.toNat = false ∨ (s.lnp (bits 3 0 v.toNat)).parked = false) →
     ∃ t, exec (.registerWrite who (.lnpRoute dest v)) s = .next t ∧ s.acted t who 0x0105 0 ∧
       t = { s with
         hearth := { s.hearth with routes := s.hearth.routes.put none dest.toNat (if bit 7 v.toNat then some (BitVec.ofNat 4 (bits 3 0 v.toNat)) else none), routeIdle := s.hearth.routeIdle.put 0 dest.toNat (if bit 7 v.toNat then 0 else BitVec.ofNat 4 (bits 3 0 v.toNat)) }, log := t.log, logSeq := t.logSeq, out := t.out }) ∧
  (∀ (who : Who) (dest : BitVec 13) (v : Byte) (s : State),
     s.mayAct who [.installer] = true →
     bit 7 v.toNat = true →
     (s.lnp (bits 3 0 v.toNat)).parked = true →
     (s.lnp (bits 3 0 v.toNat)).fenced = false →
     (s.lnp (bits 3 0 v.toNat)).resetting = false →
     ∃ t, exec (.registerWrite who (.lnpRoute dest v)) s = .next t ∧ s.acted t who 0x0105 0 ∧
       t = { s with hearth := t.hearth, lnps := t.lnps, log := t.log, logSeq := t.logSeq, out := t.out } ∧
       t.hearth.routes.get none dest.toNat = some (BitVec.ofNat 4 (bits 3 0 v.toNat)) ∧
       t.lnp (bits 3 0 v.toNat) = { s.lnp (bits 3 0 v.toNat) with parked := false, relighting := true, st := .training, since := s.now } ∧
       (∀ p, p ≠ bits 3 0 v.toNat → t.lnp p = s.lnp p)) ∧
  (∀ (who : Who) (hob : HobId) (v : W64) (s : State),
     s.mayAct who [.installer] = true →
     ((∀ n ∈ [15, 31, 47, 63], v.getLsbD n = false)) →
     ∃ t, exec (.registerWrite who (.lnpJarAcl hob v)) s = .next t ∧ s.acted t who 0x0105 0 ∧ t = { s with hobs := t.hobs, log := t.log, logSeq := t.logSeq, out := t.out } ∧
       t.hob hob.val = { s.hob hob.val with jarAcl := v &&& 0x1FFF1FFF1FFF1FFF } ∧ (∀ h, h ≠ hob.val → t.hob h = s.hob h)) ∧
  (∀ (who : Who) (hob : HobId) (v : W64) (s : State),
     s.mayAct who [.installer] = true →
     s.hearth.peerJars = true →
     ∃ t, exec (.registerWrite who (.lnpJarAcl hob v)) s = .next t ∧ s.acted t who 0x0105 0 ∧ t = { s with hobs := t.hobs, log := t.log, logSeq := t.logSeq, out := t.out } ∧
       t.hob hob.val = { s.hob hob.val with jarAcl := v &&& 0x9FFF9FFF9FFF9FFF } ∧ (∀ h, h ≠ hob.val → t.hob h = s.hob h)) ∧
  (∀ (who : Who) (v : W32) (s : State),
     s.mayAct who [.installer] = true →
     2 ≤ bits 29 23 v.toNat →
     bits 29 23 v.toNat ≤ 72 →
     12 ≤ bits 22 13 v.toNat →
     bits 22 13 v.toNat ≤ 720 →
     ∃ t, exec (.registerWrite who (.hrtTasteCfg v)) s = .next t ∧ s.acted t who 0x0108 0 ∧
       t = { s with
         cfgs := { s.cfgs with tstEn := bit 31 v.toNat, tstHours := BitVec.ofNat 7 (bits 29 23 v.toNat), tstAlert := BitVec.ofNat 10 (bits 22 13 v.toNat) }, log := t.log, logSeq := t.logSeq, out := t.out }) ∧
  (∀ (who : Who) (v : W32) (s : State),
     s.mayAct who [.installer] = true →
     (bits 29 23 v.toNat < 2 ∨ 72 < bits 29 23 v.toNat ∨ bits 22 13 v.toNat < 12 ∨ 720 < bits 22 13 v.toNat) →
     ∃ t, exec (.registerWrite who (.hrtTasteCfg v)) s = .next t ∧ s.acted t who 0x0108 2 ∧
       t = { s with
         log := t.log, logSeq := t.logSeq, out := t.out }) ∧
  (∀ (who : Who) (v : W32) (s : State),
     s.mayAct who [.installer] = true →
     2 ≤ bits 31 28 v.toNat →
     bits 31 28 v.toNat ≤ 8 →
     1 ≤ bits 27 21 v.toNat →
     bits 27 21 v.toNat ≤ 72 →
     ∃ t, exec (.registerWrite who (.hrtRstCfg v)) s = .next t ∧ s.acted t who 0x0106 0 ∧
       t = { s with
         resets := { s.resets with wcount := BitVec.ofNat 4 (bits 31 28 v.toNat), whours := BitVec.ofNat 7 (bits 27 21 v.toNat) }, log := t.log, logSeq := t.logSeq, out := t.out }) ∧
  (∀ (who : Who) (v : W32) (s : State),
     s.mayAct who [.installer] = true →
     (bits 31 28 v.toNat < 2 ∨ 8 < bits 31 28 v.toNat ∨ bits 27 21 v.toNat < 1 ∨ 72 < bits 27 21 v.toNat) →
     ∃ t, exec (.registerWrite who (.hrtRstCfg v)) s = .next t ∧ s.acted t who 0x0106 2 ∧
       t = { s with
         log := t.log, logSeq := t.logSeq, out := t.out }) ∧
  (∀ (who : Who) (v : W32) (s : State),
     s.mayAct who [.installer] = true →
     10 ≤ bits 29 16 v.toNat →
     ∃ t, exec (.registerWrite who (.hrtIdleCfg v)) s = .next t ∧ s.acted t who 0x0108 0 ∧
       t = { s with
         cfgs := { s.cfgs with idlDwell := BitVec.ofNat 14 (bits 29 16 v.toNat) }, log := t.log, logSeq := t.logSeq, out := t.out }) ∧
  (∀ (who : Who) (v : W32) (s : State),
     s.mayAct who [.installer] = true →
     bits 29 16 v.toNat < 10 →
     ∃ t, exec (.registerWrite who (.hrtIdleCfg v)) s = .next t ∧ s.acted t who 0x0108 2 ∧
       t = { s with
         log := t.log, logSeq := t.logSeq, out := t.out }) ∧
  (∀ (who : Who) (hob : HobId) (v : W32) (s : State),
     s.mayAct who [.installer] = true →
     (1 < bits 31 30 v.toNat ∨ bits 29 24 v.toNat < 10 ∨ 60 < bits 29 24 v.toNat ∨ bits 23 16 v.toNat < 1) →
     ∃ t, exec (.registerWrite who (.pntJarPolicy hob v)) s = .next t ∧ s.acted t who 0x0109 2 ∧
       t = { s with
         log := t.log, logSeq := t.logSeq, out := t.out }) ∧
  (∀ (who : Who) (hob : HobId) (v : W32) (s : State),
     s.mayAct who [.installer] = true →
     bits 31 30 v.toNat ≤ 1 →
     10 ≤ bits 29 24 v.toNat →
     bits 29 24 v.toNat ≤ 60 →
     1 ≤ bits 23 16 v.toNat →
     ∃ t, exec (.registerWrite who (.pntJarPolicy hob v)) s = .next t ∧ s.acted t who 0x0109 0 ∧ t = { s with hobs := t.hobs, log := t.log, logSeq := t.logSeq, out := t.out } ∧
       t.hob hob.val = { s.hob hob.val with policy := { (s.hob hob.val).policy with
         kind := BitVec.ofNat 2 (bits 31 30 v.toNat), ceil := BitVec.ofNat 6 (bits 29 24 v.toNat), theta := BitVec.ofNat 8 (bits 23 16 v.toNat) } } ∧
       (∀ h, h ≠ hob.val → t.hob h = s.hob h))

/-- With the hearth in service and no finished session of the sender under a role that R372 gives the action: every installer
action, maker action and reset command, and with the firmware running every update command, completes with nothing changed
but the log and what was sent, and with the log writable the log holds its refusal with result 1. The log and the ash are
read out to nobody. -/
def Obligations.PrivilegedActionsNeedTheirRole : Prop :=
  (∀ (who : Who) (dest : BitVec 13) (b : Byte) (port : LnpId) (on : Bool) (hob : HobId) (grant : Grant) (cred : Nat) (stack : StackId) (bw : BitVec 5) (v : W32) (w : W64)
     (start len i : Nat) (lic : Licence) (sigOk serialOk : Bool) (s : State) (c : Instr),
     s.st ≠ .off →
     s.resets.hearthDown = false →
     s.authorised who [.installer] = false →
     c ∈ [.lnpEn who port on, .lnpPark who port on, .hrtIdlEn who on, .grantSet who hob grant, .credentialSet who hob cred, .rsvWindowSet who hob stack on bw, .powerLimitSet who v, .maintWindowDeclare who start len on, .licenceInstall who lic sigOk serialOk, .licenceRemove who i, .registerWrite who (.lnpIdent w), .registerWrite who (.lnpCfg v), .registerWrite who (.hrtTasteCfg v), .registerWrite who (.hrtRstCfg v), .registerWrite who (.hrtIdleCfg v), .registerWrite who (.pntJarPolicy hob v), .registerWrite who (.lnpJarAcl hob w), .registerWrite who (.lnpPortCtl port v), .registerWrite who (.lnpRoute dest b)] →
     ∃ t, exec c s = .next t ∧ t = { s with log := t.log, logSeq := t.logSeq, out := t.out } ∧
       (s.logFail = false → ∃ r ∈ t.log, r.seq = s.logSeq ∧ r.result = 1 ∧ r.path = who.path)) ∧
  (∀ (who : Who) (nonce version lifeMs : Nat) (permits : BitVec 16) (bad : List Pos) (cell : Pos) (keys : List Nat) (sigOk serialOk : Bool) (s : State) (c : Instr),
     s.st ≠ .off →
     s.resets.hearthDown = false →
     s.authorised who [.maker] = false →
     c ∈ [.makerTokenUse who ⟨nonce, permits, lifeMs⟩ sigOk serialOk, .fuseMapWrite who nonce bad sigOk, .testContentInstall who nonce version sigOk, .cellOverride who nonce cell, .trustListChange who nonce keys] →
     ∃ t, exec c s = .next t ∧ t = { s with log := t.log, logSeq := t.logSeq, out := t.out } ∧
       (s.logFail = false → ∃ r ∈ t.log, r.seq = s.logSeq ∧ r.result = 1 ∧ r.path = who.path)) ∧
  (∀ (who : Who) (arg : BitVec 28) (i : Fin 16) (v : BitVec 128) (w : W32) (s : State) (c : Instr),
     s.st ≠ .off →
     s.resets.hearthDown = false →
     s.authorised who [.installer, .maker] = false →
     c ∈ [.rstCmdWarm who, .rstCmdCold who, .rstCmdRestore who, .rstCmdAsh who, .rstCmdLockAsh who arg, .rstCmdReleaseAsh who, .perturbSet who i v, .registerWrite who (.hrtRstCmd w)] →
     ∃ t, exec c s = .next t ∧ t = { s with log := t.log, logSeq := t.logSeq, out := t.out } ∧
       (s.logFail = false → ∃ r ∈ t.log, r.seq = s.logSeq ∧ r.result = 1 ∧ r.path = who.path)) ∧
  (∀ (who : Who) (comps : List Nat) (comp size : Nat) (svn : BitVec 8) (s : State) (c : Instr),
     s.st ≠ .off →
     s.resets.hearthDown = false →
     s.authorised who [.installer] = false →
     s.fw.recovery = false →
     c ∈ [.fwConfirm who, .fwRevert who, .passComponentTable who comps, .updateComponent who comp size svn, .activateFirmware who, .cancelUpdateComponent who, .cancelUpdate who] →
     ∃ t, exec c s = .next t ∧ t = { s with log := t.log, logSeq := t.logSeq, out := t.out } ∧
       (s.logFail = false → ∃ r ∈ t.log, r.seq = s.logSeq ∧ r.result = 1 ∧ r.path = who.path)) ∧
  (∀ (who : Who) (seq : Nat) (s : State),
     s.authorised who [.installer, .maker] = false →
     ∃ t, exec (.logReadout who) s = .next t ∧ t = s ∧ exec (.ashReadout who seq) s = .next s)

/-- On every state, a command that is not listed leaves every byte of stack memory; the lists are the power and reset events and
their commands, stack writes, copies, drains, restores and zeroing, and the hob and installer actions that free or erase
memory. Likewise only session commands, power loss and hearth resets change SPDM sessions; only firmware commands, power
loss and hearth starts change firmware slots; and only PMBus commands and power loss change the PMBus registers. -/
def Obligations.CommandsLeaveWhatIsNotTheirs : Prop :=
  (∀ (c : Instr) (s : State),
     match c with
       | .powerGoodDeassert | .vinFault .. | .clocksUp .. | .memoriesUp .. | .thermalTrip .. | .tripRestart
       | .windowQuiesceEnd .. | .stackWriteRequest .. | .pageDrainDone .. | .zeroiseDone .. | .stackCtrlReset ..
       | .jarRestoreDone .. | .hobConfigMemory .. | .hobRelease .. | .cellHeartbeatMiss .. | .cellRequestTimeout ..
       | .broadcastUnacked .. | .quarterHoldUnconfirmed .. | .stackCtrlHang .. | .lanperEngineHang .. | .hostPortHang ..
       | .hobStopTimeout .. | .rimTokenLoss | .resetTimeout .. | .cellReset .. | .rackReset .. | .lnpPortReset ..
       | .hostPortReset .. | .quarterReset .. | .hobReset .. | .warmReset .. | .coldReset .. | .hearthResetDone
       | .ashCaptureDone .. | .rstCmdWarm .. | .rstCmdCold .. | .rstCmdRestore .. | .rstCmdAsh .. | .rstCmdLockAsh ..
       | .rstCmdReleaseAsh .. | .takeOwnership .. | .grantSet .. | .credentialSet .. | .registerWrite .. | .copyDone .. => True
       | _ => ∃ t, exec c s = .next t ∧ t.mem = s.mem) ∧
  (∀ (c : Instr) (s : State),
     match c with
       | .powerGoodDeassert | .vinFault .. | .hearthLockstepMismatch | .hearthWatchdogExpiry | .hearthReset | .fwRevert ..
       | .activateFirmware .. | .keyExchange .. | .finish .. | .keyUpdate .. | .heartbeat .. | .endSession .. => True
       | _ => ∃ t, exec c s = .next t ∧ t.sessions = s.sessions) ∧
  (∀ (c : Instr) (s : State),
     match c with
       | .powerGoodDeassert | .vinFault .. | .hearthBootDone .. | .clocksUp .. | .cellsTested .. | .hearthLockstepMismatch
       | .hearthWatchdogExpiry | .hearthReset | .hearthResetDone | .fwConfirm .. | .fwRevert .. | .fwGoodTimer
       | .requestUpdate .. | .passComponentTable .. | .updateComponent .. | .firmwareData .. | .verifyComplete ..
       | .activateFirmware .. | .activateTimeout | .cancelUpdateComponent .. | .cancelUpdate .. | .applyComplete => True
       | _ => ∃ t, exec c s = .next t ∧ t.fw = s.fw) ∧
  (∀ (c : Instr) (s : State),
     match c with
       | .powerGoodDeassert | .vinFault .. | .page .. | .clearFaults | .pmbusRefresh => True
       | _ => ∃ t, exec c s = .next t ∧ t.pmbus = s.pmbus)

/-- At reset every rack is unshifted, with its gap at 8. If every rack's gap is at most 8 and a step answers a next state, every
rack's gap is at most 8 in that state. On every state, logical cell x = 8k + i of a row sits at physical column 9k + i when
i is below the gap of rack (py, k) and at 9k + i + 1 otherwise, in the same row, and the gap position itself is column 9k +
g. -/
def Obligations.RacksHoldTheirGaps : Prop :=
  (∀ (r : Rack),
     (State.reset.rack r.idx).gap = 8) ∧
  (∀ (s t : State),
     ((∀ i : Nat, (s.rack i).gap.toNat ≤ 8)) →
     step s = .next t →
     ∀ i : Nat, (t.rack i).gap.toNat ≤ 8) ∧
  (∀ (s : State) (r : Rack) (i : Fin 8),
     (s.homeOf (8 * r.k.val + i.val) r.row.val).py = r.row ∧
     (i.val < (s.rack r.idx).gap.toNat → (s.homeOf (8 * r.k.val + i.val) r.row.val).px.val = 9 * r.k.val + i.val) ∧
     ((s.rack r.idx).gap.toNat ≤ i.val → (s.homeOf (8 * r.k.val + i.val) r.row.val).px.val = 9 * r.k.val + i.val + 1)) ∧
  (∀ (s : State) (r : Rack),
     (s.rack r.idx).gap.toNat ≤ 8 →
     s.gapPos r = r.row.val * 108 + 9 * r.k.val + (s.rack r.idx).gap.toNat)

/-- With the hearth in service, Set Endpoint ID and every other MCTP control message, GET_VERSION, GET_CAPABILITIES,
NEGOTIATE_ALGORITHMS, GET_DIGESTS, GET_CERTIFICATE, CHALLENGE, GET_MEASUREMENTS, QueryDeviceIdentifiers,
GetFirmwareParameters and GetStatus are each answered, and what they answer and do is the same under every table of
sessions. -/
def Obligations.NoCredentialIsNeededToAsk : Prop :=
  ∀ (b : Fin 5) (eid cmd : Byte) (e1 e2 e3 e4 : Bool) (slot off len nonce i : Nat) (x : Tab Session) (s : State) (c : Instr),
    s.spdmUp = true →
    c ∈ [.setEndpointId b eid, .mctpControl cmd, .getVersion, .getCapabilities, .negotiateAlgorithms e1 e2 e3 e4, .getDigests,
      .getCertificate slot off len, .challenge nonce, .getMeasurements i, .queryDeviceIdentifiers, .getFirmwareParameters, .getStatus] →
    ∃ t, exec c s = .next t ∧ s.out.length < t.out.length ∧ exec c { s with sessions := x } = .next { t with sessions := x }

/-- Entry to SERVICE or DEGRADED at the end of any bring-up, cold or warm, puts the cap in force until 60 s later with
HRT_DMP_WHY 5. While the cap is in force the limit that the damper holds input power to is 85 % of HRT_DMP_PLIM and the
reason it reports is 5: its tick with input power above that lowers MCLK by 25 MHz to no less than 800 and reports 5, and a
droop reports 5. The cap is not lifted before its 60 s are over, and then it is, and the limit is HRT_DMP_PLIM again. -/
def Obligations.TheFirstMinuteIsCapped : Prop :=
  (∀ (s : State),
     s.inStage 6 = true →
     ∃ t, exec .handover s = .next t ∧ (t.st = .service ∨ t.st = .degraded) ∧ t.now = s.now ∧ t.damper.cap = true ∧
       t.damper.capUntil = s.now + 60000000000 ∧ t.damper.why = 5 ∧ t.damper.plim = s.damper.plim) ∧
  (∀ (d : Damper) (now : Nat),
     d.cap = true →
     d.limit = 85 * d.plim.toNat / 100 ∧ d.reason now = 5) ∧
  (∀ (s : State),
     s.damper.cap = true →
     s.now < s.damper.capUntil →
     exec .powerCapLift s = .next s) ∧
  (∀ (s : State),
     s.damper.cap = true →
     s.damper.capUntil ≤ s.now →
     ∃ t, exec .powerCapLift s = .next t ∧ t.damper.cap = false ∧ t.damper.plim = s.damper.plim ∧ t.damper.limit = s.damper.plim.toNat) ∧
  (∀ (s : State),
     s.damper.cap = true →
     s.damper.mclk ≠ 0 →
     s.resets.hearthDown = false →
     85 * s.damper.plim.toNat / 100 < s.damper.pin.toNat →
     ∃ t, exec .damperTick s = .next t ∧ t.damper.cap = true ∧ t.damper.capUntil = s.damper.capUntil ∧ t.damper.why = 5 ∧
       t.damper.mclk = BitVec.ofNat 11 (max 800 (s.damper.mclk.toNat - 25))) ∧
  (∀ (q : Quarter) (s : State),
     s.damper.cap = true →
     s.damper.mclk ≠ 0 →
     ∃ t, exec (.droop q) s = .next t ∧ t.damper.why = 5 ∧ t.damper.cap = true ∧ t.damper.capUntil = s.damper.capUntil)

/-- In a static-mode issue, a read field that its cell resolves to an empty circular region returns poisoned data to its unit,
sets the region's underrun flag, raises SLOT_UNDERRUN, and its advance leaves the cell, the head with it, as it is. A write
field resolved to a full region writes nothing: the scratchpad and every other part of the cell are as they were but for the
region's overrun flag, SLOT_OVERRUN is raised, and its advance leaves the cell, the tail with it, as it is. -/
def Obligations.EmptyAndFullRegionsKeepTheirPointers : Prop :=
  (∀ (env : IssueEnv) (c d : Cell) (clash : Nat → Bool) (n : Nat) (a : Acc) (x : Issue),
     a.cr = true →
     a.wr = false →
     ((c.slot a.slot).region (bits 13 10 a.off)).isEmpty = true →
     (Issue.read env c clash x (c.reach n a)).raised = x.raised ++ [stUnderrun] ∧
     (∃ v ∈ (Issue.read env c clash x (c.reach n a)).cell.units.arrivals,
       v.issued = env.cyc ∧ v.unit = a.unit ∧ v.slot = a.slot ∧ v.gran.poison = 0xF) ∧
     (((Issue.read env c clash x (c.reach n a)).cell.slot a.slot).region (bits 13 10 a.off)) =
       { ((x.cell.slot a.slot).region (bits 13 10 a.off)) with underrun := true } ∧
     (Issue.read env c clash x (c.reach n a)).cell.scratch = x.cell.scratch ∧
     d.advance [c.reach n a] = d) ∧
  (∀ (env : IssueEnv) (c d : Cell) (inbound : Option Flit) (q n : Nat) (a : Acc) (x : Issue),
     a.cr = true →
     a.wr = true →
     ((c.slot a.slot).region (bits 13 10 a.off)).isFull = true →
     (Issue.write env inbound q x (c.reach n a)).raised = x.raised ++ [stOverrun] ∧
     (Issue.write env inbound q x (c.reach n a)).cell =
       x.cell.modRegion a.slot (bits 13 10 a.off) (fun y => { y with overrun := true }) ∧
     (((Issue.write env inbound q x (c.reach n a)).cell.slot a.slot).region (bits 13 10 a.off)) =
       { ((x.cell.slot a.slot).region (bits 13 10 a.off)) with overrun := true } ∧
     (Issue.write env inbound q x (c.reach n a)).cell.scratch = x.cell.scratch ∧
     d.advance [c.reach n a] = d)

end
end

