-- ==== Sys2Proof/Laws/Tab.lean ====
section
/-! SUPPORT. Laws of tables: a read after a write, and the canonical form that every write keeps. -/

namespace Sys2Proof.Machine

variable {α : Type}

theorem Tab.get_erase (d : α) (t : Tab α) (i j : Nat) : (t.erase i).get d j = if j = i then d else t.get d j := by
  induction t with
  | nil => simp [Tab.erase, Tab.get]
  | cons e t ih =>
    obtain ⟨k, v⟩ := e
    by_cases h : k = i <;> simp only [Tab.erase, h, if_true, if_false, Tab.get, ih] <;> grind

theorem Tab.get_ins (d : α) (t : Tab α) (i j : Nat) (v : α) (h : ∀ e ∈ t, e.1 ≠ i) :
    (t.ins i v).get d j = if j = i then v else t.get d j := by
  induction t with
  | nil => simp only [Tab.ins, Tab.get]; grind
  | cons e t ih =>
    obtain ⟨k, w⟩ := e
    have hk : k ≠ i := h _ (List.mem_cons_self ..)
    have ht := ih fun e he => h e (List.mem_cons_of_mem _ he)
    by_cases hl : i < k <;> simp only [Tab.ins, hl, if_true, if_false, Tab.get, ht] <;> grind

theorem Tab.erase_mem (t : Tab α) (i : Nat) (e : Nat × α) : e ∈ t.erase i ↔ e ∈ t ∧ e.1 ≠ i := by
  induction t with
  | nil => simp [Tab.erase]
  | cons x t ih =>
    obtain ⟨k, v⟩ := x
    by_cases h : k = i <;> simp only [Tab.erase, h, if_true, if_false, List.mem_cons, ih] <;> grind

theorem Tab.ins_mem (t : Tab α) (i : Nat) (v : α) (e : Nat × α) : e ∈ t.ins i v ↔ e = (i, v) ∨ e ∈ t := by
  induction t with
  | nil => simp [Tab.ins]
  | cons x t ih =>
    obtain ⟨k, w⟩ := x
    by_cases h : i < k
    · simp [Tab.ins, h]
    · simp only [Tab.ins, h, if_false, List.mem_cons, ih]; grind

theorem Tab.erase_eq_filter (t : Tab α) (i : Nat) : t.erase i = List.filter (fun e => decide (e.1 ≠ i)) t := by
  induction t with
  | nil => rfl
  | cons x t ih =>
    obtain ⟨k, v⟩ := x
    by_cases h : k = i
    · simp [Tab.erase, h, ih]
    · simp [Tab.erase, h, ih]

theorem Tab.ins_pairwise (t : Tab α) (i : Nat) (v : α) (h : ∀ e ∈ t, e.1 ≠ i) (hp : t.Pairwise fun a b => a.1 < b.1) :
    (t.ins i v).Pairwise fun a b => a.1 < b.1 := by
  induction t with
  | nil => simp [Tab.ins]
  | cons x t ih =>
    obtain ⟨k, w⟩ := x
    rw [List.pairwise_cons] at hp
    have hk : k ≠ i := h _ (List.mem_cons_self ..)
    by_cases hl : i < k
    · simp only [Tab.ins, hl, if_true, List.pairwise_cons]
      refine ⟨fun e he => ?_, hp.1, hp.2⟩
      rcases List.mem_cons.mp he with rfl | he
      · exact hl
      · exact Nat.lt_trans hl (hp.1 e he)
    · simp only [Tab.ins, hl, if_false, List.pairwise_cons]
      refine ⟨fun e he => ?_, ih (fun e he => h e (List.mem_cons_of_mem _ he)) hp.2⟩
      rcases (Tab.ins_mem t i v e).mp he with rfl | he
      · exact Nat.lt_of_le_of_ne (Nat.le_of_not_lt hl) hk
      · exact hp.1 e he

variable [DecidableEq α]

/-- A read after a write: the value written at its own key, and what was there at every other. -/
@[simp] theorem Tab.get_put (d : α) (t : Tab α) (i j : Nat) (v : α) :
    (t.put d i v).get d j = if j = i then v else t.get d j := by
  unfold Tab.put
  by_cases h : v = d
  · simp only [h, if_true, Tab.get_erase]
  · simp only [h, if_false]
    rw [Tab.get_ins d _ i j v fun e he => ((t.erase_mem i e).mp he).2, Tab.get_erase]
    grind

@[simp] theorem Tab.get_upd (d : α) (t : Tab α) (i j : Nat) (f : α → α) :
    (t.upd d i f).get d j = if j = i then f (t.get d i) else t.get d j := by simp [Tab.upd]

/-- The canonical form, said of the members. -/
theorem Tab.wf_iff (d : α) (t : Tab α) : t.wf d = true ↔ t.Pairwise (fun a b => a.1 < b.1) ∧ ∀ e ∈ t, e.2 ≠ d := by
  induction t with
  | nil => simp [Tab.wf]
  | cons e t ih =>
    obtain ⟨k, v⟩ := e
    cases t with
    | nil => simp [Tab.wf]
    | cons f t =>
      obtain ⟨k', v'⟩ := f
      rw [List.pairwise_cons, List.pairwise_cons] at *
      simp only [Tab.wf, Bool.and_eq_true, decide_eq_true_eq, ih, List.mem_cons]
      constructor
      · rintro ⟨⟨hk, hv⟩, ⟨hp, hq⟩, hd⟩
        refine ⟨⟨?_, hp, hq⟩, ?_⟩
        · rintro a (rfl | ha)
          · exact hk
          · exact Nat.lt_trans hk (hp a ha)
        · rintro e (rfl | he)
          · exact hv
          · exact hd e he
      · rintro ⟨⟨hk, hp, hq⟩, hd⟩
        exact ⟨⟨hk _ (Or.inl rfl), hd _ (Or.inl rfl)⟩, ⟨hp, hq⟩, fun e he => hd e (Or.inr he)⟩

/-- Dropping entries keeps the canonical form. -/
theorem Tab.filter_wf (d : α) (t : Tab α) (p : Nat × α → Bool) (h : t.wf d = true) : Tab.wf d (List.filter p t) = true := by
  rw [Tab.wf_iff] at *
  exact ⟨h.1.filter _, fun e he => h.2 e (List.mem_filter.mp he).1⟩

/-- Every write keeps the canonical form. -/
theorem Tab.put_wf (d : α) (t : Tab α) (i : Nat) (v : α) (h : t.wf d = true) : (t.put d i v).wf d = true := by
  have he : (t.erase i).wf d = true := by rw [Tab.erase_eq_filter]; exact Tab.filter_wf d t _ h
  unfold Tab.put
  by_cases hv : v = d
  · simpa only [hv, if_true] using he
  · simp only [hv, if_false]
    rw [Tab.wf_iff] at he ⊢
    refine ⟨Tab.ins_pairwise _ i v (fun e hm => ((t.erase_mem i e).mp hm).2) he.1, fun e hm => ?_⟩
    rcases (Tab.ins_mem _ i v e).mp hm with rfl | hm
    · exact hv
    · exact he.2 e hm

end Sys2Proof.Machine
end

