-- ==== Sys2Proof/Laws/State.lean ====
section
/-! SUPPORT. Field laws of the state: what each update of an indexed part reads back as, and that it leaves every other field
as it was. One theorem per update; the simplifier takes each clause as a rule of its own. -/

namespace Sys2Proof.Machine

variable (s : State)

@[simp] theorem State.setHob_frame (i : Nat) (v : Hob) :
    (s.setHob i v).pending = s.pending ∧ (s.setHob i v).st = s.st ∧ (s.setHob i v).now = s.now ∧
    (s.setHob i v).life = s.life ∧ (s.setHob i v).boot = s.boot ∧ (s.setHob i v).resets = s.resets ∧
    (s.setHob i v).damper = s.damper ∧ (s.setHob i v).sensors = s.sensors ∧ (s.setHob i v).pins = s.pins ∧
    (s.setHob i v).avl = s.avl ∧ (s.setHob i v).cfgs = s.cfgs ∧ (s.setHob i v).expel = s.expel ∧
    (s.setHob i v).perturbs = s.perturbs ∧ (s.setHob i v).cells = s.cells ∧ (s.setHob i v).routers = s.routers ∧
    (s.setHob i v).health = s.health ∧ (s.setHob i v).racks = s.racks ∧ (s.setHob i v).stk = s.stk ∧
    (s.setHob i v).mem = s.mem ∧ (s.setHob i v).lines = s.lines ∧ (s.setHob i v).rdrs = s.rdrs ∧
    (s.setHob i v).rdrs6 = s.rdrs6 ∧ (s.setHob i v).errs = s.errs ∧ (s.setHob i v).edgeIn = s.edgeIn ∧ (s.setHob i v).rimIn = s.rimIn ∧
    (s.setHob i v).txns = s.txns ∧ (s.setHob i v).hosts = s.hosts ∧ (s.setHob i v).lnps = s.lnps ∧
    (s.setHob i v).hearth = s.hearth ∧ (s.setHob i v).fw = s.fw ∧ (s.setHob i v).pmbus = s.pmbus ∧
    (s.setHob i v).sessions = s.sessions ∧ (s.setHob i v).log = s.log ∧ (s.setHob i v).logSeq = s.logSeq ∧
    (s.setHob i v).logFail = s.logFail ∧ (s.setHob i v).ashes = s.ashes ∧ (s.setHob i v).ashRun = s.ashRun ∧
    (s.setHob i v).ashSeq = s.ashSeq ∧ (s.setHob i v).places = s.places ∧ (s.setHob i v).places6 = s.places6 ∧ (s.setHob i v).pantry = s.pantry ∧
    (s.setHob i v).broadcasts = s.broadcasts ∧ (s.setHob i v).bcastSeq = s.bcastSeq ∧ (s.setHob i v).out = s.out ∧
    (s.setHob i v).free = s.free := by
  and_intros <;> rfl

@[simp] theorem State.hob_setHob (i j : Nat) (v : Hob) : (s.setHob i v).hob j = if j = i then v else s.hob j :=
  Tab.get_put _ _ _ _ _

@[simp] theorem State.modHob_frame (i : Nat) (f : Hob → Hob) :
    (s.modHob i f).pending = s.pending ∧ (s.modHob i f).st = s.st ∧ (s.modHob i f).now = s.now ∧
    (s.modHob i f).life = s.life ∧ (s.modHob i f).boot = s.boot ∧ (s.modHob i f).resets = s.resets ∧
    (s.modHob i f).damper = s.damper ∧ (s.modHob i f).sensors = s.sensors ∧ (s.modHob i f).pins = s.pins ∧
    (s.modHob i f).avl = s.avl ∧ (s.modHob i f).cfgs = s.cfgs ∧ (s.modHob i f).expel = s.expel ∧
    (s.modHob i f).perturbs = s.perturbs ∧ (s.modHob i f).cells = s.cells ∧ (s.modHob i f).routers = s.routers ∧
    (s.modHob i f).health = s.health ∧ (s.modHob i f).racks = s.racks ∧ (s.modHob i f).stk = s.stk ∧
    (s.modHob i f).mem = s.mem ∧ (s.modHob i f).lines = s.lines ∧ (s.modHob i f).rdrs = s.rdrs ∧
    (s.modHob i f).rdrs6 = s.rdrs6 ∧ (s.modHob i f).errs = s.errs ∧ (s.modHob i f).edgeIn = s.edgeIn ∧ (s.modHob i f).rimIn = s.rimIn ∧
    (s.modHob i f).txns = s.txns ∧ (s.modHob i f).hosts = s.hosts ∧ (s.modHob i f).lnps = s.lnps ∧
    (s.modHob i f).hearth = s.hearth ∧ (s.modHob i f).fw = s.fw ∧ (s.modHob i f).pmbus = s.pmbus ∧
    (s.modHob i f).sessions = s.sessions ∧ (s.modHob i f).log = s.log ∧ (s.modHob i f).logSeq = s.logSeq ∧
    (s.modHob i f).logFail = s.logFail ∧ (s.modHob i f).ashes = s.ashes ∧ (s.modHob i f).ashRun = s.ashRun ∧
    (s.modHob i f).ashSeq = s.ashSeq ∧ (s.modHob i f).places = s.places ∧ (s.modHob i f).places6 = s.places6 ∧ (s.modHob i f).pantry = s.pantry ∧
    (s.modHob i f).broadcasts = s.broadcasts ∧ (s.modHob i f).bcastSeq = s.bcastSeq ∧ (s.modHob i f).out = s.out ∧
    (s.modHob i f).free = s.free := by
  and_intros <;> rfl

@[simp] theorem State.hob_modHob (i j : Nat) (f : Hob → Hob) :
    (s.modHob i f).hob j = if j = i then f (s.hob i) else s.hob j := Tab.get_put _ _ _ _ _

@[simp] theorem State.setHob_others (i j : Nat) (v : Hob) :
    (s.setHob i v).cell j = s.cell j ∧ (s.setHob i v).router j = s.router j ∧ (s.setHob i v).pos j = s.pos j ∧
    (s.setHob i v).rack j = s.rack j ∧ (s.setHob i v).stack j = s.stack j ∧ (s.setHob i v).host j = s.host j ∧
    (s.setHob i v).lnp j = s.lnp j := by
  and_intros <;> rfl

@[simp] theorem State.modHob_others (i j : Nat) (f : Hob → Hob) :
    (s.modHob i f).cell j = s.cell j ∧ (s.modHob i f).router j = s.router j ∧ (s.modHob i f).pos j = s.pos j ∧
    (s.modHob i f).rack j = s.rack j ∧ (s.modHob i f).stack j = s.stack j ∧ (s.modHob i f).host j = s.host j ∧
    (s.modHob i f).lnp j = s.lnp j := by
  and_intros <;> rfl

@[simp] theorem State.setCell_frame (i : Nat) (v : Cell) :
    (s.setCell i v).pending = s.pending ∧ (s.setCell i v).st = s.st ∧ (s.setCell i v).now = s.now ∧
    (s.setCell i v).life = s.life ∧ (s.setCell i v).boot = s.boot ∧ (s.setCell i v).resets = s.resets ∧
    (s.setCell i v).damper = s.damper ∧ (s.setCell i v).sensors = s.sensors ∧ (s.setCell i v).pins = s.pins ∧
    (s.setCell i v).avl = s.avl ∧ (s.setCell i v).cfgs = s.cfgs ∧ (s.setCell i v).expel = s.expel ∧
    (s.setCell i v).perturbs = s.perturbs ∧ (s.setCell i v).routers = s.routers ∧ (s.setCell i v).health = s.health ∧
    (s.setCell i v).racks = s.racks ∧ (s.setCell i v).hobs = s.hobs ∧ (s.setCell i v).stk = s.stk ∧
    (s.setCell i v).mem = s.mem ∧ (s.setCell i v).lines = s.lines ∧ (s.setCell i v).rdrs = s.rdrs ∧
    (s.setCell i v).rdrs6 = s.rdrs6 ∧ (s.setCell i v).errs = s.errs ∧ (s.setCell i v).edgeIn = s.edgeIn ∧ (s.setCell i v).rimIn = s.rimIn ∧
    (s.setCell i v).txns = s.txns ∧ (s.setCell i v).hosts = s.hosts ∧ (s.setCell i v).lnps = s.lnps ∧
    (s.setCell i v).hearth = s.hearth ∧ (s.setCell i v).fw = s.fw ∧ (s.setCell i v).pmbus = s.pmbus ∧
    (s.setCell i v).sessions = s.sessions ∧ (s.setCell i v).log = s.log ∧ (s.setCell i v).logSeq = s.logSeq ∧
    (s.setCell i v).logFail = s.logFail ∧ (s.setCell i v).ashes = s.ashes ∧ (s.setCell i v).ashRun = s.ashRun ∧
    (s.setCell i v).ashSeq = s.ashSeq ∧ (s.setCell i v).places = s.places ∧ (s.setCell i v).places6 = s.places6 ∧ (s.setCell i v).pantry = s.pantry ∧
    (s.setCell i v).broadcasts = s.broadcasts ∧ (s.setCell i v).bcastSeq = s.bcastSeq ∧ (s.setCell i v).out = s.out ∧
    (s.setCell i v).free = s.free := by
  and_intros <;> rfl

@[simp] theorem State.cell_setCell (i j : Nat) (v : Cell) : (s.setCell i v).cell j = if j = i then v else s.cell j :=
  Tab.get_put _ _ _ _ _

@[simp] theorem State.modCell_frame (i : Nat) (f : Cell → Cell) :
    (s.modCell i f).pending = s.pending ∧ (s.modCell i f).st = s.st ∧ (s.modCell i f).now = s.now ∧
    (s.modCell i f).life = s.life ∧ (s.modCell i f).boot = s.boot ∧ (s.modCell i f).resets = s.resets ∧
    (s.modCell i f).damper = s.damper ∧ (s.modCell i f).sensors = s.sensors ∧ (s.modCell i f).pins = s.pins ∧
    (s.modCell i f).avl = s.avl ∧ (s.modCell i f).cfgs = s.cfgs ∧ (s.modCell i f).expel = s.expel ∧
    (s.modCell i f).perturbs = s.perturbs ∧ (s.modCell i f).routers = s.routers ∧ (s.modCell i f).health = s.health ∧
    (s.modCell i f).racks = s.racks ∧ (s.modCell i f).hobs = s.hobs ∧ (s.modCell i f).stk = s.stk ∧
    (s.modCell i f).mem = s.mem ∧ (s.modCell i f).lines = s.lines ∧ (s.modCell i f).rdrs = s.rdrs ∧
    (s.modCell i f).rdrs6 = s.rdrs6 ∧ (s.modCell i f).errs = s.errs ∧ (s.modCell i f).edgeIn = s.edgeIn ∧ (s.modCell i f).rimIn = s.rimIn ∧
    (s.modCell i f).txns = s.txns ∧ (s.modCell i f).hosts = s.hosts ∧ (s.modCell i f).lnps = s.lnps ∧
    (s.modCell i f).hearth = s.hearth ∧ (s.modCell i f).fw = s.fw ∧ (s.modCell i f).pmbus = s.pmbus ∧
    (s.modCell i f).sessions = s.sessions ∧ (s.modCell i f).log = s.log ∧ (s.modCell i f).logSeq = s.logSeq ∧
    (s.modCell i f).logFail = s.logFail ∧ (s.modCell i f).ashes = s.ashes ∧ (s.modCell i f).ashRun = s.ashRun ∧
    (s.modCell i f).ashSeq = s.ashSeq ∧ (s.modCell i f).places = s.places ∧ (s.modCell i f).places6 = s.places6 ∧ (s.modCell i f).pantry = s.pantry ∧
    (s.modCell i f).broadcasts = s.broadcasts ∧ (s.modCell i f).bcastSeq = s.bcastSeq ∧ (s.modCell i f).out = s.out ∧
    (s.modCell i f).free = s.free := by
  and_intros <;> rfl

@[simp] theorem State.cell_modCell (i j : Nat) (f : Cell → Cell) :
    (s.modCell i f).cell j = if j = i then f (s.cell i) else s.cell j := Tab.get_put _ _ _ _ _

@[simp] theorem State.setCell_others (i j : Nat) (v : Cell) :
    (s.setCell i v).hob j = s.hob j ∧ (s.setCell i v).router j = s.router j ∧ (s.setCell i v).pos j = s.pos j ∧
    (s.setCell i v).rack j = s.rack j ∧ (s.setCell i v).stack j = s.stack j ∧ (s.setCell i v).host j = s.host j ∧
    (s.setCell i v).lnp j = s.lnp j := by
  and_intros <;> rfl

@[simp] theorem State.modCell_others (i j : Nat) (f : Cell → Cell) :
    (s.modCell i f).hob j = s.hob j ∧ (s.modCell i f).router j = s.router j ∧ (s.modCell i f).pos j = s.pos j ∧
    (s.modCell i f).rack j = s.rack j ∧ (s.modCell i f).stack j = s.stack j ∧ (s.modCell i f).host j = s.host j ∧
    (s.modCell i f).lnp j = s.lnp j := by
  and_intros <;> rfl

@[simp] theorem State.setRouter_frame (i : Nat) (v : Router) :
    (s.setRouter i v).pending = s.pending ∧ (s.setRouter i v).st = s.st ∧ (s.setRouter i v).now = s.now ∧
    (s.setRouter i v).life = s.life ∧ (s.setRouter i v).boot = s.boot ∧ (s.setRouter i v).resets = s.resets ∧
    (s.setRouter i v).damper = s.damper ∧ (s.setRouter i v).sensors = s.sensors ∧ (s.setRouter i v).pins = s.pins ∧
    (s.setRouter i v).avl = s.avl ∧ (s.setRouter i v).cfgs = s.cfgs ∧ (s.setRouter i v).expel = s.expel ∧
    (s.setRouter i v).perturbs = s.perturbs ∧ (s.setRouter i v).cells = s.cells ∧ (s.setRouter i v).health = s.health ∧
    (s.setRouter i v).racks = s.racks ∧ (s.setRouter i v).hobs = s.hobs ∧ (s.setRouter i v).stk = s.stk ∧
    (s.setRouter i v).mem = s.mem ∧ (s.setRouter i v).lines = s.lines ∧ (s.setRouter i v).rdrs = s.rdrs ∧
    (s.setRouter i v).rdrs6 = s.rdrs6 ∧ (s.setRouter i v).errs = s.errs ∧ (s.setRouter i v).edgeIn = s.edgeIn ∧ (s.setRouter i v).rimIn = s.rimIn ∧
    (s.setRouter i v).txns = s.txns ∧ (s.setRouter i v).hosts = s.hosts ∧ (s.setRouter i v).lnps = s.lnps ∧
    (s.setRouter i v).hearth = s.hearth ∧ (s.setRouter i v).fw = s.fw ∧ (s.setRouter i v).pmbus = s.pmbus ∧
    (s.setRouter i v).sessions = s.sessions ∧ (s.setRouter i v).log = s.log ∧ (s.setRouter i v).logSeq = s.logSeq ∧
    (s.setRouter i v).logFail = s.logFail ∧ (s.setRouter i v).ashes = s.ashes ∧ (s.setRouter i v).ashRun = s.ashRun ∧
    (s.setRouter i v).ashSeq = s.ashSeq ∧ (s.setRouter i v).places = s.places ∧ (s.setRouter i v).places6 = s.places6 ∧ (s.setRouter i v).pantry = s.pantry ∧
    (s.setRouter i v).broadcasts = s.broadcasts ∧ (s.setRouter i v).bcastSeq = s.bcastSeq ∧
    (s.setRouter i v).out = s.out ∧ (s.setRouter i v).free = s.free := by
  and_intros <;> rfl

@[simp] theorem State.router_setRouter (i j : Nat) (v : Router) : (s.setRouter i v).router j = if j = i then v else s.router j :=
  Tab.get_put _ _ _ _ _

@[simp] theorem State.modRouter_frame (i : Nat) (f : Router → Router) :
    (s.modRouter i f).pending = s.pending ∧ (s.modRouter i f).st = s.st ∧ (s.modRouter i f).now = s.now ∧
    (s.modRouter i f).life = s.life ∧ (s.modRouter i f).boot = s.boot ∧ (s.modRouter i f).resets = s.resets ∧
    (s.modRouter i f).damper = s.damper ∧ (s.modRouter i f).sensors = s.sensors ∧ (s.modRouter i f).pins = s.pins ∧
    (s.modRouter i f).avl = s.avl ∧ (s.modRouter i f).cfgs = s.cfgs ∧ (s.modRouter i f).expel = s.expel ∧
    (s.modRouter i f).perturbs = s.perturbs ∧ (s.modRouter i f).cells = s.cells ∧ (s.modRouter i f).health = s.health ∧
    (s.modRouter i f).racks = s.racks ∧ (s.modRouter i f).hobs = s.hobs ∧ (s.modRouter i f).stk = s.stk ∧
    (s.modRouter i f).mem = s.mem ∧ (s.modRouter i f).lines = s.lines ∧ (s.modRouter i f).rdrs = s.rdrs ∧
    (s.modRouter i f).rdrs6 = s.rdrs6 ∧ (s.modRouter i f).errs = s.errs ∧ (s.modRouter i f).edgeIn = s.edgeIn ∧ (s.modRouter i f).rimIn = s.rimIn ∧
    (s.modRouter i f).txns = s.txns ∧ (s.modRouter i f).hosts = s.hosts ∧ (s.modRouter i f).lnps = s.lnps ∧
    (s.modRouter i f).hearth = s.hearth ∧ (s.modRouter i f).fw = s.fw ∧ (s.modRouter i f).pmbus = s.pmbus ∧
    (s.modRouter i f).sessions = s.sessions ∧ (s.modRouter i f).log = s.log ∧ (s.modRouter i f).logSeq = s.logSeq ∧
    (s.modRouter i f).logFail = s.logFail ∧ (s.modRouter i f).ashes = s.ashes ∧ (s.modRouter i f).ashRun = s.ashRun ∧
    (s.modRouter i f).ashSeq = s.ashSeq ∧ (s.modRouter i f).places = s.places ∧ (s.modRouter i f).places6 = s.places6 ∧ (s.modRouter i f).pantry = s.pantry ∧
    (s.modRouter i f).broadcasts = s.broadcasts ∧ (s.modRouter i f).bcastSeq = s.bcastSeq ∧
    (s.modRouter i f).out = s.out ∧ (s.modRouter i f).free = s.free := by
  and_intros <;> rfl

@[simp] theorem State.router_modRouter (i j : Nat) (f : Router → Router) :
    (s.modRouter i f).router j = if j = i then f (s.router i) else s.router j := Tab.get_put _ _ _ _ _

@[simp] theorem State.setRouter_others (i j : Nat) (v : Router) :
    (s.setRouter i v).hob j = s.hob j ∧ (s.setRouter i v).cell j = s.cell j ∧ (s.setRouter i v).pos j = s.pos j ∧
    (s.setRouter i v).rack j = s.rack j ∧ (s.setRouter i v).stack j = s.stack j ∧ (s.setRouter i v).host j = s.host j ∧
    (s.setRouter i v).lnp j = s.lnp j := by
  and_intros <;> rfl

@[simp] theorem State.modRouter_others (i j : Nat) (f : Router → Router) :
    (s.modRouter i f).hob j = s.hob j ∧ (s.modRouter i f).cell j = s.cell j ∧ (s.modRouter i f).pos j = s.pos j ∧
    (s.modRouter i f).rack j = s.rack j ∧ (s.modRouter i f).stack j = s.stack j ∧ (s.modRouter i f).host j = s.host j ∧
    (s.modRouter i f).lnp j = s.lnp j := by
  and_intros <;> rfl

@[simp] theorem State.setPos_frame (i : Nat) (v : Health) :
    (s.setPos i v).pending = s.pending ∧ (s.setPos i v).st = s.st ∧ (s.setPos i v).now = s.now ∧
    (s.setPos i v).life = s.life ∧ (s.setPos i v).boot = s.boot ∧ (s.setPos i v).resets = s.resets ∧
    (s.setPos i v).damper = s.damper ∧ (s.setPos i v).sensors = s.sensors ∧ (s.setPos i v).pins = s.pins ∧
    (s.setPos i v).avl = s.avl ∧ (s.setPos i v).cfgs = s.cfgs ∧ (s.setPos i v).expel = s.expel ∧
    (s.setPos i v).perturbs = s.perturbs ∧ (s.setPos i v).cells = s.cells ∧ (s.setPos i v).routers = s.routers ∧
    (s.setPos i v).racks = s.racks ∧ (s.setPos i v).hobs = s.hobs ∧ (s.setPos i v).stk = s.stk ∧
    (s.setPos i v).mem = s.mem ∧ (s.setPos i v).lines = s.lines ∧ (s.setPos i v).rdrs = s.rdrs ∧
    (s.setPos i v).rdrs6 = s.rdrs6 ∧ (s.setPos i v).errs = s.errs ∧ (s.setPos i v).edgeIn = s.edgeIn ∧ (s.setPos i v).rimIn = s.rimIn ∧
    (s.setPos i v).txns = s.txns ∧ (s.setPos i v).hosts = s.hosts ∧ (s.setPos i v).lnps = s.lnps ∧
    (s.setPos i v).hearth = s.hearth ∧ (s.setPos i v).fw = s.fw ∧ (s.setPos i v).pmbus = s.pmbus ∧
    (s.setPos i v).sessions = s.sessions ∧ (s.setPos i v).log = s.log ∧ (s.setPos i v).logSeq = s.logSeq ∧
    (s.setPos i v).logFail = s.logFail ∧ (s.setPos i v).ashes = s.ashes ∧ (s.setPos i v).ashRun = s.ashRun ∧
    (s.setPos i v).ashSeq = s.ashSeq ∧ (s.setPos i v).places = s.places ∧ (s.setPos i v).places6 = s.places6 ∧ (s.setPos i v).pantry = s.pantry ∧
    (s.setPos i v).broadcasts = s.broadcasts ∧ (s.setPos i v).bcastSeq = s.bcastSeq ∧ (s.setPos i v).out = s.out ∧
    (s.setPos i v).free = s.free := by
  and_intros <;> rfl

@[simp] theorem State.pos_setPos (i j : Nat) (v : Health) : (s.setPos i v).pos j = if j = i then v else s.pos j :=
  Tab.get_put _ _ _ _ _

@[simp] theorem State.modPos_frame (i : Nat) (f : Health → Health) :
    (s.modPos i f).pending = s.pending ∧ (s.modPos i f).st = s.st ∧ (s.modPos i f).now = s.now ∧
    (s.modPos i f).life = s.life ∧ (s.modPos i f).boot = s.boot ∧ (s.modPos i f).resets = s.resets ∧
    (s.modPos i f).damper = s.damper ∧ (s.modPos i f).sensors = s.sensors ∧ (s.modPos i f).pins = s.pins ∧
    (s.modPos i f).avl = s.avl ∧ (s.modPos i f).cfgs = s.cfgs ∧ (s.modPos i f).expel = s.expel ∧
    (s.modPos i f).perturbs = s.perturbs ∧ (s.modPos i f).cells = s.cells ∧ (s.modPos i f).routers = s.routers ∧
    (s.modPos i f).racks = s.racks ∧ (s.modPos i f).hobs = s.hobs ∧ (s.modPos i f).stk = s.stk ∧
    (s.modPos i f).mem = s.mem ∧ (s.modPos i f).lines = s.lines ∧ (s.modPos i f).rdrs = s.rdrs ∧
    (s.modPos i f).rdrs6 = s.rdrs6 ∧ (s.modPos i f).errs = s.errs ∧ (s.modPos i f).edgeIn = s.edgeIn ∧ (s.modPos i f).rimIn = s.rimIn ∧
    (s.modPos i f).txns = s.txns ∧ (s.modPos i f).hosts = s.hosts ∧ (s.modPos i f).lnps = s.lnps ∧
    (s.modPos i f).hearth = s.hearth ∧ (s.modPos i f).fw = s.fw ∧ (s.modPos i f).pmbus = s.pmbus ∧
    (s.modPos i f).sessions = s.sessions ∧ (s.modPos i f).log = s.log ∧ (s.modPos i f).logSeq = s.logSeq ∧
    (s.modPos i f).logFail = s.logFail ∧ (s.modPos i f).ashes = s.ashes ∧ (s.modPos i f).ashRun = s.ashRun ∧
    (s.modPos i f).ashSeq = s.ashSeq ∧ (s.modPos i f).places = s.places ∧ (s.modPos i f).places6 = s.places6 ∧ (s.modPos i f).pantry = s.pantry ∧
    (s.modPos i f).broadcasts = s.broadcasts ∧ (s.modPos i f).bcastSeq = s.bcastSeq ∧ (s.modPos i f).out = s.out ∧
    (s.modPos i f).free = s.free := by
  and_intros <;> rfl

@[simp] theorem State.pos_modPos (i j : Nat) (f : Health → Health) :
    (s.modPos i f).pos j = if j = i then f (s.pos i) else s.pos j := Tab.get_put _ _ _ _ _

@[simp] theorem State.setPos_others (i j : Nat) (v : Health) :
    (s.setPos i v).hob j = s.hob j ∧ (s.setPos i v).cell j = s.cell j ∧ (s.setPos i v).router j = s.router j ∧
    (s.setPos i v).rack j = s.rack j ∧ (s.setPos i v).stack j = s.stack j ∧ (s.setPos i v).host j = s.host j ∧
    (s.setPos i v).lnp j = s.lnp j := by
  and_intros <;> rfl

@[simp] theorem State.modPos_others (i j : Nat) (f : Health → Health) :
    (s.modPos i f).hob j = s.hob j ∧ (s.modPos i f).cell j = s.cell j ∧ (s.modPos i f).router j = s.router j ∧
    (s.modPos i f).rack j = s.rack j ∧ (s.modPos i f).stack j = s.stack j ∧ (s.modPos i f).host j = s.host j ∧
    (s.modPos i f).lnp j = s.lnp j := by
  and_intros <;> rfl

@[simp] theorem State.setRack_frame (i : Nat) (v : RackSt) :
    (s.setRack i v).pending = s.pending ∧ (s.setRack i v).st = s.st ∧ (s.setRack i v).now = s.now ∧
    (s.setRack i v).life = s.life ∧ (s.setRack i v).boot = s.boot ∧ (s.setRack i v).resets = s.resets ∧
    (s.setRack i v).damper = s.damper ∧ (s.setRack i v).sensors = s.sensors ∧ (s.setRack i v).pins = s.pins ∧
    (s.setRack i v).avl = s.avl ∧ (s.setRack i v).cfgs = s.cfgs ∧ (s.setRack i v).expel = s.expel ∧
    (s.setRack i v).perturbs = s.perturbs ∧ (s.setRack i v).cells = s.cells ∧ (s.setRack i v).routers = s.routers ∧
    (s.setRack i v).health = s.health ∧ (s.setRack i v).hobs = s.hobs ∧ (s.setRack i v).stk = s.stk ∧
    (s.setRack i v).mem = s.mem ∧ (s.setRack i v).lines = s.lines ∧ (s.setRack i v).rdrs = s.rdrs ∧
    (s.setRack i v).rdrs6 = s.rdrs6 ∧ (s.setRack i v).errs = s.errs ∧ (s.setRack i v).edgeIn = s.edgeIn ∧ (s.setRack i v).rimIn = s.rimIn ∧
    (s.setRack i v).txns = s.txns ∧ (s.setRack i v).hosts = s.hosts ∧ (s.setRack i v).lnps = s.lnps ∧
    (s.setRack i v).hearth = s.hearth ∧ (s.setRack i v).fw = s.fw ∧ (s.setRack i v).pmbus = s.pmbus ∧
    (s.setRack i v).sessions = s.sessions ∧ (s.setRack i v).log = s.log ∧ (s.setRack i v).logSeq = s.logSeq ∧
    (s.setRack i v).logFail = s.logFail ∧ (s.setRack i v).ashes = s.ashes ∧ (s.setRack i v).ashRun = s.ashRun ∧
    (s.setRack i v).ashSeq = s.ashSeq ∧ (s.setRack i v).places = s.places ∧ (s.setRack i v).places6 = s.places6 ∧ (s.setRack i v).pantry = s.pantry ∧
    (s.setRack i v).broadcasts = s.broadcasts ∧ (s.setRack i v).bcastSeq = s.bcastSeq ∧ (s.setRack i v).out = s.out ∧
    (s.setRack i v).free = s.free := by
  and_intros <;> rfl

@[simp] theorem State.rack_setRack (i j : Nat) (v : RackSt) : (s.setRack i v).rack j = if j = i then v else s.rack j :=
  Tab.get_put _ _ _ _ _

@[simp] theorem State.modRack_frame (i : Nat) (f : RackSt → RackSt) :
    (s.modRack i f).pending = s.pending ∧ (s.modRack i f).st = s.st ∧ (s.modRack i f).now = s.now ∧
    (s.modRack i f).life = s.life ∧ (s.modRack i f).boot = s.boot ∧ (s.modRack i f).resets = s.resets ∧
    (s.modRack i f).damper = s.damper ∧ (s.modRack i f).sensors = s.sensors ∧ (s.modRack i f).pins = s.pins ∧
    (s.modRack i f).avl = s.avl ∧ (s.modRack i f).cfgs = s.cfgs ∧ (s.modRack i f).expel = s.expel ∧
    (s.modRack i f).perturbs = s.perturbs ∧ (s.modRack i f).cells = s.cells ∧ (s.modRack i f).routers = s.routers ∧
    (s.modRack i f).health = s.health ∧ (s.modRack i f).hobs = s.hobs ∧ (s.modRack i f).stk = s.stk ∧
    (s.modRack i f).mem = s.mem ∧ (s.modRack i f).lines = s.lines ∧ (s.modRack i f).rdrs = s.rdrs ∧
    (s.modRack i f).rdrs6 = s.rdrs6 ∧ (s.modRack i f).errs = s.errs ∧ (s.modRack i f).edgeIn = s.edgeIn ∧ (s.modRack i f).rimIn = s.rimIn ∧
    (s.modRack i f).txns = s.txns ∧ (s.modRack i f).hosts = s.hosts ∧ (s.modRack i f).lnps = s.lnps ∧
    (s.modRack i f).hearth = s.hearth ∧ (s.modRack i f).fw = s.fw ∧ (s.modRack i f).pmbus = s.pmbus ∧
    (s.modRack i f).sessions = s.sessions ∧ (s.modRack i f).log = s.log ∧ (s.modRack i f).logSeq = s.logSeq ∧
    (s.modRack i f).logFail = s.logFail ∧ (s.modRack i f).ashes = s.ashes ∧ (s.modRack i f).ashRun = s.ashRun ∧
    (s.modRack i f).ashSeq = s.ashSeq ∧ (s.modRack i f).places = s.places ∧ (s.modRack i f).places6 = s.places6 ∧ (s.modRack i f).pantry = s.pantry ∧
    (s.modRack i f).broadcasts = s.broadcasts ∧ (s.modRack i f).bcastSeq = s.bcastSeq ∧ (s.modRack i f).out = s.out ∧
    (s.modRack i f).free = s.free := by
  and_intros <;> rfl

@[simp] theorem State.rack_modRack (i j : Nat) (f : RackSt → RackSt) :
    (s.modRack i f).rack j = if j = i then f (s.rack i) else s.rack j := Tab.get_put _ _ _ _ _

@[simp] theorem State.setRack_others (i j : Nat) (v : RackSt) :
    (s.setRack i v).hob j = s.hob j ∧ (s.setRack i v).cell j = s.cell j ∧ (s.setRack i v).router j = s.router j ∧
    (s.setRack i v).pos j = s.pos j ∧ (s.setRack i v).stack j = s.stack j ∧ (s.setRack i v).host j = s.host j ∧
    (s.setRack i v).lnp j = s.lnp j := by
  and_intros <;> rfl

@[simp] theorem State.modRack_others (i j : Nat) (f : RackSt → RackSt) :
    (s.modRack i f).hob j = s.hob j ∧ (s.modRack i f).cell j = s.cell j ∧ (s.modRack i f).router j = s.router j ∧
    (s.modRack i f).pos j = s.pos j ∧ (s.modRack i f).stack j = s.stack j ∧ (s.modRack i f).host j = s.host j ∧
    (s.modRack i f).lnp j = s.lnp j := by
  and_intros <;> rfl

@[simp] theorem State.setStack_frame (i : Nat) (v : Stack) :
    (s.setStack i v).pending = s.pending ∧ (s.setStack i v).st = s.st ∧ (s.setStack i v).now = s.now ∧
    (s.setStack i v).life = s.life ∧ (s.setStack i v).boot = s.boot ∧ (s.setStack i v).resets = s.resets ∧
    (s.setStack i v).damper = s.damper ∧ (s.setStack i v).sensors = s.sensors ∧ (s.setStack i v).pins = s.pins ∧
    (s.setStack i v).avl = s.avl ∧ (s.setStack i v).cfgs = s.cfgs ∧ (s.setStack i v).expel = s.expel ∧
    (s.setStack i v).perturbs = s.perturbs ∧ (s.setStack i v).cells = s.cells ∧ (s.setStack i v).routers = s.routers ∧
    (s.setStack i v).health = s.health ∧ (s.setStack i v).racks = s.racks ∧ (s.setStack i v).hobs = s.hobs ∧
    (s.setStack i v).mem = s.mem ∧ (s.setStack i v).lines = s.lines ∧ (s.setStack i v).rdrs = s.rdrs ∧
    (s.setStack i v).rdrs6 = s.rdrs6 ∧ (s.setStack i v).errs = s.errs ∧ (s.setStack i v).edgeIn = s.edgeIn ∧ (s.setStack i v).rimIn = s.rimIn ∧
    (s.setStack i v).txns = s.txns ∧ (s.setStack i v).hosts = s.hosts ∧ (s.setStack i v).lnps = s.lnps ∧
    (s.setStack i v).hearth = s.hearth ∧ (s.setStack i v).fw = s.fw ∧ (s.setStack i v).pmbus = s.pmbus ∧
    (s.setStack i v).sessions = s.sessions ∧ (s.setStack i v).log = s.log ∧ (s.setStack i v).logSeq = s.logSeq ∧
    (s.setStack i v).logFail = s.logFail ∧ (s.setStack i v).ashes = s.ashes ∧ (s.setStack i v).ashRun = s.ashRun ∧
    (s.setStack i v).ashSeq = s.ashSeq ∧ (s.setStack i v).places = s.places ∧ (s.setStack i v).places6 = s.places6 ∧ (s.setStack i v).pantry = s.pantry ∧
    (s.setStack i v).broadcasts = s.broadcasts ∧ (s.setStack i v).bcastSeq = s.bcastSeq ∧
    (s.setStack i v).out = s.out ∧ (s.setStack i v).free = s.free := by
  and_intros <;> rfl

@[simp] theorem State.stack_setStack (i j : Nat) (v : Stack) : (s.setStack i v).stack j = if j = i then v else s.stack j :=
  Tab.get_put _ _ _ _ _

@[simp] theorem State.modStack_frame (i : Nat) (f : Stack → Stack) :
    (s.modStack i f).pending = s.pending ∧ (s.modStack i f).st = s.st ∧ (s.modStack i f).now = s.now ∧
    (s.modStack i f).life = s.life ∧ (s.modStack i f).boot = s.boot ∧ (s.modStack i f).resets = s.resets ∧
    (s.modStack i f).damper = s.damper ∧ (s.modStack i f).sensors = s.sensors ∧ (s.modStack i f).pins = s.pins ∧
    (s.modStack i f).avl = s.avl ∧ (s.modStack i f).cfgs = s.cfgs ∧ (s.modStack i f).expel = s.expel ∧
    (s.modStack i f).perturbs = s.perturbs ∧ (s.modStack i f).cells = s.cells ∧ (s.modStack i f).routers = s.routers ∧
    (s.modStack i f).health = s.health ∧ (s.modStack i f).racks = s.racks ∧ (s.modStack i f).hobs = s.hobs ∧
    (s.modStack i f).mem = s.mem ∧ (s.modStack i f).lines = s.lines ∧ (s.modStack i f).rdrs = s.rdrs ∧
    (s.modStack i f).rdrs6 = s.rdrs6 ∧ (s.modStack i f).errs = s.errs ∧ (s.modStack i f).edgeIn = s.edgeIn ∧ (s.modStack i f).rimIn = s.rimIn ∧
    (s.modStack i f).txns = s.txns ∧ (s.modStack i f).hosts = s.hosts ∧ (s.modStack i f).lnps = s.lnps ∧
    (s.modStack i f).hearth = s.hearth ∧ (s.modStack i f).fw = s.fw ∧ (s.modStack i f).pmbus = s.pmbus ∧
    (s.modStack i f).sessions = s.sessions ∧ (s.modStack i f).log = s.log ∧ (s.modStack i f).logSeq = s.logSeq ∧
    (s.modStack i f).logFail = s.logFail ∧ (s.modStack i f).ashes = s.ashes ∧ (s.modStack i f).ashRun = s.ashRun ∧
    (s.modStack i f).ashSeq = s.ashSeq ∧ (s.modStack i f).places = s.places ∧ (s.modStack i f).places6 = s.places6 ∧ (s.modStack i f).pantry = s.pantry ∧
    (s.modStack i f).broadcasts = s.broadcasts ∧ (s.modStack i f).bcastSeq = s.bcastSeq ∧
    (s.modStack i f).out = s.out ∧ (s.modStack i f).free = s.free := by
  and_intros <;> rfl

@[simp] theorem State.stack_modStack (i j : Nat) (f : Stack → Stack) :
    (s.modStack i f).stack j = if j = i then f (s.stack i) else s.stack j := Tab.get_put _ _ _ _ _

@[simp] theorem State.setStack_others (i j : Nat) (v : Stack) :
    (s.setStack i v).hob j = s.hob j ∧ (s.setStack i v).cell j = s.cell j ∧ (s.setStack i v).router j = s.router j ∧
    (s.setStack i v).pos j = s.pos j ∧ (s.setStack i v).rack j = s.rack j ∧ (s.setStack i v).host j = s.host j ∧
    (s.setStack i v).lnp j = s.lnp j := by
  and_intros <;> rfl

@[simp] theorem State.modStack_others (i j : Nat) (f : Stack → Stack) :
    (s.modStack i f).hob j = s.hob j ∧ (s.modStack i f).cell j = s.cell j ∧ (s.modStack i f).router j = s.router j ∧
    (s.modStack i f).pos j = s.pos j ∧ (s.modStack i f).rack j = s.rack j ∧ (s.modStack i f).host j = s.host j ∧
    (s.modStack i f).lnp j = s.lnp j := by
  and_intros <;> rfl

@[simp] theorem State.setHost_frame (i : Nat) (v : HostPort) :
    (s.setHost i v).pending = s.pending ∧ (s.setHost i v).st = s.st ∧ (s.setHost i v).now = s.now ∧
    (s.setHost i v).life = s.life ∧ (s.setHost i v).boot = s.boot ∧ (s.setHost i v).resets = s.resets ∧
    (s.setHost i v).damper = s.damper ∧ (s.setHost i v).sensors = s.sensors ∧ (s.setHost i v).pins = s.pins ∧
    (s.setHost i v).avl = s.avl ∧ (s.setHost i v).cfgs = s.cfgs ∧ (s.setHost i v).expel = s.expel ∧
    (s.setHost i v).perturbs = s.perturbs ∧ (s.setHost i v).cells = s.cells ∧ (s.setHost i v).routers = s.routers ∧
    (s.setHost i v).health = s.health ∧ (s.setHost i v).racks = s.racks ∧ (s.setHost i v).hobs = s.hobs ∧
    (s.setHost i v).stk = s.stk ∧ (s.setHost i v).mem = s.mem ∧ (s.setHost i v).lines = s.lines ∧
    (s.setHost i v).rdrs = s.rdrs ∧
    (s.setHost i v).rdrs6 = s.rdrs6 ∧ (s.setHost i v).errs = s.errs ∧ (s.setHost i v).edgeIn = s.edgeIn ∧ (s.setHost i v).rimIn = s.rimIn ∧ (s.setHost i v).txns = s.txns ∧ (s.setHost i v).lnps = s.lnps ∧
    (s.setHost i v).hearth = s.hearth ∧ (s.setHost i v).fw = s.fw ∧ (s.setHost i v).pmbus = s.pmbus ∧
    (s.setHost i v).sessions = s.sessions ∧ (s.setHost i v).log = s.log ∧ (s.setHost i v).logSeq = s.logSeq ∧
    (s.setHost i v).logFail = s.logFail ∧ (s.setHost i v).ashes = s.ashes ∧ (s.setHost i v).ashRun = s.ashRun ∧
    (s.setHost i v).ashSeq = s.ashSeq ∧ (s.setHost i v).places = s.places ∧ (s.setHost i v).places6 = s.places6 ∧ (s.setHost i v).pantry = s.pantry ∧
    (s.setHost i v).broadcasts = s.broadcasts ∧ (s.setHost i v).bcastSeq = s.bcastSeq ∧ (s.setHost i v).out = s.out ∧
    (s.setHost i v).free = s.free := by
  and_intros <;> rfl

@[simp] theorem State.host_setHost (i j : Nat) (v : HostPort) : (s.setHost i v).host j = if j = i then v else s.host j :=
  Tab.get_put _ _ _ _ _

@[simp] theorem State.modHost_frame (i : Nat) (f : HostPort → HostPort) :
    (s.modHost i f).pending = s.pending ∧ (s.modHost i f).st = s.st ∧ (s.modHost i f).now = s.now ∧
    (s.modHost i f).life = s.life ∧ (s.modHost i f).boot = s.boot ∧ (s.modHost i f).resets = s.resets ∧
    (s.modHost i f).damper = s.damper ∧ (s.modHost i f).sensors = s.sensors ∧ (s.modHost i f).pins = s.pins ∧
    (s.modHost i f).avl = s.avl ∧ (s.modHost i f).cfgs = s.cfgs ∧ (s.modHost i f).expel = s.expel ∧
    (s.modHost i f).perturbs = s.perturbs ∧ (s.modHost i f).cells = s.cells ∧ (s.modHost i f).routers = s.routers ∧
    (s.modHost i f).health = s.health ∧ (s.modHost i f).racks = s.racks ∧ (s.modHost i f).hobs = s.hobs ∧
    (s.modHost i f).stk = s.stk ∧ (s.modHost i f).mem = s.mem ∧ (s.modHost i f).lines = s.lines ∧
    (s.modHost i f).rdrs = s.rdrs ∧
    (s.modHost i f).rdrs6 = s.rdrs6 ∧ (s.modHost i f).errs = s.errs ∧ (s.modHost i f).edgeIn = s.edgeIn ∧ (s.modHost i f).rimIn = s.rimIn ∧ (s.modHost i f).txns = s.txns ∧ (s.modHost i f).lnps = s.lnps ∧
    (s.modHost i f).hearth = s.hearth ∧ (s.modHost i f).fw = s.fw ∧ (s.modHost i f).pmbus = s.pmbus ∧
    (s.modHost i f).sessions = s.sessions ∧ (s.modHost i f).log = s.log ∧ (s.modHost i f).logSeq = s.logSeq ∧
    (s.modHost i f).logFail = s.logFail ∧ (s.modHost i f).ashes = s.ashes ∧ (s.modHost i f).ashRun = s.ashRun ∧
    (s.modHost i f).ashSeq = s.ashSeq ∧ (s.modHost i f).places = s.places ∧ (s.modHost i f).places6 = s.places6 ∧ (s.modHost i f).pantry = s.pantry ∧
    (s.modHost i f).broadcasts = s.broadcasts ∧ (s.modHost i f).bcastSeq = s.bcastSeq ∧ (s.modHost i f).out = s.out ∧
    (s.modHost i f).free = s.free := by
  and_intros <;> rfl

@[simp] theorem State.host_modHost (i j : Nat) (f : HostPort → HostPort) :
    (s.modHost i f).host j = if j = i then f (s.host i) else s.host j := Tab.get_put _ _ _ _ _

@[simp] theorem State.setHost_others (i j : Nat) (v : HostPort) :
    (s.setHost i v).hob j = s.hob j ∧ (s.setHost i v).cell j = s.cell j ∧ (s.setHost i v).router j = s.router j ∧
    (s.setHost i v).pos j = s.pos j ∧ (s.setHost i v).rack j = s.rack j ∧ (s.setHost i v).stack j = s.stack j ∧
    (s.setHost i v).lnp j = s.lnp j := by
  and_intros <;> rfl

@[simp] theorem State.modHost_others (i j : Nat) (f : HostPort → HostPort) :
    (s.modHost i f).hob j = s.hob j ∧ (s.modHost i f).cell j = s.cell j ∧ (s.modHost i f).router j = s.router j ∧
    (s.modHost i f).pos j = s.pos j ∧ (s.modHost i f).rack j = s.rack j ∧ (s.modHost i f).stack j = s.stack j ∧
    (s.modHost i f).lnp j = s.lnp j := by
  and_intros <;> rfl

@[simp] theorem State.setLnp_frame (i : Nat) (v : Lnp) :
    (s.setLnp i v).pending = s.pending ∧ (s.setLnp i v).st = s.st ∧ (s.setLnp i v).now = s.now ∧
    (s.setLnp i v).life = s.life ∧ (s.setLnp i v).boot = s.boot ∧ (s.setLnp i v).resets = s.resets ∧
    (s.setLnp i v).damper = s.damper ∧ (s.setLnp i v).sensors = s.sensors ∧ (s.setLnp i v).pins = s.pins ∧
    (s.setLnp i v).avl = s.avl ∧ (s.setLnp i v).cfgs = s.cfgs ∧ (s.setLnp i v).expel = s.expel ∧
    (s.setLnp i v).perturbs = s.perturbs ∧ (s.setLnp i v).cells = s.cells ∧ (s.setLnp i v).routers = s.routers ∧
    (s.setLnp i v).health = s.health ∧ (s.setLnp i v).racks = s.racks ∧ (s.setLnp i v).hobs = s.hobs ∧
    (s.setLnp i v).stk = s.stk ∧ (s.setLnp i v).mem = s.mem ∧ (s.setLnp i v).lines = s.lines ∧
    (s.setLnp i v).rdrs = s.rdrs ∧
    (s.setLnp i v).rdrs6 = s.rdrs6 ∧ (s.setLnp i v).errs = s.errs ∧ (s.setLnp i v).edgeIn = s.edgeIn ∧ (s.setLnp i v).rimIn = s.rimIn ∧ (s.setLnp i v).txns = s.txns ∧ (s.setLnp i v).hosts = s.hosts ∧
    (s.setLnp i v).hearth = s.hearth ∧ (s.setLnp i v).fw = s.fw ∧ (s.setLnp i v).pmbus = s.pmbus ∧
    (s.setLnp i v).sessions = s.sessions ∧ (s.setLnp i v).log = s.log ∧ (s.setLnp i v).logSeq = s.logSeq ∧
    (s.setLnp i v).logFail = s.logFail ∧ (s.setLnp i v).ashes = s.ashes ∧ (s.setLnp i v).ashRun = s.ashRun ∧
    (s.setLnp i v).ashSeq = s.ashSeq ∧ (s.setLnp i v).places = s.places ∧ (s.setLnp i v).places6 = s.places6 ∧ (s.setLnp i v).pantry = s.pantry ∧
    (s.setLnp i v).broadcasts = s.broadcasts ∧ (s.setLnp i v).bcastSeq = s.bcastSeq ∧ (s.setLnp i v).out = s.out ∧
    (s.setLnp i v).free = s.free := by
  and_intros <;> rfl

@[simp] theorem State.lnp_setLnp (i j : Nat) (v : Lnp) : (s.setLnp i v).lnp j = if j = i then v else s.lnp j :=
  Tab.get_put _ _ _ _ _

@[simp] theorem State.modLnp_frame (i : Nat) (f : Lnp → Lnp) :
    (s.modLnp i f).pending = s.pending ∧ (s.modLnp i f).st = s.st ∧ (s.modLnp i f).now = s.now ∧
    (s.modLnp i f).life = s.life ∧ (s.modLnp i f).boot = s.boot ∧ (s.modLnp i f).resets = s.resets ∧
    (s.modLnp i f).damper = s.damper ∧ (s.modLnp i f).sensors = s.sensors ∧ (s.modLnp i f).pins = s.pins ∧
    (s.modLnp i f).avl = s.avl ∧ (s.modLnp i f).cfgs = s.cfgs ∧ (s.modLnp i f).expel = s.expel ∧
    (s.modLnp i f).perturbs = s.perturbs ∧ (s.modLnp i f).cells = s.cells ∧ (s.modLnp i f).routers = s.routers ∧
    (s.modLnp i f).health = s.health ∧ (s.modLnp i f).racks = s.racks ∧ (s.modLnp i f).hobs = s.hobs ∧
    (s.modLnp i f).stk = s.stk ∧ (s.modLnp i f).mem = s.mem ∧ (s.modLnp i f).lines = s.lines ∧
    (s.modLnp i f).rdrs = s.rdrs ∧
    (s.modLnp i f).rdrs6 = s.rdrs6 ∧ (s.modLnp i f).errs = s.errs ∧ (s.modLnp i f).edgeIn = s.edgeIn ∧ (s.modLnp i f).rimIn = s.rimIn ∧ (s.modLnp i f).txns = s.txns ∧ (s.modLnp i f).hosts = s.hosts ∧
    (s.modLnp i f).hearth = s.hearth ∧ (s.modLnp i f).fw = s.fw ∧ (s.modLnp i f).pmbus = s.pmbus ∧
    (s.modLnp i f).sessions = s.sessions ∧ (s.modLnp i f).log = s.log ∧ (s.modLnp i f).logSeq = s.logSeq ∧
    (s.modLnp i f).logFail = s.logFail ∧ (s.modLnp i f).ashes = s.ashes ∧ (s.modLnp i f).ashRun = s.ashRun ∧
    (s.modLnp i f).ashSeq = s.ashSeq ∧ (s.modLnp i f).places = s.places ∧ (s.modLnp i f).places6 = s.places6 ∧ (s.modLnp i f).pantry = s.pantry ∧
    (s.modLnp i f).broadcasts = s.broadcasts ∧ (s.modLnp i f).bcastSeq = s.bcastSeq ∧ (s.modLnp i f).out = s.out ∧
    (s.modLnp i f).free = s.free := by
  and_intros <;> rfl

@[simp] theorem State.lnp_modLnp (i j : Nat) (f : Lnp → Lnp) :
    (s.modLnp i f).lnp j = if j = i then f (s.lnp i) else s.lnp j := Tab.get_put _ _ _ _ _

@[simp] theorem State.setLnp_others (i j : Nat) (v : Lnp) :
    (s.setLnp i v).hob j = s.hob j ∧ (s.setLnp i v).cell j = s.cell j ∧ (s.setLnp i v).router j = s.router j ∧
    (s.setLnp i v).pos j = s.pos j ∧ (s.setLnp i v).rack j = s.rack j ∧ (s.setLnp i v).stack j = s.stack j ∧
    (s.setLnp i v).host j = s.host j := by
  and_intros <;> rfl

@[simp] theorem State.modLnp_others (i j : Nat) (f : Lnp → Lnp) :
    (s.modLnp i f).hob j = s.hob j ∧ (s.modLnp i f).cell j = s.cell j ∧ (s.modLnp i f).router j = s.router j ∧
    (s.modLnp i f).pos j = s.pos j ∧ (s.modLnp i f).rack j = s.rack j ∧ (s.modLnp i f).stack j = s.stack j ∧
    (s.modLnp i f).host j = s.host j := by
  and_intros <;> rfl

@[simp] theorem State.modFn_frame (p f : Nat) (g : Fn → Fn) :
    (s.modFn p f g).pending = s.pending ∧ (s.modFn p f g).st = s.st ∧ (s.modFn p f g).now = s.now ∧
    (s.modFn p f g).life = s.life ∧ (s.modFn p f g).boot = s.boot ∧ (s.modFn p f g).resets = s.resets ∧
    (s.modFn p f g).damper = s.damper ∧ (s.modFn p f g).sensors = s.sensors ∧ (s.modFn p f g).pins = s.pins ∧
    (s.modFn p f g).avl = s.avl ∧ (s.modFn p f g).cfgs = s.cfgs ∧ (s.modFn p f g).expel = s.expel ∧
    (s.modFn p f g).perturbs = s.perturbs ∧ (s.modFn p f g).cells = s.cells ∧ (s.modFn p f g).routers = s.routers ∧
    (s.modFn p f g).health = s.health ∧ (s.modFn p f g).racks = s.racks ∧ (s.modFn p f g).hobs = s.hobs ∧
    (s.modFn p f g).stk = s.stk ∧ (s.modFn p f g).mem = s.mem ∧ (s.modFn p f g).lines = s.lines ∧
    (s.modFn p f g).rdrs = s.rdrs ∧
    (s.modFn p f g).rdrs6 = s.rdrs6 ∧ (s.modFn p f g).errs = s.errs ∧ (s.modFn p f g).edgeIn = s.edgeIn ∧ (s.modFn p f g).rimIn = s.rimIn ∧ (s.modFn p f g).txns = s.txns ∧ (s.modFn p f g).lnps = s.lnps ∧
    (s.modFn p f g).hearth = s.hearth ∧ (s.modFn p f g).fw = s.fw ∧ (s.modFn p f g).pmbus = s.pmbus ∧
    (s.modFn p f g).sessions = s.sessions ∧ (s.modFn p f g).log = s.log ∧ (s.modFn p f g).logSeq = s.logSeq ∧
    (s.modFn p f g).logFail = s.logFail ∧ (s.modFn p f g).ashes = s.ashes ∧ (s.modFn p f g).ashRun = s.ashRun ∧
    (s.modFn p f g).ashSeq = s.ashSeq ∧ (s.modFn p f g).places = s.places ∧ (s.modFn p f g).places6 = s.places6 ∧ (s.modFn p f g).pantry = s.pantry ∧
    (s.modFn p f g).broadcasts = s.broadcasts ∧ (s.modFn p f g).bcastSeq = s.bcastSeq ∧ (s.modFn p f g).out = s.out ∧
    (s.modFn p f g).free = s.free := by
  and_intros <;> rfl

@[simp] theorem State.modRing_frame (p f r : Nat) (g : Ring → Ring) :
    (s.modRing p f r g).pending = s.pending ∧ (s.modRing p f r g).st = s.st ∧ (s.modRing p f r g).now = s.now ∧
    (s.modRing p f r g).life = s.life ∧ (s.modRing p f r g).boot = s.boot ∧ (s.modRing p f r g).resets = s.resets ∧
    (s.modRing p f r g).damper = s.damper ∧ (s.modRing p f r g).sensors = s.sensors ∧
    (s.modRing p f r g).pins = s.pins ∧ (s.modRing p f r g).avl = s.avl ∧ (s.modRing p f r g).cfgs = s.cfgs ∧
    (s.modRing p f r g).expel = s.expel ∧ (s.modRing p f r g).perturbs = s.perturbs ∧
    (s.modRing p f r g).cells = s.cells ∧ (s.modRing p f r g).routers = s.routers ∧
    (s.modRing p f r g).health = s.health ∧ (s.modRing p f r g).racks = s.racks ∧ (s.modRing p f r g).hobs = s.hobs ∧
    (s.modRing p f r g).stk = s.stk ∧ (s.modRing p f r g).mem = s.mem ∧ (s.modRing p f r g).lines = s.lines ∧
    (s.modRing p f r g).rdrs = s.rdrs ∧
    (s.modRing p f r g).rdrs6 = s.rdrs6 ∧ (s.modRing p f r g).errs = s.errs ∧ (s.modRing p f r g).edgeIn = s.edgeIn ∧ (s.modRing p f r g).rimIn = s.rimIn ∧ (s.modRing p f r g).txns = s.txns ∧ (s.modRing p f r g).lnps = s.lnps ∧
    (s.modRing p f r g).hearth = s.hearth ∧ (s.modRing p f r g).fw = s.fw ∧ (s.modRing p f r g).pmbus = s.pmbus ∧
    (s.modRing p f r g).sessions = s.sessions ∧ (s.modRing p f r g).log = s.log ∧
    (s.modRing p f r g).logSeq = s.logSeq ∧ (s.modRing p f r g).logFail = s.logFail ∧
    (s.modRing p f r g).ashes = s.ashes ∧ (s.modRing p f r g).ashRun = s.ashRun ∧
    (s.modRing p f r g).ashSeq = s.ashSeq ∧ (s.modRing p f r g).places = s.places ∧ (s.modRing p f r g).places6 = s.places6 ∧
    (s.modRing p f r g).pantry = s.pantry ∧ (s.modRing p f r g).broadcasts = s.broadcasts ∧
    (s.modRing p f r g).bcastSeq = s.bcastSeq ∧ (s.modRing p f r g).out = s.out ∧ (s.modRing p f r g).free = s.free := by
  and_intros <;> rfl

@[simp] theorem State.emit_frame (o : Out) :
    (s.emit o).pending = s.pending ∧ (s.emit o).st = s.st ∧ (s.emit o).now = s.now ∧ (s.emit o).life = s.life ∧
    (s.emit o).boot = s.boot ∧ (s.emit o).resets = s.resets ∧ (s.emit o).damper = s.damper ∧
    (s.emit o).sensors = s.sensors ∧ (s.emit o).pins = s.pins ∧ (s.emit o).avl = s.avl ∧ (s.emit o).cfgs = s.cfgs ∧
    (s.emit o).expel = s.expel ∧ (s.emit o).perturbs = s.perturbs ∧ (s.emit o).cells = s.cells ∧
    (s.emit o).routers = s.routers ∧ (s.emit o).health = s.health ∧ (s.emit o).racks = s.racks ∧
    (s.emit o).hobs = s.hobs ∧ (s.emit o).stk = s.stk ∧ (s.emit o).mem = s.mem ∧ (s.emit o).lines = s.lines ∧
    (s.emit o).rdrs = s.rdrs ∧
    (s.emit o).rdrs6 = s.rdrs6 ∧ (s.emit o).errs = s.errs ∧ (s.emit o).edgeIn = s.edgeIn ∧ (s.emit o).rimIn = s.rimIn ∧ (s.emit o).txns = s.txns ∧ (s.emit o).hosts = s.hosts ∧ (s.emit o).lnps = s.lnps ∧
    (s.emit o).hearth = s.hearth ∧ (s.emit o).fw = s.fw ∧ (s.emit o).pmbus = s.pmbus ∧
    (s.emit o).sessions = s.sessions ∧ (s.emit o).log = s.log ∧ (s.emit o).logSeq = s.logSeq ∧
    (s.emit o).logFail = s.logFail ∧ (s.emit o).ashes = s.ashes ∧ (s.emit o).ashRun = s.ashRun ∧
    (s.emit o).ashSeq = s.ashSeq ∧ (s.emit o).places = s.places ∧ (s.emit o).places6 = s.places6 ∧ (s.emit o).pantry = s.pantry ∧
    (s.emit o).broadcasts = s.broadcasts ∧ (s.emit o).bcastSeq = s.bcastSeq ∧ (s.emit o).free = s.free ∧
    (s.emit o).out = o :: s.out := by
  and_intros <;> rfl

@[simp] theorem State.draw_frame :
    (s.draw.2).pending = s.pending ∧ (s.draw.2).st = s.st ∧ (s.draw.2).now = s.now ∧ (s.draw.2).life = s.life ∧
    (s.draw.2).boot = s.boot ∧ (s.draw.2).resets = s.resets ∧ (s.draw.2).damper = s.damper ∧
    (s.draw.2).sensors = s.sensors ∧ (s.draw.2).pins = s.pins ∧ (s.draw.2).avl = s.avl ∧ (s.draw.2).cfgs = s.cfgs ∧
    (s.draw.2).expel = s.expel ∧ (s.draw.2).perturbs = s.perturbs ∧ (s.draw.2).cells = s.cells ∧
    (s.draw.2).routers = s.routers ∧ (s.draw.2).health = s.health ∧ (s.draw.2).racks = s.racks ∧
    (s.draw.2).hobs = s.hobs ∧ (s.draw.2).stk = s.stk ∧ (s.draw.2).mem = s.mem ∧ (s.draw.2).lines = s.lines ∧
    (s.draw.2).rdrs = s.rdrs ∧
    (s.draw.2).rdrs6 = s.rdrs6 ∧ (s.draw.2).errs = s.errs ∧ (s.draw.2).edgeIn = s.edgeIn ∧ (s.draw.2).rimIn = s.rimIn ∧ (s.draw.2).txns = s.txns ∧ (s.draw.2).hosts = s.hosts ∧ (s.draw.2).lnps = s.lnps ∧
    (s.draw.2).hearth = s.hearth ∧ (s.draw.2).fw = s.fw ∧ (s.draw.2).pmbus = s.pmbus ∧
    (s.draw.2).sessions = s.sessions ∧ (s.draw.2).log = s.log ∧ (s.draw.2).logSeq = s.logSeq ∧
    (s.draw.2).logFail = s.logFail ∧ (s.draw.2).ashes = s.ashes ∧ (s.draw.2).ashRun = s.ashRun ∧
    (s.draw.2).ashSeq = s.ashSeq ∧ (s.draw.2).places = s.places ∧ (s.draw.2).places6 = s.places6 ∧ (s.draw.2).pantry = s.pantry ∧
    (s.draw.2).broadcasts = s.broadcasts ∧ (s.draw.2).bcastSeq = s.bcastSeq ∧ (s.draw.2).out = s.out ∧
    s.draw.2.free = s.free + 1 := by
  and_intros <;> rfl

@[simp] theorem State.logPut_frame (r : LogRec) :
    (s.logPut r).pending = s.pending ∧ (s.logPut r).st = s.st ∧ (s.logPut r).now = s.now ∧ (s.logPut r).life = s.life ∧
    (s.logPut r).boot = s.boot ∧ (s.logPut r).resets = s.resets ∧ (s.logPut r).damper = s.damper ∧
    (s.logPut r).sensors = s.sensors ∧ (s.logPut r).pins = s.pins ∧ (s.logPut r).avl = s.avl ∧
    (s.logPut r).cfgs = s.cfgs ∧ (s.logPut r).expel = s.expel ∧ (s.logPut r).perturbs = s.perturbs ∧
    (s.logPut r).cells = s.cells ∧ (s.logPut r).routers = s.routers ∧ (s.logPut r).health = s.health ∧
    (s.logPut r).racks = s.racks ∧ (s.logPut r).hobs = s.hobs ∧ (s.logPut r).stk = s.stk ∧ (s.logPut r).mem = s.mem ∧
    (s.logPut r).lines = s.lines ∧ (s.logPut r).rdrs = s.rdrs ∧
    (s.logPut r).rdrs6 = s.rdrs6 ∧ (s.logPut r).errs = s.errs ∧ (s.logPut r).edgeIn = s.edgeIn ∧ (s.logPut r).rimIn = s.rimIn ∧ (s.logPut r).txns = s.txns ∧
    (s.logPut r).hosts = s.hosts ∧ (s.logPut r).lnps = s.lnps ∧ (s.logPut r).hearth = s.hearth ∧
    (s.logPut r).fw = s.fw ∧ (s.logPut r).pmbus = s.pmbus ∧ (s.logPut r).sessions = s.sessions ∧
    (s.logPut r).logFail = s.logFail ∧ (s.logPut r).ashes = s.ashes ∧ (s.logPut r).ashRun = s.ashRun ∧
    (s.logPut r).ashSeq = s.ashSeq ∧ (s.logPut r).places = s.places ∧ (s.logPut r).places6 = s.places6 ∧ (s.logPut r).pantry = s.pantry ∧
    (s.logPut r).broadcasts = s.broadcasts ∧ (s.logPut r).bcastSeq = s.bcastSeq ∧ (s.logPut r).out = s.out ∧
    (s.logPut r).free = s.free ∧ (s.logPut r).logSeq = s.logSeq + 1 := by
  and_intros <;> rfl

@[simp] theorem State.emit_parts (o : Out) (j : Nat) :
    (s.emit o).hob j = s.hob j ∧ (s.emit o).cell j = s.cell j ∧ (s.emit o).router j = s.router j ∧
    (s.emit o).pos j = s.pos j ∧ (s.emit o).rack j = s.rack j ∧ (s.emit o).stack j = s.stack j ∧
    (s.emit o).host j = s.host j ∧ (s.emit o).lnp j = s.lnp j := by
  and_intros <;> rfl

end Sys2Proof.Machine
end

