-- ==== Sys2Proof/Laws/Keeps.lean ====
section
/-! SUPPORT. What the operations leave as it was: stack memory, the queue of waiting commands and the device lifetime. The
operations that write stack memory have two laws instead: they leave the queue and the lifetime, and they keep the canonical
form of the memory. -/

namespace Sys2Proof.Machine

open Sys2Proof

@[simp] theorem State.ite_mem (c : Prop) [Decidable c] (a b : State) :
    (if c then a else b).mem = (if c then a.mem else b.mem) := by split <;> rfl

@[simp] theorem State.ite_pending (c : Prop) [Decidable c] (a b : State) :
    (if c then a else b).pending = (if c then a.pending else b.pending) := by split <;> rfl

@[simp] theorem State.ite_life (c : Prop) [Decidable c] (a b : State) :
    (if c then a else b).life = (if c then a.life else b.life) := by split <;> rfl

/-- A walk over a list leaves what each of its steps leaves. -/
@[simp] theorem State.each_keeps {α : Type} (s : State) (l : List α) (f : State → α → State)
    (hf : ∀ (x : State) (i : α), (f x i).mem = x.mem ∧ (f x i).pending = x.pending ∧ (f x i).life = x.life) :
    (s.each l f).mem = s.mem ∧ (s.each l f).pending = s.pending ∧ (s.each l f).life = s.life := by
  unfold State.each
  induction l generalizing s with
  | nil => simp
  | cons a t ih => simp [List.foldl_cons, ih, hf]

@[simp] theorem State.foldl_keeps {α : Type} (s : State) (l : List α) (f : State → α → State)
    (hf : ∀ (x : State) (i : α), (f x i).mem = x.mem ∧ (f x i).pending = x.pending ∧ (f x i).life = x.life) :
    (l.foldl f s).mem = s.mem ∧ (l.foldl f s).pending = s.pending ∧ (l.foldl f s).life = s.life := State.each_keeps s l f hf

/-- What a write to stack memory does beside it: the queue and the lifetime stay, and so does the canonical form. -/
structure Writes (s t : State) : Prop where
  pending : t.pending = s.pending
  life : t.life = s.life
  wf : Memory.wf s.mem = true → Memory.wf t.mem = true

theorem Writes.refl (s : State) : Writes s s := ⟨rfl, rfl, id⟩

theorem Writes.trans {s t u : State} (h : Writes s t) (g : Writes t u) : Writes s u :=
  ⟨g.pending.trans h.pending, g.life.trans h.life, fun w => g.wf (h.wf w)⟩

/-- An operation that leaves memory, queue and lifetime is one. -/
theorem Writes.of_keeps {s t : State} (h : t.mem = s.mem ∧ t.pending = s.pending ∧ t.life = s.life) : Writes s t :=
  ⟨h.2.1, h.2.2, fun w => by rw [h.1]; exact w⟩

/-- Memory that is emptied is canonical. -/
theorem Writes.of_empty {s t : State} (hm : t.mem = []) (hp : t.pending = s.pending) (hl : t.life = s.life) : Writes s t :=
  ⟨hp, hl, fun _ => by rw [hm]; rfl⟩

theorem Writes.foldl {α : Type} (f : State → α → State) (hf : ∀ x i, Writes x (f x i)) (l : List α) (s : State) :
    Writes s (l.foldl f s) := by
  induction l generalizing s with
  | nil => exact .refl s
  | cons a t ih => exact (hf s a).trans (ih _)

theorem Writes.each {α : Type} (f : State → α → State) (hf : ∀ x i, Writes x (f x i)) (l : List α) (s : State) :
    Writes s (s.each l f) := Writes.foldl f hf l s

theorem putBytes_wf (m : List Host.Cell) (a : Nat) (bs : List Byte) (h : Memory.wf m = true) : Memory.wf (putBytes m a bs) = true := by
  induction bs generalizing m a with
  | nil => exact h
  | cons b bs ih => exact ih _ _ (Tab.put_wf 0 m a b h)

theorem State.modStack_keeps3 (s : State) (i : Nat) (f : Stack → Stack) :
    (s.modStack i f).mem = s.mem ∧ (s.modStack i f).pending = s.pending ∧ (s.modStack i f).life = s.life := ⟨rfl, rfl, rfl⟩

theorem State.modHob_keeps3 (s : State) (i : Nat) (f : Hob → Hob) :
    (s.modHob i f).mem = s.mem ∧ (s.modHob i f).pending = s.pending ∧ (s.modHob i f).life = s.life := ⟨rfl, rfl, rfl⟩

theorem State.emit_keeps3 (s : State) (o : Out) :
    (s.emit o).mem = s.mem ∧ (s.emit o).pending = s.pending ∧ (s.emit o).life = s.life := ⟨rfl, rfl, rfl⟩

/-- A walk that carries a state beside other data leaves what each of its steps leaves. -/
theorem foldl_keeps_of {α σ : Type} (p : σ → State) (f : σ → α → σ)
    (hf : ∀ x i, (p (f x i)).mem = (p x).mem ∧ (p (f x i)).pending = (p x).pending ∧ (p (f x i)).life = (p x).life) (l : List α)
    (a : σ) : (p (l.foldl f a)).mem = (p a).mem ∧ (p (l.foldl f a)).pending = (p a).pending ∧ (p (l.foldl f a)).life = (p a).life := by
  induction l generalizing a with
  | nil => exact ⟨rfl, rfl, rfl⟩
  | cons i l ih => simp only [List.foldl_cons, ih, hf, and_self]

theorem State.modCell_keeps3 (s : State) (i : Nat) (f : Cell → Cell) :
    (s.modCell i f).mem = s.mem ∧ (s.modCell i f).pending = s.pending ∧ (s.modCell i f).life = s.life := ⟨rfl, rfl, rfl⟩

@[simp] theorem State.sealLog_keeps (s : State) :
    (State.sealLog s).mem = s.mem ∧ (State.sealLog s).pending = s.pending ∧ (State.sealLog s).life = s.life := by
  simp [State.sealLog]

@[simp] theorem State.logAdd_keeps (s : State) (r : LogRec) :
    (State.logAdd s r).mem = s.mem ∧ (State.logAdd s r).pending = s.pending ∧ (State.logAdd s r).life = s.life := by
  simp [State.logAdd]

@[simp] theorem State.logDev_keeps (s : State) (code : Nat) (hob : Nat) (args : List Nat) :
    (State.logDev s code hob args).mem = s.mem ∧ (State.logDev s code hob args).pending = s.pending ∧ (State.logDev s code hob args).life = s.life := by
  simp [State.logDev]

@[simp] theorem State.priv_keeps (s : State) (who : Who) (allowed : List Role) (code hob : Nat) (args : List Nat) (refuse : Nat) (act : State → State) (hact : ∀ x : State, (act x).mem = x.mem ∧ (act x).pending = x.pending ∧ (act x).life = x.life) :
    (State.priv s who allowed code hob args refuse act).mem = s.mem ∧ (State.priv s who allowed code hob args refuse act).pending = s.pending ∧ (State.priv s who allowed code hob args refuse act).life = s.life := by
  simp [State.priv]
  repeat' (first | split | apply And.intro)
  all_goals simp_all

@[simp] theorem State.interruptMsg_keeps (s : State) (p f v : Nat) :
    (State.interruptMsg s p f v).mem = s.mem ∧ (State.interruptMsg s p f v).pending = s.pending ∧ (State.interruptMsg s p f v).life = s.life := by
  simp [State.interruptMsg]

@[simp] theorem State.signal_keeps (s : State) (p f r : Nat) :
    (State.signal s p f r).mem = s.mem ∧ (State.signal s p f r).pending = s.pending ∧ (State.signal s p f r).life = s.life := by
  simp [State.signal]

@[simp] theorem State.record_keeps (s : State) (p f r : Nat) (tag : W32) (status op detail info0 info1 : Nat) (noirq : Bool) :
    (State.record s p f r tag status op detail info0 info1 noirq).mem = s.mem ∧ (State.record s p f r tag status op detail info0 info1 noirq).pending = s.pending ∧ (State.record s p f r tag status op detail info0 info1 noirq).life = s.life := by
  simp [State.record]

@[simp] theorem State.complete_keeps (s : State) (ref : CmdRef) (op status detail info0 info1 : Nat) :
    (State.complete s ref op status detail info0 info1).mem = s.mem ∧ (State.complete s ref op status detail info0 info1).pending = s.pending ∧ (State.complete s ref op status detail info0 info1).life = s.life := by
  simp [State.complete]

@[simp] theorem State.recordEach_keeps (s : State) (ref : CmdRef) (info0 info1 : Nat) :
    (State.recordEach s ref info0 info1).mem = s.mem ∧ (State.recordEach s ref info0 info1).pending = s.pending ∧ (State.recordEach s ref info0 info1).life = s.life := by
  simp [State.recordEach]

@[simp] theorem State.postOwed_keeps (s : State) (p f r : Nat) :
    (State.postOwed s p f r).mem = s.mem ∧ (State.postOwed s p f r).pending = s.pending ∧ (State.postOwed s p f r).life = s.life := by
  simp [State.postOwed]

@[simp] theorem State.eventOn_keeps (s : State) (p f r status detail info0 info1 : Nat) :
    (State.eventOn s p f r status detail info0 info1).2.mem = s.mem ∧ (State.eventOn s p f r status detail info0 info1).2.pending = s.pending ∧ (State.eventOn s p f r status detail info0 info1).2.life = s.life := by
  simp [State.eventOn]
  repeat' (first | split | apply And.intro)
  all_goals simp_all

@[simp] theorem State.eventOrLose_keeps (s : State) (p f r status detail info0 info1 : Nat) :
    (State.eventOrLose s p f r status detail info0 info1).mem = s.mem ∧ (State.eventOrLose s p f r status detail info0 info1).pending = s.pending ∧ (State.eventOrLose s p f r status detail info0 info1).life = s.life := by
  simp [State.eventOrLose]

@[simp] theorem State.hobEvent_keeps (s : State) (h status detail info1 : Nat) :
    (State.hobEvent s h status detail info1).mem = s.mem ∧ (State.hobEvent s h status detail info1).pending = s.pending ∧ (State.hobEvent s h status detail info1).life = s.life := by
  simp [State.hobEvent]

@[simp] theorem State.devEvent_keeps (s : State) (status detail info1 : Nat) :
    (State.devEvent s status detail info1).mem = s.mem ∧ (State.devEvent s status detail info1).pending = s.pending ∧ (State.devEvent s status detail info1).life = s.life := by
  simp [State.devEvent]

@[simp] theorem State.startVfRings_keeps (s : State) :
    (State.startVfRings s).mem = s.mem ∧ (State.startVfRings s).pending = s.pending ∧ (State.startVfRings s).life = s.life := by
  unfold State.startVfRings
  refine State.each_keeps _ _ _ fun x p => State.each_keeps _ _ _ fun x f => State.each_keeps _ _ _ fun x r => ?_
  dsimp only
  split <;> simp

@[simp] theorem State.portEvent_keeps (s : State) (p status detail : Nat) :
    (State.portEvent s p status detail).mem = s.mem ∧ (State.portEvent s p status detail).pending = s.pending ∧ (State.portEvent s p status detail).life = s.life := by
  unfold State.portEvent
  exact State.each_keeps _ _ _ fun x f => State.each_keeps _ _ _ fun x r => by simp

@[simp] theorem State.setDev_keeps (s : State) (d : DevState) :
    (State.setDev s d).mem = s.mem ∧ (State.setDev s d).pending = s.pending ∧ (State.setDev s d).life = s.life := by
  unfold State.setDev
  dsimp only
  split
  · simp
  · split <;> simp

@[simp] theorem State.avlStart_keeps (s : State) (part key : Nat) :
    (State.avlStart s part key).mem = s.mem ∧ (State.avlStart s part key).pending = s.pending ∧ (State.avlStart s part key).life = s.life := by
  simp [State.avlStart]

@[simp] theorem State.avlStop_keeps (s : State) (part key : Nat) :
    (State.avlStop s part key).mem = s.mem ∧ (State.avlStop s part key).pending = s.pending ∧ (State.avlStop s part key).life = s.life := by
  simp [State.avlStop]

@[simp] theorem State.interrupt_keeps (s : State) :
    (State.interrupt s).mem = s.mem ∧ (State.interrupt s).pending = s.pending ∧ (State.interrupt s).life = s.life := by
  simp [State.interrupt]

@[simp] theorem State.holdFor_keeps (s : State) (h cause : Nat) :
    (State.holdFor s h cause).mem = s.mem ∧ (State.holdFor s h cause).pending = s.pending ∧ (State.holdFor s h cause).life = s.life := by
  simp [State.holdFor]

@[simp] theorem State.holdNow_keeps (s : State) (h cause : Nat) :
    (State.holdNow s h cause).mem = s.mem ∧ (State.holdNow s h cause).pending = s.pending ∧ (State.holdNow s h cause).life = s.life := by
  simp [State.holdNow]

@[simp] theorem State.endHold_keeps (s : State) (h cause : Nat) :
    (State.endHold s h cause).mem = s.mem ∧ (State.endHold s h cause).pending = s.pending ∧ (State.endHold s h cause).life = s.life := by
  simp [State.endHold]

@[simp] theorem State.lid_keeps (s : State) (p : Nat) (test : Bool) :
    (State.lid s p test).mem = s.mem ∧ (State.lid s p test).pending = s.pending ∧ (State.lid s p test).life = s.life := by
  simp [State.lid]
  repeat' (first | split | apply And.intro)
  all_goals simp_all

@[simp] theorem State.beginReset_keeps (s : State) (dom idx why : Nat) :
    (State.beginReset s dom idx why).mem = s.mem ∧ (State.beginReset s dom idx why).pending = s.pending ∧ (State.beginReset s dom idx why).life = s.life := by
  simp [State.beginReset]

@[simp] theorem State.finishReset_keeps (s : State) (dom idx : Nat) :
    (State.finishReset s dom idx).mem = s.mem ∧ (State.finishReset s dom idx).pending = s.pending ∧ (State.finishReset s dom idx).life = s.life := by
  simp [State.finishReset]

@[simp] theorem State.setHobSt_keeps (s : State) (h : Nat) (st : HobState) :
    (State.setHobSt s h st).mem = s.mem ∧ (State.setHobSt s h st).pending = s.pending ∧ (State.setHobSt s h st).life = s.life := by
  simp [State.setHobSt]

@[simp] theorem State.setOver_keeps (s : State) (h : Nat) (above : Bool) :
    (State.setOver s h above).mem = s.mem ∧ (State.setOver s h above).pending = s.pending ∧ (State.setOver s h above).life = s.life := by
  simp [State.setOver]

@[simp] theorem State.modCells_keeps (s : State) (h : Nat) (f : Cell → Cell) :
    (State.modCells s h f).mem = s.mem ∧ (State.modCells s h f).pending = s.pending ∧ (State.modCells s h f).life = s.life := by
  simp [State.modCells]

@[simp] theorem State.failWaits_keeps (s : State) (h : Nat) :
    (State.failWaits s h).mem = s.mem ∧ (State.failWaits s h).pending = s.pending ∧ (State.failWaits s h).life = s.life := by
  simp [State.failWaits]

@[simp] theorem State.endRun_keeps (s : State) (h status detail info0 info1 : Nat) :
    (State.endRun s h status detail info0 info1).mem = s.mem ∧ (State.endRun s h status detail info0 info1).pending = s.pending ∧ (State.endRun s h status detail info0 info1).life = s.life := by
  simp [State.endRun]

@[simp] theorem State.stopHob_keeps (s : State) (h status detail info0 info1 : Nat) :
    (State.stopHob s h status detail info0 info1).mem = s.mem ∧ (State.stopHob s h status detail info0 info1).pending = s.pending ∧ (State.stopHob s h status detail info0 info1).life = s.life := by
  simp [State.stopHob]

@[simp] theorem State.nextReport_keeps (s : State) :
    (State.nextReport s).2.mem = s.mem ∧ (State.nextReport s).2.pending = s.pending ∧ (State.nextReport s).2.life = s.life := by
  simp [State.nextReport]

@[simp] theorem State.report_keeps (s : State) (h status seq : Nat) (bytes : List Byte) :
    (State.report s h status seq bytes).mem = s.mem ∧ (State.report s h status seq bytes).pending = s.pending ∧ (State.report s h status seq bytes).life = s.life := by
  simp [State.report]

@[simp] theorem State.eccReport_keeps (s : State) (h : Nat) (lines : List EccLine) :
    (State.eccReport s h lines).mem = s.mem ∧ (State.eccReport s h lines).pending = s.pending ∧ (State.eccReport s h lines).life = s.life := by
  simp [State.eccReport]

@[simp] theorem State.setRdrs_keeps (s : State) (t : Tab Rdr) :
    (State.setRdrs s t).mem = s.mem ∧ (State.setRdrs s t).pending = s.pending ∧ (State.setRdrs s t).life = s.life := by
  simp [State.setRdrs]

theorem State.putLine_writes (s : State) (key dev : Nat) (data : List Byte) (poison : Bool) :
    Writes s (s.putLine key dev data poison) := ⟨rfl, rfl, fun w => putBytes_wf _ _ _ w⟩

theorem State.putLines_writes (s : State) (key dev : Nat) (data : List Byte) (poisoned : Nat → Bool) :
    Writes s (s.putLines key dev data poisoned) := Writes.each _ (fun x _ => x.putLine_writes _ _ _ _) _ s

theorem State.zeroRange_writes (s : State) (dev len : Nat) : Writes s (s.zeroRange dev len) :=
  ⟨rfl, rfl, fun w => Tab.filter_wf _ _ _ w⟩

@[simp] theorem State.relight_keeps (s : State) (p : Nat) :
    (State.relight s p).mem = s.mem ∧ (State.relight s p).pending = s.pending ∧ (State.relight s p).life = s.life := by
  simp [State.relight]

@[simp] theorem State.endServe_keeps (s : State) (f : Frame) :
    (State.endServe s f).mem = s.mem ∧ (State.endServe s f).pending = s.pending ∧ (State.endServe s f).life = s.life := by
  simp [State.endServe]
  repeat' (first | split | apply And.intro)
  all_goals simp_all

@[simp] theorem State.sendPacket_keeps (s : State) (via : Nat) (f : Frame) :
    (State.sendPacket s via f).mem = s.mem ∧ (State.sendPacket s via f).pending = s.pending ∧ (State.sendPacket s via f).life = s.life := by
  simp [State.sendPacket]
  repeat' (first | split | apply And.intro)
  all_goals simp_all

@[simp] theorem State.endPeriod_keeps (s : State) (h : Nat) :
    (State.endPeriod s h).mem = s.mem ∧ (State.endPeriod s h).pending = s.pending ∧ (State.endPeriod s h).life = s.life := by
  simp [State.endPeriod]

@[simp] theorem State.stallTick_keeps (s : State) (h : Nat) :
    (State.stallTick s h).mem = s.mem ∧ (State.stallTick s h).pending = s.pending ∧ (State.stallTick s h).life = s.life := by
  simp [State.stallTick]

@[simp] theorem State.meter_keeps (s : State) (p : Nat) (rs : List GranRead) :
    (State.meter s p rs).mem = s.mem ∧ (State.meter s p rs).pending = s.pending ∧ (State.meter s p rs).life = s.life := by
  simp [State.meter]

@[simp] theorem State.afterIssue_keeps (s : State) (h n p cyc : Nat) (x : Issue) :
    (State.afterIssue s h n p cyc x).mem = s.mem ∧ (State.afterIssue s h n p cyc x).pending = s.pending ∧ (State.afterIssue s h n p cyc x).life = s.life := by
  simp [State.afterIssue]
  repeat' (first | split | apply And.intro)
  all_goals simp_all

@[simp] theorem State.faultOf_keeps (s : State) (h n f : Nat) :
    (State.faultOf s h n f).mem = s.mem ∧ (State.faultOf s h n f).pending = s.pending ∧ (State.faultOf s h n f).life = s.life := by
  simp [State.faultOf]

@[simp] theorem State.failStep_keeps (s : State) (h f : Nat) (e : End) :
    (State.failStep s h f e).mem = s.mem ∧ (State.failStep s h f e).pending = s.pending ∧ (State.failStep s h f e).life = s.life := by
  simp [State.failStep]

@[simp] theorem State.schedViolation_keeps (s : State) (h n period f : Nat) :
    (State.schedViolation s h n period f).mem = s.mem ∧ (State.schedViolation s h n period f).pending = s.pending ∧ (State.schedViolation s h n period f).life = s.life := by
  simp [State.schedViolation]

@[simp] theorem State.wireHistory_keeps (s : State) (x y : Nat) (out : Dir) (wires : List Nat) :
    (State.wireHistory s x y out wires).mem = s.mem ∧ (State.wireHistory s x y out wires).pending = s.pending ∧ (State.wireHistory s x y out wires).life = s.life := by
  simp [State.wireHistory]

@[simp] theorem State.parityFault_keeps (s : State) (h n x y : Nat) (out : Dir) (wires : List Nat) :
    (State.parityFault s h n x y out wires).mem = s.mem ∧ (State.parityFault s h n x y out wires).pending = s.pending ∧ (State.parityFault s h n x y out wires).life = s.life := by
  simp [State.parityFault]

@[simp] theorem State.edgeFlit_keeps (s : State) (h k : Nat) (f : Flit) :
    (State.edgeFlit s h k f).mem = s.mem ∧ (State.edgeFlit s h k f).pending = s.pending ∧ (State.edgeFlit s h k f).life = s.life := by
  simp [State.edgeFlit]
  repeat' (first | split | apply And.intro)
  all_goals simp_all

@[simp] theorem State.sendStatic_keeps (s : State) (h n x y cyc : Nat) (out : Dir) (f : Flit) (flipped : List Nat) :
    (State.sendStatic s h n x y cyc out f flipped).mem = s.mem ∧ (State.sendStatic s h n x y cyc out f flipped).pending = s.pending ∧ (State.sendStatic s h n x y cyc out f flipped).life = s.life := by
  simp [State.sendStatic]
  repeat' (first | split | apply And.intro)
  all_goals simp_all

@[simp] theorem State.refill_keeps (s : State) (h n : Nat) :
    (State.refill s h n).mem = s.mem ∧ (State.refill s h n).pending = s.pending ∧ (State.refill s h n).life = s.life := by
  simp [State.refill]

@[simp] theorem State.crossRim_keeps (s : State) (x y : Nat) :
    (State.crossRim s x y).mem = s.mem ∧ (State.crossRim s x y).pending = s.pending ∧ (State.crossRim s x y).life = s.life := by
  unfold State.crossRim
  refine State.foldl_keeps _ _ _ fun x i => ?_
  split
  · exact ⟨rfl, rfl, rfl⟩
  · dsimp only
    split <;> exact ⟨rfl, rfl, rfl⟩

@[simp] theorem State.enterEdge_keeps (s : State) (x y : Nat) :
    (State.enterEdge s x y).mem = s.mem ∧ (State.enterEdge s x y).pending = s.pending ∧ (State.enterEdge s x y).life = s.life := by
  simp [State.enterEdge]

@[simp] theorem State.inject_keeps (s : State) (h n : Nat) (fs : List DynFlit) :
    (State.inject s h n fs).mem = s.mem ∧ (State.inject s h n fs).pending = s.pending ∧ (State.inject s h n fs).life = s.life := by
  simp [State.inject]

@[simp] theorem State.replyOut_keeps (s : State) (key status st gen : Nat) :
    (State.replyOut s key status st gen).mem = s.mem ∧ (State.replyOut s key status st gen).pending = s.pending ∧ (State.replyOut s key status st gen).life = s.life := by
  simp [State.replyOut]
  repeat' (first | split | apply And.intro)
  all_goals simp_all

@[simp] theorem State.deliver_keeps (s : State) (h n : Nat) (f : Flit) :
    (State.deliver s h n f).mem = s.mem ∧ (State.deliver s h n f).pending = s.pending ∧ (State.deliver s h n f).life = s.life := by
  simp [State.deliver]
  repeat' (first | split | apply And.intro)
  all_goals simp_all

@[simp] theorem State.sendDyn_keeps (s : State) (p x y : Nat) (out : Dir) (f : DynFlit) (flipped : List Nat) :
    (State.sendDyn s p x y out f flipped).mem = s.mem ∧ (State.sendDyn s p x y out f flipped).pending = s.pending ∧ (State.sendDyn s p x y out f flipped).life = s.life := by
  simp [State.sendDyn]
  repeat' (first | split | apply And.intro)
  all_goals simp_all

@[simp] theorem State.freeSlot_keeps (s : State) (p : Nat) (out : Dir) (vc : Nat) (flipped : List Nat) :
    (State.freeSlot s p out vc flipped).mem = s.mem ∧ (State.freeSlot s p out vc flipped).pending = s.pending ∧ (State.freeSlot s p out vc flipped).life = s.life := by
  simp [State.freeSlot]
  repeat' (first | split | apply And.intro)
  all_goals simp_all

@[simp] theorem State.reply_keeps (s : State) (h n : Nat) (o : Origin) (tag status st gen : Nat) :
    (State.reply s h n o tag status st gen).mem = s.mem ∧ (State.reply s h n o tag status st gen).pending = s.pending ∧ (State.reply s h n o tag status st gen).life = s.life := by
  simp [State.reply]

@[simp] theorem State.fromRimTo_keeps (s : State) (x y client : Nat) (vc : Nat) (fs : List Flit) :
    (State.fromRimTo s x y client vc fs).mem = s.mem ∧ (State.fromRimTo s x y client vc fs).pending = s.pending ∧ (State.fromRimTo s x y client vc fs).life = s.life := by
  simp [State.fromRimTo]

@[simp] theorem State.fromRim_keeps (s : State) (h n client : Nat) (vc : Nat) (fs : List Flit) :
    (State.fromRim s h n client vc fs).mem = s.mem ∧ (State.fromRim s h n client vc fs).pending = s.pending ∧ (State.fromRim s h n client vc fs).life = s.life := by
  simp [State.fromRim]

@[simp] theorem State.dropLandings_keeps (s : State) (h n : Nat) :
    (State.dropLandings s h n).mem = s.mem ∧ (State.dropLandings s h n).pending = s.pending ∧ (State.dropLandings s h n).life = s.life := by
  simp [State.dropLandings]

@[simp] theorem State.sendRequest_keeps (s : State) (t : Txn) :
    (State.sendRequest s t).mem = s.mem ∧ (State.sendRequest s t).pending = s.pending ∧ (State.sendRequest s t).life = s.life := by
  simp [State.sendRequest]

@[simp] theorem State.addTxn_keeps (s : State) (t : Txn) :
    (State.addTxn s t).mem = s.mem ∧ (State.addTxn s t).pending = s.pending ∧ (State.addTxn s t).life = s.life := by
  simp [State.addTxn]

@[simp] theorem State.modTxn_keeps (s : State) (id : Nat) (f : Txn → Txn) :
    (State.modTxn s id f).mem = s.mem ∧ (State.modTxn s id f).pending = s.pending ∧ (State.modTxn s id f).life = s.life := by
  simp [State.modTxn]

@[simp] theorem State.dropTxn_keeps (s : State) (id : Nat) :
    (State.dropTxn s id).mem = s.mem ∧ (State.dropTxn s id).pending = s.pending ∧ (State.dropTxn s id).life = s.life := by
  simp [State.dropTxn]

@[simp] theorem State.breach_keeps (s : State) (h status cell info : Nat) :
    (State.breach s h status cell info).mem = s.mem ∧ (State.breach s h status cell info).pending = s.pending ∧ (State.breach s h status cell info).life = s.life := by
  simp [State.breach]

@[simp] theorem State.breachAt_keeps (s : State) (h : Nat) (e : End) :
    (State.breachAt s h e).mem = s.mem ∧ (State.breachAt s h e).pending = s.pending ∧ (State.breachAt s h e).life = s.life := by
  simp [State.breachAt]

@[simp] theorem State.refuseAddr_keeps (s : State) (dev : Nat) :
    (State.refuseAddr s dev).mem = s.mem ∧ (State.refuseAddr s dev).pending = s.pending ∧ (State.refuseAddr s dev).life = s.life := by
  simp [State.refuseAddr]

@[simp] theorem State.issueBlock_keeps (s : State) (hn : Nat) (x : Crossing) (rep : Nat) (b : Nat) :
    (State.issueBlock s hn x rep b).mem = s.mem ∧ (State.issueBlock s hn x rep b).pending = s.pending ∧ (State.issueBlock s hn x rep b).life = s.life := by
  simp [State.issueBlock]
  repeat' (first | split | apply And.intro)
  all_goals simp_all

@[simp] theorem State.settleWaits_keeps (s : State) (hn : Nat) :
    (State.settleWaits s hn).mem = s.mem ∧ (State.settleWaits s hn).pending = s.pending ∧ (State.settleWaits s hn).life = s.life := by
  simp [State.settleWaits]

@[simp] theorem State.noteCredit_keeps (s : State) (h : Nat) (x : Crossing) :
    (State.noteCredit s h x).mem = s.mem ∧ (State.noteCredit s h x).pending = s.pending ∧ (State.noteCredit s h x).life = s.life := by
  simp [State.noteCredit]

@[simp] theorem State.dropShadows_keeps (s : State) (h : Nat) :
    (State.dropShadows s h).mem = s.mem ∧ (State.dropShadows s h).pending = s.pending ∧ (State.dropShadows s h).life = s.life := by
  simp [State.dropShadows]

@[simp] theorem State.cancelCapture_keeps (s : State) (h : Nat) :
    (State.cancelCapture s h).mem = s.mem ∧ (State.cancelCapture s h).pending = s.pending ∧ (State.cancelCapture s h).life = s.life := by
  simp [State.cancelCapture]

@[simp] theorem State.rewind_keeps (s : State) (h : Nat) (clear : Bool) :
    (State.rewind s h clear).mem = s.mem ∧ (State.rewind s h clear).pending = s.pending ∧ (State.rewind s h clear).life = s.life := by
  simp [State.rewind]

@[simp] theorem State.touchStack_keeps (s : State) (stack : Nat) :
    (State.touchStack s stack).mem = s.mem ∧ (State.touchStack s stack).pending = s.pending ∧ (State.touchStack s stack).life = s.life := by
  simp [State.touchStack]

@[simp] theorem State.strike_keeps (s : State) (dev symbols : Nat) :
    (State.strike s dev symbols).mem = s.mem ∧ (State.strike s dev symbols).pending = s.pending ∧ (State.strike s dev symbols).life = s.life := by
  simp [State.strike]

@[simp] theorem State.readLine_keeps (s : State) (dev : Nat) :
    (State.readLine s dev).2.mem = s.mem ∧ (State.readLine s dev).2.pending = s.pending ∧ (State.readLine s dev).2.life = s.life := by
  simp [State.readLine]
  repeat' (first | split | apply And.intro)
  all_goals simp_all

@[simp] theorem State.readLines_keeps (s : State) (key dev n : Nat) :
    (State.readLines s key dev n).2.2.2.mem = s.mem ∧ (State.readLines s key dev n).2.2.2.pending = s.pending ∧ (State.readLines s key dev n).2.2.2.life = s.life := by
  unfold State.readLines
  refine foldl_keeps_of (fun x : List Nat × List Nat × List Byte × State => x.2.2.2) _ (fun x i => ?_) _ ([], [], [], s)
  simp

@[simp] theorem State.fillBlock_keeps (s : State) (h p slot base block : Nat) :
    (State.fillBlock s h p slot base block).2.mem = s.mem ∧ (State.fillBlock s h p slot base block).2.pending = s.pending ∧ (State.fillBlock s h p slot base block).2.life = s.life := by
  simp [State.fillBlock]
  repeat' (first | split | apply And.intro)
  all_goals simp_all

@[simp] theorem State.fillSlot_keeps (s : State) (h n slot : Nat) :
    (State.fillSlot s h n slot).mem = s.mem ∧ (State.fillSlot s h n slot).pending = s.pending ∧ (State.fillSlot s h n slot).life = s.life := by
  unfold State.fillSlot
  have key := fun (p k : Nat) (l : List Nat) => foldl_keeps_of (fun x : List Nat × State => x.2)
    (fun (x : List Nat × State) (j : Nat) => (x.1 ++ (x.2.fillBlock h p slot k j).1, (x.2.fillBlock h p slot k j).2))
    (fun x i => by simp) l ([], s)
  dsimp only
  split
  · simp
  · split <;> simp [key]

@[simp] theorem State.fillResident_keeps (s : State) (h n : Nat) :
    (State.fillResident s h n).mem = s.mem ∧ (State.fillResident s h n).pending = s.pending ∧ (State.fillResident s h n).life = s.life := by
  simp [State.fillResident]

@[simp] theorem State.stopUncommitted_keeps (s : State) (h : Nat) (e : End) :
    (State.stopUncommitted s h e).mem = s.mem ∧ (State.stopUncommitted s h e).pending = s.pending ∧ (State.stopUncommitted s h e).life = s.life := by
  simp [State.stopUncommitted]

@[simp] theorem State.stopFailed_keeps (s : State) (h : Nat) (e : End) :
    (State.stopFailed s h e).mem = s.mem ∧ (State.stopFailed s h e).pending = s.pending ∧ (State.stopFailed s h e).life = s.life := by
  simp [State.stopFailed]

@[simp] theorem State.tellPeer_keeps (s : State) (h dev kind : Nat) (what : String) (vals : List Nat) :
    (State.tellPeer s h dev kind what vals).mem = s.mem ∧ (State.tellPeer s h dev kind what vals).pending = s.pending ∧ (State.tellPeer s h dev kind what vals).life = s.life := by
  simp [State.tellPeer]

@[simp] theorem State.tellPeers_keeps (s : State) (h kind : Nat) (what : String) (vals : List Nat) :
    (State.tellPeers s h kind what vals).mem = s.mem ∧ (State.tellPeers s h kind what vals).pending = s.pending ∧ (State.tellPeers s h kind what vals).life = s.life := by
  simp [State.tellPeers]

@[simp] theorem State.markRecurred_keeps (s : State) (p code : Nat) :
    (State.markRecurred s p code).mem = s.mem ∧ (State.markRecurred s p code).pending = s.pending ∧ (State.markRecurred s p code).life = s.life := by
  simp [State.markRecurred]

@[simp] theorem State.lidBadLinks_keeps (s : State) (p : Nat) :
    (State.lidBadLinks s p).mem = s.mem ∧ (State.lidBadLinks s p).pending = s.pending ∧ (State.lidBadLinks s p).life = s.life := by
  simp [State.lidBadLinks]

@[simp] theorem State.endHold8_keeps (s : State) (h : Nat) :
    (State.endHold8 s h).mem = s.mem ∧ (State.endHold8 s h).pending = s.pending ∧ (State.endHold8 s h).life = s.life := by
  simp [State.endHold8]

@[simp] theorem State.awaitHearth_keeps (s : State) (h : Nat) :
    (State.awaitHearth s h).mem = s.mem ∧ (State.awaitHearth s h).pending = s.pending ∧ (State.awaitHearth s h).life = s.life := by
  simp [State.awaitHearth]

@[simp] theorem State.replayAt_keeps (s : State) (h status n : Nat) (at_ : Option Nat) :
    (State.replayAt s h status n at_).mem = s.mem ∧ (State.replayAt s h status n at_).pending = s.pending ∧ (State.replayAt s h status n at_).life = s.life := by
  simp [State.replayAt]
  repeat' (first | split | apply And.intro)
  all_goals simp_all

@[simp] theorem State.replay_keeps (s : State) (h status n : Nat) :
    (State.replay s h status n).mem = s.mem ∧ (State.replay s h status n).pending = s.pending ∧ (State.replay s h status n).life = s.life := by
  simp [State.replay]

@[simp] theorem State.nextStepAt_keeps (s : State) (h : Nat) :
    (State.nextStepAt s h).mem = s.mem ∧ (State.nextStepAt s h).pending = s.pending ∧ (State.nextStepAt s h).life = s.life := by
  simp [State.nextStepAt]

@[simp] theorem State.failHead_keeps (s : State) (h : Nat) :
    (State.failHead s h).mem = s.mem ∧ (State.failHead s h).pending = s.pending ∧ (State.failHead s h).life = s.life := by
  simp [State.failHead]
  repeat' (first | split | apply And.intro)
  all_goals simp_all

@[simp] theorem State.stepFault_keeps (s : State) (h : Nat) (e : End) :
    (State.stepFault s h e).mem = s.mem ∧ (State.stepFault s h e).pending = s.pending ∧ (State.stepFault s h e).life = s.life := by
  simp [State.stepFault]

@[simp] theorem State.reachFence_keeps (s : State) (h : Nat) :
    (State.reachFence s h).mem = s.mem ∧ (State.reachFence s h).pending = s.pending ∧ (State.reachFence s h).life = s.life := by
  simp [State.reachFence]

@[simp] theorem State.lateFence_keeps (s : State) (h : Nat) :
    (State.lateFence s h).mem = s.mem ∧ (State.lateFence s h).pending = s.pending ∧ (State.lateFence s h).life = s.life := by
  simp [State.lateFence]

@[simp] theorem State.countStep_keeps (s : State) (h f : Nat) :
    (State.countStep s h f).mem = s.mem ∧ (State.countStep s h f).pending = s.pending ∧ (State.countStep s h f).life = s.life := by
  simp [State.countStep]
  repeat' (first | split | apply And.intro)
  all_goals simp_all

@[simp] theorem State.fenceMet_keeps (s : State) (h f : Nat) :
    (State.fenceMet s h f).mem = s.mem ∧ (State.fenceMet s h f).pending = s.pending ∧ (State.fenceMet s h f).life = s.life := by
  simp [State.fenceMet]

@[simp] theorem State.keepGens_keeps (s : State) (h : Nat) :
    (State.keepGens s h).mem = s.mem ∧ (State.keepGens s h).pending = s.pending ∧ (State.keepGens s h).life = s.life := by
  simp [State.keepGens]

@[simp] theorem State.commitHead_keeps (s : State) (h : Nat) (c : Closing) :
    (State.commitHead s h c).mem = s.mem ∧ (State.commitHead s h c).pending = s.pending ∧ (State.commitHead s h c).life = s.life := by
  simp [State.commitHead]

@[simp] theorem State.stopIfDone_keeps (s : State) (h : Nat) :
    (State.stopIfDone s h).mem = s.mem ∧ (State.stopIfDone s h).pending = s.pending ∧ (State.stopIfDone s h).life = s.life := by
  simp [State.stopIfDone]

@[simp] theorem State.tryCommit_keeps (s : State) (h : Nat) :
    (State.tryCommit s h).mem = s.mem ∧ (State.tryCommit s h).pending = s.pending ∧ (State.tryCommit s h).life = s.life := by
  simp [State.tryCommit]
  repeat' (first | split | apply And.intro)
  all_goals simp_all

@[simp] theorem State.failFence_keeps (s : State) (h f : Nat) (e : End) :
    (State.failFence s h f e).mem = s.mem ∧ (State.failFence s h f e).pending = s.pending ∧ (State.failFence s h f e).life = s.life := by
  simp [State.failFence]

@[simp] theorem State.lostWrite_keeps (s : State) (h f xng : Nat) :
    (State.lostWrite s h f xng).mem = s.mem ∧ (State.lostWrite s h f xng).pending = s.pending ∧ (State.lostWrite s h f xng).life = s.life := by
  simp [State.lostWrite]

@[simp] theorem State.stopForward_keeps (s : State) (h xng block : Nat) :
    (State.stopForward s h xng block).mem = s.mem ∧ (State.stopForward s h xng block).pending = s.pending ∧ (State.stopForward s h xng block).life = s.life := by
  simp [State.stopForward]

@[simp] theorem State.launch_keeps (s : State) (h : Nat) (origin : Origin) (target : Nat) (desc data : List Byte) (bad : List Bool) :
    (State.launch s h origin target desc data bad).mem = s.mem ∧ (State.launch s h origin target desc data bad).pending = s.pending ∧ (State.launch s h origin target desc data bad).life = s.life := by
  simp [State.launch]
  repeat' (first | split | apply And.intro)
  all_goals simp_all

@[simp] theorem State.answer_keeps (s : State) (h n p w : Nat) (m : Msg) (status : Nat) :
    (State.answer s h n p w m status).mem = s.mem ∧ (State.answer s h n p w m status).pending = s.pending ∧ (State.answer s h n p w m status).life = s.life := by
  simp [State.answer]

@[simp] theorem State.finishLanding_keeps (s : State) (h n p : Nat) (l : Landing) (status : Nat) :
    (State.finishLanding s h n p l status).mem = s.mem ∧ (State.finishLanding s h n p l status).pending = s.pending ∧ (State.finishLanding s h n p l status).life = s.life := by
  simp [State.finishLanding]

@[simp] theorem State.settleLandings_keeps (s : State) (h n p : Nat) :
    (State.settleLandings s h n p).mem = s.mem ∧ (State.settleLandings s h n p).pending = s.pending ∧ (State.settleLandings s h n p).life = s.life := by
  unfold State.settleLandings
  refine foldl_keeps_of (fun x : State × List (Nat × Nat) => x.1) _ (fun x l => ?_) _ (s, [])
  repeat' split
  all_goals simp

@[simp] theorem State.unserve_keeps (s : State) (m : Msg) :
    (State.unserve s m).mem = s.mem ∧ (State.unserve s m).pending = s.pending ∧ (State.unserve s m).life = s.life := by
  simp [State.unserve]
  repeat' (first | split | apply And.intro)
  all_goals simp_all

@[simp] theorem State.modSends_keeps (s : State) (h : Nat) (o : Origin) (f : List Send → List Send) :
    (State.modSends s h o f).mem = s.mem ∧ (State.modSends s h o f).pending = s.pending ∧ (State.modSends s h o f).life = s.life := by
  simp [State.modSends]
  repeat' (first | split | apply And.intro)
  all_goals simp_all

@[simp] theorem State.modSend_keeps (s : State) (h : Nat) (o : Origin) (tag : Nat) (f : Send → Send) :
    (State.modSend s h o tag f).mem = s.mem ∧ (State.modSend s h o tag f).pending = s.pending ∧ (State.modSend s h o tag f).life = s.life := by
  simp [State.modSend]

@[simp] theorem State.dropSend_keeps (s : State) (h : Nat) (o : Origin) (tag : Nat) :
    (State.dropSend s h o tag).mem = s.mem ∧ (State.dropSend s h o tag).pending = s.pending ∧ (State.dropSend s h o tag).life = s.life := by
  simp [State.dropSend]

@[simp] theorem State.heldSend_keeps (s : State) (h : Nat) (m : Msg) :
    (State.heldSend s h m).mem = s.mem ∧ (State.heldSend s h m).pending = s.pending ∧ (State.heldSend s h m).life = s.life := by
  simp [State.heldSend]

@[simp] theorem State.landingData_keeps (s : State) (h p : Nat) (l : Landing) (data : List Byte) :
    (State.landingData s h p l data).2.2.mem = s.mem ∧ (State.landingData s h p l data).2.2.pending = s.pending ∧ (State.landingData s h p l data).2.2.life = s.life := by
  unfold State.landingData
  dsimp only
  split
  · refine foldl_keeps_of (fun x : List Byte × List Nat × State => x.2.2) _ (fun x i => ?_) _ ([], [], s)
    split
    · exact ⟨rfl, rfl, rfl⟩
    · split
      · simp
      · dsimp only
        split <;> simp
  · split <;> exact ⟨rfl, rfl, rfl⟩

@[simp] theorem State.endSend_keeps (s : State) (h : Nat) (o : Origin) (q : Send) (status : Nat) :
    (State.endSend s h o q status).mem = s.mem ∧ (State.endSend s h o q status).pending = s.pending ∧ (State.endSend s h o q status).life = s.life := by
  simp [State.endSend]
  repeat' (first | split | apply And.intro)
  all_goals simp_all

@[simp] theorem State.sendFrom_keeps (s : State) (h : Nat) (o : Origin) (desc0 data : List Byte) (ref : Option CmdRef) :
    (State.sendFrom s h o desc0 data ref).mem = s.mem ∧ (State.sendFrom s h o desc0 data ref).pending = s.pending ∧ (State.sendFrom s h o desc0 data ref).life = s.life := by
  simp [State.sendFrom]

@[simp] theorem State.settleCast_keeps (s : State) (h : Nat) (o : Origin) (tag : Nat) :
    (State.settleCast s h o tag).mem = s.mem ∧ (State.settleCast s h o tag).pending = s.pending ∧ (State.settleCast s h o tag).life = s.life := by
  simp [State.settleCast]
  repeat' (first | split | apply And.intro)
  all_goals simp_all

@[simp] theorem State.modBcast_keeps (s : State) (id : Nat) (f : Broadcast → Broadcast) :
    (State.modBcast s id f).mem = s.mem ∧ (State.modBcast s id f).pending = s.pending ∧ (State.modBcast s id f).life = s.life := by
  simp [State.modBcast]

@[simp] theorem State.settleBcast_keeps (s : State) (id : Nat) :
    (State.settleBcast s id).mem = s.mem ∧ (State.settleBcast s id).pending = s.pending ∧ (State.settleBcast s id).life = s.life := by
  simp [State.settleBcast]
  repeat' (first | split | apply And.intro)
  all_goals simp_all

@[simp] theorem State.sendBcast_keeps (s : State) (b : Broadcast) (targets : List Nat) :
    (State.sendBcast s b targets).mem = s.mem ∧ (State.sendBcast s b targets).pending = s.pending ∧ (State.sendBcast s b targets).life = s.life := by
  simp [State.sendBcast]
  repeat' (first | split | apply And.intro)
  all_goals simp_all

@[simp] theorem State.startBcast_keeps (s : State) (h : Option Nat) (targets : List Nat) :
    (State.startBcast s h targets).mem = s.mem ∧ (State.startBcast s h targets).pending = s.pending ∧ (State.startBcast s h targets).life = s.life := by
  simp [State.startBcast]

@[simp] theorem State.seqSend_keeps (s : State) (h p slot : Nat) (a : ActW) :
    (State.seqSend s h p slot a).mem = s.mem ∧ (State.seqSend s h p slot a).pending = s.pending ∧ (State.seqSend s h p slot a).life = s.life := by
  simp [State.seqSend]
  repeat' (first | split | apply And.intro)
  all_goals simp_all

@[simp] theorem State.strikeIn_keeps (s : State) (stack dev symbols : Nat) :
    (State.strikeIn s stack dev symbols).mem = s.mem ∧ (State.strikeIn s stack dev symbols).pending = s.pending ∧ (State.strikeIn s stack dev symbols).life = s.life := by
  simp [State.strikeIn]

theorem State.takeShadow_keeps (s : State) (h stack : Nat) (n : Nat) (t : State) (ht : s.takeShadow h stack = some (n, t)) :
    t.mem = s.mem ∧ t.pending = s.pending ∧ t.life = s.life := by
  unfold State.takeShadow at ht
  dsimp only at ht
  split at ht
  · cases ht
  · split at ht
    · cases ht; simp
    · split at ht
      · cases ht; simp
      · cases ht

theorem State.writeTarget_keeps (s : State) (h dev : Nat) (late : Bool) (n : Nat) (t : State)
    (ht : s.writeTarget h dev late = some (n, t)) : t.mem = s.mem ∧ t.pending = s.pending ∧ t.life = s.life := by
  unfold State.writeTarget at ht
  dsimp only at ht
  split at ht
  · cases ht; simp
  · split at ht
    · cases ht; simp
    · split at ht
      · rename_i h1; cases ht; simpa using State.takeShadow_keeps _ _ _ _ _ h1
      · cases ht

theorem State.storeBlock_writes (s : State) (h a : Nat) (data : List Byte) (bad : Nat → Bool) (late : Bool) (t : State)
    (ht : s.storeBlock h a data bad late = some t) : Writes s t := by
  unfold State.storeBlock at ht
  split at ht
  · cases ht; exact .refl _
  · obtain ⟨⟨n, u⟩, hu, rfl⟩ := Option.map_eq_some_iff.mp ht
    exact (Writes.of_keeps (State.writeTarget_keeps _ _ _ _ _ _ hu)).trans (u.putLines_writes _ _ _ _)

@[simp] theorem State.awaitShadow_keeps (s : State) (t : Txn) (page : Nat) :
    (State.awaitShadow s t page).mem = s.mem ∧ (State.awaitShadow s t page).pending = s.pending ∧ (State.awaitShadow s t page).life = s.life := by
  simp [State.awaitShadow]

@[simp] theorem State.blockCheckFail_keeps (s : State) (h n f xng : Nat) :
    (State.blockCheckFail s h n f xng).mem = s.mem ∧ (State.blockCheckFail s h n f xng).pending = s.pending ∧ (State.blockCheckFail s h n f xng).life = s.life := by
  simp [State.blockCheckFail]

@[simp] theorem State.stopOnStack_keeps (s : State) (stack : Nat) :
    (State.stopOnStack s stack).mem = s.mem ∧ (State.stopOnStack s stack).pending = s.pending ∧ (State.stopOnStack s stack).life = s.life := by
  simp [State.stopOnStack]

theorem State.foldLine_writes (s : State) (from_ base i : Nat) : Writes s (s.foldLine from_ base i) :=
  (Writes.of_keeps (State.readLine_keeps s _)).trans (State.putLine_writes _ _ _ _ _)

theorem State.fold_writes (s : State) (key : Nat) : Writes s (s.fold key) := by
  unfold State.fold
  split
  · exact .refl s
  · dsimp only
    rename_i r _
    have h := Writes.each _ (fun x i => x.foldLine_writes (shadowAddr (key / 2 ^ 21) r.shadow) (key / 2 ^ 21 * 2 ^ 37 + key % 2 ^ 21 * 65536) i)
      ((List.range 1024).filter fun i => bit (i / 64) r.bmask.toNat) s
    refine h.trans (.of_keeps ?_)
    generalize s.each _ _ = t
    simp

@[simp] theorem State.ringError_keeps (s : State) (p f r code : Nat) :
    (State.ringError s p f r code).mem = s.mem ∧ (State.ringError s p f r code).pending = s.pending ∧ (State.ringError s p f r code).life = s.life := by
  simp [State.ringError]

@[simp] theorem State.fetch_keeps (s : State) (p f r : Nat) :
    (State.fetch s p f r).mem = s.mem ∧ (State.fetch s p f r).pending = s.pending ∧ (State.fetch s p f r).life = s.life := by
  simp [State.fetch]

@[simp] theorem State.logRefused_keeps (s : State) (hob op sub result : Nat) :
    (State.logRefused s hob op sub result).mem = s.mem ∧ (State.logRefused s hob op sub result).pending = s.pending ∧ (State.logRefused s hob op sub result).life = s.life := by
  simp [State.logRefused]

@[simp] theorem State.command_keeps (s : State) (ref : CmdRef) (hob op sub : Nat) (args : List Byte → Bool) (body : State → State) (hbody : ∀ x : State, (body x).mem = x.mem ∧ (body x).pending = x.pending ∧ (body x).life = x.life) :
    (State.command s ref hob op sub args body).mem = s.mem ∧ (State.command s ref hob op sub args body).pending = s.pending ∧ (State.command s ref hob op sub args body).life = s.life := by
  simp [State.command]
  repeat' (first | split | apply And.intro)
  all_goals simp_all

@[simp] theorem State.leaveIdle_keeps (s : State) :
    (State.leaveIdle s).mem = s.mem ∧ (State.leaveIdle s).pending = s.pending ∧ (State.leaveIdle s).life = s.life := by
  simp [State.leaveIdle]

@[simp] theorem State.abortPf_keeps (s : State) (h : Nat) :
    (State.abortPf s h).mem = s.mem ∧ (State.abortPf s h).pending = s.pending ∧ (State.abortPf s h).life = s.life := by
  simp [State.abortPf]

@[simp] theorem State.loseHost_keeps (s : State) (h : Nat) :
    (State.loseHost s h).mem = s.mem ∧ (State.loseHost s h).pending = s.pending ∧ (State.loseHost s h).life = s.life := by
  simp [State.loseHost]

@[simp] theorem State.resetFn_keeps (s : State) (p f : Nat) :
    (State.resetFn s p f).mem = s.mem ∧ (State.resetFn s p f).pending = s.pending ∧ (State.resetFn s p f).life = s.life := by
  simp [State.resetFn]

@[simp] theorem State.losePort_keeps (s : State) (p : Nat) :
    (State.losePort s p).mem = s.mem ∧ (State.losePort s p).pending = s.pending ∧ (State.losePort s p).life = s.life := by
  simp [State.losePort]

@[simp] theorem State.startRun_keeps (s : State) (h : Nat) (c : RunCmd) (buf bufLen stg stgLen : Nat) :
    (State.startRun s h c buf bufLen stg stgLen).mem = s.mem ∧ (State.startRun s h c buf bufLen stg stgLen).pending = s.pending ∧ (State.startRun s h c buf bufLen stg stgLen).life = s.life := by
  simp [State.startRun]

@[simp] theorem State.stackRead_keeps (s : State) (h a n : Nat) :
    (State.stackRead s h a n).2.2.mem = s.mem ∧ (State.stackRead s h a n).2.2.pending = s.pending ∧ (State.stackRead s h a n).2.2.life = s.life := by
  unfold State.stackRead
  refine foldl_keeps_of (fun x : List Byte × List Nat × State => x.2.2) _ (fun x i => ?_) _ ([], [], s)
  dsimp only
  split <;> simp

theorem State.storePart_writes (s : State) (h a : Nat) (data : List Byte) (bad : Nat → Bool) (t : State)
    (ht : s.storePart h a data bad = some t) : Writes s t := by
  refine Writes.trans (.of_keeps ?_) (State.storeBlock_writes _ _ _ _ _ _ _ ht)
  refine foldl_keeps_of (fun x : List Byte × List Nat × State => x.2.2) _ (fun x i => ?_) _ ([], [], s)
  dsimp only
  repeat' split
  all_goals first | exact ⟨rfl, rfl, rfl⟩ | exact State.stackRead_keeps _ _ _ _

theorem State.storeRun_writes (s : State) (h a : Nat) (data : List Byte) (bad : Nat → Bool) (t : State)
    (ht : s.storeRun h a data bad = .ok t) : Writes s t := by
  have key : ∀ (l : List Nat) (g : Except Nat State → Nat → Except Nat State),
      (∀ r i u, g r i = .ok u → ∃ x, r = .ok x ∧ Writes x u) → ∀ r u, l.foldl g r = .ok u → ∃ x, r = .ok x ∧ Writes x u := by
    intro l g hg
    induction l with
    | nil => exact fun r u hr => ⟨u, hr, .refl u⟩
    | cons i l ih =>
      intro r u hr
      obtain ⟨x, hx, hxu⟩ := ih _ _ hr
      obtain ⟨y, hy, hyx⟩ := hg _ _ _ hx
      exact ⟨y, hy, hyx.trans hxu⟩
  unfold State.storeRun at ht
  obtain ⟨x, hx, hw⟩ := key _ _ (fun r i u hu => by
    cases r with
    | error e => cases hu
    | ok x =>
      refine ⟨x, rfl, ?_⟩
      simp only [Except.bind] at hu
      split at hu
      · cases hu; exact .refl _
      · split at hu
        · rename_i h1; cases hu; exact State.storePart_writes _ _ _ _ _ _ h1
        · cases hu) _ _ ht
  cases hx
  exact hw

@[simp] theorem State.copyAwaits_keeps (s : State) (h : Nat) (c : Copy) (page : Nat) :
    (State.copyAwaits s h c page).mem = s.mem ∧ (State.copyAwaits s h c page).pending = s.pending ∧ (State.copyAwaits s h c page).life = s.life := by
  simp [State.copyAwaits]

@[simp] theorem State.setPlaces_keeps (s : State) (l : List PlaceRec) (epoch : Nat) :
    (State.setPlaces s l epoch).mem = s.mem ∧ (State.setPlaces s l epoch).pending = s.pending ∧ (State.setPlaces s l epoch).life = s.life := by
  simp [State.setPlaces]

@[simp] theorem State.placeLog_keeps (s : State) (r : PlaceRec) :
    (State.placeLog s r).mem = s.mem ∧ (State.placeLog s r).pending = s.pending ∧ (State.placeLog s r).life = s.life := by
  simp [State.placeLog]

@[simp] theorem State.freeBridge_keeps (s : State) (h n : Nat) :
    (State.freeBridge s h n).mem = s.mem ∧ (State.freeBridge s h n).pending = s.pending ∧ (State.freeBridge s h n).life = s.life := by
  simp [State.freeBridge]

@[simp] theorem State.endFar_keeps (s : State) (h n : Nat) :
    (State.endFar s h n).mem = s.mem ∧ (State.endFar s h n).pending = s.pending ∧ (State.endFar s h n).life = s.life := by
  simp [State.endFar]
  repeat' (first | split | apply And.intro)
  all_goals simp_all

@[simp] theorem State.clearCells_keeps (s : State) (h : Nat) :
    (State.clearCells s h).mem = s.mem ∧ (State.clearCells s h).pending = s.pending ∧ (State.clearCells s h).life = s.life := by
  simp [State.clearCells]

@[simp] theorem State.placeCells_keeps (s : State) (h : Nat) :
    (State.placeCells s h).mem = s.mem ∧ (State.placeCells s h).pending = s.pending ∧ (State.placeCells s h).life = s.life := by
  simp [State.placeCells]

@[simp] theorem State.recheckOver_keeps (s : State) (h : Nat) :
    (State.recheckOver s h).mem = s.mem ∧ (State.recheckOver s h).pending = s.pending ∧ (State.recheckOver s h).life = s.life := by
  simp [State.recheckOver]

@[simp] theorem State.reshape_keeps (s : State) (h : Nat) (sh : Shape) :
    (State.reshape s h sh).mem = s.mem ∧ (State.reshape s h sh).pending = s.pending ∧ (State.reshape s h sh).life = s.life := by
  simp [State.reshape]

@[simp] theorem State.dropExtShadows_keeps (s : State) (dev : Nat) :
    (State.dropExtShadows s dev).mem = s.mem ∧ (State.dropExtShadows s dev).pending = s.pending ∧ (State.dropExtShadows s dev).life = s.life := by
  simp [State.dropExtShadows]

theorem State.resize_writes (s : State) (h stack n : Nat) : Writes s (s.resize h stack n) := by
  unfold State.resize
  dsimp only
  split
  · exact .of_keeps (by simp)
  · refine Writes.trans (Writes.each _ (fun x d => ?_) _ s) (.of_keeps (State.modHob_keeps3 _ _ _))
    exact (Writes.of_keeps (State.touchStack_keeps x _)).trans ((Writes.of_keeps (State.dropExtShadows_keeps _ _)).trans (State.zeroRange_writes _ _ _))

@[simp] theorem State.endPerturb_keeps (s : State) (i : Nat) :
    (State.endPerturb s i).mem = s.mem ∧ (State.endPerturb s i).pending = s.pending ∧ (State.endPerturb s i).life = s.life := by
  simp [State.endPerturb]

@[simp] theorem State.endPerturbs_keeps (s : State) (f : Perturb → Bool) :
    (State.endPerturbs s f).mem = s.mem ∧ (State.endPerturbs s f).pending = s.pending ∧ (State.endPerturbs s f).life = s.life := by
  simp [State.endPerturbs]

@[simp] theorem State.abortCommands_keeps (s : State) (h status : Nat) :
    (State.abortCommands s h status).mem = s.mem ∧ (State.abortCommands s h status).pending = s.pending ∧ (State.abortCommands s h status).life = s.life := by
  simp [State.abortCommands]
  repeat' (first | split | apply And.intro)
  all_goals simp_all

@[simp] theorem State.endWindows_keeps (s : State) (h : Nat) :
    (State.endWindows s h).mem = s.mem ∧ (State.endWindows s h).pending = s.pending ∧ (State.endWindows s h).life = s.life := by
  unfold State.endWindows
  refine State.each_keeps _ _ _ fun x n => ?_
  dsimp only
  simp only [State.modCell_keeps3]
  exact State.foldl_keeps x _ _ fun y w => by split <;> simp

@[simp] theorem State.endAuth_keeps (s : State) (h : Nat) :
    (State.endAuth s h).mem = s.mem ∧ (State.endAuth s h).pending = s.pending ∧ (State.endAuth s h).life = s.life := by
  simp [State.endAuth]

theorem State.freeHob_writes (s : State) (h : Nat) : Writes s (s.freeHob h) := by
  have h1 := Writes.foldl (fun (s : State) (e : Nat × Rdr) => s.zeroRange (shadowAddr (e.1 / 2 ^ 21) e.2.shadow) 65536)
    (fun x _ => x.zeroRange_writes _ _) (s.rdrs.filter fun e => e.2.hob == h) s
  exact h1.trans (.of_keeps (by simp [State.freeHob]))

theorem State.finishRelease_writes (s : State) (h : Nat) : Writes s (s.finishRelease h) := by
  unfold State.finishRelease
  split
  · exact .refl s
  · dsimp only
    refine Writes.trans ?_ (.of_keeps (State.endAuth_keeps _ _))
    have hf : Writes s ((s.modCells h Cell.advanceGens).freeHob h) := (Writes.of_keeps (by simp)).trans (State.freeHob_writes _ h)
    split
    · exact hf.trans (.of_keeps (State.complete_keeps _ _ _ _ _ _ _))
    · exact hf

@[simp] theorem State.program_keeps (s : State) (h : Nat) (r : Recipe) :
    (State.program s h r).mem = s.mem ∧ (State.program s h r).pending = s.pending ∧ (State.program s h r).life = s.life := by
  simp [State.program]

@[simp] theorem State.addHist_keeps (s : State) (p : Nat) (e : Hist) :
    (State.addHist s p e).mem = s.mem ∧ (State.addHist s p e).pending = s.pending ∧ (State.addHist s p e).life = s.life := by
  simp [State.addHist]

@[simp] theorem State.taintHob_keeps (s : State) (h p cause : Nat) :
    (State.taintHob s h p cause).mem = s.mem ∧ (State.taintHob s h p cause).pending = s.pending ∧ (State.taintHob s h p cause).life = s.life := by
  unfold State.taintHob
  dsimp only
  split
  · exact ⟨rfl, rfl, rfl⟩
  · simp

@[simp] theorem State.lateTaint_keeps (s : State) (p cause : Nat) :
    (State.lateTaint s p cause).mem = s.mem ∧ (State.lateTaint s p cause).pending = s.pending ∧ (State.lateTaint s p cause).life = s.life := by
  simp [State.lateTaint]

@[simp] theorem State.setClean_keeps (s : State) (p : Nat) :
    (State.setClean s p).mem = s.mem ∧ (State.setClean s p).pending = s.pending ∧ (State.setClean s p).life = s.life := by
  simp [State.setClean]

@[simp] theorem State.commonCause_keeps (s : State) (q : Nat) :
    (State.commonCause s q).mem = s.mem ∧ (State.commonCause s q).pending = s.pending ∧ (State.commonCause s q).life = s.life := by
  simp [State.commonCause]

@[simp] theorem State.scoreLid_keeps (s : State) (p : Nat) :
    (State.scoreLid s p).mem = s.mem ∧ (State.scoreLid s p).pending = s.pending ∧ (State.scoreLid s p).life = s.life := by
  simp [State.scoreLid]

@[simp] theorem State.charge_keeps (s : State) (p code weight unit : Nat) :
    (State.charge s p code weight unit).mem = s.mem ∧ (State.charge s p code weight unit).pending = s.pending ∧ (State.charge s p code weight unit).life = s.life := by
  simp [State.charge]

@[simp] theorem State.shiftRack_keeps (s : State) (r : Rack) (g : Nat) :
    (State.shiftRack s r g).mem = s.mem ∧ (State.shiftRack s r g).pending = s.pending ∧ (State.shiftRack s r g).life = s.life := by
  simp [State.shiftRack]

@[simp] theorem State.rebuildCell_keeps (s : State) (h n : Nat) :
    (State.rebuildCell s h n).mem = s.mem ∧ (State.rebuildCell s h n).pending = s.pending ∧ (State.rebuildCell s h n).life = s.life := by
  simp [State.rebuildCell]

@[simp] theorem State.rebuild_keeps (s : State) (h n : Nat) (imageOk : Bool) :
    (State.rebuild s h n imageOk).mem = s.mem ∧ (State.rebuild s h n imageOk).pending = s.pending ∧ (State.rebuild s h n imageOk).life = s.life := by
  simp [State.rebuild]

@[simp] theorem State.setMoving_keeps (s : State) (r : Rack) (a b : Nat) (on : Bool) :
    (State.setMoving s r a b on).mem = s.mem ∧ (State.setMoving s r a b on).pending = s.pending ∧ (State.setMoving s r a b on).life = s.life := by
  simp [State.setMoving]

@[simp] theorem State.ownSlots_keeps (s : State) (h n : Nat) (ts : List RtSlot) :
    (State.ownSlots s h n ts).mem = s.mem ∧ (State.ownSlots s h n ts).pending = s.pending ∧ (State.ownSlots s h n ts).life = s.life := by
  simp [State.ownSlots]

@[simp] theorem State.relayOver_keeps (s : State) (r : Rack) (g : Nat) :
    (State.relayOver s r g).2.mem = s.mem ∧ (State.relayOver s r g).2.pending = s.pending ∧ (State.relayOver s r g).2.life = s.life := by
  unfold State.relayOver
  dsimp only
  have h := foldl_keeps_of (fun x : Bool × State => x.2) (fun (a : Bool × State) (b : Nat × Far) =>
    let path := a.2.pathNow b.1 b.2
    let e := 2 * (path.length - 1)
    let ts := a.2.retimed b.1 b.2.n e path
    (a.1 && a.2.retimeFits ts, (a.2.ownSlots b.1 b.2.n ts).modHob b.1 fun z =>
      { z with fars := z.fars.map fun f => if f.n = b.2.n then
        { f with home := ((s.each (s.bridgesIn r) fun s b => s.freeBridge b.1 b.2.n).shiftRack r g).routerPos b.1 f.n, e := e, path := path } else f }))
    (fun x i => by simp) (s.bridgesIn r) (true, (s.each (s.bridgesIn r) fun s b => s.freeBridge b.1 b.2.n).shiftRack r g)
  dsimp only at h
  simp only [h]
  simp

@[simp] theorem State.setGap_keeps (s : State) (r : Rack) (g : Nat) :
    (State.setGap s r g).mem = s.mem ∧ (State.setGap s r g).pending = s.pending ∧ (State.setGap s r g).life = s.life := by
  simp [State.setGap]

@[simp] theorem State.shiftFrom_keeps (s : State) (p : Nat) :
    (State.shiftFrom s p).mem = s.mem ∧ (State.shiftFrom s p).pending = s.pending ∧ (State.shiftFrom s p).life = s.life := by
  simp [State.shiftFrom]

@[simp] theorem State.placeOver_keeps (s : State) (h n : Nat) (c : Cand) (was : Nat) (path : List Nat) :
    (State.placeOver s h n c was path).mem = s.mem ∧ (State.placeOver s h n c was path).pending = s.pending ∧ (State.placeOver s h n c was path).life = s.life := by
  simp [State.placeOver]

@[simp] theorem State.placeFar_keeps (s : State) (h n : Nat) (c : Cand) (was : Nat) :
    (State.placeFar s h n c was).mem = s.mem ∧ (State.placeFar s h n c was).pending = s.pending ∧ (State.placeFar s h n c was).life = s.life := by
  simp [State.placeFar]

@[simp] theorem State.replaceReport_keeps (s : State) (h : Nat) :
    (State.replaceReport s h).mem = s.mem ∧ (State.replaceReport s h).pending = s.pending ∧ (State.replaceReport s h).life = s.life := by
  simp [State.replaceReport]

@[simp] theorem State.holdHomeless_keeps (s : State) (h : Nat) :
    (State.holdHomeless s h).mem = s.mem ∧ (State.holdHomeless s h).pending = s.pending ∧ (State.holdHomeless s h).life = s.life := by
  simp [State.holdHomeless]

@[simp] theorem State.makeHomeless_keeps (s : State) (h n failed reason best : Nat) :
    (State.makeHomeless s h n failed reason best).mem = s.mem ∧ (State.makeHomeless s h n failed reason best).pending = s.pending ∧ (State.makeHomeless s h n failed reason best).life = s.life := by
  simp [State.makeHomeless]

@[simp] theorem State.moveCell_keeps (s : State) (a b : Nat) :
    (State.moveCell s a b).mem = s.mem ∧ (State.moveCell s a b).pending = s.pending ∧ (State.moveCell s a b).life = s.life := by
  simp [State.moveCell]

@[simp] theorem State.replaceFars_keeps (s : State) (h : Nat) (r : Recipe) :
    (State.replaceFars s h r).mem = s.mem ∧ (State.replaceFars s h r).pending = s.pending ∧ (State.replaceFars s h r).life = s.life := by
  unfold State.replaceFars
  have h : ∀ (a b : State) (l : List Nat) (g : State → Nat → State), (a.mem = b.mem ∧ a.pending = b.pending ∧ a.life = b.life) →
      (∀ (x : State) (i : Nat), (g x i).mem = x.mem ∧ (g x i).pending = x.pending ∧ (g x i).life = x.life) →
      (a.each l g).mem = b.mem ∧ (a.each l g).pending = b.pending ∧ (a.each l g).life = b.life := by
    intro a b l g hab hg
    have := State.each_keeps a l g hg
    simp only [this, hab, and_self]
  refine h _ _ _ _ (by simp) fun x n => ?_
  dsimp only
  repeat' split
  all_goals simp

@[simp] theorem State.condShifts_keeps (s : State) (h : Nat) (r : Recipe) :
    (State.condShifts s h r).mem = s.mem ∧ (State.condShifts s h r).pending = s.pending ∧ (State.condShifts s h r).life = s.life := by
  unfold State.condShifts
  refine State.each_keeps _ _ _ fun x i => ?_
  dsimp only
  repeat' split
  all_goals simp

@[simp] theorem State.drawGap_keeps (s : State) (p : Nat) :
    (State.drawGap s p).2.mem = s.mem ∧ (State.drawGap s p).2.pending = s.pending ∧ (State.drawGap s p).2.life = s.life := by
  simp [State.drawGap]

@[simp] theorem State.startCell_keeps (s : State) (h n : Nat) :
    (State.startCell s h n).mem = s.mem ∧ (State.startCell s h n).pending = s.pending ∧ (State.startCell s h n).life = s.life := by
  simp [State.startCell]

@[simp] theorem State.loadImage_keeps (s : State) (ref : CmdRef) (h : Nat) (r : Recipe) :
    (State.loadImage s ref h r).mem = s.mem ∧ (State.loadImage s ref h r).pending = s.pending ∧ (State.loadImage s ref h r).life = s.life := by
  simp [State.loadImage]

@[simp] theorem State.setOutcome_keeps (s : State) (p code out : Nat) :
    (State.setOutcome s p code out).mem = s.mem ∧ (State.setOutcome s p code out).pending = s.pending ∧ (State.setOutcome s p code out).life = s.life := by
  simp [State.setOutcome]

@[simp] theorem State.settlePermanent_keeps (s : State) (p : Nat) :
    (State.settlePermanent s p).mem = s.mem ∧ (State.settlePermanent s p).pending = s.pending ∧ (State.settlePermanent s p).life = s.life := by
  simp [State.settlePermanent]

@[simp] theorem State.chargeInjected_keeps (s : State) (p code unit : Nat) :
    (State.chargeInjected s p code unit).mem = s.mem ∧ (State.chargeInjected s p code unit).pending = s.pending ∧ (State.chargeInjected s p code unit).life = s.life := by
  simp [State.chargeInjected]

@[simp] theorem State.endDecant_keeps (s : State) (h : Nat) :
    (State.endDecant s h).mem = s.mem ∧ (State.endDecant s h).pending = s.pending ∧ (State.endDecant s h).life = s.life := by
  simp [State.endDecant]

@[simp] theorem State.returnHome_keeps (s : State) (h : Nat) :
    (State.returnHome s h).mem = s.mem ∧ (State.returnHome s h).pending = s.pending ∧ (State.returnHome s h).life = s.life := by
  unfold State.returnHome
  refine State.each_keeps _ _ _ fun x i => ?_
  dsimp only
  split
  · rename_i u hu
    have hx : u.mem = x.mem ∧ u.pending = x.pending ∧ u.life = x.life := by
      split at hu
      · cases hu; simp
      · split at hu <;> cases hu
        simp
    simp [hx]
  · simp

@[simp] theorem State.plannedMove_keeps (s : State) (h p : Nat) :
    (State.plannedMove s h p).mem = s.mem ∧ (State.plannedMove s h p).pending = s.pending ∧ (State.plannedMove s h p).life = s.life := by
  simp [State.plannedMove]

@[simp] theorem State.voidTest_keeps (s : State) (r : Rack) :
    (State.voidTest s r).mem = s.mem ∧ (State.voidTest s r).pending = s.pending ∧ (State.voidTest s r).life = s.life := by
  simp [State.voidTest]

@[simp] theorem State.testIsland_keeps (s : State) (p : Nat) :
    (State.testIsland s p).mem = s.mem ∧ (State.testIsland s p).pending = s.pending ∧ (State.testIsland s p).life = s.life := by
  simp [State.testIsland]

@[simp] theorem State.cleanTest_keeps (s : State) (p : Nat) :
    (State.cleanTest s p).mem = s.mem ∧ (State.cleanTest s p).pending = s.pending ∧ (State.cleanTest s p).life = s.life := by
  simp [State.cleanTest]

@[simp] theorem State.failTest_keeps (s : State) (p unit cause : Nat) :
    (State.failTest s p unit cause).mem = s.mem ∧ (State.failTest s p unit cause).pending = s.pending ∧ (State.failTest s p unit cause).life = s.life := by
  simp [State.failTest]

@[simp] theorem State.settleService_keeps (s : State) :
    (State.settleService s).mem = s.mem ∧ (State.settleService s).pending = s.pending ∧ (State.settleService s).life = s.life := by
  simp [State.settleService]

@[simp] theorem State.evalRetire_keeps (s : State) :
    (State.evalRetire s).mem = s.mem ∧ (State.evalRetire s).pending = s.pending ∧ (State.evalRetire s).life = s.life := by
  simp [State.evalRetire]

@[simp] theorem State.rotate_keeps (s : State) (r : Rack) :
    (State.rotate s r).mem = s.mem ∧ (State.rotate s r).pending = s.pending ∧ (State.rotate s r).life = s.life := by
  simp [State.rotate]

@[simp] theorem State.endCommonCause_keeps (s : State) (q : Nat) :
    (State.endCommonCause s q).mem = s.mem ∧ (State.endCommonCause s q).pending = s.pending ∧ (State.endCommonCause s q).life = s.life := by
  simp [State.endCommonCause]

@[simp] theorem State.reinit_keeps (s : State) (p : Nat) :
    (State.reinit s p).mem = s.mem ∧ (State.reinit s p).pending = s.pending ∧ (State.reinit s p).life = s.life := by
  simp [State.reinit]

@[simp] theorem State.swapOff_keeps (s : State) (p : Nat) :
    (State.swapOff s p).mem = s.mem ∧ (State.swapOff s p).pending = s.pending ∧ (State.swapOff s p).life = s.life := by
  simp [State.swapOff]
  repeat' (first | split | apply And.intro)
  all_goals simp_all

@[simp] theorem State.swapBack_keeps (s : State) (r : Rack) (g : Nat) :
    (State.swapBack s r g).mem = s.mem ∧ (State.swapBack s r g).pending = s.pending ∧ (State.swapBack s r g).life = s.life := by
  simp [State.swapBack]

@[simp] theorem State.countSuspect_keeps (s : State) (p : Nat) (failed : Bool) :
    (State.countSuspect s p failed).mem = s.mem ∧ (State.countSuspect s p failed).pending = s.pending ∧ (State.countSuspect s p failed).life = s.life := by
  simp [State.countSuspect]

@[simp] theorem State.retest_keeps (s : State) (h n : Nat) :
    (State.retest s h n).mem = s.mem ∧ (State.retest s h n).pending = s.pending ∧ (State.retest s h n).life = s.life := by
  simp [State.retest]

@[simp] theorem State.endSample_keeps (s : State) (p : Nat) (stat : TasteStat → TasteStat) :
    (State.endSample s p stat).mem = s.mem ∧ (State.endSample s p stat).pending = s.pending ∧ (State.endSample s p stat).life = s.life := by
  simp [State.endSample]

@[simp] theorem State.queryAnswer_keeps (s : State) (ref : CmdRef) (addr len : Nat) (bytes : List Byte) :
    (State.queryAnswer s ref addr len bytes).mem = s.mem ∧ (State.queryAnswer s ref addr len bytes).pending = s.pending ∧ (State.queryAnswer s ref addr len bytes).life = s.life := by
  simp [State.queryAnswer]

@[simp] theorem State.answerRegs_keeps (s : State) (ref : CmdRef) (h sub addr len : Nat) (vals : List Nat) :
    (State.answerRegs s ref h sub addr len vals).mem = s.mem ∧ (State.answerRegs s ref h sub addr len vals).pending = s.pending ∧ (State.answerRegs s ref h sub addr len vals).life = s.life := by
  simp [State.answerRegs]

@[simp] theorem State.classCheck_keeps (s : State) (p : Nat) :
    (State.classCheck s p).mem = s.mem ∧ (State.classCheck s p).pending = s.pending ∧ (State.classCheck s p).life = s.life := by
  unfold State.classCheck
  refine State.each_keeps _ _ _ fun x i => ?_
  dsimp only
  repeat' split
  all_goals simp

@[simp] theorem State.endRelight_keeps (s : State) (p : Nat) :
    (State.endRelight s p).mem = s.mem ∧ (State.endRelight s p).pending = s.pending ∧ (State.endRelight s p).life = s.life := by
  simp [State.endRelight]

@[simp] theorem State.endRemote_keeps (s : State) (t : Txn) :
    (State.endRemote s t).mem = s.mem ∧ (State.endRemote s t).pending = s.pending ∧ (State.endRemote s t).life = s.life := by
  simp [State.endRemote]
  repeat' (first | split | apply And.intro)
  all_goals simp_all

@[simp] theorem State.endSends_keeps (s : State) (p : Nat) :
    (State.endSends s p).mem = s.mem ∧ (State.endSends s p).pending = s.pending ∧ (State.endSends s p).life = s.life := by
  unfold State.endSends
  exact State.foldl_keeps _ _ _ fun x t => by simp

@[simp] theorem State.lnpEnd_keeps (s : State) (p : Nat) (st : LnpState) (why : Nat) :
    (State.lnpEnd s p st why).mem = s.mem ∧ (State.lnpEnd s p st why).pending = s.pending ∧ (State.lnpEnd s p st why).life = s.life := by
  simp [State.lnpEnd]

@[simp] theorem State.sealFrame_keeps (s : State) (p : Nat) (f : Frame) :
    (State.sealFrame s p f).mem = s.mem ∧ (State.sealFrame s p f).pending = s.pending ∧ (State.sealFrame s p f).life = s.life := by
  simp [State.sealFrame]

@[simp] theorem State.sendFrame_keeps (s : State) (p : Nat) (f : Frame) :
    (State.sendFrame s p f).mem = s.mem ∧ (State.sendFrame s p f).pending = s.pending ∧ (State.sendFrame s p f).life = s.life := by
  simp [State.sendFrame]

@[simp] theorem State.sendSession_keeps (s : State) (p : Nat) (note : List Nat) :
    (State.sendSession s p note).mem = s.mem ∧ (State.sendSession s p note).pending = s.pending ∧ (State.sendSession s p note).life = s.life := by
  simp [State.sendSession]

@[simp] theorem State.keyStep_keeps (s : State) (p : Nat) (point : Nat × Nat) :
    (State.keyStep s p point).mem = s.mem ∧ (State.keyStep s p point).pending = s.pending ∧ (State.keyStep s p point).life = s.life := by
  simp [State.keyStep]

@[simp] theorem State.startRetrain_keeps (s : State) (p : Nat) :
    (State.startRetrain s p).mem = s.mem ∧ (State.startRetrain s p).pending = s.pending ∧ (State.startRetrain s p).life = s.life := by
  simp [State.startRetrain]

@[simp] theorem State.resend_keeps (s : State) (p : Nat) (named : BitVec 16) :
    (State.resend s p named).mem = s.mem ∧ (State.resend s p named).pending = s.pending ∧ (State.resend s p named).life = s.life := by
  simp [State.resend]

@[simp] theorem State.sendBlock_keeps (s : State) (p : Nat) (t : Txn) :
    (State.sendBlock s p t).mem = s.mem ∧ (State.sendBlock s p t).pending = s.pending ∧ (State.sendBlock s p t).life = s.life := by
  simp [State.sendBlock]

@[simp] theorem State.reserveRx_keeps (s : State) (p : Nat) :
    (State.reserveRx s p).mem = s.mem ∧ (State.reserveRx s p).pending = s.pending ∧ (State.reserveRx s p).life = s.life := by
  unfold State.reserveRx
  have h : ∀ (l : List Nat) (a : State × List (Nat × Nat × Nat × Nat)) (g : State × List (Nat × Nat × Nat × Nat) → Nat → State × List (Nat × Nat × Nat × Nat)),
      (∀ b i, (g b i).1.mem = b.1.mem ∧ (g b i).1.pending = b.1.pending ∧ (g b i).1.life = b.1.life) →
      (l.foldl g a).1.mem = a.1.mem ∧ (l.foldl g a).1.pending = a.1.pending ∧ (l.foldl g a).1.life = a.1.life := by
    intro l a g hg
    induction l generalizing a with
    | nil => simp
    | cons i l ih => simp [List.foldl_cons, ih, hg]
  refine h _ (s, []) _ fun b i => ?_
  dsimp only
  repeat' split
  all_goals simp

@[simp] theorem State.takeRx_keeps (s : State) (p : Nat) :
    (State.takeRx s p).mem = s.mem ∧ (State.takeRx s p).pending = s.pending ∧ (State.takeRx s p).life = s.life := by
  simp [State.takeRx]

@[simp] theorem State.drainRx_keeps (s : State) (p : Nat) :
    (State.drainRx s p).mem = s.mem ∧ (State.drainRx s p).pending = s.pending ∧ (State.drainRx s p).life = s.life := by
  simp [State.drainRx]

@[simp] theorem State.staticFlits_keeps (s : State) (p : Nat) (f : Frame) (blockOk : Bool) :
    (State.staticFlits s p f blockOk).mem = s.mem ∧ (State.staticFlits s p f blockOk).pending = s.pending ∧ (State.staticFlits s p f blockOk).life = s.life := by
  simp [State.staticFlits]

@[simp] theorem State.serveJar_keeps (s : State) (p : Nat) (a : JarAsk) :
    (State.serveJar s p a).mem = s.mem ∧ (State.serveJar s p a).pending = s.pending ∧ (State.serveJar s p a).life = s.life := by
  simp [State.serveJar]

@[simp] theorem State.serveJars_keeps (s : State) (p : Nat) :
    (State.serveJars s p).mem = s.mem ∧ (State.serveJars s p).pending = s.pending ∧ (State.serveJars s p).life = s.life := by
  simp [State.serveJars]

@[simp] theorem State.takeReq_keeps (s : State) (p : Nat) :
    (State.takeReq s p).mem = s.mem ∧ (State.takeReq s p).pending = s.pending ∧ (State.takeReq s p).life = s.life := by
  unfold State.takeReq
  have h : ∀ (x : State) (l : List Frame), (x.mem = s.mem ∧ x.pending = s.pending ∧ x.life = s.life) →
      ∀ f : State → Frame → State, (∀ (x : State) (i : Frame), (f x i).mem = x.mem ∧ (f x i).pending = x.pending ∧ (f x i).life = x.life) →
      (l.foldl f x).mem = s.mem ∧ (l.foldl f x).pending = s.pending ∧ (l.foldl f x).life = s.life := by
    intro x l hx f hf
    simp only [State.foldl_keeps x l f hf, hx, and_self]
  simp only [State.serveJars_keeps]
  refine h _ _ (by simp) _ fun x f => ?_
  split
  · exact ⟨rfl, rfl, rfl⟩
  · split <;> simp

@[simp] theorem State.askJar_keeps (s : State) (h p : Nat) :
    (State.askJar s h p).mem = s.mem ∧ (State.askJar s h p).pending = s.pending ∧ (State.askJar s h p).life = s.life := by
  unfold State.askJar
  refine State.foldl_keeps _ _ _ fun x i => ?_
  split
  · exact ⟨rfl, rfl, rfl⟩
  · dsimp only
    split <;> simp

@[simp] theorem State.askJars_keeps (s : State) (p : Nat) :
    (State.askJars s p).mem = s.mem ∧ (State.askJars s p).pending = s.pending ∧ (State.askJars s p).life = s.life := by
  unfold State.askJars
  refine State.each_keeps _ _ _ fun x h => ?_
  split
  · split <;> simp
  · exact ⟨rfl, rfl, rfl⟩

@[simp] theorem State.jarReply_keeps (s : State) (p : Nat) (f : Frame) :
    (State.jarReply s p f).mem = s.mem ∧ (State.jarReply s p f).pending = s.pending ∧ (State.jarReply s p f).life = s.life := by
  simp [State.jarReply]
  repeat' (first | split | apply And.intro)
  all_goals simp_all

@[simp] theorem State.packet_keeps (s : State) (p : Nat) (f : Frame) :
    (State.packet s p f).mem = s.mem ∧ (State.packet s p f).pending = s.pending ∧ (State.packet s p f).life = s.life := by
  simp [State.packet]
  repeat' (first | split | apply And.intro)
  all_goals simp_all

@[simp] theorem State.discardFrame_keeps (s : State) (p : Nat) (decoded tagOk : Bool) :
    (State.discardFrame s p decoded tagOk).mem = s.mem ∧ (State.discardFrame s p decoded tagOk).pending = s.pending ∧ (State.discardFrame s p decoded tagOk).life = s.life := by
  simp [State.discardFrame]

@[simp] theorem State.receive_keeps (s : State) (p : Nat) (f : Frame) (decoded tagOk : Bool) (act : State → State) (hact : ∀ x : State, (act x).mem = x.mem ∧ (act x).pending = x.pending ∧ (act x).life = x.life) :
    (State.receive s p f decoded tagOk act).mem = s.mem ∧ (State.receive s p f decoded tagOk act).pending = s.pending ∧ (State.receive s p f decoded tagOk act).life = s.life := by
  simp [State.receive]
  repeat' (first | split | apply And.intro)
  all_goals simp_all

@[simp] theorem State.parkRefused_keeps (s : State) (p : Nat) :
    (State.parkRefused s p).mem = s.mem ∧ (State.parkRefused s p).pending = s.pending ∧ (State.parkRefused s p).life = s.life := by
  simp [State.parkRefused]

@[simp] theorem State.parkPort_keeps (s : State) (p : Nat) :
    (State.parkPort s p).mem = s.mem ∧ (State.parkPort s p).pending = s.pending ∧ (State.parkPort s p).life = s.life := by
  simp [State.parkPort]

@[simp] theorem State.tryPark_keeps (s : State) (p : Nat) :
    (State.tryPark s p).mem = s.mem ∧ (State.tryPark s p).pending = s.pending ∧ (State.tryPark s p).life = s.life := by
  simp [State.tryPark]

@[simp] theorem State.substitute_keeps (s : State) (p fibre lane : Nat) :
    (State.substitute s p fibre lane).mem = s.mem ∧ (State.substitute s p fibre lane).pending = s.pending ∧ (State.substitute s p fibre lane).life = s.life := by
  simp [State.substitute]
  repeat' (first | split | apply And.intro)
  all_goals simp_all

@[simp] theorem State.comeUp_keeps (s : State) (p w : Nat) :
    (State.comeUp s p w).mem = s.mem ∧ (State.comeUp s p w).pending = s.pending ∧ (State.comeUp s p w).life = s.life := by
  simp [State.comeUp]

@[simp] theorem State.parkIfAsked_keeps (s : State) (p : Nat) :
    (State.parkIfAsked s p).mem = s.mem ∧ (State.parkIfAsked s p).pending = s.pending ∧ (State.parkIfAsked s p).life = s.life := by
  simp [State.parkIfAsked]

@[simp] theorem State.train_keeps (s : State) (p : Nat) :
    (State.train s p).mem = s.mem ∧ (State.train s p).pending = s.pending ∧ (State.train s p).life = s.life := by
  simp [State.train]

@[simp] theorem State.dropWorms_keeps (s : State) (ps : List Nat) :
    (State.dropWorms s ps).mem = s.mem ∧ (State.dropWorms s ps).pending = s.pending ∧ (State.dropWorms s ps).life = s.life := by
  simp [State.dropWorms]

@[simp] theorem State.clearIslands_keeps (s : State) (ps : List Nat) :
    (State.clearIslands s ps).mem = s.mem ∧ (State.clearIslands s ps).pending = s.pending ∧ (State.clearIslands s ps).life = s.life := by
  simp [State.clearIslands]

@[simp] theorem State.clearAt_keeps (s : State) (ps : List Nat) :
    (State.clearAt s ps).mem = s.mem ∧ (State.clearAt s ps).pending = s.pending ∧ (State.clearAt s ps).life = s.life := by
  unfold State.clearAt
  refine State.each_keeps _ _ _ fun x p => ?_
  dsimp only
  split <;> simp

@[simp] theorem State.holdAt_keeps (s : State) (ps : List Nat) :
    (State.holdAt s ps).mem = s.mem ∧ (State.holdAt s ps).pending = s.pending ∧ (State.holdAt s ps).life = s.life := by
  simp [State.holdAt]

@[simp] theorem State.rebuildHob_keeps (s : State) (h : Nat) (ps : List Nat) (imageOk : Bool) :
    (State.rebuildHob s h ps imageOk).mem = s.mem ∧ (State.rebuildHob s h ps imageOk).pending = s.pending ∧ (State.rebuildHob s h ps imageOk).life = s.life := by
  simp [State.rebuildHob]

@[simp] theorem State.rebuildAt_keeps (s : State) (ps : List Nat) (imageOk : Bool) :
    (State.rebuildAt s ps imageOk).mem = s.mem ∧ (State.rebuildAt s ps imageOk).pending = s.pending ∧ (State.rebuildAt s ps imageOk).life = s.life := by
  simp [State.rebuildAt]

@[simp] theorem State.hobToLoading_keeps (s : State) (h : Nat) :
    (State.hobToLoading s h).mem = s.mem ∧ (State.hobToLoading s h).pending = s.pending ∧ (State.hobToLoading s h).life = s.life := by
  simp [State.hobToLoading]
  repeat' (first | split | apply And.intro)
  all_goals simp_all

@[simp] theorem State.startAsh_keeps (s : State) (domain cause : Nat) (suspects : List (Nat × Nat)) (waiting : List (Nat × Nat × Nat)) :
    (State.startAsh s domain cause suspects waiting).mem = s.mem ∧ (State.startAsh s domain cause suspects waiting).pending = s.pending ∧ (State.startAsh s domain cause suspects waiting).life = s.life := by
  simp [State.startAsh]
  repeat' (first | split | apply And.intro)
  all_goals simp_all

@[simp] theorem State.keepAsh_keeps (s : State) (a : Ash) :
    (State.keepAsh s a).mem = s.mem ∧ (State.keepAsh s a).pending = s.pending ∧ (State.keepAsh s a).life = s.life := by
  simp [State.keepAsh]

@[simp] theorem State.resetCell_keeps (s : State) (p why : Nat) :
    (State.resetCell s p why).mem = s.mem ∧ (State.resetCell s p why).pending = s.pending ∧ (State.resetCell s p why).life = s.life := by
  simp [State.resetCell]

@[simp] theorem State.resetRack_keeps (s : State) (i why : Nat) :
    (State.resetRack s i why).mem = s.mem ∧ (State.resetRack s i why).pending = s.pending ∧ (State.resetRack s i why).life = s.life := by
  simp [State.resetRack]

@[simp] theorem State.resetQuarter_keeps (s : State) (q why : Nat) :
    (State.resetQuarter s q why).mem = s.mem ∧ (State.resetQuarter s q why).pending = s.pending ∧ (State.resetQuarter s q why).life = s.life := by
  simp [State.resetQuarter]

@[simp] theorem State.resetStack_keeps (s : State) (k why : Nat) :
    (State.resetStack s k why).mem = s.mem ∧ (State.resetStack s k why).pending = s.pending ∧ (State.resetStack s k why).life = s.life := by
  simp [State.resetStack]

@[simp] theorem State.resetLnp_keeps (s : State) (p why : Nat) :
    (State.resetLnp s p why).mem = s.mem ∧ (State.resetLnp s p why).pending = s.pending ∧ (State.resetLnp s p why).life = s.life := by
  simp [State.resetLnp]

@[simp] theorem State.resetHost_keeps (s : State) (p why : Nat) :
    (State.resetHost s p why).mem = s.mem ∧ (State.resetHost s p why).pending = s.pending ∧ (State.resetHost s p why).life = s.life := by
  simp [State.resetHost]

@[simp] theorem State.resetHob_keeps (s : State) (h why : Nat) :
    (State.resetHob s h why).mem = s.mem ∧ (State.resetHob s h why).pending = s.pending ∧ (State.resetHob s h why).life = s.life := by
  simp [State.resetHob]

@[simp] theorem State.stopRings_keeps (s : State) :
    (State.stopRings s).mem = s.mem ∧ (State.stopRings s).pending = s.pending ∧ (State.stopRings s).life = s.life := by
  unfold State.stopRings
  refine State.each_keeps _ _ _ fun x p => State.each_keeps _ _ _ fun x f => State.each_keeps _ _ _ fun x r => ?_
  dsimp only
  split <;> simp

@[simp] theorem State.dropCompute_keeps (s : State) :
    (State.dropCompute s).mem = s.mem ∧ (State.dropCompute s).pending = s.pending ∧ (State.dropCompute s).life = s.life := by
  simp [State.dropCompute]

@[simp] theorem State.onlyReset_keeps (s : State) (dom start why : Nat) :
    (State.onlyReset s dom start why).mem = s.mem ∧ (State.onlyReset s dom start why).pending = s.pending ∧ (State.onlyReset s dom start why).life = s.life := by
  simp [State.onlyReset]

@[simp] theorem State.warmReset_keeps (s : State) (why : Nat) :
    (State.warmReset s why).mem = s.mem ∧ (State.warmReset s why).pending = s.pending ∧ (State.warmReset s why).life = s.life := by
  simp [State.warmReset]

theorem State.loseContents_writes (s : State) : Writes s s.loseContents := by
  have h := Writes.each (fun (s : State) h => (s.abortCommands h stAborted).freeHob h)
    (fun x i => (Writes.of_keeps (by simp)).trans (State.freeHob_writes _ i)) (hobNums.filter fun h => (s.hob h).st != .free) s
  exact .of_empty rfl h.pending h.life

theorem State.coldReset_writes (s : State) (why : Nat) : Writes s (s.coldReset why) := by
  have h1 : Writes s (s.each [0, 1, 2, 3] fun s p => (s.losePort p).modHost p fun x => { linkUp := false, perst := x.perst, fns := x.fns }) :=
    .of_keeps (State.each_keeps _ _ _ fun x p => by simp)
  refine h1.trans ((State.loseContents_writes _).trans (.of_keeps ?_))
  simp [State.coldReset]

theorem State.enterDown_writes (s : State) (st : DevState) : Writes s (s.enterDown st) := by
  refine (Writes.of_keeps (t := s.interrupt) (by simp)).trans ((State.loseContents_writes _).trans (.of_keeps ?_))
  simp [State.enterDown]

theorem State.performReset_writes (s : State) (dom idx why : Nat) : Writes s (s.performReset dom idx why) := by
  unfold State.performReset
  split
  case h_9 => exact s.coldReset_writes why
  case h_10 => exact s.enterDown_writes _
  case h_11 => exact s.enterDown_writes _
  all_goals exact .of_keeps (by simp)

theorem State.askReset_writes (s : State) (dom idx why : Nat) : Writes s (s.askReset dom idx why) := by
  unfold State.askReset
  repeat' split
  all_goals first
    | exact s.performReset_writes dom idx why
    | exact .of_keeps (by simp)

theorem State.deviceReset_writes (s : State) (dom why : Nat) (suspects : List (Nat × Nat)) :
    Writes s (s.deviceReset dom why suspects) := by
  unfold State.deviceReset
  dsimp only
  repeat' split
  all_goals first
    | exact s.askReset_writes dom 0 why
    | exact .of_keeps (by simp)

theorem State.hang_writes (s : State) (dom idx why : Nat) (hobs : List Nat) : Writes s (s.hang dom idx why hobs) := by
  unfold State.hang
  split
  · exact .refl s
  · refine Writes.trans (.of_keeps ?_) (State.askReset_writes _ dom idx why)
    split
    · exact State.each_keeps _ _ _ fun x h => x.awaitHearth_keeps h
    · exact ⟨rfl, rfl, rfl⟩

@[simp] theorem State.rerouteFar_keeps (s : State) (p : Nat) (c : Nat × Nat) :
    (State.rerouteFar s p c).mem = s.mem ∧ (State.rerouteFar s p c).pending = s.pending ∧ (State.rerouteFar s p c).life = s.life := by
  simp [State.rerouteFar]
  repeat' (first | split | apply And.intro)
  all_goals simp_all

@[simp] theorem State.bootHearth_keeps (s : State) (okA okB : Bool) :
    (State.bootHearth s okA okB).mem = s.mem ∧ (State.bootHearth s okA okB).pending = s.pending ∧ (State.bootHearth s okA okB).life = s.life := by
  simp [State.bootHearth]

@[simp] theorem State.hearthReset_keeps (s : State) (why : Nat) :
    (State.hearthReset s why).mem = s.mem ∧ (State.hearthReset s why).pending = s.pending ∧ (State.hearthReset s why).life = s.life := by
  simp [State.hearthReset]
  repeat' (first | split | apply And.intro)
  all_goals simp_all

@[simp] theorem State.rstCmd_keeps (s : State) (who : Who) (action arg refuse : Nat) (act : State → State) (hact : ∀ x : State, (act x).mem = x.mem ∧ (act x).pending = x.pending ∧ (act x).life = x.life) :
    (State.rstCmd s who action arg refuse act).mem = s.mem ∧ (State.rstCmd s who action arg refuse act).pending = s.pending ∧ (State.rstCmd s who action arg refuse act).life = s.life := by
  unfold State.rstCmd
  simp_all

theorem State.commandedReset_writes (s : State) (dom : Nat) : Writes s (s.commandedReset dom) := by
  unfold State.commandedReset
  split
  · exact .of_keeps (by simp)
  · exact (Writes.of_keeps (by simp)).trans (State.performReset_writes _ dom 0 13)

theorem State.priv_writes (s : State) (who : Who) (allowed : List Role) (code hob : Nat) (args : List Nat) (refuse : Nat)
    (act : State → State) (h : ∀ x, Writes x (act x)) : Writes s (s.priv who allowed code hob args refuse act) := by
  have key : ∀ (x : State) (c : Prop) [Decidable c], Writes s x → Writes s (if c then act x else x) := by
    intro x c _ hx
    split
    · exact hx.trans (h x)
    · exact hx
  unfold State.priv
  dsimp only
  split
  · exact .refl s
  · exact (key _ _ (.of_keeps (State.logAdd_keeps s _))).trans (.of_keeps (State.emit_keeps3 _ _))

theorem State.rstAction_writes (s : State) (who : Who) (action arg : Nat) : Writes s (s.rstAction who action arg) := by
  unfold State.rstAction State.rstCmd
  split
  case h_1 => exact State.priv_writes _ _ _ _ _ _ _ _ fun x => x.commandedReset_writes _
  case h_2 => exact State.priv_writes _ _ _ _ _ _ _ _ fun x => x.commandedReset_writes _
  case h_3 =>
    refine State.priv_writes _ _ _ _ _ _ _ _ fun x => ?_
    refine Writes.trans (.of_keeps ?_) (State.commandedReset_writes _ _)
    simp
  all_goals exact State.priv_writes _ _ _ _ _ _ _ _ fun x => .of_keeps (by simp)

@[simp] theorem State.setDamper_keeps (s : State) (d : Damper) :
    (State.setDamper s d).mem = s.mem ∧ (State.setDamper s d).pending = s.pending ∧ (State.setDamper s d).life = s.life := by
  simp [State.setDamper]

theorem State.powerOff_writes (s : State) : Writes s s.powerOff := by
  unfold State.powerOff
  refine .of_empty ?_ ?_ ?_ <;> simp

@[simp] theorem State.toStage_keeps (s : State) (k : Nat) :
    (State.toStage s k).mem = s.mem ∧ (State.toStage s k).pending = s.pending ∧ (State.toStage s k).life = s.life := by
  simp [State.toStage]

@[simp] theorem State.importBurnIn_keeps (s : State) :
    (State.importBurnIn s).mem = s.mem ∧ (State.importBurnIn s).pending = s.pending ∧ (State.importBurnIn s).life = s.life := by
  simp [State.importBurnIn]

@[simp] theorem State.freshNonces_keeps (s : State) :
    (State.freshNonces s).mem = s.mem ∧ (State.freshNonces s).pending = s.pending ∧ (State.freshNonces s).life = s.life := by
  simp [State.freshNonces]

@[simp] theorem State.poisonLines_keeps (s : State) (first n : Nat) :
    (State.poisonLines s first n).mem = s.mem ∧ (State.poisonLines s first n).pending = s.pending ∧ (State.poisonLines s first n).life = s.life := by
  exact ⟨rfl, rfl, rfl⟩

@[simp] theorem State.lostEntry_keeps (s : State) (key : Nat) :
    (State.lostEntry s key).mem = s.mem ∧ (State.lostEntry s key).pending = s.pending ∧ (State.lostEntry s key).life = s.life := by
  unfold State.lostEntry
  split
  · exact ⟨rfl, rfl, rfl⟩
  · simp

theorem State.foldAll_writes (s : State) (badS0 badS6 : List Nat) : Writes s (s.foldAll badS0 badS6) := by
  unfold State.foldAll
  dsimp only
  refine Writes.trans ?_ (.of_keeps (State.each_keeps _ _ _ fun x h => State.modHob_keeps3 _ _ _))
  refine Writes.trans ?_ (Writes.each _ (fun x k => x.fold_writes k) _ _)
  exact (Writes.each _ (fun x i => .of_keeps (State.lostEntry_keeps x i)) _ s).trans (.of_keeps ⟨rfl, rfl, rfl⟩)

@[simp] theorem State.wireTest_keeps (s : State) (w : Pos × Fin 23 × List Nat) :
    (State.wireTest s w).mem = s.mem ∧ (State.wireTest s w).pending = s.pending ∧ (State.wireTest s w).life = s.life := by
  simp [State.wireTest]

@[simp] theorem State.reconcile_keeps (s : State) (useMap : Bool) (bist : Nat → Option Nat) (p : Nat) :
    (State.reconcile s useMap bist p).mem = s.mem ∧ (State.reconcile s useMap bist p).pending = s.pending ∧ (State.reconcile s useMap bist p).life = s.life := by
  simp [State.reconcile]

@[simp] theorem State.placeGap_keeps (s : State) (r : Rack) :
    (State.placeGap s r).mem = s.mem ∧ (State.placeGap s r).pending = s.pending ∧ (State.placeGap s r).life = s.life := by
  simp [State.placeGap]

@[simp] theorem State.fuseRows_keeps (s : State) (rows : List (Pos × Nat × Nat)) :
    (State.fuseRows s rows).mem = s.mem ∧ (State.fuseRows s rows).pending = s.pending ∧ (State.fuseRows s rows).life = s.life := by
  simp [State.fuseRows]

@[simp] theorem State.recheckOutside_keeps (s : State) :
    (State.recheckOutside s).mem = s.mem ∧ (State.recheckOutside s).pending = s.pending ∧ (State.recheckOutside s).life = s.life := by
  simp [State.recheckOutside]

@[simp] theorem State.thermalRelease_keeps (s : State) :
    (State.thermalRelease s).mem = s.mem ∧ (State.thermalRelease s).pending = s.pending ∧ (State.thermalRelease s).life = s.life := by
  simp [State.thermalRelease]

@[simp] theorem State.settlePantry_keeps (s : State) :
    (State.settlePantry s).mem = s.mem ∧ (State.settlePantry s).pending = s.pending ∧ (State.settlePantry s).life = s.life := by
  simp [State.settlePantry]

@[simp] theorem State.nandWrite_keeps (s : State) (jar other : Nat) :
    (State.nandWrite s jar other).mem = s.mem ∧ (State.nandWrite s jar other).pending = s.pending ∧ (State.nandWrite s jar other).life = s.life := by
  simp [State.nandWrite]

@[simp] theorem State.vacate_keeps (s : State) (block : Nat) :
    (State.vacate s block).mem = s.mem ∧ (State.vacate s block).pending = s.pending ∧ (State.vacate s block).life = s.life := by
  simp [State.vacate]

@[simp] theorem State.occupy_keeps (s : State) (block owner : Nat) :
    (State.occupy s block owner).mem = s.mem ∧ (State.occupy s block owner).pending = s.pending ∧ (State.occupy s block owner).life = s.life := by
  simp [State.occupy]

@[simp] theorem State.openBlock_keeps (s : State) (owner : Nat) :
    (State.openBlock s owner).mem = s.mem ∧ (State.openBlock s owner).pending = s.pending ∧ (State.openBlock s owner).life = s.life := by
  simp [State.openBlock]
  repeat' (first | split | apply And.intro)
  all_goals simp_all

@[simp] theorem State.levelDie_keeps (s : State) (die : Nat) :
    (State.levelDie s die).mem = s.mem ∧ (State.levelDie s die).pending = s.pending ∧ (State.levelDie s die).life = s.life := by
  simp [State.levelDie]
  repeat' (first | split | apply And.intro)
  all_goals simp_all

@[simp] theorem State.jarWrite_keeps (s : State) (h slot bytes : Nat) (first : Bool) :
    (State.jarWrite s h slot bytes first).mem = s.mem ∧ (State.jarWrite s h slot bytes first).pending = s.pending ∧ (State.jarWrite s h slot bytes first).life = s.life := by
  simp [State.jarWrite]

@[simp] theorem State.moveBlock_keeps (s : State) (block : Nat) :
    (State.moveBlock s block).mem = s.mem ∧ (State.moveBlock s block).pending = s.pending ∧ (State.moveBlock s block).life = s.life := by
  simp [State.moveBlock]

@[simp] theorem State.retireBlock_keeps (s : State) (block : Nat) :
    (State.retireBlock s block).mem = s.mem ∧ (State.retireBlock s block).pending = s.pending ∧ (State.retireBlock s block).life = s.life := by
  simp [State.retireBlock]

@[simp] theorem State.reserveJar_keeps (s : State) (h slot fence seq lead : Nat) (ref : Option CmdRef) :
    (State.reserveJar s h slot fence seq lead ref).mem = s.mem ∧ (State.reserveJar s h slot fence seq lead ref).pending = s.pending ∧ (State.reserveJar s h slot fence seq lead ref).life = s.life := by
  simp [State.reserveJar]

@[simp] theorem State.startSet_keeps (s : State) (h fence : Nat) (ref : Option CmdRef) :
    (State.startSet s h fence ref).mem = s.mem ∧ (State.startSet s h fence ref).pending = s.pending ∧ (State.startSet s h fence ref).life = s.life := by
  simp [State.startSet]

@[simp] theorem State.startAuto_keeps (s : State) (h : Nat) :
    (State.startAuto s h).mem = s.mem ∧ (State.startAuto s h).pending = s.pending ∧ (State.startAuto s h).life = s.life := by
  simp [State.startAuto]
  repeat' (first | split | apply And.intro)
  all_goals simp_all

theorem State.restoreLine_writes (s : State) (h : Nat) (j : Jar) (line : Nat) : Writes s (s.restoreLine h j line) := by
  unfold State.restoreLine
  dsimp only
  split
  · exact s.putLine_writes _ _ _ _
  · exact .refl s

theorem State.restorePages_writes (s : State) (h : Nat) (j : Jar) (pages : List Nat) : Writes s (s.restorePages h j pages) := by
  unfold State.restorePages
  refine (Writes.each _ (fun x l => ?_) _ s).trans (Writes.each _ (fun x l => x.restoreLine_writes h j l) _ _)
  split
  · exact x.zeroRange_writes _ _
  · exact .refl x

@[simp] theorem State.spendToken_keeps (s : State) (nonce : Nat) :
    (State.spendToken s nonce).mem = s.mem ∧ (State.spendToken s nonce).pending = s.pending ∧ (State.spendToken s nonce).life = s.life := by
  simp [State.spendToken]

@[simp] theorem State.makerAct_keeps (s : State) (who : Who) (code nonce : Nat) (args : List Nat) (refuse : Nat) (act : State → State) (hact : ∀ x : State, (act x).mem = x.mem ∧ (act x).pending = x.pending ∧ (act x).life = x.life) :
    (State.makerAct s who code nonce args refuse act).mem = s.mem ∧ (State.makerAct s who code nonce args refuse act).pending = s.pending ∧ (State.makerAct s who code nonce args refuse act).life = s.life := by
  unfold State.makerAct
  simp_all

theorem State.eraseJars_writes (s : State) (h : Nat) : Writes s (s.eraseJars h) := by
  have h1 : ∀ (x : State) (l : State → List (Nat × Rdr)) (b : Bool), Writes x (if b = true then x.each (l x) (fun s (e : Nat × Rdr) => s.fold e.1) else x) := by
    intro x l b
    split
    · exact Writes.each _ (fun z (e : Nat × Rdr) => z.fold_writes e.1) _ _
    · exact .refl x
  have h2 : ∀ (x : State) (f : Hob → Hob), Writes x ((x.modHob h f).recheckOver h) := fun x f => .of_keeps (by simp)
  unfold State.eraseJars
  dsimp only
  refine Writes.trans (Writes.trans ?_ (h1 _ (fun s1 => s1.rdrs.filter fun (e : Nat × Rdr) => e.2.hob == h) _)) (h2 _ _)
  split
  · split
    · exact .of_keeps (by simp)
    · exact .refl s
  · exact .refl s

@[simp] theorem State.fwAct_keeps (s : State) (who : Who) (args : List Nat) (refuse : Nat) (act : State → State) (hact : ∀ x : State, (act x).mem = x.mem ∧ (act x).pending = x.pending ∧ (act x).life = x.life) :
    (State.fwAct s who args refuse act).mem = s.mem ∧ (State.fwAct s who args refuse act).pending = s.pending ∧ (State.fwAct s who args refuse act).life = s.life := by
  simp [State.fwAct]
  repeat' (first | split | apply And.intro)
  all_goals simp_all

@[simp] theorem State.modFw_keeps (s : State) (f : Fw → Fw) :
    (State.modFw s f).mem = s.mem ∧ (State.modFw s f).pending = s.pending ∧ (State.modFw s f).life = s.life := by
  simp [State.modFw]

@[simp] theorem State.askData_keeps (s : State) :
    (State.askData s).mem = s.mem ∧ (State.askData s).pending = s.pending ∧ (State.askData s).life = s.life := by
  simp [State.askData]

@[simp] theorem State.startFirmware_keeps (s : State) :
    (State.startFirmware s).mem = s.mem ∧ (State.startFirmware s).pending = s.pending ∧ (State.startFirmware s).life = s.life := by
  simp [State.startFirmware]

@[simp] theorem State.spdm_keeps (s : State) (what : String) (vals : List Nat) :
    (State.spdm s what vals).mem = s.mem ∧ (State.spdm s what vals).pending = s.pending ∧ (State.spdm s what vals).life = s.life := by
  simp [State.spdm]

@[simp] theorem State.setSession_keeps (s : State) (n : Nat) (x : Session) :
    (State.setSession s n x).mem = s.mem ∧ (State.setSession s n x).pending = s.pending ∧ (State.setSession s n x).life = s.life := by
  simp [State.setSession]

@[simp] theorem State.inSession_keeps (s : State) (n : Nat) (what : String) (act : Session → Session) :
    (State.inSession s n what act).mem = s.mem ∧ (State.inSession s n what act).pending = s.pending ∧ (State.inSession s n what act).life = s.life := by
  simp [State.inSession]

@[simp] theorem State.ideKm_keeps (s : State) (session stream : Nat) (what : String) (act : Nat → Nat × Nat) :
    (State.ideKm s session stream what act).mem = s.mem ∧ (State.ideKm s session stream what act).pending = s.pending ∧ (State.ideKm s session stream what act).life = s.life := by
  simp [State.ideKm]
  repeat' (first | split | apply And.intro)
  all_goals simp_all

@[simp] theorem State.followAlert_keeps (s : State) :
    (State.followAlert s).mem = s.mem ∧ (State.followAlert s).pending = s.pending ∧ (State.followAlert s).life = s.life := by
  simp [State.followAlert]

@[simp] theorem State.pmbusAnswer_keeps (s : State) (cmd : String) (pageOk : Bool) (vals : List Nat) :
    (State.pmbusAnswer s cmd pageOk vals).mem = s.mem ∧ (State.pmbusAnswer s cmd pageOk vals).pending = s.pending ∧ (State.pmbusAnswer s cmd pageOk vals).life = s.life := by
  simp [State.pmbusAnswer]

@[simp] theorem State.writeRing_keeps (s : State) (p f r : Nat) (g : Ring → Ring) :
    (State.writeRing s p f r g).mem = s.mem ∧ (State.writeRing s p f r g).pending = s.pending ∧ (State.writeRing s p f r g).life = s.life := by
  simp [State.writeRing]

@[simp] theorem State.writeMsix_keeps (s : State) (p f e : Nat) (v : BitVec 128) :
    (State.writeMsix s p f e v).mem = s.mem ∧ (State.writeMsix s p f e v).pending = s.pending ∧ (State.writeMsix s p f e v).life = s.life := by
  simp [State.writeMsix]

@[simp] theorem State.iWrite_keeps (s : State) (who : Who) (code hob : Nat) (args : List Nat) (refuse : Nat) (act : State → State) (hact : ∀ x : State, (act x).mem = x.mem ∧ (act x).pending = x.pending ∧ (act x).life = x.life) :
    (State.iWrite s who code hob args refuse act).mem = s.mem ∧ (State.iWrite s who code hob args refuse act).pending = s.pending ∧ (State.iWrite s who code hob args refuse act).life = s.life := by
  simp [State.iWrite]
  repeat' (first | split | apply And.intro)
  all_goals simp_all

@[simp] theorem State.writePortCtl_keeps (s : State) (who : Who) (p v : Nat) :
    (State.writePortCtl s who p v).mem = s.mem ∧ (State.writePortCtl s who p v).pending = s.pending ∧ (State.writePortCtl s who p v).life = s.life := by
  simp [State.writePortCtl]

@[simp] theorem State.writeRoute_keeps (s : State) (who : Who) (dest v : Nat) :
    (State.writeRoute s who dest v).mem = s.mem ∧ (State.writeRoute s who dest v).pending = s.pending ∧ (State.writeRoute s who dest v).life = s.life := by
  simp [State.writeRoute]

@[simp] theorem State.writeJarAcl_keeps (s : State) (who : Who) (h v : Nat) :
    (State.writeJarAcl s who h v).mem = s.mem ∧ (State.writeJarAcl s who h v).pending = s.pending ∧ (State.writeJarAcl s who h v).life = s.life := by
  simp [State.writeJarAcl]

@[simp] theorem State.writeTaste_keeps (s : State) (who : Who) (v : Nat) :
    (State.writeTaste s who v).mem = s.mem ∧ (State.writeTaste s who v).pending = s.pending ∧ (State.writeTaste s who v).life = s.life := by
  simp [State.writeTaste]

@[simp] theorem State.writeRstCfg_keeps (s : State) (who : Who) (v : Nat) :
    (State.writeRstCfg s who v).mem = s.mem ∧ (State.writeRstCfg s who v).pending = s.pending ∧ (State.writeRstCfg s who v).life = s.life := by
  simp [State.writeRstCfg]

@[simp] theorem State.writeIdle_keeps (s : State) (who : Who) (v : Nat) :
    (State.writeIdle s who v).mem = s.mem ∧ (State.writeIdle s who v).pending = s.pending ∧ (State.writeIdle s who v).life = s.life := by
  simp [State.writeIdle]

@[simp] theorem State.writePolicy_keeps (s : State) (who : Who) (h v : Nat) :
    (State.writePolicy s who h v).mem = s.mem ∧ (State.writePolicy s who h v).pending = s.pending ∧ (State.writePolicy s who h v).life = s.life := by
  simp [State.writePolicy]

end Sys2Proof.Machine
end

