-- ==== Sys2Proof/Laws/Ops.lean ====
section
/-! SUPPORT. What each shared operation of Machine/Ops.lean leaves of the state, said once. -/

namespace Sys2Proof.Machine

open Sys2Proof

@[simp] theorem State.ite_st (c : Prop) [Decidable c] (a b : State) :
    (if c then a else b).st = (if c then a.st else b.st) := by split <;> rfl

@[simp] theorem State.ite_now (c : Prop) [Decidable c] (a b : State) :
    (if c then a else b).now = (if c then a.now else b.now) := by split <;> rfl

@[simp] theorem State.ite_boot (c : Prop) [Decidable c] (a b : State) :
    (if c then a else b).boot = (if c then a.boot else b.boot) := by split <;> rfl

@[simp] theorem State.ite_resets (c : Prop) [Decidable c] (a b : State) :
    (if c then a else b).resets = (if c then a.resets else b.resets) := by split <;> rfl

@[simp] theorem State.ite_damper (c : Prop) [Decidable c] (a b : State) :
    (if c then a else b).damper = (if c then a.damper else b.damper) := by split <;> rfl

@[simp] theorem State.ite_sensors (c : Prop) [Decidable c] (a b : State) :
    (if c then a else b).sensors = (if c then a.sensors else b.sensors) := by split <;> rfl

@[simp] theorem State.ite_pins (c : Prop) [Decidable c] (a b : State) :
    (if c then a else b).pins = (if c then a.pins else b.pins) := by split <;> rfl

@[simp] theorem State.ite_avl (c : Prop) [Decidable c] (a b : State) :
    (if c then a else b).avl = (if c then a.avl else b.avl) := by split <;> rfl

@[simp] theorem State.ite_cfgs (c : Prop) [Decidable c] (a b : State) :
    (if c then a else b).cfgs = (if c then a.cfgs else b.cfgs) := by split <;> rfl

@[simp] theorem State.ite_expel (c : Prop) [Decidable c] (a b : State) :
    (if c then a else b).expel = (if c then a.expel else b.expel) := by split <;> rfl

@[simp] theorem State.ite_perturbs (c : Prop) [Decidable c] (a b : State) :
    (if c then a else b).perturbs = (if c then a.perturbs else b.perturbs) := by split <;> rfl

@[simp] theorem State.ite_cells (c : Prop) [Decidable c] (a b : State) :
    (if c then a else b).cells = (if c then a.cells else b.cells) := by split <;> rfl

@[simp] theorem State.ite_routers (c : Prop) [Decidable c] (a b : State) :
    (if c then a else b).routers = (if c then a.routers else b.routers) := by split <;> rfl

@[simp] theorem State.ite_edgeIn (c : Prop) [Decidable c] (a b : State) :
    (if c then a else b).edgeIn = (if c then a.edgeIn else b.edgeIn) := by split <;> rfl

@[simp] theorem State.ite_rimIn (c : Prop) [Decidable c] (a b : State) :
    (if c then a else b).rimIn = (if c then a.rimIn else b.rimIn) := by split <;> rfl

@[simp] theorem State.ite_health (c : Prop) [Decidable c] (a b : State) :
    (if c then a else b).health = (if c then a.health else b.health) := by split <;> rfl

@[simp] theorem State.ite_racks (c : Prop) [Decidable c] (a b : State) :
    (if c then a else b).racks = (if c then a.racks else b.racks) := by split <;> rfl

@[simp] theorem State.ite_hobs (c : Prop) [Decidable c] (a b : State) :
    (if c then a else b).hobs = (if c then a.hobs else b.hobs) := by split <;> rfl

@[simp] theorem State.ite_stk (c : Prop) [Decidable c] (a b : State) :
    (if c then a else b).stk = (if c then a.stk else b.stk) := by split <;> rfl

@[simp] theorem State.ite_lines (c : Prop) [Decidable c] (a b : State) :
    (if c then a else b).lines = (if c then a.lines else b.lines) := by split <;> rfl

@[simp] theorem State.ite_errs (c : Prop) [Decidable c] (a b : State) :
    (if c then a else b).errs = (if c then a.errs else b.errs) := by split <;> rfl

@[simp] theorem State.ite_rdrs (c : Prop) [Decidable c] (a b : State) :
    (if c then a else b).rdrs = (if c then a.rdrs else b.rdrs) := by split <;> rfl

@[simp] theorem State.ite_rdrs6 (c : Prop) [Decidable c] (a b : State) :
    (if c then a else b).rdrs6 = (if c then a.rdrs6 else b.rdrs6) := by split <;> rfl

@[simp] theorem State.ite_txns (c : Prop) [Decidable c] (a b : State) :
    (if c then a else b).txns = (if c then a.txns else b.txns) := by split <;> rfl

@[simp] theorem State.ite_hosts (c : Prop) [Decidable c] (a b : State) :
    (if c then a else b).hosts = (if c then a.hosts else b.hosts) := by split <;> rfl

@[simp] theorem State.ite_lnps (c : Prop) [Decidable c] (a b : State) :
    (if c then a else b).lnps = (if c then a.lnps else b.lnps) := by split <;> rfl

@[simp] theorem State.ite_hearth (c : Prop) [Decidable c] (a b : State) :
    (if c then a else b).hearth = (if c then a.hearth else b.hearth) := by split <;> rfl

@[simp] theorem State.ite_fw (c : Prop) [Decidable c] (a b : State) :
    (if c then a else b).fw = (if c then a.fw else b.fw) := by split <;> rfl

@[simp] theorem State.ite_pmbus (c : Prop) [Decidable c] (a b : State) :
    (if c then a else b).pmbus = (if c then a.pmbus else b.pmbus) := by split <;> rfl

@[simp] theorem State.ite_sessions (c : Prop) [Decidable c] (a b : State) :
    (if c then a else b).sessions = (if c then a.sessions else b.sessions) := by split <;> rfl

@[simp] theorem State.ite_log (c : Prop) [Decidable c] (a b : State) :
    (if c then a else b).log = (if c then a.log else b.log) := by split <;> rfl

@[simp] theorem State.ite_logSeq (c : Prop) [Decidable c] (a b : State) :
    (if c then a else b).logSeq = (if c then a.logSeq else b.logSeq) := by split <;> rfl

@[simp] theorem State.ite_logFail (c : Prop) [Decidable c] (a b : State) :
    (if c then a else b).logFail = (if c then a.logFail else b.logFail) := by split <;> rfl

@[simp] theorem State.ite_ashes (c : Prop) [Decidable c] (a b : State) :
    (if c then a else b).ashes = (if c then a.ashes else b.ashes) := by split <;> rfl

@[simp] theorem State.ite_ashRun (c : Prop) [Decidable c] (a b : State) :
    (if c then a else b).ashRun = (if c then a.ashRun else b.ashRun) := by split <;> rfl

@[simp] theorem State.ite_ashSeq (c : Prop) [Decidable c] (a b : State) :
    (if c then a else b).ashSeq = (if c then a.ashSeq else b.ashSeq) := by split <;> rfl

@[simp] theorem State.ite_places (c : Prop) [Decidable c] (a b : State) :
    (if c then a else b).places = (if c then a.places else b.places) := by split <;> rfl

@[simp] theorem State.ite_places6 (c : Prop) [Decidable c] (a b : State) :
    (if c then a else b).places6 = (if c then a.places6 else b.places6) := by split <;> rfl

@[simp] theorem State.ite_pantry (c : Prop) [Decidable c] (a b : State) :
    (if c then a else b).pantry = (if c then a.pantry else b.pantry) := by split <;> rfl

@[simp] theorem State.ite_broadcasts (c : Prop) [Decidable c] (a b : State) :
    (if c then a else b).broadcasts = (if c then a.broadcasts else b.broadcasts) := by split <;> rfl

@[simp] theorem State.ite_bcastSeq (c : Prop) [Decidable c] (a b : State) :
    (if c then a else b).bcastSeq = (if c then a.bcastSeq else b.bcastSeq) := by split <;> rfl

@[simp] theorem State.ite_out (c : Prop) [Decidable c] (a b : State) :
    (if c then a else b).out = (if c then a.out else b.out) := by split <;> rfl

@[simp] theorem State.ite_free (c : Prop) [Decidable c] (a b : State) :
    (if c then a else b).free = (if c then a.free else b.free) := by split <;> rfl

/-- A walk over a list leaves what each of its steps leaves. -/
theorem State.each_proj {α β : Type} (π : State → β) (s : State) (l : List α) (f : State → α → State)
    (hf : ∀ x i, π (f x i) = π x) : π (s.each l f) = π s := by
  unfold State.each
  induction l generalizing s with
  | nil => rfl
  | cons a t ih => rw [List.foldl_cons, ih, hf]

@[simp] theorem State.each_st {α : Type} (s : State) (l : List α) (f : State → α → State)
    (hf : ∀ x i, (f x i).st = x.st) : (s.each l f).st = s.st := State.each_proj State.st s l f hf

@[simp] theorem State.each_now {α : Type} (s : State) (l : List α) (f : State → α → State)
    (hf : ∀ x i, (f x i).now = x.now) : (s.each l f).now = s.now := State.each_proj State.now s l f hf

@[simp] theorem State.each_boot {α : Type} (s : State) (l : List α) (f : State → α → State)
    (hf : ∀ x i, (f x i).boot = x.boot) : (s.each l f).boot = s.boot := State.each_proj State.boot s l f hf

@[simp] theorem State.each_resets {α : Type} (s : State) (l : List α) (f : State → α → State)
    (hf : ∀ x i, (f x i).resets = x.resets) : (s.each l f).resets = s.resets := State.each_proj State.resets s l f hf

@[simp] theorem State.each_damper {α : Type} (s : State) (l : List α) (f : State → α → State)
    (hf : ∀ x i, (f x i).damper = x.damper) : (s.each l f).damper = s.damper := State.each_proj State.damper s l f hf

@[simp] theorem State.each_sensors {α : Type} (s : State) (l : List α) (f : State → α → State)
    (hf : ∀ x i, (f x i).sensors = x.sensors) : (s.each l f).sensors = s.sensors := State.each_proj State.sensors s l f hf

@[simp] theorem State.each_pins {α : Type} (s : State) (l : List α) (f : State → α → State)
    (hf : ∀ x i, (f x i).pins = x.pins) : (s.each l f).pins = s.pins := State.each_proj State.pins s l f hf

@[simp] theorem State.each_avl {α : Type} (s : State) (l : List α) (f : State → α → State)
    (hf : ∀ x i, (f x i).avl = x.avl) : (s.each l f).avl = s.avl := State.each_proj State.avl s l f hf

@[simp] theorem State.each_cfgs {α : Type} (s : State) (l : List α) (f : State → α → State)
    (hf : ∀ x i, (f x i).cfgs = x.cfgs) : (s.each l f).cfgs = s.cfgs := State.each_proj State.cfgs s l f hf

@[simp] theorem State.each_expel {α : Type} (s : State) (l : List α) (f : State → α → State)
    (hf : ∀ x i, (f x i).expel = x.expel) : (s.each l f).expel = s.expel := State.each_proj State.expel s l f hf

@[simp] theorem State.each_perturbs {α : Type} (s : State) (l : List α) (f : State → α → State)
    (hf : ∀ x i, (f x i).perturbs = x.perturbs) : (s.each l f).perturbs = s.perturbs := State.each_proj State.perturbs s l f hf

@[simp] theorem State.each_cells {α : Type} (s : State) (l : List α) (f : State → α → State)
    (hf : ∀ x i, (f x i).cells = x.cells) : (s.each l f).cells = s.cells := State.each_proj State.cells s l f hf

@[simp] theorem State.each_routers {α : Type} (s : State) (l : List α) (f : State → α → State)
    (hf : ∀ x i, (f x i).routers = x.routers) : (s.each l f).routers = s.routers := State.each_proj State.routers s l f hf

@[simp] theorem State.each_edgeIn {α : Type} (s : State) (l : List α) (f : State → α → State)
    (hf : ∀ x i, (f x i).edgeIn = x.edgeIn) : (s.each l f).edgeIn = s.edgeIn := State.each_proj State.edgeIn s l f hf

@[simp] theorem State.each_rimIn {α : Type} (s : State) (l : List α) (f : State → α → State)
    (hf : ∀ x i, (f x i).rimIn = x.rimIn) : (s.each l f).rimIn = s.rimIn := State.each_proj State.rimIn s l f hf

@[simp] theorem State.each_health {α : Type} (s : State) (l : List α) (f : State → α → State)
    (hf : ∀ x i, (f x i).health = x.health) : (s.each l f).health = s.health := State.each_proj State.health s l f hf

@[simp] theorem State.each_racks {α : Type} (s : State) (l : List α) (f : State → α → State)
    (hf : ∀ x i, (f x i).racks = x.racks) : (s.each l f).racks = s.racks := State.each_proj State.racks s l f hf

@[simp] theorem State.each_hobs {α : Type} (s : State) (l : List α) (f : State → α → State)
    (hf : ∀ x i, (f x i).hobs = x.hobs) : (s.each l f).hobs = s.hobs := State.each_proj State.hobs s l f hf

@[simp] theorem State.each_stk {α : Type} (s : State) (l : List α) (f : State → α → State)
    (hf : ∀ x i, (f x i).stk = x.stk) : (s.each l f).stk = s.stk := State.each_proj State.stk s l f hf

@[simp] theorem State.each_lines {α : Type} (s : State) (l : List α) (f : State → α → State)
    (hf : ∀ x i, (f x i).lines = x.lines) : (s.each l f).lines = s.lines := State.each_proj State.lines s l f hf

@[simp] theorem State.each_errs {α : Type} (s : State) (l : List α) (f : State → α → State)
    (hf : ∀ x i, (f x i).errs = x.errs) : (s.each l f).errs = s.errs := State.each_proj State.errs s l f hf

@[simp] theorem State.each_rdrs {α : Type} (s : State) (l : List α) (f : State → α → State)
    (hf : ∀ x i, (f x i).rdrs = x.rdrs) : (s.each l f).rdrs = s.rdrs := State.each_proj State.rdrs s l f hf

@[simp] theorem State.each_rdrs6 {α : Type} (s : State) (l : List α) (f : State → α → State)
    (hf : ∀ x i, (f x i).rdrs6 = x.rdrs6) : (s.each l f).rdrs6 = s.rdrs6 := State.each_proj State.rdrs6 s l f hf

@[simp] theorem State.each_txns {α : Type} (s : State) (l : List α) (f : State → α → State)
    (hf : ∀ x i, (f x i).txns = x.txns) : (s.each l f).txns = s.txns := State.each_proj State.txns s l f hf

@[simp] theorem State.each_hosts {α : Type} (s : State) (l : List α) (f : State → α → State)
    (hf : ∀ x i, (f x i).hosts = x.hosts) : (s.each l f).hosts = s.hosts := State.each_proj State.hosts s l f hf

@[simp] theorem State.each_lnps {α : Type} (s : State) (l : List α) (f : State → α → State)
    (hf : ∀ x i, (f x i).lnps = x.lnps) : (s.each l f).lnps = s.lnps := State.each_proj State.lnps s l f hf

@[simp] theorem State.each_hearth {α : Type} (s : State) (l : List α) (f : State → α → State)
    (hf : ∀ x i, (f x i).hearth = x.hearth) : (s.each l f).hearth = s.hearth := State.each_proj State.hearth s l f hf

@[simp] theorem State.each_fw {α : Type} (s : State) (l : List α) (f : State → α → State)
    (hf : ∀ x i, (f x i).fw = x.fw) : (s.each l f).fw = s.fw := State.each_proj State.fw s l f hf

@[simp] theorem State.each_pmbus {α : Type} (s : State) (l : List α) (f : State → α → State)
    (hf : ∀ x i, (f x i).pmbus = x.pmbus) : (s.each l f).pmbus = s.pmbus := State.each_proj State.pmbus s l f hf

@[simp] theorem State.each_sessions {α : Type} (s : State) (l : List α) (f : State → α → State)
    (hf : ∀ x i, (f x i).sessions = x.sessions) : (s.each l f).sessions = s.sessions := State.each_proj State.sessions s l f hf

@[simp] theorem State.each_log {α : Type} (s : State) (l : List α) (f : State → α → State)
    (hf : ∀ x i, (f x i).log = x.log) : (s.each l f).log = s.log := State.each_proj State.log s l f hf

@[simp] theorem State.each_logSeq {α : Type} (s : State) (l : List α) (f : State → α → State)
    (hf : ∀ x i, (f x i).logSeq = x.logSeq) : (s.each l f).logSeq = s.logSeq := State.each_proj State.logSeq s l f hf

@[simp] theorem State.each_logFail {α : Type} (s : State) (l : List α) (f : State → α → State)
    (hf : ∀ x i, (f x i).logFail = x.logFail) : (s.each l f).logFail = s.logFail := State.each_proj State.logFail s l f hf

@[simp] theorem State.each_ashes {α : Type} (s : State) (l : List α) (f : State → α → State)
    (hf : ∀ x i, (f x i).ashes = x.ashes) : (s.each l f).ashes = s.ashes := State.each_proj State.ashes s l f hf

@[simp] theorem State.each_ashRun {α : Type} (s : State) (l : List α) (f : State → α → State)
    (hf : ∀ x i, (f x i).ashRun = x.ashRun) : (s.each l f).ashRun = s.ashRun := State.each_proj State.ashRun s l f hf

@[simp] theorem State.each_ashSeq {α : Type} (s : State) (l : List α) (f : State → α → State)
    (hf : ∀ x i, (f x i).ashSeq = x.ashSeq) : (s.each l f).ashSeq = s.ashSeq := State.each_proj State.ashSeq s l f hf

@[simp] theorem State.each_places {α : Type} (s : State) (l : List α) (f : State → α → State)
    (hf : ∀ x i, (f x i).places = x.places) : (s.each l f).places = s.places := State.each_proj State.places s l f hf

@[simp] theorem State.each_places6 {α : Type} (s : State) (l : List α) (f : State → α → State)
    (hf : ∀ x i, (f x i).places6 = x.places6) : (s.each l f).places6 = s.places6 := State.each_proj State.places6 s l f hf

@[simp] theorem State.each_pantry {α : Type} (s : State) (l : List α) (f : State → α → State)
    (hf : ∀ x i, (f x i).pantry = x.pantry) : (s.each l f).pantry = s.pantry := State.each_proj State.pantry s l f hf

@[simp] theorem State.each_broadcasts {α : Type} (s : State) (l : List α) (f : State → α → State)
    (hf : ∀ x i, (f x i).broadcasts = x.broadcasts) : (s.each l f).broadcasts = s.broadcasts := State.each_proj State.broadcasts s l f hf

@[simp] theorem State.each_bcastSeq {α : Type} (s : State) (l : List α) (f : State → α → State)
    (hf : ∀ x i, (f x i).bcastSeq = x.bcastSeq) : (s.each l f).bcastSeq = s.bcastSeq := State.each_proj State.bcastSeq s l f hf

@[simp] theorem State.each_out {α : Type} (s : State) (l : List α) (f : State → α → State)
    (hf : ∀ x i, (f x i).out = x.out) : (s.each l f).out = s.out := State.each_proj State.out s l f hf

@[simp] theorem State.each_free {α : Type} (s : State) (l : List α) (f : State → α → State)
    (hf : ∀ x i, (f x i).free = x.free) : (s.each l f).free = s.free := State.each_proj State.free s l f hf

@[simp] theorem State.each_hob {α : Type} (s : State) (l : List α) (f : State → α → State) (j : Nat)
    (hf : ∀ x i, (f x i).hob j = x.hob j) : (s.each l f).hob j = s.hob j := State.each_proj (fun s => s.hob j) s l f hf

@[simp] theorem State.each_cell {α : Type} (s : State) (l : List α) (f : State → α → State) (j : Nat)
    (hf : ∀ x i, (f x i).cell j = x.cell j) : (s.each l f).cell j = s.cell j := State.each_proj (fun s => s.cell j) s l f hf

@[simp] theorem State.each_router {α : Type} (s : State) (l : List α) (f : State → α → State) (j : Nat)
    (hf : ∀ x i, (f x i).router j = x.router j) : (s.each l f).router j = s.router j := State.each_proj (fun s => s.router j) s l f hf

@[simp] theorem State.each_pos {α : Type} (s : State) (l : List α) (f : State → α → State) (j : Nat)
    (hf : ∀ x i, (f x i).pos j = x.pos j) : (s.each l f).pos j = s.pos j := State.each_proj (fun s => s.pos j) s l f hf

@[simp] theorem State.each_rack {α : Type} (s : State) (l : List α) (f : State → α → State) (j : Nat)
    (hf : ∀ x i, (f x i).rack j = x.rack j) : (s.each l f).rack j = s.rack j := State.each_proj (fun s => s.rack j) s l f hf

@[simp] theorem State.each_stack {α : Type} (s : State) (l : List α) (f : State → α → State) (j : Nat)
    (hf : ∀ x i, (f x i).stack j = x.stack j) : (s.each l f).stack j = s.stack j := State.each_proj (fun s => s.stack j) s l f hf

@[simp] theorem State.each_host {α : Type} (s : State) (l : List α) (f : State → α → State) (j : Nat)
    (hf : ∀ x i, (f x i).host j = x.host j) : (s.each l f).host j = s.host j := State.each_proj (fun s => s.host j) s l f hf

@[simp] theorem State.each_lnp {α : Type} (s : State) (l : List α) (f : State → α → State) (j : Nat)
    (hf : ∀ x i, (f x i).lnp j = x.lnp j) : (s.each l f).lnp j = s.lnp j := State.each_proj (fun s => s.lnp j) s l f hf

@[simp] theorem State.modFn_parts (s : State) (p f : Nat) (g : Fn → Fn) (j : Nat) :
    (s.modFn p f g).hob j = s.hob j ∧ (s.modFn p f g).cell j = s.cell j ∧ (s.modFn p f g).router j = s.router j ∧
    (s.modFn p f g).pos j = s.pos j ∧ (s.modFn p f g).rack j = s.rack j ∧ (s.modFn p f g).stack j = s.stack j ∧
    (s.modFn p f g).lnp j = s.lnp j := by
  and_intros <;> rfl

@[simp] theorem State.modRing_parts (s : State) (p f r : Nat) (g : Ring → Ring) (j : Nat) :
    (s.modRing p f r g).hob j = s.hob j ∧ (s.modRing p f r g).cell j = s.cell j ∧
    (s.modRing p f r g).router j = s.router j ∧ (s.modRing p f r g).pos j = s.pos j ∧
    (s.modRing p f r g).rack j = s.rack j ∧ (s.modRing p f r g).stack j = s.stack j ∧
    (s.modRing p f r g).lnp j = s.lnp j := by
  and_intros <;> rfl

@[simp] theorem State.logPut_parts (s : State) (r : LogRec) (j : Nat) :
    (s.logPut r).hob j = s.hob j ∧ (s.logPut r).cell j = s.cell j ∧ (s.logPut r).router j = s.router j ∧
    (s.logPut r).pos j = s.pos j ∧ (s.logPut r).rack j = s.rack j ∧ (s.logPut r).stack j = s.stack j ∧
    (s.logPut r).host j = s.host j ∧ (s.logPut r).lnp j = s.lnp j := by
  and_intros <;> rfl

@[simp] theorem State.sealLog_frame (s : State) :
    (s.sealLog).st = s.st ∧ (s.sealLog).now = s.now ∧ (s.sealLog).boot = s.boot ∧ (s.sealLog).resets = s.resets ∧
    (s.sealLog).damper = s.damper ∧ (s.sealLog).sensors = s.sensors ∧ (s.sealLog).pins = s.pins ∧
    (s.sealLog).avl = s.avl ∧ (s.sealLog).cfgs = s.cfgs ∧ (s.sealLog).expel = s.expel ∧
    (s.sealLog).perturbs = s.perturbs ∧ (s.sealLog).cells = s.cells ∧ (s.sealLog).routers = s.routers ∧
    (s.sealLog).edgeIn = s.edgeIn ∧ (s.sealLog).rimIn = s.rimIn ∧ (s.sealLog).health = s.health ∧
    (s.sealLog).racks = s.racks ∧ (s.sealLog).hobs = s.hobs ∧ (s.sealLog).stk = s.stk ∧ (s.sealLog).lines = s.lines ∧
    (s.sealLog).errs = s.errs ∧ (s.sealLog).rdrs = s.rdrs ∧ (s.sealLog).rdrs6 = s.rdrs6 ∧ (s.sealLog).txns = s.txns ∧
    (s.sealLog).hosts = s.hosts ∧ (s.sealLog).lnps = s.lnps ∧ (s.sealLog).hearth = s.hearth ∧ (s.sealLog).fw = s.fw ∧
    (s.sealLog).pmbus = s.pmbus ∧ (s.sealLog).sessions = s.sessions ∧ (s.sealLog).logFail = s.logFail ∧
    (s.sealLog).ashes = s.ashes ∧ (s.sealLog).ashRun = s.ashRun ∧ (s.sealLog).ashSeq = s.ashSeq ∧
    (s.sealLog).places = s.places ∧ (s.sealLog).places6 = s.places6 ∧ (s.sealLog).pantry = s.pantry ∧
    (s.sealLog).broadcasts = s.broadcasts ∧ (s.sealLog).bcastSeq = s.bcastSeq ∧ (s.sealLog).out = s.out ∧
    (s.sealLog).free = s.free := by
  simp [State.sealLog]

@[simp] theorem State.sealLog_parts (s : State) (j : Nat) :
    (s.sealLog).cell j = s.cell j ∧ (s.sealLog).router j = s.router j ∧ (s.sealLog).pos j = s.pos j ∧
    (s.sealLog).rack j = s.rack j ∧ (s.sealLog).hob j = s.hob j ∧ (s.sealLog).stack j = s.stack j ∧
    (s.sealLog).host j = s.host j ∧ (s.sealLog).lnp j = s.lnp j := by
  simp only [State.cell, State.router, State.pos, State.rack, State.hob, State.stack, State.host, State.lnp, State.sealLog_frame, and_self]

@[simp] theorem State.logAdd_frame (s : State) (r : LogRec) :
    (s.logAdd r).st = s.st ∧ (s.logAdd r).now = s.now ∧ (s.logAdd r).boot = s.boot ∧ (s.logAdd r).resets = s.resets ∧
    (s.logAdd r).damper = s.damper ∧ (s.logAdd r).sensors = s.sensors ∧ (s.logAdd r).pins = s.pins ∧
    (s.logAdd r).avl = s.avl ∧ (s.logAdd r).cfgs = s.cfgs ∧ (s.logAdd r).expel = s.expel ∧
    (s.logAdd r).perturbs = s.perturbs ∧ (s.logAdd r).cells = s.cells ∧ (s.logAdd r).routers = s.routers ∧
    (s.logAdd r).edgeIn = s.edgeIn ∧ (s.logAdd r).rimIn = s.rimIn ∧ (s.logAdd r).health = s.health ∧
    (s.logAdd r).racks = s.racks ∧ (s.logAdd r).hobs = s.hobs ∧ (s.logAdd r).stk = s.stk ∧
    (s.logAdd r).lines = s.lines ∧ (s.logAdd r).errs = s.errs ∧ (s.logAdd r).rdrs = s.rdrs ∧
    (s.logAdd r).rdrs6 = s.rdrs6 ∧ (s.logAdd r).txns = s.txns ∧ (s.logAdd r).hosts = s.hosts ∧
    (s.logAdd r).lnps = s.lnps ∧ (s.logAdd r).hearth = s.hearth ∧ (s.logAdd r).fw = s.fw ∧
    (s.logAdd r).pmbus = s.pmbus ∧ (s.logAdd r).sessions = s.sessions ∧ (s.logAdd r).logFail = s.logFail ∧
    (s.logAdd r).ashes = s.ashes ∧ (s.logAdd r).ashRun = s.ashRun ∧ (s.logAdd r).ashSeq = s.ashSeq ∧
    (s.logAdd r).places = s.places ∧ (s.logAdd r).places6 = s.places6 ∧ (s.logAdd r).pantry = s.pantry ∧
    (s.logAdd r).broadcasts = s.broadcasts ∧ (s.logAdd r).bcastSeq = s.bcastSeq ∧ (s.logAdd r).out = s.out ∧
    (s.logAdd r).free = s.free := by
  simp [State.logAdd]

@[simp] theorem State.logAdd_parts (s : State) (r : LogRec) (j : Nat) :
    (s.logAdd r).cell j = s.cell j ∧ (s.logAdd r).router j = s.router j ∧ (s.logAdd r).pos j = s.pos j ∧
    (s.logAdd r).rack j = s.rack j ∧ (s.logAdd r).hob j = s.hob j ∧ (s.logAdd r).stack j = s.stack j ∧
    (s.logAdd r).host j = s.host j ∧ (s.logAdd r).lnp j = s.lnp j := by
  simp only [State.cell, State.router, State.pos, State.rack, State.hob, State.stack, State.host, State.lnp, State.logAdd_frame, and_self]

@[simp] theorem State.logDev_frame (s : State) (code : Nat) (hob : Nat) (args : List Nat) :
    (s.logDev code hob args).st = s.st ∧ (s.logDev code hob args).now = s.now ∧
    (s.logDev code hob args).boot = s.boot ∧ (s.logDev code hob args).resets = s.resets ∧
    (s.logDev code hob args).damper = s.damper ∧ (s.logDev code hob args).sensors = s.sensors ∧
    (s.logDev code hob args).pins = s.pins ∧ (s.logDev code hob args).avl = s.avl ∧
    (s.logDev code hob args).cfgs = s.cfgs ∧ (s.logDev code hob args).expel = s.expel ∧
    (s.logDev code hob args).perturbs = s.perturbs ∧ (s.logDev code hob args).cells = s.cells ∧
    (s.logDev code hob args).routers = s.routers ∧ (s.logDev code hob args).edgeIn = s.edgeIn ∧
    (s.logDev code hob args).rimIn = s.rimIn ∧ (s.logDev code hob args).health = s.health ∧
    (s.logDev code hob args).racks = s.racks ∧ (s.logDev code hob args).hobs = s.hobs ∧
    (s.logDev code hob args).stk = s.stk ∧ (s.logDev code hob args).lines = s.lines ∧
    (s.logDev code hob args).errs = s.errs ∧ (s.logDev code hob args).rdrs = s.rdrs ∧
    (s.logDev code hob args).rdrs6 = s.rdrs6 ∧ (s.logDev code hob args).txns = s.txns ∧
    (s.logDev code hob args).hosts = s.hosts ∧ (s.logDev code hob args).lnps = s.lnps ∧
    (s.logDev code hob args).hearth = s.hearth ∧ (s.logDev code hob args).fw = s.fw ∧
    (s.logDev code hob args).pmbus = s.pmbus ∧ (s.logDev code hob args).sessions = s.sessions ∧
    (s.logDev code hob args).logFail = s.logFail ∧ (s.logDev code hob args).ashes = s.ashes ∧
    (s.logDev code hob args).ashRun = s.ashRun ∧ (s.logDev code hob args).ashSeq = s.ashSeq ∧
    (s.logDev code hob args).places = s.places ∧ (s.logDev code hob args).places6 = s.places6 ∧
    (s.logDev code hob args).pantry = s.pantry ∧ (s.logDev code hob args).broadcasts = s.broadcasts ∧
    (s.logDev code hob args).bcastSeq = s.bcastSeq ∧ (s.logDev code hob args).out = s.out ∧
    (s.logDev code hob args).free = s.free := by
  simp [State.logDev]

@[simp] theorem State.logDev_parts (s : State) (code : Nat) (hob : Nat) (args : List Nat) (j : Nat) :
    (s.logDev code hob args).cell j = s.cell j ∧ (s.logDev code hob args).router j = s.router j ∧
    (s.logDev code hob args).pos j = s.pos j ∧ (s.logDev code hob args).rack j = s.rack j ∧
    (s.logDev code hob args).hob j = s.hob j ∧ (s.logDev code hob args).stack j = s.stack j ∧
    (s.logDev code hob args).host j = s.host j ∧ (s.logDev code hob args).lnp j = s.lnp j := by
  simp only [State.cell, State.router, State.pos, State.rack, State.hob, State.stack, State.host, State.lnp, State.logDev_frame, and_self]

@[simp] theorem State.interruptMsg_frame (s : State) (p f v : Nat) :
    (s.interruptMsg p f v).st = s.st ∧ (s.interruptMsg p f v).now = s.now ∧ (s.interruptMsg p f v).boot = s.boot ∧
    (s.interruptMsg p f v).resets = s.resets ∧ (s.interruptMsg p f v).damper = s.damper ∧
    (s.interruptMsg p f v).sensors = s.sensors ∧ (s.interruptMsg p f v).pins = s.pins ∧
    (s.interruptMsg p f v).avl = s.avl ∧ (s.interruptMsg p f v).cfgs = s.cfgs ∧
    (s.interruptMsg p f v).expel = s.expel ∧ (s.interruptMsg p f v).perturbs = s.perturbs ∧
    (s.interruptMsg p f v).cells = s.cells ∧ (s.interruptMsg p f v).routers = s.routers ∧
    (s.interruptMsg p f v).edgeIn = s.edgeIn ∧ (s.interruptMsg p f v).rimIn = s.rimIn ∧
    (s.interruptMsg p f v).health = s.health ∧ (s.interruptMsg p f v).racks = s.racks ∧
    (s.interruptMsg p f v).hobs = s.hobs ∧ (s.interruptMsg p f v).stk = s.stk ∧
    (s.interruptMsg p f v).lines = s.lines ∧ (s.interruptMsg p f v).errs = s.errs ∧
    (s.interruptMsg p f v).rdrs = s.rdrs ∧ (s.interruptMsg p f v).rdrs6 = s.rdrs6 ∧
    (s.interruptMsg p f v).txns = s.txns ∧ (s.interruptMsg p f v).lnps = s.lnps ∧
    (s.interruptMsg p f v).hearth = s.hearth ∧ (s.interruptMsg p f v).fw = s.fw ∧
    (s.interruptMsg p f v).pmbus = s.pmbus ∧ (s.interruptMsg p f v).sessions = s.sessions ∧
    (s.interruptMsg p f v).log = s.log ∧ (s.interruptMsg p f v).logSeq = s.logSeq ∧
    (s.interruptMsg p f v).logFail = s.logFail ∧ (s.interruptMsg p f v).ashes = s.ashes ∧
    (s.interruptMsg p f v).ashRun = s.ashRun ∧ (s.interruptMsg p f v).ashSeq = s.ashSeq ∧
    (s.interruptMsg p f v).places = s.places ∧ (s.interruptMsg p f v).places6 = s.places6 ∧
    (s.interruptMsg p f v).pantry = s.pantry ∧ (s.interruptMsg p f v).broadcasts = s.broadcasts ∧
    (s.interruptMsg p f v).bcastSeq = s.bcastSeq ∧ (s.interruptMsg p f v).free = s.free := by
  simp [State.interruptMsg]

@[simp] theorem State.interruptMsg_parts (s : State) (p f v : Nat) (j : Nat) :
    (s.interruptMsg p f v).cell j = s.cell j ∧ (s.interruptMsg p f v).router j = s.router j ∧
    (s.interruptMsg p f v).pos j = s.pos j ∧ (s.interruptMsg p f v).rack j = s.rack j ∧
    (s.interruptMsg p f v).hob j = s.hob j ∧ (s.interruptMsg p f v).stack j = s.stack j ∧
    (s.interruptMsg p f v).lnp j = s.lnp j := by
  simp only [State.cell, State.router, State.pos, State.rack, State.hob, State.stack, State.lnp, State.interruptMsg_frame, and_self]

@[simp] theorem State.signal_frame (s : State) (p f r : Nat) :
    (s.signal p f r).st = s.st ∧ (s.signal p f r).now = s.now ∧ (s.signal p f r).boot = s.boot ∧
    (s.signal p f r).resets = s.resets ∧ (s.signal p f r).damper = s.damper ∧ (s.signal p f r).sensors = s.sensors ∧
    (s.signal p f r).pins = s.pins ∧ (s.signal p f r).avl = s.avl ∧ (s.signal p f r).cfgs = s.cfgs ∧
    (s.signal p f r).expel = s.expel ∧ (s.signal p f r).perturbs = s.perturbs ∧ (s.signal p f r).cells = s.cells ∧
    (s.signal p f r).routers = s.routers ∧ (s.signal p f r).edgeIn = s.edgeIn ∧ (s.signal p f r).rimIn = s.rimIn ∧
    (s.signal p f r).health = s.health ∧ (s.signal p f r).racks = s.racks ∧ (s.signal p f r).hobs = s.hobs ∧
    (s.signal p f r).stk = s.stk ∧ (s.signal p f r).lines = s.lines ∧ (s.signal p f r).errs = s.errs ∧
    (s.signal p f r).rdrs = s.rdrs ∧ (s.signal p f r).rdrs6 = s.rdrs6 ∧ (s.signal p f r).txns = s.txns ∧
    (s.signal p f r).lnps = s.lnps ∧ (s.signal p f r).hearth = s.hearth ∧ (s.signal p f r).fw = s.fw ∧
    (s.signal p f r).pmbus = s.pmbus ∧ (s.signal p f r).sessions = s.sessions ∧ (s.signal p f r).log = s.log ∧
    (s.signal p f r).logSeq = s.logSeq ∧ (s.signal p f r).logFail = s.logFail ∧ (s.signal p f r).ashes = s.ashes ∧
    (s.signal p f r).ashRun = s.ashRun ∧ (s.signal p f r).ashSeq = s.ashSeq ∧ (s.signal p f r).places = s.places ∧
    (s.signal p f r).places6 = s.places6 ∧ (s.signal p f r).pantry = s.pantry ∧
    (s.signal p f r).broadcasts = s.broadcasts ∧ (s.signal p f r).bcastSeq = s.bcastSeq ∧ (s.signal p f r).free = s.free := by
  simp [State.signal]

@[simp] theorem State.signal_parts (s : State) (p f r : Nat) (j : Nat) :
    (s.signal p f r).cell j = s.cell j ∧ (s.signal p f r).router j = s.router j ∧ (s.signal p f r).pos j = s.pos j ∧
    (s.signal p f r).rack j = s.rack j ∧ (s.signal p f r).hob j = s.hob j ∧ (s.signal p f r).stack j = s.stack j ∧
    (s.signal p f r).lnp j = s.lnp j := by
  simp only [State.cell, State.router, State.pos, State.rack, State.hob, State.stack, State.lnp, State.signal_frame, and_self]

@[simp] theorem State.record_frame (s : State) (p f r : Nat) (tag : W32) (status op detail info0 info1 : Nat) (noirq : Bool) :
    (s.record p f r tag status op detail info0 info1 noirq).st = s.st ∧
    (s.record p f r tag status op detail info0 info1 noirq).now = s.now ∧
    (s.record p f r tag status op detail info0 info1 noirq).boot = s.boot ∧
    (s.record p f r tag status op detail info0 info1 noirq).resets = s.resets ∧
    (s.record p f r tag status op detail info0 info1 noirq).damper = s.damper ∧
    (s.record p f r tag status op detail info0 info1 noirq).sensors = s.sensors ∧
    (s.record p f r tag status op detail info0 info1 noirq).pins = s.pins ∧
    (s.record p f r tag status op detail info0 info1 noirq).avl = s.avl ∧
    (s.record p f r tag status op detail info0 info1 noirq).cfgs = s.cfgs ∧
    (s.record p f r tag status op detail info0 info1 noirq).expel = s.expel ∧
    (s.record p f r tag status op detail info0 info1 noirq).perturbs = s.perturbs ∧
    (s.record p f r tag status op detail info0 info1 noirq).cells = s.cells ∧
    (s.record p f r tag status op detail info0 info1 noirq).routers = s.routers ∧
    (s.record p f r tag status op detail info0 info1 noirq).edgeIn = s.edgeIn ∧
    (s.record p f r tag status op detail info0 info1 noirq).rimIn = s.rimIn ∧
    (s.record p f r tag status op detail info0 info1 noirq).health = s.health ∧
    (s.record p f r tag status op detail info0 info1 noirq).racks = s.racks ∧
    (s.record p f r tag status op detail info0 info1 noirq).hobs = s.hobs ∧
    (s.record p f r tag status op detail info0 info1 noirq).stk = s.stk ∧
    (s.record p f r tag status op detail info0 info1 noirq).lines = s.lines ∧
    (s.record p f r tag status op detail info0 info1 noirq).errs = s.errs ∧
    (s.record p f r tag status op detail info0 info1 noirq).rdrs = s.rdrs ∧
    (s.record p f r tag status op detail info0 info1 noirq).rdrs6 = s.rdrs6 ∧
    (s.record p f r tag status op detail info0 info1 noirq).txns = s.txns ∧
    (s.record p f r tag status op detail info0 info1 noirq).lnps = s.lnps ∧
    (s.record p f r tag status op detail info0 info1 noirq).hearth = s.hearth ∧
    (s.record p f r tag status op detail info0 info1 noirq).fw = s.fw ∧
    (s.record p f r tag status op detail info0 info1 noirq).pmbus = s.pmbus ∧
    (s.record p f r tag status op detail info0 info1 noirq).sessions = s.sessions ∧
    (s.record p f r tag status op detail info0 info1 noirq).log = s.log ∧
    (s.record p f r tag status op detail info0 info1 noirq).logSeq = s.logSeq ∧
    (s.record p f r tag status op detail info0 info1 noirq).logFail = s.logFail ∧
    (s.record p f r tag status op detail info0 info1 noirq).ashes = s.ashes ∧
    (s.record p f r tag status op detail info0 info1 noirq).ashRun = s.ashRun ∧
    (s.record p f r tag status op detail info0 info1 noirq).ashSeq = s.ashSeq ∧
    (s.record p f r tag status op detail info0 info1 noirq).places = s.places ∧
    (s.record p f r tag status op detail info0 info1 noirq).places6 = s.places6 ∧
    (s.record p f r tag status op detail info0 info1 noirq).pantry = s.pantry ∧
    (s.record p f r tag status op detail info0 info1 noirq).broadcasts = s.broadcasts ∧
    (s.record p f r tag status op detail info0 info1 noirq).bcastSeq = s.bcastSeq ∧
    (s.record p f r tag status op detail info0 info1 noirq).free = s.free := by
  simp [State.record]

@[simp] theorem State.record_parts (s : State) (p f r : Nat) (tag : W32) (status op detail info0 info1 : Nat) (noirq : Bool) (j : Nat) :
    (s.record p f r tag status op detail info0 info1 noirq).cell j = s.cell j ∧
    (s.record p f r tag status op detail info0 info1 noirq).router j = s.router j ∧
    (s.record p f r tag status op detail info0 info1 noirq).pos j = s.pos j ∧
    (s.record p f r tag status op detail info0 info1 noirq).rack j = s.rack j ∧
    (s.record p f r tag status op detail info0 info1 noirq).hob j = s.hob j ∧
    (s.record p f r tag status op detail info0 info1 noirq).stack j = s.stack j ∧
    (s.record p f r tag status op detail info0 info1 noirq).lnp j = s.lnp j := by
  simp only [State.cell, State.router, State.pos, State.rack, State.hob, State.stack, State.lnp, State.record_frame, and_self]

@[simp] theorem State.complete_frame (s : State) (ref : CmdRef) (op status detail info0 info1 : Nat) :
    (s.complete ref op status detail info0 info1).st = s.st ∧
    (s.complete ref op status detail info0 info1).now = s.now ∧
    (s.complete ref op status detail info0 info1).boot = s.boot ∧
    (s.complete ref op status detail info0 info1).resets = s.resets ∧
    (s.complete ref op status detail info0 info1).damper = s.damper ∧
    (s.complete ref op status detail info0 info1).sensors = s.sensors ∧
    (s.complete ref op status detail info0 info1).pins = s.pins ∧
    (s.complete ref op status detail info0 info1).avl = s.avl ∧
    (s.complete ref op status detail info0 info1).cfgs = s.cfgs ∧
    (s.complete ref op status detail info0 info1).expel = s.expel ∧
    (s.complete ref op status detail info0 info1).perturbs = s.perturbs ∧
    (s.complete ref op status detail info0 info1).cells = s.cells ∧
    (s.complete ref op status detail info0 info1).routers = s.routers ∧
    (s.complete ref op status detail info0 info1).edgeIn = s.edgeIn ∧
    (s.complete ref op status detail info0 info1).rimIn = s.rimIn ∧
    (s.complete ref op status detail info0 info1).health = s.health ∧
    (s.complete ref op status detail info0 info1).racks = s.racks ∧
    (s.complete ref op status detail info0 info1).hobs = s.hobs ∧
    (s.complete ref op status detail info0 info1).stk = s.stk ∧
    (s.complete ref op status detail info0 info1).lines = s.lines ∧
    (s.complete ref op status detail info0 info1).errs = s.errs ∧
    (s.complete ref op status detail info0 info1).rdrs = s.rdrs ∧
    (s.complete ref op status detail info0 info1).rdrs6 = s.rdrs6 ∧
    (s.complete ref op status detail info0 info1).txns = s.txns ∧
    (s.complete ref op status detail info0 info1).lnps = s.lnps ∧
    (s.complete ref op status detail info0 info1).hearth = s.hearth ∧
    (s.complete ref op status detail info0 info1).fw = s.fw ∧
    (s.complete ref op status detail info0 info1).pmbus = s.pmbus ∧
    (s.complete ref op status detail info0 info1).sessions = s.sessions ∧
    (s.complete ref op status detail info0 info1).log = s.log ∧
    (s.complete ref op status detail info0 info1).logSeq = s.logSeq ∧
    (s.complete ref op status detail info0 info1).logFail = s.logFail ∧
    (s.complete ref op status detail info0 info1).ashes = s.ashes ∧
    (s.complete ref op status detail info0 info1).ashRun = s.ashRun ∧
    (s.complete ref op status detail info0 info1).ashSeq = s.ashSeq ∧
    (s.complete ref op status detail info0 info1).places = s.places ∧
    (s.complete ref op status detail info0 info1).places6 = s.places6 ∧
    (s.complete ref op status detail info0 info1).pantry = s.pantry ∧
    (s.complete ref op status detail info0 info1).broadcasts = s.broadcasts ∧
    (s.complete ref op status detail info0 info1).bcastSeq = s.bcastSeq ∧
    (s.complete ref op status detail info0 info1).free = s.free := by
  simp [State.complete]

@[simp] theorem State.complete_parts (s : State) (ref : CmdRef) (op status detail info0 info1 : Nat) (j : Nat) :
    (s.complete ref op status detail info0 info1).cell j = s.cell j ∧
    (s.complete ref op status detail info0 info1).router j = s.router j ∧
    (s.complete ref op status detail info0 info1).pos j = s.pos j ∧
    (s.complete ref op status detail info0 info1).rack j = s.rack j ∧
    (s.complete ref op status detail info0 info1).hob j = s.hob j ∧
    (s.complete ref op status detail info0 info1).stack j = s.stack j ∧
    (s.complete ref op status detail info0 info1).lnp j = s.lnp j := by
  simp only [State.cell, State.router, State.pos, State.rack, State.hob, State.stack, State.lnp, State.complete_frame, and_self]

@[simp] theorem State.recordEach_frame (s : State) (ref : CmdRef) (info0 info1 : Nat) :
    (s.recordEach ref info0 info1).st = s.st ∧ (s.recordEach ref info0 info1).now = s.now ∧
    (s.recordEach ref info0 info1).boot = s.boot ∧ (s.recordEach ref info0 info1).resets = s.resets ∧
    (s.recordEach ref info0 info1).damper = s.damper ∧ (s.recordEach ref info0 info1).sensors = s.sensors ∧
    (s.recordEach ref info0 info1).pins = s.pins ∧ (s.recordEach ref info0 info1).avl = s.avl ∧
    (s.recordEach ref info0 info1).cfgs = s.cfgs ∧ (s.recordEach ref info0 info1).expel = s.expel ∧
    (s.recordEach ref info0 info1).perturbs = s.perturbs ∧ (s.recordEach ref info0 info1).cells = s.cells ∧
    (s.recordEach ref info0 info1).routers = s.routers ∧ (s.recordEach ref info0 info1).edgeIn = s.edgeIn ∧
    (s.recordEach ref info0 info1).rimIn = s.rimIn ∧ (s.recordEach ref info0 info1).health = s.health ∧
    (s.recordEach ref info0 info1).racks = s.racks ∧ (s.recordEach ref info0 info1).hobs = s.hobs ∧
    (s.recordEach ref info0 info1).stk = s.stk ∧ (s.recordEach ref info0 info1).lines = s.lines ∧
    (s.recordEach ref info0 info1).errs = s.errs ∧ (s.recordEach ref info0 info1).rdrs = s.rdrs ∧
    (s.recordEach ref info0 info1).rdrs6 = s.rdrs6 ∧ (s.recordEach ref info0 info1).txns = s.txns ∧
    (s.recordEach ref info0 info1).lnps = s.lnps ∧ (s.recordEach ref info0 info1).hearth = s.hearth ∧
    (s.recordEach ref info0 info1).fw = s.fw ∧ (s.recordEach ref info0 info1).pmbus = s.pmbus ∧
    (s.recordEach ref info0 info1).sessions = s.sessions ∧ (s.recordEach ref info0 info1).log = s.log ∧
    (s.recordEach ref info0 info1).logSeq = s.logSeq ∧ (s.recordEach ref info0 info1).logFail = s.logFail ∧
    (s.recordEach ref info0 info1).ashes = s.ashes ∧ (s.recordEach ref info0 info1).ashRun = s.ashRun ∧
    (s.recordEach ref info0 info1).ashSeq = s.ashSeq ∧ (s.recordEach ref info0 info1).places = s.places ∧
    (s.recordEach ref info0 info1).places6 = s.places6 ∧ (s.recordEach ref info0 info1).pantry = s.pantry ∧
    (s.recordEach ref info0 info1).broadcasts = s.broadcasts ∧ (s.recordEach ref info0 info1).bcastSeq = s.bcastSeq ∧
    (s.recordEach ref info0 info1).free = s.free := by
  simp [State.recordEach]

@[simp] theorem State.recordEach_parts (s : State) (ref : CmdRef) (info0 info1 : Nat) (j : Nat) :
    (s.recordEach ref info0 info1).cell j = s.cell j ∧ (s.recordEach ref info0 info1).router j = s.router j ∧
    (s.recordEach ref info0 info1).pos j = s.pos j ∧ (s.recordEach ref info0 info1).rack j = s.rack j ∧
    (s.recordEach ref info0 info1).hob j = s.hob j ∧ (s.recordEach ref info0 info1).stack j = s.stack j ∧
    (s.recordEach ref info0 info1).lnp j = s.lnp j := by
  simp only [State.cell, State.router, State.pos, State.rack, State.hob, State.stack, State.lnp, State.recordEach_frame, and_self]

@[simp] theorem State.postOwed_frame (s : State) (p f r : Nat) :
    (s.postOwed p f r).st = s.st ∧ (s.postOwed p f r).now = s.now ∧ (s.postOwed p f r).boot = s.boot ∧
    (s.postOwed p f r).resets = s.resets ∧ (s.postOwed p f r).damper = s.damper ∧
    (s.postOwed p f r).sensors = s.sensors ∧ (s.postOwed p f r).pins = s.pins ∧ (s.postOwed p f r).avl = s.avl ∧
    (s.postOwed p f r).cfgs = s.cfgs ∧ (s.postOwed p f r).expel = s.expel ∧ (s.postOwed p f r).perturbs = s.perturbs ∧
    (s.postOwed p f r).cells = s.cells ∧ (s.postOwed p f r).routers = s.routers ∧
    (s.postOwed p f r).edgeIn = s.edgeIn ∧ (s.postOwed p f r).rimIn = s.rimIn ∧ (s.postOwed p f r).health = s.health ∧
    (s.postOwed p f r).racks = s.racks ∧ (s.postOwed p f r).hobs = s.hobs ∧ (s.postOwed p f r).stk = s.stk ∧
    (s.postOwed p f r).lines = s.lines ∧ (s.postOwed p f r).errs = s.errs ∧ (s.postOwed p f r).rdrs = s.rdrs ∧
    (s.postOwed p f r).rdrs6 = s.rdrs6 ∧ (s.postOwed p f r).txns = s.txns ∧ (s.postOwed p f r).lnps = s.lnps ∧
    (s.postOwed p f r).hearth = s.hearth ∧ (s.postOwed p f r).fw = s.fw ∧ (s.postOwed p f r).pmbus = s.pmbus ∧
    (s.postOwed p f r).sessions = s.sessions ∧ (s.postOwed p f r).log = s.log ∧ (s.postOwed p f r).logSeq = s.logSeq ∧
    (s.postOwed p f r).logFail = s.logFail ∧ (s.postOwed p f r).ashes = s.ashes ∧
    (s.postOwed p f r).ashRun = s.ashRun ∧ (s.postOwed p f r).ashSeq = s.ashSeq ∧
    (s.postOwed p f r).places = s.places ∧ (s.postOwed p f r).places6 = s.places6 ∧
    (s.postOwed p f r).pantry = s.pantry ∧ (s.postOwed p f r).broadcasts = s.broadcasts ∧
    (s.postOwed p f r).bcastSeq = s.bcastSeq ∧ (s.postOwed p f r).free = s.free := by
  unfold State.postOwed
  and_intros
  · exact State.each_proj State.st _ _ _ fun _ _ => by split <;> simp
  · exact State.each_proj State.now _ _ _ fun _ _ => by split <;> simp
  · exact State.each_proj State.boot _ _ _ fun _ _ => by split <;> simp
  · exact State.each_proj State.resets _ _ _ fun _ _ => by split <;> simp
  · exact State.each_proj State.damper _ _ _ fun _ _ => by split <;> simp
  · exact State.each_proj State.sensors _ _ _ fun _ _ => by split <;> simp
  · exact State.each_proj State.pins _ _ _ fun _ _ => by split <;> simp
  · exact State.each_proj State.avl _ _ _ fun _ _ => by split <;> simp
  · exact State.each_proj State.cfgs _ _ _ fun _ _ => by split <;> simp
  · exact State.each_proj State.expel _ _ _ fun _ _ => by split <;> simp
  · exact State.each_proj State.perturbs _ _ _ fun _ _ => by split <;> simp
  · exact State.each_proj State.cells _ _ _ fun _ _ => by split <;> simp
  · exact State.each_proj State.routers _ _ _ fun _ _ => by split <;> simp
  · exact State.each_proj State.edgeIn _ _ _ fun _ _ => by split <;> simp
  · exact State.each_proj State.rimIn _ _ _ fun _ _ => by split <;> simp
  · exact State.each_proj State.health _ _ _ fun _ _ => by split <;> simp
  · exact State.each_proj State.racks _ _ _ fun _ _ => by split <;> simp
  · exact State.each_proj State.hobs _ _ _ fun _ _ => by split <;> simp
  · exact State.each_proj State.stk _ _ _ fun _ _ => by split <;> simp
  · exact State.each_proj State.lines _ _ _ fun _ _ => by split <;> simp
  · exact State.each_proj State.errs _ _ _ fun _ _ => by split <;> simp
  · exact State.each_proj State.rdrs _ _ _ fun _ _ => by split <;> simp
  · exact State.each_proj State.rdrs6 _ _ _ fun _ _ => by split <;> simp
  · exact State.each_proj State.txns _ _ _ fun _ _ => by split <;> simp
  · exact State.each_proj State.lnps _ _ _ fun _ _ => by split <;> simp
  · exact State.each_proj State.hearth _ _ _ fun _ _ => by split <;> simp
  · exact State.each_proj State.fw _ _ _ fun _ _ => by split <;> simp
  · exact State.each_proj State.pmbus _ _ _ fun _ _ => by split <;> simp
  · exact State.each_proj State.sessions _ _ _ fun _ _ => by split <;> simp
  · exact State.each_proj State.log _ _ _ fun _ _ => by split <;> simp
  · exact State.each_proj State.logSeq _ _ _ fun _ _ => by split <;> simp
  · exact State.each_proj State.logFail _ _ _ fun _ _ => by split <;> simp
  · exact State.each_proj State.ashes _ _ _ fun _ _ => by split <;> simp
  · exact State.each_proj State.ashRun _ _ _ fun _ _ => by split <;> simp
  · exact State.each_proj State.ashSeq _ _ _ fun _ _ => by split <;> simp
  · exact State.each_proj State.places _ _ _ fun _ _ => by split <;> simp
  · exact State.each_proj State.places6 _ _ _ fun _ _ => by split <;> simp
  · exact State.each_proj State.pantry _ _ _ fun _ _ => by split <;> simp
  · exact State.each_proj State.broadcasts _ _ _ fun _ _ => by split <;> simp
  · exact State.each_proj State.bcastSeq _ _ _ fun _ _ => by split <;> simp
  · exact State.each_proj State.free _ _ _ fun _ _ => by split <;> simp

@[simp] theorem State.postOwed_parts (s : State) (p f r : Nat) (j : Nat) :
    (s.postOwed p f r).cell j = s.cell j ∧ (s.postOwed p f r).router j = s.router j ∧
    (s.postOwed p f r).pos j = s.pos j ∧ (s.postOwed p f r).rack j = s.rack j ∧ (s.postOwed p f r).hob j = s.hob j ∧
    (s.postOwed p f r).stack j = s.stack j ∧ (s.postOwed p f r).lnp j = s.lnp j := by
  simp only [State.cell, State.router, State.pos, State.rack, State.hob, State.stack, State.lnp, State.postOwed_frame, and_self]

@[simp] theorem State.eventOn_frame (s : State) (p f r status detail info0 info1 : Nat) :
    (s.eventOn p f r status detail info0 info1).2.st = s.st ∧
    (s.eventOn p f r status detail info0 info1).2.now = s.now ∧
    (s.eventOn p f r status detail info0 info1).2.boot = s.boot ∧
    (s.eventOn p f r status detail info0 info1).2.resets = s.resets ∧
    (s.eventOn p f r status detail info0 info1).2.damper = s.damper ∧
    (s.eventOn p f r status detail info0 info1).2.sensors = s.sensors ∧
    (s.eventOn p f r status detail info0 info1).2.pins = s.pins ∧
    (s.eventOn p f r status detail info0 info1).2.avl = s.avl ∧
    (s.eventOn p f r status detail info0 info1).2.cfgs = s.cfgs ∧
    (s.eventOn p f r status detail info0 info1).2.expel = s.expel ∧
    (s.eventOn p f r status detail info0 info1).2.perturbs = s.perturbs ∧
    (s.eventOn p f r status detail info0 info1).2.cells = s.cells ∧
    (s.eventOn p f r status detail info0 info1).2.routers = s.routers ∧
    (s.eventOn p f r status detail info0 info1).2.edgeIn = s.edgeIn ∧
    (s.eventOn p f r status detail info0 info1).2.rimIn = s.rimIn ∧
    (s.eventOn p f r status detail info0 info1).2.health = s.health ∧
    (s.eventOn p f r status detail info0 info1).2.racks = s.racks ∧
    (s.eventOn p f r status detail info0 info1).2.hobs = s.hobs ∧
    (s.eventOn p f r status detail info0 info1).2.stk = s.stk ∧
    (s.eventOn p f r status detail info0 info1).2.lines = s.lines ∧
    (s.eventOn p f r status detail info0 info1).2.errs = s.errs ∧
    (s.eventOn p f r status detail info0 info1).2.rdrs = s.rdrs ∧
    (s.eventOn p f r status detail info0 info1).2.rdrs6 = s.rdrs6 ∧
    (s.eventOn p f r status detail info0 info1).2.txns = s.txns ∧
    (s.eventOn p f r status detail info0 info1).2.lnps = s.lnps ∧
    (s.eventOn p f r status detail info0 info1).2.hearth = s.hearth ∧
    (s.eventOn p f r status detail info0 info1).2.fw = s.fw ∧
    (s.eventOn p f r status detail info0 info1).2.pmbus = s.pmbus ∧
    (s.eventOn p f r status detail info0 info1).2.sessions = s.sessions ∧
    (s.eventOn p f r status detail info0 info1).2.log = s.log ∧
    (s.eventOn p f r status detail info0 info1).2.logSeq = s.logSeq ∧
    (s.eventOn p f r status detail info0 info1).2.logFail = s.logFail ∧
    (s.eventOn p f r status detail info0 info1).2.ashes = s.ashes ∧
    (s.eventOn p f r status detail info0 info1).2.ashRun = s.ashRun ∧
    (s.eventOn p f r status detail info0 info1).2.ashSeq = s.ashSeq ∧
    (s.eventOn p f r status detail info0 info1).2.places = s.places ∧
    (s.eventOn p f r status detail info0 info1).2.places6 = s.places6 ∧
    (s.eventOn p f r status detail info0 info1).2.pantry = s.pantry ∧
    (s.eventOn p f r status detail info0 info1).2.broadcasts = s.broadcasts ∧
    (s.eventOn p f r status detail info0 info1).2.bcastSeq = s.bcastSeq ∧
    (s.eventOn p f r status detail info0 info1).2.free = s.free := by
  unfold State.eventOn
  dsimp only
  repeat' split
  all_goals simp_all

@[simp] theorem State.eventOn_parts (s : State) (p f r status detail info0 info1 : Nat) (j : Nat) :
    (s.eventOn p f r status detail info0 info1).2.cell j = s.cell j ∧
    (s.eventOn p f r status detail info0 info1).2.router j = s.router j ∧
    (s.eventOn p f r status detail info0 info1).2.pos j = s.pos j ∧
    (s.eventOn p f r status detail info0 info1).2.rack j = s.rack j ∧
    (s.eventOn p f r status detail info0 info1).2.hob j = s.hob j ∧
    (s.eventOn p f r status detail info0 info1).2.stack j = s.stack j ∧
    (s.eventOn p f r status detail info0 info1).2.lnp j = s.lnp j := by
  simp only [State.cell, State.router, State.pos, State.rack, State.hob, State.stack, State.lnp, State.eventOn_frame, and_self]

@[simp] theorem State.eventOrLose_frame (s : State) (p f r status detail info0 info1 : Nat) :
    (s.eventOrLose p f r status detail info0 info1).st = s.st ∧
    (s.eventOrLose p f r status detail info0 info1).now = s.now ∧
    (s.eventOrLose p f r status detail info0 info1).boot = s.boot ∧
    (s.eventOrLose p f r status detail info0 info1).resets = s.resets ∧
    (s.eventOrLose p f r status detail info0 info1).damper = s.damper ∧
    (s.eventOrLose p f r status detail info0 info1).sensors = s.sensors ∧
    (s.eventOrLose p f r status detail info0 info1).pins = s.pins ∧
    (s.eventOrLose p f r status detail info0 info1).avl = s.avl ∧
    (s.eventOrLose p f r status detail info0 info1).cfgs = s.cfgs ∧
    (s.eventOrLose p f r status detail info0 info1).expel = s.expel ∧
    (s.eventOrLose p f r status detail info0 info1).perturbs = s.perturbs ∧
    (s.eventOrLose p f r status detail info0 info1).cells = s.cells ∧
    (s.eventOrLose p f r status detail info0 info1).routers = s.routers ∧
    (s.eventOrLose p f r status detail info0 info1).edgeIn = s.edgeIn ∧
    (s.eventOrLose p f r status detail info0 info1).rimIn = s.rimIn ∧
    (s.eventOrLose p f r status detail info0 info1).health = s.health ∧
    (s.eventOrLose p f r status detail info0 info1).racks = s.racks ∧
    (s.eventOrLose p f r status detail info0 info1).stk = s.stk ∧
    (s.eventOrLose p f r status detail info0 info1).lines = s.lines ∧
    (s.eventOrLose p f r status detail info0 info1).errs = s.errs ∧
    (s.eventOrLose p f r status detail info0 info1).rdrs = s.rdrs ∧
    (s.eventOrLose p f r status detail info0 info1).rdrs6 = s.rdrs6 ∧
    (s.eventOrLose p f r status detail info0 info1).txns = s.txns ∧
    (s.eventOrLose p f r status detail info0 info1).lnps = s.lnps ∧
    (s.eventOrLose p f r status detail info0 info1).hearth = s.hearth ∧
    (s.eventOrLose p f r status detail info0 info1).fw = s.fw ∧
    (s.eventOrLose p f r status detail info0 info1).pmbus = s.pmbus ∧
    (s.eventOrLose p f r status detail info0 info1).sessions = s.sessions ∧
    (s.eventOrLose p f r status detail info0 info1).log = s.log ∧
    (s.eventOrLose p f r status detail info0 info1).logSeq = s.logSeq ∧
    (s.eventOrLose p f r status detail info0 info1).logFail = s.logFail ∧
    (s.eventOrLose p f r status detail info0 info1).ashes = s.ashes ∧
    (s.eventOrLose p f r status detail info0 info1).ashRun = s.ashRun ∧
    (s.eventOrLose p f r status detail info0 info1).ashSeq = s.ashSeq ∧
    (s.eventOrLose p f r status detail info0 info1).places = s.places ∧
    (s.eventOrLose p f r status detail info0 info1).places6 = s.places6 ∧
    (s.eventOrLose p f r status detail info0 info1).pantry = s.pantry ∧
    (s.eventOrLose p f r status detail info0 info1).broadcasts = s.broadcasts ∧
    (s.eventOrLose p f r status detail info0 info1).bcastSeq = s.bcastSeq ∧
    (s.eventOrLose p f r status detail info0 info1).free = s.free := by
  simp [State.eventOrLose]

@[simp] theorem State.eventOrLose_parts (s : State) (p f r status detail info0 info1 : Nat) (j : Nat) :
    (s.eventOrLose p f r status detail info0 info1).cell j = s.cell j ∧
    (s.eventOrLose p f r status detail info0 info1).router j = s.router j ∧
    (s.eventOrLose p f r status detail info0 info1).pos j = s.pos j ∧
    (s.eventOrLose p f r status detail info0 info1).rack j = s.rack j ∧
    (s.eventOrLose p f r status detail info0 info1).stack j = s.stack j ∧
    (s.eventOrLose p f r status detail info0 info1).lnp j = s.lnp j := by
  simp only [State.cell, State.router, State.pos, State.rack, State.stack, State.lnp, State.eventOrLose_frame, and_self]

@[simp] theorem State.hobEvent_frame (s : State) (h status detail info1 : Nat) :
    (s.hobEvent h status detail info1).st = s.st ∧ (s.hobEvent h status detail info1).now = s.now ∧
    (s.hobEvent h status detail info1).boot = s.boot ∧ (s.hobEvent h status detail info1).resets = s.resets ∧
    (s.hobEvent h status detail info1).damper = s.damper ∧ (s.hobEvent h status detail info1).sensors = s.sensors ∧
    (s.hobEvent h status detail info1).pins = s.pins ∧ (s.hobEvent h status detail info1).avl = s.avl ∧
    (s.hobEvent h status detail info1).cfgs = s.cfgs ∧ (s.hobEvent h status detail info1).expel = s.expel ∧
    (s.hobEvent h status detail info1).perturbs = s.perturbs ∧ (s.hobEvent h status detail info1).cells = s.cells ∧
    (s.hobEvent h status detail info1).routers = s.routers ∧ (s.hobEvent h status detail info1).edgeIn = s.edgeIn ∧
    (s.hobEvent h status detail info1).rimIn = s.rimIn ∧ (s.hobEvent h status detail info1).health = s.health ∧
    (s.hobEvent h status detail info1).racks = s.racks ∧ (s.hobEvent h status detail info1).stk = s.stk ∧
    (s.hobEvent h status detail info1).lines = s.lines ∧ (s.hobEvent h status detail info1).errs = s.errs ∧
    (s.hobEvent h status detail info1).rdrs = s.rdrs ∧ (s.hobEvent h status detail info1).rdrs6 = s.rdrs6 ∧
    (s.hobEvent h status detail info1).txns = s.txns ∧ (s.hobEvent h status detail info1).lnps = s.lnps ∧
    (s.hobEvent h status detail info1).hearth = s.hearth ∧ (s.hobEvent h status detail info1).fw = s.fw ∧
    (s.hobEvent h status detail info1).pmbus = s.pmbus ∧ (s.hobEvent h status detail info1).sessions = s.sessions ∧
    (s.hobEvent h status detail info1).log = s.log ∧ (s.hobEvent h status detail info1).logSeq = s.logSeq ∧
    (s.hobEvent h status detail info1).logFail = s.logFail ∧ (s.hobEvent h status detail info1).ashes = s.ashes ∧
    (s.hobEvent h status detail info1).ashRun = s.ashRun ∧ (s.hobEvent h status detail info1).ashSeq = s.ashSeq ∧
    (s.hobEvent h status detail info1).places = s.places ∧ (s.hobEvent h status detail info1).places6 = s.places6 ∧
    (s.hobEvent h status detail info1).pantry = s.pantry ∧
    (s.hobEvent h status detail info1).broadcasts = s.broadcasts ∧
    (s.hobEvent h status detail info1).bcastSeq = s.bcastSeq ∧ (s.hobEvent h status detail info1).free = s.free := by
  simp [State.hobEvent]

@[simp] theorem State.hobEvent_parts (s : State) (h status detail info1 : Nat) (j : Nat) :
    (s.hobEvent h status detail info1).cell j = s.cell j ∧ (s.hobEvent h status detail info1).router j = s.router j ∧
    (s.hobEvent h status detail info1).pos j = s.pos j ∧ (s.hobEvent h status detail info1).rack j = s.rack j ∧
    (s.hobEvent h status detail info1).stack j = s.stack j ∧ (s.hobEvent h status detail info1).lnp j = s.lnp j := by
  simp only [State.cell, State.router, State.pos, State.rack, State.stack, State.lnp, State.hobEvent_frame, and_self]

@[simp] theorem State.devEvent_frame (s : State) (status detail info1 : Nat) :
    (s.devEvent status detail info1).st = s.st ∧ (s.devEvent status detail info1).now = s.now ∧
    (s.devEvent status detail info1).boot = s.boot ∧ (s.devEvent status detail info1).resets = s.resets ∧
    (s.devEvent status detail info1).damper = s.damper ∧ (s.devEvent status detail info1).sensors = s.sensors ∧
    (s.devEvent status detail info1).pins = s.pins ∧ (s.devEvent status detail info1).avl = s.avl ∧
    (s.devEvent status detail info1).cfgs = s.cfgs ∧ (s.devEvent status detail info1).expel = s.expel ∧
    (s.devEvent status detail info1).perturbs = s.perturbs ∧ (s.devEvent status detail info1).cells = s.cells ∧
    (s.devEvent status detail info1).routers = s.routers ∧ (s.devEvent status detail info1).edgeIn = s.edgeIn ∧
    (s.devEvent status detail info1).rimIn = s.rimIn ∧ (s.devEvent status detail info1).health = s.health ∧
    (s.devEvent status detail info1).racks = s.racks ∧ (s.devEvent status detail info1).stk = s.stk ∧
    (s.devEvent status detail info1).lines = s.lines ∧ (s.devEvent status detail info1).errs = s.errs ∧
    (s.devEvent status detail info1).rdrs = s.rdrs ∧ (s.devEvent status detail info1).rdrs6 = s.rdrs6 ∧
    (s.devEvent status detail info1).txns = s.txns ∧ (s.devEvent status detail info1).lnps = s.lnps ∧
    (s.devEvent status detail info1).hearth = s.hearth ∧ (s.devEvent status detail info1).fw = s.fw ∧
    (s.devEvent status detail info1).pmbus = s.pmbus ∧ (s.devEvent status detail info1).sessions = s.sessions ∧
    (s.devEvent status detail info1).log = s.log ∧ (s.devEvent status detail info1).logSeq = s.logSeq ∧
    (s.devEvent status detail info1).logFail = s.logFail ∧ (s.devEvent status detail info1).ashes = s.ashes ∧
    (s.devEvent status detail info1).ashRun = s.ashRun ∧ (s.devEvent status detail info1).ashSeq = s.ashSeq ∧
    (s.devEvent status detail info1).places = s.places ∧ (s.devEvent status detail info1).places6 = s.places6 ∧
    (s.devEvent status detail info1).pantry = s.pantry ∧ (s.devEvent status detail info1).broadcasts = s.broadcasts ∧
    (s.devEvent status detail info1).bcastSeq = s.bcastSeq ∧ (s.devEvent status detail info1).free = s.free := by
  simp [State.devEvent]

@[simp] theorem State.devEvent_parts (s : State) (status detail info1 : Nat) (j : Nat) :
    (s.devEvent status detail info1).cell j = s.cell j ∧ (s.devEvent status detail info1).router j = s.router j ∧
    (s.devEvent status detail info1).pos j = s.pos j ∧ (s.devEvent status detail info1).rack j = s.rack j ∧
    (s.devEvent status detail info1).stack j = s.stack j ∧ (s.devEvent status detail info1).lnp j = s.lnp j := by
  simp only [State.cell, State.router, State.pos, State.rack, State.stack, State.lnp, State.devEvent_frame, and_self]

@[simp] theorem State.startVfRings_frame (s : State) :
    (s.startVfRings).st = s.st ∧ (s.startVfRings).now = s.now ∧ (s.startVfRings).boot = s.boot ∧
    (s.startVfRings).resets = s.resets ∧ (s.startVfRings).damper = s.damper ∧ (s.startVfRings).sensors = s.sensors ∧
    (s.startVfRings).pins = s.pins ∧ (s.startVfRings).avl = s.avl ∧ (s.startVfRings).cfgs = s.cfgs ∧
    (s.startVfRings).expel = s.expel ∧ (s.startVfRings).perturbs = s.perturbs ∧ (s.startVfRings).cells = s.cells ∧
    (s.startVfRings).routers = s.routers ∧ (s.startVfRings).edgeIn = s.edgeIn ∧ (s.startVfRings).rimIn = s.rimIn ∧
    (s.startVfRings).health = s.health ∧ (s.startVfRings).racks = s.racks ∧ (s.startVfRings).hobs = s.hobs ∧
    (s.startVfRings).stk = s.stk ∧ (s.startVfRings).lines = s.lines ∧ (s.startVfRings).errs = s.errs ∧
    (s.startVfRings).rdrs = s.rdrs ∧ (s.startVfRings).rdrs6 = s.rdrs6 ∧ (s.startVfRings).txns = s.txns ∧
    (s.startVfRings).lnps = s.lnps ∧ (s.startVfRings).hearth = s.hearth ∧ (s.startVfRings).fw = s.fw ∧
    (s.startVfRings).pmbus = s.pmbus ∧ (s.startVfRings).sessions = s.sessions ∧ (s.startVfRings).log = s.log ∧
    (s.startVfRings).logSeq = s.logSeq ∧ (s.startVfRings).logFail = s.logFail ∧ (s.startVfRings).ashes = s.ashes ∧
    (s.startVfRings).ashRun = s.ashRun ∧ (s.startVfRings).ashSeq = s.ashSeq ∧ (s.startVfRings).places = s.places ∧
    (s.startVfRings).places6 = s.places6 ∧ (s.startVfRings).pantry = s.pantry ∧
    (s.startVfRings).broadcasts = s.broadcasts ∧ (s.startVfRings).bcastSeq = s.bcastSeq ∧
    (s.startVfRings).out = s.out ∧ (s.startVfRings).free = s.free := by
  unfold State.startVfRings
  and_intros
  · exact State.each_proj State.st _ _ _ fun _ _ => State.each_proj State.st _ _ _ fun _ _ => State.each_proj State.st _ _ _ fun _ _ => by dsimp only; split <;> rfl
  · exact State.each_proj State.now _ _ _ fun _ _ => State.each_proj State.now _ _ _ fun _ _ => State.each_proj State.now _ _ _ fun _ _ => by dsimp only; split <;> rfl
  · exact State.each_proj State.boot _ _ _ fun _ _ => State.each_proj State.boot _ _ _ fun _ _ => State.each_proj State.boot _ _ _ fun _ _ => by dsimp only; split <;> rfl
  · exact State.each_proj State.resets _ _ _ fun _ _ => State.each_proj State.resets _ _ _ fun _ _ => State.each_proj State.resets _ _ _ fun _ _ => by dsimp only; split <;> rfl
  · exact State.each_proj State.damper _ _ _ fun _ _ => State.each_proj State.damper _ _ _ fun _ _ => State.each_proj State.damper _ _ _ fun _ _ => by dsimp only; split <;> rfl
  · exact State.each_proj State.sensors _ _ _ fun _ _ => State.each_proj State.sensors _ _ _ fun _ _ => State.each_proj State.sensors _ _ _ fun _ _ => by dsimp only; split <;> rfl
  · exact State.each_proj State.pins _ _ _ fun _ _ => State.each_proj State.pins _ _ _ fun _ _ => State.each_proj State.pins _ _ _ fun _ _ => by dsimp only; split <;> rfl
  · exact State.each_proj State.avl _ _ _ fun _ _ => State.each_proj State.avl _ _ _ fun _ _ => State.each_proj State.avl _ _ _ fun _ _ => by dsimp only; split <;> rfl
  · exact State.each_proj State.cfgs _ _ _ fun _ _ => State.each_proj State.cfgs _ _ _ fun _ _ => State.each_proj State.cfgs _ _ _ fun _ _ => by dsimp only; split <;> rfl
  · exact State.each_proj State.expel _ _ _ fun _ _ => State.each_proj State.expel _ _ _ fun _ _ => State.each_proj State.expel _ _ _ fun _ _ => by dsimp only; split <;> rfl
  · exact State.each_proj State.perturbs _ _ _ fun _ _ => State.each_proj State.perturbs _ _ _ fun _ _ => State.each_proj State.perturbs _ _ _ fun _ _ => by dsimp only; split <;> rfl
  · exact State.each_proj State.cells _ _ _ fun _ _ => State.each_proj State.cells _ _ _ fun _ _ => State.each_proj State.cells _ _ _ fun _ _ => by dsimp only; split <;> rfl
  · exact State.each_proj State.routers _ _ _ fun _ _ => State.each_proj State.routers _ _ _ fun _ _ => State.each_proj State.routers _ _ _ fun _ _ => by dsimp only; split <;> rfl
  · exact State.each_proj State.edgeIn _ _ _ fun _ _ => State.each_proj State.edgeIn _ _ _ fun _ _ => State.each_proj State.edgeIn _ _ _ fun _ _ => by dsimp only; split <;> rfl
  · exact State.each_proj State.rimIn _ _ _ fun _ _ => State.each_proj State.rimIn _ _ _ fun _ _ => State.each_proj State.rimIn _ _ _ fun _ _ => by dsimp only; split <;> rfl
  · exact State.each_proj State.health _ _ _ fun _ _ => State.each_proj State.health _ _ _ fun _ _ => State.each_proj State.health _ _ _ fun _ _ => by dsimp only; split <;> rfl
  · exact State.each_proj State.racks _ _ _ fun _ _ => State.each_proj State.racks _ _ _ fun _ _ => State.each_proj State.racks _ _ _ fun _ _ => by dsimp only; split <;> rfl
  · exact State.each_proj State.hobs _ _ _ fun _ _ => State.each_proj State.hobs _ _ _ fun _ _ => State.each_proj State.hobs _ _ _ fun _ _ => by dsimp only; split <;> rfl
  · exact State.each_proj State.stk _ _ _ fun _ _ => State.each_proj State.stk _ _ _ fun _ _ => State.each_proj State.stk _ _ _ fun _ _ => by dsimp only; split <;> rfl
  · exact State.each_proj State.lines _ _ _ fun _ _ => State.each_proj State.lines _ _ _ fun _ _ => State.each_proj State.lines _ _ _ fun _ _ => by dsimp only; split <;> rfl
  · exact State.each_proj State.errs _ _ _ fun _ _ => State.each_proj State.errs _ _ _ fun _ _ => State.each_proj State.errs _ _ _ fun _ _ => by dsimp only; split <;> rfl
  · exact State.each_proj State.rdrs _ _ _ fun _ _ => State.each_proj State.rdrs _ _ _ fun _ _ => State.each_proj State.rdrs _ _ _ fun _ _ => by dsimp only; split <;> rfl
  · exact State.each_proj State.rdrs6 _ _ _ fun _ _ => State.each_proj State.rdrs6 _ _ _ fun _ _ => State.each_proj State.rdrs6 _ _ _ fun _ _ => by dsimp only; split <;> rfl
  · exact State.each_proj State.txns _ _ _ fun _ _ => State.each_proj State.txns _ _ _ fun _ _ => State.each_proj State.txns _ _ _ fun _ _ => by dsimp only; split <;> rfl
  · exact State.each_proj State.lnps _ _ _ fun _ _ => State.each_proj State.lnps _ _ _ fun _ _ => State.each_proj State.lnps _ _ _ fun _ _ => by dsimp only; split <;> rfl
  · exact State.each_proj State.hearth _ _ _ fun _ _ => State.each_proj State.hearth _ _ _ fun _ _ => State.each_proj State.hearth _ _ _ fun _ _ => by dsimp only; split <;> rfl
  · exact State.each_proj State.fw _ _ _ fun _ _ => State.each_proj State.fw _ _ _ fun _ _ => State.each_proj State.fw _ _ _ fun _ _ => by dsimp only; split <;> rfl
  · exact State.each_proj State.pmbus _ _ _ fun _ _ => State.each_proj State.pmbus _ _ _ fun _ _ => State.each_proj State.pmbus _ _ _ fun _ _ => by dsimp only; split <;> rfl
  · exact State.each_proj State.sessions _ _ _ fun _ _ => State.each_proj State.sessions _ _ _ fun _ _ => State.each_proj State.sessions _ _ _ fun _ _ => by dsimp only; split <;> rfl
  · exact State.each_proj State.log _ _ _ fun _ _ => State.each_proj State.log _ _ _ fun _ _ => State.each_proj State.log _ _ _ fun _ _ => by dsimp only; split <;> rfl
  · exact State.each_proj State.logSeq _ _ _ fun _ _ => State.each_proj State.logSeq _ _ _ fun _ _ => State.each_proj State.logSeq _ _ _ fun _ _ => by dsimp only; split <;> rfl
  · exact State.each_proj State.logFail _ _ _ fun _ _ => State.each_proj State.logFail _ _ _ fun _ _ => State.each_proj State.logFail _ _ _ fun _ _ => by dsimp only; split <;> rfl
  · exact State.each_proj State.ashes _ _ _ fun _ _ => State.each_proj State.ashes _ _ _ fun _ _ => State.each_proj State.ashes _ _ _ fun _ _ => by dsimp only; split <;> rfl
  · exact State.each_proj State.ashRun _ _ _ fun _ _ => State.each_proj State.ashRun _ _ _ fun _ _ => State.each_proj State.ashRun _ _ _ fun _ _ => by dsimp only; split <;> rfl
  · exact State.each_proj State.ashSeq _ _ _ fun _ _ => State.each_proj State.ashSeq _ _ _ fun _ _ => State.each_proj State.ashSeq _ _ _ fun _ _ => by dsimp only; split <;> rfl
  · exact State.each_proj State.places _ _ _ fun _ _ => State.each_proj State.places _ _ _ fun _ _ => State.each_proj State.places _ _ _ fun _ _ => by dsimp only; split <;> rfl
  · exact State.each_proj State.places6 _ _ _ fun _ _ => State.each_proj State.places6 _ _ _ fun _ _ => State.each_proj State.places6 _ _ _ fun _ _ => by dsimp only; split <;> rfl
  · exact State.each_proj State.pantry _ _ _ fun _ _ => State.each_proj State.pantry _ _ _ fun _ _ => State.each_proj State.pantry _ _ _ fun _ _ => by dsimp only; split <;> rfl
  · exact State.each_proj State.broadcasts _ _ _ fun _ _ => State.each_proj State.broadcasts _ _ _ fun _ _ => State.each_proj State.broadcasts _ _ _ fun _ _ => by dsimp only; split <;> rfl
  · exact State.each_proj State.bcastSeq _ _ _ fun _ _ => State.each_proj State.bcastSeq _ _ _ fun _ _ => State.each_proj State.bcastSeq _ _ _ fun _ _ => by dsimp only; split <;> rfl
  · exact State.each_proj State.out _ _ _ fun _ _ => State.each_proj State.out _ _ _ fun _ _ => State.each_proj State.out _ _ _ fun _ _ => by dsimp only; split <;> rfl
  · exact State.each_proj State.free _ _ _ fun _ _ => State.each_proj State.free _ _ _ fun _ _ => State.each_proj State.free _ _ _ fun _ _ => by dsimp only; split <;> rfl

@[simp] theorem State.startVfRings_parts (s : State) (j : Nat) :
    (s.startVfRings).cell j = s.cell j ∧ (s.startVfRings).router j = s.router j ∧ (s.startVfRings).pos j = s.pos j ∧
    (s.startVfRings).rack j = s.rack j ∧ (s.startVfRings).hob j = s.hob j ∧ (s.startVfRings).stack j = s.stack j ∧
    (s.startVfRings).lnp j = s.lnp j := by
  simp only [State.cell, State.router, State.pos, State.rack, State.hob, State.stack, State.lnp, State.startVfRings_frame, and_self]

@[simp] theorem State.portEvent_frame (s : State) (p status detail : Nat) :
    (s.portEvent p status detail).st = s.st ∧ (s.portEvent p status detail).now = s.now ∧
    (s.portEvent p status detail).boot = s.boot ∧ (s.portEvent p status detail).resets = s.resets ∧
    (s.portEvent p status detail).damper = s.damper ∧ (s.portEvent p status detail).sensors = s.sensors ∧
    (s.portEvent p status detail).pins = s.pins ∧ (s.portEvent p status detail).avl = s.avl ∧
    (s.portEvent p status detail).cfgs = s.cfgs ∧ (s.portEvent p status detail).expel = s.expel ∧
    (s.portEvent p status detail).perturbs = s.perturbs ∧ (s.portEvent p status detail).cells = s.cells ∧
    (s.portEvent p status detail).routers = s.routers ∧ (s.portEvent p status detail).edgeIn = s.edgeIn ∧
    (s.portEvent p status detail).rimIn = s.rimIn ∧ (s.portEvent p status detail).health = s.health ∧
    (s.portEvent p status detail).racks = s.racks ∧ (s.portEvent p status detail).stk = s.stk ∧
    (s.portEvent p status detail).lines = s.lines ∧ (s.portEvent p status detail).errs = s.errs ∧
    (s.portEvent p status detail).rdrs = s.rdrs ∧ (s.portEvent p status detail).rdrs6 = s.rdrs6 ∧
    (s.portEvent p status detail).txns = s.txns ∧ (s.portEvent p status detail).lnps = s.lnps ∧
    (s.portEvent p status detail).hearth = s.hearth ∧ (s.portEvent p status detail).fw = s.fw ∧
    (s.portEvent p status detail).pmbus = s.pmbus ∧ (s.portEvent p status detail).sessions = s.sessions ∧
    (s.portEvent p status detail).log = s.log ∧ (s.portEvent p status detail).logSeq = s.logSeq ∧
    (s.portEvent p status detail).logFail = s.logFail ∧ (s.portEvent p status detail).ashes = s.ashes ∧
    (s.portEvent p status detail).ashRun = s.ashRun ∧ (s.portEvent p status detail).ashSeq = s.ashSeq ∧
    (s.portEvent p status detail).places = s.places ∧ (s.portEvent p status detail).places6 = s.places6 ∧
    (s.portEvent p status detail).pantry = s.pantry ∧ (s.portEvent p status detail).broadcasts = s.broadcasts ∧
    (s.portEvent p status detail).bcastSeq = s.bcastSeq ∧ (s.portEvent p status detail).free = s.free := by
  simp [State.portEvent]

@[simp] theorem State.portEvent_parts (s : State) (p status detail : Nat) (j : Nat) :
    (s.portEvent p status detail).cell j = s.cell j ∧ (s.portEvent p status detail).router j = s.router j ∧
    (s.portEvent p status detail).pos j = s.pos j ∧ (s.portEvent p status detail).rack j = s.rack j ∧
    (s.portEvent p status detail).stack j = s.stack j ∧ (s.portEvent p status detail).lnp j = s.lnp j := by
  simp only [State.cell, State.router, State.pos, State.rack, State.stack, State.lnp, State.portEvent_frame, and_self]

@[simp] theorem State.setDev_frame (s : State) (d : DevState) :
    (s.setDev d).now = s.now ∧ (s.setDev d).boot = s.boot ∧ (s.setDev d).resets = s.resets ∧
    (s.setDev d).damper = s.damper ∧ (s.setDev d).sensors = s.sensors ∧ (s.setDev d).pins = s.pins ∧
    (s.setDev d).avl = s.avl ∧ (s.setDev d).cfgs = s.cfgs ∧ (s.setDev d).expel = s.expel ∧
    (s.setDev d).perturbs = s.perturbs ∧ (s.setDev d).cells = s.cells ∧ (s.setDev d).routers = s.routers ∧
    (s.setDev d).edgeIn = s.edgeIn ∧ (s.setDev d).rimIn = s.rimIn ∧ (s.setDev d).health = s.health ∧
    (s.setDev d).racks = s.racks ∧ (s.setDev d).stk = s.stk ∧ (s.setDev d).lines = s.lines ∧
    (s.setDev d).errs = s.errs ∧ (s.setDev d).rdrs = s.rdrs ∧ (s.setDev d).rdrs6 = s.rdrs6 ∧
    (s.setDev d).txns = s.txns ∧ (s.setDev d).lnps = s.lnps ∧ (s.setDev d).hearth = s.hearth ∧ (s.setDev d).fw = s.fw ∧
    (s.setDev d).pmbus = s.pmbus ∧ (s.setDev d).sessions = s.sessions ∧ (s.setDev d).logFail = s.logFail ∧
    (s.setDev d).ashes = s.ashes ∧ (s.setDev d).ashRun = s.ashRun ∧ (s.setDev d).ashSeq = s.ashSeq ∧
    (s.setDev d).places = s.places ∧ (s.setDev d).places6 = s.places6 ∧ (s.setDev d).pantry = s.pantry ∧
    (s.setDev d).broadcasts = s.broadcasts ∧ (s.setDev d).bcastSeq = s.bcastSeq ∧ (s.setDev d).free = s.free := by
  simp [State.setDev]

@[simp] theorem State.setDev_parts (s : State) (d : DevState) (j : Nat) :
    (s.setDev d).cell j = s.cell j ∧ (s.setDev d).router j = s.router j ∧ (s.setDev d).pos j = s.pos j ∧
    (s.setDev d).rack j = s.rack j ∧ (s.setDev d).stack j = s.stack j ∧ (s.setDev d).lnp j = s.lnp j := by
  simp only [State.cell, State.router, State.pos, State.rack, State.stack, State.lnp, State.setDev_frame, and_self]

@[simp] theorem State.avlStart_frame (s : State) (part key : Nat) :
    (s.avlStart part key).st = s.st ∧ (s.avlStart part key).now = s.now ∧ (s.avlStart part key).boot = s.boot ∧
    (s.avlStart part key).resets = s.resets ∧ (s.avlStart part key).damper = s.damper ∧
    (s.avlStart part key).sensors = s.sensors ∧ (s.avlStart part key).pins = s.pins ∧
    (s.avlStart part key).cfgs = s.cfgs ∧ (s.avlStart part key).expel = s.expel ∧
    (s.avlStart part key).perturbs = s.perturbs ∧ (s.avlStart part key).cells = s.cells ∧
    (s.avlStart part key).routers = s.routers ∧ (s.avlStart part key).edgeIn = s.edgeIn ∧
    (s.avlStart part key).rimIn = s.rimIn ∧ (s.avlStart part key).health = s.health ∧
    (s.avlStart part key).racks = s.racks ∧ (s.avlStart part key).hobs = s.hobs ∧ (s.avlStart part key).stk = s.stk ∧
    (s.avlStart part key).lines = s.lines ∧ (s.avlStart part key).errs = s.errs ∧ (s.avlStart part key).rdrs = s.rdrs ∧
    (s.avlStart part key).rdrs6 = s.rdrs6 ∧ (s.avlStart part key).txns = s.txns ∧
    (s.avlStart part key).hosts = s.hosts ∧ (s.avlStart part key).lnps = s.lnps ∧
    (s.avlStart part key).hearth = s.hearth ∧ (s.avlStart part key).fw = s.fw ∧ (s.avlStart part key).pmbus = s.pmbus ∧
    (s.avlStart part key).sessions = s.sessions ∧ (s.avlStart part key).log = s.log ∧
    (s.avlStart part key).logSeq = s.logSeq ∧ (s.avlStart part key).logFail = s.logFail ∧
    (s.avlStart part key).ashes = s.ashes ∧ (s.avlStart part key).ashRun = s.ashRun ∧
    (s.avlStart part key).ashSeq = s.ashSeq ∧ (s.avlStart part key).places = s.places ∧
    (s.avlStart part key).places6 = s.places6 ∧ (s.avlStart part key).pantry = s.pantry ∧
    (s.avlStart part key).broadcasts = s.broadcasts ∧ (s.avlStart part key).bcastSeq = s.bcastSeq ∧
    (s.avlStart part key).out = s.out ∧ (s.avlStart part key).free = s.free := by
  simp [State.avlStart]

@[simp] theorem State.avlStart_parts (s : State) (part key : Nat) (j : Nat) :
    (s.avlStart part key).cell j = s.cell j ∧ (s.avlStart part key).router j = s.router j ∧
    (s.avlStart part key).pos j = s.pos j ∧ (s.avlStart part key).rack j = s.rack j ∧
    (s.avlStart part key).hob j = s.hob j ∧ (s.avlStart part key).stack j = s.stack j ∧
    (s.avlStart part key).host j = s.host j ∧ (s.avlStart part key).lnp j = s.lnp j := by
  simp only [State.cell, State.router, State.pos, State.rack, State.hob, State.stack, State.host, State.lnp, State.avlStart_frame, and_self]

@[simp] theorem State.avlStop_frame (s : State) (part key : Nat) :
    (s.avlStop part key).st = s.st ∧ (s.avlStop part key).now = s.now ∧ (s.avlStop part key).boot = s.boot ∧
    (s.avlStop part key).resets = s.resets ∧ (s.avlStop part key).damper = s.damper ∧
    (s.avlStop part key).sensors = s.sensors ∧ (s.avlStop part key).pins = s.pins ∧
    (s.avlStop part key).cfgs = s.cfgs ∧ (s.avlStop part key).expel = s.expel ∧
    (s.avlStop part key).perturbs = s.perturbs ∧ (s.avlStop part key).cells = s.cells ∧
    (s.avlStop part key).routers = s.routers ∧ (s.avlStop part key).edgeIn = s.edgeIn ∧
    (s.avlStop part key).rimIn = s.rimIn ∧ (s.avlStop part key).health = s.health ∧
    (s.avlStop part key).racks = s.racks ∧ (s.avlStop part key).hobs = s.hobs ∧ (s.avlStop part key).stk = s.stk ∧
    (s.avlStop part key).lines = s.lines ∧ (s.avlStop part key).errs = s.errs ∧ (s.avlStop part key).rdrs = s.rdrs ∧
    (s.avlStop part key).rdrs6 = s.rdrs6 ∧ (s.avlStop part key).txns = s.txns ∧ (s.avlStop part key).hosts = s.hosts ∧
    (s.avlStop part key).lnps = s.lnps ∧ (s.avlStop part key).hearth = s.hearth ∧ (s.avlStop part key).fw = s.fw ∧
    (s.avlStop part key).pmbus = s.pmbus ∧ (s.avlStop part key).sessions = s.sessions ∧
    (s.avlStop part key).log = s.log ∧ (s.avlStop part key).logSeq = s.logSeq ∧
    (s.avlStop part key).logFail = s.logFail ∧ (s.avlStop part key).ashes = s.ashes ∧
    (s.avlStop part key).ashRun = s.ashRun ∧ (s.avlStop part key).ashSeq = s.ashSeq ∧
    (s.avlStop part key).places = s.places ∧ (s.avlStop part key).places6 = s.places6 ∧
    (s.avlStop part key).pantry = s.pantry ∧ (s.avlStop part key).broadcasts = s.broadcasts ∧
    (s.avlStop part key).bcastSeq = s.bcastSeq ∧ (s.avlStop part key).out = s.out ∧ (s.avlStop part key).free = s.free := by
  simp [State.avlStop]

@[simp] theorem State.avlStop_parts (s : State) (part key : Nat) (j : Nat) :
    (s.avlStop part key).cell j = s.cell j ∧ (s.avlStop part key).router j = s.router j ∧
    (s.avlStop part key).pos j = s.pos j ∧ (s.avlStop part key).rack j = s.rack j ∧
    (s.avlStop part key).hob j = s.hob j ∧ (s.avlStop part key).stack j = s.stack j ∧
    (s.avlStop part key).host j = s.host j ∧ (s.avlStop part key).lnp j = s.lnp j := by
  simp only [State.cell, State.router, State.pos, State.rack, State.hob, State.stack, State.host, State.lnp, State.avlStop_frame, and_self]

@[simp] theorem State.interrupt_frame (s : State) :
    (s.interrupt).st = s.st ∧ (s.interrupt).now = s.now ∧ (s.interrupt).boot = s.boot ∧
    (s.interrupt).resets = s.resets ∧ (s.interrupt).damper = s.damper ∧ (s.interrupt).sensors = s.sensors ∧
    (s.interrupt).pins = s.pins ∧ (s.interrupt).cfgs = s.cfgs ∧ (s.interrupt).expel = s.expel ∧
    (s.interrupt).perturbs = s.perturbs ∧ (s.interrupt).cells = s.cells ∧ (s.interrupt).routers = s.routers ∧
    (s.interrupt).edgeIn = s.edgeIn ∧ (s.interrupt).rimIn = s.rimIn ∧ (s.interrupt).health = s.health ∧
    (s.interrupt).racks = s.racks ∧ (s.interrupt).hobs = s.hobs ∧ (s.interrupt).stk = s.stk ∧
    (s.interrupt).lines = s.lines ∧ (s.interrupt).errs = s.errs ∧ (s.interrupt).rdrs = s.rdrs ∧
    (s.interrupt).rdrs6 = s.rdrs6 ∧ (s.interrupt).txns = s.txns ∧ (s.interrupt).hosts = s.hosts ∧
    (s.interrupt).lnps = s.lnps ∧ (s.interrupt).hearth = s.hearth ∧ (s.interrupt).fw = s.fw ∧
    (s.interrupt).pmbus = s.pmbus ∧ (s.interrupt).sessions = s.sessions ∧ (s.interrupt).log = s.log ∧
    (s.interrupt).logSeq = s.logSeq ∧ (s.interrupt).logFail = s.logFail ∧ (s.interrupt).ashes = s.ashes ∧
    (s.interrupt).ashRun = s.ashRun ∧ (s.interrupt).ashSeq = s.ashSeq ∧ (s.interrupt).places = s.places ∧
    (s.interrupt).places6 = s.places6 ∧ (s.interrupt).pantry = s.pantry ∧ (s.interrupt).broadcasts = s.broadcasts ∧
    (s.interrupt).bcastSeq = s.bcastSeq ∧ (s.interrupt).out = s.out ∧ (s.interrupt).free = s.free := by
  simp [State.interrupt]

@[simp] theorem State.interrupt_parts (s : State) (j : Nat) :
    (s.interrupt).cell j = s.cell j ∧ (s.interrupt).router j = s.router j ∧ (s.interrupt).pos j = s.pos j ∧
    (s.interrupt).rack j = s.rack j ∧ (s.interrupt).hob j = s.hob j ∧ (s.interrupt).stack j = s.stack j ∧
    (s.interrupt).host j = s.host j ∧ (s.interrupt).lnp j = s.lnp j := by
  simp only [State.cell, State.router, State.pos, State.rack, State.hob, State.stack, State.host, State.lnp, State.interrupt_frame, and_self]

@[simp] theorem State.holdFor_frame (s : State) (h cause : Nat) :
    (s.holdFor h cause).st = s.st ∧ (s.holdFor h cause).now = s.now ∧ (s.holdFor h cause).boot = s.boot ∧
    (s.holdFor h cause).resets = s.resets ∧ (s.holdFor h cause).damper = s.damper ∧
    (s.holdFor h cause).sensors = s.sensors ∧ (s.holdFor h cause).pins = s.pins ∧ (s.holdFor h cause).cfgs = s.cfgs ∧
    (s.holdFor h cause).expel = s.expel ∧ (s.holdFor h cause).perturbs = s.perturbs ∧
    (s.holdFor h cause).cells = s.cells ∧ (s.holdFor h cause).routers = s.routers ∧
    (s.holdFor h cause).edgeIn = s.edgeIn ∧ (s.holdFor h cause).rimIn = s.rimIn ∧
    (s.holdFor h cause).health = s.health ∧ (s.holdFor h cause).racks = s.racks ∧ (s.holdFor h cause).stk = s.stk ∧
    (s.holdFor h cause).lines = s.lines ∧ (s.holdFor h cause).errs = s.errs ∧ (s.holdFor h cause).rdrs = s.rdrs ∧
    (s.holdFor h cause).rdrs6 = s.rdrs6 ∧ (s.holdFor h cause).txns = s.txns ∧ (s.holdFor h cause).hosts = s.hosts ∧
    (s.holdFor h cause).lnps = s.lnps ∧ (s.holdFor h cause).hearth = s.hearth ∧ (s.holdFor h cause).fw = s.fw ∧
    (s.holdFor h cause).pmbus = s.pmbus ∧ (s.holdFor h cause).sessions = s.sessions ∧ (s.holdFor h cause).log = s.log ∧
    (s.holdFor h cause).logSeq = s.logSeq ∧ (s.holdFor h cause).logFail = s.logFail ∧
    (s.holdFor h cause).ashes = s.ashes ∧ (s.holdFor h cause).ashRun = s.ashRun ∧
    (s.holdFor h cause).ashSeq = s.ashSeq ∧ (s.holdFor h cause).places = s.places ∧
    (s.holdFor h cause).places6 = s.places6 ∧ (s.holdFor h cause).pantry = s.pantry ∧
    (s.holdFor h cause).broadcasts = s.broadcasts ∧ (s.holdFor h cause).bcastSeq = s.bcastSeq ∧
    (s.holdFor h cause).out = s.out ∧ (s.holdFor h cause).free = s.free := by
  simp [State.holdFor]

@[simp] theorem State.holdFor_parts (s : State) (h cause : Nat) (j : Nat) :
    (s.holdFor h cause).cell j = s.cell j ∧ (s.holdFor h cause).router j = s.router j ∧
    (s.holdFor h cause).pos j = s.pos j ∧ (s.holdFor h cause).rack j = s.rack j ∧
    (s.holdFor h cause).stack j = s.stack j ∧ (s.holdFor h cause).host j = s.host j ∧
    (s.holdFor h cause).lnp j = s.lnp j := by
  simp only [State.cell, State.router, State.pos, State.rack, State.stack, State.host, State.lnp, State.holdFor_frame, and_self]

@[simp] theorem State.holdNow_frame (s : State) (h cause : Nat) :
    (s.holdNow h cause).st = s.st ∧ (s.holdNow h cause).now = s.now ∧ (s.holdNow h cause).boot = s.boot ∧
    (s.holdNow h cause).resets = s.resets ∧ (s.holdNow h cause).damper = s.damper ∧
    (s.holdNow h cause).sensors = s.sensors ∧ (s.holdNow h cause).pins = s.pins ∧ (s.holdNow h cause).cfgs = s.cfgs ∧
    (s.holdNow h cause).expel = s.expel ∧ (s.holdNow h cause).perturbs = s.perturbs ∧
    (s.holdNow h cause).cells = s.cells ∧ (s.holdNow h cause).routers = s.routers ∧
    (s.holdNow h cause).edgeIn = s.edgeIn ∧ (s.holdNow h cause).rimIn = s.rimIn ∧
    (s.holdNow h cause).health = s.health ∧ (s.holdNow h cause).racks = s.racks ∧ (s.holdNow h cause).stk = s.stk ∧
    (s.holdNow h cause).lines = s.lines ∧ (s.holdNow h cause).errs = s.errs ∧ (s.holdNow h cause).rdrs = s.rdrs ∧
    (s.holdNow h cause).rdrs6 = s.rdrs6 ∧ (s.holdNow h cause).txns = s.txns ∧ (s.holdNow h cause).hosts = s.hosts ∧
    (s.holdNow h cause).lnps = s.lnps ∧ (s.holdNow h cause).hearth = s.hearth ∧ (s.holdNow h cause).fw = s.fw ∧
    (s.holdNow h cause).pmbus = s.pmbus ∧ (s.holdNow h cause).sessions = s.sessions ∧ (s.holdNow h cause).log = s.log ∧
    (s.holdNow h cause).logSeq = s.logSeq ∧ (s.holdNow h cause).logFail = s.logFail ∧
    (s.holdNow h cause).ashes = s.ashes ∧ (s.holdNow h cause).ashRun = s.ashRun ∧
    (s.holdNow h cause).ashSeq = s.ashSeq ∧ (s.holdNow h cause).places = s.places ∧
    (s.holdNow h cause).places6 = s.places6 ∧ (s.holdNow h cause).pantry = s.pantry ∧
    (s.holdNow h cause).broadcasts = s.broadcasts ∧ (s.holdNow h cause).bcastSeq = s.bcastSeq ∧
    (s.holdNow h cause).out = s.out ∧ (s.holdNow h cause).free = s.free := by
  simp [State.holdNow]

@[simp] theorem State.holdNow_parts (s : State) (h cause : Nat) (j : Nat) :
    (s.holdNow h cause).cell j = s.cell j ∧ (s.holdNow h cause).router j = s.router j ∧
    (s.holdNow h cause).pos j = s.pos j ∧ (s.holdNow h cause).rack j = s.rack j ∧
    (s.holdNow h cause).stack j = s.stack j ∧ (s.holdNow h cause).host j = s.host j ∧
    (s.holdNow h cause).lnp j = s.lnp j := by
  simp only [State.cell, State.router, State.pos, State.rack, State.stack, State.host, State.lnp, State.holdNow_frame, and_self]

@[simp] theorem State.endHold_frame (s : State) (h cause : Nat) :
    (s.endHold h cause).st = s.st ∧ (s.endHold h cause).now = s.now ∧ (s.endHold h cause).boot = s.boot ∧
    (s.endHold h cause).resets = s.resets ∧ (s.endHold h cause).damper = s.damper ∧
    (s.endHold h cause).sensors = s.sensors ∧ (s.endHold h cause).pins = s.pins ∧ (s.endHold h cause).avl = s.avl ∧
    (s.endHold h cause).cfgs = s.cfgs ∧ (s.endHold h cause).expel = s.expel ∧
    (s.endHold h cause).perturbs = s.perturbs ∧ (s.endHold h cause).cells = s.cells ∧
    (s.endHold h cause).routers = s.routers ∧ (s.endHold h cause).edgeIn = s.edgeIn ∧
    (s.endHold h cause).rimIn = s.rimIn ∧ (s.endHold h cause).health = s.health ∧ (s.endHold h cause).racks = s.racks ∧
    (s.endHold h cause).stk = s.stk ∧ (s.endHold h cause).lines = s.lines ∧ (s.endHold h cause).errs = s.errs ∧
    (s.endHold h cause).rdrs = s.rdrs ∧ (s.endHold h cause).rdrs6 = s.rdrs6 ∧ (s.endHold h cause).txns = s.txns ∧
    (s.endHold h cause).hosts = s.hosts ∧ (s.endHold h cause).lnps = s.lnps ∧ (s.endHold h cause).hearth = s.hearth ∧
    (s.endHold h cause).fw = s.fw ∧ (s.endHold h cause).pmbus = s.pmbus ∧ (s.endHold h cause).sessions = s.sessions ∧
    (s.endHold h cause).log = s.log ∧ (s.endHold h cause).logSeq = s.logSeq ∧ (s.endHold h cause).logFail = s.logFail ∧
    (s.endHold h cause).ashes = s.ashes ∧ (s.endHold h cause).ashRun = s.ashRun ∧
    (s.endHold h cause).ashSeq = s.ashSeq ∧ (s.endHold h cause).places = s.places ∧
    (s.endHold h cause).places6 = s.places6 ∧ (s.endHold h cause).pantry = s.pantry ∧
    (s.endHold h cause).broadcasts = s.broadcasts ∧ (s.endHold h cause).bcastSeq = s.bcastSeq ∧
    (s.endHold h cause).out = s.out ∧ (s.endHold h cause).free = s.free := by
  simp [State.endHold]

@[simp] theorem State.endHold_parts (s : State) (h cause : Nat) (j : Nat) :
    (s.endHold h cause).cell j = s.cell j ∧ (s.endHold h cause).router j = s.router j ∧
    (s.endHold h cause).pos j = s.pos j ∧ (s.endHold h cause).rack j = s.rack j ∧
    (s.endHold h cause).stack j = s.stack j ∧ (s.endHold h cause).host j = s.host j ∧
    (s.endHold h cause).lnp j = s.lnp j := by
  simp only [State.cell, State.router, State.pos, State.rack, State.stack, State.host, State.lnp, State.endHold_frame, and_self]

@[simp] theorem State.lid_frame (s : State) (p : Nat) (test : Bool) :
    (s.lid p test).st = s.st ∧ (s.lid p test).now = s.now ∧ (s.lid p test).boot = s.boot ∧
    (s.lid p test).resets = s.resets ∧ (s.lid p test).damper = s.damper ∧ (s.lid p test).sensors = s.sensors ∧
    (s.lid p test).pins = s.pins ∧ (s.lid p test).cfgs = s.cfgs ∧ (s.lid p test).expel = s.expel ∧
    (s.lid p test).perturbs = s.perturbs ∧ (s.lid p test).routers = s.routers ∧ (s.lid p test).edgeIn = s.edgeIn ∧
    (s.lid p test).rimIn = s.rimIn ∧ (s.lid p test).racks = s.racks ∧ (s.lid p test).stk = s.stk ∧
    (s.lid p test).lines = s.lines ∧ (s.lid p test).errs = s.errs ∧ (s.lid p test).rdrs = s.rdrs ∧
    (s.lid p test).rdrs6 = s.rdrs6 ∧ (s.lid p test).txns = s.txns ∧ (s.lid p test).hosts = s.hosts ∧
    (s.lid p test).lnps = s.lnps ∧ (s.lid p test).hearth = s.hearth ∧ (s.lid p test).fw = s.fw ∧
    (s.lid p test).pmbus = s.pmbus ∧ (s.lid p test).sessions = s.sessions ∧ (s.lid p test).logFail = s.logFail ∧
    (s.lid p test).ashes = s.ashes ∧ (s.lid p test).ashRun = s.ashRun ∧ (s.lid p test).ashSeq = s.ashSeq ∧
    (s.lid p test).places = s.places ∧ (s.lid p test).places6 = s.places6 ∧ (s.lid p test).pantry = s.pantry ∧
    (s.lid p test).broadcasts = s.broadcasts ∧ (s.lid p test).bcastSeq = s.bcastSeq ∧ (s.lid p test).out = s.out ∧
    (s.lid p test).free = s.free := by
  unfold State.lid
  dsimp only
  repeat' split
  all_goals simp_all

@[simp] theorem State.lid_parts (s : State) (p : Nat) (test : Bool) (j : Nat) :
    (s.lid p test).router j = s.router j ∧ (s.lid p test).rack j = s.rack j ∧ (s.lid p test).stack j = s.stack j ∧
    (s.lid p test).host j = s.host j ∧ (s.lid p test).lnp j = s.lnp j := by
  simp only [State.router, State.rack, State.stack, State.host, State.lnp, State.lid_frame, and_self]

@[simp] theorem State.beginReset_frame (s : State) (dom idx why : Nat) :
    (s.beginReset dom idx why).st = s.st ∧ (s.beginReset dom idx why).now = s.now ∧
    (s.beginReset dom idx why).boot = s.boot ∧ (s.beginReset dom idx why).damper = s.damper ∧
    (s.beginReset dom idx why).sensors = s.sensors ∧ (s.beginReset dom idx why).pins = s.pins ∧
    (s.beginReset dom idx why).avl = s.avl ∧ (s.beginReset dom idx why).cfgs = s.cfgs ∧
    (s.beginReset dom idx why).expel = s.expel ∧ (s.beginReset dom idx why).perturbs = s.perturbs ∧
    (s.beginReset dom idx why).cells = s.cells ∧ (s.beginReset dom idx why).routers = s.routers ∧
    (s.beginReset dom idx why).edgeIn = s.edgeIn ∧ (s.beginReset dom idx why).rimIn = s.rimIn ∧
    (s.beginReset dom idx why).health = s.health ∧ (s.beginReset dom idx why).racks = s.racks ∧
    (s.beginReset dom idx why).hobs = s.hobs ∧ (s.beginReset dom idx why).stk = s.stk ∧
    (s.beginReset dom idx why).lines = s.lines ∧ (s.beginReset dom idx why).errs = s.errs ∧
    (s.beginReset dom idx why).rdrs = s.rdrs ∧ (s.beginReset dom idx why).rdrs6 = s.rdrs6 ∧
    (s.beginReset dom idx why).txns = s.txns ∧ (s.beginReset dom idx why).hosts = s.hosts ∧
    (s.beginReset dom idx why).lnps = s.lnps ∧ (s.beginReset dom idx why).hearth = s.hearth ∧
    (s.beginReset dom idx why).fw = s.fw ∧ (s.beginReset dom idx why).pmbus = s.pmbus ∧
    (s.beginReset dom idx why).sessions = s.sessions ∧ (s.beginReset dom idx why).logFail = s.logFail ∧
    (s.beginReset dom idx why).ashes = s.ashes ∧ (s.beginReset dom idx why).ashRun = s.ashRun ∧
    (s.beginReset dom idx why).ashSeq = s.ashSeq ∧ (s.beginReset dom idx why).places = s.places ∧
    (s.beginReset dom idx why).places6 = s.places6 ∧ (s.beginReset dom idx why).pantry = s.pantry ∧
    (s.beginReset dom idx why).broadcasts = s.broadcasts ∧ (s.beginReset dom idx why).bcastSeq = s.bcastSeq ∧
    (s.beginReset dom idx why).out = s.out ∧ (s.beginReset dom idx why).free = s.free := by
  simp [State.beginReset]

@[simp] theorem State.beginReset_parts (s : State) (dom idx why : Nat) (j : Nat) :
    (s.beginReset dom idx why).cell j = s.cell j ∧ (s.beginReset dom idx why).router j = s.router j ∧
    (s.beginReset dom idx why).pos j = s.pos j ∧ (s.beginReset dom idx why).rack j = s.rack j ∧
    (s.beginReset dom idx why).hob j = s.hob j ∧ (s.beginReset dom idx why).stack j = s.stack j ∧
    (s.beginReset dom idx why).host j = s.host j ∧ (s.beginReset dom idx why).lnp j = s.lnp j := by
  simp only [State.cell, State.router, State.pos, State.rack, State.hob, State.stack, State.host, State.lnp, State.beginReset_frame, and_self]

@[simp] theorem State.finishReset_frame (s : State) (dom idx : Nat) :
    (s.finishReset dom idx).st = s.st ∧ (s.finishReset dom idx).now = s.now ∧ (s.finishReset dom idx).boot = s.boot ∧
    (s.finishReset dom idx).damper = s.damper ∧ (s.finishReset dom idx).sensors = s.sensors ∧
    (s.finishReset dom idx).pins = s.pins ∧ (s.finishReset dom idx).avl = s.avl ∧
    (s.finishReset dom idx).cfgs = s.cfgs ∧ (s.finishReset dom idx).expel = s.expel ∧
    (s.finishReset dom idx).perturbs = s.perturbs ∧ (s.finishReset dom idx).cells = s.cells ∧
    (s.finishReset dom idx).routers = s.routers ∧ (s.finishReset dom idx).edgeIn = s.edgeIn ∧
    (s.finishReset dom idx).rimIn = s.rimIn ∧ (s.finishReset dom idx).health = s.health ∧
    (s.finishReset dom idx).racks = s.racks ∧ (s.finishReset dom idx).hobs = s.hobs ∧
    (s.finishReset dom idx).stk = s.stk ∧ (s.finishReset dom idx).lines = s.lines ∧
    (s.finishReset dom idx).errs = s.errs ∧ (s.finishReset dom idx).rdrs = s.rdrs ∧
    (s.finishReset dom idx).rdrs6 = s.rdrs6 ∧ (s.finishReset dom idx).txns = s.txns ∧
    (s.finishReset dom idx).hosts = s.hosts ∧ (s.finishReset dom idx).lnps = s.lnps ∧
    (s.finishReset dom idx).hearth = s.hearth ∧ (s.finishReset dom idx).fw = s.fw ∧
    (s.finishReset dom idx).pmbus = s.pmbus ∧ (s.finishReset dom idx).sessions = s.sessions ∧
    (s.finishReset dom idx).log = s.log ∧ (s.finishReset dom idx).logSeq = s.logSeq ∧
    (s.finishReset dom idx).logFail = s.logFail ∧ (s.finishReset dom idx).ashes = s.ashes ∧
    (s.finishReset dom idx).ashRun = s.ashRun ∧ (s.finishReset dom idx).ashSeq = s.ashSeq ∧
    (s.finishReset dom idx).places = s.places ∧ (s.finishReset dom idx).places6 = s.places6 ∧
    (s.finishReset dom idx).pantry = s.pantry ∧ (s.finishReset dom idx).broadcasts = s.broadcasts ∧
    (s.finishReset dom idx).bcastSeq = s.bcastSeq ∧ (s.finishReset dom idx).out = s.out ∧
    (s.finishReset dom idx).free = s.free := by
  simp [State.finishReset]

@[simp] theorem State.finishReset_parts (s : State) (dom idx : Nat) (j : Nat) :
    (s.finishReset dom idx).cell j = s.cell j ∧ (s.finishReset dom idx).router j = s.router j ∧
    (s.finishReset dom idx).pos j = s.pos j ∧ (s.finishReset dom idx).rack j = s.rack j ∧
    (s.finishReset dom idx).hob j = s.hob j ∧ (s.finishReset dom idx).stack j = s.stack j ∧
    (s.finishReset dom idx).host j = s.host j ∧ (s.finishReset dom idx).lnp j = s.lnp j := by
  simp only [State.cell, State.router, State.pos, State.rack, State.hob, State.stack, State.host, State.lnp, State.finishReset_frame, and_self]

@[simp] theorem State.setHobSt_frame (s : State) (h : Nat) (st : HobState) :
    (s.setHobSt h st).st = s.st ∧ (s.setHobSt h st).now = s.now ∧ (s.setHobSt h st).boot = s.boot ∧
    (s.setHobSt h st).resets = s.resets ∧ (s.setHobSt h st).damper = s.damper ∧ (s.setHobSt h st).sensors = s.sensors ∧
    (s.setHobSt h st).pins = s.pins ∧ (s.setHobSt h st).avl = s.avl ∧ (s.setHobSt h st).cfgs = s.cfgs ∧
    (s.setHobSt h st).expel = s.expel ∧ (s.setHobSt h st).perturbs = s.perturbs ∧ (s.setHobSt h st).cells = s.cells ∧
    (s.setHobSt h st).routers = s.routers ∧ (s.setHobSt h st).edgeIn = s.edgeIn ∧ (s.setHobSt h st).rimIn = s.rimIn ∧
    (s.setHobSt h st).health = s.health ∧ (s.setHobSt h st).racks = s.racks ∧ (s.setHobSt h st).stk = s.stk ∧
    (s.setHobSt h st).lines = s.lines ∧ (s.setHobSt h st).errs = s.errs ∧ (s.setHobSt h st).rdrs = s.rdrs ∧
    (s.setHobSt h st).rdrs6 = s.rdrs6 ∧ (s.setHobSt h st).txns = s.txns ∧ (s.setHobSt h st).lnps = s.lnps ∧
    (s.setHobSt h st).hearth = s.hearth ∧ (s.setHobSt h st).fw = s.fw ∧ (s.setHobSt h st).pmbus = s.pmbus ∧
    (s.setHobSt h st).sessions = s.sessions ∧ (s.setHobSt h st).log = s.log ∧ (s.setHobSt h st).logSeq = s.logSeq ∧
    (s.setHobSt h st).logFail = s.logFail ∧ (s.setHobSt h st).ashes = s.ashes ∧ (s.setHobSt h st).ashRun = s.ashRun ∧
    (s.setHobSt h st).ashSeq = s.ashSeq ∧ (s.setHobSt h st).places = s.places ∧ (s.setHobSt h st).places6 = s.places6 ∧
    (s.setHobSt h st).pantry = s.pantry ∧ (s.setHobSt h st).broadcasts = s.broadcasts ∧
    (s.setHobSt h st).bcastSeq = s.bcastSeq ∧ (s.setHobSt h st).free = s.free := by
  simp [State.setHobSt]

@[simp] theorem State.setHobSt_parts (s : State) (h : Nat) (st : HobState) (j : Nat) :
    (s.setHobSt h st).cell j = s.cell j ∧ (s.setHobSt h st).router j = s.router j ∧ (s.setHobSt h st).pos j = s.pos j ∧
    (s.setHobSt h st).rack j = s.rack j ∧ (s.setHobSt h st).stack j = s.stack j ∧ (s.setHobSt h st).lnp j = s.lnp j := by
  simp only [State.cell, State.router, State.pos, State.rack, State.stack, State.lnp, State.setHobSt_frame, and_self]

@[simp] theorem State.setOver_frame (s : State) (h : Nat) (above : Bool) :
    (s.setOver h above).st = s.st ∧ (s.setOver h above).now = s.now ∧ (s.setOver h above).boot = s.boot ∧
    (s.setOver h above).resets = s.resets ∧ (s.setOver h above).damper = s.damper ∧
    (s.setOver h above).sensors = s.sensors ∧ (s.setOver h above).pins = s.pins ∧ (s.setOver h above).avl = s.avl ∧
    (s.setOver h above).cfgs = s.cfgs ∧ (s.setOver h above).expel = s.expel ∧
    (s.setOver h above).perturbs = s.perturbs ∧ (s.setOver h above).cells = s.cells ∧
    (s.setOver h above).routers = s.routers ∧ (s.setOver h above).edgeIn = s.edgeIn ∧
    (s.setOver h above).rimIn = s.rimIn ∧ (s.setOver h above).health = s.health ∧ (s.setOver h above).racks = s.racks ∧
    (s.setOver h above).stk = s.stk ∧ (s.setOver h above).lines = s.lines ∧ (s.setOver h above).errs = s.errs ∧
    (s.setOver h above).rdrs = s.rdrs ∧ (s.setOver h above).rdrs6 = s.rdrs6 ∧ (s.setOver h above).txns = s.txns ∧
    (s.setOver h above).lnps = s.lnps ∧ (s.setOver h above).hearth = s.hearth ∧ (s.setOver h above).fw = s.fw ∧
    (s.setOver h above).pmbus = s.pmbus ∧ (s.setOver h above).sessions = s.sessions ∧ (s.setOver h above).log = s.log ∧
    (s.setOver h above).logSeq = s.logSeq ∧ (s.setOver h above).logFail = s.logFail ∧
    (s.setOver h above).ashes = s.ashes ∧ (s.setOver h above).ashRun = s.ashRun ∧
    (s.setOver h above).ashSeq = s.ashSeq ∧ (s.setOver h above).places = s.places ∧
    (s.setOver h above).places6 = s.places6 ∧ (s.setOver h above).pantry = s.pantry ∧
    (s.setOver h above).broadcasts = s.broadcasts ∧ (s.setOver h above).bcastSeq = s.bcastSeq ∧
    (s.setOver h above).free = s.free := by
  simp [State.setOver]

@[simp] theorem State.setOver_parts (s : State) (h : Nat) (above : Bool) (j : Nat) :
    (s.setOver h above).cell j = s.cell j ∧ (s.setOver h above).router j = s.router j ∧
    (s.setOver h above).pos j = s.pos j ∧ (s.setOver h above).rack j = s.rack j ∧
    (s.setOver h above).stack j = s.stack j ∧ (s.setOver h above).lnp j = s.lnp j := by
  simp only [State.cell, State.router, State.pos, State.rack, State.stack, State.lnp, State.setOver_frame, and_self]

@[simp] theorem State.modCells_frame (s : State) (h : Nat) (f : Cell → Cell) :
    (s.modCells h f).st = s.st ∧ (s.modCells h f).now = s.now ∧ (s.modCells h f).boot = s.boot ∧
    (s.modCells h f).resets = s.resets ∧ (s.modCells h f).damper = s.damper ∧ (s.modCells h f).sensors = s.sensors ∧
    (s.modCells h f).pins = s.pins ∧ (s.modCells h f).avl = s.avl ∧ (s.modCells h f).cfgs = s.cfgs ∧
    (s.modCells h f).expel = s.expel ∧ (s.modCells h f).perturbs = s.perturbs ∧ (s.modCells h f).routers = s.routers ∧
    (s.modCells h f).edgeIn = s.edgeIn ∧ (s.modCells h f).rimIn = s.rimIn ∧ (s.modCells h f).health = s.health ∧
    (s.modCells h f).racks = s.racks ∧ (s.modCells h f).hobs = s.hobs ∧ (s.modCells h f).stk = s.stk ∧
    (s.modCells h f).lines = s.lines ∧ (s.modCells h f).errs = s.errs ∧ (s.modCells h f).rdrs = s.rdrs ∧
    (s.modCells h f).rdrs6 = s.rdrs6 ∧ (s.modCells h f).txns = s.txns ∧ (s.modCells h f).hosts = s.hosts ∧
    (s.modCells h f).lnps = s.lnps ∧ (s.modCells h f).hearth = s.hearth ∧ (s.modCells h f).fw = s.fw ∧
    (s.modCells h f).pmbus = s.pmbus ∧ (s.modCells h f).sessions = s.sessions ∧ (s.modCells h f).log = s.log ∧
    (s.modCells h f).logSeq = s.logSeq ∧ (s.modCells h f).logFail = s.logFail ∧ (s.modCells h f).ashes = s.ashes ∧
    (s.modCells h f).ashRun = s.ashRun ∧ (s.modCells h f).ashSeq = s.ashSeq ∧ (s.modCells h f).places = s.places ∧
    (s.modCells h f).places6 = s.places6 ∧ (s.modCells h f).pantry = s.pantry ∧
    (s.modCells h f).broadcasts = s.broadcasts ∧ (s.modCells h f).bcastSeq = s.bcastSeq ∧
    (s.modCells h f).out = s.out ∧ (s.modCells h f).free = s.free := by
  simp [State.modCells]

@[simp] theorem State.modCells_parts (s : State) (h : Nat) (f : Cell → Cell) (j : Nat) :
    (s.modCells h f).router j = s.router j ∧ (s.modCells h f).pos j = s.pos j ∧ (s.modCells h f).rack j = s.rack j ∧
    (s.modCells h f).hob j = s.hob j ∧ (s.modCells h f).stack j = s.stack j ∧ (s.modCells h f).host j = s.host j ∧
    (s.modCells h f).lnp j = s.lnp j := by
  simp only [State.router, State.pos, State.rack, State.hob, State.stack, State.host, State.lnp, State.modCells_frame, and_self]

@[simp] theorem State.failWaits_frame (s : State) (h : Nat) :
    (s.failWaits h).st = s.st ∧ (s.failWaits h).now = s.now ∧ (s.failWaits h).boot = s.boot ∧
    (s.failWaits h).resets = s.resets ∧ (s.failWaits h).damper = s.damper ∧ (s.failWaits h).sensors = s.sensors ∧
    (s.failWaits h).pins = s.pins ∧ (s.failWaits h).avl = s.avl ∧ (s.failWaits h).cfgs = s.cfgs ∧
    (s.failWaits h).expel = s.expel ∧ (s.failWaits h).perturbs = s.perturbs ∧ (s.failWaits h).cells = s.cells ∧
    (s.failWaits h).routers = s.routers ∧ (s.failWaits h).edgeIn = s.edgeIn ∧ (s.failWaits h).rimIn = s.rimIn ∧
    (s.failWaits h).health = s.health ∧ (s.failWaits h).racks = s.racks ∧ (s.failWaits h).stk = s.stk ∧
    (s.failWaits h).lines = s.lines ∧ (s.failWaits h).errs = s.errs ∧ (s.failWaits h).rdrs = s.rdrs ∧
    (s.failWaits h).rdrs6 = s.rdrs6 ∧ (s.failWaits h).txns = s.txns ∧ (s.failWaits h).lnps = s.lnps ∧
    (s.failWaits h).hearth = s.hearth ∧ (s.failWaits h).fw = s.fw ∧ (s.failWaits h).pmbus = s.pmbus ∧
    (s.failWaits h).sessions = s.sessions ∧ (s.failWaits h).log = s.log ∧ (s.failWaits h).logSeq = s.logSeq ∧
    (s.failWaits h).logFail = s.logFail ∧ (s.failWaits h).ashes = s.ashes ∧ (s.failWaits h).ashRun = s.ashRun ∧
    (s.failWaits h).ashSeq = s.ashSeq ∧ (s.failWaits h).places = s.places ∧ (s.failWaits h).places6 = s.places6 ∧
    (s.failWaits h).pantry = s.pantry ∧ (s.failWaits h).broadcasts = s.broadcasts ∧
    (s.failWaits h).bcastSeq = s.bcastSeq ∧ (s.failWaits h).free = s.free := by
  simp [State.failWaits]

@[simp] theorem State.failWaits_parts (s : State) (h : Nat) (j : Nat) :
    (s.failWaits h).cell j = s.cell j ∧ (s.failWaits h).router j = s.router j ∧ (s.failWaits h).pos j = s.pos j ∧
    (s.failWaits h).rack j = s.rack j ∧ (s.failWaits h).stack j = s.stack j ∧ (s.failWaits h).lnp j = s.lnp j := by
  simp only [State.cell, State.router, State.pos, State.rack, State.stack, State.lnp, State.failWaits_frame, and_self]

@[simp] theorem State.endRun_frame (s : State) (h status detail info0 info1 : Nat) :
    (s.endRun h status detail info0 info1).st = s.st ∧ (s.endRun h status detail info0 info1).now = s.now ∧
    (s.endRun h status detail info0 info1).boot = s.boot ∧ (s.endRun h status detail info0 info1).resets = s.resets ∧
    (s.endRun h status detail info0 info1).damper = s.damper ∧
    (s.endRun h status detail info0 info1).sensors = s.sensors ∧ (s.endRun h status detail info0 info1).pins = s.pins ∧
    (s.endRun h status detail info0 info1).avl = s.avl ∧ (s.endRun h status detail info0 info1).cfgs = s.cfgs ∧
    (s.endRun h status detail info0 info1).expel = s.expel ∧
    (s.endRun h status detail info0 info1).perturbs = s.perturbs ∧
    (s.endRun h status detail info0 info1).cells = s.cells ∧
    (s.endRun h status detail info0 info1).routers = s.routers ∧
    (s.endRun h status detail info0 info1).edgeIn = s.edgeIn ∧ (s.endRun h status detail info0 info1).rimIn = s.rimIn ∧
    (s.endRun h status detail info0 info1).health = s.health ∧ (s.endRun h status detail info0 info1).racks = s.racks ∧
    (s.endRun h status detail info0 info1).stk = s.stk ∧ (s.endRun h status detail info0 info1).lines = s.lines ∧
    (s.endRun h status detail info0 info1).errs = s.errs ∧ (s.endRun h status detail info0 info1).rdrs = s.rdrs ∧
    (s.endRun h status detail info0 info1).rdrs6 = s.rdrs6 ∧ (s.endRun h status detail info0 info1).txns = s.txns ∧
    (s.endRun h status detail info0 info1).lnps = s.lnps ∧ (s.endRun h status detail info0 info1).hearth = s.hearth ∧
    (s.endRun h status detail info0 info1).fw = s.fw ∧ (s.endRun h status detail info0 info1).pmbus = s.pmbus ∧
    (s.endRun h status detail info0 info1).sessions = s.sessions ∧ (s.endRun h status detail info0 info1).log = s.log ∧
    (s.endRun h status detail info0 info1).logSeq = s.logSeq ∧
    (s.endRun h status detail info0 info1).logFail = s.logFail ∧
    (s.endRun h status detail info0 info1).ashes = s.ashes ∧ (s.endRun h status detail info0 info1).ashRun = s.ashRun ∧
    (s.endRun h status detail info0 info1).ashSeq = s.ashSeq ∧
    (s.endRun h status detail info0 info1).places = s.places ∧
    (s.endRun h status detail info0 info1).places6 = s.places6 ∧
    (s.endRun h status detail info0 info1).pantry = s.pantry ∧
    (s.endRun h status detail info0 info1).broadcasts = s.broadcasts ∧
    (s.endRun h status detail info0 info1).bcastSeq = s.bcastSeq ∧ (s.endRun h status detail info0 info1).free = s.free := by
  simp [State.endRun]

@[simp] theorem State.endRun_parts (s : State) (h status detail info0 info1 : Nat) (j : Nat) :
    (s.endRun h status detail info0 info1).cell j = s.cell j ∧
    (s.endRun h status detail info0 info1).router j = s.router j ∧
    (s.endRun h status detail info0 info1).pos j = s.pos j ∧ (s.endRun h status detail info0 info1).rack j = s.rack j ∧
    (s.endRun h status detail info0 info1).stack j = s.stack j ∧ (s.endRun h status detail info0 info1).lnp j = s.lnp j := by
  simp only [State.cell, State.router, State.pos, State.rack, State.stack, State.lnp, State.endRun_frame, and_self]

@[simp] theorem State.stopHob_frame (s : State) (h status detail info0 info1 : Nat) :
    (s.stopHob h status detail info0 info1).st = s.st ∧ (s.stopHob h status detail info0 info1).now = s.now ∧
    (s.stopHob h status detail info0 info1).boot = s.boot ∧ (s.stopHob h status detail info0 info1).resets = s.resets ∧
    (s.stopHob h status detail info0 info1).damper = s.damper ∧
    (s.stopHob h status detail info0 info1).sensors = s.sensors ∧
    (s.stopHob h status detail info0 info1).pins = s.pins ∧ (s.stopHob h status detail info0 info1).cfgs = s.cfgs ∧
    (s.stopHob h status detail info0 info1).expel = s.expel ∧
    (s.stopHob h status detail info0 info1).perturbs = s.perturbs ∧
    (s.stopHob h status detail info0 info1).routers = s.routers ∧
    (s.stopHob h status detail info0 info1).edgeIn = s.edgeIn ∧
    (s.stopHob h status detail info0 info1).rimIn = s.rimIn ∧
    (s.stopHob h status detail info0 info1).health = s.health ∧
    (s.stopHob h status detail info0 info1).racks = s.racks ∧ (s.stopHob h status detail info0 info1).stk = s.stk ∧
    (s.stopHob h status detail info0 info1).lines = s.lines ∧ (s.stopHob h status detail info0 info1).errs = s.errs ∧
    (s.stopHob h status detail info0 info1).rdrs = s.rdrs ∧ (s.stopHob h status detail info0 info1).rdrs6 = s.rdrs6 ∧
    (s.stopHob h status detail info0 info1).txns = s.txns ∧ (s.stopHob h status detail info0 info1).lnps = s.lnps ∧
    (s.stopHob h status detail info0 info1).hearth = s.hearth ∧ (s.stopHob h status detail info0 info1).fw = s.fw ∧
    (s.stopHob h status detail info0 info1).pmbus = s.pmbus ∧
    (s.stopHob h status detail info0 info1).sessions = s.sessions ∧
    (s.stopHob h status detail info0 info1).log = s.log ∧ (s.stopHob h status detail info0 info1).logSeq = s.logSeq ∧
    (s.stopHob h status detail info0 info1).logFail = s.logFail ∧
    (s.stopHob h status detail info0 info1).ashes = s.ashes ∧
    (s.stopHob h status detail info0 info1).ashRun = s.ashRun ∧
    (s.stopHob h status detail info0 info1).ashSeq = s.ashSeq ∧
    (s.stopHob h status detail info0 info1).places = s.places ∧
    (s.stopHob h status detail info0 info1).places6 = s.places6 ∧
    (s.stopHob h status detail info0 info1).pantry = s.pantry ∧
    (s.stopHob h status detail info0 info1).broadcasts = s.broadcasts ∧
    (s.stopHob h status detail info0 info1).bcastSeq = s.bcastSeq ∧
    (s.stopHob h status detail info0 info1).free = s.free := by
  simp [State.stopHob]

@[simp] theorem State.stopHob_parts (s : State) (h status detail info0 info1 : Nat) (j : Nat) :
    (s.stopHob h status detail info0 info1).router j = s.router j ∧
    (s.stopHob h status detail info0 info1).pos j = s.pos j ∧
    (s.stopHob h status detail info0 info1).rack j = s.rack j ∧
    (s.stopHob h status detail info0 info1).stack j = s.stack j ∧
    (s.stopHob h status detail info0 info1).lnp j = s.lnp j := by
  simp only [State.router, State.pos, State.rack, State.stack, State.lnp, State.stopHob_frame, and_self]

@[simp] theorem State.nextReport_frame (s : State) :
    (s.nextReport).2.st = s.st ∧ (s.nextReport).2.now = s.now ∧ (s.nextReport).2.boot = s.boot ∧
    (s.nextReport).2.resets = s.resets ∧ (s.nextReport).2.damper = s.damper ∧ (s.nextReport).2.sensors = s.sensors ∧
    (s.nextReport).2.pins = s.pins ∧ (s.nextReport).2.avl = s.avl ∧ (s.nextReport).2.cfgs = s.cfgs ∧
    (s.nextReport).2.expel = s.expel ∧ (s.nextReport).2.perturbs = s.perturbs ∧ (s.nextReport).2.cells = s.cells ∧
    (s.nextReport).2.routers = s.routers ∧ (s.nextReport).2.edgeIn = s.edgeIn ∧ (s.nextReport).2.rimIn = s.rimIn ∧
    (s.nextReport).2.health = s.health ∧ (s.nextReport).2.racks = s.racks ∧ (s.nextReport).2.hobs = s.hobs ∧
    (s.nextReport).2.stk = s.stk ∧ (s.nextReport).2.lines = s.lines ∧ (s.nextReport).2.errs = s.errs ∧
    (s.nextReport).2.rdrs = s.rdrs ∧ (s.nextReport).2.rdrs6 = s.rdrs6 ∧ (s.nextReport).2.txns = s.txns ∧
    (s.nextReport).2.hosts = s.hosts ∧ (s.nextReport).2.lnps = s.lnps ∧ (s.nextReport).2.fw = s.fw ∧
    (s.nextReport).2.pmbus = s.pmbus ∧ (s.nextReport).2.sessions = s.sessions ∧ (s.nextReport).2.log = s.log ∧
    (s.nextReport).2.logSeq = s.logSeq ∧ (s.nextReport).2.logFail = s.logFail ∧ (s.nextReport).2.ashes = s.ashes ∧
    (s.nextReport).2.ashRun = s.ashRun ∧ (s.nextReport).2.ashSeq = s.ashSeq ∧ (s.nextReport).2.places = s.places ∧
    (s.nextReport).2.places6 = s.places6 ∧ (s.nextReport).2.pantry = s.pantry ∧
    (s.nextReport).2.broadcasts = s.broadcasts ∧ (s.nextReport).2.bcastSeq = s.bcastSeq ∧
    (s.nextReport).2.out = s.out ∧ (s.nextReport).2.free = s.free := by
  simp [State.nextReport]

@[simp] theorem State.nextReport_parts (s : State) (j : Nat) :
    (s.nextReport).2.cell j = s.cell j ∧ (s.nextReport).2.router j = s.router j ∧ (s.nextReport).2.pos j = s.pos j ∧
    (s.nextReport).2.rack j = s.rack j ∧ (s.nextReport).2.hob j = s.hob j ∧ (s.nextReport).2.stack j = s.stack j ∧
    (s.nextReport).2.host j = s.host j ∧ (s.nextReport).2.lnp j = s.lnp j := by
  simp only [State.cell, State.router, State.pos, State.rack, State.hob, State.stack, State.host, State.lnp, State.nextReport_frame, and_self]

@[simp] theorem State.report_frame (s : State) (h status seq : Nat) (bytes : List Byte) :
    (s.report h status seq bytes).st = s.st ∧ (s.report h status seq bytes).now = s.now ∧
    (s.report h status seq bytes).boot = s.boot ∧ (s.report h status seq bytes).resets = s.resets ∧
    (s.report h status seq bytes).damper = s.damper ∧ (s.report h status seq bytes).sensors = s.sensors ∧
    (s.report h status seq bytes).pins = s.pins ∧ (s.report h status seq bytes).avl = s.avl ∧
    (s.report h status seq bytes).cfgs = s.cfgs ∧ (s.report h status seq bytes).expel = s.expel ∧
    (s.report h status seq bytes).perturbs = s.perturbs ∧ (s.report h status seq bytes).cells = s.cells ∧
    (s.report h status seq bytes).routers = s.routers ∧ (s.report h status seq bytes).edgeIn = s.edgeIn ∧
    (s.report h status seq bytes).rimIn = s.rimIn ∧ (s.report h status seq bytes).health = s.health ∧
    (s.report h status seq bytes).racks = s.racks ∧ (s.report h status seq bytes).stk = s.stk ∧
    (s.report h status seq bytes).lines = s.lines ∧ (s.report h status seq bytes).errs = s.errs ∧
    (s.report h status seq bytes).rdrs = s.rdrs ∧ (s.report h status seq bytes).rdrs6 = s.rdrs6 ∧
    (s.report h status seq bytes).txns = s.txns ∧ (s.report h status seq bytes).lnps = s.lnps ∧
    (s.report h status seq bytes).hearth = s.hearth ∧ (s.report h status seq bytes).fw = s.fw ∧
    (s.report h status seq bytes).pmbus = s.pmbus ∧ (s.report h status seq bytes).sessions = s.sessions ∧
    (s.report h status seq bytes).log = s.log ∧ (s.report h status seq bytes).logSeq = s.logSeq ∧
    (s.report h status seq bytes).logFail = s.logFail ∧ (s.report h status seq bytes).ashes = s.ashes ∧
    (s.report h status seq bytes).ashRun = s.ashRun ∧ (s.report h status seq bytes).ashSeq = s.ashSeq ∧
    (s.report h status seq bytes).places = s.places ∧ (s.report h status seq bytes).places6 = s.places6 ∧
    (s.report h status seq bytes).pantry = s.pantry ∧ (s.report h status seq bytes).broadcasts = s.broadcasts ∧
    (s.report h status seq bytes).bcastSeq = s.bcastSeq ∧ (s.report h status seq bytes).free = s.free := by
  simp [State.report]

@[simp] theorem State.report_parts (s : State) (h status seq : Nat) (bytes : List Byte) (j : Nat) :
    (s.report h status seq bytes).cell j = s.cell j ∧ (s.report h status seq bytes).router j = s.router j ∧
    (s.report h status seq bytes).pos j = s.pos j ∧ (s.report h status seq bytes).rack j = s.rack j ∧
    (s.report h status seq bytes).stack j = s.stack j ∧ (s.report h status seq bytes).lnp j = s.lnp j := by
  simp only [State.cell, State.router, State.pos, State.rack, State.stack, State.lnp, State.report_frame, and_self]

@[simp] theorem State.eccReport_frame (s : State) (h : Nat) (lines : List EccLine) :
    (s.eccReport h lines).st = s.st ∧ (s.eccReport h lines).now = s.now ∧ (s.eccReport h lines).boot = s.boot ∧
    (s.eccReport h lines).resets = s.resets ∧ (s.eccReport h lines).damper = s.damper ∧
    (s.eccReport h lines).sensors = s.sensors ∧ (s.eccReport h lines).pins = s.pins ∧
    (s.eccReport h lines).avl = s.avl ∧ (s.eccReport h lines).cfgs = s.cfgs ∧ (s.eccReport h lines).expel = s.expel ∧
    (s.eccReport h lines).perturbs = s.perturbs ∧ (s.eccReport h lines).cells = s.cells ∧
    (s.eccReport h lines).routers = s.routers ∧ (s.eccReport h lines).edgeIn = s.edgeIn ∧
    (s.eccReport h lines).rimIn = s.rimIn ∧ (s.eccReport h lines).health = s.health ∧
    (s.eccReport h lines).racks = s.racks ∧ (s.eccReport h lines).stk = s.stk ∧ (s.eccReport h lines).lines = s.lines ∧
    (s.eccReport h lines).errs = s.errs ∧ (s.eccReport h lines).rdrs = s.rdrs ∧ (s.eccReport h lines).rdrs6 = s.rdrs6 ∧
    (s.eccReport h lines).txns = s.txns ∧ (s.eccReport h lines).lnps = s.lnps ∧ (s.eccReport h lines).fw = s.fw ∧
    (s.eccReport h lines).pmbus = s.pmbus ∧ (s.eccReport h lines).sessions = s.sessions ∧
    (s.eccReport h lines).log = s.log ∧ (s.eccReport h lines).logSeq = s.logSeq ∧
    (s.eccReport h lines).logFail = s.logFail ∧ (s.eccReport h lines).ashes = s.ashes ∧
    (s.eccReport h lines).ashRun = s.ashRun ∧ (s.eccReport h lines).ashSeq = s.ashSeq ∧
    (s.eccReport h lines).places = s.places ∧ (s.eccReport h lines).places6 = s.places6 ∧
    (s.eccReport h lines).pantry = s.pantry ∧ (s.eccReport h lines).broadcasts = s.broadcasts ∧
    (s.eccReport h lines).bcastSeq = s.bcastSeq ∧ (s.eccReport h lines).free = s.free := by
  simp [State.eccReport]

@[simp] theorem State.eccReport_parts (s : State) (h : Nat) (lines : List EccLine) (j : Nat) :
    (s.eccReport h lines).cell j = s.cell j ∧ (s.eccReport h lines).router j = s.router j ∧
    (s.eccReport h lines).pos j = s.pos j ∧ (s.eccReport h lines).rack j = s.rack j ∧
    (s.eccReport h lines).stack j = s.stack j ∧ (s.eccReport h lines).lnp j = s.lnp j := by
  simp only [State.cell, State.router, State.pos, State.rack, State.stack, State.lnp, State.eccReport_frame, and_self]

@[simp] theorem State.setRdrs_frame (s : State) (t : Tab Rdr) :
    (s.setRdrs t).st = s.st ∧ (s.setRdrs t).now = s.now ∧ (s.setRdrs t).boot = s.boot ∧
    (s.setRdrs t).resets = s.resets ∧ (s.setRdrs t).damper = s.damper ∧ (s.setRdrs t).sensors = s.sensors ∧
    (s.setRdrs t).pins = s.pins ∧ (s.setRdrs t).avl = s.avl ∧ (s.setRdrs t).cfgs = s.cfgs ∧
    (s.setRdrs t).expel = s.expel ∧ (s.setRdrs t).perturbs = s.perturbs ∧ (s.setRdrs t).cells = s.cells ∧
    (s.setRdrs t).routers = s.routers ∧ (s.setRdrs t).edgeIn = s.edgeIn ∧ (s.setRdrs t).rimIn = s.rimIn ∧
    (s.setRdrs t).health = s.health ∧ (s.setRdrs t).racks = s.racks ∧ (s.setRdrs t).hobs = s.hobs ∧
    (s.setRdrs t).stk = s.stk ∧ (s.setRdrs t).lines = s.lines ∧ (s.setRdrs t).errs = s.errs ∧
    (s.setRdrs t).txns = s.txns ∧ (s.setRdrs t).hosts = s.hosts ∧ (s.setRdrs t).lnps = s.lnps ∧
    (s.setRdrs t).hearth = s.hearth ∧ (s.setRdrs t).fw = s.fw ∧ (s.setRdrs t).pmbus = s.pmbus ∧
    (s.setRdrs t).sessions = s.sessions ∧ (s.setRdrs t).log = s.log ∧ (s.setRdrs t).logSeq = s.logSeq ∧
    (s.setRdrs t).logFail = s.logFail ∧ (s.setRdrs t).ashes = s.ashes ∧ (s.setRdrs t).ashRun = s.ashRun ∧
    (s.setRdrs t).ashSeq = s.ashSeq ∧ (s.setRdrs t).places = s.places ∧ (s.setRdrs t).places6 = s.places6 ∧
    (s.setRdrs t).pantry = s.pantry ∧ (s.setRdrs t).broadcasts = s.broadcasts ∧ (s.setRdrs t).bcastSeq = s.bcastSeq ∧
    (s.setRdrs t).out = s.out ∧ (s.setRdrs t).free = s.free := by
  simp [State.setRdrs]

@[simp] theorem State.setRdrs_parts (s : State) (t : Tab Rdr) (j : Nat) :
    (s.setRdrs t).cell j = s.cell j ∧ (s.setRdrs t).router j = s.router j ∧ (s.setRdrs t).pos j = s.pos j ∧
    (s.setRdrs t).rack j = s.rack j ∧ (s.setRdrs t).hob j = s.hob j ∧ (s.setRdrs t).stack j = s.stack j ∧
    (s.setRdrs t).host j = s.host j ∧ (s.setRdrs t).lnp j = s.lnp j := by
  simp only [State.cell, State.router, State.pos, State.rack, State.hob, State.stack, State.host, State.lnp, State.setRdrs_frame, and_self]

@[simp] theorem State.putLine_frame (s : State) (key dev : Nat) (data : List Byte) (poison : Bool) :
    (s.putLine key dev data poison).st = s.st ∧ (s.putLine key dev data poison).now = s.now ∧
    (s.putLine key dev data poison).boot = s.boot ∧ (s.putLine key dev data poison).resets = s.resets ∧
    (s.putLine key dev data poison).damper = s.damper ∧ (s.putLine key dev data poison).sensors = s.sensors ∧
    (s.putLine key dev data poison).pins = s.pins ∧ (s.putLine key dev data poison).avl = s.avl ∧
    (s.putLine key dev data poison).cfgs = s.cfgs ∧ (s.putLine key dev data poison).expel = s.expel ∧
    (s.putLine key dev data poison).perturbs = s.perturbs ∧ (s.putLine key dev data poison).cells = s.cells ∧
    (s.putLine key dev data poison).routers = s.routers ∧ (s.putLine key dev data poison).edgeIn = s.edgeIn ∧
    (s.putLine key dev data poison).rimIn = s.rimIn ∧ (s.putLine key dev data poison).health = s.health ∧
    (s.putLine key dev data poison).racks = s.racks ∧ (s.putLine key dev data poison).hobs = s.hobs ∧
    (s.putLine key dev data poison).stk = s.stk ∧ (s.putLine key dev data poison).rdrs = s.rdrs ∧
    (s.putLine key dev data poison).rdrs6 = s.rdrs6 ∧ (s.putLine key dev data poison).txns = s.txns ∧
    (s.putLine key dev data poison).hosts = s.hosts ∧ (s.putLine key dev data poison).lnps = s.lnps ∧
    (s.putLine key dev data poison).hearth = s.hearth ∧ (s.putLine key dev data poison).fw = s.fw ∧
    (s.putLine key dev data poison).pmbus = s.pmbus ∧ (s.putLine key dev data poison).sessions = s.sessions ∧
    (s.putLine key dev data poison).log = s.log ∧ (s.putLine key dev data poison).logSeq = s.logSeq ∧
    (s.putLine key dev data poison).logFail = s.logFail ∧ (s.putLine key dev data poison).ashes = s.ashes ∧
    (s.putLine key dev data poison).ashRun = s.ashRun ∧ (s.putLine key dev data poison).ashSeq = s.ashSeq ∧
    (s.putLine key dev data poison).places = s.places ∧ (s.putLine key dev data poison).places6 = s.places6 ∧
    (s.putLine key dev data poison).pantry = s.pantry ∧ (s.putLine key dev data poison).broadcasts = s.broadcasts ∧
    (s.putLine key dev data poison).bcastSeq = s.bcastSeq ∧ (s.putLine key dev data poison).out = s.out ∧
    (s.putLine key dev data poison).free = s.free := by
  simp [State.putLine]

@[simp] theorem State.putLine_parts (s : State) (key dev : Nat) (data : List Byte) (poison : Bool) (j : Nat) :
    (s.putLine key dev data poison).cell j = s.cell j ∧ (s.putLine key dev data poison).router j = s.router j ∧
    (s.putLine key dev data poison).pos j = s.pos j ∧ (s.putLine key dev data poison).rack j = s.rack j ∧
    (s.putLine key dev data poison).hob j = s.hob j ∧ (s.putLine key dev data poison).stack j = s.stack j ∧
    (s.putLine key dev data poison).host j = s.host j ∧ (s.putLine key dev data poison).lnp j = s.lnp j := by
  simp only [State.cell, State.router, State.pos, State.rack, State.hob, State.stack, State.host, State.lnp, State.putLine_frame, and_self]

@[simp] theorem State.putLines_frame (s : State) (key dev : Nat) (data : List Byte) (poisoned : Nat → Bool) :
    (s.putLines key dev data poisoned).st = s.st ∧ (s.putLines key dev data poisoned).now = s.now ∧
    (s.putLines key dev data poisoned).boot = s.boot ∧ (s.putLines key dev data poisoned).resets = s.resets ∧
    (s.putLines key dev data poisoned).damper = s.damper ∧ (s.putLines key dev data poisoned).sensors = s.sensors ∧
    (s.putLines key dev data poisoned).pins = s.pins ∧ (s.putLines key dev data poisoned).avl = s.avl ∧
    (s.putLines key dev data poisoned).cfgs = s.cfgs ∧ (s.putLines key dev data poisoned).expel = s.expel ∧
    (s.putLines key dev data poisoned).perturbs = s.perturbs ∧ (s.putLines key dev data poisoned).cells = s.cells ∧
    (s.putLines key dev data poisoned).routers = s.routers ∧ (s.putLines key dev data poisoned).edgeIn = s.edgeIn ∧
    (s.putLines key dev data poisoned).rimIn = s.rimIn ∧ (s.putLines key dev data poisoned).health = s.health ∧
    (s.putLines key dev data poisoned).racks = s.racks ∧ (s.putLines key dev data poisoned).hobs = s.hobs ∧
    (s.putLines key dev data poisoned).stk = s.stk ∧ (s.putLines key dev data poisoned).rdrs = s.rdrs ∧
    (s.putLines key dev data poisoned).rdrs6 = s.rdrs6 ∧ (s.putLines key dev data poisoned).txns = s.txns ∧
    (s.putLines key dev data poisoned).hosts = s.hosts ∧ (s.putLines key dev data poisoned).lnps = s.lnps ∧
    (s.putLines key dev data poisoned).hearth = s.hearth ∧ (s.putLines key dev data poisoned).fw = s.fw ∧
    (s.putLines key dev data poisoned).pmbus = s.pmbus ∧ (s.putLines key dev data poisoned).sessions = s.sessions ∧
    (s.putLines key dev data poisoned).log = s.log ∧ (s.putLines key dev data poisoned).logSeq = s.logSeq ∧
    (s.putLines key dev data poisoned).logFail = s.logFail ∧ (s.putLines key dev data poisoned).ashes = s.ashes ∧
    (s.putLines key dev data poisoned).ashRun = s.ashRun ∧ (s.putLines key dev data poisoned).ashSeq = s.ashSeq ∧
    (s.putLines key dev data poisoned).places = s.places ∧ (s.putLines key dev data poisoned).places6 = s.places6 ∧
    (s.putLines key dev data poisoned).pantry = s.pantry ∧
    (s.putLines key dev data poisoned).broadcasts = s.broadcasts ∧
    (s.putLines key dev data poisoned).bcastSeq = s.bcastSeq ∧ (s.putLines key dev data poisoned).out = s.out ∧
    (s.putLines key dev data poisoned).free = s.free := by
  simp [State.putLines]

@[simp] theorem State.putLines_parts (s : State) (key dev : Nat) (data : List Byte) (poisoned : Nat → Bool) (j : Nat) :
    (s.putLines key dev data poisoned).cell j = s.cell j ∧ (s.putLines key dev data poisoned).router j = s.router j ∧
    (s.putLines key dev data poisoned).pos j = s.pos j ∧ (s.putLines key dev data poisoned).rack j = s.rack j ∧
    (s.putLines key dev data poisoned).hob j = s.hob j ∧ (s.putLines key dev data poisoned).stack j = s.stack j ∧
    (s.putLines key dev data poisoned).host j = s.host j ∧ (s.putLines key dev data poisoned).lnp j = s.lnp j := by
  simp only [State.cell, State.router, State.pos, State.rack, State.hob, State.stack, State.host, State.lnp, State.putLines_frame, and_self]

@[simp] theorem State.zeroRange_frame (s : State) (dev len : Nat) :
    (s.zeroRange dev len).st = s.st ∧ (s.zeroRange dev len).now = s.now ∧ (s.zeroRange dev len).boot = s.boot ∧
    (s.zeroRange dev len).resets = s.resets ∧ (s.zeroRange dev len).damper = s.damper ∧
    (s.zeroRange dev len).sensors = s.sensors ∧ (s.zeroRange dev len).pins = s.pins ∧
    (s.zeroRange dev len).avl = s.avl ∧ (s.zeroRange dev len).cfgs = s.cfgs ∧ (s.zeroRange dev len).expel = s.expel ∧
    (s.zeroRange dev len).perturbs = s.perturbs ∧ (s.zeroRange dev len).cells = s.cells ∧
    (s.zeroRange dev len).routers = s.routers ∧ (s.zeroRange dev len).edgeIn = s.edgeIn ∧
    (s.zeroRange dev len).rimIn = s.rimIn ∧ (s.zeroRange dev len).health = s.health ∧
    (s.zeroRange dev len).racks = s.racks ∧ (s.zeroRange dev len).hobs = s.hobs ∧ (s.zeroRange dev len).stk = s.stk ∧
    (s.zeroRange dev len).rdrs = s.rdrs ∧ (s.zeroRange dev len).rdrs6 = s.rdrs6 ∧ (s.zeroRange dev len).txns = s.txns ∧
    (s.zeroRange dev len).hosts = s.hosts ∧ (s.zeroRange dev len).lnps = s.lnps ∧
    (s.zeroRange dev len).hearth = s.hearth ∧ (s.zeroRange dev len).fw = s.fw ∧ (s.zeroRange dev len).pmbus = s.pmbus ∧
    (s.zeroRange dev len).sessions = s.sessions ∧ (s.zeroRange dev len).log = s.log ∧
    (s.zeroRange dev len).logSeq = s.logSeq ∧ (s.zeroRange dev len).logFail = s.logFail ∧
    (s.zeroRange dev len).ashes = s.ashes ∧ (s.zeroRange dev len).ashRun = s.ashRun ∧
    (s.zeroRange dev len).ashSeq = s.ashSeq ∧ (s.zeroRange dev len).places = s.places ∧
    (s.zeroRange dev len).places6 = s.places6 ∧ (s.zeroRange dev len).pantry = s.pantry ∧
    (s.zeroRange dev len).broadcasts = s.broadcasts ∧ (s.zeroRange dev len).bcastSeq = s.bcastSeq ∧
    (s.zeroRange dev len).out = s.out ∧ (s.zeroRange dev len).free = s.free := by
  simp [State.zeroRange]

@[simp] theorem State.zeroRange_parts (s : State) (dev len : Nat) (j : Nat) :
    (s.zeroRange dev len).cell j = s.cell j ∧ (s.zeroRange dev len).router j = s.router j ∧
    (s.zeroRange dev len).pos j = s.pos j ∧ (s.zeroRange dev len).rack j = s.rack j ∧
    (s.zeroRange dev len).hob j = s.hob j ∧ (s.zeroRange dev len).stack j = s.stack j ∧
    (s.zeroRange dev len).host j = s.host j ∧ (s.zeroRange dev len).lnp j = s.lnp j := by
  simp only [State.cell, State.router, State.pos, State.rack, State.hob, State.stack, State.host, State.lnp, State.zeroRange_frame, and_self]

@[simp] theorem State.relight_frame (s : State) (p : Nat) :
    (s.relight p).st = s.st ∧ (s.relight p).now = s.now ∧ (s.relight p).boot = s.boot ∧
    (s.relight p).resets = s.resets ∧ (s.relight p).damper = s.damper ∧ (s.relight p).sensors = s.sensors ∧
    (s.relight p).pins = s.pins ∧ (s.relight p).avl = s.avl ∧ (s.relight p).cfgs = s.cfgs ∧
    (s.relight p).expel = s.expel ∧ (s.relight p).perturbs = s.perturbs ∧ (s.relight p).cells = s.cells ∧
    (s.relight p).routers = s.routers ∧ (s.relight p).edgeIn = s.edgeIn ∧ (s.relight p).rimIn = s.rimIn ∧
    (s.relight p).health = s.health ∧ (s.relight p).racks = s.racks ∧ (s.relight p).hobs = s.hobs ∧
    (s.relight p).stk = s.stk ∧ (s.relight p).lines = s.lines ∧ (s.relight p).errs = s.errs ∧
    (s.relight p).rdrs = s.rdrs ∧ (s.relight p).rdrs6 = s.rdrs6 ∧ (s.relight p).txns = s.txns ∧
    (s.relight p).hosts = s.hosts ∧ (s.relight p).hearth = s.hearth ∧ (s.relight p).fw = s.fw ∧
    (s.relight p).pmbus = s.pmbus ∧ (s.relight p).sessions = s.sessions ∧ (s.relight p).log = s.log ∧
    (s.relight p).logSeq = s.logSeq ∧ (s.relight p).logFail = s.logFail ∧ (s.relight p).ashes = s.ashes ∧
    (s.relight p).ashRun = s.ashRun ∧ (s.relight p).ashSeq = s.ashSeq ∧ (s.relight p).places = s.places ∧
    (s.relight p).places6 = s.places6 ∧ (s.relight p).pantry = s.pantry ∧ (s.relight p).broadcasts = s.broadcasts ∧
    (s.relight p).bcastSeq = s.bcastSeq ∧ (s.relight p).out = s.out ∧ (s.relight p).free = s.free := by
  simp [State.relight]

@[simp] theorem State.relight_parts (s : State) (p : Nat) (j : Nat) :
    (s.relight p).cell j = s.cell j ∧ (s.relight p).router j = s.router j ∧ (s.relight p).pos j = s.pos j ∧
    (s.relight p).rack j = s.rack j ∧ (s.relight p).hob j = s.hob j ∧ (s.relight p).stack j = s.stack j ∧
    (s.relight p).host j = s.host j := by
  simp only [State.cell, State.router, State.pos, State.rack, State.hob, State.stack, State.host, State.relight_frame, and_self]

@[simp] theorem State.endServe_frame (s : State) (f : Frame) :
    (s.endServe f).st = s.st ∧ (s.endServe f).now = s.now ∧ (s.endServe f).boot = s.boot ∧
    (s.endServe f).resets = s.resets ∧ (s.endServe f).damper = s.damper ∧ (s.endServe f).sensors = s.sensors ∧
    (s.endServe f).pins = s.pins ∧ (s.endServe f).avl = s.avl ∧ (s.endServe f).cfgs = s.cfgs ∧
    (s.endServe f).expel = s.expel ∧ (s.endServe f).perturbs = s.perturbs ∧ (s.endServe f).cells = s.cells ∧
    (s.endServe f).routers = s.routers ∧ (s.endServe f).edgeIn = s.edgeIn ∧ (s.endServe f).rimIn = s.rimIn ∧
    (s.endServe f).health = s.health ∧ (s.endServe f).racks = s.racks ∧ (s.endServe f).hobs = s.hobs ∧
    (s.endServe f).stk = s.stk ∧ (s.endServe f).lines = s.lines ∧ (s.endServe f).errs = s.errs ∧
    (s.endServe f).rdrs = s.rdrs ∧ (s.endServe f).rdrs6 = s.rdrs6 ∧ (s.endServe f).txns = s.txns ∧
    (s.endServe f).hosts = s.hosts ∧ (s.endServe f).hearth = s.hearth ∧ (s.endServe f).fw = s.fw ∧
    (s.endServe f).pmbus = s.pmbus ∧ (s.endServe f).sessions = s.sessions ∧ (s.endServe f).log = s.log ∧
    (s.endServe f).logSeq = s.logSeq ∧ (s.endServe f).logFail = s.logFail ∧ (s.endServe f).ashes = s.ashes ∧
    (s.endServe f).ashRun = s.ashRun ∧ (s.endServe f).ashSeq = s.ashSeq ∧ (s.endServe f).places = s.places ∧
    (s.endServe f).places6 = s.places6 ∧ (s.endServe f).pantry = s.pantry ∧ (s.endServe f).broadcasts = s.broadcasts ∧
    (s.endServe f).bcastSeq = s.bcastSeq ∧ (s.endServe f).out = s.out ∧ (s.endServe f).free = s.free := by
  unfold State.endServe
  repeat' split
  all_goals simp_all

@[simp] theorem State.endServe_parts (s : State) (f : Frame) (j : Nat) :
    (s.endServe f).cell j = s.cell j ∧ (s.endServe f).router j = s.router j ∧ (s.endServe f).pos j = s.pos j ∧
    (s.endServe f).rack j = s.rack j ∧ (s.endServe f).hob j = s.hob j ∧ (s.endServe f).stack j = s.stack j ∧
    (s.endServe f).host j = s.host j := by
  simp only [State.cell, State.router, State.pos, State.rack, State.hob, State.stack, State.host, State.endServe_frame, and_self]

@[simp] theorem State.sendPacket_frame (s : State) (via : Nat) (f : Frame) :
    (s.sendPacket via f).st = s.st ∧ (s.sendPacket via f).now = s.now ∧ (s.sendPacket via f).boot = s.boot ∧
    (s.sendPacket via f).resets = s.resets ∧ (s.sendPacket via f).damper = s.damper ∧
    (s.sendPacket via f).sensors = s.sensors ∧ (s.sendPacket via f).pins = s.pins ∧ (s.sendPacket via f).avl = s.avl ∧
    (s.sendPacket via f).cfgs = s.cfgs ∧ (s.sendPacket via f).expel = s.expel ∧
    (s.sendPacket via f).perturbs = s.perturbs ∧ (s.sendPacket via f).cells = s.cells ∧
    (s.sendPacket via f).routers = s.routers ∧ (s.sendPacket via f).edgeIn = s.edgeIn ∧
    (s.sendPacket via f).rimIn = s.rimIn ∧ (s.sendPacket via f).health = s.health ∧
    (s.sendPacket via f).racks = s.racks ∧ (s.sendPacket via f).hobs = s.hobs ∧ (s.sendPacket via f).stk = s.stk ∧
    (s.sendPacket via f).lines = s.lines ∧ (s.sendPacket via f).errs = s.errs ∧ (s.sendPacket via f).rdrs = s.rdrs ∧
    (s.sendPacket via f).rdrs6 = s.rdrs6 ∧ (s.sendPacket via f).txns = s.txns ∧ (s.sendPacket via f).hosts = s.hosts ∧
    (s.sendPacket via f).hearth = s.hearth ∧ (s.sendPacket via f).fw = s.fw ∧ (s.sendPacket via f).pmbus = s.pmbus ∧
    (s.sendPacket via f).sessions = s.sessions ∧ (s.sendPacket via f).log = s.log ∧
    (s.sendPacket via f).logSeq = s.logSeq ∧ (s.sendPacket via f).logFail = s.logFail ∧
    (s.sendPacket via f).ashes = s.ashes ∧ (s.sendPacket via f).ashRun = s.ashRun ∧
    (s.sendPacket via f).ashSeq = s.ashSeq ∧ (s.sendPacket via f).places = s.places ∧
    (s.sendPacket via f).places6 = s.places6 ∧ (s.sendPacket via f).pantry = s.pantry ∧
    (s.sendPacket via f).broadcasts = s.broadcasts ∧ (s.sendPacket via f).bcastSeq = s.bcastSeq ∧
    (s.sendPacket via f).out = s.out ∧ (s.sendPacket via f).free = s.free := by
  unfold State.sendPacket
  repeat' split
  all_goals simp_all

@[simp] theorem State.sendPacket_parts (s : State) (via : Nat) (f : Frame) (j : Nat) :
    (s.sendPacket via f).cell j = s.cell j ∧ (s.sendPacket via f).router j = s.router j ∧
    (s.sendPacket via f).pos j = s.pos j ∧ (s.sendPacket via f).rack j = s.rack j ∧
    (s.sendPacket via f).hob j = s.hob j ∧ (s.sendPacket via f).stack j = s.stack j ∧
    (s.sendPacket via f).host j = s.host j := by
  simp only [State.cell, State.router, State.pos, State.rack, State.hob, State.stack, State.host, State.sendPacket_frame, and_self]

end Sys2Proof.Machine
end

