-- ==== Sys2Proof/Laws/Ring.lean ====
section
/-! SUPPORT. How a ring command and a privileged action run once their turn has come. -/

namespace Sys2Proof.Machine

open Sys2Proof

theorem findIdx?_weaken {α : Type} (p q : α → Bool) (l : List α) (i : Nat) (e : α) (hq : ∀ a, q a = true → p a = true)
    (h : l.findIdx? p = some i) (hi : l[i]? = some e) (he : q e = true) : l.findIdx? q = some i := by
  rw [List.findIdx?_eq_some_iff_getElem] at h ⊢
  obtain ⟨hl, hp, hlt⟩ := h
  refine ⟨hl, ?_, fun j hj hc => hlt j hj (hq _ hc)⟩
  rw [List.getElem?_eq_getElem hl] at hi
  injection hi with hi
  rw [hi]; exact he

/-- A command whose turn has come runs its body on the state in which its entry has started. -/
theorem State.command_of_turn (s : State) (ref : CmdRef) (hob op sub : Nat) (args : List Byte → Bool) (body : State → State) (e : Sqe)
    (h : s.turn ref hob op e = true) (hs : sub = 0xFFFF ∨ e.sub = sub) (ha : args e.args = true) :
    s.command ref hob op sub args body = body (s.started ref op) := by
  simp only [State.turn, Bool.and_eq_true] at h
  obtain ⟨⟨⟨⟨⟨hon, hauth⟩, hsv⟩, hrel⟩, hidle⟩, hany⟩ := h
  rw [Option.any_eq_true] at hany
  obtain ⟨i, hi, hm⟩ := hany
  simp only [Bool.and_eq_true, beq_iff_eq] at hm
  obtain ⟨hmay, hget⟩ := hm
  have hp := hi
  rw [List.findIdx?_eq_some_iff_getElem] at hp
  obtain ⟨hl, hpe, -⟩ := hp
  rw [List.getElem?_eq_getElem hl] at hget
  injection hget with hge
  rw [hge] at hpe
  have hfull := findIdx?_weaken _ (fun e => e.tag == ref.tag && !e.started && e.op == op && (sub == 0xFFFF || e.sub == sub) &&
      ref.noirq == bit 1 e.flags && args e.args) _ i e (by intro a hq; simp_all) hi (by rw [List.getElem?_eq_getElem hl, hge])
      (by simp_all)
  unfold State.command
  simp only [hfull]
  rw [if_neg (by simp_all; intro hb; simp_all)]
  have hrel' : (s.hob hob).releasing = none ∨ op = 9 := by simp_all
  have hs' : s.started ref op = s.modRing ref.port.val ref.fn.val ref.ring.val fun x =>
      { x with sqes := x.sqes.modify i fun d => { d with started := true } } := by
    simp only [State.started, hi]
  rw [hs', if_neg (by simp_all), if_neg (by rcases hrel' with hr | hr <;> simp_all [State.deviceAdmits])]

/-- What starting an entry leaves of the state. -/
@[simp] theorem State.started_frame (s : State) (ref : CmdRef) (op : Nat) :
    (s.started ref op).pending = s.pending ∧ (s.started ref op).st = s.st ∧ (s.started ref op).now = s.now ∧
    (s.started ref op).life = s.life ∧ (s.started ref op).boot = s.boot ∧ (s.started ref op).resets = s.resets ∧
    (s.started ref op).damper = s.damper ∧ (s.started ref op).sensors = s.sensors ∧ (s.started ref op).pins = s.pins ∧
    (s.started ref op).avl = s.avl ∧ (s.started ref op).cfgs = s.cfgs ∧ (s.started ref op).expel = s.expel ∧
    (s.started ref op).perturbs = s.perturbs ∧ (s.started ref op).cells = s.cells ∧
    (s.started ref op).routers = s.routers ∧ (s.started ref op).edgeIn = s.edgeIn ∧ (s.started ref op).rimIn = s.rimIn ∧
    (s.started ref op).health = s.health ∧ (s.started ref op).racks = s.racks ∧ (s.started ref op).hobs = s.hobs ∧
    (s.started ref op).stk = s.stk ∧ (s.started ref op).mem = s.mem ∧ (s.started ref op).lines = s.lines ∧
    (s.started ref op).errs = s.errs ∧ (s.started ref op).rdrs = s.rdrs ∧ (s.started ref op).rdrs6 = s.rdrs6 ∧
    (s.started ref op).txns = s.txns ∧ (s.started ref op).lnps = s.lnps ∧ (s.started ref op).hearth = s.hearth ∧
    (s.started ref op).fw = s.fw ∧ (s.started ref op).pmbus = s.pmbus ∧ (s.started ref op).sessions = s.sessions ∧
    (s.started ref op).log = s.log ∧ (s.started ref op).logSeq = s.logSeq ∧ (s.started ref op).logFail = s.logFail ∧
    (s.started ref op).ashes = s.ashes ∧ (s.started ref op).ashRun = s.ashRun ∧ (s.started ref op).ashSeq = s.ashSeq ∧
    (s.started ref op).places = s.places ∧ (s.started ref op).places6 = s.places6 ∧ (s.started ref op).pantry = s.pantry ∧
    (s.started ref op).broadcasts = s.broadcasts ∧ (s.started ref op).bcastSeq = s.bcastSeq ∧
    (s.started ref op).out = s.out ∧ (s.started ref op).free = s.free := by
  unfold State.started
  dsimp only
  split <;> and_intros <;> rfl

@[simp] theorem State.started_parts (s : State) (ref : CmdRef) (op : Nat) (j : Nat) :
    (s.started ref op).cell j = s.cell j ∧ (s.started ref op).router j = s.router j ∧
    (s.started ref op).pos j = s.pos j ∧ (s.started ref op).rack j = s.rack j ∧ (s.started ref op).hob j = s.hob j ∧
    (s.started ref op).stack j = s.stack j ∧ (s.started ref op).lnp j = s.lnp j := by
  simp only [State.cell, State.router, State.pos, State.rack, State.hob, State.stack, State.lnp, State.started_frame, and_self]

@[simp] theorem State.modRing_ring (s : State) (p f r : Nat) (g : Ring → Ring) : (s.modRing p f r g).ring p f r = g (s.ring p f r) := by
  simp [State.ring, State.modRing, State.modFn, State.modHost, State.setHost, State.host, HostPort.fnSt,
    HostPort.modFn, Fn.ring, Fn.modRing, Tab.get_put, Tab.get_upd]

/-- The ring once a command has started, given the place of its entry. -/
theorem State.started_ring (s : State) (ref : CmdRef) (op i : Nat)
    (h : ((s.ring ref.port.val ref.fn.val ref.ring.val).sqes.findIdx? fun d =>
      d.tag == ref.tag && !d.started && d.op == op && ref.noirq == bit 1 d.flags) = some i) :
    (s.started ref op).ring ref.port.val ref.fn.val ref.ring.val =
      { s.ring ref.port.val ref.fn.val ref.ring.val with
        sqes := (s.ring ref.port.val ref.fn.val ref.ring.val).sqes.modify i fun d => { d with started := true } } := by
  simp only [State.started, h, State.modRing_ring]

/-- The turn of a command, read off: its ring runs and holds an entry with its tag and opcode at the place found. -/
theorem State.turn_ring (s : State) (ref : CmdRef) (hob op : Nat) (e : Sqe) (h : s.turn ref hob op e = true) :
    (s.ring ref.port.val ref.fn.val ref.ring.val).on = true ∧ e.tag = ref.tag ∧ e.op = op ∧
      ∃ i, ((s.ring ref.port.val ref.fn.val ref.ring.val).sqes.findIdx? fun d =>
        d.tag == ref.tag && !d.started && d.op == op && ref.noirq == bit 1 d.flags) = some i ∧
        (s.ring ref.port.val ref.fn.val ref.ring.val).sqes[i]? = some e := by
  simp only [State.turn, Bool.and_eq_true] at h
  obtain ⟨⟨⟨⟨⟨hon, -⟩, -⟩, -⟩, -⟩, hany⟩ := h
  rw [Option.any_eq_true] at hany
  obtain ⟨i, hi, hm⟩ := hany
  simp only [Bool.and_eq_true, beq_iff_eq] at hm
  have hj := hi
  rw [List.findIdx?_eq_some_iff_getElem] at hi
  obtain ⟨hl, hpe, -⟩ := hi
  have hget := hm.2
  rw [List.getElem?_eq_getElem hl] at hget
  injection hget with hge
  rw [hge] at hpe
  exact ⟨hon, by simp_all, by simp_all, i, hj, hm.2⟩

@[simp] theorem Ring.settle_cqPi (x : Ring) : x.settle.cqPi = x.cqPi := by unfold Ring.settle; split <;> rfl
@[simp] theorem Ring.settle_sqes (x : Ring) : x.settle.sqes = x.sqes := by unfold Ring.settle; split <;> rfl

@[simp] theorem State.emit_ring (s : State) (o : Out) (p f r : Nat) : (s.emit o).ring p f r = s.ring p f r := rfl

/-- An interrupt message leaves every ring, and puts at most one message out. -/
theorem State.interruptMsg_ring (s : State) (p f v p' f' r : Nat) : (s.interruptMsg p f v).ring p' f' r = s.ring p' f' r := by
  unfold State.interruptMsg
  split
  · simp only [State.ring, State.modFn, State.modHost, State.setHost, State.host, HostPort.fnSt, HostPort.modFn, Fn.ring,
      Tab.get_put]
    by_cases h : p' = p
    · subst h; simp only [if_true, Tab.get_upd]; by_cases h2 : f' = f <;> simp [h2]
    · simp [h]
  · rfl

theorem State.interruptMsg_out (s : State) (p f v : Nat) : ∃ irq : List Out, irq.length ≤ 1 ∧ (s.interruptMsg p f v).out = irq ++ s.out := by
  unfold State.interruptMsg
  split
  · exact ⟨[], by simp, rfl⟩
  · exact ⟨[.msix p f v], by simp, rfl⟩

/-- A record counted toward the interrupt: at most one message, and of the ring only its interrupt counting changes. -/
theorem State.signal_ring (s : State) (p f r : Nat) :
    (∃ irq : List Out, irq.length ≤ 1 ∧ (s.signal p f r).out = irq ++ s.out) ∧
    ((s.signal p f r).ring p f r).cqPi = (s.ring p f r).cqPi ∧ ((s.signal p f r).ring p f r).sqes = (s.ring p f r).sqes := by
  unfold State.signal
  dsimp only
  generalize (if (s.ring p f r).count = 0 then 1 else (s.ring p f r).count.toNat) = lim
  split
  · refine ⟨?_, ?_, ?_⟩
    · obtain ⟨l, h1, h2⟩ := State.interruptMsg_out (s.modRing p f r fun y => { y with unsignalled := 0 }) p f (s.ring p f r).vec.toNat
      exact ⟨l, h1, by rw [h2]; rfl⟩
    · rw [State.interruptMsg_ring, State.modRing_ring]
    · rw [State.interruptMsg_ring, State.modRing_ring]
  · exact ⟨⟨[], by simp, rfl⟩, by rw [State.modRing_ring], by rw [State.modRing_ring]⟩

/-- A record of a ring: the record, at most one message, the next slot, and the entries as they were. -/
theorem State.record_ring (s : State) (p f r : Nat) (tag : W32) (status op detail info0 info1 : Nat) (noirq : Bool) :
    let x := s.ring p f r
    let t := s.record p f r tag status op detail info0 info1 noirq
    (∃ irq : List Out, irq.length ≤ 1 ∧ t.out = irq ++ .cqe p f r (x.cqPi.toNat % x.size) tag status op
      ((x.cqPi.toNat / x.size) % 2 == 0) (x.ci.toNat % 65536) (detail % 65536) (info0 % 2 ^ 32) (info1 % 2 ^ 64) (Config.ptmTime s.now) :: s.out) ∧
    (t.ring p f r).cqPi = x.cqPi + 1 ∧ (t.ring p f r).sqes = x.sqes := by
  intro x t
  simp only [t, State.record]
  cases noirq
  · simp only [Bool.false_eq_true, if_false]
    obtain ⟨⟨l, h1, h2⟩, h3, h4⟩ := State.signal_ring ((s.emit (.cqe p f r (x.cqPi.toNat % x.size) tag status op
      ((x.cqPi.toNat / x.size) % 2 == 0) (x.ci.toNat % 65536) (detail % 65536) (info0 % 2 ^ 32) (info1 % 2 ^ 64) (Config.ptmTime s.now))).modRing p f r fun y =>
        { y with cqPi := y.cqPi + 1 }) p f r
    refine ⟨⟨l, h1, h2⟩, ?_, ?_⟩
    · exact h3.trans (by rw [State.modRing_ring]; rfl)
    · exact h4.trans (by rw [State.modRing_ring]; rfl)
  · simp only [if_true]
    refine ⟨⟨[], by simp, rfl⟩, ?_, ?_⟩
    · rw [State.modRing_ring]; rfl
    · rw [State.modRing_ring]; rfl

theorem started_length (tag : W32) (op i : Nat) (e : Sqe) (l : List Sqe) (hi : l[i]? = some e) (htag : e.tag = tag) (hop : e.op = op) :
    ((l.modify i fun d => { d with started := true }).eraseP fun d => d.started && d.tag == tag && d.op == op).length + 1 = l.length := by
  obtain ⟨hl, he⟩ := List.getElem?_eq_some_iff.mp hi
  have hm : { e with started := true } ∈ l.modify i fun d => { d with started := true } := by
    rw [List.mem_iff_getElem]
    exact ⟨i, by simpa using hl, by simp [he]⟩
  have := List.length_eraseP_of_mem (p := fun d : Sqe => d.started && d.tag == tag && d.op == op) hm (by simp [htag, hop])
  rw [this, List.length_modify]
  omega

/-- The completion of a command whose turn had come answers it. -/
theorem State.complete_answers (s s1 : State) (ref : CmdRef) (hob op status detail info0 info1 : Nat) (e : Sqe)
    (h : s.turn ref hob op e = true)
    (hr : s1.ring ref.port.val ref.fn.val ref.ring.val = (s.started ref op).ring ref.port.val ref.fn.val ref.ring.val)
    (ho : s1.out = s.out) (hn : s1.now = s.now) :
    s.answers (s1.complete ref op status detail info0 info1) ref op status detail info0 info1 := by
  obtain ⟨hon, htag, hop, i, hi, hget⟩ := s.turn_ring ref hob op e h
  rw [s.started_ring ref op i hi] at hr
  have hlen := started_length ref.tag op i e _ hget htag hop
  obtain ⟨⟨l, h1, h2⟩, h3, h4⟩ := s1.record_ring ref.port.val ref.fn.val ref.ring.val ref.tag status op detail info0 info1 ref.noirq
  unfold State.complete
  simp only [hr, hon, Bool.not_true, Bool.false_eq_true, if_false]
  simp only [hr, ho, hn] at h2 h3 h4
  refine ⟨⟨l, h1, ?_⟩, ?_, ?_⟩
  · exact h2
  · rw [State.modRing_ring]
    exact (Ring.settle_cqPi _).trans h3
  · rw [State.modRing_ring, Ring.finish, Ring.settle_sqes]
    dsimp only
    rw [h4]
    exact hlen

/-- A completion changes host port state and the outputs only. -/
theorem State.complete_eq (s : State) (ref : CmdRef) (op status detail info0 info1 : Nat) :
    s.complete ref op status detail info0 info1 =
      { s with hosts := (s.complete ref op status detail info0 info1).hosts, out := (s.complete ref op status detail info0 info1).out } := by
  have h := s.complete_frame ref op status detail info0 info1
  have k := s.complete_keeps ref op status detail info0 info1
  revert h k
  generalize s.complete ref op status detail info0 info1 = t
  intro h k
  cases t
  simp_all

/-- The completion of a command whose turn had come, from the state in which it has started. -/
theorem State.started_complete_eq (s : State) (ref : CmdRef) (o op status detail info0 info1 : Nat) :
    (s.started ref o).complete ref op status detail info0 info1 =
      { s with hosts := ((s.started ref o).complete ref op status detail info0 info1).hosts,
               out := ((s.started ref o).complete ref op status detail info0 info1).out } := by
  rw [State.complete_eq]
  simp only [State.started_frame]

end Sys2Proof.Machine
end

