-- ==== Sys2Proof/WellFormed.lean ====
section
/-! DEFINITION. Which commands are well formed: operands that the table's rows cannot carry are ruled out here by name. -/

namespace Sys2Proof

open Sys2Proof.Machine

/-- Whether a list of numbered bytes is canonical and lies below `size` (R99). -/
def bytesBelow (bs : List (Nat × Byte)) (size : Nat) : Bool :=
  Tab.wf 0 bs && bs.all fun b => decide (b.1 < size)

/-- A submission entry is 64 B (R229). -/
def entryLen (entry : List Byte) : Bool := entry.length == 64

/-- A message descriptor is 64 B and its hob is one of eight (R169). -/
def msgOk (m : Msg) : Bool := m.desc.length == 64 && decide (m.hob < 8)

/-- A frame carries at most 40 flits (R247). -/
def frameOk (f : Frame) : Bool := decide (f.flits ≤ 40)

/-- Transactions are at most 4 KiB (R197). -/
def dataOk (data : List Byte) : Bool := decide (data.length ≤ 4096)

/-- A calendar store word is one of 4,096 and a scratchpad word one of 32,768 (R42, R138). -/
def upsetOk (u : Upset) : Bool := decide (u.word < if u.store then 4096 else 32768)

/-- The well-formed commands. -/
def Instr.wf : Instr → Bool
  | .sqeArrival _ _ _ entry _ => entryLen entry
  | .msgHeaderArrival _ m => msgOk m
  | .msgLandingDone _ _ data _ => dataOk data
  | .lnpDataFrame _ f _ _ _ => frameOk f
  | .lnpIdleFrame _ f _ _ => frameOk f
  | .lnpNakFrame _ f _ _ _ => frameOk f
  | .lnpSessionFrame _ f _ _ _ => frameOk f
  | .blockLanding _ data _ => dataOk data
  | .calWordIssue _ upsets => upsets.all upsetOk
  | .loadRecipe _ _ image => bytesBelow image.bytes image.size
  | _ => true

end Sys2Proof
end

