-- ==== Sys2Proof/Tests/Slice0.lean ====
section
/-! SUPPORT. Tests: states in which the hypotheses of the statements hold, ill-formed operands, and worked examples of the
spec. -/

set_option linter.unusedVariables false

namespace Sys2Proof.Tests

open Sys2Proof Sys2Proof.Machine

/-! ### States that the hypotheses of the statements are met in -/

namespace W

def off : State := {}

/-! Commands' senders. -/

def who : Who := { session := 1 }
def maker : Who := { session := 2 }

/-- An entry of 64 B with these bytes, by offset. -/
def entry (l : List (Nat × Byte)) : List Byte := (List.range 64).map fun i => Tab.get 0 l i

/-! ### One hob of 8 cells in service -/

def xw : Crossing := { id := 1, kind := 1, blocks := 1, issue := 32, bound := 100 }
def xc : Crossing := { id := 2, kind := 1, blocks := 1, issue := 34, bound := 100, computed := true }

def recipe : Recipe := { mclk := 1500, width := 8, height := 1, period := 1, crossings := [xw], fences := [{ periods := 2 }, { periods := 2 }] }

def hob : Hob :=
  { st := .running, cred := 3, shape := some { w := 8, h := 1 }, key := 1, ext := [(0, { valid := true })], pantryQ := 4, recipe := some recipe,
    grant := { valid := true, cells := 64, power := 50, pantry := 4, ext := [(0, 5)] },
    clk := { live := true }, run := { stepsLeft := 2 } }

def cell : Cell := { hob := some 0, writeBack := [5] }

def ring0 : Ring := { en := true, on := true, log2 := 6 }

def fn1 : Fn :=
  { authOk := true
    rings := [(0, ring0), (1, { log2 := 6 }), (2, { log2 := 6, dbAddr := 3 }), (3, { en := true, on := true, log2 := 6, fetching := 1, unsignalled := 1 })] }

def port (fns : Tab Fn) : HostPort := { linkUp := true, perst := false, ready := true, fns := fns }

def lnp : Lnp := { st := .upFull, en := true, session := true, width := 8, fibres := [(0, { good := 0x1FF, use := 0xFF }), (2, { good := 0x1FF, use := 0xFF })] }

def run : State :=
  { st := .service, now := 10000, boot := { stage := 7 }, damper := { mclk := 1500 }, pins := { pwrgd := true, vcore := [(0, 750), (1, 750), (2, 750), (3, 750)] },
    cells := [(0, cell)], routers := [(0, { applied := [(0, 1)] })], health := [(8, { state := .tasting })],
    hobs := [(0, hob), (1, { grant := { valid := true, power := 10 } })], stk := [(0, { pwr := .on })],
    hosts := [(0, port [(1, fn1), (3, { lockedUntil := 5 })])], lnps := [(0, lnp)], hearth := { owned := true, licences := [{ id := 7 }] },
    sessions := [(1, { state := 2 }), (2, { state := 2, role := .maker })], pantry := { up := true, weak := [4] } }

/-- The state with its hob, its cell 0, and a port changed. -/
def withHob (f : Hob → Hob) : State := { run with hobs := run.hobs.upd {} 0 f }
def withRcp (f : Recipe → Recipe) : State := withHob fun z => { z with recipe := some (f recipe) }
def withCell (f : Cell → Cell) : State := { run with cells := [(0, f cell)] }
def withLnp (x : Lnp) : State := { run with lnps := [(0, x)] }
def atTime (s : State) (t : Nat) : State := { s with now := t, life := t }

/-! ### Hob cycles, holds and crossings -/

def held : State := withHob fun z => { z with hold := { req := some (2, 1) } }
def frozen : State := withHob fun z => { z with hold := { frozen := true } }
def late : State := atTime (withHob fun z => { z with hold := { frozen := true, limitFrom := some 0, causes := [1] } }) 20000000
def simmer : State := withHob fun z => { z with simmer := { edge := 4096 } }
def issued : State := withCell fun c => { c with issued := 1 }
def page : State := { withHob (fun z => { z with clk := { z.clk with cyc := 256 } }) with routers := [(0, { pageReq := some (2, 200) })] }
def crc (i v : Nat) : State := { withCell (fun c => { c with crcDue := [(1, i, v)] }) with routers := [(0, { crcDue := [(1, 0, [])] })] }
def flit : State := { run with routers := [(0, { applied := [(0, 1)], slots := [(rtKey 1 0 0, 0xC000)], inputs := [{}] })] }
def addr : State := withRcp fun r => { r with crossings := [xc] }
def issue : State := withHob fun z => { z with clk := { z.clk with cyc := 32 } }
def withTxn (t : Txn) : State := { run with txns := [t] }
def tw : Txn := { id := 7, kind := .copy 0 }
def txn : State := withTxn tw
def tr : Txn := { id := 7, kind := .crossing 0 1 0, granted := true, served := true }
def landing : State := withTxn tr
def quietLand : State := { withRcp (fun r => { r with quiet := [[{ mask := 1 }]] }) with txns := [tr] }

/-! ### Fences -/

def atEnd (f : Hob → Hob) : State := withHob fun z => f { z with clk := { z.clk with cyc := 512 } }
def fence : State := atEnd id
def fence2 : State := atEnd fun z => { z with closing := [{ fence := 1 }] }
def seqHob (z : Hob) : Hob := { z with recipe := some { recipe with mode := 1 } }
def close : State := withHob fun z => { z with closing := [{ fence := 1 }] }
def peerHob (z : Hob) : Hob := { z with recipe := some { recipe with peers := [9] } }
def peer : State := withHob fun z => peerHob { z with closing := [{ fence := 1 }] }
def peer0 : State := withHob peerHob
def peerTries : State := withHob fun z => peerHob { z with replay := { tries := 3 } }
def tries : State := withHob fun z => { z with replay := { tries := 3 } }
def withStaged (w : Staged) : State := withHob fun z => { z with staged := [w] }
def staged : State := withStaged { fence := 0, xng := 3, block := 0, data := [7], bufLen := 4096 }
def beyond : State := withStaged { fence := 0, xng := 3, block := 9, data := [7] }
def uncommitted : State := withStaged { fence := 1 }
def ta : Txn := { id := 7, kind := .crossing 0 1 0, write := true, granted := true, served := true }
def acked : State := withTxn ta
def th : Txn := { id := 7, kind := .crossing 0 1 0, pool := .host }
def hostread : State := withTxn th
def hostreadC : State := { withHob (fun z => { z with closing := [{ fence := 1 }] }) with txns := [{ th with stamp := 1 }] }
def tf : Txn := { id := 7, kind := .forward 0, write := true, pool := .host }
def fwd : State := withTxn tf

/-! ### Positions -/

def withHealth (l : Tab Health) : State := { run with health := l }
def injected : State := withHealth [(0, { injected := [25] })]
def lidded : State := withHealth [(0, { state := .lidded })]
def receiving : State := { run with racks := [(0, { receiving := some 0 })] }
def allLidded (l : List Nat) : Tab Health := l.map fun p => (p, { state := .lidded })
def far : State := { withHob seqHob with health := allLidded [0, 8, 26, 35, 44, 53] }
def nofar : State := withHealth (allLidded [0, 8, 17, 26, 35])
def homeless : State := withHob fun z => { z with st := .held, homeless := [{ n := 0 }] }
def any : CondSet := { all := true }
def cond : State := withHealth [(0, { state := .conditional, cond := any }), (20, { state := .conditional, cond := any })]
def condFull : State := withHealth [(0, { state := .conditional, cond := any }), (8, { state := .lidded })]
def condWait : State := { cond with racks := [(0, { receiving := some 8 })] }
def scan : State := { run with racks := [(0, { startOk := true })] }
def day : State := atTime (withHealth [(20, { state := .lidded })]) 86400000000000
def parole : State := withHealth [(20, { state := .parole })]
def parole2 : State := atTime (withHealth [(20, { state := .parole, passes := 2 })]) 3600000000000
def rot : State := withHealth [(6910, { state := .active })]
def alerted : State := { run with racks := [(0, { alerted := true })] }
def between : State := withHob fun z => { z with clk := {} }
def tmt : State := { between with health := [(0, { tmt := { running := true } })] }
def tmtSpent : State :=
  { between with health := [(0, { state := .active, rowMap := (List.range 8).map fun i => (i, i + 1), tmt := { running := true } })] }
def tmtTwice : State := { between with health := [(0, { state := .active, tmt := { running := true, badRows := [5] } })] }
def tmtHeld : State :=
  { withHob (fun z => { z with hold := { events := 1 } }) with health := [(0, { tmt := { running := true } })] }

/-! ### The taster and PERTURB -/

def withTaste (t : Taste) : State := withCell fun c => { c with taste := t }
def sample : State := withTaste { held := some {} }
def sampleNone : State := { withTaste { held := some {} } with health := [(8, { state := .tasting }), (17, { state := .lidded })] }
def sampleBusy : State :=
  { withTaste { held := some {} } with health := [], cells := [(0, { cell with taste := { held := some {} } }), (1, { taste := { checker := some 8 } })] }
def shipped : State := withTaste { held := some {}, checker := some 17 }
def late2 : State := atTime (withTaste { held := some {} }) 1800000
def withPerturb (x : Perturb) : State := { run with perturbs := [(0, x)] }
def forced : State := withPerturb { valid := true, kind := 4 }
def inject : State := withPerturb { valid := true, kind := 5, param := 0x103 }
def injectU : State := inject.modCell 0 fun c => c.upset { word := 5 }

/-! ### Sequencers and messages -/

def seqCell (c : Cell) : Cell :=
  { c with
    seqWords := [0, 0x10000000000000000000000000000000, 0x20000000000000000000000000000000, 0x30000000000000000000000000000000]
    slots := (List.range 4).map fun i => (i, { seqStart := i, seqCount := 1, seq := { pc := BitVec.ofNat 13 i } }) }
def timer : State :=
  { withHob (fun z => seqHob { z with clk := { z.clk with unheld := [(1500, 30000000)] } }) with cells := [(0, seqCell cell)] }
def overTime : State :=
  { withHob (fun z => seqHob { z with clk := { z.clk with unheld := [(1500, 30000001)] } }) with
    cells := [(0, cell)] }
def withSeq (f : Cell → Cell) : State := { withHob seqHob with cells := [(0, f (seqCell cell))] }
def seq : State := withSeq id
def actIn : Nat := 2 ^ 120
def seqBlocked : State := withSeq fun c => { c with seqWords := [BitVec.ofNat 128 actIn] }
def sendFull : Send := { tag := 9, waiting := true }
def retry : State := withSeq fun c => { c with sends := [sendFull] }
def rimSent : Send := { tag := 9, wait := true, waiting := true }
def rimSend : State := atTime (withHob fun z => { z with mcast := [rimSent] }) 100000
def casted : Send := { tag := 9, targets := [{ cell := 3, fullAt := some 0 }] }
def cast : State := withHob fun z => { z with mcast := [casted] }
def note : Msg := { desc := entry [(0, 1)] }
def send : Msg := { desc := entry [(0xC, 64), (0x17, 0x40)] }
def win : State := withSeq fun c =>
  { c with slots := [(0, { regions := [(0, { valid := true, landing := true, entry := 0, count := 3 })] })], wins := [(0, { state := 1 })] }
def landed : State := withCell fun c => { c with landings := [{ id := 4 }] }
def landedLate : State := atTime landed 32000
def closing : State := atTime (withCell fun c => { c with wins := [(0, { state := 2 })] }) 40000
def releasing : State :=
  { atTime (withHob fun z => { z with releasing := some none }) 40000 with
    cells := [(0, { cell with wins := [(0, { state := 2, ending := true })] })] }
def bc : Broadcast := { id := 1, targets := [5, 6] }
def bc1 : Broadcast := { id := 1, targets := [5] }
def bcOld : Broadcast := { id := 1, targets := [0] }
def bcast : State := { run with broadcasts := [bc] }
def bcast1 : State := { run with broadcasts := [bc1] }
def bcastLate : State := atTime bcast 20000
def bcastOld : State := atTime { run with broadcasts := [bcOld] } 100000000

/-! ### Stacks -/

def readTxn : Txn := { granted := true }
def read : State := withTxn readTxn
def readC : State := { withHob (fun z => { z with closing := [{ fence := 1 }] }) with txns := [{ readTxn with kind := .crossing 0 9 0 }] }
def zeroReset : State := { withHob (fun z => { z with zeroing := [5] }) with stk := [(0, { resetting := true })] }
def writeTxn : Txn := { write := true, granted := true, data := zeroBytes 4096 }
def write : State := withTxn writeTxn
def stack : State := { run with stk := [(0, { pwr := .on, rowDue := [(5, 1)], pcDue := [2], pcCopy := [7] })] }
def stack2 : State := { run with stk := [(0, { pwr := .on, pcDue := [2], sparePc := 2 })] }
def jarRun : JarRun := { fence := 0 }
def withJar (f : Hob → Hob) : State := withHob fun z => f { z with jarRun := some jarRun }
def arm : State := withJar id
def drain : State := withJar fun z => { z with cow := { draining := true } }
def sealing : State := withJar fun z => { z with cow := { draining := true, drained := List.range 4096 } }

/-! ### Ring commands -/

def ref : CmdRef := { fn := 1 }
def ask (st : HobState) (e : Sqe) : State :=
  { withHob (fun z => { z with st := st }) with hosts := [(0, port [(1, { fn1 with rings := [(0, { ring0 with sqes := [e] })] })])] }
def sqe (op sub : Nat) (l : List (Nat × Byte)) : Sqe := { op := op, sub := sub, args := entry l }
def lockedFn : State := { run with hosts := [(0, port [(1, { fn1 with lockedUntil := 20000 })])] }
def runEntry (n : Nat) : Sqe := sqe 2 0 [(8, BitVec.ofNat 8 n)]
def fenceEntry : List Byte := entry [(0, 3)]
def fenceEntrySqe (sub f : Nat) : Sqe := sqe 3 sub [(8, BitVec.ofNat 8 f)]
def askBetween : State :=
  { ask .running (runEntry 3) with
    hobs := (ask .running (runEntry 3)).hobs.upd {} 0 fun z => { z with clk := { z.clk with live := false }, closing := [{ fence := 1 }] } }
def loadEntry : Sqe := sqe 1 0 []
def copyEntry (len : Nat) : Sqe := sqe 4 0 [(0x18, BitVec.ofNat 8 len), (0x28, 1)]
def openEntry : Sqe := sqe 5 0 []
def closeEntry : Sqe := sqe 6 0 []
def jarEntry : Sqe := sqe 7 0 []
def restoreEntry : Sqe := sqe 8 0 []
def queryEntry (sub : Nat) (seq : Nat := 0) : Sqe := sqe 9 sub [(0x10, 64), (0x18, BitVec.ofNat 8 seq)]
def shapeEntry : Sqe := sqe 10 0 [(0xA, 8), (0xB, 1)]
def memoryEntry : Sqe := sqe 10 1 [(0xC, 2)]
def configEntry (sub v : Nat) : Sqe := sqe 10 sub [(8, BitVec.ofNat 8 v)]
def releaseEntry : Sqe := sqe 11 0 []
def askHob (e : Sqe) (f : Hob → Hob) : State :=
  { ask .stopped e with hobs := (ask .stopped e).hobs.upd {} 0 f }
def askWin (st : BitVec 2) (e : Sqe) : State :=
  { askHob e seqHob with
    cells := [(0, { cell with slots := [(0, { regions := [(0, { valid := true, landing := true })] })], wins := [(0, { state := st })] })] }
def report : Report := { seq := 5, bytes := [1, 2] }
def askReport : State := askHob (queryEntry 6 5) fun z => { z with reports := [report] }
def askWorn : State := { ask .stopped jarEntry with pantry := { up := true, level := 3 } }
def member : State := { withHob (fun z => { z with st := .stopped, recipe := some { recipe with peers := [2] } }) with hearth := { devId := 9, devIdLive := 9 } }
def jarDue : State :=
  atTime (withHob fun z => { z with st := .stopped, recipe := some { recipe with fences := [{ periods := 2, jarPoint := true }] } }) 3600000000000
def loading : State := { ask .loading loadEntry with hobs := (ask .loading loadEntry).hobs.upd {} 0 fun z => { z with loading := some ref } }
def copyOne : Copy := { ref := ref, len := 64, srcKind := 1, running := true }
def copyTwo : Copy := { ref := ref, dstKind := 1, running := true }
def copyIn : State := askHob (copyEntry 0) fun z => { z with copies := [copyTwo] }
def copying : State := askHob (copyEntry 64) fun z => { z with copies := [copyOne] }
def restore : Restore := { ref := ref }
def restoring : State := askHob restoreEntry fun z => { z with restore := some restore }
def restoringPeer : State := askHob restoreEntry fun z => { z with restore := some { restore with remote := true, jar := { bytes := 4096 } } }
def servedFull : State := withLnp { lnp with served := List.replicate 384 (1, 9, 10000) }
def peerJar : State :=
  { withHob (fun z => { z with jarAcl := 0x8009, jars := [(0, { sealed := true, bytes := 4096 })] }) with hearth := { licences := [{ peer := true }], routes := [(8, some 0), (9, some 0)] } }

/-! ### Lanper ports -/

def frame (k : Nat) : Frame := { kind := BitVec.ofNat 3 k, flits := 1 }
def idle : State := withHob fun z => { z with st := .stopped }
def part : Frame := { kind := 2, flits := 1, body := [1] }
def jarAnswer : Txn := { pool := .lanper, granted := true }
def packet : Frame := { kind := 1, flits := 2 }
def sendq : State := withLnp { lnp with txQueue := [packet], credits := [(1, 8)] }
def epoch : State := withLnp { lnp with txEpoch := 65535 }
def training : State := withLnp { en := true, st := .training }
def trained : TrainResult := { lanes := [0x1FF, 0x1FF, 0x1FF, 0x1FF], peerDev := 5 }
def trainLate : State := atTime training 10000000000
def retraining : State :=
  withLnp { en := true, st := .training, retraining := true, width := 8, fibres := (List.range 4).map fun i => (i, { good := 0x1FF }) }
def silent : State := atTime run 20000
def downPort : State := atTime (withLnp { en := true, st := .down }) 1000000000
def relighting : State := withLnp { en := true, st := .training, relighting := true }
def parked : State := withLnp { en := true, parked := true }
def whoIdle : State := { idle with lnps := [(0, lnp), (1, { parked := true })] }
def rtmoSend : Txn := { kind := .crossing 0 1 0, write := true, pool := .lanper, granted := true }
def rtmoJar : Txn := { id := 1, pool := .lanper, granted := true }
def rtmoLast : Txn := { id := 2, pool := .lanper, granted := true, tries := 3 }
def rtmo : State := { atTime restoring 2000000 with txns := [rtmoSend, rtmoJar, rtmoLast], hearth := { routes := [(0, some 0)] } }
def lit : State := withHob fun z => { z with grant := { z.grant with lnp := 1 } }
def pending : State := { run with hosts := [(0, port [(1, { fn1 with pba := 1 })])] }

/-! ### Resets, ash, power and bring-up -/

def away : State := { run with resets := { hearthDown := true } }
def resetting : State :=
  { run with
    stk := [(0, { pwr := .selfRefresh, resetting := true })],
    resets := { running := [(0, 0, 0), (1, 0, 0), (2, 0, 0), (3, 0, 0), (4, 0, 0), (5, 0, 0), (6, 0, 0)] } }
def resetLate : State := atTime resetting 10000000
def counted : State := { run with resets := { counted := [0, 0] } }
def ashRun : AshRun := {}
def withAsh (a : AshRun) : State := { run with ashRun := some a }
def ash : State := withAsh ashRun
def ashWarm : State := withAsh { waiting := [(7, 0, 10)] }
def ashCold : State := withAsh { waiting := [(8, 0, 10)] }
def ashEmber : State := withAsh { waiting := [(14, 0, 0)] }
def hearthBack : State := { run with resets := { hearthDown := true, running := [(9, 0, 0)] } }
def whoEmber : State := { run with st := .ember }
def oneAsh : Ash := { seq := 1 }
def whoAsh : State := { run with ashes := [oneAsh] }
def stage (n : Nat) : State :=
  { run with st := if n = 1 then .off else .bringup, boot := { stage := BitVec.ofNat 3 n }, resets := { running := [(8, 0, 0)] }, hobs := [] }
def hot : State :=
  { atTime run 100000000 with damper := { mclk := 1500, tjmax := 430, hotSince := some 0 }, sensors := { rack := [(0, 430)] } }
def capped : State := { run with damper := { mclk := 1500, cap := true } }
def tripped : State := { run with st := .hearthUp, resets := { tripped := true } }

/-! ### The hearth -/

def idleDue : State := atTime { run with hobs := [] } 60000000000
def windowDue : State := { run with avl := { pending := some (0, 60) } }
def windowOver : State := { run with avl := { windowUntil := some 0 } }
def yearDue : State := { run with avl := { started := true, poweredNs := 31536000000000000 } }
def unowned : State := { run with hearth := {} }
def token : State := { run with hobs := [], hearth := { owned := true, tokens := [(6, 5000, 0xFFFF)] } }
def spent : State := { run with hearth := { owned := true, tokensUsed := [8] } }
def fw (x : Fw) : State := { run with fw := x }
def agreed : State := { run with hearth := { owned := true, spdmAlgs := true } }
def agreed1 : State := { agreed with sessions := [(9, { state := 1 })] }
def ide (k : Nat) : State :=
  { run with
    sessions := [(9, { state := 2, pf := some 0 })],
    hosts := [(0, { port [] with ideKeys := [(1, k)] })] }
def onPage (n : Nat) : State := { run with pmbus := { page := n } }
def fullCell : Cell := { slots := [(0, { regions := [(0, { valid := true, twrap := true })] })] }

end W

/-! ### Each statement with hypotheses has a state and operands that meet them -/

/-- IdleStepIsOneNanosecond. -/
theorem test_hyp_IdleStepIsOneNanosecond :
    ∃ (s : State),
      s.pending = [] :=
  ⟨W.off, by decide⟩

/-- MemoryStaysCanonical. -/
theorem test_hyp_MemoryStaysCanonical :
    ∃ (s t : State),
      Memory.wf s.mem = true ∧
      step s = .next t :=
  ⟨{ W.write with pending := [.stackWriteRequest 0 true] }, _, rfl, rfl⟩

/-- HobCycleAdvanceCounts. -/
theorem test_hyp_HobCycleAdvanceCounts :
    ∃ (hob : HobId) (s : State),
      (s.hob hob.val).runs = true ∧
      (s.hob hob.val).clk.live = true ∧
      (s.hob hob.val).seqMode = false :=
  ⟨0, W.run, by decide⟩

/-- Clauses 1, 2, 3, 4, 5, 6 of HoldsFreezeAndResume. -/
theorem test_hyp_HoldsFreezeAndResume :
    (∃ (hob : HobId) (xng : BitVec 16) (s : State) (x : Crossing) (w : Wait),
       (s.hob hob.val).executing = true ∧
       (s.hob hob.val).seqMode = false ∧
       (s.hob hob.val).rcp.crossing xng.toNat = some x ∧
       s.checkFails hob.val x = some w) ∧
    (∃ (hob : HobId) (s : State) (c x : Nat),
       (s.hob hob.val).runs = true ∧
       (s.hob hob.val).clk.live = true ∧
       (s.hob hob.val).hold.frozen = false ∧
       (s.hob hob.val).hold.req = some (c, x)) ∧
    (∃ (hob : HobId) (s : State),
       (s.hob hob.val).hold.frozen = true ∧
       (s.hob hob.val).hold.causes = []) ∧
    (∃ (hob : HobId) (s : State) (f : Nat),
       (s.hob hob.val).runs = true ∧
       (s.hob hob.val).hold.frozen = true ∧
       (s.hob hob.val).hold.limitFrom = some f ∧
       f + (s.hob hob.val).rcp.holdLimitNs < s.now) ∧
    (∃ (hob : HobId) (s : State),
       (s.hob hob.val).runs = true ∧
       4096 ≤ (s.hob hob.val).simmer.edge) ∧
    (∃ (hob : HobId) (watts : Nat) (s : State),
       (s.hob hob.val).st ≠ .free) :=
  ⟨⟨0, 1, W.run, W.xw, { xng := 1, cause := 2 }, by decide⟩,
    ⟨0, W.held, 2, 1, by decide⟩,
    ⟨0, W.frozen, by decide⟩,
    ⟨0, W.late, 0, by decide⟩,
    ⟨0, W.simmer, by decide⟩,
    ⟨0, 300, W.run, by decide⟩⟩

/-- Clauses 1, 2, 3, 4, 5, 6 of CellsIssueAndRepair. -/
theorem test_hyp_CellsIssueAndRepair :
    (∃ (cell : Pos) (ups : List Upset) (s : State) (h : Nat),
       (s.cell cell.idx).hob = some h ∧
       (s.hob h).executing = true ∧
       (s.hob h).seqMode = false ∧
       (s.hob h).atFence = false ∧
       (s.cell cell.idx).issued ≠ (s.hob h).clk.cyc + 1) ∧
    (∃ (cell : Pos) (ups : List Upset) (s : State) (h : Nat),
       (s.cell cell.idx).hob = some h ∧
       (s.cell cell.idx).issued = (s.hob h).clk.cyc + 1) ∧
    (∃ (cell : Pos) (bank : Fin 2) (row : Fin 32) (s : State),
       (s.cell cell.idx).hob.isSome = true) ∧
    (∃ (cell : Pos) (s : State) (w : Nat) (rest : List Nat),
       (s.cell cell.idx).writeBack = w :: rest) ∧
    (∃ (cell : Pos) (s : State),
       (s.pos cell.idx).state = .tasting) ∧
    (∃ (cell : Pos) (s : State),
       (s.pos cell.idx).state ≠ .tasting) :=
  ⟨⟨{}, [], W.run, 0, by decide⟩,
    ⟨{}, [], W.issued, 0, by decide⟩,
    ⟨{}, 0, 3, W.run, by decide⟩,
    ⟨{}, W.run, 5, [], by decide⟩,
    ⟨{ px := 8 }, W.run, by decide⟩,
    ⟨{}, W.run, by decide⟩⟩

/-- Clauses 1, 2, 3, 4, 6, 7 of CellsRepairThemselves. -/
theorem test_hyp_CellsRepairThemselves :
    (∃ (cell : Pos) (ups : List Upset) (s : State) (h : Nat),
       (s.cell cell.idx).hob = some h ∧
       (s.hob h).executing = true ∧
       (s.hob h).seqMode = false ∧
       (s.hob h).atFence = false ∧
       (s.cell cell.idx).issued ≠ (s.hob h).clk.cyc + 1) ∧
    (∃ (cell : Pos) (ups : List Upset) (s : State),
       (∀ h, (s.cell cell.idx).hob = some h → (s.hob h).executing = false ∨ (s.hob h).seqMode = true ∨ (s.hob h).atFence = true ∨ (s.cell cell.idx).issued = (s.hob h).clk.cyc + 1)) ∧
    (∃ (cell : Pos) (bank : Fin 2) (row : Fin 32) (s : State) (h : Nat),
       (s.cell cell.idx).hob = some h ∧
       (s.hob h).clk.live = true ∧
       cell.idx ∈ (s.nums h).map (s.posOf h)) ∧
    (∃ (cell : Pos) (bank : Fin 2) (row : Fin 32) (s : State),
       (s.cell cell.idx).hob = none) ∧
    (∃ (cell : Pos) (s : State) (r n : Nat),
       (s.pos cell.idx).state = .tasting ∧
       (s.pos cell.idx).remapDue = [r] ∧
       (s.pos cell.idx).nextSpare (r / 64) = some n) ∧
    (∃ (cell : Pos) (s : State),
       ((s.pos cell.idx).state ≠ .tasting ∨ ∀ r ∈ (s.pos cell.idx).remapDue, (s.pos cell.idx).nextSpare (r / 64) = none)) :=
  ⟨⟨{}, [], W.run, 0, by decide⟩,
    ⟨{}, [], State.reset, fun h e => nomatch e⟩,
    ⟨{}, 0, 3, W.run, 0, by decide⟩,
    ⟨{}, 0, 3, State.reset, by decide⟩,
    ⟨{ px := 8 }, W.run.modPos (Pos.idx { px := 8 }) (fun x => { x with state := .tasting, remapDue := [70] }), 70, 1, by decide⟩,
    ⟨{}, W.run, by decide⟩⟩

/-- Clauses 1, 2, 3, 4, 5, 6 of RouterOutputs. -/
theorem test_hyp_RouterOutputs :
    (∃ (cell : Pos) (out : Dir) (fl : List Nat) (s : State) (h n : Nat),
       s.routerAt cell.idx = some (h, n) ∧
       (s.hob h).executing = true ∧
       (s.hob h).seqMode = false ∧
       (s.hob h).atFence = false ∧
       s.islandRuns cell.idx = true ∧
       (s.router cell.idx).applied.get 0 out.code ≠ (s.hob h).clk.cyc + 1) ∧
    (∃ (cell : Pos) (out : Dir) (s : State) (h n e : Nat) (f : FlitAt),
       s.routerAt cell.idx = some (h, n) ∧
       (s.hob h).executing = true ∧
       (s.hob h).seqMode = false ∧
       (s.hob h).atFence = false ∧
       s.islandRuns cell.idx = true ∧
       (s.router cell.idx).applied.get 0 out.code ≠ (s.hob h).clk.cyc + 1 ∧
       e = ((s.router cell.idx).slots.get 0 (rtKey out.code (s.router cell.idx).page ((s.hob h).clk.cyc % 256))).toNat ∧
       rtOwn e = true ∧
       ((s.router cell.idx).inputs.find? fun g => g.cyc == (s.hob h).clk.cyc && g.inp == (Dir.all.find? fun d => d.code == rtSrc e).getD .loc) = some f) ∧
    (∃ (cell : Pos) (out : Dir) (fl : List Nat) (s : State) (h n : Nat),
       s.routerAt cell.idx = some (h, n) ∧
       (s.hob h).executing = true ∧
       (s.hob h).seqMode = false ∧
       (s.hob h).atFence = false ∧
       (s.router cell.idx).applied.get 0 out.code = (s.hob h).clk.cyc + 1) ∧
    (∃ (cell : Pos) (s : State) (h n g c : Nat),
       s.routerAt cell.idx = some (h, n) ∧
       (s.router cell.idx).pageReq = some (g, c) ∧
       (s.hob h).executing = true ∧
       (s.hob h).clk.cyc % 256 = 0 ∧
       c < (s.hob h).clk.cyc) ∧
    (∃ (cell : Pos) (s : State) (h : Nat) (f1 i f2 j v : Nat) (vs : List Nat) (r1 : List (Nat × Nat × Nat)) (r2 : List (Nat × Nat × List Nat)),
       (s.cell cell.idx).hob = some h ∧
       (s.cell cell.idx).crcDue = (f1, i, v) :: r1 ∧
       (s.router (s.routerPos h (s.cell cell.idx).n)).crcDue = (f2, j, vs) :: r2 ∧
       crcOut v = (s.hob h).rcp.expected (s.hob h).rect.cells i (s.cell cell.idx).n 0 ∧
       (∀ w ∈ vs.zipIdx, crcOut w.1 = (s.hob h).rcp.expected (s.hob h).rect.cells i (s.cell cell.idx).n (w.2 + 1))) ∧
    (∃ (cell : Pos) (s : State) (h : Nat) (f1 i f2 j v : Nat) (vs : List Nat) (r1 : List (Nat × Nat × Nat)) (r2 : List (Nat × Nat × List Nat)),
       (s.cell cell.idx).hob = some h ∧
       (s.cell cell.idx).crcDue = (f1, i, v) :: r1 ∧
       (s.router (s.routerPos h (s.cell cell.idx).n)).crcDue = (f2, j, vs) :: r2 ∧
       crcOut v ≠ (s.hob h).rcp.expected (s.hob h).rect.cells i (s.cell cell.idx).n 0 ∧
       ((s.hob h).closing.any fun c => c.fence == f1) = false) :=
  ⟨⟨{}, .loc, [], W.run, 0, 0, by decide⟩,
    ⟨{}, .east, W.flit, 0, 0, 0xC000, {}, by decide⟩,
    ⟨{}, .north, [], W.run, 0, 0, by decide⟩,
    ⟨{}, W.page, 0, 0, 2, 200, by decide⟩,
    ⟨{}, W.crc 0 0xFFFFFFFF, 0, 1, 0, 1, 0, 0xFFFFFFFF, [], [], [], by decide⟩,
    ⟨{}, W.crc 1 0, 0, 1, 1, 1, 0, 0, [], [], [], by decide⟩⟩

/-- Clauses 1, 2, 3, 4, 5, 6 of CrossingsReadIssueAndTakeCredit. -/
theorem test_hyp_CrossingsReadIssueAndTakeCredit :
    (∃ (hob : HobId) (xng : BitVec 16) (s : State) (x : Crossing),
       (s.hob hob.val).rcp.crossing xng.toNat = some x ∧
       x.computed = true ∧
       (s.hob hob.val).runs = true ∧
       (s.hob hob.val).clk.live = true ∧
       (s.hob hob.val).seqMode = false ∧
       (s.hob hob.val).rcp.periodLen ≠ 0 ∧
       ((s.hob hob.val).inPeriod + 34) % (s.hob hob.val).rcp.periodLen = x.issue % (s.hob hob.val).rcp.periodLen) ∧
    (∃ (hob : HobId) (xng : BitVec 16) (s : State) (x : Crossing),
       (s.hob hob.val).rcp.crossing xng.toNat = some x ∧
       (s.hob hob.val).executing = true ∧
       (s.hob hob.val).seqMode = false ∧
       (s.hob hob.val).atFence = false ∧
       x.kind ≠ 3 ∧
       (s.hob hob.val).inPeriod = x.issue ∧
       ((s.hob hob.val).xng.get {} x.id).issued ≠ (s.hob hob.val).clk.cyc + 1) ∧
    (∃ (hob : HobId) (xng : BitVec 16) (s : State) (x : Crossing),
       (s.hob hob.val).rcp.crossing xng.toNat = some x ∧
       x.lands = false ∧
       s.poolFree ((s.hob hob.val).egressTxn hob.val x) = true ∧
       s.clientUp (s.hob hob.val) x = true ∧
       roomForBlock (s.outQueued ((s.hob hob.val).stopOf x)) = true ∧
       s.throttled hob.val x = false) ∧
    (∃ (txn : Nat) (s : State) (x : Txn),
       s.txn txn = some x ∧
       x.granted = false ∧
       s.poolFree { x with pool := s.poolNow x } = true) ∧
    (∃ (txn : Nat) (data : List Byte) (ok : Bool) (s : State) (x : Txn) (h k r : Nat),
       s.txn txn = some x ∧
       x.kind = .crossing h k r ∧
       x.write = false ∧
       x.granted = true ∧
       x.served = true ∧
       x.breach = false ∧
       x.crcBad = false ∧
       x.pool ≠ .host ∧
       s.txnDelayed x 2 = false ∧
       (((s.hob h).quietBanks x.cell).any ((s.cell (s.posOf h x.cell)).entryBanks x.slot x.region x.entry).contains) = false) ∧
    (∃ (txn : Nat) (data : List Byte) (ok : Bool) (s : State) (x : Txn) (h k r : Nat),
       s.txn txn = some x ∧
       x.kind = .crossing h k r ∧
       (((s.hob h).quietBanks x.cell).any ((s.cell (s.posOf h x.cell)).entryBanks x.slot x.region x.entry).contains) = true) :=
  ⟨⟨0, 2, W.addr, W.xc, by decide⟩,
    ⟨0, 1, W.issue, W.xw, by decide⟩,
    ⟨0, 1, W.run, W.xw, by decide, by decide, by decide, by decide, by have e : W.run.outQueued ((W.run.hob (0 : HobId).val).stopOf W.xw) = 0 := (by decide); rw [e]; unfold roomForBlock queueEntries; simp, by decide⟩,
    ⟨7, W.txn, W.tw, by decide⟩,
    ⟨7, [], true, W.landing, W.tr, 0, 1, 0, by decide⟩,
    ⟨7, [], true, W.quietLand, W.tr, 0, 1, 0, by decide⟩⟩

/-- Clauses 1, 2, 3, 4 of StepsReachTheirFences. -/
theorem test_hyp_StepsReachTheirFences :
    (∃ (hob : HobId) (s : State) (n : Nat),
       (s.hob hob.val).executing = true ∧
       (s.hob hob.val).seqMode = false ∧
       (s.hob hob.val).atFence = true ∧
       s.fenceBreach hob.val = none ∧
       (s.hob hob.val).closing = [] ∧
       (s.hob hob.val).run.stepsLeft = n + 1 ∧
       (s.hob hob.val).run.stopAt = none) ∧
    (∃ (hob : HobId) (s : State) (n : Nat) (c : Closing),
       (s.hob hob.val).executing = true ∧
       (s.hob hob.val).seqMode = false ∧
       (s.hob hob.val).atFence = true ∧
       s.fenceBreach hob.val = none ∧
       (s.hob hob.val).closing = [c] ∧
       c.failed = none ∧
       (s.hob hob.val).run.stepsLeft = n + 1 ∧
       (s.hob hob.val).run.stopAt = none) ∧
    (∃ (hob : HobId) (s : State),
       (s.hob hob.val).runs = true ∧
       (s.hob hob.val).clk.live = true ∧
       (s.hob hob.val).seqMode = true ∧
       atStepLimit (s.hob hob.val).clk.unheld = true ∧
       (s.nums hob.val).all (fun n => (s.cell (s.posOf hob.val n)).allHalted) = false ∧
       (s.hob hob.val).closing = []) ∧
    (∃ (hob : HobId) (s : State),
       (s.hob hob.val).executing = true ∧
       (s.hob hob.val).seqMode = true ∧
       overStepLimit (s.hob hob.val).clk.unheld = true ∧
       (s.nums hob.val).all (fun n => (s.cell (s.posOf hob.val n)).allHalted) = true ∧
       (s.hob hob.val).closing = []) :=
  ⟨⟨0, W.fence, 1, by decide⟩,
    ⟨0, W.fence2, 1, { fence := 1 }, by decide⟩,
    ⟨0, W.timer, by decide⟩,
    ⟨0, W.overTime, by decide⟩⟩

/-- Clauses 1, 2, 3, 4 of FencesCloseAndCommit. -/
theorem test_hyp_FencesCloseAndCommit :
    (∃ (hob : HobId) (s : State) (c : Closing),
       (s.hob hob.val).runs = true ∧
       (s.hob hob.val).clk.live = true ∧
       (s.hob hob.val).closing = [c] ∧
       c.localClosed = false ∧
       c.fault = false ∧
       c.failed = none ∧
       s.faulted hob.val = false ∧
       s.fenceOpen hob.val c.fence = false ∧
       (s.hob hob.val).peersClosed c.fence = true) ∧
    (∃ (hob : HobId) (s : State) (c : Closing),
       (s.hob hob.val).runs = true ∧
       (s.hob hob.val).closing = [c] ∧
       c.localClosed = false ∧
       c.fault = false ∧
       c.failed = none ∧
       s.fenceOpen hob.val c.fence = false ∧
       (s.hob hob.val).peersClosed c.fence = false) ∧
    (∃ (hob : HobId) (peer : BitVec 13) (f : Nat) (s : State),
       peer.toNat ∈ (s.hob hob.val).rcp.peers ∧
       (s.hob hob.val).fenceLast < f ∧
       (f, peer.toNat) ∉ (s.hob hob.val).peerClosed ∧
       (s.hob hob.val).closing = []) ∧
    (∃ (hob : HobId) (peer : BitVec 13) (f : Nat) (s : State),
       peer.toNat ∉ (s.hob hob.val).rcp.peers) :=
  ⟨⟨0, W.close, { fence := 1 }, by decide⟩,
    ⟨0, W.peer, { fence := 1 }, by decide⟩,
    ⟨0, 9, 3, W.peer0, by decide⟩,
    ⟨0, 9, 3, W.run, by decide⟩⟩

/-- Clauses 1, 2, 3, 4 of FaultsReplayTheStep. -/
theorem test_hyp_FaultsReplayTheStep :
    (∃ (hob : HobId) (peer : BitVec 13) (f : Nat) (s : State),
       peer.toNat ∈ (s.hob hob.val).rcp.peers ∧
       f = (s.hob hob.val).fenceLast + 1 ∧
       (s.hob hob.val).runs = true ∧
       (s.hob hob.val).uncommitted = true ∧
       s.resets.hearthDown = false ∧
       (s.hob hob.val).oldestFailed = false ∧
       (s.hob hob.val).replay.tries ≠ 3) ∧
    (∃ (hob : HobId) (st : Nat) (cell : BitVec 13) (s : State),
       st ∈ [25, 26, 27, 28, 29, 30] ∧
       (s.hob hob.val).runs = true ∧
       (s.hob hob.val).uncommitted = true ∧
       s.resets.hearthDown = false ∧
       (s.hob hob.val).oldestFailed = false ∧
       (s.hob hob.val).replay.tries ≠ 3) ∧
    (∃ (hob : HobId) (st : Nat) (cell : BitVec 13) (s : State),
       st ∈ [25, 26, 27, 28, 29, 30] ∧
       (s.hob hob.val).runs = true ∧
       (s.hob hob.val).uncommitted = true ∧
       s.resets.hearthDown = false ∧
       (s.hob hob.val).oldestFailed = false ∧
       (s.hob hob.val).replay.tries = 3) ∧
    (∃ (hob : HobId) (peer : BitVec 13) (f : Nat) (s : State),
       peer.toNat ∈ (s.hob hob.val).rcp.peers ∧
       f = (s.hob hob.val).fenceLast + 1 ∧
       (s.hob hob.val).runs = true ∧
       (s.hob hob.val).uncommitted = true ∧
       s.resets.hearthDown = false ∧
       (s.hob hob.val).oldestFailed = false ∧
       (s.hob hob.val).replay.tries = 3) :=
  ⟨⟨0, 9, 1, W.peer0, by decide⟩,
    ⟨0, 26, 0, W.run, by decide⟩,
    ⟨0, 26, 0, W.tries, by decide⟩,
    ⟨0, 9, 1, W.peerTries, by decide⟩⟩

/-- Clauses 1, 2, 3, 4, 5, 6, 7 of HostWritesAreStagedUntilCommit. -/
theorem test_hyp_HostWritesAreStagedUntilCommit :
    (∃ (hob : HobId) (s : State) (w : Staged) (rest : List Staged),
       (s.hob hob.val).staged = w :: rest ∧
       w.fence ≤ (s.hob hob.val).fenceLast ∧
       s.hostUp hob.val = true ∧
       s.hostAuth hob.val = true ∧
       (s.hob hob.val).fwdBlocked = false ∧
       4096 * w.block + 4096 ≤ w.bufLen ∧
       s.sharedUsed (relStack w.stgAddr) < 512 ∧
       (s.stack (relStack w.stgAddr)).resetting = false ∧
       s.poolFree { kind := .forward hob.val, write := true, client := (s.hob hob.val).grant.hport.toNat, pool := .host, addr := 4096 * w.block, data := w.data, stamp := w.fence, region := w.xng, also := some (relStack w.stgAddr), staged := some w } = true) ∧
    (∃ (hob : HobId) (s : State) (w : Staged) (rest : List Staged),
       (s.hob hob.val).staged = w :: rest ∧
       w.fence ≤ (s.hob hob.val).fenceLast ∧
       s.hostUp hob.val = true ∧
       s.hostAuth hob.val = true ∧
       (s.hob hob.val).fwdBlocked = false ∧
       w.bufLen < 4096 * w.block + 4096 ∧
       (s.hob hob.val).run.stopAt = none) ∧
    (∃ (hob : HobId) (s : State) (w : Staged) (rest : List Staged),
       (s.hob hob.val).staged = w :: rest ∧
       (s.hob hob.val).fenceLast < w.fence) ∧
    (∃ (txn : Nat) (ok : Bool) (s : State) (x : Txn) (h k r : Nat),
       s.txn txn = some x ∧
       x.kind = .crossing h k r ∧
       x.write = true ∧
       x.granted = true ∧
       x.served = true ∧
       (x.pool ≠ .lanper ∨ ok = true)) ∧
    (∃ (txn : Nat) (s : State) (x : Txn) (h k r : Nat),
       s.txn txn = some x ∧
       x.pool = .host ∧
       x.kind = .crossing h k r ∧
       x.breach = false ∧
       ((s.hob h).closing.any fun c => c.fence == x.stamp) = false) ∧
    (∃ (txn : Nat) (s : State) (x : Txn) (h k r : Nat) (c : Closing) (rest : List Closing),
       s.txn txn = some x ∧
       x.pool = .host ∧
       x.kind = .crossing h k r ∧
       x.breach = false ∧
       (s.hob h).closing = c :: rest ∧
       c.fence = x.stamp ∧
       c.failed = none) ∧
    (∃ (txn : Nat) (s : State) (x : Txn) (h : Nat),
       s.txn txn = some x ∧
       x.pool = .host ∧
       x.kind = .forward h) :=
  ⟨⟨0, W.staged, { fence := 0, xng := 3, block := 0, data := [7], bufLen := 4096 }, [], by decide⟩,
    ⟨0, W.beyond, { fence := 0, xng := 3, block := 9, data := [7] }, [], by decide⟩,
    ⟨0, W.uncommitted, { fence := 1 }, [], by decide⟩,
    ⟨7, true, W.acked, W.ta, 0, 1, 0, by decide⟩,
    ⟨7, W.hostread, W.th, 0, 1, 0, by decide⟩,
    ⟨7, W.hostreadC, { W.th with stamp := 1 }, 0, 1, 0, { fence := 1 }, [], by decide⟩,
    ⟨7, W.fwd, W.tf, 0, by decide⟩⟩

/-- Clauses 1, 2, 3 of FaultsAreChargedToPositions. -/
theorem test_hyp_FaultsAreChargedToPositions :
    (∃ (cell : Pos) (code : FaultCode) (unit : BitVec 12) (s : State) (c w : Nat),
       code.weight = some (c, w) ∧
       code ≠ .tasteMismatch ∧
       s.resets.hearthDown = false ∧
       c ∉ (s.pos cell.idx).injected) ∧
    (∃ (cell : Pos) (code : FaultCode) (unit : BitVec 12) (s : State) (c w : Nat),
       code.weight = some (c, w) ∧
       s.resets.hearthDown = false ∧
       c ∈ (s.pos cell.idx).injected) ∧
    (∃ (cell : Pos) (code : FaultCode) (unit : BitVec 12) (s : State),
       code.weight = none) :=
  ⟨⟨{}, .residue, 5, W.run, 25, 200, by decide⟩,
    ⟨{}, .residue, 5, W.injected, 25, 200, by decide⟩,
    ⟨{}, .overrun, 0, W.run, by decide⟩⟩

/-- Clauses 1, 2, 3, 4, 5, 6 of DecantsMoveWorkOffALid. -/
theorem test_hyp_DecantsMoveWorkOffALid :
    (∃ (cell : Pos) (image : Bool) (s : State) (h : Nat),
       (s.cell cell.idx).hob = some h ∧
       s.resets.hearthDown = false ∧
       (s.pos cell.idx).state = .lidded ∧
       s.gapFree cell.rack = true ∧
       (s.rack cell.rack.idx).receiving = none ∧
       cell.idx = s.routerPos h (s.cell cell.idx).n ∧
       (s.cell cell.idx).lost = false) ∧
    (∃ (cell : Pos) (s : State),
       (s.rack cell.rack.idx).receiving = some cell.idx) ∧
    (∃ (cell : Pos) (s : State),
       (s.rack cell.rack.idx).receiving = some cell.idx ∧
       (s.pos cell.idx).state ≠ .fusedOff) ∧
    (∃ (cell : Pos) (image : Bool) (s : State) (h : Nat) (c : Cand),
       (s.cell cell.idx).hob = some h ∧
       (s.cell cell.idx).lost = false ∧
       s.resets.hearthDown = false ∧
       (s.pos cell.idx).state = .lidded ∧
       s.gapFree cell.rack = false ∧
       cell.idx = s.routerPos h (s.cell cell.idx).n ∧
       (s.holdNow h 5).findFar h (s.cell cell.idx).n = .inl c) ∧
    (∃ (cell : Pos) (read image : Bool) (s : State) (h r b : Nat),
       (s.cell cell.idx).hob = some h ∧
       s.resets.hearthDown = false ∧
       (s.pos cell.idx).state = .lidded ∧
       s.gapFree cell.rack = false ∧
       cell.idx = s.routerPos h (s.cell cell.idx).n ∧
       (s.holdNow h 5).findFar h (s.cell cell.idx).n = .inr (r, b)) ∧
    (∃ (hob : HobId) (s : State) (x : Homeless),
       (s.hob hob.val).homeless = [x] ∧
       (s.hob hob.val).st = .held ∧
       s.resets.hearthDown = false ∧
       s.usable (s.routerPos hob.val x.n) = true ∧
       (s.pos (s.routerPos hob.val x.n)).lent = false ∧
       (s.hob hob.val).replay.tries ≠ 3) :=
  ⟨⟨{}, true, W.lidded, 0, by decide⟩,
    ⟨{}, W.receiving, by decide⟩,
    ⟨{}, W.receiving, by decide⟩,
    ⟨{}, true, W.far, 0, { pos := 17, e := 18, dist := 1, west := false }, by decide +kernel⟩,
    ⟨{}, true, true, W.nofar, 0, 1, 0xFF, by decide +kernel⟩,
    ⟨0, W.homeless, { n := 0 }, by decide⟩⟩

/-- Clauses 1, 2, 3, 4, 5, 6, 7, 8, 9, 10, 11 of ConditionsScoresAndParole. -/
theorem test_hyp_ConditionsScoresAndParole :
    (∃ (cell : Pos) (s : State),
       s.resets.hearthDown = false ∧
       (s.pos cell.idx).state = .conditional ∧
       s.condMatches cell.idx = true ∧
       (s.cell cell.idx).hob = none) ∧
    (∃ (cell : Pos) (s : State) (h : Nat),
       s.resets.hearthDown = false ∧
       (s.pos cell.idx).state = .conditional ∧
       s.condMatches cell.idx = true ∧
       (s.cell cell.idx).hob = some h ∧
       (s.rack cell.rack.idx).receiving = none ∧
       (cell.rack.all.map Pos.idx).any (fun q => (s.pos q).state == .lidded && (s.cell q).hob.isSome) = false ∧
       s.gapFree cell.rack = true ∧
       (s.hob h).fars = []) ∧
    (∃ (cell : Pos) (s : State) (h : Nat),
       s.resets.hearthDown = false ∧
       (s.pos cell.idx).state = .conditional ∧
       s.condMatches cell.idx = true ∧
       (s.cell cell.idx).hob = some h ∧
       (s.rack cell.rack.idx).receiving = none ∧
       (cell.rack.all.map Pos.idx).any (fun q => (s.pos q).state == .lidded && (s.cell q).hob.isSome) = false ∧
       s.gapFree cell.rack = false ∧
       ((s.pos cell.idx).cond.all && (s.expel.get {} cell.quarter).test) = false) ∧
    (∃ (cell : Pos) (s : State) (h : Nat),
       s.resets.hearthDown = false ∧
       (s.pos cell.idx).state = .conditional ∧
       s.condMatches cell.idx = true ∧
       (s.cell cell.idx).hob = some h ∧
       ((s.rack cell.rack.idx).receiving.isSome = true ∨ (s.gapFree cell.rack = false ∧ (s.pos cell.idx).cond.all = true ∧ (s.expel.get {} cell.quarter).test = true))) ∧
    (∃ (s : State),
       s.resets.hearthDown = false) ∧
    (∃ (cell : Pos) (s : State),
       s.resets.hearthDown = false ∧
       (s.pos cell.idx).state = .lidded ∧
       (s.pos cell.idx).perm = false ∧
       (s.pos cell.idx).lidTest = false ∧
       (s.cell cell.idx).hob = none ∧
       (s.pos cell.idx).lidAt + 86400 ≤ s.lifeS) ∧
    (∃ (cell : Pos) (s : State),
       s.resets.hearthDown = false ∧
       (s.pos cell.idx).state = .parole ∧
       (s.pos cell.idx).passes = 0 ∧
       s.windowOk cell.idx = true) ∧
    (∃ (cell : Pos) (s : State),
       s.resets.hearthDown = false ∧
       (s.pos cell.idx).state = .parole ∧
       (s.pos cell.idx).passes = 2 ∧
       (s.pos cell.idx).passAt + 3600 ≤ s.lifeS ∧
       s.windowOk cell.idx = true) ∧
    (∃ (cell : Pos) (result : TestEnd) (s : State),
       s.resets.hearthDown = false ∧
       (s.pos cell.idx).state = .parole ∧
       (s.pos cell.idx).passes = 0) ∧
    (∃ (cell : Pos) (unit : BitVec 12) (s : State),
       s.resets.hearthDown = false ∧
       (s.pos cell.idx).state = .parole ∧
       (s.pos cell.idx).passes = 0 ∧
       s.windowOk cell.idx = true) ∧
    (∃ (s : State),
       s.resets.hearthDown = false ∧
       s.st ≠ .off) :=
  ⟨⟨{ px := 20 }, W.cond, by decide⟩,
    ⟨{}, W.cond, 0, by decide⟩,
    ⟨{}, W.condFull, 0, by decide⟩,
    ⟨{}, W.condWait, 0, by decide⟩,
    ⟨W.run, by decide⟩,
    ⟨{ px := 20 }, W.day, by decide⟩,
    ⟨{ px := 20 }, W.parole, by decide⟩,
    ⟨{ px := 20 }, W.parole2, by decide⟩,
    ⟨{ px := 20 }, {}, W.parole, by decide⟩,
    ⟨{ px := 20 }, 3, W.parole, by decide⟩,
    ⟨W.run, by decide⟩⟩

/-- Clauses 1, 2, 3, 4, 5, 6, 7, 8, 9, 10, 11, 12, 13 of RotationAndScanTests. -/
theorem test_hyp_RotationAndScanTests :
    (∃ (s : State) (r : Rack),
       s.rotationOn = true ∧
       s.hobOfRack r = none ∧
       s.rotates r = true ∧
       (s.rack r.idx).nextTest = none ∧
       (s.pos (r.pos (nextTarget (s.rack r.idx).gap.toNat (s.rack r.idx).dirEast).1).idx).state = .active ∧
       (nextTarget (s.rack r.idx).gap.toNat (s.rack r.idx).dirEast).1 < 9 ∧
       (s.rack r.idx).gap.toNat < 9 ∧
       (∀ k ∈ hobNums, (s.hob k).fars = [])) ∧
    (∃ (hob : Option HobId) (s : State),
       s.rotationOn = false) ∧
    (∃ (cell : Pos) (unit : BitVec 12) (s : State),
       s.resets.hearthDown = false ∧
       (s.pos cell.idx).state = .tasting ∧
       (s.expel.get {} cell.quarter).test = false ∧
       s.windowOk cell.idx = true ∧
       (s.rack cell.rack.idx).startOk = true) ∧
    (∃ (cell : Pos) (pass : Bool) (unit : BitVec 12) (s : State),
       s.resets.hearthDown = false ∧
       (s.pos cell.idx).state = .tasting ∧
       (s.expel.get {} cell.quarter).test = false) ∧
    (∃ (cell : Pos) (pass window : Bool) (unit : BitVec 12) (s : State),
       s.resets.hearthDown = false ∧
       (s.pos cell.idx).state = .tasting ∧
       (s.expel.get {} cell.quarter).test = false ∧
       (s.rack cell.rack.idx).startOk = false) ∧
    (∃ (cell : Pos) (unit : BitVec 12) (s : State),
       s.resets.hearthDown = false ∧
       (s.pos cell.idx).state = .tasting ∧
       (s.expel.get {} cell.quarter).test = false ∧
       (∀ q : Pos, (s.cell q.idx).taste.resample ≠ some cell.idx) ∧
       s.windowOk cell.idx = true ∧
       (s.rack cell.rack.idx).startOk = true) ∧
    (∃ (r : Rack) (s : State) (a : Bool),
       s.resets.hearthDown = false ∧
       s.st ≠ .off ∧
       a = decide (s.cfgs.tstAlert.toNat * 3600000 ≤ s.untestedMs r) ∧
       (s.rack r.idx).alerted ≠ a) ∧
    (∃ (cell : Pos) (s : State),
       s.inService = true ∧
       s.tasterPaused = false ∧
       (s.pos cell.idx).state.backs = true ∧
       (s.pos cell.idx).tmt.running = false) ∧
    (∃ (cell : Pos) (s : State),
       (s.pos cell.idx).tmt.running = true ∧
       s.rowHeld cell.idx = false ∧
       s.tmtQuiet cell.idx = true) ∧
    (∃ (cell : Pos) (s : State) (k : Nat),
       (s.pos cell.idx).tmt.running = true ∧
       s.rowHeld cell.idx = false ∧
       s.tmtQuiet cell.idx = true ∧
       (s.pos cell.idx).nextSpare (s.pos cell.idx).tmt.bank.toNat = some k ∧
       (s.pos cell.idx).tmt.badRows = [] ∧
       (s.pos cell.idx).tmt.row.toNat < 64) ∧
    (∃ (cell : Pos) (s : State),
       (s.pos cell.idx).tmt.running = true ∧
       s.rowHeld cell.idx = false ∧
       s.tmtQuiet cell.idx = true ∧
       (s.pos cell.idx).tmt.row.toNat < 64 ∧
       (s.pos cell.idx).nextSpare (s.pos cell.idx).tmt.bank.toNat = none ∧
       (s.pos cell.idx).state = .active) ∧
    (∃ (cell : Pos) (s : State) (k : Nat),
       (s.pos cell.idx).tmt.running = true ∧
       s.rowHeld cell.idx = false ∧
       s.tmtQuiet cell.idx = true ∧
       (s.pos cell.idx).nextSpare (s.pos cell.idx).tmt.bank.toNat = some k ∧
       (s.pos cell.idx).tmt.badRows.any (fun r => r / 72 == (s.pos cell.idx).tmt.bank.toNat) = true ∧
       (s.pos cell.idx).tmt.row.toNat < 64 ∧
       (s.pos cell.idx).state = .active) ∧
    (∃ (cell : Pos) (pass : Bool) (s : State),
       (s.pos cell.idx).tmt.running = true ∧
       s.rowHeld cell.idx = true) :=
  ⟨⟨W.rot, { row := 63, k := 11 }, by decide⟩,
    ⟨some 0, W.off, by decide⟩,
    ⟨{ px := 8 }, 0, W.scan, by decide⟩,
    ⟨{ px := 8 }, true, 0, W.run, by decide⟩,
    ⟨{ px := 8 }, true, true, 0, W.run, by decide⟩,
    ⟨{ px := 8 }, 0, W.scan, by decide, by decide, by decide, by intro q; simp only [W.scan, W.run, State.cell, Tab.get]; split <;> decide, by decide, by decide⟩,
    ⟨{}, W.alerted, false, by decide⟩,
    ⟨{}, W.run, by decide⟩,
    ⟨{}, W.tmt, by decide⟩,
    ⟨{}, W.tmt, 1, by decide⟩,
    ⟨{}, W.tmtSpent, by decide⟩,
    ⟨{}, W.tmtTwice, 1, by decide⟩,
    ⟨{}, true, W.tmtHeld, by decide⟩⟩

/-- Clauses 1, 2, 3, 4, 5, 6, 7 of TasterSamples. -/
theorem test_hyp_TasterSamples :
    (∃ (cell : Pos) (s : State) (h : Nat),
       (s.cell cell.idx).hob = some h ∧
       (s.hob h).executing = true ∧
       s.tasterPaused = false ∧
       (s.hob h).clk.cyc % 256 = 0 ∧
       (s.hob h).atFence = false ∧
       ((s.cell cell.idx).taste.cur.recording = false ∨ (s.cell cell.idx).taste.cur.start ≠ (s.hob h).clk.cyc)) ∧
    (∃ (cell : Pos) (s : State) (k : Nat) (rest : List Nat),
       (s.cell cell.idx).taste.held ≠ none ∧
       (s.cell cell.idx).taste.checker = none ∧
       (s.cell cell.idx).taste.resample = none ∧
       ((s.checkers cell.idx).contains (s.gapPos cell.rack) && s.checkerBusy (s.gapPos cell.rack)) = false ∧
       (s.checkers cell.idx).filter (fun k => !s.checkerBusy k) = k :: rest) ∧
    (∃ (cell : Pos) (s : State),
       (s.cell cell.idx).taste.held ≠ none ∧
       (s.cell cell.idx).taste.checker = none ∧
       s.checkers cell.idx = []) ∧
    (∃ (cell : Pos) (s : State),
       (s.cell cell.idx).taste.held ≠ none ∧
       (s.cell cell.idx).taste.checker = none ∧
       (s.cell cell.idx).taste.resample = none ∧
       (s.checkers cell.idx).contains (s.gapPos cell.rack) = true ∧
       s.checkerBusy (s.gapPos cell.rack) = true) ∧
    (∃ (cell : Pos) (s : State) (h k : Nat) (w : TraceHalf),
       (s.cell cell.idx).hob = some h ∧
       (s.cell cell.idx).taste.held = some w ∧
       (s.cell cell.idx).taste.checker = some k ∧
       (s.cell cell.idx).taste.resample = none ∧
       s.checkerGood k = true) ∧
    (∃ (cell : Pos) (s : State) (h k : Nat) (w : TraceHalf),
       (s.cell cell.idx).hob = some h ∧
       (s.cell cell.idx).taste.held = some w ∧
       (s.cell cell.idx).taste.checker = some k ∧
       (s.cell cell.idx).taste.resample = none ∧
       s.checkerGood k = true ∧
       (s.hob h).closing = []) ∧
    (∃ (cell : Pos) (s : State) (w : TraceHalf),
       (s.cell cell.idx).taste.held = some w ∧
       (s.cell cell.idx).taste.checker = none ∧
       w.ended + 1800000 ≤ s.now) :=
  ⟨⟨{}, W.run, 0, by decide⟩,
    ⟨{}, W.sample, 17, [], by decide⟩,
    ⟨{}, W.sampleNone, by decide⟩,
    ⟨{}, W.sampleBusy, by decide⟩,
    ⟨{}, W.shipped, 0, 17, {}, by decide⟩,
    ⟨{}, W.shipped, 0, 17, {}, by decide⟩,
    ⟨{}, W.late2, {}, by decide⟩⟩

/-- Clauses 1, 2, 3, 4 of PerturbSettings. -/
theorem test_hyp_PerturbSettings :
    (∃ (who : Who) (i : Fin 16) (v : BitVec 128) (s : State),
       s.st ≠ .off ∧
       s.down = false ∧
       s.resets.hearthDown = false ∧
       s.logFail = false ∧
       s.authorised who [.installer, .maker] = true ∧
       s.perturbRefused i.val (perturbOf v.toNat) = 0) ∧
    (∃ (i : Fin 16) (s : State),
       (s.perturbs.get {} i.val).valid = true ∧
       (s.perturbs.get {} i.val).kind = 4 ∧
       (s.hob (s.perturbs.get {} i.val).hob.toNat).executing = true ∧
       (s.perturbs.get {} i.val).from_ ≤ (s.hob (s.perturbs.get {} i.val).hob.toNat).clk.cyc ∧
       (s.hob (s.perturbs.get {} i.val).hob.toNat).clk.cyc % bits 47 16 (s.perturbs.get {} i.val).param.toNat = 0 ∧
       (s.perturbs.get {} i.val).lastAt ≠ some (s.hob (s.perturbs.get {} i.val).hob.toNat).clk.cyc) ∧
    (∃ (i : Fin 16) (word : Nat) (s u : State) (code : Option Nat),
       (s.perturbs.get {} i.val).valid = true ∧
       (s.perturbs.get {} i.val).kind = 5 ∧
       (s.perturbs.get {} i.val).done < bits 15 8 (s.perturbs.get {} i.val).param.toNat ∧
       (s.perturbs.get {} i.val).lastAt = none ∧
       (s.hob (s.perturbs.get {} i.val).hob.toNat).executing = true ∧
       s.injectError (s.perturbs.get {} i.val).hob.toNat (s.perturbs.get {} i.val).tidx.toNat (bits 3 0 (s.perturbs.get {} i.val).param.toNat) word = some (u, code)) ∧
    (∃ (i : Fin 16) (s : State),
       (s.perturbs.get {} i.val).valid = true ∧
       (s.perturbs.get {} i.val).ends ≤ s.now) :=
  ⟨⟨W.who, 0, 0, W.run, by decide⟩,
    ⟨0, W.forced, by decide⟩,
    ⟨0, 5, W.inject, W.injectU, none, by decide⟩,
    ⟨0, W.forced, by decide⟩⟩

/-- Clauses 1, 2, 3, 4, 5, 6 of SequencersExecuteTheirWords. -/
theorem test_hyp_SequencersExecuteTheirWords :
    (∃ (cell : Pos) (slot : SlotId) (s : State) (h : Nat) (z : Hob) (c : Cell) (x : Slot) (w code : Nat),
       s.seqReady cell.idx slot.val = some (h, z, c, x) ∧
       c.seqWord x = some w ∧
       (c.seqFetch x).1 = false ∧
       sqKind w = 0 ∧
       x.blocked (actOf w) = some code) ∧
    (∃ (cell : Pos) (slot : SlotId) (s : State) (h : Nat) (z : Hob) (c : Cell) (x : Slot) (w : Nat),
       s.seqReady cell.idx slot.val = some (h, z, c, x) ∧
       c.seqWord x = some w ∧
       (c.seqFetch x).1 = false ∧
       sqKind w = 0 ∧
       x.blocked (actOf w) = none ∧
       (actOf w).unit < 3 ∧
       (c.seqFetch x).2.sendHeld slot.val = none ∧
       (c.seqFetch x).2.grants z.clk.cyc slot.val (actOf w) = true) ∧
    (∃ (cell : Pos) (slot : SlotId) (s : State) (h : Nat) (z : Hob) (c : Cell) (x : Slot) (w : Nat),
       s.seqReady cell.idx slot.val = some (h, z, c, x) ∧
       c.seqWord x = some w ∧
       (c.seqFetch x).1 = false ∧
       sqKind w = 1) ∧
    (∃ (cell : Pos) (slot : SlotId) (s : State) (h : Nat) (z : Hob) (c : Cell) (x : Slot) (w : Nat),
       s.seqReady cell.idx slot.val = some (h, z, c, x) ∧
       c.seqWord x = some w ∧
       (c.seqFetch x).1 = false ∧
       sqKind w = 2) ∧
    (∃ (cell : Pos) (slot : SlotId) (s : State) (h : Nat) (z : Hob) (c : Cell) (x : Slot),
       s.seqReady cell.idx slot.val = some (h, z, c, x) ∧
       (c.seqWord x).all (fun w => sqKind w == 3) = true ∧
       (c.seqWord x = none ∨ (c.seqFetch x).1 = false)) ∧
    (∃ (cell : Pos) (slot : SlotId) (s : State) (h : Nat) (z : Hob) (c : Cell) (x : Slot) (q : Send),
       s.seqReady cell.idx slot.val = some (h, z, c, x) ∧
       (c.sends.find? fun q => leAt q.desc 0x1E 1 == slot.val && q.waiting && q.repliedAt + usNs ≤ s.now) = some q ∧
       msgRemote q.desc = none ∧
       s.posOf h c.n = cell.idx) :=
  ⟨⟨{}, 0, W.seqBlocked, 0, W.seqBlocked.hob 0, W.seqBlocked.cell 0, (W.seqBlocked.cell 0).slot 0, W.actIn, 1, by decide⟩,
    ⟨{}, 0, W.seq, 0, W.seq.hob 0, W.seq.cell 0, (W.seq.cell 0).slot 0, 0, by decide⟩,
    ⟨{}, 1, W.seq, 0, W.seq.hob 0, W.seq.cell 0, (W.seq.cell 0).slot 1, 2 ^ 124, by decide⟩,
    ⟨{}, 2, W.seq, 0, W.seq.hob 0, W.seq.cell 0, (W.seq.cell 0).slot 2, 2 ^ 125, by decide⟩,
    ⟨{}, 3, W.seq, 0, W.seq.hob 0, W.seq.cell 0, (W.seq.cell 0).slot 3, by decide⟩,
    ⟨{}, 0, W.retry, 0, W.retry.hob 0, W.retry.cell 0, (W.retry.cell 0).slot 0, W.sendFull, by decide⟩⟩

/-- Clauses 1, 2, 3, 4, 5, 6, 7, 8 of MessageHeadersAreAnswered. -/
theorem test_hyp_MessageHeadersAreAnswered :
    (∃ (cell : Pos) (m : Msg) (s : State) (h n : Nat),
       s.engineOf cell.idx = some (h, n) ∧
       m.stamp + 32000 < s.now) ∧
    (∃ (cell : Pos) (m : Msg) (s : State) (h n : Nat),
       s.engineOf cell.idx = some (h, n) ∧
       s.now ≤ m.stamp + 32000 ∧
       s.msgDelayed h n m = false ∧
       s.tagOk m h = false) ∧
    (∃ (cell : Pos) (m : Msg) (s : State) (h n st : Nat),
       s.engineOf cell.idx = some (h, n) ∧
       s.posOf h n = cell.idx ∧
       s.now ≤ m.stamp + 32000 ∧
       s.msgDelayed h n m = false ∧
       s.tagOk m h = true ∧
       ((s.heldSend h m).modCell cell.idx fun c => c.takeHeader m).headerStatus h n cell.idx m = some st) ∧
    (∃ (cell : Pos) (m : Msg) (s : State) (h n : Nat),
       s.engineOf cell.idx = some (h, n) ∧
       s.posOf h n = cell.idx ∧
       s.now ≤ m.stamp + 32000 ∧
       s.msgDelayed h n m = false ∧
       s.tagOk m h = true ∧
       ((s.heldSend h m).modCell cell.idx fun c => c.takeHeader m).headerStatus h n cell.idx m = none ∧
       msgKind m.desc = 1 ∧
       msgStack m.desc = none ∧
       (s.cell cell.idx).landings = []) ∧
    (∃ (cell : Pos) (m : Msg) (s : State) (h n : Nat),
       s.engineOf cell.idx = some (h, n) ∧
       s.now ≤ m.stamp + 32000 ∧
       s.msgDelayed h n m = false ∧
       s.tagOk m h = true ∧
       ((s.heldSend h m).modCell cell.idx fun c => c.takeHeader m).headerStatus h n cell.idx m = none ∧
       msgKind m.desc ≠ 1 ∧
       (∀ a, msgStack m.desc = some a → s.sharedUsed (relStack a) < 512) ∧
       (∀ l ∈ (s.cell cell.idx).landings, l.ready = none)) ∧
    (∃ (cell : Pos) (i : Nat) (data : List Byte) (ok : Bool) (s u : State) (h n : Nat) (l : Landing) (bytes : List Byte) (bad : List Nat),
       s.engineOf cell.idx = some (h, n) ∧
       s.posOf h n = cell.idx ∧
       (s.cell cell.idx).landings = [l] ∧
       l.id = i ∧
       l.ready = none ∧
       (∀ k, l.stack = some k → (s.stack k).resetting = false) ∧
       s.now ≤ l.stamp + 32000 ∧
       s.landingData h cell.idx l data = (bytes, bad, u) ∧
       (u.cell cell.idx).landings = [l] ∧
       u.posOf h n = cell.idx ∧
       bytes.length = msgLen l.desc) ∧
    (∃ (cell : Pos) (i : Nat) (s : State) (h n : Nat) (l : Landing),
       s.engineOf cell.idx = some (h, n) ∧
       s.posOf h n = cell.idx ∧
       (s.cell cell.idx).landings = [l] ∧
       l.id = i ∧
       l.ready = none ∧
       l.stamp + 32000 ≤ s.now) ∧
    (∃ (cell : Pos) (i : Nat) (s : State) (l : Landing),
       ((s.cell cell.idx).landings.find? fun l => l.id == i) = some l ∧
       s.now < l.stamp + 32000) :=
  ⟨⟨{}, {}, W.day, 0, 0, by decide⟩,
    ⟨{}, { hob := 1 }, W.run, 0, 0, by decide⟩,
    ⟨{}, {}, W.run, 0, 0, 3, by decide⟩,
    ⟨{}, W.note, W.win, 0, 0, by decide⟩,
    ⟨{}, W.send, W.win, 0, 0, by decide, by decide, by decide, by decide, by decide, by decide, by decide, by decide⟩,
    ⟨{}, 4, [], false, W.landed, W.landed, 0, 0, { id := 4 }, [], [], by decide⟩,
    ⟨{}, 4, W.landedLate, 0, 0, { id := 4 }, by decide⟩,
    ⟨{}, 4, W.landed, { id := 4 }, by decide⟩⟩

/-- Clauses 1, 2, 3, 4, 5, 6 of SendsEndOrGoAgain. -/
theorem test_hyp_SendsEndOrGoAgain :
    (∃ (hob : HobId) (n : Nat) (slot : Nat) (tag : BitVec 16) (tg : Nat) (st : Fin 8) (s : State) (q : Send),
       s.sendOf hob.val (.cell n slot) tag.toNat = some q ∧
       q.tag = tag.toNat ∧
       q.targets = [] ∧
       st.val = 0 ∧
       (s.hob hob.val).hold.frozen = false) ∧
    (∃ (hob : HobId) (n : Nat) (slot : Nat) (tag : BitVec 16) (tg : Nat) (st : Fin 8) (s : State) (q : Send),
       s.sendOf hob.val (.cell n slot) tag.toNat = some q ∧
       q.targets = [] ∧
       st.val = 1) ∧
    (∃ (hob : HobId) (n : Nat) (slot : Nat) (tag : BitVec 16) (tg : Nat) (st : Fin 8) (s : State) (q : Send),
       s.sendOf hob.val (.cell n slot) tag.toNat = some q ∧
       q.tag = tag.toNat ∧
       q.targets = [] ∧
       2 ≤ st.val ∧
       (s.hob hob.val).hold.frozen = false) ∧
    (∃ (hob : HobId) (tag : BitVec 16) (s : State) (q : Send),
       s.sendOf hob.val .hearth tag.toNat = some q ∧
       q.tag = tag.toNat ∧
       q.targets = [] ∧
       q.ref = none ∧
       (if q.wait then q.first else q.launched) + s.sendTimeoutNs hob.val (bit 15 (leAt q.desc 6 2)) ≤ s.now) ∧
    (∃ (hob : HobId) (tag : BitVec 16) (s : State) (q : Send),
       s.sendOf hob.val .hearth tag.toNat = some q ∧
       q.wait = true ∧
       q.waiting = true ∧
       q.repliedAt + 1000 ≤ s.now ∧
       msgRemote q.desc = none) ∧
    (∃ (hob : HobId) (tag : BitVec 16) (tg : Nat) (s : State) (q : Send) (m : McTarget) (a : Nat),
       s.sendOf hob.val .hearth tag.toNat = some q ∧
       m ∈ q.targets ∧
       m.cell = tg ∧
       m.tries < 8 ∧
       m.fullAt = some a ∧
       a + 2000 ≤ s.now ∧
       msgRemote q.desc = none) :=
  ⟨⟨0, 0, 0, 9, 0, 0, W.retry, W.sendFull, by decide⟩,
    ⟨0, 0, 0, 9, 0, 1, W.retry, W.sendFull, by decide⟩,
    ⟨0, 0, 0, 9, 0, 4, W.retry, W.sendFull, by decide⟩,
    ⟨0, 9, W.rimSend, W.rimSent, by decide⟩,
    ⟨0, 9, W.rimSend, W.rimSent, by decide⟩,
    ⟨0, 9, 3, W.cast, W.casted, { cell := 3, fullAt := some 0 }, 0, by decide⟩⟩

/-- Clauses 1, 2, 3, 4, 5 of WindowsCloseAndBroadcastsEnd. -/
theorem test_hyp_WindowsCloseAndBroadcastsEnd :
    (∃ (cell : Pos) (win : WinId) (s : State),
       ((s.cell cell.idx).win win.val).state = 2 ∧
       ((s.cell cell.idx).win win.val).closedAt + 32000 ≤ s.now ∧
       ((s.cell cell.idx).win win.val).ending = false ∧
       ((s.cell cell.idx).win win.val).closers = [] ∧
       ((s.cell cell.idx).win win.val).reopen = none ∧
       (∀ h, (s.cell cell.idx).hob = some h → (s.hob h).releasing = none)) ∧
    (∃ (cell : Pos) (win : WinId) (s : State) (h : Nat) (r : Option CmdRef),
       ((s.cell cell.idx).win win.val).ending = true ∧
       ((s.cell cell.idx).win win.val).closedAt + 32000 ≤ s.now ∧
       ((s.cell cell.idx).win win.val).closers = [] ∧
       ((s.cell cell.idx).win win.val).reopen = none ∧
       (s.cell cell.idx).hob = some h ∧
       (s.hob h).releasing = some r ∧
       (s.nums h).filter (fun n => (s.cell (s.posOf h n)).wins.any fun w => w.2.ending && (s.posOf h n != cell.idx || w.1 != win.val)) = []) ∧
    (∃ (i tg : Nat) (s : State) (b : Broadcast),
       s.broadcasts = [b] ∧
       b.id = i ∧
       b.targets.filter (fun x => x != tg) ≠ []) ∧
    (∃ (i tg : Nat) (s : State) (b : Broadcast),
       s.broadcasts = [b] ∧
       b.id = i ∧
       b.targets = [tg] ∧
       b.ended = []) ∧
    (∃ (i : Nat) (s : State) (b : Broadcast),
       s.broadcasts = [b] ∧
       b.id = i ∧
       b.startedAt + (b.tries + 1) * 10000 ≤ s.now ∧
       (∃ x ∈ b.targets, ((s.pos (s.bcastPos b x)).state ≠ .lidded ∧ (s.pos (s.bcastPos b x)).state ≠ .fusedOff) ∨ (b.hob.isSome = true ∧ ((s.cell (s.bcastPos b x)).moving = true ∨ (s.cell (s.bcastPos b x)).hob.isSome = true)))) :=
  ⟨⟨{}, 0, W.closing, by decide, by decide, by decide, by decide, by decide, by intro h e; cases e; decide⟩,
    ⟨{}, 0, W.releasing, 0, none, by decide⟩,
    ⟨1, 5, W.bcast, W.bc, by decide⟩,
    ⟨1, 5, W.bcast1, W.bc1, by decide⟩,
    ⟨1, W.bcastLate, W.bc, by decide⟩⟩

/-- Clauses 1, 2, 3, 4, 5 of StackAccessesMoveBytes. -/
theorem test_hyp_StackAccessesMoveBytes :
    (∃ (h : Hob) (a dev : Nat),
       ((∀ e ∈ h.ext, e.2.dev.toNat < 352)) ∧
       h.devAddr a = some dev) ∧
    (∃ (txn : Nat) (s : State) (u : Txn) (dev : Nat),
       s.txn txn = some u ∧
       u.write = false ∧
       u.granted = true ∧
       u.served = false ∧
       u.breach = false ∧
       u.stackKind = true ∧
       (s.stack (relStack (s.txnTarget u))).resetting = false ∧
       (s.hob u.hob).devAddr (s.txnTarget u) = some dev ∧
       s.rdrs = [] ∧
       (∀ k ∈ List.range 16, (s.stack k).pcDead = []) ∧
       (∀ i ∈ List.range 64, (s.lines.get {} ((dev + 64 * i) / 64)).poison = false ∧ s.errs.get 0 ((dev + 64 * i) / 64) = 0) ∧
       s.behindWrite u = false ∧
       s.roomFor u = true ∧
       s.txnDelayed u 1 = false) ∧
    (∃ (txn : Nat) (s : State) (u : Txn) (dev : Nat),
       s.txn txn = some u ∧
       u.write = false ∧
       u.granted = true ∧
       u.served = false ∧
       u.breach = false ∧
       u.stackKind = true ∧
       (s.stack (relStack (s.txnTarget u))).resetting = false ∧
       (s.hob u.hob).devAddr (s.txnTarget u) = some dev ∧
       s.rdrs = [] ∧
       (s.lines.get {} (dev / 64)).poison = false ∧
       (∀ e ∈ (s.hob u.hob).ext, e.2.dev.toNat < 352) ∧
       (s.hob u.hob).closing = [] ∧
       s.behindWrite u = false ∧
       s.roomFor u = true ∧
       s.txnDelayed u 1 = false) ∧
    (∃ (txn : Nat) (s : State) (u : Txn) (dev h k r : Nat) (c : Closing) (rest : List Closing),
       s.txn txn = some u ∧
       u.write = false ∧
       u.granted = true ∧
       u.served = false ∧
       u.breach = false ∧
       u.stackKind = true ∧
       (s.stack (relStack (s.txnTarget u))).resetting = false ∧
       (s.hob u.hob).devAddr (s.txnTarget u) = some dev ∧
       s.rdrs = [] ∧
       (s.lines.get {} (dev / 64)).poison = false ∧
       (∀ e ∈ (s.hob u.hob).ext, e.2.dev.toNat < 352) ∧
       u.kind = .crossing h k r ∧
       (s.hob h).closing = c :: rest ∧
       s.behindWrite u = false ∧
       s.roomFor u = true ∧
       s.txnDelayed u 1 = false) ∧
    (∃ (txn : Nat) (ok : Bool) (s : State) (u : Txn) (dev : Nat),
       s.txn txn = some u ∧
       u.write = true ∧
       u.granted = true ∧
       u.served = false ∧
       u.breach = false ∧
       u.stackKind = true ∧
       u.data.length = 4096 ∧
       u.poison = [] ∧
       (s.stack (relStack (s.txnTarget u))).resetting = false ∧
       (s.hob u.hob).devAddr (s.txnTarget u) = some dev ∧
       dev % 64 = 0 ∧
       s.rdrs = [] ∧
       (s.hob u.hob).cow.armed = false ∧
       s.behindWrite u = false ∧
       s.txnDelayed u 1 = false) :=
  ⟨⟨W.run.hob 0, 0, 0, by decide⟩,
    ⟨0, W.read, W.readTxn, 0, by decide⟩,
    ⟨0, W.read, W.readTxn, 0, by decide⟩,
    ⟨0, W.readC, { W.readTxn with kind := .crossing 0 9 0 }, 0, 0, 9, 0, { fence := 1 }, [], by decide⟩,
    ⟨0, true, W.write, W.writeTxn, 0, rfl, rfl, rfl, rfl, rfl, rfl, List.length_replicate, rfl, rfl, rfl, rfl, rfl, rfl, rfl, rfl⟩⟩

/-- Clauses 1, 2, 3, 4, 5, 6, 7, 8 of StacksRepairAndScrub. -/
theorem test_hyp_StacksRepairAndScrub :
    (∃ (stack : StackId) (pc : Fin 34) (s : State),
       ((s.stack stack.val).pwr = .on ∨ (s.stack stack.val).pwr = .powerDown) ∧
       (s.stack stack.val).resetting = false) ∧
    (∃ (stack : StackId) (row : Nat) (s : State),
       (s.stack stack.val).rowDue.get 0 row ≠ 0 ∧
       (s.stack stack.val).resetting = false ∧
       (s.stack stack.val).pwr ≠ .off ∧
       s.deviceRoom stack.val 1 = true) ∧
    (∃ (stack : StackId) (pc : Fin 32) (s : State),
       (s.stack stack.val).pcDue.contains pc.val = true ∧
       (s.stack stack.val).pcCopy.contains pc.val = false ∧
       (s.stack stack.val).resetting = false ∧
       (s.stack stack.val).pwr ≠ .off ∧
       (s.stack stack.val).sparePc.toNat < 2) ∧
    (∃ (stack : StackId) (pc : Fin 32) (s : State),
       (s.stack stack.val).pcDue.contains pc.val = true ∧
       (s.stack stack.val).pcCopy.contains pc.val = false ∧
       (s.stack stack.val).resetting = false ∧
       (s.stack stack.val).pwr ≠ .off ∧
       2 ≤ (s.stack stack.val).sparePc.toNat) ∧
    (∃ (stack : StackId) (pc : Fin 32) (s : State),
       (s.stack stack.val).pcCopy.contains pc.val = true ∧
       (s.stack stack.val).resetting = false) ∧
    (∃ (stack : StackId) (line : Nat) (s : State),
       64 * line < stackBytes ∧
       (s.stack stack.val).resetting = false ∧
       ((s.stack stack.val).pwr = .on ∨ (s.stack stack.val).pwr = .powerDown) ∧
       (s.lines.get {} ((stack.val * 2 ^ 37 + 64 * line) / 64)).poison = false ∧
       s.errs.get 0 ((stack.val * 2 ^ 37 + 64 * line) / 64) = 0 ∧
       (s.stack stack.val).pcDead = [] ∧
       s.deviceRoom stack.val 1 = true) ∧
    (∃ (stack : StackId) (line : Nat) (s : State),
       64 * line < stackBytes ∧
       (s.stack stack.val).resetting = false ∧
       ((s.stack stack.val).pwr = .on ∨ (s.stack stack.val).pwr = .powerDown) ∧
       (s.lines.get {} ((stack.val * 2 ^ 37 + 64 * line) / 64)).poison = false ∧
       s.deviceRoom stack.val 1 = true) ∧
    (∃ (stack : StackId) (s : State),
       (s.stack stack.val).pwr = .on ∧
       (s.stack stack.val).lastTraffic + 1000 ≤ s.now) :=
  ⟨⟨0, 3, W.run, by decide⟩,
    ⟨0, 5, W.stack, by decide, by decide, by decide, by decide⟩,
    ⟨0, 2, W.stack, by decide⟩,
    ⟨0, 2, W.stack2, by decide⟩,
    ⟨0, 7, W.stack, by decide⟩,
    ⟨0, 4, W.stack, by decide⟩,
    ⟨0, 4, W.stack, by decide⟩,
    ⟨0, W.stack, by decide⟩⟩

/-- Clauses 1, 2, 3, 4 of CapturesArmDrainAndZero. -/
theorem test_hyp_CapturesArmDrainAndZero :
    (∃ (hob : HobId) (s : State) (j : JarRun),
       (s.hob hob.val).jarRun = some j ∧
       (s.hob hob.val).cow.armed = false ∧
       j.planned = true ∧
       (((s.hob hob.val).clk.live && (s.hob hob.val).clk.inStep == 0 && (s.hob hob.val).clk.fence == j.fence + 1) ||
           (!(s.hob hob.val).clk.live && (s.hob hob.val).fenceLast == j.fence)) = true) ∧
    (∃ (hob : HobId) (page : Nat) (s : State) (j : JarRun) (a : Nat),
       (s.hob hob.val).jarRun = some j ∧
       s.pageRel hob.val page = some a ∧
       (s.hob hob.val).cow.draining = true ∧
       (s.hob hob.val).cow.drained.contains page = false ∧
       (s.hob hob.val).cow.next = [] ∧
       (s.stack (page / 2 ^ 21)).resetting = false ∧
       devAddrOk ((page / 2 ^ 21) * 2 ^ 37 + (page % 2 ^ 21) * 65536) = true ∧
       s.deviceRoom (page / 2 ^ 21) 16 = true) ∧
    (∃ (hob : HobId) (s : State),
       ((s.hob hob.val).zeroing.any fun e => (s.stack (e / 352)).resetting) = true) ∧
    (∃ (hob : HobId) (s : State),
       ((s.hob hob.val).zeroing.any fun e => (s.stack (e / 352)).resetting) = false) :=
  ⟨⟨0, W.arm, W.jarRun, by decide⟩,
    ⟨0, 0, W.drain, W.jarRun, 0, by decide⟩,
    ⟨0, W.zeroReset, by decide⟩,
    ⟨0, W.run, by decide⟩⟩

/-- Clauses 1, 2, 3, 4 of FunctionsAuthenticate. -/
theorem test_hyp_FunctionsAuthenticate :
    (∃ (port : HPort) (fn : FnId) (s : State),
       s.barOpen port.val fn.val = true ∧
       ((s.host port.val).fnSt fn.val).lockedUntil ≤ s.now ∧
       (s.hob (s.claimed port.val fn.val)).cred ≠ 0 ∧
       (s.hob (s.claimed port.val fn.val)).assignedTo port.val = true) ∧
    (∃ (port : HPort) (fn : FnId) (mac : BitVec 256) (s : State),
       s.barOpen port.val fn.val = true ∧
       ((s.host port.val).fnSt fn.val).lockedUntil ≤ s.now ∧
       ((s.hob (s.claimed port.val fn.val)).cred = 0 ∨ (s.hob (s.claimed port.val fn.val)).assignedTo port.val = false ∨
           mac ≠ Config.hmacSha256 (s.hob (s.claimed port.val fn.val)).cred ((s.host port.val).fnSt fn.val).nonce port.val fn.val)) ∧
    (∃ (port : HPort) (fn : FnId) (mac : BitVec 256) (s : State),
       s.barOpen port.val fn.val = true ∧
       s.now < ((s.host port.val).fnSt fn.val).lockedUntil) ∧
    (∃ (port : HPort) (fn : FnId) (s : State),
       ((s.host port.val).fnSt fn.val).lockedUntil ≠ 0 ∧
       ((s.host port.val).fnSt fn.val).lockedUntil ≤ s.now) :=
  ⟨⟨0, 1, W.run, by decide⟩,
    ⟨0, 2, 5, W.run, by decide⟩,
    ⟨0, 1, 5, W.lockedFn, by decide⟩,
    ⟨0, 3, W.run, by decide⟩⟩

/-- Clauses 1, 2, 3, 4, 5, 6, 7, 8, 9 of RingsFetchAndPoll. -/
theorem test_hyp_RingsFetchAndPoll :
    (∃ (port : HPort) (fn : FnId) (ring : RingId) (s : State),
       s.barOpen port.val fn.val = true ∧
       ringExists fn.val ring.val = true ∧
       (s.ring port.val fn.val ring.val).en = false ∧
       ((s.host port.val).fnSt fn.val).authOk = true ∧
       6 ≤ (s.ring port.val fn.val ring.val).log2.toNat ∧
       (s.ring port.val fn.val ring.val).log2.toNat ≤ 16 ∧
       (s.ring port.val fn.val ring.val).sqBase.toNat % 4096 = 0 ∧
       (s.ring port.val fn.val ring.val).cqBase.toNat % 4096 = 0 ∧
       (s.ring port.val fn.val ring.val).dbAddr.toNat % 64 = 0) ∧
    (∃ (port : HPort) (fn : FnId) (ring : RingId) (s : State),
       s.barOpen port.val fn.val = true ∧
       ringExists fn.val ring.val = true ∧
       (s.ring port.val fn.val ring.val).en = false ∧
       ((s.host port.val).fnSt fn.val).authOk = true ∧
       6 ≤ (s.ring port.val fn.val ring.val).log2.toNat ∧
       (s.ring port.val fn.val ring.val).log2.toNat ≤ 16 ∧
       ((s.ring port.val fn.val ring.val).sqBase.toNat % 4096 ≠ 0 ∨ (s.ring port.val fn.val ring.val).cqBase.toNat % 4096 ≠ 0 ∨ (s.ring port.val fn.val ring.val).dbAddr.toNat % 64 ≠ 0)) ∧
    (∃ (port : HPort) (fn : FnId) (ring : RingId) (s : State),
       s.barOpen port.val fn.val = true ∧
       (s.ring port.val fn.val ring.val).en = true) ∧
    (∃ (port : HPort) (fn : FnId) (ring : RingId) (s : State),
       (s.host port.val).carries = true ∧
       (s.ring port.val fn.val ring.val).on = true ∧
       (s.ring port.val fn.val ring.val).en = true ∧
       (s.ring port.val fn.val ring.val).pollAt ≤ s.now ∧
       s.ringTraffic port.val < 64) ∧
    (∃ (port : HPort) (fn : FnId) (ring : RingId) (pi cqCi : W32) (s : State),
       (s.ring port.val fn.val ring.val).on = true ∧
       (s.ring port.val fn.val ring.val).en = true ∧
       (pi - (s.ring port.val fn.val ring.val).ci).toNat ≤ (s.ring port.val fn.val ring.val).size ∧
       (s.ring port.val fn.val ring.val).owed = []) ∧
    (∃ (port : HPort) (fn : FnId) (ring : RingId) (pi cqCi : W32) (ok : Bool) (s : State),
       (s.ring port.val fn.val ring.val).on = true ∧
       (s.ring port.val fn.val ring.val).en = true ∧
       (ok = false ∨ (s.ring port.val fn.val ring.val).size < (pi - (s.ring port.val fn.val ring.val).ci).toNat)) ∧
    (∃ (port : HPort) (fn : FnId) (ring : RingId) (entry : List Byte) (s : State),
       (s.ring port.val fn.val ring.val).on = true ∧
       (s.ring port.val fn.val ring.val).fetching ≠ 0 ∧
       entryOk entry = true) ∧
    (∃ (port : HPort) (fn : FnId) (ring : RingId) (entry : List Byte) (s : State),
       (s.ring port.val fn.val ring.val).on = true ∧
       (s.ring port.val fn.val ring.val).fetching ≠ 0 ∧
       entryOk entry = false) ∧
    (∃ (port : HPort) (fn : FnId) (ring : RingId) (s : State),
       (s.ring port.val fn.val ring.val).unsignalled ≠ 0 ∧
       (s.ring port.val fn.val ring.val).oldest + (s.ring port.val fn.val ring.val).time.toNat * 1000 ≤ s.now) :=
  ⟨⟨0, 1, 1, W.run, by decide⟩,
    ⟨0, 1, 2, W.run, by decide⟩,
    ⟨0, 1, 0, W.run, by decide⟩,
    ⟨0, 1, 0, W.run, by decide⟩,
    ⟨0, 1, 0, 5, 0, W.run, by decide⟩,
    ⟨0, 1, 0, 5, 0, false, W.run, by decide⟩,
    ⟨0, 1, 3, W.fenceEntry, W.run, by decide⟩,
    ⟨0, 1, 3, [], W.run, by decide⟩,
    ⟨0, 1, 3, W.run, by decide⟩⟩

/-- Clauses 1, 2, 3, 4 of HostLossEndsTheHostsWork. -/
theorem test_hyp_HostLossEndsTheHostsWork :
    (∃ (port : HPort) (linkDown : Bool) (s : State),
       (s.host port.val).linkUp = true) ∧
    (∃ (port : HPort) (fn : FnId) (s : State),
       (s.host port.val).linkUp = true) ∧
    (∃ (port : HPort) (s : State),
       s.pins.pwrgd = true ∧
       (s.host port.val).perst = false) ∧
    (∃ (port : HPort) (s : State),
       s.pins.pwrgd = true ∧
       (s.host port.val).perst = true) :=
  ⟨⟨0, true, W.run, by decide⟩,
    ⟨0, 1, W.run, by decide⟩,
    ⟨0, W.run, by decide⟩,
    ⟨1, W.run, by decide⟩⟩

/-- Clauses 1, 2, 3, 4, 5, 6, 7, 8, 9, 10, 11 of RunsStartStopAndWait. -/
theorem test_hyp_RunsStartStopAndWait :
    (∃ (ref : CmdRef) (hob : HobId) (count : Nat) (each : Bool) (buf bufLen stg stgLen : Nat) (s : State) (e : Sqe),
       s.turn ref hob.val 2 e = true ∧
       runArgs count each buf bufLen stg stgLen e.args = true ∧
       count ≠ 0 ∧
       (s.hob hob.val).recipe.isSome = true ∧
       (s.hob hob.val).restore = none ∧
       (s.hob hob.val).torn = false ∧
       (s.hob hob.val).st = .stopped ∧
       (s.hob hob.val).homeless = [] ∧
       (s.hob hob.val).mapped stg stgLen = true ∧
       s.portFell hob.val = none ∧
       s.lostCell hob.val = none) ∧
    (∃ (ref : CmdRef) (hob : HobId) (count : Nat) (each : Bool) (buf bufLen stg stgLen : Nat) (s : State) (e : Sqe),
       s.turn ref hob.val 2 e = true ∧
       runArgs count each buf bufLen stg stgLen e.args = true ∧
       count ≠ 0 ∧
       (s.hob hob.val).recipe.isSome = true ∧
       (s.hob hob.val).restore = none ∧
       (s.hob hob.val).torn = false ∧
       (s.hob hob.val).st = .running ∧
       ((s.hob hob.val).run.buf, (s.hob hob.val).run.bufLen, (s.hob hob.val).run.stg, (s.hob hob.val).run.stgLen) = (buf, bufLen, stg, stgLen) ∧
       (s.hob hob.val).betweenSteps = false) ∧
    (∃ (ref : CmdRef) (hob : HobId) (count : Nat) (each : Bool) (buf bufLen stg stgLen : Nat) (s : State) (e : Sqe),
       s.turn ref hob.val 2 e = true ∧
       runArgs count each buf bufLen stg stgLen e.args = true ∧
       count ≠ 0 ∧
       (s.hob hob.val).recipe.isSome = true ∧
       (s.hob hob.val).restore = none ∧
       (s.hob hob.val).torn = false ∧
       (s.hob hob.val).st = .running ∧
       ((s.hob hob.val).run.buf, (s.hob hob.val).run.bufLen, (s.hob hob.val).run.stg, (s.hob hob.val).run.stgLen) = (buf, bufLen, stg, stgLen) ∧
       (s.hob hob.val).betweenSteps = true ∧
       (s.hob hob.val).closing.length < 2) ∧
    (∃ (ref : CmdRef) (hob : HobId) (each : Bool) (buf bufLen stg stgLen : Nat) (s : State) (e : Sqe),
       s.turn ref hob.val 2 e = true ∧
       runArgs 0 each buf bufLen stg stgLen e.args = true) ∧
    (∃ (ref : CmdRef) (hob : HobId) (fence : Nat) (s : State) (e : Sqe),
       s.turn ref hob.val 3 e = true ∧
       (leAt e.args 8 8 == fence) = true ∧
       e.sub = 0 ∧
       (s.hob hob.val).st ≠ .free ∧
       fence ≤ (s.hob hob.val).fenceLast) ∧
    (∃ (ref : CmdRef) (hob : HobId) (fence : Nat) (s : State) (e : Sqe),
       s.turn ref hob.val 3 e = true ∧
       (leAt e.args 8 8 == fence) = true ∧
       e.sub = 0 ∧
       ((s.hob hob.val).st = .running ∨ (s.hob hob.val).st = .held) ∧
       (s.hob hob.val).fenceLast < fence) ∧
    (∃ (ref : CmdRef) (hob : HobId) (s : State) (e : Sqe),
       s.turn ref hob.val 3 e = true ∧
       e.sub = 1 ∧
       ((s.hob hob.val).st = .running ∨ (s.hob hob.val).st = .held)) ∧
    (∃ (ref : CmdRef) (hob : HobId) (s : State) (e : Sqe),
       s.turn ref hob.val 3 e = true ∧
       e.sub = 1 ∧
       (s.hob hob.val).st ≠ .free ∧
       (s.hob hob.val).st ≠ .running ∧
       (s.hob hob.val).st ≠ .held) ∧
    (∃ (ref : CmdRef) (hob : HobId) (image : Image) (s : State) (e : Sqe),
       s.turn ref hob.val 1 e = true ∧
       (leAt e.args 8 8 == image.addr && leAt e.args 0x10 8 == image.size) = true ∧
       (s.hob hob.val).takesLoad = true ∧
       s.inReset 6 hob.val = false ∧
       image.readOk = true) ∧
    (∃ (ref : CmdRef) (hob : HobId) (image : Image) (s : State) (e : Sqe),
       s.turn ref hob.val 1 e = true ∧
       (leAt e.args 8 8 == image.addr && leAt e.args 0x10 8 == image.size) = true ∧
       (s.hob hob.val).takesLoad = false) ∧
    (∃ (hob : HobId) (s : State) (ref : CmdRef),
       (s.hob hob.val).loading = some ref ∧
       (s.hob hob.val).st = .loading ∧
       s.portShort hob.val = none ∧
       (s.broadcasts.any fun b => b.hob == some hob.val) = false ∧
       s.windowsEnding hob.val = false ∧
       (s.hob hob.val).fills = [] ∧
       (s.ring ref.port.val ref.fn.val ref.ring.val).on = true) :=
  ⟨⟨W.ref, 0, 3, false, 0, 0, 0, 0, W.ask .stopped (W.runEntry 3), W.runEntry 3, by decide⟩,
    ⟨W.ref, 0, 3, false, 0, 0, 0, 0, W.ask .running (W.runEntry 3), W.runEntry 3, by decide⟩,
    ⟨W.ref, 0, 3, false, 0, 0, 0, 0, W.askBetween, W.runEntry 3, by decide⟩,
    ⟨W.ref, 0, false, 0, 0, 0, 0, W.ask .running (W.runEntry 0), W.runEntry 0, by decide⟩,
    ⟨W.ref, 0, 0, W.ask .running (W.fenceEntrySqe 0 0), W.fenceEntrySqe 0 0, by decide⟩,
    ⟨W.ref, 0, 9, W.ask .running (W.fenceEntrySqe 0 9), W.fenceEntrySqe 0 9, by decide⟩,
    ⟨W.ref, 0, W.ask .held (W.fenceEntrySqe 1 0), W.fenceEntrySqe 1 0, by decide⟩,
    ⟨W.ref, 0, W.ask .stopped (W.fenceEntrySqe 1 0), W.fenceEntrySqe 1 0, by decide⟩,
    ⟨W.ref, 0, {}, W.ask .stopped W.loadEntry, W.loadEntry, by decide⟩,
    ⟨W.ref, 0, {}, W.ask .running W.loadEntry, W.loadEntry, by decide⟩,
    ⟨0, W.loading, W.ref, by decide⟩⟩

/-- Clauses 1, 2, 3, 4, 5, 6, 7 of CopiesAndWindowsServeTheirCommands. -/
theorem test_hyp_CopiesAndWindowsServeTheirCommands :
    (∃ (ref : CmdRef) (hob : HobId) (src dst len after : Nat) (srcKind dstKind : Fin 4) (s : State) (e : Sqe),
       s.turn ref hob.val 4 e = true ∧
       copyArgs src dst len after srcKind.val dstKind.val e.args = true ∧
       64 ≤ len ∧
       len ≤ 2 ^ 34 ∧
       len % 64 = 0 ∧
       srcKind.val ≤ 1 ∧
       dstKind.val ≤ 1 ∧
       (s.hob hob.val).st ≠ .free) ∧
    (∃ (ref : CmdRef) (hob : HobId) (src dst len after : Nat) (srcKind dstKind : Fin 4) (s : State) (e : Sqe),
       s.turn ref hob.val 4 e = true ∧
       copyArgs src dst len after srcKind.val dstKind.val e.args = true ∧
       len % 64 ≠ 0) ∧
    (∃ (hob : HobId) (moved : Nat) (data : List Byte) (s : State) (c : Copy),
       ((s.hob hob.val).copies.find? fun c => c.running) = some c ∧
       s.copyWaits hob.val c = false ∧
       c.dstKind = 0 ∧
       c.srcKind = 1 ∧
       s.owed c.ref = true) ∧
    (∃ (hob : HobId) (moved : Nat) (data : List Byte) (s u : State) (c : Copy),
       ((s.hob hob.val).copies.find? fun c => c.running) = some c ∧
       s.copyWaits hob.val c = false ∧
       c.dstKind = 1 ∧
       c.srcKind = 0 ∧
       s.owed c.ref = true ∧
       (s.each c.stacksOf State.touchStack).storeRun hob.val c.dst (bytesAt data 0 (min ((s.hob hob.val).copyLimit c) c.len)) (fun _ => false) = .ok u) ∧
    (∃ (ref : CmdRef) (hob : HobId) (cell : BitVec 13) (win : WinId) (slot : SlotId) (region : RegionId) (s : State) (e : Sqe),
       s.turn ref hob.val 5 e = true ∧
       (leAt e.args 8 2 == cell.toNat && leAt e.args 0xA 1 == win.val && leAt e.args 0xB 1 == 16 * slot.val + region.val) = true ∧
       ((s.hob hob.val).st = .stopped ∨ (s.hob hob.val).st = .running) ∧
       (s.hob hob.val).seqMode = true ∧
       cell.toNat < (s.hob hob.val).rect.cells ∧
       (((s.cell (s.posOf hob.val cell.toNat)).slot slot.val).region region.val).valid = true ∧
       (((s.cell (s.posOf hob.val cell.toNat)).slot slot.val).region region.val).landing = true ∧
       ((s.cell (s.posOf hob.val cell.toNat)).win win.val).state = 0 ∧
       ((s.cell (s.posOf hob.val cell.toNat)).win win.val).ending = false) ∧
    (∃ (ref : CmdRef) (hob : HobId) (cell : BitVec 13) (win : WinId) (slot : SlotId) (region : RegionId) (s : State) (e : Sqe),
       s.turn ref hob.val 5 e = true ∧
       (leAt e.args 8 2 == cell.toNat && leAt e.args 0xA 1 == win.val && leAt e.args 0xB 1 == 16 * slot.val + region.val) = true ∧
       ((s.hob hob.val).st = .stopped ∨ (s.hob hob.val).st = .running) ∧
       (s.hob hob.val).seqMode = true ∧
       cell.toNat < (s.hob hob.val).rect.cells ∧
       (((s.cell (s.posOf hob.val cell.toNat)).slot slot.val).region region.val).valid = true ∧
       (((s.cell (s.posOf hob.val cell.toNat)).slot slot.val).region region.val).landing = true ∧
       ((s.cell (s.posOf hob.val cell.toNat)).win win.val).state = 2 ∧
       ((s.cell (s.posOf hob.val cell.toNat)).win win.val).reopen = none) ∧
    (∃ (ref : CmdRef) (hob : HobId) (cell : BitVec 13) (win : WinId) (s : State) (e : Sqe),
       s.turn ref hob.val 6 e = true ∧
       (leAt e.args 8 2 == cell.toNat && leAt e.args 0xA 1 == win.val) = true ∧
       (s.hob hob.val).st ≠ .free ∧
       cell.toNat < (s.hob hob.val).rect.cells ∧
       ((s.cell (s.posOf hob.val cell.toNat)).win win.val).ending = false) :=
  ⟨⟨W.ref, 0, 0, 0, 64, 0, 1, 0, W.ask .stopped (W.copyEntry 64), W.copyEntry 64, by decide⟩,
    ⟨W.ref, 0, 0, 0, 65, 0, 1, 0, W.ask .stopped (W.copyEntry 65), W.copyEntry 65, by decide⟩,
    ⟨0, 0, [], W.copying, W.copyOne, by decide⟩,
    ⟨0, 0, [], W.copyIn, (W.copyIn.each W.copyTwo.stacksOf State.touchStack), W.copyTwo, by decide, by decide, by decide, by decide, by decide, by rfl⟩,
    ⟨W.ref, 0, 0, 0, 0, 0, W.askWin 0 (W.openEntry), W.openEntry, by decide⟩,
    ⟨W.ref, 0, 0, 0, 0, 0, W.askWin 2 (W.openEntry), W.openEntry, by decide⟩,
    ⟨W.ref, 0, 0, 0, W.askWin 1 (W.closeEntry), W.closeEntry, by decide⟩⟩

/-- Clauses 1, 2, 3, 4, 5, 6, 7, 8, 9, 10 of HobConfigShapesAHob. -/
theorem test_hyp_HobConfigShapesAHob :
    (∃ (ref : CmdRef) (hob : HobId) (x0 y0 w h : Nat) (s : State) (e : Sqe),
       s.turn ref hob.val 10 e = true ∧
       (leAt e.args 8 1 == x0 && leAt e.args 9 1 == y0 && leAt e.args 0xA 1 == w && leAt e.args 0xB 1 == h) = true ∧
       e.sub = 0 ∧
       (s.ring ref.port.val ref.fn.val ref.ring.val).en = true ∧
       s.logFail = false ∧
       s.shapeStatus hob.val { x0 := x0, y0 := y0, w := w, h := h } = 0) ∧
    (∃ (ref : CmdRef) (hob : HobId) (x0 y0 w h : Nat) (s : State) (e : Sqe),
       s.turn ref hob.val 10 e = true ∧
       (leAt e.args 8 1 == x0 && leAt e.args 9 1 == y0 && leAt e.args 0xA 1 == w && leAt e.args 0xB 1 == h) = true ∧
       e.sub = 0 ∧
       s.shapeStatus hob.val { x0 := x0, y0 := y0, w := w, h := h } ≠ 0) ∧
    (∃ (ref : CmdRef) (hob : HobId) (stack extents : Nat) (s : State) (e : Sqe),
       s.turn ref hob.val 10 e = true ∧
       (leAt e.args 8 1 == stack && leAt e.args 0xC 4 == extents) = true ∧
       e.sub = 1 ∧
       s.logFail = false ∧
       s.memoryStatus hob.val stack extents = 0) ∧
    (∃ (ref : CmdRef) (hob : HobId) (gib : Nat) (s : State) (e : Sqe),
       s.turn ref hob.val 10 e = true ∧
       (leAt e.args 8 4 == gib) = true ∧
       e.sub = 2 ∧
       s.logFail = false ∧
       (s.hob hob.val).st ≠ .free ∧
       gib ≤ (s.hob hob.val).grant.pantry.toNat ∧
       ((s.hob hob.val).reported ≠ .ovr ∨ gib ≤ (s.hob hob.val).pantryQ)) ∧
    (∃ (ref : CmdRef) (hob : HobId) (percent : Nat) (s : State) (e : Sqe),
       s.turn ref hob.val 10 e = true ∧
       (leAt e.args 8 1 == percent) = true ∧
       e.sub = 3 ∧
       s.logFail = false ∧
       (s.hob hob.val).st ≠ .free ∧
       percent ≤ 100) ∧
    (∃ (ref : CmdRef) (hob : HobId) (mode : Nat) (s : State) (e : Sqe),
       s.turn ref hob.val 10 e = true ∧
       (leAt e.args 8 1 == mode) = true ∧
       e.sub = 4 ∧
       s.logFail = false ∧
       (s.hob hob.val).st ≠ .free ∧
       mode ≤ 1) ∧
    (∃ (ref : CmdRef) (hob : HobId) (minutes : Nat) (s : State) (e : Sqe),
       s.turn ref hob.val 10 e = true ∧
       (leAt e.args 8 4 == minutes) = true ∧
       e.sub = 5 ∧
       s.logFail = false ∧
       (s.hob hob.val).st ≠ .stopped) ∧
    (∃ (ref : CmdRef) (hob : HobId) (minutes : Nat) (failed : List (Pos × BitVec 12)) (s : State) (e : Sqe),
       s.turn ref hob.val 10 e = true ∧
       (leAt e.args 8 4 == minutes) = true ∧
       e.sub = 5 ∧
       s.logFail = false ∧
       (s.hob hob.val).st = .stopped ∧
       (s.hob hob.val).restore = none) ∧
    (∃ (ref : CmdRef) (hob : HobId) (s : State) (e : Sqe),
       s.turn ref hob.val 11 e = true ∧
       (s.ring ref.port.val ref.fn.val ref.ring.val).en = true ∧
       (s.hob hob.val).st ≠ .free ∧
       (∀ n ∈ s.nums hob.val, (s.cell (s.posOf hob.val n)).wins = [])) ∧
    (∃ (ref : CmdRef) (hob : HobId) (s : State) (e : Sqe) (n : Nat) (w : Nat × Win),
       s.turn ref hob.val 11 e = true ∧
       (s.hob hob.val).st ≠ .free ∧
       n ∈ s.nums hob.val ∧
       w ∈ (s.cell (s.posOf hob.val n)).wins) :=
  ⟨⟨W.ref, 0, 0, 0, 8, 1, W.ask .free (W.shapeEntry), W.shapeEntry, by decide⟩,
    ⟨W.ref, 0, 0, 0, 8, 1, W.ask .running (W.shapeEntry), W.shapeEntry, by decide⟩,
    ⟨W.ref, 0, 0, 2, W.ask .stopped (W.memoryEntry), W.memoryEntry, by decide +kernel⟩,
    ⟨W.ref, 0, 2, W.ask .stopped (W.configEntry 2 2), W.configEntry 2 2, by decide⟩,
    ⟨W.ref, 0, 2, W.ask .stopped (W.configEntry 3 2), W.configEntry 3 2, by decide⟩,
    ⟨W.ref, 0, 1, W.ask .stopped (W.configEntry 4 1), W.configEntry 4 1, by decide⟩,
    ⟨W.ref, 0, 2, W.ask .running (W.configEntry 5 2), W.configEntry 5 2, by decide⟩,
    ⟨W.ref, 0, 2, [], W.ask .stopped (W.configEntry 5 2), W.configEntry 5 2, by decide⟩,
    ⟨W.ref, 0, W.ask .stopped (W.releaseEntry), W.releaseEntry, by decide⟩,
    ⟨W.ref, 0, { W.askWin 1 W.releaseEntry with life := 0 }, W.releaseEntry, 0, (0, { state := 1 }), by decide⟩⟩

/-- Clauses 1, 2, 3, 4, 5, 6, 7, 8, 9 of QueriesAnswerFromTheRegisters. -/
theorem test_hyp_QueriesAnswerFromTheRegisters :
    (∃ (ref : CmdRef) (hob : HobId) (addr len : Nat) (s : State) (e : Sqe),
       s.turn ref hob.val 9 e = true ∧
       queryArgs addr len e.args = true ∧
       e.sub = 0) ∧
    (∃ (ref : CmdRef) (hob : HobId) (addr len : Nat) (s : State) (e : Sqe),
       s.turn ref hob.val 9 e = true ∧
       queryArgs addr len e.args = true ∧
       e.sub = 1) ∧
    (∃ (ref : CmdRef) (hob : HobId) (addr len : Nat) (s : State) (e : Sqe),
       s.turn ref hob.val 9 e = true ∧
       queryArgs addr len e.args = true ∧
       e.sub = 2) ∧
    (∃ (ref : CmdRef) (hob : HobId) (addr len : Nat) (s : State) (e : Sqe),
       s.turn ref hob.val 9 e = true ∧
       queryArgs addr len e.args = true ∧
       e.sub = 3) ∧
    (∃ (ref : CmdRef) (hob : HobId) (addr len : Nat) (s : State) (e : Sqe),
       s.turn ref hob.val 9 e = true ∧
       queryArgs addr len e.args = true ∧
       e.sub = 4) ∧
    (∃ (ref : CmdRef) (hob : HobId) (addr len : Nat) (s : State) (e : Sqe),
       s.turn ref hob.val 9 e = true ∧
       queryArgs addr len e.args = true ∧
       e.sub = 5) ∧
    (∃ (ref : CmdRef) (hob : HobId) (addr len seq : Nat) (s : State) (e : Sqe) (r : Report),
       s.turn ref hob.val 9 e = true ∧
       (queryArgs addr len e.args && leAt e.args 0x18 8 == seq) = true ∧
       e.sub = 6 ∧
       ((s.hob hob.val).reports.find? fun r => r.seq == seq) = some r ∧
       r.bytes.length ≤ len) ∧
    (∃ (ref : CmdRef) (hob : HobId) (addr len seq : Nat) (s : State) (e : Sqe),
       s.turn ref hob.val 9 e = true ∧
       (queryArgs addr len e.args && leAt e.args 0x18 8 == seq) = true ∧
       e.sub = 6 ∧
       ((s.hob hob.val).reports.find? fun r => r.seq == seq) = none) ∧
    (∃ (ref : CmdRef) (hob : HobId) (addr len : Nat) (s : State) (e : Sqe),
       s.turn ref hob.val 9 e = true ∧
       queryArgs addr len e.args = true ∧
       e.sub = 7 ∧
       s.logFail = false) :=
  ⟨⟨W.ref, 0, 0, 64, W.ask .stopped (W.queryEntry 0), W.queryEntry 0, by decide⟩,
    ⟨W.ref, 0, 0, 64, W.ask .stopped (W.queryEntry 1), W.queryEntry 1, by decide⟩,
    ⟨W.ref, 0, 0, 64, W.ask .stopped (W.queryEntry 2), W.queryEntry 2, by decide⟩,
    ⟨W.ref, 0, 0, 64, W.ask .stopped (W.queryEntry 3), W.queryEntry 3, by decide⟩,
    ⟨W.ref, 0, 0, 64, W.ask .stopped (W.queryEntry 4), W.queryEntry 4, by decide⟩,
    ⟨W.ref, 0, 0, 64, W.ask .stopped (W.queryEntry 5), W.queryEntry 5, by decide⟩,
    ⟨W.ref, 0, 0, 64, 5, W.askReport, W.queryEntry 6 5, W.report, by decide⟩,
    ⟨W.ref, 0, 0, 64, 5, W.ask .stopped (W.queryEntry 6 5), W.queryEntry 6 5, by decide⟩,
    ⟨W.ref, 0, 0, 64, W.ask .stopped (W.queryEntry 7), W.queryEntry 7, by decide⟩⟩

/-- Clauses 1, 2, 3, 4, 5, 6, 7, 8 of JarsAreTakenAndSealed. -/
theorem test_hyp_JarsAreTakenAndSealed :
    (∃ (ref : CmdRef) (hob : HobId) (fence : Nat) (s : State) (e : Sqe),
       s.turn ref hob.val 7 e = true ∧
       (leAt e.args 8 8 == fence) = true ∧
       ((s.hob hob.val).st = .stopped ∧ fence = (s.hob hob.val).fenceLast ∨ (s.hob hob.val).st = .running ∧ (s.hob hob.val).fenceLast < fence ∧ (s.hob hob.val).jarPoint fence = true) ∧
       (s.hob hob.val).jarRun = none ∧
       (s.hob hob.val).restore = none ∧
       s.pantry.level ≠ 3 ∧
       s.pantry.up = true ∧
       (s.hob hob.val).jarFits (s.hob hob.val).newSlot (s.newJar hob.val fence 0 0).bytes = true ∧
       s.leads hob.val = true) ∧
    (∃ (ref : CmdRef) (hob : HobId) (fence : Nat) (s : State) (e : Sqe),
       s.turn ref hob.val 7 e = true ∧
       (leAt e.args 8 8 == fence) = true ∧
       s.pantry.level = 3) ∧
    (∃ (hob : HobId) (fence seq : Nat) (slot : Fin 2) (lead : BitVec 13) (s : State),
       ((s.hob hob.val).st = .stopped ∧ fence = (s.hob hob.val).fenceLast ∨ (s.hob hob.val).st = .running ∧ (s.hob hob.val).fenceLast < fence) ∧
       lead.toNat = s.leader hob.val ∧
       s.leads hob.val = false ∧
       (s.hob hob.val).jarRun = none ∧
       (s.hob hob.val).restore = none ∧
       s.pantry.up = true ∧
       s.pantry.level ≠ 3 ∧
       (s.hob hob.val).jarFits slot.val (s.newJar hob.val fence seq 0).bytes = true) ∧
    (∃ (hob : HobId) (s : State),
       s.resets.hearthDown = false ∧
       s.inService = true ∧
       (s.hob hob.val).policy.mode = 0 ∧
       (s.hob hob.val).recipe.isSome = true ∧
       s.leads hob.val = true ∧
       s.pantry.level ≠ 3 ∧
       ((s.hob hob.val).rcp.fences.any fun e => e.jarPoint) = false ∧
       (s.hob hob.val).policy.noPointTold = false) ∧
    (∃ (hob : HobId) (s : State),
       s.resets.hearthDown = false ∧
       s.inService = true ∧
       (s.hob hob.val).policy.mode = 0 ∧
       (s.hob hob.val).recipe.isSome = true ∧
       s.leads hob.val = true ∧
       s.pantry.level ≠ 3 ∧
       ((s.hob hob.val).rcp.fences.any fun e => e.jarPoint) = true ∧
       s.jarIsDue hob.val = true ∧
       (s.hob hob.val).st ≠ .running) ∧
    (∃ (hob : HobId) (member : BitVec 13) (service count factor : Nat) (s : State),
       s.resets.hearthDown = false ∧
       s.leads hob.val = true ∧
       (s.hob hob.val).rcp.peers.contains member.toNat = true) ∧
    (∃ (hob : HobId) (s : State) (r : JarRun),
       (s.hob hob.val).jarRun = some r ∧
       s.pantry.up = true ∧
       r.planned = true ∧
       (s.hob hob.val).cow.draining = true ∧
       r.fence ≤ (s.hob hob.val).fenceLast ∧
       (s.hob hob.val).cow.drained.length = 4096 * ((s.hob hob.val).ext.filter fun e => e.2.valid).length ∧
       (s.hob hob.val).policy.due = false) ∧
    (∃ (hob : HobId) (member : BitVec 13) (costMs : Nat) (s : State),
       s.leads hob.val = true ∧
       (s.hob hob.val).rcp.peers.contains member.toNat = true) :=
  ⟨⟨W.ref, 0, 0, W.ask .stopped (W.jarEntry), W.jarEntry, by decide⟩,
    ⟨W.ref, 0, 0, W.askWorn, W.jarEntry, by decide⟩,
    ⟨0, 0, 4, 1, 2, W.member, by decide⟩,
    ⟨0, W.run, by decide⟩,
    ⟨0, W.jarDue, by decide⟩,
    ⟨0, 9, 1, 2, 3, W.peer, by decide⟩,
    ⟨0, W.sealing, W.jarRun, by decide +kernel⟩,
    ⟨0, 9, 7, W.peer, by decide⟩⟩

/-- Clauses 1, 2, 3, 4, 5, 6, 7, 8, 9, 10, 11 of JarsRestoreAndServePeers. -/
theorem test_hyp_JarsRestoreAndServePeers :
    (∃ (ref : CmdRef) (hob : HobId) (slot : Fin 2) (seq : Nat) (pj : Option Jar) (s : State) (e : Sqe),
       s.turn ref hob.val 8 e = true ∧
       (leAt e.args 8 1 == slot.val && leAt e.args 0xA 2 == 0 && leAt e.args 0x10 8 == seq) = true ∧
       ((s.hob hob.val).st = .stopped ∨ (s.hob hob.val).st = .held) ∧
       (s.hob hob.val).recipe.isSome = true ∧
       (s.hob hob.val).restore = none ∧
       (s.hob hob.val).jarRun = none) ∧
    (∃ (hob : HobId) (s : State) (r : Restore),
       (s.hob hob.val).restore = some r ∧
       ((s.hob hob.val).st = .stopped ∨ (s.hob hob.val).st = .held) ∧
       (s.ring r.ref.port.val r.ref.fn.val r.ref.ring.val).on = true ∧
       (s.ring r.ref.port.val r.ref.fn.val r.ref.ring.val).en = true ∧
       (r.remote && (decide (r.asked < r.blocks) || s.txns.any fun t => t.pool == Pool.lanper && t.kind == TxnKind.copy hob.val)) = false ∧
       (stackNums.any fun k => ((s.hob hob.val).ext.any fun e => e.2.valid && e.1 / 352 == k) && (s.stack k).resetting) = false) ∧
    (∃ (hob : HobId) (ok : Bool) (s : State) (r : Restore),
       (s.hob hob.val).restore = some r ∧
       ((r.remote && ok && (decide (r.asked < r.blocks) || s.txns.any fun t => t.pool == Pool.lanper && t.kind == TxnKind.copy hob.val)) = true ∨
           (stackNums.any fun k => ((s.hob hob.val).ext.any fun e => e.2.valid && e.1 / 352 == k) && (s.stack k).resetting) = true)) ∧
    (∃ (hob : HobId) (s : State) (r : Restore),
       (s.hob hob.val).restore = some r ∧
       ((s.hob hob.val).st = .stopped ∨ (s.hob hob.val).st = .held) ∧
       (s.ring r.ref.port.val r.ref.fn.val r.ref.ring.val).on = true ∧
       (s.ring r.ref.port.val r.ref.fn.val r.ref.ring.val).en = true ∧
       (stackNums.any fun k => ((s.hob hob.val).ext.any fun e => e.2.valid && e.1 / 352 == k) && (s.stack k).resetting) = false) ∧
    (∃ (port : LnpId) (origin : BitVec 13) (hob : HobId) (slot : Fin 2) (off len : Nat) (s : State) (q : BitVec 4),
       (s.lnp port.val).up = true ∧
       (s.lnp port.val).jarAsks = [] ∧
       ((s.takeReq port.val).lnp port.val).served.length < 384 ∧
       s.hearth.routes.get none origin.toNat = some q ∧
       ((s.inService || s.down) && s.pantry.up && s.hearth.peerJars && (s.hob hob.val).aclAllows origin.toNat && ((s.hob hob.val).jars.get {} slot.val).sealed) = true ∧
       len ≤ 4096 ∧
       off + len ≤ ((s.hob hob.val).jars.get {} slot.val).bytes) ∧
    (∃ (port : LnpId) (origin : BitVec 13) (hob : HobId) (slot : Fin 2) (off len : Nat) (s : State) (q : BitVec 4),
       (s.lnp port.val).up = true ∧
       (s.lnp port.val).jarAsks = [] ∧
       ((s.takeReq port.val).lnp port.val).served.length < 384 ∧
       s.hearth.routes.get none origin.toNat = some q ∧
       s.logFail = false ∧
       ((s.inService || s.down) && s.pantry.up && s.hearth.peerJars && (s.hob hob.val).aclAllows origin.toNat && ((s.hob hob.val).jars.get {} slot.val).sealed && decide (len ≤ 4096) && decide (off + len ≤ ((s.hob hob.val).jars.get {} slot.val).bytes)) = false) ∧
    (∃ (port : LnpId) (origin : BitVec 13) (hob : HobId) (slot : Fin 2) (off len : Nat) (s : State),
       (s.lnp port.val).up = true ∧
       (s.lnp port.val).jarAsks = [] ∧
       384 ≤ ((s.takeReq port.val).lnp port.val).served.length) ∧
    (∃ (block permille ageDays : Nat) (s : State),
       s.pantry.up = true ∧
       s.pantry.badBlocks.contains block = false ∧
       permille ≤ 500 ∧
       ageDays ≤ 90) ∧
    (∃ (block permille ageDays : Nat) (s : State),
       s.pantry.up = true ∧
       s.pantry.badBlocks.contains block = false ∧
       (500 < permille ∨ 90 < ageDays) ∧
       permille ≤ 700) ∧
    (∃ (block permille ageDays : Nat) (s : State),
       s.pantry.up = true ∧
       s.pantry.badBlocks.contains block = false ∧
       700 < permille ∧
       s.pantry.weak.contains block = true) ∧
    (∃ (block : Nat) (s : State),
       s.pantry.up = true ∧
       s.pantry.badBlocks.contains block = false) :=
  ⟨⟨W.ref, 0, 0, 0, none, W.ask .stopped (W.restoreEntry), W.restoreEntry, by decide⟩,
    ⟨0, W.restoring, W.restore, by decide⟩,
    ⟨0, true, W.restoringPeer, { W.restore with remote := true, jar := { bytes := 4096 } }, by decide⟩,
    ⟨0, W.restoring, W.restore, by decide⟩,
    ⟨0, 9, 0, 0, 0, 64, W.peerJar, 0, by decide⟩,
    ⟨0, 8, 0, 0, 0, 64, W.peerJar, 0, by decide⟩,
    ⟨0, 9, 0, 0, 0, 64, W.servedFull, by decide +kernel⟩,
    ⟨3, 10, 5, W.run, by decide⟩,
    ⟨3, 600, 5, W.run, by decide⟩,
    ⟨4, 800, 5, W.run, by decide⟩,
    ⟨3, W.run, by decide⟩⟩

/-- Clauses 1, 2, 3, 4, 5, 6, 7, 8, 9, 10, 11, 12, 13, 14, 15 of LanperFramesCount. -/
theorem test_hyp_LanperFramesCount :
    (∃ (port : LnpId) (f : Frame) (decoded tagOk blockOk : Bool) (s : State),
       (s.lnp port.val).up = true ∧
       (s.lnp port.val).accepts f decoded tagOk = true ∧
       (s.lnp port.val).rxQueue = [] ∧
       (s.lnp port.val).rxReq = [] ∧
       (s.lnp port.val).jarAsks = [] ∧
       1 ≤ f.kind.toNat ∧
       f.kind.toNat ≤ 3 ∧
       f.flits ≤ 40 ∧
       f.dest = s.hearth.devIdLive.toNat ∧
       (f.kind = 2 ∨ f.kind = 3 → f.body = [])) ∧
    (∃ (port : LnpId) (f : Frame) (decoded tagOk blockOk : Bool) (s : State),
       (s.lnp port.val).up = true ∧
       (s.lnp port.val).accepts f decoded tagOk = true ∧
       (s.lnp port.val).rxQueue = [] ∧
       (s.lnp port.val).rxReq = [] ∧
       (s.lnp port.val).jarAsks = [] ∧
       f.kind = 2 ∧
       f.flits ≤ 40 ∧
       f.dest = s.hearth.devIdLive.toNat ∧
       f.body ≠ [] ∧
       f.whole = false) ∧
    (∃ (port : LnpId) (f : Frame) (decoded tagOk blockOk : Bool) (s : State) (u : Txn),
       (s.lnp port.val).up = true ∧
       (s.lnp port.val).accepts f decoded tagOk = true ∧
       (s.lnp port.val).rxQueue = [] ∧
       (s.lnp port.val).rxReq = [] ∧
       (s.lnp port.val).jarAsks = [] ∧
       f.kind = 3 ∧
       f.flits ≤ 40 ∧
       f.dest = s.hearth.devIdLive.toNat ∧
       f.body ≠ [] ∧
       (∀ h ∈ hobNums, ((s.hob h).restore.all fun r => !r.remote || decide (r.blocks ≤ r.asked)) = true) ∧
       (s.txns.find? fun t => t.pool == .lanper && !t.write && t.granted && !t.isXng && t.cell == f.origin && t.addr == f.note.getD 1 0 &&
           (match t.kind with
             | .copy _ => true
             | _ => false)) = some u) ∧
    (∃ (port : LnpId) (f : Frame) (decoded tagOk blockOk : Bool) (s : State),
       (s.lnp port.val).up = true ∧
       (s.lnp port.val).accepts f decoded tagOk = true ∧
       (s.lnp port.val).jarAsks = [] ∧
       f.kind = 0 ∧
       f.flits ≤ 40) ∧
    (∃ (port : LnpId) (f : Frame) (decoded tagOk : Bool) (s : State),
       (s.lnp port.val).up = true ∧
       (s.lnp port.val).accepts f decoded tagOk = true ∧
       (s.lnp port.val).jarAsks = [] ∧
       f.kind = 4) ∧
    (∃ (port : LnpId) (f : Frame) (decoded tagOk : Bool) (s : State),
       (s.lnp port.val).up = true ∧
       (s.lnp port.val).accepts f decoded tagOk = false ∧
       f.kind = 4 ∧
       ((s.lnp port.val).naked = false ∨ decoded = false ∨ tagOk = false) ∧
       (s.lnp port.val).needsKey = false) ∧
    (∃ (port : LnpId) (f : Frame) (decoded tagOk : Bool) (named : BitVec 16) (s : State),
       (s.lnp port.val).up = true ∧
       (s.lnp port.val).accepts f decoded tagOk = true ∧
       f.kind = 5 ∧
       (s.lnp port.val).rxQueue = [] ∧
       (s.lnp port.val).rxReq = [] ∧
       (s.lnp port.val).jarAsks = []) ∧
    (∃ (port : LnpId) (f : Frame) (decoded tagOk : Bool) (s : State),
       (s.lnp port.val).up = true ∧
       (s.lnp port.val).accepts f decoded tagOk = true ∧
       f.kind = 6 ∧
       (s.lnp port.val).rxQueue = [] ∧
       (s.lnp port.val).rxReq = [] ∧
       (s.lnp port.val).jarAsks = [] ∧
       s.mayPark port.val = true) ∧
    (∃ (port : LnpId) (f : Frame) (decoded tagOk : Bool) (s : State),
       (s.lnp port.val).up = true ∧
       (s.lnp port.val).accepts f decoded tagOk = true ∧
       f.kind = 6 ∧
       (s.lnp port.val).rxQueue = [] ∧
       (s.lnp port.val).rxReq = [] ∧
       (s.lnp port.val).jarAsks = [] ∧
       s.mayPark port.val = false ∧
       s.logFail = false) ∧
    (∃ (port : LnpId) (f : Frame) (decoded tagOk : Bool) (n : BitVec 16) (e : Nat) (s : State),
       (s.lnp port.val).up = true ∧
       (s.lnp port.val).accepts f decoded tagOk = true ∧
       f.kind = 6 ∧
       (s.lnp port.val).rxQueue = [] ∧
       (s.lnp port.val).rxReq = [] ∧
       (s.lnp port.val).jarAsks = []) ∧
    (∃ (port : LnpId) (f : Frame) (decoded tagOk : Bool) (fib : Fin 4) (lane spare : Fin 9) (n : BitVec 16) (s : State),
       (s.lnp port.val).up = true ∧
       (s.lnp port.val).accepts f decoded tagOk = true ∧
       f.kind = 6 ∧
       (s.lnp port.val).rxQueue = [] ∧
       (s.lnp port.val).rxReq = [] ∧
       (s.lnp port.val).jarAsks = []) ∧
    (∃ (port : LnpId) (f : Frame) (decoded tagOk : Bool) (w : BitVec 4) (bad : List (Fin 4 × Fin 9)) (s : State),
       (s.lnp port.val).up = true ∧
       (s.lnp port.val).accepts f decoded tagOk = true ∧
       f.kind = 6 ∧
       (s.lnp port.val).rxQueue = [] ∧
       (s.lnp port.val).rxReq = [] ∧
       (s.lnp port.val).jarAsks = []) ∧
    (∃ (port : LnpId) (s : State),
       (s.lnp port.val).up = true ∧
       (s.lnp port.val).rxQueue = [] ∧
       (s.lnp port.val).rxReq = [] ∧
       (s.lnp port.val).jarAsks = [] ∧
       (∀ h ∈ hobNums, ((s.hob h).restore.all fun r => !r.remote || decide (r.blocks ≤ r.asked)) = true) ∧
       (s.lnp port.val).needsKey = false ∧
       (s.lnp port.val).txQueue = [] ∧
       s.nextBlock port.val = none) ∧
    (∃ (port : LnpId) (f : Frame) (rest : List Frame) (s : State),
       (s.lnp port.val).up = true ∧
       (s.lnp port.val).rxQueue = [] ∧
       (s.lnp port.val).rxReq = [] ∧
       (s.lnp port.val).jarAsks = [] ∧
       (∀ h ∈ hobNums, ((s.hob h).restore.all fun r => !r.remote || decide (r.blocks ≤ r.asked)) = true) ∧
       (s.lnp port.val).needsKey = false ∧
       (s.lnp port.val).replayBuf.length < 256 ∧
       (s.lnp port.val).txQueue = f :: rest ∧
       (f.kind = 1 → f.origin = s.hearth.devIdLive.toNat →
           ((s.lnp port.val).replayBuf.filter fun g => g.kind == 1 && g.origin == s.hearth.devIdLive.toNat).length < 128) ∧
       f.flits ≤ (s.lnp port.val).credits.get 0 f.kind.toNat ∧
       s.nextBlock port.val = none) ∧
    (∃ (port : LnpId) (s : State),
       (s.lnp port.val).up = true ∧
       (s.lnp port.val).session = true ∧
       (s.lnp port.val).txSwitch.contains (0, (s.lnp port.val).txEpoch + 1) = false ∧
       ((s.lnp port.val).txEpoch + 1) % 65536 = 0) :=
  ⟨⟨0, W.frame 2, true, true, true, W.run, by decide⟩,
    ⟨0, W.part, true, true, true, W.run, by decide⟩,
    ⟨0, { W.part with kind := 3, note := [0, 0, 4096] }, true, true, true, W.withTxn W.jarAnswer, W.jarAnswer, by decide⟩,
    ⟨0, W.frame 0, true, true, true, W.run, by decide⟩,
    ⟨0, W.frame 4, true, true, W.run, by decide⟩,
    ⟨0, W.frame 4, false, true, W.run, by decide⟩,
    ⟨0, W.frame 5, true, true, 0, W.run, by decide⟩,
    ⟨0, W.frame 6, true, true, W.idle, by decide⟩,
    ⟨0, W.frame 6, true, true, W.lit, by decide⟩,
    ⟨0, W.frame 6, true, true, 0, 1, W.run, by decide⟩,
    ⟨0, W.frame 6, true, true, 2, 1, 8, 300, W.run, by decide⟩,
    ⟨0, W.frame 6, true, true, 4, [], W.run, by decide⟩,
    ⟨0, W.run, by decide⟩,
    ⟨0, W.packet, [], W.sendq, by decide⟩,
    ⟨0, W.epoch, by decide⟩⟩

/-- Clauses 1, 2, 3, 4, 5, 6, 7, 8, 9, 10, 11, 12, 13, 14, 15, 16, 17, 18, 19 of LanperPortsTrainAndFail. -/
theorem test_hyp_LanperPortsTrainAndFail :
    (∃ (port : LnpId) (r : TrainResult) (s : State),
       (s.lnp port.val).st = .training ∧
       (s.lnp port.val).retraining = false ∧
       (s.lnp port.val).relighting = false ∧
       (s.lnp port.val).fenced = false ∧
       (s.lnp port.val).resetting = false ∧
       s.boot.warm = false ∧
       4 ≤ ((List.range 4).foldl (fun (x : Lnp) i => x.modFibre i fun f => { f with good := r.lanes.getD i 0 }) (s.lnp port.val)).allowed ∧
       r.peerOk = true ∧
       r.peerTag = s.hearth.sysTag ∧
       r.peerDev ≠ s.hearth.devId ∧
       ((s.lnp port.val).expV = false ∨ r.peerDev = (s.lnp port.val).expDev) ∧
       (s.lnp port.val).park = false) ∧
    (∃ (port : LnpId) (r : TrainResult) (s : State),
       (s.lnp port.val).st = .training ∧
       (s.lnp port.val).retraining = false ∧
       (s.lnp port.val).relighting = false ∧
       (s.lnp port.val).fenced = false ∧
       (s.lnp port.val).resetting = false ∧
       s.boot.warm = false ∧
       ((List.range 4).foldl (fun (x : Lnp) i => x.modFibre i fun f => { f with good := r.lanes.getD i 0 }) (s.lnp port.val)).allowed < 4) ∧
    (∃ (port : LnpId) (r : TrainResult) (s : State),
       (s.lnp port.val).st = .training ∧
       (s.lnp port.val).retraining = false ∧
       (s.lnp port.val).relighting = false ∧
       (s.lnp port.val).fenced = false ∧
       (s.lnp port.val).resetting = false ∧
       s.boot.warm = false ∧
       4 ≤ ((List.range 4).foldl (fun (x : Lnp) i => x.modFibre i fun f => { f with good := r.lanes.getD i 0 }) (s.lnp port.val)).allowed ∧
       (r.peerOk = false ∨ r.peerTag ≠ s.hearth.sysTag ∨ r.peerDev = s.hearth.devId ∨ (s.lnp port.val).expV = true ∧ r.peerDev ≠ (s.lnp port.val).expDev)) ∧
    (∃ (port : LnpId) (s : State),
       (s.lnp port.val).st = .training ∧
       (s.lnp port.val).since + 10000000000 ≤ s.now) ∧
    (∃ (port : LnpId) (fibre : Fin 4) (lane : Fin 9) (s : State),
       (s.lnp port.val).up = true ∧
       2 ≤ fibre.val ∧
       ((s.lnp port.val).fibre fibre.val).good.getLsbD lane.val = true) ∧
    (∃ (port : LnpId) (best : List (List Nat)) (s : State),
       (s.lnp port.val).st = .training ∧
       (s.lnp port.val).retraining = true ∧
       (s.lnp port.val).resetting = false ∧
       (s.lnp port.val).park = false ∧
       4 ≤ min (s.lnp port.val).width.toNat (s.lnp port.val).allowed) ∧
    (∃ (port : LnpId) (s : State),
       (s.lnp port.val).up = true ∧
       (s.lnp port.val).lastAccepted + 10000 ≤ s.now) ∧
    (∃ (port : LnpId) (s : State),
       (s.lnp port.val).st = .down ∧
       (s.lnp port.val).en = true ∧
       (s.lnp port.val).fenced = false ∧
       (s.lnp port.val).resetting = false ∧
       (s.lnp port.val).since + 1000000000 ≤ s.now) ∧
    (∃ (port : LnpId) (s : State),
       (s.lnp port.val).st = .training ∧
       (s.lnp port.val).relighting = true ∧
       (s.lnp port.val).resetting = false) ∧
    (∃ (port : LnpId) (s : State),
       (s.lnp port.val).st = .training ∧
       (s.lnp port.val).relighting = true ∧
       (s.lnp port.val).resetting = false ∧
       (s.lnp port.val).park = false) ∧
    (∃ (port : LnpId) (s : State),
       (s.lnp port.val).parked = true ∧
       s.st ≠ .off ∧
       (s.lnp port.val).fenced = false ∧
       (s.lnp port.val).resetting = false) ∧
    (∃ (port : LnpId) (fibre : Fin 4) (lane : Fin 9) (bias power : Nat) (s : State),
       fibre.val < 2 ∧
       (s.lnp port.val).up = true ∧
       s.resets.hearthDown = false) ∧
    (∃ (port : LnpId) (txn : Nat) (s : State) (u : Txn) (h x r : Nat),
       s.txn txn = some u ∧
       u.pool = .lanper ∧
       u.client = port.val ∧
       u.granted = true ∧
       u.startedAt + s.hearth.rtmo.toNat * 1000000 ≤ s.now ∧
       u.kind = .crossing h x r ∧
       u.write = true) ∧
    (∃ (port : LnpId) (txn : Nat) (s : State) (u : Txn) (h : Nat) (q : BitVec 4),
       s.txn txn = some u ∧
       u.pool = .lanper ∧
       u.client = port.val ∧
       u.granted = true ∧
       u.startedAt + s.hearth.rtmo.toNat * 1000000 ≤ s.now ∧
       u.kind = .copy h ∧
       u.tries < 3 ∧
       u.write = false ∧
       u.data = [] ∧
       s.hearth.routes.get none u.cell = some q) ∧
    (∃ (port : LnpId) (txn : Nat) (s : State) (u : Txn) (h : Nat) (r : Restore),
       s.txn txn = some u ∧
       u.pool = .lanper ∧
       u.client = port.val ∧
       u.granted = true ∧
       u.startedAt + s.hearth.rtmo.toNat * 1000000 ≤ s.now ∧
       u.kind = .copy h ∧
       3 ≤ u.tries ∧
       (s.hob h).restore = some r ∧
       (s.ring r.ref.port.val r.ref.fn.val r.ref.ring.val).on = true) ∧
    (∃ (who : Who) (port : LnpId) (s : State),
       s.mayAct who [.installer] = true) ∧
    (∃ (who : Who) (port : LnpId) (s : State),
       s.mayAct who [.installer] = true) ∧
    (∃ (who : Who) (port : LnpId) (s : State),
       s.mayAct who [.installer] = true ∧
       s.mayPark port.val = true ∧
       (s.lnp port.val).up = true) ∧
    (∃ (who : Who) (port : LnpId) (s : State),
       s.mayAct who [.installer] = true ∧
       (s.lnp port.val).parked = true ∧
       (s.lnp port.val).fenced = false ∧
       (s.lnp port.val).resetting = false) :=
  ⟨⟨0, W.trained, W.training, by decide⟩,
    ⟨0, {}, W.training, by decide⟩,
    ⟨0, { W.trained with peerOk := false }, W.training, by decide⟩,
    ⟨0, W.trainLate, by decide⟩,
    ⟨0, 2, 1, W.run, by decide⟩,
    ⟨0, [], W.retraining, by decide⟩,
    ⟨0, W.silent, by decide⟩,
    ⟨0, W.downPort, by decide⟩,
    ⟨0, W.relighting, by decide⟩,
    ⟨0, W.relighting, by decide⟩,
    ⟨0, W.parked, by decide⟩,
    ⟨0, 0, 1, 1600, 900, W.run, by decide⟩,
    ⟨0, 0, W.rtmo, W.rtmoSend, 0, 1, 0, by decide⟩,
    ⟨0, 1, W.rtmo, W.rtmoJar, 0, 0, by decide⟩,
    ⟨0, 2, W.rtmo, W.rtmoLast, 0, W.restore, by decide⟩,
    ⟨W.who, 0, W.run, by decide⟩,
    ⟨W.who, 0, W.run, by decide⟩,
    ⟨W.who, 0, W.whoIdle, by decide⟩,
    ⟨W.who, 1, W.whoIdle, by decide⟩⟩

/-- Clauses 1, 2, 3, 4, 5, 6, 7, 8, 9, 10, 11, 12 of HangsAreAnsweredWithResets. -/
theorem test_hyp_HangsAreAnsweredWithResets :
    (∃ (cell : Pos) (s : State) (h : Nat),
       (s.cell cell.idx).hob = some h ∧
       h < 8 ∧
       (s.hob h).runs = true ∧
       (s.hob h).seqMode = false ∧
       s.st ≠ .off ∧
       s.resets.hearthDown = false ∧
       s.ashRun = none ∧
       s.inReset 0 cell.idx = false) ∧
    (∃ (cell : Pos) (s : State) (h : Nat),
       (s.cell cell.idx).hob = some h ∧
       h < 8 ∧
       (s.hob h).runs = true ∧
       (s.hob h).seqMode = false ∧
       s.st ≠ .off ∧
       s.resets.hearthDown = true ∧
       s.inReset 0 cell.idx = false) ∧
    (∃ (cell : Pos) (s : State),
       (s.pos cell.idx).state.backs = true ∧
       s.down = false ∧
       s.st ≠ .off ∧
       s.resets.hearthDown = false ∧
       s.ashRun = none ∧
       s.inReset 0 cell.idx = false) ∧
    (∃ (i target : Nat) (s : State) (b : Broadcast),
       (s.broadcasts.find? fun b => b.id == i) = some b ∧
       b.targets.contains target = true ∧
       b.startedAt + 100000000 ≤ s.now ∧
       (s.pos (s.bcastPos b target)).state ≠ .lidded ∧
       (s.pos (s.bcastPos b target)).state ≠ .fusedOff ∧
       s.st ≠ .off ∧
       s.resets.hearthDown = false ∧
       s.ashRun = none ∧
       s.inReset 0 (s.bcastPos b target) = false) ∧
    (∃ (q : Quarter) (s : State),
       s.down = false ∧
       s.st ≠ .off ∧
       s.resets.hearthDown = false ∧
       s.ashRun = none) ∧
    (∃ (stack : StackId) (s : State),
       (s.stack stack.val).pwr ≠ .off ∧
       s.st ≠ .off ∧
       s.resets.hearthDown = false ∧
       s.ashRun = none ∧
       s.inReset 2 stack.val = false) ∧
    (∃ (port : LnpId) (s : State),
       (s.lnp port.val).fenced = false ∧
       s.st ≠ .off ∧
       s.resets.hearthDown = false ∧
       s.ashRun = none ∧
       s.inReset 3 port.val = false) ∧
    (∃ (port : HPort) (s : State),
       (s.host port.val).fenced = false ∧
       s.st ≠ .off ∧
       s.resets.hearthDown = false ∧
       s.ashRun = none ∧
       s.inReset 4 port.val = false) ∧
    (∃ (hob : HobId) (s : State),
       ((s.hob hob.val).st = .running ∨ (s.hob hob.val).st = .held) ∧
       s.resets.hearthDown = false ∧
       s.ashRun = none) ∧
    (∃ (s : State),
       s.down = false ∧
       s.st ≠ .off ∧
       s.resets.hearthDown = false ∧
       s.ashRun = none ∧
       (s.resets.pathCounted && s.resets.running.any fun r => r.1 == 7) = false ∧
       (s.resets.counted.filter fun t => decide (s.lifeMs < t + s.resets.whours.toNat * 3600000)).length + 1 < s.resets.wcount.toNat) ∧
    (∃ (s : State),
       s.st ≠ .off ∧
       s.resets.hearthDown = false) ∧
    (∃ (s : State),
       s.st ≠ .off ∧
       s.resets.hearthDown = false) :=
  ⟨⟨{}, W.run, 0, by decide⟩,
    ⟨{}, W.away, 0, by decide⟩,
    ⟨{}, W.run, by decide⟩,
    ⟨1, 0, W.bcastOld, W.bcOld, by decide⟩,
    ⟨0, W.run, by decide⟩,
    ⟨0, W.run, by decide⟩,
    ⟨0, W.run, by decide⟩,
    ⟨0, W.run, by decide⟩,
    ⟨0, W.run, by decide⟩,
    ⟨W.run, by decide⟩,
    ⟨W.run, by decide⟩,
    ⟨W.run, by decide⟩⟩

/-- Clauses 1, 2, 3, 4, 5, 6, 7, 8, 9, 10, 11, 12, 13, 14, 15, 16, 17 of UnitResetsClearAndComplete. -/
theorem test_hyp_UnitResetsClearAndComplete :
    (∃ (cell : Pos) (s : State),
       (s.pos cell.idx).state.backs = true ∧
       s.down = false ∧
       s.st ≠ .off ∧
       s.resets.hearthDown = false ∧
       s.ashRun = none ∧
       s.inReset 0 cell.idx = false) ∧
    (∃ (cell : Pos) (imageOk : Bool) (s : State),
       s.inReset 0 cell.idx = true ∧
       s.resets.hearthDown = false ∧
       (s.pos cell.idx).state ≠ .fusedOff) ∧
    (∃ (cell : Pos) (imageOk : Bool) (s : State),
       s.inReset 0 cell.idx = true ∧
       s.resets.hearthDown = false) ∧
    (∃ (r : Rack) (s : State),
       s.down = false ∧
       s.st ≠ .off ∧
       s.resets.hearthDown = false ∧
       s.ashRun = none ∧
       s.inReset 1 r.idx = false) ∧
    (∃ (r : Rack) (imageOk : Bool) (s : State),
       s.inReset 1 r.idx = true ∧
       s.resets.hearthDown = false) ∧
    (∃ (q : Quarter) (s : State),
       s.down = false ∧
       s.st ≠ .off ∧
       s.resets.hearthDown = false ∧
       s.ashRun = none ∧
       s.inReset 5 q.val = false) ∧
    (∃ (q : Quarter) (imageOk : Bool) (s : State),
       s.inReset 5 q.val = true ∧
       s.resets.hearthDown = false) ∧
    (∃ (hob : HobId) (s : State),
       (s.hob hob.val).st ≠ .free ∧
       s.resets.hearthDown = false ∧
       s.ashRun = none ∧
       s.inReset 6 hob.val = false) ∧
    (∃ (hob : HobId) (s : State),
       s.inReset 6 hob.val = true) ∧
    (∃ (cell : Pos) (s : State),
       s.gapPos cell.rack = cell.idx ∧
       s.bridged cell.idx = false ∧
       s.down = false ∧
       s.st ≠ .off ∧
       s.resets.hearthDown = false) ∧
    (∃ (port : LnpId) (s : State),
       (s.lnp port.val).fenced = false ∧
       s.st ≠ .off ∧
       s.resets.hearthDown = false ∧
       s.ashRun = none ∧
       s.inReset 3 port.val = false) ∧
    (∃ (port : LnpId) (s : State),
       s.inReset 3 port.val = true) ∧
    (∃ (port : HPort) (s : State),
       (s.host port.val).fenced = false ∧
       s.st ≠ .off ∧
       s.resets.hearthDown = false ∧
       s.ashRun = none ∧
       s.inReset 4 port.val = false) ∧
    (∃ (port : HPort) (s : State),
       s.inReset 4 port.val = true) ∧
    (∃ (stack : StackId) (s : State),
       (s.stack stack.val).pwr ≠ .off ∧
       (s.stack stack.val).resetting = false ∧
       s.resets.hearthDown = false ∧
       s.ashRun = none ∧
       s.inReset 2 stack.val = false) ∧
    (∃ (stack : StackId) (s : State),
       (s.stack stack.val).resetting = true) ∧
    (∃ (stack : StackId) (s : State),
       (s.stack stack.val).resetting = true ∧
       (∀ h ∈ hobNums, (s.hob h).fills = [])) :=
  ⟨⟨{}, W.run, by decide⟩,
    ⟨{}, true, W.resetting, by decide⟩,
    ⟨{}, true, W.resetting, by decide⟩,
    ⟨{}, W.run, by decide⟩,
    ⟨{}, true, W.resetting, by decide⟩,
    ⟨0, W.run, by decide⟩,
    ⟨0, true, W.resetting, by decide⟩,
    ⟨0, W.run, by decide⟩,
    ⟨0, W.resetting, by decide⟩,
    ⟨{ px := 8 }, W.run, by decide⟩,
    ⟨0, W.run, by decide⟩,
    ⟨0, W.resetting, by decide⟩,
    ⟨0, W.run, by decide⟩,
    ⟨0, W.resetting, by decide⟩,
    ⟨0, W.run, by decide⟩,
    ⟨0, W.resetting, by decide⟩,
    ⟨0, W.resetting, by decide⟩⟩

/-- Clauses 1, 2, 3, 4, 5, 6, 7, 8, 9, 10, 11, 12 of DeviceResetsAreCountedAndDone. -/
theorem test_hyp_DeviceResetsAreCountedAndDone :
    (∃ (why : Fin 14) (s : State),
       s.down = false ∧
       s.st ≠ .off ∧
       s.resets.hearthDown = false ∧
       s.ashRun = none ∧
       (s.resets.pathCounted && s.resets.running.any fun r => r.1 == 7) = false ∧
       (s.resets.counted.filter fun t => decide (s.lifeMs < t + s.resets.whours.toNat * 3600000)).length + 1 < s.resets.wcount.toNat) ∧
    (∃ (why : Fin 14) (s : State),
       s.down = false ∧
       s.st ≠ .off ∧
       s.resets.hearthDown = false ∧
       s.ashRun = none ∧
       (s.resets.pathCounted && s.resets.running.any fun r => r.1 == 7) = false ∧
       s.resets.wcount.toNat ≤ (s.resets.counted.filter fun t => decide (s.lifeMs < t + s.resets.whours.toNat * 3600000)).length + 1) ∧
    (∃ (why : Fin 14) (s : State),
       s.down = false ∧
       s.st ≠ .off ∧
       s.resets.hearthDown = false ∧
       s.ashRun = none ∧
       (s.resets.pathCounted && s.resets.running.any fun r => r.1 == 7) = false ∧
       (s.resets.counted.filter fun t => decide (s.lifeMs < t + s.resets.whours.toNat * 3600000)).length + 1 < s.resets.wcount.toNat) ∧
    (∃ (why : Fin 14) (s : State),
       s.down = false ∧
       s.st ≠ .off ∧
       s.resets.hearthDown = false ∧
       s.ashRun = none ∧
       (s.resets.pathCounted && s.resets.running.any fun r => r.1 == 7) = false ∧
       s.resets.wcount.toNat ≤ (s.resets.counted.filter fun t => decide (s.lifeMs < t + s.resets.whours.toNat * 3600000)).length + 1) ∧
    (∃ (ms : Nat) (s : State) (a : AshRun),
       s.ashRun = some a ∧
       a.waiting = [] ∧
       s.resets.hearthDown = false) ∧
    (∃ (ms w : Nat) (s : State) (a : AshRun),
       s.ashRun = some a ∧
       a.waiting = [(7, 0, w)] ∧
       s.resets.hearthDown = false) ∧
    (∃ (ms w : Nat) (s : State) (a : AshRun),
       s.ashRun = some a ∧
       a.waiting = [(8, 0, w)] ∧
       s.resets.hearthDown = false) ∧
    (∃ (ms d w : Nat) (s : State) (a : AshRun),
       s.ashRun = some a ∧
       (d = 14 ∨ d = 15) ∧
       a.waiting = [(d, 0, w)] ∧
       s.resets.hearthDown = false) ∧
    (∃ (i : Nat) (s : State) (r : Nat × Nat × Nat),
       (s.resets.running.find? fun r => r.1 == 0 && r.2.1 == i) = some r ∧
       r.2.2 + 100000 ≤ s.now ∧
       s.resets.hearthDown = false ∧
       (s.pos i).state ≠ .fusedOff) ∧
    (∃ (i : Nat) (s : State) (r : Nat × Nat × Nat),
       (s.resets.running.find? fun r => r.1 == 3 && r.2.1 == i) = some r ∧
       r.2.2 + 10000000 ≤ s.now ∧
       s.resets.hearthDown = false) ∧
    (∃ (s : State),
       s.st ≠ .off ∧
       s.resets.hearthDown = false) ∧
    (∃ (s : State),
       (s.resets.running.any fun r => r.1 == 9) = true ∧
       s.resets.hearthHeld = false ∧
       s.fw.recovery = false ∧
       (s.fw.boot true true).recovery = false ∧
       s.st ≠ .bringup ∧
       s.resets.queued = [] ∧
       (∀ h ∈ hobNums, (s.hob h).awaits = none)) :=
  ⟨⟨1, W.run, by decide⟩,
    ⟨1, W.counted, by decide⟩,
    ⟨1, W.run, by decide⟩,
    ⟨1, W.counted, by decide⟩,
    ⟨5, W.ash, W.ashRun, by decide⟩,
    ⟨5, 10, W.ashWarm, { waiting := [(7, 0, 10)] }, by decide⟩,
    ⟨5, 10, W.ashCold, { waiting := [(8, 0, 10)] }, by decide⟩,
    ⟨5, 14, 0, W.ashEmber, { waiting := [(14, 0, 0)] }, by decide⟩,
    ⟨0, W.resetLate, (0, 0, 0), by decide⟩,
    ⟨0, W.resetLate, (3, 0, 0), by decide⟩,
    ⟨W.run, by decide⟩,
    ⟨W.hearthBack, by decide⟩⟩

/-- Clauses 1, 2, 3, 4, 5, 6, 7, 8, 9 of ResetCommandsAndAsh. -/
theorem test_hyp_ResetCommandsAndAsh :
    (∃ (who : Who) (s : State),
       s.mayAct who [.installer, .maker] = true ∧
       s.down = false ∧
       s.ashRun = none) ∧
    (∃ (who : Who) (s : State),
       s.mayAct who [.installer, .maker] = true ∧
       s.down = false ∧
       s.ashRun = none) ∧
    (∃ (who : Who) (s : State),
       s.mayAct who [.installer, .maker] = true ∧
       s.down = true ∧
       s.ashRun = none) ∧
    (∃ (who : Who) (s : State),
       s.mayAct who [.installer, .maker] = true ∧
       s.ashRun = none) ∧
    (∃ (who : Who) (arg : BitVec 28) (s : State),
       s.mayAct who [.installer, .maker] = true ∧
       (s.ashes.any fun a => a.seq % 2 ^ 28 == arg.toNat) = true) ∧
    (∃ (who : Who) (s : State),
       s.mayAct who [.installer, .maker] = true) ∧
    (∃ (domain : BitVec 8) (cause : Fin 14) (s : State),
       s.st ≠ .off ∧
       s.resets.hearthDown = false ∧
       s.ashRun = none) ∧
    (∃ (kind : Fin 10) (i : Nat) (s : State) (a : AshRun),
       s.ashRun = some a ∧
       a.ash.covers (kind.val, i) = true ∧
       (a.ash.units.any fun u => u.1 == kind.val && u.2.1 == i) = false) ∧
    (∃ (who : Who) (q : Nat) (s : State) (a : Ash),
       s.st ≠ .off ∧
       s.resets.hearthDown = false ∧
       s.authorised who [.installer, .maker] = true ∧
       (s.ashes.find? fun a => a.seq == q) = some a) :=
  ⟨⟨W.who, W.run, by decide⟩,
    ⟨W.who, W.run, by decide⟩,
    ⟨W.who, W.whoEmber, by decide⟩,
    ⟨W.who, W.run, by decide⟩,
    ⟨W.who, 1, W.whoAsh, by decide⟩,
    ⟨W.who, W.whoAsh, by decide⟩,
    ⟨6, 3, W.run, by decide⟩,
    ⟨3, 2, W.ash, W.ashRun, by decide⟩,
    ⟨W.who, 1, W.whoAsh, W.oneAsh, by decide⟩⟩

/-- Clauses 1, 2, 3, 4, 5, 6, 7, 8, 9, 10, 11 of PowerAndBringUpAdvance. -/
theorem test_hyp_PowerAndBringUpAdvance :
    (∃ (s : State),
       s.pins.pwrgd = false) ∧
    (∃ (s : State),
       s.pins.pwrgd = true) ∧
    (∃ (mv : Nat) (s : State),
       s.pins.pwrgd = true ∧
       (mv < 36000 ∨ 62000 < mv)) ∧
    (∃ (s : State),
       s.damper.mclk ≠ 0) ∧
    (∃ (okA okB copies : Bool) (s : State),
       s.inStage 1 = true ∧
       (if s.st = .off then s.bootHearth okA okB else s).fw.recovery = false ∧
       s.resets.oosSticky = false) ∧
    (∃ (s : State),
       s.inStage 2 = true) ∧
    (∃ (s : State),
       s.inStage 2 = true ∧
       s.resets.railFault = false) ∧
    (∃ (bad : List (StackId × Nat)) (copyOk : Bool) (badS0 badS6 : List Nat) (s : State),
       s.inStage 3 = true) ∧
    (∃ (results : List (LnpId × TrainResult)) (s : State),
       s.inStage 4 = true) ∧
    (∃ (fuse : FuseRead) (failed : List (Pos × BitVec 12)) (wires : List (Pos × Fin 23 × List Nat)) (s : State),
       s.inStage 5 = true ∧
       (s.broadcasts.any fun b => b.hob.isNone) = false) ∧
    (∃ (s : State),
       s.inStage 6 = true) :=
  ⟨⟨W.off, by decide⟩,
    ⟨W.run, by decide⟩,
    ⟨30000, W.run, by decide⟩,
    ⟨W.run, by decide⟩,
    ⟨true, true, true, W.stage 1, by decide⟩,
    ⟨W.stage 2, by decide⟩,
    ⟨W.stage 2, by decide⟩,
    ⟨[], true, [], [], W.stage 3, by decide⟩,
    ⟨[], W.stage 4, by decide⟩,
    ⟨{}, [], [], W.stage 5, by decide⟩,
    ⟨W.stage 6, by decide⟩⟩

/-- Clauses 1, 2, 3, 4, 5, 6, 7, 8, 9, 10, 11, 12, 13 of TheDamperHoldsPowerAndHeat. -/
theorem test_hyp_TheDamperHoldsPowerAndHeat :
    (∃ (s : State),
       s.damper.mclk ≠ 0 ∧
       s.resets.hearthDown = false ∧
       s.damper.above = true ∧
       s.damper.thermalHold = false) ∧
    (∃ (q : Quarter) (s : State),
       s.damper.mclk ≠ 0) ∧
    (∃ (s : State),
       s.damper.cap = true ∧
       s.damper.capUntil ≤ s.now) ∧
    (∃ (s : State),
       s.damper.mclk ≠ 0 ∧
       s.resets.hearthDown = false) ∧
    (∃ (s : State) (f : Nat),
       s.damper.hotSince = some f ∧
       f + 100000000 ≤ s.now ∧
       400 < s.damper.tjmax.toNat ∧
       s.damper.thermalHold = false ∧
       s.resets.hearthDown = false) ∧
    (∃ (r : Rack) (s : State),
       s.damper.mclk ≠ 0 ∧
       420 ≤ s.sensors.rack.get 0 r.idx) ∧
    (∃ (s : State),
       s.resets.tripped = true ∧
       s.st = .hearthUp ∧
       (s.resets.running.any fun r => r.1 == 8) = false ∧
       s.ashRun = none ∧
       s.resets.hearthDown = false ∧
       ((∀ i ∈ List.range 768, s.sensors.rack.get 0 i < 240)) ∧
       (s.resets.pathCounted && s.resets.running.any fun r => r.1 == 7) = false ∧
       (s.resets.counted.filter fun t => decide (s.lifeMs < t + s.resets.whours.toNat * 3600000)).length + 1 < s.resets.wcount.toNat) ∧
    (∃ (r : Rack) (v v2 : Nat) (s : State),
       s.pins.pwrgd = true ∧
       s.resets.hearthDown = false) ∧
    (∃ (k : StackId) (v v2 : Nat) (s : State),
       s.pins.pwrgd = true ∧
       s.resets.hearthDown = false) ∧
    (∃ (p : LnpId) (v v2 : Nat) (s : State),
       s.pins.pwrgd = true ∧
       s.resets.hearthDown = false) ∧
    (∃ (i : Fin 288) (v v2 : Nat) (s : State),
       s.pins.pwrgd = true ∧
       s.resets.hearthDown = false) ∧
    (∃ (i : Fin 9) (v v2 : Nat) (s : State),
       s.pins.pwrgd = true ∧
       s.resets.hearthDown = false) ∧
    (∃ (v v2 : Nat) (s : State),
       s.pins.pwrgd = true ∧
       s.resets.hearthDown = false ∧
       v < 4096 ∧
       v2 < 4096) :=
  ⟨⟨W.hot, by decide⟩,
    ⟨0, W.run, by decide⟩,
    ⟨W.capped, by decide⟩,
    ⟨W.hot, by decide⟩,
    ⟨W.hot, 0, by decide⟩,
    ⟨{}, W.hot, by decide⟩,
    ⟨W.tripped, by decide +kernel⟩,
    ⟨{}, 300, 0, W.run, by decide⟩,
    ⟨0, 90, 0, W.run, by decide⟩,
    ⟨0, 70, 0, W.run, by decide⟩,
    ⟨0, 1000, 900, W.run, by decide⟩,
    ⟨0, 48000, 10, W.run, by decide⟩,
    ⟨3000, 2500, W.run, by decide⟩⟩

/-- Clauses 1, 2, 3, 4, 5, 6, 7, 8 of IdleLogAndWindowsMoveOn. -/
theorem test_hyp_IdleLogAndWindowsMoveOn :
    (∃ (s : State),
       s.cfgs.idlEn = true ∧
       s.cfgs.idlIn = false ∧
       s.inService = true ∧
       s.resets.hearthDown = false ∧
       s.busy = false ∧
       s.cfgs.idleSince + s.cfgs.idlDwell.toNat * 1000000000 ≤ s.now) ∧
    (∃ (who : Who) (s : State),
       s.mayAct who [.installer] = true) ∧
    (∃ (who : Who) (s : State),
       s.mayAct who [.installer] = true) ∧
    (∃ (s : State),
       s.st ≠ .off ∧
       s.resets.hearthDown = false ∧
       s.logFail = false) ∧
    (∃ (who : Who) (s : State),
       s.mayAct who [.installer, .maker] = true) ∧
    (∃ (start len : Nat) (s : State),
       s.avl.pending = some (start, len) ∧
       start ≤ s.lifeS ∧
       s.avl.windowUntil = none ∧
       s.resets.hearthDown = false) ∧
    (∃ (u : Nat) (s : State),
       s.avl.windowUntil = some u ∧
       u ≤ s.life ∧
       s.resets.hearthDown = false) ∧
    (∃ (s : State),
       s.avl.started = true ∧
       31536000000000000 ≤ s.avl.poweredNs ∧
       s.resets.hearthDown = false) :=
  ⟨⟨W.idleDue, by decide⟩,
    ⟨W.who, W.run, by decide⟩,
    ⟨W.who, W.run, by decide⟩,
    ⟨W.run, by decide⟩,
    ⟨W.who, W.run, by decide⟩,
    ⟨0, 60, W.windowDue, by decide⟩,
    ⟨0, W.windowOver, by decide⟩,
    ⟨W.yearDue, by decide⟩⟩

/-- Clauses 1, 2, 3, 4, 5, 6, 7, 8, 9, 10, 11 of InstallersConfigureTheModule. -/
theorem test_hyp_InstallersConfigureTheModule :
    (∃ (who : Who) (key : Nat) (sysTag : BitVec 48) (devId : BitVec 13) (s : State),
       s.st ≠ .off ∧
       s.resets.hearthDown = false ∧
       s.logFail = false ∧
       s.hearth.owned = false) ∧
    (∃ (who : Who) (hob : HobId) (g : Grant) (s : State),
       s.mayAct who [.installer] = true ∧
       s.grantRefused hob.val g = 0) ∧
    (∃ (who : Who) (hob : HobId) (cred : Nat) (s : State),
       s.mayAct who [.installer] = true) ∧
    (∃ (who : Who) (hob : HobId) (stack : StackId) (on : Bool) (bw : BitVec 5) (s : State),
       s.mayAct who [.installer] = true ∧
       ((hobNums.filter fun g => g != hob.val).foldl (fun n g => n + ((s.hob g).rsv.get {} stack.val).bw.toNat) 0) + bw.toNat ≤ 28) ∧
    (∃ (who : Who) (hob : HobId) (stack : StackId) (on : Bool) (bw : BitVec 5) (s : State),
       s.mayAct who [.installer] = true ∧
       28 < ((hobNums.filter fun g => g != hob.val).foldl (fun n g => n + ((s.hob g).rsv.get {} stack.val).bw.toNat) 0) + bw.toNat) ∧
    (∃ (who : Who) (v : W32) (s : State),
       s.mayAct who [.installer] = true ∧
       1000 ≤ bits 31 20 v.toNat ∧
       bits 31 20 v.toNat ≤ 3800 ∧
       800 ≤ bits 19 9 v.toNat ∧
       bits 19 9 v.toNat ≤ 1600) ∧
    (∃ (who : Who) (v : W32) (s : State),
       s.mayAct who [.installer] = true ∧
       (bits 31 20 v.toNat < 1000 ∨ 3800 < bits 31 20 v.toNat ∨ bits 19 9 v.toNat < 800 ∨ 1600 < bits 19 9 v.toNat)) ∧
    (∃ (who : Who) (len : Nat) (s : State),
       s.mayAct who [.installer] = true ∧
       60 ≤ len ∧
       len ≤ 86400 ∧
       s.avl.windowUntil = none) ∧
    (∃ (who : Who) (start len : Nat) (s : State),
       s.mayAct who [.installer] = true ∧
       (len < 60 ∨ 86400 < len)) ∧
    (∃ (who : Who) (lic : Licence) (s : State),
       s.mayAct who [.installer] = true ∧
       lic.fieldsOk = true ∧
       (s.hearth.licences.any fun l => l.id == lic.id) = false ∧
       s.hearth.licences.length < 32) ∧
    (∃ (who : Who) (i : Nat) (s : State),
       s.mayAct who [.installer] = true ∧
       s.hearth.licences.any (fun l => l.id == i) = true ∧
       s.covered (s.hearth.licences.filter fun l => l.id != i) = true) :=
  ⟨⟨W.who, 1, 2, 3, W.unowned, by decide⟩,
    ⟨W.who, 0, (W.run.hob 0).grant, W.run, by decide⟩,
    ⟨W.who, 0, 5, W.run, by decide⟩,
    ⟨W.who, 0, 0, true, 4, W.run, by decide⟩,
    ⟨W.who, 0, 0, true, 29, W.run, by decide⟩,
    ⟨W.who, 0xED8BB800, W.run, by decide⟩,
    ⟨W.who, 0, W.run, by decide⟩,
    ⟨W.who, 60, W.run, by decide⟩,
    ⟨W.who, 0, 59, W.run, by decide⟩,
    ⟨W.who, { id := 9 }, W.run, by decide⟩,
    ⟨W.who, 7, W.run, by decide⟩⟩

/-- Clauses 1, 2, 3, 4, 5, 6, 7, 8, 9, 10, 11 of MakersActUnderTokens. -/
theorem test_hyp_MakersActUnderTokens :
    (∃ (who : Who) (nonce : Nat) (permits : BitVec 16) (lifeMs : Nat) (sigOk serialOk : Bool) (s : State),
       s.mayAct who [.maker] = true ∧
       s.hearth.tokensUsed.contains nonce = true) ∧
    (∃ (who : Who) (nonce : Nat) (permits : BitVec 16) (lifeMs : Nat) (s : State),
       s.mayAct who [.maker] = true ∧
       s.hearth.tokensUsed.contains nonce = false ∧
       (s.hearth.tokens.any fun t => t.1 == nonce) = false ∧
       lifeMs ≤ 86400000) ∧
    (∃ (nonce : Nat) (s : State),
       s.st ≠ .off ∧
       s.resets.hearthDown = false ∧
       s.tokenOk nonce 0x0201 = true ∧
       s.logFail = false ∧
       s.allFree = true) ∧
    (∃ (who : Who) (nonce : Nat) (bad : List Pos) (s : State),
       s.mayAct who [.maker] = true ∧
       s.tokenOk nonce 0x0202 = true) ∧
    (∃ (who : Who) (nonce version : Nat) (s : State),
       s.mayAct who [.maker] = true ∧
       s.tokenOk nonce 0x0203 = true) ∧
    (∃ (who : Who) (nonce : Nat) (cell : Pos) (s : State),
       s.mayAct who [.maker] = true ∧
       s.tokenOk nonce 0x0204 = true) ∧
    (∃ (who : Who) (nonce : Nat) (keys : List Nat) (s : State),
       s.mayAct who [.maker] = true ∧
       s.tokenOk nonce 0x0205 = true) ∧
    (∃ (who : Who) (nonce : Nat) (keys : List Nat) (s : State),
       s.mayAct who [.maker] = true ∧
       s.tokenOk nonce 0x0205 = false) ∧
    (∃ (who : Who) (nonce : Nat) (bad : List Pos) (sigOk : Bool) (s : State),
       s.mayAct who [.maker] = true ∧
       s.tokenOk nonce 0x0202 = false) ∧
    (∃ (who : Who) (nonce version : Nat) (sigOk : Bool) (s : State),
       s.mayAct who [.maker] = true ∧
       s.tokenOk nonce 0x0203 = false) ∧
    (∃ (who : Who) (nonce : Nat) (cell : Pos) (s : State),
       s.mayAct who [.maker] = true ∧
       s.tokenOk nonce 0x0204 = false) :=
  ⟨⟨W.maker, 8, 1, 5, true, true, W.spent, by decide⟩,
    ⟨W.maker, 5, 0x10, 1000, W.run, by decide⟩,
    ⟨6, W.token, by decide⟩,
    ⟨W.maker, 6, [], W.token, by decide⟩,
    ⟨W.maker, 6, 2, W.token, by decide⟩,
    ⟨W.maker, 6, {}, W.token, by decide⟩,
    ⟨W.maker, 6, [3], W.token, by decide⟩,
    ⟨W.maker, 6, [3], W.run, by decide⟩,
    ⟨W.maker, 6, [], true, W.run, by decide⟩,
    ⟨W.maker, 6, 2, true, W.run, by decide⟩,
    ⟨W.maker, 6, {}, W.run, by decide⟩⟩

/-- Clauses 1, 2, 3, 4, 5, 6, 7, 8, 9, 10, 11, 12, 13, 14, 15 of FirmwareUpdatesFollowTheirStages. -/
theorem test_hyp_FirmwareUpdatesFollowTheirStages :
    (∃ (s : State),
       s.pldmUp = true) ∧
    (∃ (s : State),
       s.pldmUp = true) ∧
    (∃ (s : State),
       s.pldmUp = true) ∧
    (∃ (who : Who) (s : State),
       s.mayAct who [.installer] = true ∧
       s.fw.recovery = false ∧
       s.fw.updating = false) ∧
    (∃ (who : Who) (s : State),
       s.pldmUp = true ∧
       s.fw.updating = true) ∧
    (∃ (who : Who) (comps : List Nat) (s : State),
       s.mayAct who [.installer] = true ∧
       s.fw.recovery = false ∧
       s.fw.updating = true ∧
       s.fw.stage = 0 ∧
       (comps.all fun c => decide (1 ≤ c ∧ c ≤ 3)) = true) ∧
    (∃ (who : Who) (comp size : Nat) (svn : BitVec 8) (s : State),
       s.mayAct who [.installer] = true ∧
       s.fw.recovery = false ∧
       s.fw.updating = true ∧
       (s.fw.stage = 0 ∨ s.fw.stage = 4) ∧
       s.fw.comps.contains comp = true) ∧
    (∃ (who : Who) (bytes : Nat) (s : State),
       s.mayAct who [.installer] = true ∧
       s.fw.recovery = false ∧
       s.fw.stage = 1 ∧
       64 ≤ bytes ∧
       bytes ≤ 4096 ∧
       s.fw.received + bytes < s.fw.compSize) ∧
    (∃ (who : Who) (bytes : Nat) (s : State),
       s.mayAct who [.installer] = true ∧
       s.fw.recovery = false ∧
       s.fw.stage = 1 ∧
       64 ≤ bytes ∧
       bytes ≤ 4096 ∧
       s.fw.compSize ≤ s.fw.received + bytes) ∧
    (∃ (who : Who) (bytes : Nat) (s : State),
       s.pldmUp = true ∧
       s.fw.recovery = true ∧
       s.logFail = false ∧
       s.fw.stage = 1 ∧
       64 ≤ bytes ∧
       bytes ≤ 4096 ∧
       s.fw.compSize ≤ s.fw.received + bytes) ∧
    (∃ (s : State),
       s.pldmUp = true ∧
       s.fw.stage = 2 ∧
       s.fw.minsvn ≤ s.fw.compSvn) ∧
    (∃ (sigOk : Bool) (s : State),
       s.pldmUp = true ∧
       s.fw.stage = 2 ∧
       (sigOk = false ∨ s.fw.compSvn < s.fw.minsvn)) ∧
    (∃ (c : Nat) (s : State),
       s.pldmUp = true ∧
       s.fw.stage = 3 ∧
       s.fw.comp = some c) ∧
    (∃ (who : Who) (s : State),
       s.mayAct who [.installer] = true ∧
       s.fw.recovery = false ∧
       (s.fw.stage = 1 ∨ s.fw.stage = 2 ∨ s.fw.stage = 3)) ∧
    (∃ (who : Who) (s : State),
       s.mayAct who [.installer] = true ∧
       s.fw.recovery = false ∧
       s.fw.updating = true) :=
  ⟨⟨W.run, by decide⟩,
    ⟨W.run, by decide⟩,
    ⟨W.run, by decide⟩,
    ⟨W.who, W.run, by decide⟩,
    ⟨W.who, W.fw { updating := true }, by decide⟩,
    ⟨W.who, [1, 3], W.fw { updating := true }, by decide⟩,
    ⟨W.who, 1, 100, 2, W.fw { updating := true, comps := [1] }, by decide⟩,
    ⟨W.who, 64, W.fw { updating := true, stage := 1, comp := some 1, compSize := 100 }, by decide⟩,
    ⟨W.who, 100, W.fw { updating := true, stage := 1, comp := some 1, compSize := 100 }, by decide⟩,
    ⟨W.who, 100, W.fw { recovery := true, updating := true, stage := 1, comp := some 1, compSize := 100 }, by decide⟩,
    ⟨W.fw { updating := true, stage := 2, comp := some 1 }, by decide⟩,
    ⟨true, W.fw { updating := true, stage := 2, comp := some 1, minsvn := 3, compSvn := 2 }, by decide⟩,
    ⟨1, W.fw { updating := true, stage := 3, comp := some 1, compSvn := 4 }, by decide⟩,
    ⟨W.who, W.fw { updating := true, stage := 1, comp := some 1 }, by decide⟩,
    ⟨W.who, W.fw { updating := true }, by decide⟩⟩

/-- Clauses 1, 2, 3, 4, 5, 6 of FirmwareSlotsAreChosenAndConfirmed. -/
theorem test_hyp_FirmwareSlotsAreChosenAndConfirmed :
    (∃ (who : Who) (s : State),
       s.mayAct who [.installer] = true ∧
       s.fw.recovery = false ∧
       s.fw.updating = true ∧
       s.fw.stage = 4 ∧
       s.defersReset = true) ∧
    (∃ (who : Who) (s : State),
       s.mayAct who [.installer] = true ∧
       s.fw.recovery = false ∧
       s.fw.updating = true ∧
       s.fw.stage = 4 ∧
       s.defersReset = false) ∧
    (∃ (s : State),
       s.fw.stage = 5 ∧
       s.resets.hearthDown = false ∧
       s.fw.activateAt + 600000000000 ≤ s.life) ∧
    (∃ (who : Who) (s : State),
       s.mayAct who [.installer] = true ∧
       s.fw.recovery = false ∧
       (s.fw.activeState = 1 ∨ s.fw.activeState = 2) ∧
       (s.fw.slotSvn ≤ s.fw.minsvn ∨ s.fw.fuseRaises < 64)) ∧
    (∃ (who : Who) (s : State),
       s.mayAct who [.installer] = true ∧
       s.fw.recovery = false ∧
       s.fw.activeState = 1) ∧
    (∃ (s : State),
       s.fw.activeState = 1 ∧
       s.fw.recovery = false ∧
       s.resets.hearthDown = false ∧
       s.st ≠ .off ∧
       s.fw.pendingSince + 600000000000 ≤ s.life) :=
  ⟨⟨W.who, { W.fw { updating := true, stage := 4 } with ashRun := some {} }, by decide⟩,
    ⟨W.who, W.fw { updating := true, stage := 4 }, by decide⟩,
    ⟨{ W.fw { stage := 5 } with life := 600000000000 }, by decide⟩,
    ⟨W.who, W.fw { stateA := 1, svnA := [2, 3, 4] }, by decide⟩,
    ⟨W.who, W.fw { stateA := 1 }, by decide⟩,
    ⟨{ W.fw { stateA := 1 } with life := 600000000000 }, by decide⟩⟩

/-- Clauses 1, 2, 3, 4, 5, 6, 7, 8, 9, 10, 11, 12, 13, 14, 15, 16, 17, 18, 19, 20, 21, 22 of SpdmIsAnsweredByItsRules. -/
theorem test_hyp_SpdmIsAnsweredByItsRules :
    (∃ (s : State),
       s.spdmUp = true) ∧
    (∃ (s : State),
       s.spdmUp = true) ∧
    (∃ (a b c d : Bool) (s : State),
       s.spdmUp = true) ∧
    (∃ (s : State),
       s.spdmUp = true) ∧
    (∃ (off len : Nat) (s : State),
       s.spdmUp = true) ∧
    (∃ (slot off len : Nat) (s : State),
       s.spdmUp = true ∧
       slot ≠ 0) ∧
    (∃ (nonce : Nat) (s : State),
       s.spdmUp = true) ∧
    (∃ (i : Nat) (s : State),
       s.spdmUp = true ∧
       i ∈ [1, 2, 3, 4, 5, 6, 7, 8, 9, 16, 17, 18, 19, 20, 21, 22, 23]) ∧
    (∃ (s : State),
       s.spdmUp = true) ∧
    (∃ (i : Nat) (s : State),
       s.spdmUp = true ∧
       i ≠ 0 ∧
       i ≠ 0xFF ∧
       i ∉ [1, 2, 3, 4, 5, 6, 7, 8, 9, 16, 17, 18, 19, 20, 21, 22, 23]) ∧
    (∃ (n : Nat) (role : Role) (path : Nat) (pf : Option HPort) (s : State),
       s.spdmUp = true ∧
       s.hearth.spdmAlgs = true ∧
       (s.session n).state = 0) ∧
    (∃ (n : Nat) (role : Role) (path : Nat) (pf : Option HPort) (s : State),
       s.spdmUp = true ∧
       (s.hearth.spdmAlgs = false ∨ (s.session n).state ≠ 0)) ∧
    (∃ (n : Nat) (s : State),
       s.spdmUp = true ∧
       (s.session n).state = 1 ∧
       s.roleHasKey (s.session n).role = true) ∧
    (∃ (n : Nat) (ok : Bool) (s : State),
       s.spdmUp = true ∧
       (s.session n).state = 1 ∧
       (ok = false ∨ s.roleHasKey (s.session n).role = false)) ∧
    (∃ (n : Nat) (s : State),
       s.spdmUp = true ∧
       (s.session n).state = 2) ∧
    (∃ (n : Nat) (s : State),
       s.spdmUp = true ∧
       (s.session n).state = 2) ∧
    (∃ (n : Nat) (s : State),
       s.spdmUp = true ∧
       (s.session n).state = 2) ∧
    (∃ (n : Nat) (s : State),
       s.spdmUp = true ∧
       (s.session n).state ≠ 2) ∧
    (∃ (n : Nat) (ok : Bool) (s : State),
       s.spdmUp = true ∧
       (s.session n).state ≠ 1) ∧
    (∃ (s : State),
       s.spdmUp = true) ∧
    (∃ (binding : Fin 5) (eid : Byte) (s : State),
       s.pldmUp = true) ∧
    (∃ (cmd : Byte) (s : State),
       s.pldmUp = true) :=
  ⟨⟨W.run, by decide⟩,
    ⟨W.run, by decide⟩,
    ⟨true, true, true, true, W.run, by decide⟩,
    ⟨W.run, by decide⟩,
    ⟨0, 64, W.run, by decide⟩,
    ⟨1, 0, 64, W.run, by decide⟩,
    ⟨5, W.run, by decide⟩,
    ⟨8, W.run, by decide⟩,
    ⟨W.run, by decide⟩,
    ⟨10, W.run, by decide⟩,
    ⟨9, .installer, 1, none, W.agreed, by decide⟩,
    ⟨1, .installer, 1, none, W.run, by decide⟩,
    ⟨9, W.agreed1, by decide⟩,
    ⟨9, false, W.agreed1, by decide⟩,
    ⟨1, W.run, by decide⟩,
    ⟨1, W.run, by decide⟩,
    ⟨1, W.run, by decide⟩,
    ⟨7, W.run, by decide⟩,
    ⟨7, true, W.run, by decide⟩,
    ⟨W.run, by decide⟩,
    ⟨0, 9, W.run, by decide⟩,
    ⟨2, W.run, by decide⟩⟩

/-- Clauses 1, 2, 3, 4, 5, 6, 7, 8 of IdeKeysFollowTheirSession. -/
theorem test_hyp_IdeKeysFollowTheirSession :
    (∃ (n p : Nat) (s : State),
       s.spdmUp = true ∧
       s.idePort n = some p) ∧
    (∃ (n : Nat) (s : State),
       s.spdmUp = true ∧
       s.idePort n = none) ∧
    (∃ (n stream p : Nat) (s : State),
       s.spdmUp = true ∧
       s.idePort n = some p ∧
       stream < 9 ∧
       (s.host p).ideKeys.get 0 stream ≠ 2) ∧
    (∃ (n stream p : Nat) (s : State),
       s.spdmUp = true ∧
       s.idePort n = some p ∧
       stream < 9 ∧
       (s.host p).ideKeys.get 0 stream = 2) ∧
    (∃ (n stream p : Nat) (s : State),
       s.spdmUp = true ∧
       s.idePort n = some p ∧
       stream < 9 ∧
       (s.host p).ideKeys.get 0 stream ≠ 0) ∧
    (∃ (n stream p : Nat) (s : State),
       s.spdmUp = true ∧
       s.idePort n = some p ∧
       stream < 9 ∧
       (s.host p).ideKeys.get 0 stream = 0) ∧
    (∃ (n stream p : Nat) (s : State),
       s.spdmUp = true ∧
       s.idePort n = some p ∧
       stream < 9) ∧
    (∃ (n stream : Nat) (s : State),
       s.spdmUp = true ∧
       s.idePort n = none) :=
  ⟨⟨9, 0, W.ide 0, by decide⟩,
    ⟨7, W.run, by decide⟩,
    ⟨9, 1, 0, W.ide 0, by decide⟩,
    ⟨9, 1, 0, W.ide 2, by decide⟩,
    ⟨9, 1, 0, W.ide 1, by decide⟩,
    ⟨9, 1, 0, W.ide 0, by decide⟩,
    ⟨9, 1, 0, W.ide 2, by decide⟩,
    ⟨7, 1, W.run, by decide⟩⟩

/-- Clauses 1, 2, 3, 4, 5, 6, 7, 8, 9, 10, 11, 12, 13, 14, 15, 16, 17, 18, 19, 20, 21, 22, 23, 24, 25 of PmbusAnswersItsPages. -/
theorem test_hyp_PmbusAnswersItsPages :
    (∃ (n : Byte) (s : State),
       s.pmbusUp = true ∧
       n.toNat ≤ 8) ∧
    (∃ (n : Byte) (s : State),
       s.pmbusUp = true ∧
       8 < n.toNat) ∧
    (∃ (s : State),
       s.pmbusUp = true) ∧
    (∃ (s : State),
       s.pmbusUp = true ∧
       s.pmbus.page = 0) ∧
    (∃ (s : State),
       s.pmbusUp = true ∧
       s.pmbus.page = 0) ∧
    (∃ (s : State),
       s.pmbusUp = true ∧
       s.pmbus.page = 0) ∧
    (∃ (s : State),
       s.pmbusUp = true ∧
       s.pmbus.page = 0) ∧
    (∃ (s : State),
       s.pmbusUp = true ∧
       s.pmbus.page = 0) ∧
    (∃ (s : State),
       s.pmbusUp = true ∧
       s.pmbus.page = 0) ∧
    (∃ (s : State),
       s.pmbusUp = true ∧
       1 ≤ s.pmbus.page ∧ s.pmbus.page ≤ 8) ∧
    (∃ (s : State),
       s.pmbusUp = true ∧
       1 ≤ s.pmbus.page ∧ s.pmbus.page ≤ 8) ∧
    (∃ (s : State),
       s.pmbusUp = true ∧
       1 ≤ s.pmbus.page ∧ s.pmbus.page ≤ 8) ∧
    (∃ (s : State),
       s.pmbusUp = true ∧
       s.pmbus.page ≠ 0) ∧
    (∃ (s : State),
       s.pmbusUp = true ∧
       (s.pmbus.page = 0 ∨ 8 < s.pmbus.page)) ∧
    (∃ (s : State),
       s.pmbusUp = true) ∧
    (∃ (s : State),
       s.pmbusUp = true) ∧
    (∃ (s : State),
       s.pmbusUp = true) ∧
    (∃ (s : State),
       s.pmbusUp = true) ∧
    (∃ (s : State),
       s.pmbusUp = true ∧
       s.pmbus.page = 0) ∧
    (∃ (s : State),
       s.pmbusUp = true ∧
       s.pmbus.page = 0) ∧
    (∃ (s : State),
       s.pmbusUp = true ∧
       s.pmbus.page = 0) ∧
    (∃ (s : State),
       s.pmbusUp = true ∧
       s.pmbus.page = 0) ∧
    (∃ (s : State),
       s.pmbusUp = true ∧
       s.pmbus.page = 0) ∧
    (∃ (cmd : Byte) (s : State),
       s.pmbusUp = true) ∧
    (∃ (s : State),
       s.pmbusUp = true ∧
       s.pmbus.refreshed + 1000000 ≤ s.life) :=
  ⟨⟨8, W.run, by decide⟩,
    ⟨9, W.run, by decide⟩,
    ⟨W.run, by decide⟩,
    ⟨W.run, by decide⟩,
    ⟨W.run, by decide⟩,
    ⟨W.run, by decide⟩,
    ⟨W.run, by decide⟩,
    ⟨W.run, by decide⟩,
    ⟨W.run, by decide⟩,
    ⟨W.onPage 1, by decide⟩,
    ⟨W.onPage 8, by decide⟩,
    ⟨W.onPage 1, by decide⟩,
    ⟨W.onPage 1, by decide⟩,
    ⟨W.run, by decide⟩,
    ⟨W.run, by decide⟩,
    ⟨W.run, by decide⟩,
    ⟨W.run, by decide⟩,
    ⟨W.run, by decide⟩,
    ⟨W.run, by decide⟩,
    ⟨W.run, by decide⟩,
    ⟨W.run, by decide⟩,
    ⟨W.run, by decide⟩,
    ⟨W.run, by decide⟩,
    ⟨1, W.run, by decide⟩,
    ⟨{ W.run with life := 2000000 }, by decide⟩⟩

/-- Clauses 1, 2, 3, 4, 5, 6, 7, 8, 9, 11, 12, 13, 14, 15, 16, 17, 18, 19, 20, 21, 22, 23, 24, 25, 26, 27 of RegisterWritesKeepTheirFields. -/
theorem test_hyp_RegisterWritesKeepTheirFields :
    (∃ (who : Who) (port : HPort) (fn : FnId) (ring : RingId) (v : W64) (s : State),
       s.barOpen port.val fn.val = true ∧
       ringExists fn.val ring.val = true ∧
       ((s.host port.val).fnSt fn.val).authOk = true ∧
       (s.ring port.val fn.val ring.val).en = false) ∧
    (∃ (who : Who) (port : HPort) (fn : FnId) (ring : RingId) (v : W64) (s : State),
       s.barOpen port.val fn.val = true ∧
       ringExists fn.val ring.val = true ∧
       ((s.host port.val).fnSt fn.val).authOk = true ∧
       (s.ring port.val fn.val ring.val).en = false) ∧
    (∃ (who : Who) (port : HPort) (fn : FnId) (ring : RingId) (v : W64) (s : State),
       s.barOpen port.val fn.val = true ∧
       ringExists fn.val ring.val = true ∧
       ((s.host port.val).fnSt fn.val).authOk = true ∧
       (s.ring port.val fn.val ring.val).en = false) ∧
    (∃ (who : Who) (port : HPort) (fn : FnId) (ring : RingId) (v : W64) (s : State),
       s.barOpen port.val fn.val = true ∧
       ringExists fn.val ring.val = true ∧
       ((s.host port.val).fnSt fn.val).authOk = true ∧
       (s.ring port.val fn.val ring.val).en = false ∧
       6 ≤ bits 56 52 v.toNat ∧
       bits 56 52 v.toNat ≤ 16) ∧
    (∃ (who : Who) (port : HPort) (fn : FnId) (ring : RingId) (v : W64) (s : State),
       s.barOpen port.val fn.val = true ∧
       ringExists fn.val ring.val = true ∧
       ((s.host port.val).fnSt fn.val).authOk = true ∧
       (s.ring port.val fn.val ring.val).en = false ∧
       (bits 56 52 v.toNat < 6 ∨ 16 < bits 56 52 v.toNat)) ∧
    (∃ (who : Who) (port : HPort) (fn : FnId) (ring : RingId) (v : W64) (s : State),
       (s.ring port.val fn.val ring.val).en = true) ∧
    (∃ (who : Who) (port : HPort) (v : W32) (s : State),
       s.barOpen port.val 0 = true) ∧
    (∃ (who : Who) (port : HPort) (fn : FnId) (e : Fin 8) (v : BitVec 128) (s : State),
       s.barOpen port.val fn.val = true ∧
       (((s.host port.val).fnSt fn.val).pba.getLsbD e.val = false ∨ v.getLsbD 96 = true)) ∧
    (∃ (who : Who) (port : HPort) (fn : FnId) (e : Fin 8) (v : BitVec 128) (s : State),
       s.barOpen port.val fn.val = true ∧
       ((s.host port.val).fnSt fn.val).pba.getLsbD e.val = true ∧
       v.getLsbD 96 = false) ∧
    (∃ (who : Who) (port : LnpId) (v : W32) (s : State),
       s.mayAct who [.installer] = true ∧
       (bit 29 v.toNat = false ∨ s.hobsOfPort port.val = [])) ∧
    (∃ (who : Who) (port : LnpId) (v : W32) (s : State),
       s.mayAct who [.installer] = true ∧
       bit 29 v.toNat = true ∧
       s.hobsOfPort port.val ≠ []) ∧
    (∃ (who : Who) (v : W64) (s : State),
       s.mayAct who [.installer] = true) ∧
    (∃ (who : Who) (v : W32) (s : State),
       s.mayAct who [.installer] = true ∧
       2 ≤ bits 31 22 v.toNat ∧
       bits 31 22 v.toNat ≤ 1000) ∧
    (∃ (who : Who) (v : W32) (s : State),
       s.mayAct who [.installer] = true ∧
       (bits 31 22 v.toNat < 2 ∨ 1000 < bits 31 22 v.toNat)) ∧
    (∃ (who : Who) (dest : BitVec 13) (v : Byte) (s : State),
       s.mayAct who [.installer] = true ∧
       (bit 7 v.toNat = false ∨ (s.lnp (bits 3 0 v.toNat)).parked = false)) ∧
    (∃ (who : Who) (dest : BitVec 13) (v : Byte) (s : State),
       s.mayAct who [.installer] = true ∧
       bit 7 v.toNat = true ∧
       (s.lnp (bits 3 0 v.toNat)).parked = true ∧
       (s.lnp (bits 3 0 v.toNat)).fenced = false ∧
       (s.lnp (bits 3 0 v.toNat)).resetting = false) ∧
    (∃ (who : Who) (hob : HobId) (v : W64) (s : State),
       s.mayAct who [.installer] = true ∧
       ((∀ n ∈ [15, 31, 47, 63], v.getLsbD n = false))) ∧
    (∃ (who : Who) (hob : HobId) (v : W64) (s : State),
       s.mayAct who [.installer] = true ∧
       s.hearth.peerJars = true) ∧
    (∃ (who : Who) (v : W32) (s : State),
       s.mayAct who [.installer] = true ∧
       2 ≤ bits 29 23 v.toNat ∧
       bits 29 23 v.toNat ≤ 72 ∧
       12 ≤ bits 22 13 v.toNat ∧
       bits 22 13 v.toNat ≤ 720) ∧
    (∃ (who : Who) (v : W32) (s : State),
       s.mayAct who [.installer] = true ∧
       (bits 29 23 v.toNat < 2 ∨ 72 < bits 29 23 v.toNat ∨ bits 22 13 v.toNat < 12 ∨ 720 < bits 22 13 v.toNat)) ∧
    (∃ (who : Who) (v : W32) (s : State),
       s.mayAct who [.installer] = true ∧
       2 ≤ bits 31 28 v.toNat ∧
       bits 31 28 v.toNat ≤ 8 ∧
       1 ≤ bits 27 21 v.toNat ∧
       bits 27 21 v.toNat ≤ 72) ∧
    (∃ (who : Who) (v : W32) (s : State),
       s.mayAct who [.installer] = true ∧
       (bits 31 28 v.toNat < 2 ∨ 8 < bits 31 28 v.toNat ∨ bits 27 21 v.toNat < 1 ∨ 72 < bits 27 21 v.toNat)) ∧
    (∃ (who : Who) (v : W32) (s : State),
       s.mayAct who [.installer] = true ∧
       10 ≤ bits 29 16 v.toNat) ∧
    (∃ (who : Who) (v : W32) (s : State),
       s.mayAct who [.installer] = true ∧
       bits 29 16 v.toNat < 10) ∧
    (∃ (who : Who) (hob : HobId) (v : W32) (s : State),
       s.mayAct who [.installer] = true ∧
       (1 < bits 31 30 v.toNat ∨ bits 29 24 v.toNat < 10 ∨ 60 < bits 29 24 v.toNat ∨ bits 23 16 v.toNat < 1)) ∧
    (∃ (who : Who) (hob : HobId) (v : W32) (s : State),
       s.mayAct who [.installer] = true ∧
       bits 31 30 v.toNat ≤ 1 ∧
       10 ≤ bits 29 24 v.toNat ∧
       bits 29 24 v.toNat ≤ 60 ∧
       1 ≤ bits 23 16 v.toNat) :=
  ⟨⟨{}, 0, 1, 1, 0x1000, W.run, by decide⟩,
    ⟨{}, 0, 1, 1, 0x1000, W.run, by decide⟩,
    ⟨{}, 0, 1, 1, 0x1000, W.run, by decide⟩,
    ⟨{}, 0, 1, 1, 0x00A0000000000000, W.run, by decide⟩,
    ⟨{}, 0, 1, 1, 0, W.run, by decide⟩,
    ⟨{}, 0, 1, 0, 0, W.run, by decide⟩,
    ⟨{}, 0, 3, W.run, by decide⟩,
    ⟨{}, 0, 1, 0, 5, W.run, by decide⟩,
    ⟨{}, 0, 1, 0, 5, W.pending, by decide⟩,
    ⟨W.who, 0, 0x8000, W.run, by decide⟩,
    ⟨W.who, 0, 0x20000000, W.lit, by decide⟩,
    ⟨W.who, 7, W.run, by decide⟩,
    ⟨W.who, 0x00800000, W.run, by decide⟩,
    ⟨W.who, 0, W.run, by decide⟩,
    ⟨W.who, 5, 0x81, W.run, by decide⟩,
    ⟨W.who, 5, 0x81, W.whoIdle, by decide⟩,
    ⟨W.who, 0, 5, W.run, by decide⟩,
    ⟨W.who, 0, 0x8005, W.peerJar, by decide⟩,
    ⟨W.who, 0x01018000, W.run, by decide⟩,
    ⟨W.who, 0, W.run, by decide⟩,
    ⟨W.who, 0x20200000, W.run, by decide⟩,
    ⟨W.who, 0, W.run, by decide⟩,
    ⟨W.who, 0x000A0000, W.run, by decide⟩,
    ⟨W.who, 0, W.run, by decide⟩,
    ⟨W.who, 0, 0, W.run, by decide⟩,
    ⟨W.who, 0, 0x0A010000, W.run, by decide⟩⟩

/-- Clauses 1, 2, 3, 4, 5 of PrivilegedActionsNeedTheirRole. -/
theorem test_hyp_PrivilegedActionsNeedTheirRole :
    (∃ (who : Who) (dest : BitVec 13) (b : Byte) (port : LnpId) (on : Bool) (hob : HobId) (grant : Grant) (cred : Nat) (stack : StackId) (bw : BitVec 5) (v : W32) (w : W64)
       (start len i : Nat) (lic : Licence) (sigOk serialOk : Bool) (s : State) (c : Instr),
       s.st ≠ .off ∧
       s.resets.hearthDown = false ∧
       s.authorised who [.installer] = false ∧
       c ∈ [.lnpEn who port on, .lnpPark who port on, .hrtIdlEn who on, .grantSet who hob grant, .credentialSet who hob cred, .rsvWindowSet who hob stack on bw, .powerLimitSet who v, .maintWindowDeclare who start len on, .licenceInstall who lic sigOk serialOk, .licenceRemove who i, .registerWrite who (.lnpIdent w), .registerWrite who (.lnpCfg v), .registerWrite who (.hrtTasteCfg v), .registerWrite who (.hrtRstCfg v), .registerWrite who (.hrtIdleCfg v), .registerWrite who (.pntJarPolicy hob v), .registerWrite who (.lnpJarAcl hob w), .registerWrite who (.lnpPortCtl port v), .registerWrite who (.lnpRoute dest b)]) ∧
    (∃ (who : Who) (nonce version lifeMs : Nat) (permits : BitVec 16) (bad : List Pos) (cell : Pos) (keys : List Nat) (sigOk serialOk : Bool) (s : State) (c : Instr),
       s.st ≠ .off ∧
       s.resets.hearthDown = false ∧
       s.authorised who [.maker] = false ∧
       c ∈ [.makerTokenUse who ⟨nonce, permits, lifeMs⟩ sigOk serialOk, .fuseMapWrite who nonce bad sigOk, .testContentInstall who nonce version sigOk, .cellOverride who nonce cell, .trustListChange who nonce keys]) ∧
    (∃ (who : Who) (arg : BitVec 28) (i : Fin 16) (v : BitVec 128) (w : W32) (s : State) (c : Instr),
       s.st ≠ .off ∧
       s.resets.hearthDown = false ∧
       s.authorised who [.installer, .maker] = false ∧
       c ∈ [.rstCmdWarm who, .rstCmdCold who, .rstCmdRestore who, .rstCmdAsh who, .rstCmdLockAsh who arg, .rstCmdReleaseAsh who, .perturbSet who i v, .registerWrite who (.hrtRstCmd w)]) ∧
    (∃ (who : Who) (comps : List Nat) (comp size : Nat) (svn : BitVec 8) (s : State) (c : Instr),
       s.st ≠ .off ∧
       s.resets.hearthDown = false ∧
       s.authorised who [.installer] = false ∧
       s.fw.recovery = false ∧
       c ∈ [.fwConfirm who, .fwRevert who, .passComponentTable who comps, .updateComponent who comp size svn, .activateFirmware who, .cancelUpdateComponent who, .cancelUpdate who]) ∧
    (∃ (who : Who) (seq : Nat) (s : State),
       s.authorised who [.installer, .maker] = false) :=
  ⟨⟨{}, 0, 0, 0, true, 0, {}, 0, 0, 0, 0, 0, 0, 0, 0, {}, true, true, W.run, .powerLimitSet {} 0, by decide⟩,
    ⟨W.who, 0, 0, 0, 0, [], {}, [], true, true, W.run, .trustListChange W.who 0 [], by decide⟩,
    ⟨{}, 0, 0, 0, 0, W.run, .rstCmdWarm {}, by decide⟩,
    ⟨{}, [], 0, 0, 0, W.run, .fwConfirm {}, by decide⟩,
    ⟨{}, 0, W.run, by decide⟩⟩

/-- Clauses 2, 4 of RacksHoldTheirGaps. -/
theorem test_hyp_RacksHoldTheirGaps :
    (∃ (s t : State),
       ((∀ i : Nat, (s.rack i).gap.toNat ≤ 8)) ∧
       step s = .next t) ∧
    (∃ (s : State) (r : Rack),
       (s.rack r.idx).gap.toNat ≤ 8) :=
  ⟨⟨W.off, W.off, by intro i; simp [W.off, State.rack, Tab.get], rfl⟩,
    ⟨W.run, {}, by decide⟩⟩

/-- NoCredentialIsNeededToAsk. -/
theorem test_hyp_NoCredentialIsNeededToAsk :
    ∃ (b : Fin 5) (eid cmd : Byte) (e1 e2 e3 e4 : Bool) (slot off len nonce i : Nat) (x : Tab Session) (s : State) (c : Instr),
      s.spdmUp = true ∧
      c ∈ [.setEndpointId b eid, .mctpControl cmd, .getVersion, .getCapabilities, .negotiateAlgorithms e1 e2 e3 e4, .getDigests,
          .getCertificate slot off len, .challenge nonce, .getMeasurements i, .queryDeviceIdentifiers, .getFirmwareParameters, .getStatus] :=
  ⟨0, 0, 0, true, true, true, true, 0, 0, 0, 0, 0, [], W.run, .getVersion, by decide⟩

/-- Clauses 1, 2, 3, 4, 5, 6 of TheFirstMinuteIsCapped. -/
theorem test_hyp_TheFirstMinuteIsCapped :
    (∃ (s : State),
       s.inStage 6 = true) ∧
    (∃ (d : Damper) (now : Nat),
       d.cap = true) ∧
    (∃ (s : State),
       s.damper.cap = true ∧
       s.now < s.damper.capUntil) ∧
    (∃ (s : State),
       s.damper.cap = true ∧
       s.damper.capUntil ≤ s.now) ∧
    (∃ (s : State),
       s.damper.cap = true ∧
       s.damper.mclk ≠ 0 ∧
       s.resets.hearthDown = false ∧
       85 * s.damper.plim.toNat / 100 < s.damper.pin.toNat) ∧
    (∃ (q : Quarter) (s : State),
       s.damper.cap = true ∧
       s.damper.mclk ≠ 0) :=
  ⟨⟨W.stage 6, by decide⟩,
    ⟨W.capped.damper, 0, by decide⟩,
    ⟨{ W.run with damper := { cap := true, capUntil := 60000000000 } }, by decide⟩,
    ⟨W.capped, by decide⟩,
    ⟨{ W.run with damper := { W.run.damper with cap := true, pin := 3500 } }, by decide⟩,
    ⟨0, { W.run with damper := { W.run.damper with cap := true } }, by decide⟩⟩

/-- Clauses 1, 2 of EmptyAndFullRegionsKeepTheirPointers. -/
theorem test_hyp_EmptyAndFullRegionsKeepTheirPointers :
    (∃ (env : IssueEnv) (c d : Cell) (clash : Nat → Bool) (n : Nat) (a : Acc) (x : Issue),
       a.cr = true ∧
       a.wr = false ∧
       ((c.slot a.slot).region (bits 13 10 a.off)).isEmpty = true) ∧
    (∃ (env : IssueEnv) (c d : Cell) (inbound : Option Flit) (q n : Nat) (a : Acc) (x : Issue),
       a.cr = true ∧
       a.wr = true ∧
       ((c.slot a.slot).region (bits 13 10 a.off)).isFull = true) :=
  ⟨⟨{}, {}, {}, (fun _ => false), 0, { cr := true }, {}, by decide⟩,
    ⟨{}, W.fullCell, {}, none, 0, 0, { cr := true, wr := true }, {}, by decide⟩⟩

/-! ### Well-formedness refuses each ill-formed operand -/

theorem test_wf_refuses_entry_length : (Instr.sqeArrival 0 0 0 [] true).wf = false := by decide

theorem test_wf_refuses_descriptor_length : (Instr.msgHeaderArrival {} { desc := [] }).wf = false := by decide

theorem test_wf_refuses_message_hob :
    (Instr.msgHeaderArrival {} { desc := List.replicate 64 0, hob := 8 }).wf = false := by decide

theorem test_wf_refuses_transaction_length : (Instr.blockLanding 0 (List.replicate 4097 0) false).wf = false := by
  decide +kernel

theorem test_wf_refuses_frame_length : frameOk { flits := 41 } = false := by decide

theorem test_wf_refuses_upset_word : (Instr.calWordIssue {} [{ word := 32768 }]).wf = false := by decide

theorem test_wf_refuses_store_word : (Instr.calWordIssue {} [{ store := true, word := 4096 }]).wf = false := by decide

theorem test_wf_refuses_bytes_beyond_image :
    (Instr.loadRecipe W.ref 0 { size := 2, bytes := [(2, 1)] }).wf = false := by decide

theorem test_wf_refuses_unordered_image :
    (Instr.loadRecipe W.ref 0 { size := 8, bytes := [(2, 1), (1, 1)] }).wf = false := by decide

theorem test_no_word_spells_a_command : decodeTableWord 32 0 = none := by decide

/-! ### Worked examples of the spec

01_fabric.md, the example under R16: rack (5, 4) with gap 8 backs logical (37, 5) at column 41, with gap 2 at column 42. -/

theorem test_gap_places_cell : colOf 37 8 = 41 ∧ colOf 37 2 = 42 := by decide

/-- 00_scope.md, the example under R8. -/
theorem test_logical_cell_at_home : (State.reset.homeOf 37 5).px = 41 ∧ (State.reset.homeOf 37 5).quarter = 0 := by decide

/-- 01_fabric.md, the example of a route across both stitches: 3 cycles east, 3 cycles south. -/
theorem test_stitch_hops : hopCycles 47 31 .east = 3 ∧ hopCycles 48 31 .south = 3 := by decide

/-- 01_fabric.md, the example under R33: mesh 12, edge 0, stop 4, nodes 0, 7 ns. -/
theorem test_distance_entry : distEntry 37 5 2 = BitVec.ofNat 32 (12 * 2 ^ 20 + 4 * 2 ^ 12 + 7) := by decide +kernel

/-- 02_cell.md, the example of a resident slot: base 88, size 40, offset 0x2040 is byte 0x5A040 in a bank of latency 3;
base 96 gives byte 0x62040 and latency 4. -/
theorem test_slot_offset_resolves :
    (Cell.reach { slots := [(0, { valid := true, base := 88, size := 40 })] } 0 { off := 0x2040 / 64 }).addr = some (0x5A040 / 64) ∧
    (Cell.reach { slots := [(0, { valid := true, base := 96, size := 40 })] } 0 { off := 0x2040 / 64 }).addr = some (0x62040 / 64) ∧
    bankLatency (granBank (0x5A040 / 64)) = 3 ∧ bankLatency (granBank (0x62040 / 64)) = 4 := by decide

/-- 02_cell.md, the table of region events: the write at 100 fills the region, the one at 102 leaves head 1 and tail 1. -/
theorem test_region_pointers :
    ({ count := 2, tail := 2 } : Region).advTail.isFull = true ∧
    ({ count := 2, tail := 2 } : Region).advTail.advHead.advTail = { count := 2, head := 1, tail := 1, twrap := true } := by decide

/-- 03_arithmetic.md, the example of a sparse column with g = 4: group 0 is a tie to even, group 1 rounds up. -/
theorem test_group_sums :
    groupFp32 [.fin false 1 16, .fin false 1 (-8)] 127 127 0 = 0x47800000 ∧
    groupFp32 [.fin false 1 16, .fin false 3 (-9)] 127 127 0 = 0x47800001 := by decide +kernel

/-- The same example: the accumulation ties to even; one group of g = 8 gives other bits. -/
theorem test_group_size_changes_bits :
    add32 0x47800000 0x47800001 = 0x48000000 ∧
    groupFp32 [.fin false 1 16, .fin false 1 (-8), .fin false 1 16, .fin false 3 (-9)] 127 127 0 = 0x48000001 := by
  decide +kernel

/-- 03_arithmetic.md, the window of a group sum: with 1.0 the product 2⁻⁴⁵ contributes nothing. -/
theorem test_group_window : groupFp32 [.fin false 1 0, .fin false 1 (-45)] 127 127 0 = 0x3F800000 := by decide +kernel

/-- 03_arithmetic.md, the example of a row converted to E4M3: scale 0x80, 1,000 saturates at 448, 3.3 is stored as 1.625. -/
theorem test_mx_row :
    mxRow 2 [.fin false 1000 0, .fin false 3460300 (-20)] (fun _ => .rne) = (0x80, [0x7E, 0x3D]) := by decide +kernel

/-- 04_schedule_contract.md, the example of a recipe at 1,200 MHz on a device at 1,500 MHz: 4 edges in 5. -/
theorem test_gating_four_of_five :
    (({ W.hob with clk := { live := true }, recipe := some { W.recipe with mclk := 1200 } } : Hob).mclkEdge 1500
      |>.mclkEdge 1500 |>.mclkEdge 1500 |>.mclkEdge 1500 |>.mclkEdge 1500).clk.cyc = 4 := by decide

/-- 11_lids_and_decant.md, the example under R294: column 25 of row 20 reaches column 17 in 4 hops and column 35 in 5. -/
theorem test_far_hops : State.reset.hopsTo 20 25 17 = some 4 ∧ State.reset.hopsTo 20 25 35 = some 5 := by decide +kernel

/-- 07_memory_and_rim.md, the polynomial of the block checks: CRC-32C of "123456789", the check value of that code. -/
theorem test_crc32c : crc32c [0x31, 0x32, 0x33, 0x34, 0x35, 0x36, 0x37, 0x38, 0x39] = 0xE3069283 := by decide +kernel

end Sys2Proof.Tests
end

section
/-! How the log and a privileged action act, said once (R9, R10, R368 to R370). -/

namespace Sys2Proof.Machine

open Sys2Proof

/-! ### Records of the log -/

/-- A record as the log keeps it: with the next number and the time of the append (R368). -/
def State.stamped (s : State) (r : LogRec) : LogRec := { r with seq := s.logSeq, time := s.lifeMs }

/-- An append puts its record in front, and drops none of the newest 245,760 records. -/
theorem State.logPut_log_take (s : State) (r : LogRec) (n : Nat) (hn : n ≤ logCap - 16384) :
    (s.logPut r).log.take (n + 1) = s.stamped r :: s.log.take n := by
  by_cases h : s.log.length < logCap
  · simp [State.logPut, State.stamped, h]
  · simp [State.logPut, State.stamped, h, List.take_take, hn]

theorem State.logPut_newest (s : State) (r x : LogRec) (n : Nat) (hn : n ≤ logCap - 16384) (h : x ∈ s.log.take n) :
    x ∈ (s.logPut r).log.take (n + 1) := by
  rw [s.logPut_log_take r n hn]
  exact List.mem_cons_of_mem _ h

/-- A logged record and its seal leave the newest records where they were, at most two places on. -/
theorem State.logAdd_newest (s : State) (r x : LogRec) (n : Nat) (hn : n < logCap - 16384) (h : x ∈ s.log.take n) :
    x ∈ (s.logAdd r).log.take (n + 2) := by
  have hput := s.logPut_newest r x n (by omega) h
  unfold State.logAdd
  dsimp only
  split
  · exact List.take_subset_take_left _ (by omega) h
  · split
    · exact (s.logPut r).logPut_newest _ x (n + 1) (by omega) hput
    · exact List.take_subset_take_left _ (by omega) hput

/-- While the log works, the record stands among the two newest. -/
theorem State.stamped_mem_logAdd (s : State) (r : LogRec) (h : s.logFail = false) : s.stamped r ∈ (s.logAdd r).log.take 2 := by
  have hput : s.stamped r ∈ (s.logPut r).log.take 1 := by simp [s.logPut_log_take r 0 (by decide)]
  unfold State.logAdd
  simp only [h, Bool.false_eq_true, if_false]
  split
  · exact (s.logPut r).logPut_newest _ _ 1 (by decide) hput
  · exact List.take_subset_take_left _ (by omega) hput

/-- A record changes the log and its number alone. -/
theorem State.logAdd_eq (s : State) (r : LogRec) :
    s.logAdd r = { s with log := (s.logAdd r).log, logSeq := (s.logAdd r).logSeq } := by
  unfold State.logAdd
  dsimp only
  split
  · rfl
  · split <;> rfl

/-! ### A privileged action -/

/-- The record of a privileged action (R10, R368). -/
def State.privRec (s : State) (who : Who) (code hob : Nat) (args : List Nat) (result : Nat) : LogRec :=
  { role := roleNum (s.sessions.get {} who.session).role, path := who.path, code := BitVec.ofNat 16 code, result := result,
    hob := hob, keyid := who.session, args := args }

/-- Without an allowed role the action is logged with result 1, answered with it, and not done. -/
theorem State.priv_unauthorised (s : State) (who : Who) (roles : List Role) (code hob : Nat) (args : List Nat) (refuse : Nat)
    (act : State → State) (hst : s.st ≠ .off) (hup : s.resets.hearthDown = false) (hau : s.authorised who roles = false) :
    s.priv who roles code hob args refuse act =
      (s.logAdd (s.privRec who code hob args 1)).emit (.mctpVals "result" [code, 1]) := by
  simp [State.priv, State.privRec, hst, hup, hau]

/-- Where its sender may act, it is logged with its result, done where that is 0, and answered. -/
theorem State.priv_authorised (s : State) (who : Who) (roles : List Role) (code hob : Nat) (args : List Nat) (refuse : Nat)
    (act : State → State) (h : s.mayAct who roles = true) :
    s.priv who roles code hob args refuse act =
      (if refuse = 0 then act (s.logAdd (s.privRec who code hob args refuse)) else s.logAdd (s.privRec who code hob args refuse)).emit
        (.mctpVals "result" [code, refuse]) := by
  simp only [State.mayAct, Bool.and_eq_true, bne_iff_ne, Bool.not_eq_true'] at h
  obtain ⟨⟨⟨hst, hup⟩, hlog⟩, hau⟩ := h
  simp [State.priv, State.privRec, hst, hup, hau, hlog]

/-- The log works where a privileged action is open to its sender. -/
theorem State.logFail_of_mayAct (s : State) (who : Who) (roles : List Role) (h : s.mayAct who roles = true) : s.logFail = false := by
  simp only [State.mayAct, Bool.and_eq_true, Bool.not_eq_true'] at h
  obtain ⟨⟨-, hlog⟩, -⟩ := h
  exact hlog

/-- What an action was logged and answered with, read off a state whose log is the one it was logged in. -/
theorem State.acted_of_log {s t : State} {who : Who} {code result : Nat} (r : LogRec) (h : s.logFail = false)
    (hcode : r.code = BitVec.ofNat 16 code) (hresult : r.result = result) (hpath : r.path = who.path)
    (hl : t.log = (s.logAdd r).log) (ho : t.out.head? = some (.mctpVals "result" [code, result])) : s.acted t who code result :=
  ⟨⟨s.stamped r, by rw [hl]; exact List.mem_of_mem_take (s.stamped_mem_logAdd r h), rfl, hcode, hresult, hpath⟩, ho⟩

section

variable {s : State} {c : Instr} {who : Who} {roles : List Role} {code hob refuse : Nat} {args : List Nat} {act : State → State}

/-- A command that is a privileged action which is not refused: its action is done on the state with its record logged, and it is
logged and answered with result 0 where the action leaves the log. -/
theorem State.priv_performs {P : State → Prop} (hc : exec c s = .next (s.priv who roles code hob args refuse act))
    (h : s.mayAct who roles = true) (hr : refuse = 0)
    (hP : ∀ l n, (∀ u : State, u.log = l → s.acted (u.emit (.mctpVals "result" [code, 0])) who code 0) →
      P ((act { s with log := l, logSeq := n }).emit (.mctpVals "result" [code, 0]))) :
    ∃ t, exec c s = .next t ∧ P t := by
  refine ⟨_, hc, ?_⟩
  rw [s.priv_authorised who roles code hob args refuse act h, hr, if_pos rfl, s.logAdd_eq]
  exact hP _ _ fun u hu => State.acted_of_log _ (s.logFail_of_mayAct who roles h) rfl rfl rfl hu rfl

/-- A command that is a privileged action which is refused: it is logged and answered with its reason, and changes the log and the
outputs alone. -/
theorem State.priv_refuses {k : Nat} (hc : exec c s = .next (s.priv who roles code hob args refuse act))
    (h : s.mayAct who roles = true) (hr : refuse = k) (hk : k ≠ 0) :
    ∃ t, exec c s = .next t ∧ s.acted t who code k ∧ t = { s with log := t.log, logSeq := t.logSeq, out := t.out } := by
  refine ⟨_, hc, ?_⟩
  subst hr
  rw [s.priv_authorised who roles code hob args refuse act h, if_neg hk]
  refine ⟨State.acted_of_log _ (s.logFail_of_mayAct who roles h) rfl rfl rfl rfl rfl, ?_⟩
  rw [s.logAdd_eq]
  rfl

/-- The hobs after an action that changed one of them. -/
theorem State.logged_modHob_hob (s : State) (l : List LogRec) (n h : Nat) (f : Hob → Hob) (o : Out) (k : Nat) :
    ((({ s with log := l, logSeq := n } : State).modHob h f).emit o).hob k = if k = h then f (s.hob h) else s.hob k :=
  State.hob_modHob { s with log := l, logSeq := n } h k f

/-- Between `s` and `t` a privileged action was refused for its sender's role: nothing but the log and the outputs changed, and a
log that works holds the refusal (R10). -/
def State.turnedAway (s t : State) (who : Who) : Prop :=
  t = { s with log := t.log, logSeq := t.logSeq, out := t.out } ∧
  (s.logFail = false → ∃ r ∈ t.log, r.seq = s.logSeq ∧ r.result = 1 ∧ r.path = who.path)

/-- The record of a refusal turns its sender away. -/
theorem State.turnedAway_privRec (s : State) (who : Who) (code hob : Nat) (args : List Nat) (o : Out) :
    s.turnedAway ((s.logAdd (s.privRec who code hob args 1)).emit o) who :=
  ⟨by rw [s.logAdd_eq]; rfl, fun hl => ⟨_, List.mem_of_mem_take (s.stamped_mem_logAdd _ hl), rfl, rfl, rfl⟩⟩

/-- A command that is a privileged action turns a sender away who has no session under an allowed role. -/
theorem State.priv_turns_away (hst : s.st ≠ .off) (hup : s.resets.hearthDown = false) (hau : s.authorised who roles = false)
    (hc : exec c s = .next (s.priv who roles code hob args refuse act)) : ∃ t, exec c s = .next t ∧ s.turnedAway t who := by
  refine ⟨_, hc, ?_⟩
  rw [s.priv_unauthorised who roles code hob args refuse act hst hup hau]
  exact s.turnedAway_privRec who code hob args _

end

section

/-! An installer's register write is a privileged action of the installer (R372). -/

variable {s : State} {c : Instr} {who : Who} {code hob refuse : Nat} {args : List Nat} {act : State → State}

theorem State.iWrite_performs {P : State → Prop} (hc : exec c s = .next (s.iWrite who code hob args refuse act))
    (h : s.mayAct who [.installer] = true) (hr : refuse = 0)
    (hP : ∀ l n, (∀ u : State, u.log = l → s.acted (u.emit (.mctpVals "result" [code, 0])) who code 0) →
      P ((act { s with log := l, logSeq := n }).emit (.mctpVals "result" [code, 0]))) :
    ∃ t, exec c s = .next t ∧ P t := State.priv_performs hc h hr hP

theorem State.iWrite_refuses {k : Nat} (hc : exec c s = .next (s.iWrite who code hob args refuse act))
    (h : s.mayAct who [.installer] = true) (hr : refuse = k) (hk : k ≠ 0) :
    ∃ t, exec c s = .next t ∧ s.acted t who code k ∧ t = { s with log := t.log, logSeq := t.logSeq, out := t.out } :=
  State.priv_refuses hc h hr hk

theorem State.iWrite_turns_away (hst : s.st ≠ .off) (hup : s.resets.hearthDown = false)
    (hau : s.authorised who [.installer] = false) (hc : exec c s = .next (s.iWrite who code hob args refuse act)) :
    ∃ t, exec c s = .next t ∧ s.turnedAway t who := State.priv_turns_away hst hup hau hc

end

/-! ### Actions with a command of their own around `priv` -/

/-- Every write to `HRT_RST_CMD` is one privileged action (R330). -/
theorem State.rstAction_eq_priv (s : State) (who : Who) (action arg : Nat) :
    ∃ args refuse act, s.rstAction who action arg = s.priv who [.installer, .maker] 0x0107 0xFF args refuse act := by
  unfold State.rstAction
  split <;> exact ⟨_, _, _, rfl⟩

theorem State.rstAction_turns_away {s : State} {c : Instr} {who : Who} {action arg : Nat} (hst : s.st ≠ .off)
    (hup : s.resets.hearthDown = false) (hau : s.authorised who [.installer, .maker] = false)
    (hc : exec c s = .next (s.rstAction who action arg)) : ∃ t, exec c s = .next t ∧ s.turnedAway t who := by
  obtain ⟨args, refuse, act, h⟩ := s.rstAction_eq_priv who action arg
  exact State.priv_turns_away hst hup hau (hc.trans (congrArg _ h))

/-- A second record after the refusal, of anything else, leaves it a refusal. -/
theorem State.turnedAway_logAdd (s : State) (who : Who) (code hob : Nat) (args : List Nat) (o : Out) (r : LogRec) :
    s.turnedAway (((s.logAdd (s.privRec who code hob args 1)).emit o).logAdd r) who := by
  refine ⟨by rw [State.logAdd_eq, s.logAdd_eq]; rfl, fun hl => ⟨s.stamped (s.privRec who code hob args 1), ?_, rfl, rfl, rfl⟩⟩
  exact List.mem_of_mem_take (State.logAdd_newest _ _ _ 2 (by decide) (s.stamped_mem_logAdd _ hl))

/-- A PERTURB write that is refused for its value as well is logged once more (R323). -/
theorem execPerturbSet_turns_away {s : State} (who : Who) (i : Fin 16) (v : BitVec 128) (hst : s.st ≠ .off)
    (hup : s.resets.hearthDown = false) (hau : s.authorised who [.installer, .maker] = false) :
    ∃ t, exec (.perturbSet who i v) s = .next t ∧ s.turnedAway t who := by
  refine ⟨_, rfl, ?_⟩
  rw [State.priv_unauthorised _ _ _ _ _ _ _ _ hst hup hau]
  generalize (if s.st = .off || s.down then 4 else s.perturbRefused i.val (perturbOf v.toNat)) = refuse
  by_cases h : refuse = 0
  · rw [if_pos h]
    exact s.turnedAway_privRec who 0x010B _ _ _
  · rw [if_neg h]
    exact s.turnedAway_logAdd who 0x010B _ _ _ _

/-- While the firmware runs, an update command is a privileged action of the installer (R384). -/
theorem State.fwAct_eq_priv (s : State) (who : Who) (args : List Nat) (refuse : Nat) (act : State → State)
    (h : s.fw.recovery = false) : s.fwAct who args refuse act = s.priv who [.installer] 0x010D 0xFF args refuse act := by
  simp [State.fwAct, h]

/-- PLDM answers while the hearth is in service (R384). -/
theorem State.pldmUp_of_up (s : State) (hst : s.st ≠ .off) (hup : s.resets.hearthDown = false) : s.pldmUp = true := by
  simp [State.pldmUp, hst, hup]

theorem State.fwAct_turns_away {s : State} {c : Instr} {who : Who} {args : List Nat} {refuse : Nat} {act : State → State}
    (hst : s.st ≠ .off) (hup : s.resets.hearthDown = false) (hau : s.authorised who [.installer] = false)
    (hrec : s.fw.recovery = false) (hc : s.pldmUp = true → exec c s = .next (s.fwAct who args refuse act)) :
    ∃ t, exec c s = .next t ∧ s.turnedAway t who := by
  have hact := hc (s.pldmUp_of_up hst hup)
  rw [s.fwAct_eq_priv who args refuse act hrec] at hact
  exact State.priv_turns_away hst hup hau hact

/-- Settles O55. Each listed command is one privileged action, which turns its sender away. -/
theorem privilegedActionsNeedTheirRole : Obligations.PrivilegedActionsNeedTheirRole := by
  unfold Obligations.PrivilegedActionsNeedTheirRole
  refine ⟨?installer, ?maker, ?reset, ?update, ?readout⟩
  case installer =>
    intro who dest b port on hob grant cred stack bw v w start len i lic sigOk serialOk s c hst hup hau hc
    simp only [List.mem_cons, List.not_mem_nil, or_false] at hc
    rcases hc with rfl | rfl | rfl | rfl | rfl | rfl | rfl | rfl | rfl | rfl | rfl | rfl | rfl | rfl | rfl | rfl | rfl | rfl | rfl
    iterate 10 exact State.priv_turns_away hst hup hau rfl
    all_goals exact State.iWrite_turns_away hst hup hau rfl
  case maker =>
    intro who nonce version lifeMs permits bad cell keys sigOk serialOk s c hst hup hau hc
    simp only [List.mem_cons, List.not_mem_nil, or_false] at hc
    rcases hc with rfl | rfl | rfl | rfl | rfl <;> exact State.priv_turns_away hst hup hau rfl
  case reset =>
    intro who arg i v w s c hst hup hau hc
    simp only [List.mem_cons, List.not_mem_nil, or_false] at hc
    rcases hc with rfl | rfl | rfl | rfl | rfl | rfl | rfl | rfl
    case inr.inr.inr.inr.inr.inr.inl => exact execPerturbSet_turns_away who i v hst hup hau
    all_goals exact State.rstAction_turns_away hst hup hau rfl
  case update =>
    intro who comps comp size svn s c hst hup hau hrec hc
    simp only [List.mem_cons, List.not_mem_nil, or_false] at hc
    rcases hc with rfl | rfl | rfl | rfl | rfl | rfl | rfl
    case inr.inr.inr.inr.inl => exact State.fwAct_turns_away hst hup hau hrec fun h => if_neg (by simp [h])
    iterate 2 exact State.fwAct_turns_away hst hup hau hrec fun _ => rfl
    all_goals exact State.fwAct_turns_away hst hup hau hrec fun h => if_pos h
  case readout =>
    intro who seq s hau
    exact ⟨s, if_pos (by simp [hau]), rfl, if_pos (by simp [hau])⟩

end Sys2Proof.Machine
end

section
/-! What the actions of the installer leave of the hobs (R237, R239, R352, R373). -/

namespace Sys2Proof.Machine

open Sys2Proof

/-! ### Operations that leave every hob as it was -/

theorem State.hob_of_hobs {s t : State} (h : t.hobs = s.hobs) (k : Nat) : t.hob k = s.hob k := by rw [State.hob, h, State.hob]

theorem State.resetFn_hobs (s : State) (p f : Nat) : (s.resetFn p f).hobs = s.hobs := rfl

theorem State.endAuth_hobs (s : State) (h : Nat) : (s.endAuth h).hobs = s.hobs :=
  State.each_proj State.hobs s _ _ fun _ _ => rfl

theorem State.readLine_hobs (s : State) (dev : Nat) : (s.readLine dev).2.hobs = s.hobs := by
  unfold State.readLine
  dsimp only
  split
  · rfl
  · dsimp only
    split <;> rfl

theorem State.foldLine_hobs (s : State) (from_ base i : Nat) : (s.foldLine from_ base i).hobs = s.hobs := by
  unfold State.foldLine
  simp only [State.putLine_frame, State.readLine_hobs]

theorem State.fold_hobs (s : State) (key : Nat) : (s.fold key).hobs = s.hobs := by
  unfold State.fold
  split
  · rfl
  · simp only [State.modStack_frame, State.setRdrs_frame, State.touchStack]
    exact State.each_proj State.hobs s _ _ fun x i => x.foldLine_hobs _ _ i

/-! ### Projections of a hob that an operation leaves -/

section

variable {β : Type} (π : Hob → β) (s : State) (h k : Nat)

theorem State.modHob_proj (f : Hob → Hob) (hf : ∀ y, π (f y) = π y) : π ((s.modHob h f).hob k) = π (s.hob k) := by
  rw [State.hob_modHob]
  split
  · next hk => rw [hf, hk]
  · rfl

/-- An event of a hob that finds no room is counted in the hob; nothing else of any hob changes (R231). -/
theorem State.hobEvent_proj (hπ : ∀ y n, π { y with lostEvents := n } = π y) (status detail info1 : Nat) :
    π ((s.hobEvent h status detail info1).hob k) = π (s.hob k) := by
  unfold State.hobEvent
  dsimp only
  split
  · exact congrArg π (State.hob_of_hobs (by simp) k)
  · rw [State.modHob_proj π _ h k _ fun y => hπ y _]
    exact congrArg π (State.hob_of_hobs (by simp) k)

/-- `HP_HOB_OVERQ` follows use; beside it at most a lost event is counted (R239). -/
theorem State.recheckOver_proj (hπ : ∀ y n, π { y with lostEvents := n } = π y) (ho : ∀ y a, π { y with overq := a } = π y) :
    π ((s.recheckOver h).hob k) = π (s.hob k) := by
  unfold State.recheckOver State.setOver
  dsimp only
  split
  · exact State.modHob_proj π s h k _ fun y => ho y _
  · rw [State.hobEvent_proj π _ h k hπ]
    exact State.modHob_proj π s h k _ fun y => ho y _

/-- A PERTURB setting that ends may end its hold of a hob (R325). -/
theorem State.endPerturb_proj (hπ : ∀ y c, π (Hob.endCause y c) = π y) (i : Nat) : π ((s.endPerturb i).hob k) = π (s.hob k) := by
  unfold State.endPerturb
  dsimp only
  split
  · rfl
  · simp only [State.logDev_parts]
    split
    · exact State.modHob_proj π _ _ k _ fun y => hπ y 7
    · rfl

theorem State.endPerturbs_proj (hπ : ∀ y c, π (Hob.endCause y c) = π y) (f : Perturb → Bool) :
    π ((s.endPerturbs f).hob k) = π (s.hob k) :=
  State.each_proj (fun s => π (s.hob k)) s _ _ fun x e => State.endPerturb_proj π x k hπ e.1

end

/-! ### GRANT_SET and CREDENTIAL_SET -/

/-- The state and the grant of a hob. -/
def Hob.standing (z : Hob) : HobState × Grant := (z.st, z.grant)

theorem State.breachAt_standing (s : State) (h : Nat) (e : End) (k : Nat) :
    ((s.breachAt h e).hob k).standing = (s.hob k).standing :=
  State.modHob_proj Hob.standing s h k _ fun _ => rfl

/-- A hob that loses its host keeps its state and its grant (R241). -/
theorem State.loseHost_standing (s : State) (h k : Nat) : ((s.loseHost h).hob k).standing = (s.hob k).standing := by
  unfold State.loseHost
  refine Eq.trans (State.modHob_proj Hob.standing _ h k _ ?fields) ?_
  case fields => exact fun _ => rfl
  simp only [State.modCells_parts]
  split
  all_goals
    split
    · exact State.breachAt_standing _ h _ k
    · rfl

/-- Erasing a hob's jars leaves every hob its state and grant (R352). -/
theorem State.eraseJars_standing (s : State) (h k : Nat) : ((s.eraseJars h).hob k).standing = (s.hob k).standing := by
  unfold State.eraseJars
  refine Eq.trans (State.recheckOver_proj Hob.standing _ h k (fun _ _ => rfl) fun _ _ => rfl) ?_
  refine Eq.trans (State.modHob_proj Hob.standing _ h k _ ?fields) ?_
  case fields => exact fun _ => rfl
  refine congrArg Hob.standing (State.hob_of_hobs ?_ k)
  rw [State.ite_hobs]
  split
  on_goal 1 => refine (State.each_proj State.hobs _ _ _ fun x (e : Nat × Rdr) => x.fold_hobs e.1).trans ?_
  all_goals
    split
    · split
      · simp only [State.complete_frame]
      · rfl
    · rfl

theorem State.eraseJars_jars (s : State) (h : Nat) : ((s.eraseJars h).hob h).jars = [] := by
  unfold State.eraseJars
  refine Eq.trans (State.recheckOver_proj Hob.jars _ h h (fun _ _ => rfl) fun _ _ => rfl) ?_
  rw [State.hob_modHob, if_pos rfl]

/-- What GRANT_SET does once it is logged. -/
def State.regrant (s : State) (h : Nat) (old g : Grant) : State :=
  let s1 := if old.valid && (!g.valid || old.hport != g.hport) then ((s.loseHost h).endAuth h).resetFn old.hport.toNat (h + 1) else s
  let s2 := s1.modHob h fun y =>
    let z := { y with grant := g }
    { z with simmer := { z.simmer with share := BitVec.ofNat 8 z.share } }
  let s3 := if old.valid && !g.valid then s2.eraseJars h else s2
  let s4 := if g.test then s3 else s3.endPerturbs fun x => x.hob.toNat == h
  s4.recheckOver h

/-- GRANT_SET is a privileged action that regrants (R237). -/
theorem exec_grantSet (who : Who) (hob : HobId) (g : Grant) (s : State) :
    exec (.grantSet who hob g) s = .next (s.priv who [.installer] 0x0102 hob.val [g.word, g.extWord] (s.grantRefused hob.val g)
      fun u => u.regrant hob.val (s.hob hob.val).grant g) := rfl

/-- A hob that moves to another port loses its old host, with its state and grant as they were (R241). -/
theorem State.moved_standing (s : State) (h p f k : Nat) (moves : Bool) :
    ((if moves then ((s.loseHost h).endAuth h).resetFn p f else s).hob k).standing = (s.hob k).standing := by
  cases moves
  · rfl
  · refine (congrArg Hob.standing (State.hob_of_hobs ?_ k)).trans (s.loseHost_standing h k)
    exact (State.resetFn_hobs _ p f).trans (State.endAuth_hobs _ h)

/-- A new grant is the hob's, whose state it leaves; every other hob keeps its state and grant. -/
theorem State.regrant_standing (s : State) (h : Nat) (old g : Grant) (k : Nat) :
    ((s.regrant h old g).hob k).standing = if k = h then ((s.hob h).st, g) else (s.hob k).standing := by
  have hmove := fun k => s.moved_standing h old.hport.toNat (h + 1) k (old.valid && (!g.valid || old.hport != g.hport))
  unfold State.regrant
  refine Eq.trans (State.recheckOver_proj Hob.standing _ h k (fun _ _ => rfl) fun _ _ => rfl) ?_
  have hperturb : ∀ u : State, ((if g.test then u else u.endPerturbs fun x => x.hob.toNat == h).hob k).standing = (u.hob k).standing := by
    intro u
    split
    · rfl
    · exact State.endPerturbs_proj Hob.standing u k (fun _ _ => rfl) _
  have hjars : ∀ u : State, ((if old.valid && !g.valid then u.eraseJars h else u).hob k).standing = (u.hob k).standing := by
    intro u
    split
    · exact u.eraseJars_standing h k
    · rfl
  refine ((hperturb _).trans (hjars _)).trans ?_
  rw [State.hob_modHob]
  split
  · exact congrArg (fun x => (x.1, g)) (hmove h)
  · exact hmove k

/-- What CREDENTIAL_SET does once it is logged. -/
def State.storeCred (s : State) (h cred : Nat) : State :=
  (if cred = (s.hob h).cred then s else s.eraseJars h).modHob h fun y => { y with cred := cred }

/-- CREDENTIAL_SET is a privileged action that stores the credential (R373). -/
theorem exec_credentialSet (who : Who) (hob : HobId) (cred : Nat) (s : State) :
    exec (.credentialSet who hob cred) s =
      .next (s.priv who [.installer] 0x0103 hob.val [] 0 fun u => u.storeCred hob.val cred) := rfl

theorem State.storeCred_cred (s : State) (h cred : Nat) : ((s.storeCred h cred).hob h).cred = cred := by
  rw [State.storeCred, State.hob_modHob, if_pos rfl]

/-- A credential that changes erases the jars (R352). -/
theorem State.storeCred_jars (s : State) (h cred : Nat) (hne : cred ≠ (s.hob h).cred) : ((s.storeCred h cred).hob h).jars = [] := by
  rw [State.storeCred, State.hob_modHob, if_pos rfl, if_neg hne]
  exact s.eraseJars_jars h

/-- The credential that a hob has changes nothing but how the hobs are listed. -/
theorem State.storeCred_same (s : State) (h cred : Nat) (heq : cred = (s.hob h).cred) :
    s.storeCred h cred = { s with hobs := (s.storeCred h cred).hobs } ∧ ∀ k, (s.storeCred h cred).hob k = s.hob k := by
  rw [State.storeCred, if_pos heq]
  refine ⟨rfl, fun k => ?_⟩
  rw [State.hob_modHob]
  split
  · next hk => rw [hk, heq]
  · rfl

/-- Licences that lack one of those held are fewer. -/
theorem licences_filter_length_ne (l : List Licence) (i : Nat) (h : (l.any fun x => x.id == i) = true) :
    (l.filter fun x => x.id != i).length ≠ l.length := by
  obtain ⟨x, hx, hid⟩ := List.any_eq_true.mp h
  intro hlen
  have hall := List.filter_eq_self.mp (List.filter_sublist.eq_of_length hlen) x hx
  simp_all

/-- Settles O47. Each command is one privileged action; what it does is read off its own update of the state, but for a grant and a
credential, whose effects on the hobs are the lemmas above. -/
theorem installersConfigureTheModule : Obligations.InstallersConfigureTheModule := by
  unfold Obligations.InstallersConfigureTheModule
  refine ⟨?ownership, ?grant, ?credential, ?window, ?windowFull, ?power, ?powerOut, ?maintenance, ?maintenanceOut, ?install, ?remove⟩
  case ownership =>
    intro who key sysTag devId s hst hup hlog hown
    refine ⟨_, by simp only [exec, execTakeOwnership, hst, hup, hown, hlog, decide_false, Bool.or_false, Bool.false_eq_true,
      Bool.false_and, Bool.not_false, if_false, if_true, ne_eq, not_true_eq_false, done]; rfl, ?_, ?_⟩
    · exact State.acted_of_log _ hlog rfl rfl rfl rfl rfl
    · rw [s.logAdd_eq]
      rfl
  case grant =>
    intro who hob g s h hr
    refine State.priv_performs (exec_grantSet who hob g s) h hr fun l n _ => ?_
    have hstand := State.regrant_standing { s with log := l, logSeq := n } hob.val (s.hob hob.val).grant g
    have hself := (hstand hob.val).trans (if_pos rfl)
    refine ⟨congrArg Prod.snd hself, congrArg Prod.fst hself, rfl, fun k _ hk => ?_⟩
    exact congrArg Prod.snd ((hstand k).trans (if_neg hk))
  case credential =>
    intro who hob cred s h
    refine State.priv_performs (exec_credentialSet who hob cred s) h rfl fun l n _ => ?_
    have hsame := State.storeCred_same { s with log := l, logSeq := n } hob.val cred
    have hcred := State.storeCred_cred { s with log := l, logSeq := n } hob.val cred
    have hjars := State.storeCred_jars { s with log := l, logSeq := n } hob.val cred
    refine ⟨hcred, rfl, hjars, fun heq => ⟨?_, (hsame heq).2⟩⟩
    rw [(hsame heq).1]
    rfl
  case window =>
    intro who hob stack on bw s h hsum
    refine State.priv_performs rfl h (if_neg (by omega)) fun l n hact => ⟨rfl, hact _ rfl, ?_⟩
    simp only [State.logged_modHob_hob, Tab.get_upd, if_true]
    exact ⟨trivial, trivial, fun k hk => if_neg hk, fun k hk => if_neg hk⟩
  case windowFull =>
    intro who hob stack on bw s h hsum
    obtain ⟨t, ht, hact, heq⟩ := State.priv_refuses (c := .rsvWindowSet who hob stack on bw) (k := 2) rfl h (if_pos hsum) (by decide)
    exact ⟨t, ht, heq, hact⟩
  case power =>
    intro who v s h h1 h2 h3 h4
    exact State.priv_performs rfl h (if_pos (by simp [*])) fun l n hact => ⟨hact _ rfl, rfl⟩
  case powerOut =>
    intro who v s h hout
    exact State.priv_refuses rfl h (if_neg (by simp only [decide_eq_true_eq]; omega)) (by decide)
  case maintenance =>
    intro who len s h h1 h2 hw
    exact State.priv_performs rfl h (by simp [*]) fun l n hact => ⟨hact _ rfl, rfl⟩
  case maintenanceOut =>
    intro who start len s h hout
    exact State.priv_refuses rfl h (by simp; omega) (by decide)
  case install =>
    intro who lic s h hf hnew hlen
    exact State.priv_performs rfl h (by simp [hf, hnew, hlen]) fun l n hact => ⟨hact _ rfl, rfl⟩
  case remove =>
    intro who i s h hany hcov
    exact State.priv_performs rfl h (by simp [licences_filter_length_ne _ i hany, hcov]) fun l n hact => ⟨hact _ rfl, rfl⟩

end Sys2Proof.Machine
end

section
/-! What a register write leaves and stores (R221 to R224, R256, R263, R264, R316, R330, R357, R367). -/

namespace Sys2Proof.Machine

open Sys2Proof

/-! ### Functions and rings of the host ports -/

/-- A change of one function leaves every other. -/
theorem State.modFn_fnSt (s : State) (p f p' f' : Nat) (g : Fn → Fn) :
    ((s.modFn p f g).host p').fnSt f' = if (p', f') = (p, f) then g ((s.host p).fnSt f) else (s.host p').fnSt f' := by
  simp only [State.modFn, State.host_modHost, HostPort.modFn, HostPort.fnSt]
  by_cases hp : p' = p
  · subst hp
    by_cases hf : f' = f <;> simp [hf]
  · simp [hp]

/-- A change of one ring leaves every other. -/
theorem State.modRing_ring_of_ne (s : State) (p f r p' f' r' : Nat) (g : Ring → Ring) (h : (p', f', r') ≠ (p, f, r)) :
    (s.modRing p f r g).ring p' f' r' = s.ring p' f' r' := by
  simp only [State.ring, State.modRing, State.modFn_fnSt]
  split
  · next hpf =>
    obtain ⟨rfl, rfl⟩ := Prod.mk.inj hpf
    have hr : r' ≠ r := fun hr => h (by rw [hr])
    simp [Fn.ring, Fn.modRing, hr]
  · rfl

/-- A write to the registers of a ring that is disabled, by a function that is open and authenticated (R224). -/
theorem State.writeRing_disabled (s : State) (p f r : Nat) (g : Ring → Ring) (hopen : s.barOpen p f = true)
    (hring : ringExists f r = true) (hauth : ((s.host p).fnSt f).authOk = true) (hen : (s.ring p f r).en = false) :
    s.writeRing p f r g = s.modRing p f r g := by
  simp [State.writeRing, hopen, hring, hauth, hen]

/-- An enabled ring ignores the write (R224). -/
theorem State.writeRing_enabled (s : State) (p f r : Nat) (g : Ring → Ring) (hen : (s.ring p f r).en = true) :
    s.writeRing p f r g = s := by
  simp [State.writeRing, hen]

/-- What such a write stores: the ring changed by it, every other ring as it was, and nothing outside the host ports. -/
theorem State.writeRing_stores (s : State) (p f r : Nat) (g : Ring → Ring) (hopen : s.barOpen p f = true)
    (hring : ringExists f r = true) (hauth : ((s.host p).fnSt f).authOk = true) (hen : (s.ring p f r).en = false) :
    let t := s.writeRing p f r g
    t = { s with hosts := t.hosts } ∧ t.ring p f r = g (s.ring p f r) ∧
      ∀ p' f' r', (p', f', r') ≠ (p, f, r) → t.ring p' f' r' = s.ring p' f' r' := by
  intro t
  have ht : t = s.modRing p f r g := s.writeRing_disabled p f r g hopen hring hauth hen
  rw [ht]
  exact ⟨rfl, s.modRing_ring p f r g, fun p' f' r' => s.modRing_ring_of_ne p f r p' f' r' g⟩

/-- `HP_RING_CFG` with a size in 2⁶ to 2¹⁶ sets its fields. -/
theorem ringCfg_in (v : Nat) (x : Ring) (h1 : 6 ≤ bits 56 52 v) (h2 : bits 56 52 v ≤ 16) :
    ringCfg v x = { x with
      hot := bit 62 v, log2 := BitVec.ofNat 5 (bits 56 52 v), vec := BitVec.ofNat 3 (bits 50 48 v),
      count := BitVec.ofNat 8 (bits 47 40 v), time := BitVec.ofNat 10 (bits 39 30 v) } := by
  unfold ringCfg
  rw [if_neg (by simp; omega)]

/-- One with a size outside is not stored. -/
theorem ringCfg_out (v : Nat) (x : Ring) (h : bits 56 52 v < 6 ∨ 16 < bits 56 52 v) : ringCfg v x = x := by
  unfold ringCfg
  rw [if_pos (by simpa using h)]

/-- An MSI-X entry whose vector has no message pending, or stays masked, is stored alone. -/
theorem State.writeMsix_quiet (s : State) (p f e : Nat) (v : BitVec 128)
    (h : ((s.host p).fnSt f).pba.getLsbD e = false ∨ v.getLsbD 96 = true) :
    s.writeMsix p f e v = s.modFn p f fun x => { x with msix := x.msix.put msixReset e v } := by
  unfold State.writeMsix
  rw [if_neg]
  rw [State.modFn_fnSt, if_pos rfl]
  rcases h with h | h <;> simp [h]

/-- A function whose entry is stored, and whose message of that vector is pending no more. -/
def State.unmaskMsix (s : State) (p f e : Nat) (v : BitVec 128) : State :=
  (s.modFn p f fun x => { x with msix := x.msix.put msixReset e v }).modFn p f fun x => { x with pba := x.pba &&& ~~~((1 : BitVec 8) <<< e) }

theorem State.unmaskMsix_eq (s : State) (p f e : Nat) (v : BitVec 128) :
    s.unmaskMsix p f e v = { s with hosts := (s.unmaskMsix p f e v).hosts } := rfl

theorem State.unmaskMsix_fnSt (s : State) (p f e : Nat) (v : BitVec 128) :
    ((s.unmaskMsix p f e v).host p).fnSt f = { (s.host p).fnSt f with
      msix := ((s.host p).fnSt f).msix.put msixReset e v, pba := ((s.host p).fnSt f).pba &&& ~~~((1 : BitVec 8) <<< e) } := by
  simp only [State.unmaskMsix, State.modFn_fnSt, if_true]

/-- One that unmasks a vector with a message pending sends it (R221). -/
theorem State.writeMsix_sends (s : State) (p f e : Nat) (v : BitVec 128) (hp : ((s.host p).fnSt f).pba.getLsbD e = true)
    (hv : v.getLsbD 96 = false) : s.writeMsix p f e v = (s.unmaskMsix p f e v).emit (.msix p f e) := by
  unfold State.writeMsix
  rw [if_pos]
  · rfl
  · rw [State.modFn_fnSt, if_pos rfl, hp, hv]
    rfl

/-! ### Lanper ports -/

/-- A parked port that nothing keeps down relights (R259). -/
theorem State.relight_parked (s : State) (p : Nat) (hpark : (s.lnp p).parked = true) (hf : (s.lnp p).fenced = false)
    (hr : (s.lnp p).resetting = false) :
    s.relight p = s.setLnp p { s.lnp p with parked := false, relighting := true, st := .training, since := s.now } := by
  simp [State.relight, hpark, hf, hr]

/-- The ports after an action that changed one of them. -/
theorem State.logged_modLnp_lnp (s : State) (l : List LogRec) (n p : Nat) (f : Lnp → Lnp) (o : Out) (k : Nat) :
    ((({ s with log := l, logSeq := n } : State).modLnp p f).emit o).lnp k = if k = p then f (s.lnp p) else s.lnp k :=
  State.lnp_modLnp { s with log := l, logSeq := n } p k f

/-- The route of a destination as `LNP_ROUTE` stores it (R256). -/
def State.routed (s : State) (dest v : Nat) : State :=
  { s with hearth := { s.hearth with
      routes := s.hearth.routes.put none dest (if bit 7 v then some (BitVec.ofNat 4 (bits 3 0 v)) else none)
      routeIdle := s.hearth.routeIdle.put 0 dest (if bit 7 v then 0 else BitVec.ofNat 4 (bits 3 0 v)) } }

/-- What a write to `LNP_ROUTE` does once it is logged. -/
def State.setRoute (s : State) (dest v : Nat) : State :=
  if bit 7 v && (s.lnp (bits 3 0 v)).parked then (s.routed dest v).relight (bits 3 0 v) else s.routed dest v

/-- A write to `LNP_ROUTE` is a privileged action that sets the route. -/
theorem exec_lnpRoute (who : Who) (dest : BitVec 13) (v : Byte) (s : State) :
    exec (.registerWrite who (.lnpRoute dest v)) s =
      .next (s.iWrite who 0x0105 0xFF [7, dest.toNat, v.toNat] 0 fun u => u.setRoute dest.toNat v.toNat) := rfl

/-- An entry that is not valid, or whose port is not parked, is stored alone. -/
theorem State.setRoute_alone (s : State) (dest v : Nat) (h : bit 7 v = false ∨ (s.lnp (bits 3 0 v)).parked = false) :
    s.setRoute dest v = s.routed dest v := by
  rcases h with h | h <;> simp [State.setRoute, h]

/-- A valid entry relights its port where it is parked and nothing keeps it down (R259). -/
theorem State.setRoute_relights (s : State) (dest v : Nat) (hv : bit 7 v = true) (hpark : (s.lnp (bits 3 0 v)).parked = true)
    (hf : (s.lnp (bits 3 0 v)).fenced = false) (hr : (s.lnp (bits 3 0 v)).resetting = false) :
    ∃ x y, s.setRoute dest v = { s with hearth := x, lnps := y } ∧
      x.routes.get none dest = some (BitVec.ofNat 4 (bits 3 0 v)) ∧
      y.get {} (bits 3 0 v) = { s.lnp (bits 3 0 v) with parked := false, relighting := true, st := .training, since := s.now } ∧
      ∀ p, p ≠ bits 3 0 v → y.get {} p = s.lnp p := by
  have ht : s.setRoute dest v = (s.routed dest v).setLnp (bits 3 0 v)
      { s.lnp (bits 3 0 v) with parked := false, relighting := true, st := .training, since := s.now } := by
    simp only [State.setRoute, hv, hpark, Bool.and_self, if_true]
    exact State.relight_parked (s.routed dest v) _ hpark hf hr
  refine ⟨_, _, ht, ?_, (Tab.get_put _ _ _ _ _).trans (if_pos rfl), fun p hp => (Tab.get_put _ _ _ _ _).trans (if_neg hp)⟩
  exact (Tab.get_put _ _ _ _ _).trans (by rw [if_pos rfl, if_pos hv])

/-! ### Bits of a register -/

/-- A field is below the power of its width. -/
theorem bits_lt (hi lo v : Nat) : bits hi lo v < 2 ^ (hi - lo + 1) := Nat.mod_lt _ (by positivity)

theorem bit_toNat {w : Nat} (i : Nat) (v : BitVec w) : bit i v.toNat = v.getLsbD i := by
  simp only [bit, bits, Nat.sub_self, Nat.zero_add, Nat.pow_one, BitVec.getLsbD, Nat.testBit_eq_decide_div_mod_eq]
  rfl

theorem outOf_false {lo hi v : Nat} (h1 : lo ≤ v) (h2 : v ≤ hi) : outOf lo hi v = false := by
  simp [outOf, h1, h2]

theorem outOf_true {lo hi v : Nat} (h : v < lo ∨ hi < v) : outOf lo hi v = true := by
  simpa [outOf] using h

/-! ### `LNP_JAR_ACL` (R262, R264) -/

/-- The bits of the register that are not reserved. -/
def aclMask : W64 := 0x9FFF9FFF9FFF9FFF

/-- The write keeps the bits of the mask. -/
theorem jarAcl_masked (v : W64) :
    BitVec.ofNat 64 (v.toNat &&& (List.range 4).foldl (fun n i => n + 0x9FFF * 2 ^ (16 * i)) 0) = v &&& aclMask := by
  rw [BitVec.ofNat_and, BitVec.ofNat_toNat, BitVec.setWidth_eq]
  rfl

/-- With no valid bit, the valid bits of the mask do not matter. -/
theorem acl_without_valid (v : W64) (h : ∀ n ∈ [15, 31, 47, 63], v.getLsbD n = false) :
    v &&& aclMask = v &&& 0x1FFF1FFF1FFF1FFF := by
  have hvalid : v &&& 0x8000800080008000 = 0#64 := by
    refine BitVec.eq_of_getLsbD_eq fun i hi => ?_
    have hbits : ∀ i < 64, (0x8000800080008000 : W64).getLsbD i = true → i ∈ [15, 31, 47, 63] := by decide
    rw [BitVec.getLsbD_and]
    cases hm : (0x8000800080008000 : W64).getLsbD i
    · simp
    · simp [h i (hbits i hi hm)]
  have hmask : aclMask = 0x1FFF1FFF1FFF1FFF ||| 0x8000800080008000 := by decide
  rw [hmask, BitVec.and_or_distrib_left, hvalid, BitVec.or_zero]

/-- A register without a valid field needs no licence. -/
theorem acl_needs_no_licence (v : W64) (h : ∀ n ∈ [15, 31, 47, 63], v.getLsbD n = false) :
    ((List.range 4).any fun n => bit (16 * n + 15) v.toNat) = false := by
  simp only [bit_toNat]
  simpa [List.range_succ] using h

/-! ### A register that is stored in one part -/

section

variable {s : State} {who : Who} {code hob refuse : Nat} {args : List Nat} {act : State → State} {c : Instr}

/-- A register of a hob that is stored: the action changes that hob alone. -/
theorem State.iWrite_stores_hob {h : Nat} {f : Hob → Hob}
    (hc : exec c s = .next (s.iWrite who code hob args refuse fun u => u.modHob h f)) (hm : s.mayAct who [.installer] = true)
    (hr : refuse = 0) :
    ∃ t, exec c s = .next t ∧ s.acted t who code 0 ∧
      t = { s with hobs := t.hobs, log := t.log, logSeq := t.logSeq, out := t.out } ∧
      t.hob h = f (s.hob h) ∧ ∀ k, k ≠ h → t.hob k = s.hob k :=
  State.iWrite_performs hc hm hr fun l n hact => ⟨hact _ rfl, rfl,
    (s.logged_modHob_hob l n h f _ h).trans (if_pos rfl), fun k hk => (s.logged_modHob_hob l n h f _ k).trans (if_neg hk)⟩

/-- A register of a Lanper port that is stored: the action changes that port alone. -/
theorem State.iWrite_stores_lnp {p : Nat} {f : Lnp → Lnp}
    (hc : exec c s = .next (s.iWrite who code hob args refuse fun u => u.modLnp p f)) (hm : s.mayAct who [.installer] = true)
    (hr : refuse = 0) :
    ∃ t, exec c s = .next t ∧ s.acted t who code 0 ∧
      t = { s with lnps := t.lnps, log := t.log, logSeq := t.logSeq, out := t.out } ∧
      t.lnp p = f (s.lnp p) ∧ ∀ k, k ≠ p → t.lnp k = s.lnp k :=
  State.iWrite_performs hc hm hr fun l n hact => ⟨hact _ rfl, rfl,
    (s.logged_modLnp_lnp l n p f _ p).trans (if_pos rfl), fun k hk => (s.logged_modLnp_lnp l n p f _ k).trans (if_neg hk)⟩

end

/-- Settles O54. A ring's registers are stored by `writeRing`, an installer's register by one privileged action whose refusal is the
test of its range. -/
theorem registerWritesKeepTheirFields : Obligations.RegisterWritesKeepTheirFields := by
  unfold Obligations.RegisterWritesKeepTheirFields
  refine ⟨?sq, ?cq, ?db, ?ringIn, ?ringOut, ?ringEnabled, ?authHob, ?msixQuiet, ?msixSends, ?other, ?portCtl, ?portCtlGranted,
    ?ident, ?cfgIn, ?cfgOut, ?route, ?routeParked, ?aclPlain, ?aclLicensed, ?tasteIn, ?tasteOut, ?resetIn, ?resetOut, ?idleIn,
    ?idleOut, ?policyOut, ?policyIn⟩
  case sq => exact fun who port fn ring v s h1 h2 h3 h4 => ⟨_, rfl, s.writeRing_stores _ _ _ _ h1 h2 h3 h4⟩
  case cq => exact fun who port fn ring v s h1 h2 h3 h4 => ⟨_, rfl, s.writeRing_stores _ _ _ _ h1 h2 h3 h4⟩
  case db => exact fun who port fn ring v s h1 h2 h3 h4 => ⟨_, rfl, s.writeRing_stores _ _ _ _ h1 h2 h3 h4⟩
  case ringIn =>
    intro who port fn ring v s h1 h2 h3 h4 hlo hhi
    obtain ⟨heq, hring, hrest⟩ := s.writeRing_stores _ _ _ (ringCfg v.toNat) h1 h2 h3 h4
    exact ⟨_, rfl, heq, hring.trans (ringCfg_in v.toNat _ hlo hhi), hrest⟩
  case ringOut =>
    intro who port fn ring v s h1 h2 h3 h4 hout
    obtain ⟨heq, hring, hrest⟩ := s.writeRing_stores _ _ _ (ringCfg v.toNat) h1 h2 h3 h4
    refine ⟨_, rfl, heq, fun p f r => ?_⟩
    by_cases hp : (p, f, r) = (port.val, fn.val, ring.val)
    · obtain ⟨rfl, hfr⟩ := Prod.mk.inj hp
      obtain ⟨rfl, rfl⟩ := Prod.mk.inj hfr
      exact hring.trans (ringCfg_out v.toNat _ hout)
    · exact hrest p f r hp
  case ringEnabled =>
    intro who port fn ring v s hen
    have hsame := fun g => congrArg (Host.Outcome.next : State → Res) (s.writeRing_enabled port.val fn.val ring.val g hen)
    exact ⟨s, hsame _, hsame _, hsame _, hsame _, rfl⟩
  case authHob =>
    intro who port v s hopen
    refine ⟨_, congrArg Host.Outcome.next (if_pos hopen), rfl, ?_, fun p f hne => ?_⟩
    · exact (s.modFn_fnSt _ _ _ _ _).trans (if_pos rfl)
    · exact (s.modFn_fnSt _ _ _ _ _).trans (if_neg hne)
  case msixQuiet =>
    intro who port fn e v s hopen hq
    refine ⟨_, congrArg Host.Outcome.next ((if_pos hopen).trans (s.writeMsix_quiet _ _ _ _ hq)), rfl, ?_⟩
    rw [State.modFn_fnSt, if_pos rfl]
    refine ⟨by rw [Tab.get_put, if_pos rfl], rfl, fun k hk => by rw [Tab.get_put, if_neg hk]⟩
  case msixSends =>
    intro who port fn e v s hopen hp hv
    refine ⟨_, congrArg Host.Outcome.next ((if_pos hopen).trans (s.writeMsix_sends _ _ _ _ hp hv)), ?_, ?_⟩
    · rw [State.unmaskMsix_eq]
      rfl
    · simp only [State.emit_parts, State.unmaskMsix_fnSt]
      exact ⟨by rw [Tab.get_put, if_pos rfl], by simp⟩
  case other => exact fun who port fn off v s => ⟨s, rfl, rfl⟩
  case portCtl =>
    intro who port v s h hfree
    exact State.iWrite_stores_lnp (c := .registerWrite who (.lnpPortCtl port v)) rfl h
      (if_neg (by rcases hfree with hf | hf <;> simp [hf]))
  case portCtlGranted =>
    intro who port v s h ht hg
    exact State.iWrite_refuses (k := 4) rfl h (if_pos (by simp [ht, hg])) (by decide)
  case ident => exact fun who v s h => State.iWrite_performs rfl h rfl fun l n hact => ⟨hact _ rfl, rfl⟩
  case cfgIn =>
    exact fun who v s h h1 h2 => State.iWrite_performs rfl h (by simp [outOf_false h1 h2]) fun l n hact => ⟨hact _ rfl, rfl⟩
  case cfgOut =>
    exact fun who v s h hout => State.iWrite_refuses (k := 2) rfl h (by simp [outOf_true hout]) (by decide)
  case route =>
    intro who dest v s h hstay
    refine State.iWrite_performs (exec_lnpRoute who dest v s) h rfl fun l n hact => ?_
    rw [State.setRoute_alone { s with log := l, logSeq := n } dest.toNat v.toNat hstay]
    exact ⟨hact _ rfl, rfl⟩
  case routeParked =>
    intro who dest v s h hv hpark hf hr
    refine State.iWrite_performs (exec_lnpRoute who dest v s) h rfl fun l n hact => ?_
    obtain ⟨x, y, heq, hroute, hport, hrest⟩ :=
      State.setRoute_relights { s with log := l, logSeq := n } dest.toNat v.toNat hv hpark hf hr
    rw [heq]
    exact ⟨hact _ rfl, rfl, hroute, hport, hrest⟩
  case aclPlain =>
    intro who hob v s h hn
    have hlic : ((List.range 4).any fun n => bit (16 * n + 15) v.toNat) = false := acl_needs_no_licence v hn
    obtain ⟨t, ht, hact, heq, hhob, hrest⟩ := State.iWrite_stores_hob (c := .registerWrite who (.lnpJarAcl hob v)) rfl h
      (by simp only [hlic, Bool.false_and, Bool.false_eq_true, if_false])
    refine ⟨t, ht, hact, heq, hhob.trans ?_, hrest⟩
    rw [jarAcl_masked, acl_without_valid v hn]
  case aclLicensed =>
    intro who hob v s h hlic
    obtain ⟨t, ht, hact, heq, hhob, hrest⟩ := State.iWrite_stores_hob (c := .registerWrite who (.lnpJarAcl hob v)) rfl h
      (by simp only [hlic, Bool.not_true, Bool.and_false, Bool.false_eq_true, if_false])
    refine ⟨t, ht, hact, heq, hhob.trans ?_, hrest⟩
    rw [jarAcl_masked]
    rfl
  case tasteIn =>
    exact fun who v s h h1 h2 h3 h4 =>
      State.iWrite_performs rfl h (by simp [outOf_false h1 h2, outOf_false h3 h4]) fun l n hact => ⟨hact _ rfl, rfl⟩
  case tasteOut =>
    exact fun who v s h hout => State.iWrite_refuses (k := 2) rfl h (if_pos (by simp [outOf]; omega)) (by decide)
  case resetIn =>
    exact fun who v s h h1 h2 h3 h4 =>
      State.iWrite_performs rfl h (by simp [outOf_false h1 h2, outOf_false h3 h4]) fun l n hact => ⟨hact _ rfl, rfl⟩
  case resetOut =>
    exact fun who v s h hout => State.iWrite_refuses (k := 2) rfl h (if_pos (by simp [outOf]; omega)) (by decide)
  case idleIn =>
    exact fun who v s h h1 => State.iWrite_performs rfl h
      (by simp [outOf_false h1 (Nat.le_of_lt_succ (bits_lt 29 16 v.toNat))]) fun l n hact => ⟨hact _ rfl, rfl⟩
  case idleOut =>
    exact fun who v s h hout => State.iWrite_refuses (k := 2) rfl h (if_pos (outOf_true (.inl hout))) (by decide)
  case policyOut =>
    exact fun who hob v s h hout => State.iWrite_refuses (k := 2) rfl h (if_pos (by simp [outOf]; omega)) (by decide)
  case policyIn =>
    intro who hob v s h h1 h2 h3 h4
    exact State.iWrite_stores_hob (c := .registerWrite who (.pntJarPolicy hob v)) rfl h (if_neg (by
      simp [outOf_false h2 h3, outOf_false h4 (Nat.le_of_lt_succ (bits_lt 23 16 v.toNat)), h1]))

end Sys2Proof.Machine
end

section
/-! An event that a full ring of a VF has no slot for is counted in the VF's hob (R231): a device state that changes can so change the
hobs, which refutes O48. -/

namespace Sys2Proof.Machine

open Sys2Proof

/-! ### Events leave every ring but their own -/

section

variable (s : State) (p f r p' f' r' : Nat)

theorem State.signal_ring_of_ne (h : (p', f', r') ≠ (p, f, r)) : (s.signal p f r).ring p' f' r' = s.ring p' f' r' := by
  unfold State.signal
  dsimp only
  generalize (if (s.ring p f r).count = 0 then 1 else (s.ring p f r).count.toNat) = limit
  split
  · rw [State.interruptMsg_ring, State.modRing_ring_of_ne _ p f r p' f' r' _ h]
  · rw [State.modRing_ring_of_ne _ p f r p' f' r' _ h]

theorem State.record_ring_of_ne (h : (p', f', r') ≠ (p, f, r)) (tag : W32) (status op detail info0 info1 : Nat) (noirq : Bool) :
    (s.record p f r tag status op detail info0 info1 noirq).ring p' f' r' = s.ring p' f' r' := by
  unfold State.record
  dsimp only
  split
  · rw [State.modRing_ring_of_ne _ p f r p' f' r' _ h, State.emit_ring]
  · rw [State.signal_ring_of_ne _ p f r p' f' r' h, State.modRing_ring_of_ne _ p f r p' f' r' _ h, State.emit_ring]

theorem State.eventOn_ring_of_ne (h : (p', f', r') ≠ (p, f, r)) (status detail info0 info1 : Nat) :
    (s.eventOn p f r status detail info0 info1).2.ring p' f' r' = s.ring p' f' r' := by
  unfold State.eventOn
  dsimp only
  generalize ((s.ring p f r).on && if r = 0 then decide ((s.ring p f r).events.length < 16) else decide (1 ≤ (s.ring p f r).slotsLeft r)) = room
  cases room
  case false => rfl
  case true =>
    rw [if_pos rfl]
    dsimp only
    rw [State.record_ring_of_ne _ p f r p' f' r' h, State.modRing_ring_of_ne _ p f r p' f' r' _ h]

theorem State.modHost_lost_ring (g : HostPort → HostPort) (hg : ∀ x, (g x).fns = x.fns) :
    (s.modHost p g).ring p' f' r' = s.ring p' f' r' := by
  simp only [State.ring, State.host_modHost, HostPort.fnSt]
  split
  · next hp => rw [hg, hp]
  · rfl

theorem State.eventOrLose_ring_of_ne (h : (p', f', r') ≠ (p, f, r)) (status detail info0 info1 : Nat) :
    (s.eventOrLose p f r status detail info0 info1).ring p' f' r' = s.ring p' f' r' := by
  have hon := s.eventOn_ring_of_ne p f r p' f' r' h status detail info0 info1
  unfold State.eventOrLose
  dsimp only
  split
  · exact hon
  · split
    · exact (State.modHost_lost_ring _ p p' f' r' (fun x => { x with lostEvents := x.lostEvents + 1 }) fun _ => rfl).trans hon
    · exact hon

end

/-! ### A ring of a VF without room for an event -/

/-- Ring 0 of the VF of a hob runs and holds 16 events. -/
def State.eventsFull (s : State) (p h : Nat) : Prop :=
  (s.ring p (h + 1) 0).on = true ∧ 16 ≤ (s.ring p (h + 1) 0).events.length

theorem State.eventsFull_of_ring {s t : State} {p h : Nat} (ht : t.ring p (h + 1) 0 = s.ring p (h + 1) 0) (hs : s.eventsFull p h) :
    t.eventsFull p h := by
  rw [State.eventsFull, ht]
  exact hs

/-- Lost events of a hob (R231). -/
def State.lost (s : State) (h : Nat) : Nat := (s.hob h).lostEvents

theorem State.lost_emit (s : State) (o : Out) (h : Nat) : (s.emit o).lost h = s.lost h := rfl

/-- An event on that ring is lost, and counted in the hob. -/
theorem State.eventOrLose_full (s : State) (p h : Nat) (hs : s.eventsFull p h) (status detail info0 info1 : Nat) :
    s.eventOrLose p (h + 1) 0 status detail info0 info1 = s.modHob h fun x => { x with lostEvents := x.lostEvents + 1 } := by
  obtain ⟨hon, hlen⟩ := hs
  simp [State.eventOrLose, State.eventOn, hon, Nat.not_lt.mpr hlen]

/-- An event never lowers the count of a hob. -/
theorem State.eventOrLose_lost_le (s : State) (p f r status detail info0 info1 h : Nat) :
    s.lost h ≤ (s.eventOrLose p f r status detail info0 info1).lost h := by
  have hon : (s.eventOn p f r status detail info0 info1).2.hobs = s.hobs := by simp only [State.eventOn_frame]
  have hlost : ∀ t : State, t.hobs = s.hobs → t.lost h = s.lost h := fun t ht => congrArg Hob.lostEvents (State.hob_of_hobs ht h)
  unfold State.eventOrLose
  dsimp only
  split
  · exact (hlost _ hon).ge
  · split
    · exact (hlost _ hon).ge
    · rw [← hlost _ hon, State.lost, State.lost, State.hob_modHob]
      split
      · next hh => rw [hh]; exact Nat.le_succ _
      · exact Nat.le_refl _

/-- Along steps that keep `P` and never lower `m`, a walk keeps `P` and does not lower `m`. -/
theorem State.each_le {α : Type} {P : State → Prop} {m : State → Nat} {g : State → α → State}
    (hg : ∀ s a, P s → P (g s a) ∧ m s ≤ m (g s a)) (l : List α) (s : State) (hs : P s) :
    P (s.each l g) ∧ m s ≤ m (s.each l g) := by
  unfold State.each
  induction l generalizing s with
  | nil => exact ⟨hs, Nat.le_refl _⟩
  | cons a l ih =>
    obtain ⟨h1, h2⟩ := hg s a hs
    obtain ⟨h3, h4⟩ := ih (g s a) h1
    exact ⟨h3, h2.trans h4⟩

/-- One that meets a step which raises `m` raises it. -/
theorem State.each_lt {α : Type} {P : State → Prop} {m : State → Nat} {g : State → α → State}
    (hg : ∀ s a, P s → P (g s a) ∧ m s ≤ m (g s a)) (l : List α) (a : α) (ha : a ∈ l) (hlt : ∀ s, P s → m s < m (g s a)) (s : State)
    (hs : P s) : m s < m (s.each l g) := by
  unfold State.each
  induction l generalizing s with
  | nil => exact absurd ha List.not_mem_nil
  | cons b l ih =>
    obtain ⟨h1, h2⟩ := hg s b hs
    rcases List.mem_cons.mp ha with rfl | hl
    · exact Nat.lt_of_lt_of_le (hlt s hs) (State.each_le hg l _ h1).2
    · exact Nat.lt_of_le_of_lt h2 (ih hl _ h1)

section

variable {p h : Nat} (status detail info0 info1 : Nat)

/-- Every event leaves the ring full and lowers no count. -/
theorem State.eventOrLose_le (s : State) (p' f r : Nat) (hs : s.eventsFull p h) :
    (s.eventOrLose p' f r status detail info0 info1).eventsFull p h ∧
      s.lost h ≤ (s.eventOrLose p' f r status detail info0 info1).lost h := by
  refine ⟨?_, s.eventOrLose_lost_le p' f r status detail info0 info1 h⟩
  by_cases hr : (p, h + 1, 0) = (p', f, r)
  · obtain ⟨rfl, hfr⟩ := Prod.mk.inj hr
    obtain ⟨rfl, rfl⟩ := Prod.mk.inj hfr
    rw [s.eventOrLose_full p h hs]
    exact hs
  · exact State.eventsFull_of_ring (s.eventOrLose_ring_of_ne p' f r p (h + 1) 0 hr status detail info0 info1) hs

theorem State.portEvent_le (s : State) (p' : Nat) (hs : s.eventsFull p h) :
    (s.portEvent p' status detail).eventsFull p h ∧ s.lost h ≤ (s.portEvent p' status detail).lost h :=
  State.each_le (fun s f hs => State.each_le (fun s r hs => s.eventOrLose_le status detail 0 0 p' f r hs) _ s hs) _ s hs

/-- A device event on the rings of the port is lost on the full one. -/
theorem State.portEvent_lt (s : State) (hh : h < 8) (hs : s.eventsFull p h) : s.lost h < (s.portEvent p status detail).lost h := by
  refine State.each_lt (P := fun s => s.eventsFull p h) (m := fun s => s.lost h)
    (fun s f hs => State.each_le (fun s r hs => s.eventOrLose_le status detail 0 0 p f r hs) _ s hs) _ (h + 1) ?_ ?_ s hs
  · simp; omega
  · intro s hs
    refine State.each_lt (P := fun s => s.eventsFull p h) (m := fun s => s.lost h)
      (fun s r hs => s.eventOrLose_le status detail 0 0 p (h + 1) r hs) _ 0 (by decide) ?_ s hs
    intro s hs
    rw [s.eventOrLose_full p h hs, State.lost, State.lost, State.hob_modHob, if_pos rfl]
    exact Nat.lt_succ_self _

/-- One ring of `startVfRings`. -/
def State.startVfRing (s : State) (p f r : Nat) : State :=
  if (s.ring p f r).en && !(s.ring p f r).on then
    s.modRing p f r fun y => { y with on := true, interval := 1000, activeUntil := s.now + 100 * usNs }
  else s

/-- Starting the rings of the VFs leaves a ring that runs. -/
theorem State.startVfRings_le (s : State) (hs : s.eventsFull p h) :
    s.startVfRings.eventsFull p h ∧ s.lost h ≤ s.startVfRings.lost h := by
  have hring : ∀ (p' f r : Nat) (s : State), s.eventsFull p h →
      (s.startVfRing p' f r).eventsFull p h ∧ s.lost h ≤ (s.startVfRing p' f r).lost h := ?_
  · exact State.each_le (fun s p' hs => State.each_le (fun s f hs => State.each_le (fun s r hs => hring p' f r s hs) _ s hs) _ s hs) _ s hs
  intro p' f r s hs
  unfold State.startVfRing
  split
  · next hstart =>
    refine ⟨State.eventsFull_of_ring (State.modRing_ring_of_ne s p' f r p (h + 1) 0 _ fun hr => ?_) hs, Nat.le_refl _⟩
    obtain ⟨rfl, hfr⟩ := Prod.mk.inj hr
    obtain ⟨rfl, rfl⟩ := Prod.mk.inj hfr
    simp [hs.1] at hstart
  · exact ⟨hs, Nat.le_refl _⟩

/-- A device state that changes is told to every running ring: the hob of a VF whose ring is full counts one event lost at least. -/
theorem State.setDev_lt (s : State) (d : DevState) (hd : s.st ≠ d) (hp : p < 4) (hh : h < 8) (hs : s.eventsFull p h) :
    s.lost h < (s.setDev d).lost h := by
  have hstart : ∀ t : State, t.eventsFull p h →
      (if d = .service || d = .degraded then t.startVfRings else t).eventsFull p h ∧
        t.lost h ≤ (if d = .service || d = .degraded then t.startVfRings else t).lost h := by
    intro t ht
    split
    · exact t.startVfRings_le ht
    · exact ⟨ht, Nat.le_refl _⟩
  obtain ⟨hfull, hle⟩ := hstart { s with st := d } hs
  unfold State.setDev
  rw [if_neg hd]
  refine Nat.lt_of_le_of_lt hle ?_
  refine lt_of_eq_of_lt ?_ (State.each_lt (P := fun s => s.eventsFull p h) (m := fun s => s.lost h)
    (fun s p' hs => s.portEvent_le 0 _ p' hs) _ p ?_ (fun s hs => s.portEvent_lt 0 _ hh hs) _ ?_)
  · exact (congrArg Hob.lostEvents (by simp only [State.logDev_parts])).symm
  · simp; omega
  · exact State.eventsFull_of_ring (by simp only [State.ring, State.logDev_parts]) hfull

end

/-- A DEGRADED device without a cause goes back to SERVICE. -/
theorem State.settleService_of_no_cause (s : State) (hst : s.st = .degraded) (hc : s.degradedCause = false) :
    s.settleService = s.setDev .service := by
  simp [State.settleService, hst, hc]

/-! ### The counterexample to O48 -/

/-- A DEGRADED device whose only cause is the reduced pattern set, with a maker's session, a token that permits everything, and a VF
of hob 0 whose ring 0 holds 16 events. -/
def fullEventRing : State :=
  { st := .degraded
    boot := { stage := 7, reduced := true }
    hearth := { tokens := [(7, 1, 0xFFFF)] }
    sessions := [(1, { state := 2, role := .maker })]
    hosts := [(0, { fns := [(1, { authOk := true, rings := [(0, { en := true, on := true, log2 := 6, events := List.range 16, cqPi := 16 })] })] })] }

/-- TEST_CONTENT_INSTALL ends the last cause of DEGRADED: the device is in SERVICE again, which posts an event that the ring loses. -/
theorem fullEventRing_loses (t : State) (ht : exec (.testContentInstall { session := 1 } 7 5 true) fullEventRing = .next t) :
    fullEventRing.lost 0 < t.lost 0 := by
  have hinstall : ∃ u, exec (.testContentInstall { session := 1 } 7 5 true) fullEventRing = .next u ∧ fullEventRing.lost 0 < u.lost 0 := by
    refine State.priv_performs (roles := [.maker]) rfl (by decide) (by decide) fun l n _ => ?_
    beta_reduce
    rw [State.settleService_of_no_cause _ rfl rfl]
    rw [State.lost_emit]
    refine lt_of_eq_of_lt ?lost (State.setDev_lt (p := 0) _ .service ?off (by decide) (by decide) ?full)
    case lost => rfl
    case off => exact DevState.noConfusion
    case full => exact State.eventsFull_of_ring (s := fullEventRing) rfl ⟨by decide, by decide⟩
  obtain ⟨u, hu, hlt⟩ := hinstall
  cases hu.symm.trans ht
  exact hlt

/-- Refutes O48: the hobs are not as they were after TEST_CONTENT_INSTALL where it brings a DEGRADED device back to SERVICE and ring 0
of a VF is full, for the event of R231 that finds no slot is counted in the hob. -/
theorem not_makersActUnderTokens : ¬ Obligations.MakersActUnderTokens := by
  unfold Obligations.MakersActUnderTokens
  rintro ⟨-, -, -, -, hinstall, -⟩
  obtain ⟨t, ht, -, -, -, -, hhobs, -⟩ := hinstall { session := 1 } 7 5 fullEventRing (by decide) (by decide)
  have hlost : t.lost 0 = fullEventRing.lost 0 := congrArg Hob.lostEvents (State.hob_of_hobs hhobs 0)
  exact absurd (fullEventRing_loses t ht) (by rw [hlost]; exact Nat.lt_irrefl _)

end Sys2Proof.Machine
end

section
/-! HOB_RELEASE ends the PERTURB settings of its hob (R325): where the table of settings lists a number twice, the setting that ends is
another hob's, which refutes O34. -/

namespace Sys2Proof.Machine

open Sys2Proof

/-- PERTURB setting 0 is listed twice: as it reads, a forced hold of hob 1, and behind that a setting of hob 0. Hob 1 is held for the
forced hold; hob 0 is STOPPED with a window open, and its VF asks for HOB_RELEASE. -/
def settingListedTwice : State :=
  { st := .service
    hobs := [(0, { st := .stopped, shape := some { w := 1, h := 1 }, grant := { valid := true } }), (1, { hold := { causes := [7] } })]
    cells := [(0, { wins := [(0, { state := 1 })] })]
    perturbs := [(0, { valid := true, kind := 4, hob := 1 }), (0, { hob := 0 })]
    hosts := [(0, { fns := [(1, { authOk := true, rings := [(0, { on := true, sqes := [{ op := 11 }] })] })] })] }

/-- Releasing hob 0 ends the setting that number 0 reads as, and with it the hold of hob 1. -/
theorem settingListedTwice_ends_hold (t : State) (ht : exec (.hobRelease { fn := 1 } 0) settingListedTwice = .next t) :
    (t.hob 1).hold.causes = [] := by
  have hrun : ∃ u, exec (.hobRelease { fn := 1 } 0) settingListedTwice = .next u ∧ (u.hob 1).hold.causes = [] := ⟨_, rfl, by decide⟩
  obtain ⟨u, hu, hcauses⟩ := hrun
  cases hu.symm.trans ht
  exact hcauses

/-- Refutes O34: no hypothesis of the last clause asks that the table of PERTURB settings lists each number once, and where it does not,
HOB_RELEASE of a hob with a window ends the forced hold of another hob. -/
theorem not_hobConfigShapesAHob : ¬ Obligations.HobConfigShapesAHob := by
  unfold Obligations.HobConfigShapesAHob
  rintro ⟨-, -, -, -, -, -, -, -, -, hrelease⟩
  obtain ⟨t, ht, -, hothers, -⟩ := hrelease { fn := 1 } 0 settingListedTwice { op := 11 } 0 (0, { state := 1 })
    (by decide) (by decide) (by decide) (by decide)
  have hkept : (t.hob 1).hold.causes = (settingListedTwice.hob 1).hold.causes := congrArg (fun z => z.hold.causes) (hothers 1 (by decide))
  exact absurd ((settingListedTwice_ends_hold t ht).symm.trans hkept) (by decide)

end Sys2Proof.Machine
end

section
/-! What each operation leaves of the racks: all but those that shift a rack, test its positions, move work to them or reset the
device leave the table of racks as it was. -/

namespace Sys2Proof.Machine

open Sys2Proof

/-- A walk that carries a state beside other data leaves what each of its steps leaves. -/
theorem foldl_proj {α β σ : Type} (p : σ → β) (f : σ → α → σ) (hf : ∀ x i, p (f x i) = p x) (l : List α) (a : σ) :
    p (l.foldl f a) = p a := by
  induction l generalizing a with
  | nil => rfl
  | cons i l ih => rw [List.foldl_cons, ih, hf]

@[simp] theorem State.foldl_racks {α : Type} (s : State) (l : List α) (f : State → α → State) (hf : ∀ x i, (f x i).racks = x.racks) :
    (l.foldl f s).racks = s.racks := foldl_proj State.racks f hf l s

@[simp] theorem State.readLine_racks (s : State) (dev : Nat) : (s.readLine dev).2.racks = s.racks := by
  unfold State.readLine
  dsimp only
  split <;> simp

@[simp] theorem State.touchStack_racks (s : State) (k : Nat) : (s.touchStack k).racks = s.racks := by
  simp [State.touchStack]

@[simp] theorem State.readLines_racks (s : State) (key dev n : Nat) : (s.readLines key dev n).2.2.2.racks = s.racks :=
  foldl_proj (fun x : List Nat × List Nat × List Byte × State => x.2.2.2.racks) _ (fun x i => by simp) _ ([], [], [], s)

@[simp] theorem State.fillBlock_racks (s : State) (h p slot base block : Nat) : (s.fillBlock h p slot base block).2.racks = s.racks := by
  unfold State.fillBlock
  dsimp only
  split <;> simp

@[simp] theorem State.takeShadow_racks {s t : State} {h stack n : Nat} (ht : s.takeShadow h stack = some (n, t)) : t.racks = s.racks := by
  unfold State.takeShadow at ht
  dsimp only at ht
  split at ht
  · cases ht
  · split at ht
    · cases ht
      simp
    · split at ht
      · cases ht
        simp
      · cases ht

theorem State.writeTarget_racks {s t : State} {h dev n : Nat} {late : Bool} (ht : s.writeTarget h dev late = some (n, t)) :
    t.racks = s.racks := by
  unfold State.writeTarget at ht
  dsimp only at ht
  split at ht
  · cases ht
    rfl
  · split at ht
    · cases ht
      simp
    · split at ht
      · next hn =>
        cases ht
        simp [State.takeShadow_racks hn]
      · cases ht

theorem State.storeBlock_racks {s t : State} {h a : Nat} {data : List Byte} {bad : Nat → Bool} {late : Bool}
    (ht : s.storeBlock h a data bad late = some t) : t.racks = s.racks := by
  unfold State.storeBlock at ht
  split at ht
  · cases ht
    rfl
  · obtain ⟨⟨n, u⟩, hu, rfl⟩ := Option.map_eq_some_iff.mp ht
    simp [State.writeTarget_racks hu]

@[simp] theorem State.stackRead_racks (s : State) (h a n : Nat) : (s.stackRead h a n).2.2.racks = s.racks := by
  refine foldl_proj (fun t : List Byte × List Nat × State => t.2.2.racks) _ (fun t i => ?_) _ ([], [], s)
  dsimp only
  split <;> simp

theorem State.storePart_racks {s t : State} {h a : Nat} {data : List Byte} {bad : Nat → Bool} (ht : s.storePart h a data bad = some t) :
    t.racks = s.racks := by
  refine (State.storeBlock_racks ht).trans ?_
  refine foldl_proj (fun t : List Byte × List Nat × State => t.2.2.racks) _ (fun t i => ?_) _ ([], [], s)
  dsimp only
  repeat' split
  all_goals simp

theorem State.storeRun_racks {s t : State} {h a : Nat} {data : List Byte} {bad : Nat → Bool} (ht : s.storeRun h a data bad = .ok t) :
    t.racks = s.racks := by
  have hwalk : ∀ (l : List Nat) (g : Except Nat State → Nat → Except Nat State),
      (∀ r i u, g r i = .ok u → ∃ x, r = .ok x ∧ u.racks = x.racks) → ∀ r u, l.foldl g r = .ok u → ∃ x, r = .ok x ∧ u.racks = x.racks := by
    intro l g hg
    induction l with
    | nil => exact fun r u hr => ⟨u, hr, rfl⟩
    | cons i l ih =>
      intro r u hr
      obtain ⟨x, hx, hxu⟩ := ih _ _ hr
      obtain ⟨y, hy, hyx⟩ := hg _ _ _ hx
      exact ⟨y, hy, hxu.trans hyx⟩
  unfold State.storeRun at ht
  obtain ⟨x, hx, hracks⟩ := hwalk _ _ (fun r i u hu => by
    cases r with
    | error e => cases hu
    | ok x =>
      refine ⟨x, rfl, ?_⟩
      simp only [Except.bind] at hu
      split at hu
      · cases hu
        rfl
      · split at hu
        · next hpart =>
          cases hu
          exact State.storePart_racks hpart
        · cases hu) _ _ ht
  cases hx
  exact hracks

@[simp] theorem State.drawGap_racks (s : State) (p : Nat) : (s.drawGap p).2.racks = s.racks := by
  simp [State.drawGap]

@[simp] theorem State.priv_racks (s : State) (who : Who) (allowed : List Role) (code hob : Nat) (args : List Nat) (refuse : Nat) (act : State → State) (hact : ∀ x : State, (act x).racks = x.racks) :
    (s.priv who allowed code hob args refuse act).racks = s.racks := by
  simp [State.priv]
  repeat' split
  all_goals simp_all

@[simp] theorem State.tick_racks (s : State) : (s.tick).racks = s.racks := by
  simp [State.tick]

@[simp] theorem State.endPeriod_racks (s : State) (h : Nat) : (s.endPeriod h).racks = s.racks := by
  simp [State.endPeriod]

@[simp] theorem State.stallTick_racks (s : State) (h : Nat) : (s.stallTick h).racks = s.racks := by
  simp [State.stallTick]

@[simp] theorem State.meter_racks (s : State) (p : Nat) (rs : List GranRead) : (s.meter p rs).racks = s.racks := by
  simp [State.meter]

@[simp] theorem State.afterIssue_racks (s : State) (h n p cyc : Nat) (x : Issue) : (s.afterIssue h n p cyc x).racks = s.racks := by
  unfold State.afterIssue
  dsimp only
  repeat' split
  all_goals simp

@[simp] theorem State.faultOf_racks (s : State) (h n f : Nat) : (s.faultOf h n f).racks = s.racks := by
  simp [State.faultOf]

@[simp] theorem State.failStep_racks (s : State) (h f : Nat) (e : End) : (s.failStep h f e).racks = s.racks := by rfl

@[simp] theorem State.schedViolation_racks (s : State) (h n period f : Nat) : (s.schedViolation h n period f).racks = s.racks := by
  simp [State.schedViolation]

@[simp] theorem State.wireHistory_racks (s : State) (x y : Nat) (out : Dir) (wires : List Nat) :
    (s.wireHistory x y out wires).racks = s.racks := by rfl

@[simp] theorem State.parityFault_racks (s : State) (h n x y : Nat) (out : Dir) (wires : List Nat) :
    (s.parityFault h n x y out wires).racks = s.racks := by rfl

@[simp] theorem State.edgeFlit_racks (s : State) (h k : Nat) (f : Flit) : (s.edgeFlit h k f).racks = s.racks := by
  simp [State.edgeFlit]
  split <;> simp

@[simp] theorem State.sendStatic_racks (s : State) (h n x y cyc : Nat) (out : Dir) (f : Flit) (flipped : List Nat) :
    (s.sendStatic h n x y cyc out f flipped).racks = s.racks := by
  unfold State.sendStatic
  dsimp only
  repeat' split
  all_goals simp

@[simp] theorem State.refill_racks (s : State) (h n : Nat) : (s.refill h n).racks = s.racks := by
  simp [State.refill]

@[simp] theorem State.crossRim_racks (s : State) (x y : Nat) : (s.crossRim x y).racks = s.racks := by
  unfold State.crossRim
  refine State.foldl_racks _ _ _ fun x i => ?_
  split
  · rfl
  · split <;> rfl

@[simp] theorem State.enterEdge_racks (s : State) (x y : Nat) : (s.enterEdge x y).racks = s.racks := by
  simp [State.enterEdge]

@[simp] theorem State.inject_racks (s : State) (h n : Nat) (fs : List DynFlit) : (s.inject h n fs).racks = s.racks := by
  simp [State.inject]

@[simp] theorem State.replyOut_racks (s : State) (key status st gen : Nat) : (s.replyOut key status st gen).racks = s.racks := by
  simp [State.replyOut]
  repeat' split
  all_goals simp_all

@[simp] theorem State.deliver_racks (s : State) (h n : Nat) (f : Flit) : (s.deliver h n f).racks = s.racks := by
  unfold State.deliver
  split <;> simp

@[simp] theorem State.sendDyn_racks (s : State) (p x y : Nat) (out : Dir) (f : DynFlit) (flipped : List Nat) :
    (s.sendDyn p x y out f flipped).racks = s.racks := by
  unfold State.sendDyn
  dsimp only
  repeat' split
  all_goals simp

@[simp] theorem State.freeSlot_racks (s : State) (p : Nat) (out : Dir) (vc : Nat) (flipped : List Nat) :
    (s.freeSlot p out vc flipped).racks = s.racks := by
  unfold State.freeSlot
  dsimp only
  repeat' split
  all_goals simp

@[simp] theorem State.reply_racks (s : State) (h n : Nat) (o : Origin) (tag status st gen : Nat) :
    (s.reply h n o tag status st gen).racks = s.racks := by
  simp [State.reply]

@[simp] theorem State.fromRimTo_racks (s : State) (x y client : Nat) (vc : Nat) (fs : List Flit) :
    (s.fromRimTo x y client vc fs).racks = s.racks := by
  simp [State.fromRimTo]

@[simp] theorem State.fromRim_racks (s : State) (h n client : Nat) (vc : Nat) (fs : List Flit) :
    (s.fromRim h n client vc fs).racks = s.racks := by
  simp [State.fromRim]

@[simp] theorem State.dropLandings_racks (s : State) (h n : Nat) : (s.dropLandings h n).racks = s.racks := by
  simp [State.dropLandings]

@[simp] theorem State.sendRequest_racks (s : State) (t : Txn) : (s.sendRequest t).racks = s.racks := by
  simp [State.sendRequest]

@[simp] theorem State.addTxn_racks (s : State) (t : Txn) : (s.addTxn t).racks = s.racks := by
  simp [State.addTxn]

@[simp] theorem State.modTxn_racks (s : State) (id : Nat) (f : Txn → Txn) : (s.modTxn id f).racks = s.racks := by rfl

@[simp] theorem State.dropTxn_racks (s : State) (id : Nat) : (s.dropTxn id).racks = s.racks := by rfl

@[simp] theorem State.breach_racks (s : State) (h status cell info : Nat) : (s.breach h status cell info).racks = s.racks := by rfl

@[simp] theorem State.breachAt_racks (s : State) (h : Nat) (e : End) : (s.breachAt h e).racks = s.racks := by rfl

@[simp] theorem State.refuseAddr_racks (s : State) (dev : Nat) : (s.refuseAddr dev).racks = s.racks := by rfl

@[simp] theorem State.issueBlock_racks (s : State) (hn : Nat) (x : Crossing) (rep : Nat) (b : Nat) :
    (s.issueBlock hn x rep b).racks = s.racks := by
  simp [State.issueBlock]
  repeat' split
  all_goals simp_all

@[simp] theorem State.settleWaits_racks (s : State) (hn : Nat) : (s.settleWaits hn).racks = s.racks := by rfl

@[simp] theorem State.noteCredit_racks (s : State) (h : Nat) (x : Crossing) : (s.noteCredit h x).racks = s.racks := by rfl

@[simp] theorem State.dropShadows_racks (s : State) (h : Nat) : (s.dropShadows h).racks = s.racks := by
  simp [State.dropShadows]

@[simp] theorem State.cancelCapture_racks (s : State) (h : Nat) : (s.cancelCapture h).racks = s.racks := by
  simp [State.cancelCapture]

@[simp] theorem State.rewind_racks (s : State) (h : Nat) (clear : Bool) : (s.rewind h clear).racks = s.racks := by
  simp [State.rewind]

@[simp] theorem State.strike_racks (s : State) (dev symbols : Nat) : (s.strike dev symbols).racks = s.racks := by
  simp [State.strike]

@[simp] theorem State.fillSlot_racks (s : State) (h n slot : Nat) : (s.fillSlot h n slot).racks = s.racks := by
  have hfill : ∀ (p k : Nat) (l : List Nat), (l.foldl (fun (a : List Nat × State) j =>
      (a.1 ++ (a.2.fillBlock h p slot k j).1, (a.2.fillBlock h p slot k j).2)) ([], s)).2.racks = s.racks :=
    fun p k l => foldl_proj (fun a : List Nat × State => a.2.racks) _ (fun x j => by simp) l ([], s)
  unfold State.fillSlot
  dsimp only
  split
  · rfl
  · split <;> simp [hfill]

@[simp] theorem State.fillResident_racks (s : State) (h n : Nat) : (s.fillResident h n).racks = s.racks := by
  simp [State.fillResident]

@[simp] theorem State.stopUncommitted_racks (s : State) (h : Nat) (e : End) : (s.stopUncommitted h e).racks = s.racks := by
  simp [State.stopUncommitted]

@[simp] theorem State.stopFailed_racks (s : State) (h : Nat) (e : End) : (s.stopFailed h e).racks = s.racks := by
  simp [State.stopFailed]

@[simp] theorem State.tellPeer_racks (s : State) (h dev kind : Nat) (what : String) (vals : List Nat) :
    (s.tellPeer h dev kind what vals).racks = s.racks := by
  simp [State.tellPeer]

@[simp] theorem State.tellPeers_racks (s : State) (h kind : Nat) (what : String) (vals : List Nat) :
    (s.tellPeers h kind what vals).racks = s.racks := by
  simp [State.tellPeers]

@[simp] theorem State.markRecurred_racks (s : State) (p code : Nat) : (s.markRecurred p code).racks = s.racks := by rfl

@[simp] theorem State.lidBadLinks_racks (s : State) (p : Nat) : (s.lidBadLinks p).racks = s.racks := by
  simp [State.lidBadLinks]

@[simp] theorem State.endHold8_racks (s : State) (h : Nat) : (s.endHold8 h).racks = s.racks := by
  simp [State.endHold8]

@[simp] theorem State.awaitHearth_racks (s : State) (h : Nat) : (s.awaitHearth h).racks = s.racks := by
  simp [State.awaitHearth]

@[simp] theorem State.replayAt_racks (s : State) (h status n : Nat) (at_ : Option Nat) : (s.replayAt h status n at_).racks = s.racks := by
  simp [State.replayAt]
  split <;> simp

@[simp] theorem State.replay_racks (s : State) (h status n : Nat) : (s.replay h status n).racks = s.racks := by
  simp [State.replay]

@[simp] theorem State.nextStepAt_racks (s : State) (h : Nat) : (s.nextStepAt h).racks = s.racks := by
  simp [State.nextStepAt]

@[simp] theorem State.failHead_racks (s : State) (h : Nat) : (s.failHead h).racks = s.racks := by
  simp [State.failHead]
  repeat' split
  all_goals simp_all

@[simp] theorem State.stepFault_racks (s : State) (h : Nat) (e : End) : (s.stepFault h e).racks = s.racks := by
  simp [State.stepFault]

@[simp] theorem State.reachFence_racks (s : State) (h : Nat) : (s.reachFence h).racks = s.racks := by
  simp [State.reachFence]

@[simp] theorem State.lateFence_racks (s : State) (h : Nat) : (s.lateFence h).racks = s.racks := by
  simp [State.lateFence]

@[simp] theorem State.countStep_racks (s : State) (h f : Nat) : (s.countStep h f).racks = s.racks := by
  unfold State.countStep
  split <;> simp

@[simp] theorem State.fenceMet_racks (s : State) (h f : Nat) : (s.fenceMet h f).racks = s.racks := by
  simp [State.fenceMet]

@[simp] theorem State.keepGens_racks (s : State) (h : Nat) : (s.keepGens h).racks = s.racks := by rfl

@[simp] theorem State.commitHead_racks (s : State) (h : Nat) (c : Closing) : (s.commitHead h c).racks = s.racks := by
  simp [State.commitHead]

@[simp] theorem State.stopIfDone_racks (s : State) (h : Nat) : (s.stopIfDone h).racks = s.racks := by
  simp [State.stopIfDone]

@[simp] theorem State.tryCommit_racks (s : State) (h : Nat) : (s.tryCommit h).racks = s.racks := by
  simp [State.tryCommit]
  split <;> simp

@[simp] theorem State.failFence_racks (s : State) (h f : Nat) (e : End) : (s.failFence h f e).racks = s.racks := by
  simp [State.failFence]

@[simp] theorem State.lostWrite_racks (s : State) (h f xng : Nat) : (s.lostWrite h f xng).racks = s.racks := by
  simp [State.lostWrite]

@[simp] theorem State.stopForward_racks (s : State) (h xng block : Nat) : (s.stopForward h xng block).racks = s.racks := by rfl

@[simp] theorem State.launch_racks (s : State) (h : Nat) (origin : Origin) (target : Nat) (desc data : List Byte) (bad : List Bool) :
    (s.launch h origin target desc data bad).racks = s.racks := by
  unfold State.launch
  dsimp only
  repeat' split
  all_goals simp

@[simp] theorem State.answer_racks (s : State) (h n p w : Nat) (m : Msg) (status : Nat) : (s.answer h n p w m status).racks = s.racks := by
  simp [State.answer]

@[simp] theorem State.finishLanding_racks (s : State) (h n p : Nat) (l : Landing) (status : Nat) :
    (s.finishLanding h n p l status).racks = s.racks := by
  simp [State.finishLanding]

@[simp] theorem State.settleLandings_racks (s : State) (h n p : Nat) : (s.settleLandings h n p).racks = s.racks := by
  unfold State.settleLandings
  refine foldl_proj (fun a : State × List (Nat × Nat) => a.1.racks) _ (fun x l => ?_) _ (s, [])
  split
  · rfl
  · split <;> simp

@[simp] theorem State.unserve_racks (s : State) (m : Msg) : (s.unserve m).racks = s.racks := by
  unfold State.unserve
  split <;> simp

@[simp] theorem State.modSends_racks (s : State) (h : Nat) (o : Origin) (f : List Send → List Send) :
    (s.modSends h o f).racks = s.racks := by
  unfold State.modSends
  split <;> simp

@[simp] theorem State.modSend_racks (s : State) (h : Nat) (o : Origin) (tag : Nat) (f : Send → Send) :
    (s.modSend h o tag f).racks = s.racks := by
  simp [State.modSend]

@[simp] theorem State.dropSend_racks (s : State) (h : Nat) (o : Origin) (tag : Nat) : (s.dropSend h o tag).racks = s.racks := by
  simp [State.dropSend]

@[simp] theorem State.heldSend_racks (s : State) (h : Nat) (m : Msg) : (s.heldSend h m).racks = s.racks := by
  simp [State.heldSend]

@[simp] theorem State.endSend_racks (s : State) (h : Nat) (o : Origin) (q : Send) (status : Nat) :
    (s.endSend h o q status).racks = s.racks := by
  unfold State.endSend
  dsimp only
  repeat' split
  all_goals simp

@[simp] theorem State.sendFrom_racks (s : State) (h : Nat) (o : Origin) (desc0 data : List Byte) (ref : Option CmdRef) :
    (s.sendFrom h o desc0 data ref).racks = s.racks := by
  simp [State.sendFrom]

@[simp] theorem State.settleCast_racks (s : State) (h : Nat) (o : Origin) (tag : Nat) : (s.settleCast h o tag).racks = s.racks := by
  unfold State.settleCast
  split <;> simp

@[simp] theorem State.modBcast_racks (s : State) (id : Nat) (f : Broadcast → Broadcast) : (s.modBcast id f).racks = s.racks := by rfl

@[simp] theorem State.settleBcast_racks (s : State) (id : Nat) : (s.settleBcast id).racks = s.racks := by
  unfold State.settleBcast
  split <;> simp

@[simp] theorem State.sendBcast_racks (s : State) (b : Broadcast) (targets : List Nat) : (s.sendBcast b targets).racks = s.racks := by
  unfold State.sendBcast
  split <;> simp

@[simp] theorem State.startBcast_racks (s : State) (h : Option Nat) (targets : List Nat) : (s.startBcast h targets).racks = s.racks := by
  simp [State.startBcast]

@[simp] theorem State.seqSend_racks (s : State) (h p slot : Nat) (a : ActW) : (s.seqSend h p slot a).racks = s.racks := by
  simp [State.seqSend]
  split <;> simp

@[simp] theorem State.strikeIn_racks (s : State) (stack dev symbols : Nat) : (s.strikeIn stack dev symbols).racks = s.racks := by
  simp [State.strikeIn]

@[simp] theorem State.awaitShadow_racks (s : State) (t : Txn) (page : Nat) : (s.awaitShadow t page).racks = s.racks := by
  simp [State.awaitShadow]

@[simp] theorem State.blockCheckFail_racks (s : State) (h n f xng : Nat) : (s.blockCheckFail h n f xng).racks = s.racks := by
  simp [State.blockCheckFail]

@[simp] theorem State.stopOnStack_racks (s : State) (stack : Nat) : (s.stopOnStack stack).racks = s.racks := by
  simp [State.stopOnStack]

@[simp] theorem State.foldLine_racks (s : State) (from_ base i : Nat) : (s.foldLine from_ base i).racks = s.racks := by
  simp [State.foldLine]

@[simp] theorem State.fold_racks (s : State) (key : Nat) : (s.fold key).racks = s.racks := by
  unfold State.fold
  split <;> simp

@[simp] theorem State.ringError_racks (s : State) (p f r code : Nat) : (s.ringError p f r code).racks = s.racks := by
  simp [State.ringError]

@[simp] theorem State.fetch_racks (s : State) (p f r : Nat) : (s.fetch p f r).racks = s.racks := by
  simp [State.fetch]

@[simp] theorem State.logRefused_racks (s : State) (hob op sub result : Nat) : (s.logRefused hob op sub result).racks = s.racks := by
  simp [State.logRefused]

@[simp] theorem State.command_racks (s : State) (ref : CmdRef) (hob op sub : Nat) (args : List Byte → Bool) (body : State → State) (hbody : ∀ x : State, (body x).racks = x.racks) :
    (s.command ref hob op sub args body).racks = s.racks := by
  simp [State.command]
  repeat' split
  all_goals simp_all

@[simp] theorem State.leaveIdle_racks (s : State) : (s.leaveIdle).racks = s.racks := by
  simp [State.leaveIdle]

@[simp] theorem State.abortPf_racks (s : State) (h : Nat) : (s.abortPf h).racks = s.racks := by
  simp [State.abortPf]

@[simp] theorem State.loseHost_racks (s : State) (h : Nat) : (s.loseHost h).racks = s.racks := by
  simp [State.loseHost]

@[simp] theorem State.resetFn_racks (s : State) (p f : Nat) : (s.resetFn p f).racks = s.racks := by rfl

@[simp] theorem State.losePort_racks (s : State) (p : Nat) : (s.losePort p).racks = s.racks := by
  simp [State.losePort]

@[simp] theorem State.startRun_racks (s : State) (h : Nat) (c : RunCmd) (buf bufLen stg stgLen : Nat) :
    (s.startRun h c buf bufLen stg stgLen).racks = s.racks := by
  simp [State.startRun]

@[simp] theorem State.copyAwaits_racks (s : State) (h : Nat) (c : Copy) (page : Nat) : (s.copyAwaits h c page).racks = s.racks := by
  simp [State.copyAwaits]

@[simp] theorem State.setPlaces_racks (s : State) (l : List PlaceRec) (epoch : Nat) : (s.setPlaces l epoch).racks = s.racks := by rfl

@[simp] theorem State.placeLog_racks (s : State) (r : PlaceRec) : (s.placeLog r).racks = s.racks := by rfl

@[simp] theorem State.freeBridge_racks (s : State) (h n : Nat) : (s.freeBridge h n).racks = s.racks := by
  simp [State.freeBridge]

@[simp] theorem State.endFar_racks (s : State) (h n : Nat) : (s.endFar h n).racks = s.racks := by
  unfold State.endFar
  split <;> simp

@[simp] theorem State.clearCells_racks (s : State) (h : Nat) : (s.clearCells h).racks = s.racks := by
  simp [State.clearCells]

@[simp] theorem State.placeCells_racks (s : State) (h : Nat) : (s.placeCells h).racks = s.racks := by
  simp [State.placeCells]

@[simp] theorem State.recheckOver_racks (s : State) (h : Nat) : (s.recheckOver h).racks = s.racks := by
  simp [State.recheckOver]

@[simp] theorem State.reshape_racks (s : State) (h : Nat) (sh : Shape) : (s.reshape h sh).racks = s.racks := by
  simp [State.reshape]

@[simp] theorem State.dropExtShadows_racks (s : State) (dev : Nat) : (s.dropExtShadows dev).racks = s.racks := by
  simp [State.dropExtShadows]

@[simp] theorem State.resize_racks (s : State) (h stack n : Nat) : (s.resize h stack n).racks = s.racks := by
  simp [State.resize]

@[simp] theorem State.endPerturb_racks (s : State) (i : Nat) : (s.endPerturb i).racks = s.racks := by
  simp [State.endPerturb]

@[simp] theorem State.endPerturbs_racks (s : State) (f : Perturb → Bool) : (s.endPerturbs f).racks = s.racks := by
  simp [State.endPerturbs]

@[simp] theorem State.abortCommands_racks (s : State) (h status : Nat) : (s.abortCommands h status).racks = s.racks := by
  unfold State.abortCommands
  dsimp only
  repeat' split
  all_goals simp

@[simp] theorem State.endWindows_racks (s : State) (h : Nat) : (s.endWindows h).racks = s.racks := by
  unfold State.endWindows
  refine State.each_racks _ _ _ fun x n => State.foldl_racks _ _ _ fun y w => ?_
  split <;> simp

@[simp] theorem State.endAuth_racks (s : State) (h : Nat) : (s.endAuth h).racks = s.racks := by
  simp [State.endAuth]

@[simp] theorem State.freeHob_racks (s : State) (h : Nat) : (s.freeHob h).racks = s.racks := by
  simp [State.freeHob]

@[simp] theorem State.finishRelease_racks (s : State) (h : Nat) : (s.finishRelease h).racks = s.racks := by
  unfold State.finishRelease
  dsimp only
  repeat' split
  all_goals simp

@[simp] theorem State.program_racks (s : State) (h : Nat) (r : Recipe) : (s.program h r).racks = s.racks := by
  simp [State.program]

@[simp] theorem State.addHist_racks (s : State) (p : Nat) (e : Hist) : (s.addHist p e).racks = s.racks := by rfl

@[simp] theorem State.taintHob_racks (s : State) (h p cause : Nat) : (s.taintHob h p cause).racks = s.racks := by
  simp [State.taintHob]
  split <;> simp

@[simp] theorem State.lateTaint_racks (s : State) (p cause : Nat) : (s.lateTaint p cause).racks = s.racks := by
  simp [State.lateTaint]

@[simp] theorem State.setClean_racks (s : State) (p : Nat) : (s.setClean p).racks = s.racks := by
  simp [State.setClean]

@[simp] theorem State.commonCause_racks (s : State) (q : Nat) : (s.commonCause q).racks = s.racks := by
  simp [State.commonCause]

@[simp] theorem State.scoreLid_racks (s : State) (p : Nat) : (s.scoreLid p).racks = s.racks := by
  simp [State.scoreLid]

@[simp] theorem State.charge_racks (s : State) (p code weight unit : Nat) : (s.charge p code weight unit).racks = s.racks := by
  simp [State.charge]

@[simp] theorem State.rebuildCell_racks (s : State) (h n : Nat) : (s.rebuildCell h n).racks = s.racks := by
  simp [State.rebuildCell]

@[simp] theorem State.rebuild_racks (s : State) (h n : Nat) (imageOk : Bool) : (s.rebuild h n imageOk).racks = s.racks := by
  simp [State.rebuild]

@[simp] theorem State.setMoving_racks (s : State) (r : Rack) (a b : Nat) (on : Bool) : (s.setMoving r a b on).racks = s.racks := by
  simp [State.setMoving]

@[simp] theorem State.ownSlots_racks (s : State) (h n : Nat) (ts : List RtSlot) : (s.ownSlots h n ts).racks = s.racks := by
  simp [State.ownSlots]

@[simp] theorem State.placeOver_racks (s : State) (h n : Nat) (c : Cand) (was : Nat) (path : List Nat) :
    (s.placeOver h n c was path).racks = s.racks := by
  simp [State.placeOver]

@[simp] theorem State.placeFar_racks (s : State) (h n : Nat) (c : Cand) (was : Nat) : (s.placeFar h n c was).racks = s.racks := by
  simp [State.placeFar]

@[simp] theorem State.replaceReport_racks (s : State) (h : Nat) : (s.replaceReport h).racks = s.racks := by
  simp [State.replaceReport]

@[simp] theorem State.holdHomeless_racks (s : State) (h : Nat) : (s.holdHomeless h).racks = s.racks := by
  simp [State.holdHomeless]

@[simp] theorem State.makeHomeless_racks (s : State) (h n failed reason best : Nat) :
    (s.makeHomeless h n failed reason best).racks = s.racks := by
  simp [State.makeHomeless]

@[simp] theorem State.moveCell_racks (s : State) (a b : Nat) : (s.moveCell a b).racks = s.racks := by
  simp [State.moveCell]

@[simp] theorem State.startCell_racks (s : State) (h n : Nat) : (s.startCell h n).racks = s.racks := by rfl

@[simp] theorem State.setOutcome_racks (s : State) (p code out : Nat) : (s.setOutcome p code out).racks = s.racks := by rfl

@[simp] theorem State.settlePermanent_racks (s : State) (p : Nat) : (s.settlePermanent p).racks = s.racks := by
  simp [State.settlePermanent]

@[simp] theorem State.chargeInjected_racks (s : State) (p code unit : Nat) : (s.chargeInjected p code unit).racks = s.racks := by rfl

@[simp] theorem State.endDecant_racks (s : State) (h : Nat) : (s.endDecant h).racks = s.racks := by
  simp [State.endDecant]

@[simp] theorem State.testIsland_racks (s : State) (p : Nat) : (s.testIsland p).racks = s.racks := by
  simp [State.testIsland]

@[simp] theorem State.failTest_racks (s : State) (p unit cause : Nat) : (s.failTest p unit cause).racks = s.racks := by
  simp [State.failTest]

@[simp] theorem State.settleService_racks (s : State) : (s.settleService).racks = s.racks := by
  simp [State.settleService]

@[simp] theorem State.evalRetire_racks (s : State) : (s.evalRetire).racks = s.racks := by
  simp [State.evalRetire]

@[simp] theorem State.endCommonCause_racks (s : State) (q : Nat) : (s.endCommonCause q).racks = s.racks := by
  simp [State.endCommonCause]

@[simp] theorem State.reinit_racks (s : State) (p : Nat) : (s.reinit p).racks = s.racks := by
  simp [State.reinit]

@[simp] theorem State.countSuspect_racks (s : State) (p : Nat) (failed : Bool) : (s.countSuspect p failed).racks = s.racks := by rfl

@[simp] theorem State.retest_racks (s : State) (h n : Nat) : (s.retest h n).racks = s.racks := by
  simp [State.retest]

@[simp] theorem State.endSample_racks (s : State) (p : Nat) (stat : TasteStat → TasteStat) : (s.endSample p stat).racks = s.racks := by rfl

@[simp] theorem State.queryAnswer_racks (s : State) (ref : CmdRef) (addr len : Nat) (bytes : List Byte) :
    (s.queryAnswer ref addr len bytes).racks = s.racks := by
  simp [State.queryAnswer]

@[simp] theorem State.answerRegs_racks (s : State) (ref : CmdRef) (h sub addr len : Nat) (vals : List Nat) :
    (s.answerRegs ref h sub addr len vals).racks = s.racks := by
  simp [State.answerRegs]

@[simp] theorem State.classCheck_racks (s : State) (p : Nat) : (s.classCheck p).racks = s.racks := by
  unfold State.classCheck
  refine State.each_racks _ _ _ fun x h => ?_
  split
  · rfl
  · split <;> simp

@[simp] theorem State.endRelight_racks (s : State) (p : Nat) : (s.endRelight p).racks = s.racks := by
  simp [State.endRelight]

@[simp] theorem State.endRemote_racks (s : State) (t : Txn) : (s.endRemote t).racks = s.racks := by
  unfold State.endRemote
  dsimp only
  repeat' split
  all_goals simp

@[simp] theorem State.endSends_racks (s : State) (p : Nat) : (s.endSends p).racks = s.racks := by
  simp [State.endSends]

@[simp] theorem State.lnpEnd_racks (s : State) (p : Nat) (st : LnpState) (why : Nat) : (s.lnpEnd p st why).racks = s.racks := by
  simp [State.lnpEnd]

@[simp] theorem State.sealFrame_racks (s : State) (p : Nat) (f : Frame) : (s.sealFrame p f).racks = s.racks := by rfl

@[simp] theorem State.sendFrame_racks (s : State) (p : Nat) (f : Frame) : (s.sendFrame p f).racks = s.racks := by
  simp [State.sendFrame]

@[simp] theorem State.sendSession_racks (s : State) (p : Nat) (note : List Nat) : (s.sendSession p note).racks = s.racks := by
  simp [State.sendSession]

@[simp] theorem State.keyStep_racks (s : State) (p : Nat) (point : Nat × Nat) : (s.keyStep p point).racks = s.racks := by
  simp [State.keyStep]

@[simp] theorem State.startRetrain_racks (s : State) (p : Nat) : (s.startRetrain p).racks = s.racks := by rfl

@[simp] theorem State.resend_racks (s : State) (p : Nat) (named : BitVec 16) : (s.resend p named).racks = s.racks := by
  simp [State.resend]

@[simp] theorem State.sendBlock_racks (s : State) (p : Nat) (t : Txn) : (s.sendBlock p t).racks = s.racks := by
  simp [State.sendBlock]

@[simp] theorem State.reserveRx_racks (s : State) (p : Nat) : (s.reserveRx p).racks = s.racks := by
  unfold State.reserveRx
  refine foldl_proj (fun a : State × List (Nat × Nat × Nat × Nat) => a.1.racks) _ (fun x i => ?_) _ (s, [])
  dsimp only
  repeat' split
  all_goals simp

@[simp] theorem State.takeRx_racks (s : State) (p : Nat) : (s.takeRx p).racks = s.racks := by
  simp [State.takeRx]

@[simp] theorem State.drainRx_racks (s : State) (p : Nat) : (s.drainRx p).racks = s.racks := by
  simp [State.drainRx]

@[simp] theorem State.staticFlits_racks (s : State) (p : Nat) (f : Frame) (blockOk : Bool) :
    (s.staticFlits p f blockOk).racks = s.racks := by
  simp [State.staticFlits]

@[simp] theorem State.serveJar_racks (s : State) (p : Nat) (a : JarAsk) : (s.serveJar p a).racks = s.racks := by
  simp [State.serveJar]

@[simp] theorem State.serveJars_racks (s : State) (p : Nat) : (s.serveJars p).racks = s.racks := by
  simp [State.serveJars]

@[simp] theorem State.takeReq_racks (s : State) (p : Nat) : (s.takeReq p).racks = s.racks := by
  unfold State.takeReq
  dsimp only
  refine (State.serveJars_racks _ p).trans ((State.foldl_racks _ _ _ fun x f => ?_).trans ?_)
  on_goal 2 => simp
  split
  · rfl
  · split <;> simp

@[simp] theorem State.askJar_racks (s : State) (h p : Nat) : (s.askJar h p).racks = s.racks := by
  unfold State.askJar
  refine State.foldl_racks _ _ _ fun x i => ?_
  split
  · rfl
  · dsimp only
    split <;> simp

@[simp] theorem State.askJars_racks (s : State) (p : Nat) : (s.askJars p).racks = s.racks := by
  unfold State.askJars
  refine State.each_racks _ _ _ fun x h => ?_
  split
  · split <;> simp
  · rfl

@[simp] theorem State.jarReply_racks (s : State) (p : Nat) (f : Frame) : (s.jarReply p f).racks = s.racks := by
  simp [State.jarReply]
  split <;> simp

@[simp] theorem State.packet_racks (s : State) (p : Nat) (f : Frame) : (s.packet p f).racks = s.racks := by
  simp [State.packet]
  split <;> simp

@[simp] theorem State.discardFrame_racks (s : State) (p : Nat) (decoded tagOk : Bool) :
    (s.discardFrame p decoded tagOk).racks = s.racks := by
  simp [State.discardFrame]

@[simp] theorem State.receive_racks (s : State) (p : Nat) (f : Frame) (decoded tagOk : Bool) (act : State → State) (hact : ∀ x : State, (act x).racks = x.racks) :
    (s.receive p f decoded tagOk act).racks = s.racks := by
  simp [State.receive, hact]

@[simp] theorem State.parkRefused_racks (s : State) (p : Nat) : (s.parkRefused p).racks = s.racks := by
  simp [State.parkRefused]

@[simp] theorem State.parkPort_racks (s : State) (p : Nat) : (s.parkPort p).racks = s.racks := by
  simp [State.parkPort]

@[simp] theorem State.tryPark_racks (s : State) (p : Nat) : (s.tryPark p).racks = s.racks := by
  simp [State.tryPark]

@[simp] theorem State.substitute_racks (s : State) (p fibre lane : Nat) : (s.substitute p fibre lane).racks = s.racks := by
  simp [State.substitute]
  split <;> simp

@[simp] theorem State.comeUp_racks (s : State) (p w : Nat) : (s.comeUp p w).racks = s.racks := by
  simp [State.comeUp]

@[simp] theorem State.parkIfAsked_racks (s : State) (p : Nat) : (s.parkIfAsked p).racks = s.racks := by
  simp [State.parkIfAsked]

@[simp] theorem State.train_racks (s : State) (p : Nat) : (s.train p).racks = s.racks := by rfl

@[simp] theorem State.dropWorms_racks (s : State) (ps : List Nat) : (s.dropWorms ps).racks = s.racks := by
  simp [State.dropWorms]

@[simp] theorem State.clearIslands_racks (s : State) (ps : List Nat) : (s.clearIslands ps).racks = s.racks := by
  simp [State.clearIslands]

@[simp] theorem State.clearAt_racks (s : State) (ps : List Nat) : (s.clearAt ps).racks = s.racks := by
  unfold State.clearAt
  refine State.each_racks _ _ _ fun x p => ?_
  dsimp only
  split <;> simp

@[simp] theorem State.holdAt_racks (s : State) (ps : List Nat) : (s.holdAt ps).racks = s.racks := by
  simp [State.holdAt]

@[simp] theorem State.rebuildHob_racks (s : State) (h : Nat) (ps : List Nat) (imageOk : Bool) :
    (s.rebuildHob h ps imageOk).racks = s.racks := by
  simp [State.rebuildHob]

@[simp] theorem State.rebuildAt_racks (s : State) (ps : List Nat) (imageOk : Bool) : (s.rebuildAt ps imageOk).racks = s.racks := by
  simp [State.rebuildAt]

@[simp] theorem State.hobToLoading_racks (s : State) (h : Nat) : (s.hobToLoading h).racks = s.racks := by
  unfold State.hobToLoading
  dsimp only
  repeat' split
  all_goals simp

@[simp] theorem State.startAsh_racks (s : State) (domain cause : Nat) (suspects : List (Nat × Nat)) (waiting : List (Nat × Nat × Nat)) :
    (s.startAsh domain cause suspects waiting).racks = s.racks := by
  unfold State.startAsh
  split <;> simp

@[simp] theorem State.keepAsh_racks (s : State) (a : Ash) : (s.keepAsh a).racks = s.racks := by
  simp [State.keepAsh]

@[simp] theorem State.resetCell_racks (s : State) (p why : Nat) : (s.resetCell p why).racks = s.racks := by
  simp [State.resetCell]

@[simp] theorem State.resetRack_racks (s : State) (i why : Nat) : (s.resetRack i why).racks = s.racks := by
  simp [State.resetRack]

@[simp] theorem State.resetQuarter_racks (s : State) (q why : Nat) : (s.resetQuarter q why).racks = s.racks := by
  simp [State.resetQuarter]

@[simp] theorem State.resetStack_racks (s : State) (k why : Nat) : (s.resetStack k why).racks = s.racks := by
  simp [State.resetStack]

@[simp] theorem State.resetLnp_racks (s : State) (p why : Nat) : (s.resetLnp p why).racks = s.racks := by
  simp [State.resetLnp]

@[simp] theorem State.resetHost_racks (s : State) (p why : Nat) : (s.resetHost p why).racks = s.racks := by
  simp [State.resetHost]

@[simp] theorem State.resetHob_racks (s : State) (h why : Nat) : (s.resetHob h why).racks = s.racks := by
  simp [State.resetHob]

@[simp] theorem State.stopRings_racks (s : State) : (s.stopRings).racks = s.racks := by
  unfold State.stopRings
  refine State.each_racks _ _ _ fun x p => State.each_racks _ _ _ fun x f => State.each_racks _ _ _ fun x r => ?_
  dsimp only
  split <;> simp

@[simp] theorem State.onlyReset_racks (s : State) (dom start why : Nat) : (s.onlyReset dom start why).racks = s.racks := by
  simp [State.onlyReset]

@[simp] theorem State.loseContents_racks (s : State) : (s.loseContents).racks = s.racks := by
  simp [State.loseContents]

@[simp] theorem State.rerouteFar_racks (s : State) (p : Nat) (c : Nat × Nat) : (s.rerouteFar p c).racks = s.racks := by
  simp [State.rerouteFar]
  split <;> simp

@[simp] theorem State.bootHearth_racks (s : State) (okA okB : Bool) : (s.bootHearth okA okB).racks = s.racks := by
  simp [State.bootHearth]

@[simp] theorem State.hearthReset_racks (s : State) (why : Nat) : (s.hearthReset why).racks = s.racks := by
  simp [State.hearthReset]
  split <;> simp

@[simp] theorem State.rstCmd_racks (s : State) (who : Who) (action arg refuse : Nat) (act : State → State) (hact : ∀ x : State, (act x).racks = x.racks) :
    (s.rstCmd who action arg refuse act).racks = s.racks := by
  simp [State.rstCmd, hact]

@[simp] theorem State.setDamper_racks (s : State) (d : Damper) : (s.setDamper d).racks = s.racks := by
  simp [State.setDamper]

@[simp] theorem State.toStage_racks (s : State) (k : Nat) : (s.toStage k).racks = s.racks := by rfl

@[simp] theorem State.importBurnIn_racks (s : State) : (s.importBurnIn).racks = s.racks := by
  simp [State.importBurnIn]

@[simp] theorem State.freshNonces_racks (s : State) : (s.freshNonces).racks = s.racks := by
  simp [State.freshNonces]

@[simp] theorem State.poisonLines_racks (s : State) (first n : Nat) : (s.poisonLines first n).racks = s.racks := by rfl

@[simp] theorem State.lostEntry_racks (s : State) (key : Nat) : (s.lostEntry key).racks = s.racks := by
  unfold State.lostEntry
  split
  · rfl
  · simp

@[simp] theorem State.foldAll_racks (s : State) (badS0 badS6 : List Nat) : (s.foldAll badS0 badS6).racks = s.racks := by
  simp [State.foldAll]

@[simp] theorem State.wireTest_racks (s : State) (w : Pos × Fin 23 × List Nat) : (s.wireTest w).racks = s.racks := by rfl

@[simp] theorem State.reconcile_racks (s : State) (useMap : Bool) (bist : Nat → Option Nat) (p : Nat) :
    (s.reconcile useMap bist p).racks = s.racks := by
  simp [State.reconcile]

@[simp] theorem State.fuseRows_racks (s : State) (rows : List (Pos × Nat × Nat)) : (s.fuseRows rows).racks = s.racks := by
  simp [State.fuseRows]

@[simp] theorem State.recheckOutside_racks (s : State) : (s.recheckOutside).racks = s.racks := by rfl

@[simp] theorem State.thermalRelease_racks (s : State) : (s.thermalRelease).racks = s.racks := by
  simp [State.thermalRelease]

@[simp] theorem State.settlePantry_racks (s : State) : (s.settlePantry).racks = s.racks := by
  simp [State.settlePantry]

@[simp] theorem State.nandWrite_racks (s : State) (jar other : Nat) : (s.nandWrite jar other).racks = s.racks := by
  simp [State.nandWrite]

@[simp] theorem State.vacate_racks (s : State) (block : Nat) : (s.vacate block).racks = s.racks := by rfl

@[simp] theorem State.occupy_racks (s : State) (block owner : Nat) : (s.occupy block owner).racks = s.racks := by
  simp [State.occupy]

@[simp] theorem State.openBlock_racks (s : State) (owner : Nat) : (s.openBlock owner).racks = s.racks := by
  unfold State.openBlock
  split <;> simp

@[simp] theorem State.levelDie_racks (s : State) (die : Nat) : (s.levelDie die).racks = s.racks := by
  unfold State.levelDie
  dsimp only
  repeat' split
  all_goals simp

@[simp] theorem State.jarWrite_racks (s : State) (h slot bytes : Nat) (first : Bool) : (s.jarWrite h slot bytes first).racks = s.racks := by
  simp [State.jarWrite]

@[simp] theorem State.moveBlock_racks (s : State) (block : Nat) : (s.moveBlock block).racks = s.racks := by
  simp [State.moveBlock]

@[simp] theorem State.retireBlock_racks (s : State) (block : Nat) : (s.retireBlock block).racks = s.racks := by
  simp [State.retireBlock]

@[simp] theorem State.reserveJar_racks (s : State) (h slot fence seq lead : Nat) (ref : Option CmdRef) :
    (s.reserveJar h slot fence seq lead ref).racks = s.racks := by
  simp [State.reserveJar]

@[simp] theorem State.startSet_racks (s : State) (h fence : Nat) (ref : Option CmdRef) : (s.startSet h fence ref).racks = s.racks := by
  simp [State.startSet]

@[simp] theorem State.startAuto_racks (s : State) (h : Nat) : (s.startAuto h).racks = s.racks := by
  simp [State.startAuto]
  split <;> simp

@[simp] theorem State.restoreLine_racks (s : State) (h : Nat) (j : Jar) (line : Nat) : (s.restoreLine h j line).racks = s.racks := by
  simp [State.restoreLine]
  split <;> simp

@[simp] theorem State.restorePages_racks (s : State) (h : Nat) (j : Jar) (pages : List Nat) :
    (s.restorePages h j pages).racks = s.racks := by
  unfold State.restorePages
  refine (State.each_racks _ _ _ fun x l => x.restoreLine_racks h j l).trans (State.each_racks _ _ _ fun x l => ?_)
  split <;> simp

@[simp] theorem State.spendToken_racks (s : State) (nonce : Nat) : (s.spendToken nonce).racks = s.racks := by rfl

@[simp] theorem State.makerAct_racks (s : State) (who : Who) (code nonce : Nat) (args : List Nat) (refuse : Nat) (act : State → State) (hact : ∀ x : State, (act x).racks = x.racks) :
    (s.makerAct who code nonce args refuse act).racks = s.racks := by
  simp [State.makerAct]
  repeat' split
  all_goals simp_all

@[simp] theorem State.eraseJars_racks (s : State) (h : Nat) : (s.eraseJars h).racks = s.racks := by
  unfold State.eraseJars
  dsimp only
  repeat' split
  all_goals simp

@[simp] theorem State.fwAct_racks (s : State) (who : Who) (args : List Nat) (refuse : Nat) (act : State → State) (hact : ∀ x : State, (act x).racks = x.racks) :
    (s.fwAct who args refuse act).racks = s.racks := by
  simp [State.fwAct]
  repeat' split
  all_goals simp_all

@[simp] theorem State.modFw_racks (s : State) (f : Fw → Fw) : (s.modFw f).racks = s.racks := by rfl

@[simp] theorem State.askData_racks (s : State) : (s.askData).racks = s.racks := by rfl

@[simp] theorem State.startFirmware_racks (s : State) : (s.startFirmware).racks = s.racks := by
  simp [State.startFirmware]

@[simp] theorem State.elapse_racks (s : State) : (s.elapse).racks = s.racks := by
  simp [State.elapse]

@[simp] theorem State.spdm_racks (s : State) (what : String) (vals : List Nat) : (s.spdm what vals).racks = s.racks := by
  simp [State.spdm]

@[simp] theorem State.setSession_racks (s : State) (n : Nat) (x : Session) : (s.setSession n x).racks = s.racks := by rfl

@[simp] theorem State.inSession_racks (s : State) (n : Nat) (what : String) (act : Session → Session) :
    (s.inSession n what act).racks = s.racks := by
  simp [State.inSession]

@[simp] theorem State.ideKm_racks (s : State) (session stream : Nat) (what : String) (act : Nat → Nat × Nat) :
    (s.ideKm session stream what act).racks = s.racks := by
  simp [State.ideKm]
  split <;> simp

@[simp] theorem State.followAlert_racks (s : State) : (s.followAlert).racks = s.racks := by rfl

@[simp] theorem State.pmbusAnswer_racks (s : State) (cmd : String) (pageOk : Bool) (vals : List Nat) :
    (s.pmbusAnswer cmd pageOk vals).racks = s.racks := by
  simp [State.pmbusAnswer]

@[simp] theorem State.writeRing_racks (s : State) (p f r : Nat) (g : Ring → Ring) : (s.writeRing p f r g).racks = s.racks := by
  simp [State.writeRing]

@[simp] theorem State.writeMsix_racks (s : State) (p f e : Nat) (v : BitVec 128) : (s.writeMsix p f e v).racks = s.racks := by
  simp [State.writeMsix]

@[simp] theorem State.iWrite_racks (s : State) (who : Who) (code hob : Nat) (args : List Nat) (refuse : Nat) (act : State → State) (hact : ∀ x : State, (act x).racks = x.racks) :
    (s.iWrite who code hob args refuse act).racks = s.racks := by
  simp [State.iWrite, hact]

@[simp] theorem State.writePortCtl_racks (s : State) (who : Who) (p v : Nat) : (s.writePortCtl who p v).racks = s.racks := by
  simp [State.writePortCtl]

@[simp] theorem State.writeRoute_racks (s : State) (who : Who) (dest v : Nat) : (s.writeRoute who dest v).racks = s.racks := by
  simp [State.writeRoute]

@[simp] theorem State.writeJarAcl_racks (s : State) (who : Who) (h v : Nat) : (s.writeJarAcl who h v).racks = s.racks := by
  simp [State.writeJarAcl]

@[simp] theorem State.writeTaste_racks (s : State) (who : Who) (v : Nat) : (s.writeTaste who v).racks = s.racks := by
  simp [State.writeTaste]

@[simp] theorem State.writeRstCfg_racks (s : State) (who : Who) (v : Nat) : (s.writeRstCfg who v).racks = s.racks := by
  simp [State.writeRstCfg]

@[simp] theorem State.writeIdle_racks (s : State) (who : Who) (v : Nat) : (s.writeIdle who v).racks = s.racks := by
  simp [State.writeIdle]

@[simp] theorem State.writePolicy_racks (s : State) (who : Who) (h v : Nat) : (s.writePolicy who h v).racks = s.racks := by
  simp [State.writePolicy]

@[simp] theorem State.withFetchWord_racks (s : State) (nbits w : Nat) : (s.withFetchWord nbits w).racks = s.racks := by rfl

end Sys2Proof.Machine
end

section
/-! The commands that leave the racks as they were (R16). -/

namespace Sys2Proof.Machine

open Sys2Proof

@[simp] theorem State.landingData_racks (s : State) (h p : Nat) (l : Landing) (data : List Byte) :
    (s.landingData h p l data).2.2.racks = s.racks := by
  unfold State.landingData
  dsimp only
  split
  · refine foldl_proj (fun t : List Byte × List Nat × State => t.2.2.racks) _ (fun t i => ?_) _ ([], [], s)
    split
    · rfl
    · split
      · simp
      · dsimp only
        split <;> simp
  · split <;> rfl

@[simp] theorem after_done (s t : State) : after (done t) s = t := by rfl

@[simp] theorem after_next (s t : State) : after (.next t) s = t := by rfl

@[simp] theorem after_ite (c : Prop) [Decidable c] (a b : Res) (s : State) :
    after (if c then a else b) s = if c then after a s else after b s := by
  split <;> rfl

@[simp] theorem State.ringPriv_racks (s : State) (ref : CmdRef) (h sub : Nat) (args : List Nat) (status : Nat) (act : State → State)
    (info : Nat × Nat) (hact : ∀ x : State, (act x).racks = x.racks) : (s.ringPriv ref h sub args status act info).racks = s.racks := by
  simp [State.ringPriv, hact]

@[simp] theorem State.hostFault_racks (s : State) (txn : Nat) : (after (s.hostFault txn) s).racks = s.racks := by
  unfold State.hostFault
  dsimp only
  repeat' split
  all_goals simp

@[simp] theorem execHobCycleAdvance_racks (hob : HobId) (s : State) : (after (execHobCycleAdvance hob s) s).racks = s.racks := by
  simp [execHobCycleAdvance]

@[simp] theorem execCalWordIssue_racks (cell : Pos) (upsets : List Upset) (s : State) :
    (after (execCalWordIssue cell upsets s) s).racks = s.racks := by
  simp [execCalWordIssue]
  split <;> simp

@[simp] theorem execResidueFault_racks (cell : Pos) (bank : Fin 2) (row : Fin 32) (s : State) :
    (after (execResidueFault cell bank row s) s).racks = s.racks := by
  simp [execResidueFault]

@[simp] theorem execEccWriteBack_racks (cell : Pos) (s : State) : (after (execEccWriteBack cell s) s).racks = s.racks := by
  simp [execEccWriteBack]
  split <;> simp

@[simp] theorem execSpareRowRemap_racks (cell : Pos) (s : State) : (after (execSpareRowRemap cell s) s).racks = s.racks := by
  simp [execSpareRowRemap]

@[simp] theorem execRouterSlotForward_racks (cell : Pos) (out : Dir) (flipped : List Nat) (s : State) :
    (after (execRouterSlotForward cell out flipped s) s).racks = s.racks := by
  unfold execRouterSlotForward
  dsimp only
  repeat' split
  all_goals simp

@[simp] theorem execRouterPageSwitch_racks (cell : Pos) (s : State) : (after (execRouterPageSwitch cell s) s).racks = s.racks := by
  unfold execRouterPageSwitch
  dsimp only
  repeat' split
  all_goals simp

@[simp] theorem execPeriodChecksum_racks (cell : Pos) (s : State) : (after (execPeriodChecksum cell s) s).racks = s.racks := by
  unfold execPeriodChecksum
  dsimp only
  repeat' split
  all_goals simp

@[simp] theorem execCrossingAddrRead_racks (hob : HobId) (xng : BitVec 16) (s : State) :
    (after (execCrossingAddrRead hob xng s) s).racks = s.racks := by
  simp [execCrossingAddrRead]
  split <;> simp

@[simp] theorem execCrossingIssue_racks (hob : HobId) (xng : BitVec 16) (s : State) :
    (after (execCrossingIssue hob xng s) s).racks = s.racks := by
  simp [execCrossingIssue]
  split <;> simp

@[simp] theorem execCheckPoint_racks (hob : HobId) (xng : BitVec 16) (s : State) :
    (after (execCheckPoint hob xng s) s).racks = s.racks := by
  unfold execCheckPoint
  dsimp only
  repeat' split
  all_goals simp

@[simp] theorem execHoldEdge_racks (hob : HobId) (s : State) : (after (execHoldEdge hob s) s).racks = s.racks := by
  simp [execHoldEdge]

@[simp] theorem execHoldRelease_racks (hob : HobId) (s : State) : (after (execHoldRelease hob s) s).racks = s.racks := by
  simp [execHoldRelease]

@[simp] theorem execEdgeCreditGrant_racks (hob : HobId) (xng : BitVec 16) (s : State) :
    (after (execEdgeCreditGrant hob xng s) s).racks = s.racks := by
  simp [execEdgeCreditGrant]
  split <;> simp

@[simp] theorem execTransactionGrant_racks (txn : Nat) (s : State) : (after (execTransactionGrant txn s) s).racks = s.racks := by
  unfold execTransactionGrant
  split <;> simp

@[simp] theorem execBlockLanding_racks (txn : Nat) (data : List Byte) (crcOk : Bool) (s : State) :
    (after (execBlockLanding txn data crcOk s) s).racks = s.racks := by
  unfold execBlockLanding
  dsimp only
  repeat' split
  all_goals simp

@[simp] theorem execSimmerWindow_racks (hob : HobId) (s : State) : (after (execSimmerWindow hob s) s).racks = s.racks := by
  simp [execSimmerWindow]

@[simp] theorem execSimmerDutyUpdate_racks (hob : HobId) (watts : Nat) (s : State) :
    (after (execSimmerDutyUpdate hob watts s) s).racks = s.racks := by
  simp [execSimmerDutyUpdate]

@[simp] theorem execHoldLimitExpiry_racks (hob : HobId) (s : State) : (after (execHoldLimitExpiry hob s) s).racks = s.racks := by
  simp [execHoldLimitExpiry]
  split <;> simp

@[simp] theorem execStepFence_racks (hob : HobId) (s : State) : (after (execStepFence hob s) s).racks = s.racks := by
  simp [execStepFence]

@[simp] theorem execFenceLocalClose_racks (hob : HobId) (s : State) : (after (execFenceLocalClose hob s) s).racks = s.racks := by
  simp [execFenceLocalClose]
  split <;> simp

@[simp] theorem execPeerFenceReport_racks (hob : HobId) (peer : BitVec 13) (fence : Nat) (s : State) :
    (after (execPeerFenceReport hob peer fence s) s).racks = s.racks := by
  simp [execPeerFenceReport]

@[simp] theorem execPeerFenceFailed_racks (hob : HobId) (peer : BitVec 13) (fence : Nat) (s : State) :
    (after (execPeerFenceFailed hob peer fence s) s).racks = s.racks := by
  simp [execPeerFenceFailed]

@[simp] theorem execClientWriteAck_racks (txn : Nat) (ok : Bool) (s : State) : (after (execClientWriteAck txn ok s) s).racks = s.racks := by
  unfold execClientWriteAck
  dsimp only
  repeat' split
  all_goals simp

@[simp] theorem execStagedWriteForward_racks (hob : HobId) (s : State) : (after (execStagedWriteForward hob s) s).racks = s.racks := by
  simp [execStagedWriteForward]
  split <;> simp

@[simp] theorem execStepTimerExpiry_racks (hob : HobId) (s : State) : (after (execStepTimerExpiry hob s) s).racks = s.racks := by
  simp [execStepTimerExpiry]

@[simp] theorem execMsgHeaderArrival_racks (cell : Pos) (m : Msg) (s : State) :
    (after (execMsgHeaderArrival cell m s) s).racks = s.racks := by
  unfold execMsgHeaderArrival
  dsimp only
  repeat' split
  all_goals simp

@[simp] theorem execMsgLandingDone_racks (cell : Pos) (landing : Nat) (data : List Byte) (crcOk : Bool) (s : State) :
    (after (execMsgLandingDone cell landing data crcOk s) s).racks = s.racks := by
  simp [execMsgLandingDone]
  split <;> simp

@[simp] theorem execMsgLandingTimeout_racks (cell : Pos) (landing : Nat) (s : State) :
    (after (execMsgLandingTimeout cell landing s) s).racks = s.racks := by
  simp [execMsgLandingTimeout]
  split <;> simp

@[simp] theorem execMsgReply_racks (hob : HobId) (origin : Origin) (tag : BitVec 16) (target : Nat) (status : Fin 8) (s : State) :
    (after (execMsgReply hob origin tag target status s) s).racks = s.racks := by
  unfold execMsgReply
  dsimp only
  repeat' split
  all_goals simp

@[simp] theorem execSendTimeout_racks (hob : HobId) (origin : Origin) (tag : BitVec 16) (s : State) :
    (after (execSendTimeout hob origin tag s) s).racks = s.racks := by
  simp [execSendTimeout]
  split <;> simp

@[simp] theorem execMsgWaitRelaunch_racks (hob : HobId) (origin : Origin) (tag : BitVec 16) (s : State) :
    (after (execMsgWaitRelaunch hob origin tag s) s).racks = s.racks := by
  simp [execMsgWaitRelaunch]
  split <;> simp

@[simp] theorem execMcastRelaunch_racks (hob : HobId) (origin : Origin) (tag : BitVec 16) (target : Nat) (s : State) :
    (after (execMcastRelaunch hob origin tag target s) s).racks = s.racks := by
  simp [execMcastRelaunch]
  split <;> simp

@[simp] theorem execBroadcastAck_racks (id : Nat) (target : Nat) (s : State) :
    (after (execBroadcastAck id target s) s).racks = s.racks := by
  unfold execBroadcastAck
  split <;> simp

@[simp] theorem execBroadcastRetry_racks (id : Nat) (s : State) : (after (execBroadcastRetry id s) s).racks = s.racks := by
  unfold execBroadcastRetry
  split <;> simp

@[simp] theorem execSeqActFire_racks (cell : Pos) (slot : SlotId) (s : State) : (after (execSeqActFire cell slot s) s).racks = s.racks := by
  unfold execSeqActFire
  dsimp only
  repeat' split
  all_goals simp

@[simp] theorem execSeqCtr_racks (cell : Pos) (slot : SlotId) (s : State) : (after (execSeqCtr cell slot s) s).racks = s.racks := by
  unfold execSeqCtr
  dsimp only
  repeat' split
  all_goals simp

@[simp] theorem execSeqJump_racks (cell : Pos) (slot : SlotId) (s : State) : (after (execSeqJump cell slot s) s).racks = s.racks := by
  unfold execSeqJump
  dsimp only
  repeat' split
  all_goals simp

@[simp] theorem execSeqHalt_racks (cell : Pos) (slot : SlotId) (s : State) : (after (execSeqHalt cell slot s) s).racks = s.racks := by
  simp [execSeqHalt]
  split <;> simp

@[simp] theorem execSeqSendRetry_racks (cell : Pos) (slot : SlotId) (s : State) :
    (after (execSeqSendRetry cell slot s) s).racks = s.racks := by
  unfold execSeqSendRetry
  dsimp only
  repeat' split
  all_goals simp

@[simp] theorem execStackReadRequest_racks (txn : Nat) (badLines : List (Nat × Nat)) (s : State) :
    (after (execStackReadRequest txn badLines s) s).racks = s.racks := by
  unfold execStackReadRequest
  dsimp only
  repeat' split
  all_goals simp

@[simp] theorem execStackWriteRequest_racks (txn : Nat) (crcOk : Bool) (s : State) :
    (after (execStackWriteRequest txn crcOk s) s).racks = s.racks := by
  unfold execStackWriteRequest
  dsimp only
  split
  · rfl
  · rw [after_ite, after_ite]
    split
    · rfl
    · split
      · simp
      · split
        · simp
        · next hstore =>
          have hracks := (State.storeBlock_racks hstore).trans (State.touchStack_racks s _)
          split <;> simp [hracks]

@[simp] theorem execRefresh_racks (stack : StackId) (pc : Fin 34) (s : State) : (after (execRefresh stack pc s) s).racks = s.racks := by
  simp [execRefresh]

@[simp] theorem execStackRowRepair_racks (stack : StackId) (row : Nat) (s : State) :
    (after (execStackRowRepair stack row s) s).racks = s.racks := by
  simp [execStackRowRepair]

@[simp] theorem execPcSpareDone_racks (stack : StackId) (pc : Fin 32) (s : State) :
    (after (execPcSpareDone stack pc s) s).racks = s.racks := by
  simp [execPcSpareDone]

@[simp] theorem execPatrolScrub_racks (stack : StackId) (line : Nat) (badSymbols : Nat) (s : State) :
    (after (execPatrolScrub stack line badSymbols s) s).racks = s.racks := by
  simp [execPatrolScrub]
  split <;> simp

@[simp] theorem execStackPowerDown_racks (stack : StackId) (s : State) : (after (execStackPowerDown stack s) s).racks = s.racks := by
  simp [execStackPowerDown]

@[simp] theorem execCaptureArm_racks (hob : HobId) (s : State) : (after (execCaptureArm hob s) s).racks = s.racks := by
  simp [execCaptureArm]
  split <;> simp

@[simp] theorem execZeroiseDone_racks (hob : HobId) (s : State) : (after (execZeroiseDone hob s) s).racks = s.racks := by
  simp [execZeroiseDone]

@[simp] theorem execHpAuthMac_racks (port : HPort) (fn : FnId) (mac : BitVec 256) (s : State) :
    (after (execHpAuthMac port fn mac s) s).racks = s.racks := by
  simp [execHpAuthMac]

@[simp] theorem execAuthLockoutEnd_racks (port : HPort) (fn : FnId) (s : State) :
    (after (execAuthLockoutEnd port fn s) s).racks = s.racks := by
  simp [execAuthLockoutEnd]

@[simp] theorem execHostAccessFault_racks (what : HostAccess) (s : State) : (after (execHostAccessFault what s) s).racks = s.racks := by
  unfold execHostAccessFault
  split <;> simp

@[simp] theorem execRingEnable_racks (port : HPort) (fn : FnId) (ring : RingId) (s : State) :
    (after (execRingEnable port fn ring s) s).racks = s.racks := by
  simp [execRingEnable]

@[simp] theorem execRingDisable_racks (port : HPort) (fn : FnId) (ring : RingId) (s : State) :
    (after (execRingDisable port fn ring s) s).racks = s.racks := by
  simp [execRingDisable]

@[simp] theorem execDoorbellPoll_racks (port : HPort) (fn : FnId) (ring : RingId) (s : State) :
    (after (execDoorbellPoll port fn ring s) s).racks = s.racks := by
  simp [execDoorbellPoll]

@[simp] theorem execDoorbellLineReturn_racks (port : HPort) (fn : FnId) (ring : RingId) (pi cqCi : W32) (ok : Bool) (s : State) :
    (after (execDoorbellLineReturn port fn ring pi cqCi ok s) s).racks = s.racks := by
  simp [execDoorbellLineReturn]

@[simp] theorem execSqeArrival_racks (port : HPort) (fn : FnId) (ring : RingId) (entry : List Byte) (ok : Bool) (s : State) :
    (after (execSqeArrival port fn ring entry ok s) s).racks = s.racks := by
  simp [execSqeArrival]

@[simp] theorem execCqInterruptTimer_racks (port : HPort) (fn : FnId) (ring : RingId) (s : State) :
    (after (execCqInterruptTimer port fn ring s) s).racks = s.racks := by
  simp [execCqInterruptTimer]

@[simp] theorem execHostLoss_racks (port : HPort) (linkDown : Bool) (s : State) :
    (after (execHostLoss port linkDown s) s).racks = s.racks := by
  simp [execHostLoss]

@[simp] theorem execFlr_racks (port : HPort) (fn : FnId) (s : State) : (after (execFlr port fn s) s).racks = s.racks := by
  simp [execFlr]

@[simp] theorem execFenceWait_racks (ref : CmdRef) (hob : HobId) (fence : Nat) (s : State) :
    (after (execFenceWait ref hob fence s) s).racks = s.racks := by
  simp [execFenceWait]

@[simp] theorem execFenceStop_racks (ref : CmdRef) (hob : HobId) (s : State) : (after (execFenceStop ref hob s) s).racks = s.racks := by
  simp [execFenceStop]

@[simp] theorem execCopy_racks (ref : CmdRef) (hob : HobId) (src dst len from_ : Nat) (srcKind dstKind : Fin 4) (s : State) :
    (after (execCopy ref hob src dst len from_ srcKind dstKind s) s).racks = s.racks := by
  simp [execCopy]

@[simp] theorem execCopyDone_racks (hob : HobId) (ok : Bool) (moved : Nat) (data : Moved) (s : State) :
    (after (execCopyDone hob ok moved data s) s).racks = s.racks := by
  unfold execCopyDone
  dsimp only
  split
  · rfl
  · rw [after_ite]
    split
    · rfl
    · rw [after_done]
      split
      · simp
      · next hout =>
        split at hout
        · have hracks := State.storeRun_racks hout
          simp only [State.complete_frame, State.modHob_frame, hracks]
          repeat' split
          all_goals simp
        · cases hout
          simp only [State.complete_frame, State.modHob_frame, State.emit_frame]
          split <;> simp

@[simp] theorem execWindowOpen_racks (ref : CmdRef) (hob : HobId) (cell : BitVec 13) (win : WinId) (slot : SlotId) (region : RegionId) (s : State) :
    (after (execWindowOpen ref hob cell win slot region s) s).racks = s.racks := by
  simp [execWindowOpen]

@[simp] theorem execWindowClose_racks (ref : CmdRef) (hob : HobId) (cell : BitVec 13) (win : WinId) (s : State) :
    (after (execWindowClose ref hob cell win s) s).racks = s.racks := by
  simp [execWindowClose]

@[simp] theorem execHobConfigShape_racks (ref : CmdRef) (hob : HobId) (x0 y0 w h : Nat) (s : State) :
    (after (execHobConfigShape ref hob x0 y0 w h s) s).racks = s.racks := by
  simp [execHobConfigShape]

@[simp] theorem execHobConfigMemory_racks (ref : CmdRef) (hob : HobId) (stack extents : Nat) (s : State) :
    (after (execHobConfigMemory ref hob stack extents s) s).racks = s.racks := by
  simp [execHobConfigMemory]

@[simp] theorem execHobConfigPantry_racks (ref : CmdRef) (hob : HobId) (gib : Nat) (s : State) :
    (after (execHobConfigPantry ref hob gib s) s).racks = s.racks := by
  simp [execHobConfigPantry]

@[simp] theorem execHobConfigPower_racks (ref : CmdRef) (hob : HobId) (percent : Nat) (s : State) :
    (after (execHobConfigPower ref hob percent s) s).racks = s.racks := by
  simp [execHobConfigPower]

@[simp] theorem execHobConfigJars_racks (ref : CmdRef) (hob : HobId) (mode : Nat) (s : State) :
    (after (execHobConfigJars ref hob mode s) s).racks = s.racks := by
  simp [execHobConfigJars]

@[simp] theorem execHobRelease_racks (ref : CmdRef) (hob : HobId) (s : State) : (after (execHobRelease ref hob s) s).racks = s.racks := by
  simp [execHobRelease]

@[simp] theorem execWindowQuiesceEnd_racks (cell : Pos) (win : WinId) (s : State) :
    (after (execWindowQuiesceEnd cell win s) s).racks = s.racks := by
  unfold execWindowQuiesceEnd
  dsimp only
  repeat' split
  all_goals simp

@[simp] theorem execLoadRecipeDone_racks (hob : HobId) (s : State) : (after (execLoadRecipeDone hob s) s).racks = s.racks := by
  simp [execLoadRecipeDone]
  split <;> simp

@[simp] theorem execRunSteps_racks (ref : CmdRef) (hob : HobId) (count : Nat) (each : Bool) (buf bufLen stg stgLen : Nat) (s : State) :
    (after (execRunSteps ref hob count each buf bufLen stg stgLen s) s).racks = s.racks := by
  unfold execRunSteps
  dsimp only
  rw [after_done]
  refine State.command_racks _ _ _ _ _ _ _ fun x => ?_
  repeat' split
  all_goals simp

@[simp] theorem execFaultReport_racks (cell : Pos) (code : FaultCode) (unit : BitVec 12) (s : State) :
    (after (execFaultReport cell code unit s) s).racks = s.racks := by
  unfold execFaultReport
  dsimp only
  repeat' split
  all_goals simp

@[simp] theorem execReplayStart_racks (hob : HobId) (status : Nat) (cell : BitVec 13) (s : State) :
    (after (execReplayStart hob status cell s) s).racks = s.racks := by
  simp [execReplayStart]

@[simp] theorem execScoreHourly_racks (s : State) : (after (execScoreHourly s) s).racks = s.racks := by
  simp [execScoreHourly]

@[simp] theorem execParoleStart_racks (cell : Pos) (s : State) : (after (execParoleStart cell s) s).racks = s.racks := by
  simp [execParoleStart]

@[simp] theorem execRetireAdviceEval_racks (s : State) : (after (execRetireAdviceEval s) s).racks = s.racks := by
  simp [execRetireAdviceEval]

@[simp] theorem execPcSpareStart_racks (stack : StackId) (pc : Fin 32) (s : State) :
    (after (execPcSpareStart stack pc s) s).racks = s.racks := by
  simp [execPcSpareStart]

@[simp] theorem execTmtRowStart_racks (cell : Pos) (s : State) : (after (execTmtRowStart cell s) s).racks = s.racks := by
  simp [execTmtRowStart]

@[simp] theorem execTmtRowDone_racks (cell : Pos) (pass : Bool) (s : State) : (after (execTmtRowDone cell pass s) s).racks = s.racks := by
  simp [execTmtRowDone]

@[simp] theorem execPerturbSet_racks (who : Who) (i : Fin 16) (v : BitVec 128) (s : State) :
    (after (execPerturbSet who i v s) s).racks = s.racks := by
  simp [execPerturbSet]

@[simp] theorem execPerturbHold_racks (i : Fin 16) (s : State) : (after (execPerturbHold i s) s).racks = s.racks := by
  simp [execPerturbHold]

theorem State.injectError_racks {s t : State} {h n check word : Nat} {code : Option Nat}
    (hinject : s.injectError h n check word = some (t, code)) : t.racks = s.racks := by
  unfold State.injectError at hinject
  dsimp only at hinject
  split at hinject
  · split at hinject
    · cases hinject
    · split at hinject
      · cases hinject
      · split at hinject
        · cases hinject
          simp
        · cases hinject
  · cases hinject
    simp
  · cases hinject
    simp
  · cases hinject
    simp
  · split at hinject
    · cases hinject
    · split at hinject
      · cases hinject
        simp
      · cases hinject

@[simp] theorem execPerturbInject_racks (i : Fin 16) (word : Nat) (s : State) : (after (execPerturbInject i word s) s).racks = s.racks := by
  unfold execPerturbInject
  dsimp only
  rw [after_ite, State.ite_racks, after_done]
  refine ite_eq_left_iff.mpr fun _ => ?_
  split
  · rfl
  · next hinject =>
    rw [after_done]
    refine Eq.trans ?_ (State.injectError_racks hinject)
    dsimp only
    split <;> rfl

@[simp] theorem execPerturbExpiry_racks (i : Fin 16) (s : State) : (after (execPerturbExpiry i s) s).racks = s.racks := by
  simp [execPerturbExpiry]

@[simp] theorem execTraceWindow_racks (cell : Pos) (s : State) : (after (execTraceWindow cell s) s).racks = s.racks := by
  simp [execTraceWindow]
  split <;> simp

@[simp] theorem execTasterSampleShip_racks (cell : Pos) (s : State) : (after (execTasterSampleShip cell s) s).racks = s.racks := by
  simp [execTasterSampleShip]
  split <;> simp

@[simp] theorem execTasterSampleAbandon_racks (cell : Pos) (s : State) : (after (execTasterSampleAbandon cell s) s).racks = s.racks := by
  simp [execTasterSampleAbandon]
  split <;> simp

@[simp] theorem execQueryState_racks (ref : CmdRef) (hob : HobId) (addr len : Nat) (s : State) :
    (after (execQueryState ref hob addr len s) s).racks = s.racks := by
  simp [execQueryState]

@[simp] theorem execQueryHobMap_racks (ref : CmdRef) (hob : HobId) (addr len : Nat) (s : State) :
    (after (execQueryHobMap ref hob addr len s) s).racks = s.racks := by
  simp [execQueryHobMap]

@[simp] theorem execQueryDistance_racks (ref : CmdRef) (hob : HobId) (addr len : Nat) (s : State) :
    (after (execQueryDistance ref hob addr len s) s).racks = s.racks := by
  simp [execQueryDistance]

@[simp] theorem execQueryTelemetry_racks (ref : CmdRef) (hob : HobId) (addr len : Nat) (s : State) :
    (after (execQueryTelemetry ref hob addr len s) s).racks = s.racks := by
  simp [execQueryTelemetry]

@[simp] theorem execQueryGrants_racks (ref : CmdRef) (hob : HobId) (addr len : Nat) (s : State) :
    (after (execQueryGrants ref hob addr len s) s).racks = s.racks := by
  simp [execQueryGrants]

@[simp] theorem execQueryLostEvents_racks (ref : CmdRef) (hob : HobId) (addr len : Nat) (s : State) :
    (after (execQueryLostEvents ref hob addr len s) s).racks = s.racks := by
  simp [execQueryLostEvents]

@[simp] theorem execQueryReport_racks (ref : CmdRef) (hob : HobId) (addr len seq : Nat) (s : State) :
    (after (execQueryReport ref hob addr len seq s) s).racks = s.racks := by
  unfold execQueryReport
  rw [after_done]
  refine State.command_racks _ _ _ _ _ _ _ fun x => ?_
  split <;> simp

@[simp] theorem execQueryLog_racks (ref : CmdRef) (hob : HobId) (addr len : Nat) (s : State) :
    (after (execQueryLog ref hob addr len s) s).racks = s.racks := by
  simp [execQueryLog]

@[simp] theorem execLnpDataFrame_racks (port : LnpId) (f : Frame) (decoded tagOk blockOk : Bool) (s : State) :
    (after (execLnpDataFrame port f decoded tagOk blockOk s) s).racks = s.racks := by
  simp [execLnpDataFrame]

@[simp] theorem execLnpIdleFrame_racks (port : LnpId) (f : Frame) (decoded tagOk : Bool) (s : State) :
    (after (execLnpIdleFrame port f decoded tagOk s) s).racks = s.racks := by
  simp [execLnpIdleFrame]

@[simp] theorem execLnpNakFrame_racks (port : LnpId) (f : Frame) (decoded tagOk : Bool) (named : BitVec 16) (s : State) :
    (after (execLnpNakFrame port f decoded tagOk named s) s).racks = s.racks := by
  simp [execLnpNakFrame]

@[simp] theorem execLnpIdleSend_racks (port : LnpId) (s : State) : (after (execLnpIdleSend port s) s).racks = s.racks := by
  unfold execLnpIdleSend
  dsimp only
  repeat' split
  all_goals simp

@[simp] theorem execLnpKeyStep_racks (port : LnpId) (s : State) : (after (execLnpKeyStep port s) s).racks = s.racks := by
  simp [execLnpKeyStep]

@[simp] theorem execLnpSessionFrame_racks (port : LnpId) (f : Frame) (decoded tagOk : Bool) (msg : SessionMsg) (s : State) :
    (after (execLnpSessionFrame port f decoded tagOk msg s) s).racks = s.racks := by
  simp [execLnpSessionFrame]
  split <;> simp

@[simp] theorem execLnpLaneFail_racks (port : LnpId) (fibre : Fin 4) (lane : Fin 9) (s : State) :
    (after (execLnpLaneFail port fibre lane s) s).racks = s.racks := by
  simp [execLnpLaneFail]

@[simp] theorem execLaserWearCheck_racks (port : LnpId) (fibre : Fin 4) (lane : Fin 9) (bias power : Nat) (s : State) :
    (after (execLaserWearCheck port fibre lane bias power s) s).racks = s.racks := by
  simp [execLaserWearCheck]

@[simp] theorem execLnpTrainingDone_racks (port : LnpId) (r : TrainResult) (s : State) :
    (after (execLnpTrainingDone port r s) s).racks = s.racks := by
  simp [execLnpTrainingDone]

@[simp] theorem execLnpTrainingTimeout_racks (port : LnpId) (s : State) : (after (execLnpTrainingTimeout port s) s).racks = s.racks := by
  simp [execLnpTrainingTimeout]

@[simp] theorem execLnpRetrainDone_racks (port : LnpId) (best : List (List Nat)) (s : State) :
    (after (execLnpRetrainDone port best s) s).racks = s.racks := by
  simp [execLnpRetrainDone]

@[simp] theorem execLnpLinkSilent_racks (port : LnpId) (s : State) : (after (execLnpLinkSilent port s) s).racks = s.racks := by
  simp [execLnpLinkSilent]

@[simp] theorem execLnpDownRetry_racks (port : LnpId) (s : State) : (after (execLnpDownRetry port s) s).racks = s.racks := by
  simp [execLnpDownRetry]

@[simp] theorem execLnpRelightDone_racks (port : LnpId) (locked : Bool) (s : State) :
    (after (execLnpRelightDone port locked s) s).racks = s.racks := by
  simp [execLnpRelightDone]

@[simp] theorem execLnpBeacon_racks (port : LnpId) (s : State) : (after (execLnpBeacon port s) s).racks = s.racks := by
  simp [execLnpBeacon]

@[simp] theorem execLnpEn_racks (who : Who) (port : LnpId) (on : Bool) (s : State) :
    (after (execLnpEn who port on s) s).racks = s.racks := by
  simp [execLnpEn]

@[simp] theorem execLnpPark_racks (who : Who) (port : LnpId) (on : Bool) (s : State) :
    (after (execLnpPark who port on s) s).racks = s.racks := by
  simp [execLnpPark]

@[simp] theorem execLnpRtmoExpiry_racks (port : LnpId) (txn : Nat) (s : State) :
    (after (execLnpRtmoExpiry port txn s) s).racks = s.racks := by
  unfold execLnpRtmoExpiry
  split <;> simp

@[simp] theorem execJarRead_racks (port : LnpId) (origin : BitVec 13) (hob : HobId) (slot : Fin 2) (off len : Nat) (s : State) :
    (after (execJarRead port origin hob slot off len s) s).racks = s.racks := by
  simp [execJarRead]

@[simp] theorem execStackCtrlResetDone_racks (stack : StackId) (s : State) :
    (after (execStackCtrlResetDone stack s) s).racks = s.racks := by
  simp [execStackCtrlResetDone]

@[simp] theorem execCellResetDone_racks (cell : Pos) (ok imageOk : Bool) (s : State) :
    (after (execCellResetDone cell ok imageOk s) s).racks = s.racks := by
  simp [execCellResetDone]

@[simp] theorem execRackResetDone_racks (r : Rack) (imageOk : Bool) (s : State) :
    (after (execRackResetDone r imageOk s) s).racks = s.racks := by
  simp [execRackResetDone]

@[simp] theorem execQuarterResetDone_racks (q : Quarter) (imageOk : Bool) (s : State) :
    (after (execQuarterResetDone q imageOk s) s).racks = s.racks := by
  simp [execQuarterResetDone]

@[simp] theorem execHobResetDone_racks (hob : HobId) (s : State) : (after (execHobResetDone hob s) s).racks = s.racks := by
  simp [execHobResetDone]

@[simp] theorem execRouterIslandReset_racks (cell : Pos) (s : State) : (after (execRouterIslandReset cell s) s).racks = s.racks := by
  simp [execRouterIslandReset]

@[simp] theorem execLnpPortResetDone_racks (port : LnpId) (s : State) : (after (execLnpPortResetDone port s) s).racks = s.racks := by
  simp [execLnpPortResetDone]

@[simp] theorem execHostPortResetDone_racks (port : HPort) (s : State) : (after (execHostPortResetDone port s) s).racks = s.racks := by
  simp [execHostPortResetDone]

@[simp] theorem execHearthLockstepMismatch_racks (s : State) : (after (execHearthLockstepMismatch s) s).racks = s.racks := by
  simp [execHearthLockstepMismatch]

@[simp] theorem execHearthWatchdogExpiry_racks (s : State) : (after (execHearthWatchdogExpiry s) s).racks = s.racks := by
  simp [execHearthWatchdogExpiry]

@[simp] theorem execHearthReset_racks (s : State) : (after (execHearthReset s) s).racks = s.racks := by
  simp [execHearthReset]

@[simp] theorem execAshCapture_racks (domain : BitVec 8) (cause : Fin 14) (s : State) :
    (after (execAshCapture domain cause s) s).racks = s.racks := by
  simp [execAshCapture]

@[simp] theorem execAshUnitTimeout_racks (kind : Fin 10) (index : Nat) (s : State) :
    (after (execAshUnitTimeout kind index s) s).racks = s.racks := by
  unfold execAshUnitTimeout
  split <;> simp

@[simp] theorem execAshReadout_racks (who : Who) (seq : Nat) (s : State) : (after (execAshReadout who seq s) s).racks = s.racks := by
  simp [execAshReadout]
  split <;> simp

@[simp] theorem execPowerGood_racks (s : State) : (after (execPowerGood s) s).racks = s.racks := by
  simp [execPowerGood]

@[simp] theorem execVinLow_racks (s : State) : (after (execVinLow s) s).racks = s.racks := by
  simp [execVinLow]

@[simp] theorem execPerstAssert_racks (port : HPort) (s : State) : (after (execPerstAssert port s) s).racks = s.racks := by
  simp [execPerstAssert]

@[simp] theorem execPerstDeassert_racks (port : HPort) (s : State) : (after (execPerstDeassert port s) s).racks = s.racks := by
  simp [execPerstDeassert]

@[simp] theorem execHearthBootDone_racks (okA okB : Bool) (copies : Bool) (s : State) :
    (after (execHearthBootDone okA okB copies s) s).racks = s.racks := by
  simp [execHearthBootDone]

@[simp] theorem execMemoriesUp_racks (bad : List (StackId × Nat)) (copyOk : Bool) (badS0 badS6 : List Nat) (s : State) :
    (after (execMemoriesUp bad copyOk badS0 badS6 s) s).racks = s.racks := by
  simp [execMemoriesUp]

@[simp] theorem execLinksUp_racks (results : List (LnpId × TrainResult)) (s : State) :
    (after (execLinksUp results s) s).racks = s.racks := by
  simp [execLinksUp]

@[simp] theorem execHandover_racks (s : State) : (after (execHandover s) s).racks = s.racks := by
  simp [execHandover]

@[simp] theorem execDamperTick_racks (s : State) : (after (execDamperTick s) s).racks = s.racks := by
  simp [execDamperTick]

@[simp] theorem execDroop_racks (_q : Quarter) (s : State) : (after (execDroop _q s) s).racks = s.racks := by
  simp [execDroop]

@[simp] theorem execPowerCapLift_racks (s : State) : (after (execPowerCapLift s) s).racks = s.racks := by
  simp [execPowerCapLift]

@[simp] theorem execThermalDutyTick_racks (s : State) : (after (execThermalDutyTick s) s).racks = s.racks := by
  simp [execThermalDutyTick]

@[simp] theorem execThermalHold_racks (s : State) : (after (execThermalHold s) s).racks = s.racks := by
  simp [execThermalHold]

@[simp] theorem execSensorSample_racks (sensor : Sensor) (value value2 : Nat) (s : State) :
    (after (execSensorSample sensor value value2 s) s).racks = s.racks := by
  simp [execSensorSample]
  split <;> simp

@[simp] theorem execNandBlockFail_racks (block : Nat) (s : State) : (after (execNandBlockFail block s) s).racks = s.racks := by
  simp [execNandBlockFail]

@[simp] theorem execPantryScrub_racks (block : Nat) (permille ageDays : Nat) (s : State) :
    (after (execPantryScrub block permille ageDays s) s).racks = s.racks := by
  simp [execPantryScrub]

@[simp] theorem execJarTake_racks (ref : CmdRef) (hob : HobId) (fence : Nat) (s : State) :
    (after (execJarTake ref hob fence s) s).racks = s.racks := by
  simp [execJarTake]

@[simp] theorem execJarSetPlan_racks (hob : HobId) (fence seq : Nat) (slot : Fin 2) (lead : BitVec 13) (s : State) :
    (after (execJarSetPlan hob fence seq slot lead s) s).racks = s.racks := by
  unfold execJarSetPlan
  dsimp only
  repeat' split
  all_goals simp

@[simp] theorem execJarDue_racks (hob : HobId) (s : State) : (after (execJarDue hob s) s).racks = s.racks := by
  simp [execJarDue]

@[simp] theorem execJarMtbiGather_racks (hob : HobId) (member : BitVec 13) (service count factor : Nat) (s : State) :
    (after (execJarMtbiGather hob member service count factor s) s).racks = s.racks := by
  simp [execJarMtbiGather]

@[simp] theorem execPageDrainDone_racks (hob : HobId) (drained : Drained) (s : State) :
    (after (execPageDrainDone hob drained s) s).racks = s.racks := by
  simp [execPageDrainDone]
  split <;> simp

@[simp] theorem execJarSeal_racks (hob : HobId) (s : State) : (after (execJarSeal hob s) s).racks = s.racks := by
  unfold execJarSeal
  dsimp only
  repeat' split
  all_goals simp

@[simp] theorem execJarSealReport_racks (hob : HobId) (r : SealReport) (s : State) :
    (after (execJarSealReport hob r s) s).racks = s.racks := by
  simp [execJarSealReport]
  split <;> simp

@[simp] theorem execJarRestore_racks (ref : CmdRef) (hob : HobId) (slot : Fin 2) (dev : BitVec 16) (seq : Nat) (peerJar : Option Jar) (s : State) :
    (after (execJarRestore ref hob slot dev seq peerJar s) s).racks = s.racks := by
  unfold execJarRestore
  dsimp only
  rw [after_done]
  refine State.command_racks _ _ _ _ _ _ _ fun x => ?_
  repeat' split
  all_goals simp

@[simp] theorem execJarRestoreDone_racks (hob : HobId) (tagsOk : Bool) (s : State) :
    (after (execJarRestoreDone hob tagsOk s) s).racks = s.racks := by
  simp [execJarRestoreDone]
  split <;> simp

@[simp] theorem execDeepIdleEntry_racks (s : State) : (after (execDeepIdleEntry s) s).racks = s.racks := by
  simp [execDeepIdleEntry]

@[simp] theorem execHrtIdlEn_racks (who : Who) (on : Bool) (s : State) : (after (execHrtIdlEn who on s) s).racks = s.racks := by
  simp [execHrtIdlEn]

@[simp] theorem execLogSeal_racks (s : State) : (after (execLogSeal s) s).racks = s.racks := by
  simp [execLogSeal]

@[simp] theorem execLogReadout_racks (who : Who) (s : State) : (after (execLogReadout who s) s).racks = s.racks := by
  simp [execLogReadout]

@[simp] theorem execMakerTokenUse_racks (who : Who) (token : MakerToken) (sigOk serialOk : Bool) (s : State) :
    (after (execMakerTokenUse who token sigOk serialOk s) s).racks = s.racks := by
  simp [execMakerTokenUse]

@[simp] theorem execJtagUnlock_racks (nonce : Nat) (ok : Bool) (s : State) : (after (execJtagUnlock nonce ok s) s).racks = s.racks := by
  simp [execJtagUnlock]

@[simp] theorem execFuseMapWrite_racks (who : Who) (nonce : Nat) (bad : List Pos) (sigOk : Bool) (s : State) :
    (after (execFuseMapWrite who nonce bad sigOk s) s).racks = s.racks := by
  simp [execFuseMapWrite]

@[simp] theorem execTestContentInstall_racks (who : Who) (nonce : Nat) (version : Nat) (sigOk : Bool) (s : State) :
    (after (execTestContentInstall who nonce version sigOk s) s).racks = s.racks := by
  simp [execTestContentInstall]

@[simp] theorem execCellOverride_racks (who : Who) (nonce : Nat) (cell : Pos) (s : State) :
    (after (execCellOverride who nonce cell s) s).racks = s.racks := by
  simp [execCellOverride]

@[simp] theorem execTrustListChange_racks (who : Who) (nonce : Nat) (keys : List Nat) (s : State) :
    (after (execTrustListChange who nonce keys s) s).racks = s.racks := by
  simp [execTrustListChange]

@[simp] theorem execTakeOwnership_racks (who : Who) (key : Nat) (sysTag : BitVec 48) (devId : BitVec 13) (token : Option Nat) (s : State) :
    (after (execTakeOwnership who key sysTag devId token s) s).racks = s.racks := by
  simp [execTakeOwnership]

@[simp] theorem execGrantSet_racks (who : Who) (hob : HobId) (grant : Grant) (s : State) :
    (after (execGrantSet who hob grant s) s).racks = s.racks := by
  simp [execGrantSet]

@[simp] theorem execCredentialSet_racks (who : Who) (hob : HobId) (cred : Nat) (s : State) :
    (after (execCredentialSet who hob cred s) s).racks = s.racks := by
  simp [execCredentialSet]

@[simp] theorem execRsvWindowSet_racks (who : Who) (hob : HobId) (stack : StackId) (on : Bool) (bw : BitVec 5) (s : State) :
    (after (execRsvWindowSet who hob stack on bw s) s).racks = s.racks := by
  simp [execRsvWindowSet]

@[simp] theorem execPowerLimitSet_racks (who : Who) (v : W32) (s : State) : (after (execPowerLimitSet who v s) s).racks = s.racks := by
  simp [execPowerLimitSet]

@[simp] theorem execMaintWindowDeclare_racks (who : Who) (start len : Nat) (endNow : Bool) (s : State) :
    (after (execMaintWindowDeclare who start len endNow s) s).racks = s.racks := by
  simp [execMaintWindowDeclare]

@[simp] theorem execMaintWindowStart_racks (s : State) : (after (execMaintWindowStart s) s).racks = s.racks := by
  unfold execMaintWindowStart
  split <;> simp

@[simp] theorem execMaintWindowEnd_racks (s : State) : (after (execMaintWindowEnd s) s).racks = s.racks := by
  unfold execMaintWindowEnd
  split <;> simp

@[simp] theorem execAvlYearRollover_racks (s : State) : (after (execAvlYearRollover s) s).racks = s.racks := by
  simp [execAvlYearRollover]

@[simp] theorem execLicenceInstall_racks (who : Who) (lic : Licence) (sigOk serialOk : Bool) (s : State) :
    (after (execLicenceInstall who lic sigOk serialOk s) s).racks = s.racks := by
  simp [execLicenceInstall]

@[simp] theorem execLicenceRemove_racks (who : Who) (id : Nat) (s : State) : (after (execLicenceRemove who id s) s).racks = s.racks := by
  simp [execLicenceRemove]

@[simp] theorem execFwConfirm_racks (who : Who) (s : State) : (after (execFwConfirm who s) s).racks = s.racks := by
  simp [execFwConfirm]

@[simp] theorem execFwRevert_racks (who : Who) (s : State) : (after (execFwRevert who s) s).racks = s.racks := by
  simp [execFwRevert]

@[simp] theorem execFwGoodTimer_racks (s : State) : (after (execFwGoodTimer s) s).racks = s.racks := by
  simp [execFwGoodTimer]

@[simp] theorem execQueryDeviceIdentifiers_racks (s : State) : (after (execQueryDeviceIdentifiers s) s).racks = s.racks := by
  simp [execQueryDeviceIdentifiers]

@[simp] theorem execGetFirmwareParameters_racks (s : State) : (after (execGetFirmwareParameters s) s).racks = s.racks := by
  simp [execGetFirmwareParameters]

@[simp] theorem execGetStatus_racks (s : State) : (after (execGetStatus s) s).racks = s.racks := by
  simp [execGetStatus]

@[simp] theorem execRequestUpdate_racks (who : Who) (s : State) : (after (execRequestUpdate who s) s).racks = s.racks := by
  simp [execRequestUpdate]

@[simp] theorem execPassComponentTable_racks (who : Who) (comps : List Nat) (s : State) :
    (after (execPassComponentTable who comps s) s).racks = s.racks := by
  simp [execPassComponentTable]

@[simp] theorem execUpdateComponent_racks (who : Who) (comp : Nat) (size : Nat) (svn : BitVec 8) (s : State) :
    (after (execUpdateComponent who comp size svn s) s).racks = s.racks := by
  simp [execUpdateComponent]

@[simp] theorem execFirmwareData_racks (who : Who) (bytes : Nat) (s : State) :
    (after (execFirmwareData who bytes s) s).racks = s.racks := by
  simp [execFirmwareData]

@[simp] theorem execVerifyComplete_racks (sigOk : Bool) (s : State) : (after (execVerifyComplete sigOk s) s).racks = s.racks := by
  simp [execVerifyComplete]

@[simp] theorem execApplyComplete_racks (s : State) : (after (execApplyComplete s) s).racks = s.racks := by
  simp [execApplyComplete]

@[simp] theorem execActivateFirmware_racks (who : Who) (s : State) : (after (execActivateFirmware who s) s).racks = s.racks := by
  simp [execActivateFirmware]

@[simp] theorem execActivateTimeout_racks (s : State) : (after (execActivateTimeout s) s).racks = s.racks := by
  simp [execActivateTimeout]

@[simp] theorem execCancelUpdateComponent_racks (who : Who) (s : State) : (after (execCancelUpdateComponent who s) s).racks = s.racks := by
  simp [execCancelUpdateComponent]

@[simp] theorem execCancelUpdate_racks (who : Who) (s : State) : (after (execCancelUpdate who s) s).racks = s.racks := by
  simp [execCancelUpdate]

@[simp] theorem execGetVersion_racks (s : State) : (after (execGetVersion s) s).racks = s.racks := by
  simp [execGetVersion]

@[simp] theorem execGetCapabilities_racks (s : State) : (after (execGetCapabilities s) s).racks = s.racks := by
  simp [execGetCapabilities]

@[simp] theorem execNegotiateAlgorithms_racks (ecdsaP384 sha384 secp384r1 aes256gcm : Bool) (s : State) :
    (after (execNegotiateAlgorithms ecdsaP384 sha384 secp384r1 aes256gcm s) s).racks = s.racks := by
  simp [execNegotiateAlgorithms]

@[simp] theorem execGetDigests_racks (s : State) : (after (execGetDigests s) s).racks = s.racks := by
  simp [execGetDigests]

@[simp] theorem execGetCertificate_racks (slot off len : Nat) (s : State) :
    (after (execGetCertificate slot off len s) s).racks = s.racks := by
  simp [execGetCertificate]

@[simp] theorem execChallenge_racks (nonce : Nat) (s : State) : (after (execChallenge nonce s) s).racks = s.racks := by
  simp [execChallenge]

@[simp] theorem execGetMeasurements_racks (index : Nat) (s : State) : (after (execGetMeasurements index s) s).racks = s.racks := by
  simp [execGetMeasurements]

@[simp] theorem execKeyExchange_racks (session : Nat) (role : Role) (path : Nat) (pf : Option HPort) (s : State) :
    (after (execKeyExchange session role path pf s) s).racks = s.racks := by
  simp [execKeyExchange]

@[simp] theorem execFinish_racks (session : Nat) (mutualOk : Bool) (s : State) :
    (after (execFinish session mutualOk s) s).racks = s.racks := by
  simp [execFinish]

@[simp] theorem execKeyUpdate_racks (session : Nat) (s : State) : (after (execKeyUpdate session s) s).racks = s.racks := by
  simp [execKeyUpdate]

@[simp] theorem execHeartbeat_racks (session : Nat) (s : State) : (after (execHeartbeat session s) s).racks = s.racks := by
  simp [execHeartbeat]

@[simp] theorem execEndSession_racks (session : Nat) (s : State) : (after (execEndSession session s) s).racks = s.racks := by
  simp [execEndSession]

@[simp] theorem execIdeKmQuery_racks (session : Nat) (s : State) : (after (execIdeKmQuery session s) s).racks = s.racks := by
  simp [execIdeKmQuery]
  split <;> simp

@[simp] theorem execKeyProg_racks (session stream : Nat) (s : State) : (after (execKeyProg session stream s) s).racks = s.racks := by
  simp [execKeyProg]

@[simp] theorem execKSetGo_racks (session stream : Nat) (s : State) : (after (execKSetGo session stream s) s).racks = s.racks := by
  simp [execKSetGo]

@[simp] theorem execKSetStop_racks (session stream : Nat) (s : State) : (after (execKSetStop session stream s) s).racks = s.racks := by
  simp [execKSetStop]

@[simp] theorem execSetEndpointId_racks (binding : Fin 5) (eid : Byte) (s : State) :
    (after (execSetEndpointId binding eid s) s).racks = s.racks := by
  simp [execSetEndpointId]

@[simp] theorem execMctpControl_racks (cmd : Byte) (s : State) : (after (execMctpControl cmd s) s).racks = s.racks := by
  simp [execMctpControl]

@[simp] theorem execPmbusRefresh_racks (s : State) : (after (execPmbusRefresh s) s).racks = s.racks := by
  simp [execPmbusRefresh]

@[simp] theorem execPage_racks (n : Byte) (s : State) : (after (execPage n s) s).racks = s.racks := by
  simp [execPage]

@[simp] theorem execClearFaults_racks (s : State) : (after (execClearFaults s) s).racks = s.racks := by
  simp [execClearFaults]

@[simp] theorem execReadVin_racks (s : State) : (after (execReadVin s) s).racks = s.racks := by
  simp [execReadVin]

@[simp] theorem execReadIin_racks (s : State) : (after (execReadIin s) s).racks = s.racks := by
  simp [execReadIin]

@[simp] theorem execReadPin_racks (s : State) : (after (execReadPin s) s).racks = s.racks := by
  simp [execReadPin]

@[simp] theorem execReadVout_racks (s : State) : (after (execReadVout s) s).racks = s.racks := by
  simp [execReadVout]

@[simp] theorem execReadIout_racks (s : State) : (after (execReadIout s) s).racks = s.racks := by
  simp [execReadIout]

@[simp] theorem execReadPout_racks (s : State) : (after (execReadPout s) s).racks = s.racks := by
  simp [execReadPout]

@[simp] theorem execReadTemperature1_racks (s : State) : (after (execReadTemperature1 s) s).racks = s.racks := by
  simp [execReadTemperature1]

@[simp] theorem execReadTemperature2_racks (s : State) : (after (execReadTemperature2 s) s).racks = s.racks := by
  simp [execReadTemperature2]

@[simp] theorem execReadTemperature3_racks (s : State) : (after (execReadTemperature3 s) s).racks = s.racks := by
  simp [execReadTemperature3]

@[simp] theorem execStatusWord_racks (s : State) : (after (execStatusWord s) s).racks = s.racks := by
  simp [execStatusWord]

@[simp] theorem execStatusInput_racks (s : State) : (after (execStatusInput s) s).racks = s.racks := by
  simp [execStatusInput]

@[simp] theorem execStatusIout_racks (s : State) : (after (execStatusIout s) s).racks = s.racks := by
  simp [execStatusIout]

@[simp] theorem execStatusTemperature_racks (s : State) : (after (execStatusTemperature s) s).racks = s.racks := by
  simp [execStatusTemperature]

@[simp] theorem execPmbusRevision_racks (s : State) : (after (execPmbusRevision s) s).racks = s.racks := by
  simp [execPmbusRevision]

@[simp] theorem execCapability_racks (s : State) : (after (execCapability s) s).racks = s.racks := by
  simp [execCapability]

@[simp] theorem execMfrId_racks (s : State) : (after (execMfrId s) s).racks = s.racks := by
  simp [execMfrId]

@[simp] theorem execMfrModel_racks (s : State) : (after (execMfrModel s) s).racks = s.racks := by
  simp [execMfrModel]

@[simp] theorem execMfrSerial_racks (s : State) : (after (execMfrSerial s) s).racks = s.racks := by
  simp [execMfrSerial]

@[simp] theorem execPmbusWriteRefused_racks (cmd : Byte) (s : State) : (after (execPmbusWriteRefused cmd s) s).racks = s.racks := by
  simp [execPmbusWriteRefused]

end Sys2Proof.Machine
end

section
/-! The operations that write racks keep every gap at one of the nine positions of its rack (R16, R23, R289, R332). -/

namespace Sys2Proof.Machine

open Sys2Proof

/-- Every rack's gap is at one of its nine positions (R16). -/
structure State.GapsHold (s : State) : Prop where
  le : ∀ i : Nat, (s.rack i).gap.toNat ≤ 8

theorem State.GapsHold.of_racks {s t : State} (hs : s.GapsHold) (h : t.racks = s.racks) : t.GapsHold :=
  ⟨fun i => by rw [State.rack, h]; exact hs.le i⟩

theorem State.gapsHold_of_foldl {α : Type} (f : State → α → State) (hf : ∀ x i, x.GapsHold → (f x i).GapsHold) (l : List α) {s : State}
    (hs : s.GapsHold) : (l.foldl f s).GapsHold := List.foldlRecOn l f hs fun x hx i _ => hf x i hx

theorem State.gapsHold_of_each {α : Type} (f : State → α → State) (hf : ∀ x i, x.GapsHold → (f x i).GapsHold) (l : List α) {s : State}
    (hs : s.GapsHold) : (s.each l f).GapsHold := State.gapsHold_of_foldl f hf l hs

theorem State.gapsHold_ite {c : Prop} [Decidable c] {a b : State} (ha : c → a.GapsHold) (hb : ¬c → b.GapsHold) :
    (if c then a else b).GapsHold := by
  split
  · next h => exact ha h
  · next h => exact hb h

/-- A write to a rack that keeps its gap in the rack. -/
theorem State.GapsHold.modRack {s : State} (hs : s.GapsHold) (r : Nat) (f : RackSt → RackSt) (hf : (f (s.rack r)).gap.toNat ≤ 8) :
    (s.modRack r f).GapsHold := by
  refine ⟨fun i => ?_⟩
  rw [State.rack_modRack]
  split
  · exact hf
  · exact hs.le i

/-- A change to every rack listed that keeps gaps in their racks. -/
theorem racks_map_gap (f : RackSt → RackSt) (hf : ∀ x, x.gap.toNat ≤ 8 → (f x).gap.toNat ≤ 8) (t : Tab RackSt) (i : Nat)
    (ht : (t.get {} i).gap.toNat ≤ 8) : (Tab.get {} (t.map fun (e : Nat × RackSt) => (e.1, f e.2)) i).gap.toNat ≤ 8 := by
  induction t with
  | nil => exact ht
  | cons e t ih =>
    obtain ⟨k, v⟩ := e
    simp only [List.map_cons, Tab.get] at ht ⊢
    split
    · next hk => exact hf v (by rwa [if_pos hk] at ht)
    · next hk => exact ih (by rwa [if_neg hk] at ht)

theorem inRack_le (p : Pos) : p.inRack ≤ 8 := by
  unfold Pos.inRack
  omega

/-! ### Shifts -/

theorem State.GapsHold.shiftRack {s : State} (hs : s.GapsHold) (r : Rack) {g : Nat} (hg : g ≤ 8) : (s.shiftRack r g).GapsHold := by
  unfold State.shiftRack
  dsimp only
  split
  · exact hs
  · refine State.GapsHold.of_racks (State.GapsHold.modRack (hs.of_racks (by simp)) r.idx _ ?_) (State.placeLog_racks _ _)
    simp only [BitVec.toNat_ofNat]
    omega

theorem State.GapsHold.relayOver {s : State} (hs : s.GapsHold) (r : Rack) {g : Nat} (hg : g ≤ 8) : (s.relayOver r g).2.GapsHold := by
  unfold State.relayOver
  have hshift := State.GapsHold.shiftRack (s := s.each (s.bridgesIn r) fun s b => s.freeBridge b.1 b.2.n) (hs.of_racks (by simp)) r hg
  exact List.foldlRecOn (motive := fun a : Bool × State => a.2.GapsHold) _ _ hshift fun a ha b _ => ha.of_racks (by simp)

theorem State.GapsHold.setGap {s : State} (hs : s.GapsHold) (r : Rack) {g : Nat} (hg : g ≤ 8) : (s.setGap r g).GapsHold :=
  State.gapsHold_ite (fun _ => hs.shiftRack r hg) fun _ => hs.relayOver r hg

theorem State.GapsHold.shiftFrom {s : State} (hs : s.GapsHold) (p : Nat) : (s.shiftFrom p).GapsHold :=
  (hs.setGap (Pos.ofIdx p).rack (inRack_le (Pos.ofIdx p))).of_racks rfl


theorem State.GapsHold.returnHome {s : State} (hs : s.GapsHold) (h : Nat) : (s.returnHome h).GapsHold := by
  refine State.gapsHold_of_each _ (fun x f hx => ?_) _ hs
  dsimp only
  split
  · next u hu =>
    have hgaps : u.GapsHold := by
      split at hu
      · cases hu
        exact hx
      · split at hu
        · cases hu
          exact hx.shiftFrom _
        · cases hu
    exact hgaps.of_racks (by simp)
  · exact hx

theorem State.GapsHold.plannedMove {s : State} (hs : s.GapsHold) (h p : Nat) : (s.plannedMove h p).GapsHold := by
  have hhome := State.GapsHold.returnHome (s := s.holdNow h 6) (hs.of_racks (by simp)) h
  have hmoved : (if ((s.holdNow h 6).returnHome h).gapFree (Pos.ofIdx p).rack then ((s.holdNow h 6).returnHome h).shiftFrom p
      else (s.holdNow h 6).returnHome h).GapsHold := State.gapsHold_ite (fun _ => hhome.shiftFrom p) fun _ => hhome
  exact hmoved.of_racks (by simp [State.plannedMove])

theorem State.GapsHold.placeHomeless {s t : State} (hs : s.GapsHold) {h n : Nat} (ht : s.placeHomeless h n = some t) : t.GapsHold := by
  unfold State.placeHomeless at ht
  dsimp only at ht
  split at ht
  · cases ht
    exact hs.of_racks (by simp)
  · split at ht
    · cases ht
      exact hs.shiftFrom _
    · split at ht
      · cases ht
        exact hs.of_racks (by simp)
      · cases ht

theorem State.GapsHold.replaceFars {s : State} (hs : s.GapsHold) (h : Nat) (r : Recipe) : (s.replaceFars h r).GapsHold := by
  unfold State.replaceFars
  dsimp only
  refine State.gapsHold_of_each _ (fun x n hx => ?_) _ (hs.of_racks (by simp))
  split
  · exact hx
  · split
    · exact hx.shiftFrom _
    · split
      · exact hx.of_racks (by simp)
      · exact hx

theorem State.GapsHold.condShifts {s : State} (hs : s.GapsHold) (h : Nat) (r : Recipe) : (s.condShifts h r).GapsHold := by
  refine State.gapsHold_of_each _ (fun x k hx => ?_) _ hs
  dsimp only
  split
  · exact State.gapsHold_ite (fun _ => hx.shiftFrom _) fun _ => hx
  · exact hx

theorem State.GapsHold.loadImage {s : State} (hs : s.GapsHold) (ref : CmdRef) (h : Nat) (r : Recipe) : (s.loadImage ref h r).GapsHold := by
  unfold State.loadImage
  extract_lets s0 s1 fill s2 s3 s4 s5 s6 s7
  have hcleared : s0.GapsHold := hs.of_racks (by simp [s0])
  have hmoved : s1.GapsHold := (hcleared.replaceFars h r).condShifts h r
  have hprogram : s2.racks = s1.racks := by simp [s2]
  have hfill : s3.racks = s2.racks := by simp [s3]
  have hstart : s4.racks = s3.racks := by simp [s4]
  have hled : s6.racks = s4.racks := by simp [s6, s5]
  have hloading : s7.racks = s6.racks := by simp [s7]
  exact hmoved.of_racks (by simp [hloading, hled, hstart, hfill, hprogram])

theorem nextTarget_le {g : Nat} (hg : g ≤ 8) (east : Bool) : (nextTarget g east).1 ≤ 8 := by
  cases east <;> simp [nextTarget] <;> split <;> omega

theorem State.GapsHold.rotate {s : State} (hs : s.GapsHold) (r : Rack) : (s.rotate r).GapsHold := by
  unfold State.rotate
  extract_lets x g walk
  have hwalk : walk.1 ≤ 8 := nextTarget_le (hs.le _) _
  split
  next t east htarget =>
  have hle : t ≤ 8 := by
    split at htarget
    · split at htarget
      · cases htarget
        exact inRack_le _
      · rwa [htarget] at hwalk
    · rwa [htarget] at hwalk
  extract_lets p s1 s2
  refine State.gapsHold_ite (fun _ => hs) fun _ => ?_
  have hgaps : s2.GapsHold := (hs.setGap r hle).of_racks (by simp [s2, s1])
  exact hgaps.modRack _ _ (hgaps.le r.idx)

theorem State.GapsHold.swapOff {s : State} (hs : s.GapsHold) (p : Nat) : (s.swapOff p).GapsHold := by
  unfold State.swapOff
  split
  · exact State.GapsHold.shiftFrom (hs.of_racks (by simp)) p
  · exact hs

theorem State.GapsHold.swapBack {s : State} (hs : s.GapsHold) (r : Rack) (g : Nat) : (s.swapBack r g).GapsHold := by
  unfold State.swapBack
  refine State.gapsHold_ite (fun _ => hs) fun _ => ?_
  exact (hs.setGap r (inRack_le (Pos.ofIdx g))).of_racks (by simp)

/-! ### Counts of tests -/

theorem State.GapsHold.voidTest {s : State} (hs : s.GapsHold) (r : Rack) : (s.voidTest r).GapsHold := hs.modRack _ _ (hs.le _)

theorem State.GapsHold.cleanTest {s : State} (hs : s.GapsHold) (p : Nat) : (s.cleanTest p).GapsHold := by
  have htested : ((((s.addHist p (s.histRec p 0x41 0 0)).setClean p)).testIsland p).GapsHold := hs.of_racks (by simp)
  exact htested.modRack (Pos.ofIdx p).rack.idx (fun x => { x with pass := satInc x.pass }) (htested.le _)

/-! ### Resets -/

/-- Racks without a move under way or a position to be tested next (R334). -/
def racksAtRest (t : Tab RackSt) : Tab RackSt := t.map fun (e : Nat × RackSt) => (e.1, { e.2 with receiving := none, nextTest := none })

/-- Racks as a cold reset leaves them: unshifted (R332). -/
def racksUnshifted (t : Tab RackSt) : Tab RackSt := t.map fun (e : Nat × RackSt) => (e.1, { e.2 with gap := 8, dirEast := false, pass := 0, void := 0 })

@[simp] theorem State.dropCompute_racks (s : State) : s.dropCompute.racks = racksAtRest s.racks := by
  simp [State.dropCompute, racksAtRest]

theorem State.warmReset_racks (s : State) (why : Nat) : (s.warmReset why).racks = racksAtRest s.racks := by
  simp [State.warmReset]

theorem State.coldReset_racks (s : State) (why : Nat) : (s.coldReset why).racks = racksUnshifted (racksAtRest s.racks) := by
  simp [State.coldReset, racksUnshifted]

theorem State.enterDown_racks (s : State) (st : DevState) : (s.enterDown st).racks = racksAtRest s.racks := by
  simp [State.enterDown]

theorem State.GapsHold.of_atRest {s t : State} (hs : s.GapsHold) (h : t.racks = racksAtRest s.racks) : t.GapsHold := by
  refine ⟨fun i => ?_⟩
  rw [State.rack, h]
  exact racks_map_gap (fun x => { x with receiving := none, nextTest := none }) (fun _ hx => hx) s.racks i (hs.le i)

theorem State.GapsHold.dropCompute {s : State} (hs : s.GapsHold) : s.dropCompute.GapsHold := hs.of_atRest s.dropCompute_racks

theorem State.GapsHold.coldReset {s : State} (hs : s.GapsHold) (why : Nat) : (s.coldReset why).GapsHold := by
  refine ⟨fun i => ?_⟩
  rw [State.rack, s.coldReset_racks why]
  exact racks_map_gap (fun x => { x with gap := 8, dirEast := false, pass := 0, void := 0 }) (fun _ _ => Nat.le_refl 8) _ i
    (racks_map_gap (fun x => { x with receiving := none, nextTest := none }) (fun _ hx => hx) s.racks i (hs.le i))

theorem State.GapsHold.performReset {s : State} (hs : s.GapsHold) (dom idx why : Nat) : (s.performReset dom idx why).GapsHold := by
  unfold State.performReset
  split
  case h_8 => exact hs.of_atRest (s.warmReset_racks why)
  case h_9 => exact hs.coldReset why
  case h_10 => exact hs.of_atRest (s.enterDown_racks _)
  case h_11 => exact hs.of_atRest (s.enterDown_racks _)
  all_goals exact hs.of_racks (by simp)

theorem State.GapsHold.askReset {s : State} (hs : s.GapsHold) (dom idx why : Nat) : (s.askReset dom idx why).GapsHold := by
  unfold State.askReset
  refine State.gapsHold_ite (fun _ => hs) fun _ => State.gapsHold_ite (fun _ => ?queued) fun _ => State.gapsHold_ite (fun _ => ?ash) fun _ => ?now
  case queued => exact hs.of_racks (by simp)
  case ash => exact hs.of_racks (by simp)
  case now => exact hs.performReset dom idx why

theorem State.GapsHold.deviceReset {s : State} (hs : s.GapsHold) (dom why : Nat) (suspects : List (Nat × Nat)) :
    (s.deviceReset dom why suspects).GapsHold := by
  unfold State.deviceReset
  refine State.gapsHold_ite (fun _ => hs) fun _ => State.gapsHold_ite (fun _ => hs.askReset dom 0 why) fun _ => ?_
  exact hs.of_racks (by simp)

theorem State.GapsHold.hang {s : State} (hs : s.GapsHold) (dom idx why : Nat) (hobs : List Nat) : (s.hang dom idx why hobs).GapsHold :=
  State.gapsHold_ite (fun _ => hs) fun _ => State.GapsHold.askReset (hs.of_racks (by simp)) dom idx why

theorem State.GapsHold.commandedReset {s : State} (hs : s.GapsHold) (dom : Nat) : (s.commandedReset dom).GapsHold :=
  State.gapsHold_ite (fun _ => hs.of_racks (by simp)) fun _ => State.GapsHold.performReset (hs.of_racks (by simp)) dom 0 13

/-- A privileged action whose act keeps gaps in their racks. -/
theorem State.GapsHold.priv {s : State} (hs : s.GapsHold) (who : Who) (roles : List Role) (code hob : Nat) (args : List Nat) (refuse : Nat)
    (act : State → State) (hact : ∀ x, x.GapsHold → (act x).GapsHold) : (s.priv who roles code hob args refuse act).GapsHold := by
  unfold State.priv
  refine State.gapsHold_ite (fun _ => hs) fun _ => State.GapsHold.of_racks (State.gapsHold_ite (fun _ => hact _ ?_) fun _ => ?_) (t := State.emit _ _) rfl
  all_goals exact hs.of_racks (by simp)

theorem State.GapsHold.rstAction {s : State} (hs : s.GapsHold) (who : Who) (action arg : Nat) : (s.rstAction who action arg).GapsHold := by
  unfold State.rstAction State.rstCmd
  split
  case h_1 => exact hs.priv _ _ _ _ _ _ _ fun x hx => hx.commandedReset 7
  case h_2 => exact hs.priv _ _ _ _ _ _ _ fun x hx => hx.commandedReset 8
  case h_3 => exact hs.priv _ _ _ _ _ _ _ fun x hx => State.GapsHold.commandedReset (hx.of_racks (by simp)) 8
  all_goals exact hs.priv _ _ _ _ _ _ _ fun x hx => hx.of_racks (by simp)

/-! ### Power -/

theorem State.gapsHold_powerOff (s : State) : s.powerOff.GapsHold := by
  refine ⟨fun i => ?_⟩
  have hracks : s.powerOff.racks = [] := by simp [State.powerOff]
  rw [State.rack, hracks, Tab.get]
  decide

theorem State.GapsHold.placeGap {s : State} (hs : s.GapsHold) (r : Rack) : (s.placeGap r).GapsHold := by
  unfold State.placeGap
  extract_lets g old s1
  have hg : g ≤ 8 := by
    cases hfind : (List.range 9).find? fun i => !(s.pos (r.pos i).idx).state.backs with
    | none => simp [g, hfind]
    | some i =>
      have hi := List.mem_range.mp (List.mem_of_find?_eq_some hfind)
      simp only [g, hfind, Option.getD_some]
      omega
  refine State.GapsHold.of_racks (s := s1) ?_ (by simp)
  refine State.gapsHold_ite (fun _ => hs) fun _ => State.GapsHold.of_racks (hs.modRack r.idx _ ?_) (State.placeLog_racks _ _)
  simp only [BitVec.toNat_ofNat]
  omega

end Sys2Proof.Machine
end

section
/-! Every command keeps every gap in its rack, and the gap places the logical cells of the rack around it (R16). -/

namespace Sys2Proof.Machine

open Sys2Proof

theorem gapsHold_after_ite {c : Prop} [Decidable c] {a b : Res} {s : State} (ha : (after a s).GapsHold) (hb : (after b s).GapsHold) :
    (after (if c then a else b) s).GapsHold := by
  split
  · exact ha
  · exact hb

theorem gapsHold_done {s t : State} (ht : t.GapsHold) : (after (done t) s).GapsHold := ht

/-- A ring command whose body keeps gaps in their racks. -/
theorem State.GapsHold.command {s : State} (hs : s.GapsHold) (ref : CmdRef) (hob op sub : Nat) (args : List Byte → Bool)
    (body : State → State) (hbody : ∀ x, x.GapsHold → (body x).GapsHold) : (s.command ref hob op sub args body).GapsHold := by
  unfold State.command
  dsimp only
  split
  · exact hs
  · refine State.gapsHold_ite (fun _ => hs) fun _ => State.gapsHold_ite (fun _ => ?_) fun _ => State.gapsHold_ite (fun _ => ?_) fun _ => hbody _ ?_
    all_goals exact hs.of_racks (by simp)

/-- An action of HOB_CONFIG that keeps gaps in their racks. -/
theorem State.GapsHold.ringPriv {s : State} (hs : s.GapsHold) (ref : CmdRef) (h sub : Nat) (args : List Nat) (status : Nat)
    (act : State → State) (info : Nat × Nat) (hact : ∀ x, x.GapsHold → (act x).GapsHold) :
    (s.ringPriv ref h sub args status act info).GapsHold := by
  unfold State.ringPriv
  extract_lets st result s1
  have hlogged : s1.GapsHold := hs.of_racks (by simp [s1])
  have hacted : (if st = stOk then act s1 else s1).GapsHold := State.gapsHold_ite (fun _ => hact _ hlogged) fun _ => hlogged
  exact hacted.of_racks (by simp)

section

variable {s : State}

/-! ### Commands that shift racks -/

theorem execLoadRecipe_gapsHold (hs : s.GapsHold) (ref : CmdRef) (hob : HobId) (image : Image) :
    (after (execLoadRecipe ref hob image s) s).GapsHold := by
  unfold execLoadRecipe
  rw [after_done]
  refine hs.command _ _ _ _ _ _ fun x hx => ?_
  refine State.gapsHold_ite (fun _ => hx.of_racks (by simp)) fun _ => State.gapsHold_ite (fun _ => hx.of_racks (by simp)) fun _ => ?_
  exact State.gapsHold_ite (fun _ => hx.of_racks (by simp)) fun _ => hx.loadImage ref _ _

theorem execDecantRackLocal_gapsHold (hs : s.GapsHold) (cell : Pos) (readable imageOk : Bool) :
    (after (execDecantRackLocal cell readable imageOk s) s).GapsHold := by
  unfold execDecantRackLocal
  dsimp only
  split
  · exact hs
  · next h _ =>
    refine gapsHold_after_ite hs ?_
    have hshift : (((s.holdNow h 5).setMoving cell.rack (Pos.ofIdx (s.gapPos cell.rack)).inRack cell.inRack true).shiftFrom cell.idx).GapsHold :=
      State.GapsHold.shiftFrom (hs.of_racks (by simp)) _
    have hmoved := hshift.modRack cell.rack.idx (fun x => { x with receiving := some (s.gapPos cell.rack) }) (hshift.le _)
    exact State.gapsHold_ite (fun _ => hmoved) fun _ => hmoved.of_racks (by simp)

theorem execStationReplace_gapsHold (hs : s.GapsHold) (hob : HobId) (imageOk : Bool) :
    (after (execStationReplace hob imageOk s) s).GapsHold := by
  unfold execStationReplace
  extract_lets h ns s1 s2 s3
  have hplaced : s1.GapsHold := by
    refine State.gapsHold_of_each _ (fun x n hx => ?_) _ hs
    dsimp only
    split
    · next t ht =>
      have hgaps : t.GapsHold := State.GapsHold.placeHomeless (hx.of_racks (by simp)) ht
      exact State.gapsHold_ite (fun _ => hgaps.of_racks (by simp)) fun _ => hgaps.of_racks (by simp)
    · exact hx
  refine gapsHold_after_ite hs (gapsHold_after_ite hs (gapsHold_after_ite ?_ (gapsHold_after_ite hplaced ?_)))
  · exact State.gapsHold_ite (fun _ => hplaced.of_racks (by simp)) fun _ => hplaced
  · exact hplaced.of_racks (by simp [s3, s2])

theorem execConditionEval_gapsHold (hs : s.GapsHold) (cell : Pos) : (after (execConditionEval cell s) s).GapsHold := by
  unfold execConditionEval
  extract_lets p r s1
  have hstamped : s1.GapsHold := hs.of_racks (by simp [s1])
  refine gapsHold_after_ite hs ?_
  split
  · exact hstamped
  · refine gapsHold_after_ite hstamped (gapsHold_after_ite (hstamped.plannedMove _ _) (gapsHold_after_ite hstamped ?_))
    exact hstamped.of_racks (by simp)

theorem execRotationStep_gapsHold (hs : s.GapsHold) (hob : Option HobId) : (after (execRotationStep hob s) s).GapsHold := by
  unfold execRotationStep
  refine gapsHold_after_ite (gapsHold_done hs) ?_
  split
  · next hn =>
    extract_lets h z s1 due order s2
    refine gapsHold_after_ite (gapsHold_done hs) (gapsHold_done ?_)
    have hhome : s1.GapsHold := State.GapsHold.returnHome (hs.of_racks (by simp)) h
    have hrotated : s2.GapsHold := State.gapsHold_of_each _ (fun x r hx => State.gapsHold_ite (fun _ => hx.rotate r) fun _ => hx) _ hhome
    exact hrotated.of_racks (by simp)
  · exact gapsHold_done (State.gapsHold_of_each _ (fun x r hx => hx.rotate r) _ hs)

theorem execScanTestDone_gapsHold (hs : s.GapsHold) (cell : Pos) (pass inWindow : Bool) (unit : BitVec 12) :
    (after (execScanTestDone cell pass inWindow unit s) s).GapsHold := by
  unfold execScanTestDone
  extract_lets p r q x cc common valid arbiter g work s1 s2 back s3 s4
  have hcounted : s1.GapsHold := State.gapsHold_ite (fun _ => hs.of_racks (by simp)) fun _ => hs
  have hoff : s2.GapsHold := State.gapsHold_ite (fun _ => hcounted.swapOff p) fun _ => hcounted
  have hback : ∀ u : State, u.GapsHold → (back u).GapsHold := fun u hu => State.GapsHold.swapBack (hu.of_racks (by simp)) r g
  have htested : s3.GapsHold := by
    refine State.gapsHold_ite (fun _ => hback _ (hoff.voidTest r)) fun _ => State.gapsHold_ite (fun _ => hback _ (hoff.cleanTest p)) fun _ => ?_
    clear_value arbiter s2
    split
    · exact hoff.of_racks (by simp)
    · exact hoff.of_racks (by simp)
  have hheld : s4.GapsHold := by
    dsimp only [s4]
    split
    · exact State.gapsHold_ite (fun _ => htested.of_racks (by simp)) fun _ => htested
    · exact htested
  clear_value s4
  refine gapsHold_after_ite (gapsHold_done hs) (gapsHold_after_ite (gapsHold_done ?_) (gapsHold_done ?_))
  · exact hs.of_racks (by simp)
  · exact hheld.of_racks (by simp)

/-! ### Commands that change other fields of a rack -/

theorem execFunctionalCheckResult_gapsHold (hs : s.GapsHold) (cell : Pos) (pass : Bool) :
    (after (execFunctionalCheckResult cell pass s) s).GapsHold := by
  unfold execFunctionalCheckResult
  extract_lets p r s1 s2
  refine gapsHold_after_ite hs ?_
  have hmoved := hs.modRack r.idx (fun x => { x with receiving := none }) (hs.le _)
  have hended : s2.GapsHold := hmoved.of_racks (by simp [s2, s1])
  rw [after_done]
  split
  · exact hended.of_racks (by simp)
  · exact hended

theorem execDecantFar_gapsHold (hs : s.GapsHold) (far : FarDecant) : (after (execDecantFar far s) s).GapsHold := by
  unfold execDecantFar
  extract_lets p r n
  split
  · exact gapsHold_done hs
  · next h _ =>
    extract_lets home s1 s2
    refine gapsHold_after_ite (gapsHold_done hs) (gapsHold_done ?_)
    have hheld : s2.GapsHold := hs.of_racks (by simp [s2, s1])
    split
    · next c _ =>
      extract_lets s3 s4
      have hplaced : (s3.modCell c.pos fun y => { y with moving := true }).GapsHold := hheld.of_racks (by simp [s3])
      have hmoved : s4.GapsHold := hplaced.modRack _ _ (hplaced.le _)
      exact State.gapsHold_ite (fun _ => hmoved) fun _ => hmoved.of_racks (by simp)
    · exact hheld.of_racks (by simp)

theorem execParoleTest_gapsHold (hs : s.GapsHold) (cell : Pos) (result : TestEnd) (inWindow : Bool) :
    (after (execParoleTest cell result inWindow s) s).GapsHold := by
  unfold execParoleTest
  extract_lets p x valid s1
  have hclean : s1.GapsHold := hs.cleanTest p
  clear_value s1
  refine gapsHold_after_ite (gapsHold_done hs) (gapsHold_after_ite (gapsHold_done (hs.voidTest _)) (gapsHold_after_ite (gapsHold_done ?failed) ?_))
  case failed => exact hs.of_racks (by simp)
  exact gapsHold_after_ite (gapsHold_done (hclean.of_racks (by simp))) (gapsHold_done (hclean.of_racks (by simp)))

theorem execUntestedAgeAlert_gapsHold (hs : s.GapsHold) (r : Rack) : (after (execUntestedAgeAlert r s) s).GapsHold := by
  unfold execUntestedAgeAlert
  extract_lets above x s1
  have halerted : s1.GapsHold := hs.modRack _ _ (hs.le _)
  clear_value s1
  exact gapsHold_after_ite (gapsHold_done hs) (gapsHold_done (State.gapsHold_ite (fun _ => halerted.of_racks (by simp)) fun _ => halerted))

theorem execHobConfigTest_gapsHold (hs : s.GapsHold) (ref : CmdRef) (hob : HobId) (minutes : Nat) (failed : List (Pos × BitVec 12)) :
    (after (execHobConfigTest ref hob minutes failed s) s).GapsHold := by
  unfold execHobConfigTest
  refine gapsHold_done (hs.command _ _ _ _ _ _ fun x hx => hx.ringPriv _ _ _ _ _ _ _ fun y hy => ?_)
  refine State.gapsHold_of_each _ (fun z n hz => hz.of_racks (by simp)) _ ?_
  refine State.gapsHold_of_each _ (fun z n hz => State.GapsHold.of_racks (hz.cleanTest (z.posOf hob.val n)) (by simp)) _ ?_
  exact State.gapsHold_of_each _ (fun z n hz => hz.voidTest _) _ (hy.of_racks (by simp))

theorem execTasterVerdict_gapsHold (hs : s.GapsHold) (cell : Pos) (mismatch : Bool) :
    (after (execTasterVerdict cell mismatch s) s).GapsHold := by
  unfold execTasterVerdict
  extract_lets p c t key s1
  have hended : s1.GapsHold := hs.of_racks (by simp [s1])
  split
  · refine gapsHold_after_ite (gapsHold_done (hs.of_racks (by simp))) (gapsHold_after_ite ?pass ?mismatch)
    case pass =>
      split
      · exact gapsHold_done hended
      · extract_lets s2 s3
        have hsettled : s3.GapsHold := hended.of_racks (by simp [s3, s2])
        exact gapsHold_done (hsettled.modRack _ _ (hsettled.le _))
    case mismatch =>
      split
      · exact gapsHold_done (hs.of_racks (by simp))
      · exact gapsHold_done (hs.of_racks (by simp))
  · exact gapsHold_done hs

/-! ### Resets and power -/

theorem execQuarterHoldUnconfirmed_gapsHold (hs : s.GapsHold) (q : Quarter) : (after (execQuarterHoldUnconfirmed q s) s).GapsHold := by
  unfold execQuarterHoldUnconfirmed
  refine gapsHold_after_ite (gapsHold_done hs) (gapsHold_after_ite (gapsHold_done ?_) (gapsHold_done ?_))
  · exact State.GapsHold.askReset (hs.of_racks (by simp)) 5 q.val 5
  · exact hs.of_racks (by simp)

theorem execHobStopTimeout_gapsHold (hs : s.GapsHold) (hob : HobId) : (after (execHobStopTimeout hob s) s).GapsHold := by
  unfold execHobStopTimeout
  refine gapsHold_after_ite (gapsHold_done hs) (gapsHold_after_ite (gapsHold_done ?_) (gapsHold_done ?_))
  · exact State.GapsHold.askReset (hs.of_racks (by simp)) 6 hob.val 9
  · exact hs.of_racks (by simp)

theorem execCellHeartbeatMiss_gapsHold (hs : s.GapsHold) (cell : Pos) : (after (execCellHeartbeatMiss cell s) s).GapsHold := by
  unfold execCellHeartbeatMiss
  dsimp only
  split
  · exact hs
  · exact gapsHold_after_ite (gapsHold_done hs) (gapsHold_done (hs.hang 0 _ 1 _))

theorem execBroadcastUnacked_gapsHold (hs : s.GapsHold) (id target : Nat) : (after (execBroadcastUnacked id target s) s).GapsHold := by
  unfold execBroadcastUnacked
  split
  · exact hs
  · exact gapsHold_after_ite (gapsHold_done hs) (gapsHold_done (hs.hang 0 _ 3 _))

theorem execResetTimeout_gapsHold (hs : s.GapsHold) (domain : Fin 10) (index : Nat) :
    (after (execResetTimeout domain index s) s).GapsHold := by
  unfold execResetTimeout
  extract_lets d s1 resets s2 again
  split
  · exact gapsHold_done hs
  · refine gapsHold_after_ite (gapsHold_done hs) (gapsHold_done ?_)
    have hfinished : s2.GapsHold := hs.of_racks (by simp [s2, s1])
    clear_value d s2
    split
    case h_3 | h_6 | h_7 => exact hfinished.deviceReset 7 12 _
    case h_8 => exact State.gapsHold_ite (fun _ => hfinished.of_racks (by simp)) fun _ => hfinished.deviceReset 8 12 _
    all_goals exact hfinished.of_racks (by simp)

theorem execHearthResetDone_gapsHold (hs : s.GapsHold) : (after (execHearthResetDone s) s).GapsHold := by
  unfold execHearthResetDone
  split
  · exact gapsHold_done hs
  · extract_lets away s1 resets pins s2 s3 s4
    have hboot : s1.GapsHold := hs.of_racks (by simp [s1])
    have hback : s2.GapsHold := hboot.of_racks (by simp [s2])
    have hhobs : s3.GapsHold := by
      refine State.gapsHold_of_each _ (fun x h hx => ?_) _ hback
      have ht : ((if (x.hob h).hold.frozen then x else x.avlStop 5 h).endHold8 h).GapsHold := hx.of_racks (by simp)
      dsimp only
      split
      · exact ht.of_racks (by simp)
      · exact ht
    have hcold : s4.GapsHold := State.gapsHold_ite (fun _ => hhobs.coldReset 11) fun _ => hhobs
    clear_value s4
    refine gapsHold_after_ite (gapsHold_done hs) (gapsHold_after_ite (gapsHold_done (hboot.of_racks (by simp))) (gapsHold_done ?_))
    refine State.gapsHold_of_foldl _ (fun x r hx => ?_) _ hcold
    refine State.gapsHold_ite (fun _ => hx.deviceReset _ _ _) fun _ => State.gapsHold_ite (fun _ => ?_) fun _ => hx.askReset _ _ _
    exact hx.of_racks (by simp)

theorem execAshCaptureDone_gapsHold (hs : s.GapsHold) (ms : Nat) : (after (execAshCaptureDone ms s) s).GapsHold := by
  unfold execAshCaptureDone
  split
  · exact gapsHold_done hs
  · refine gapsHold_after_ite (gapsHold_done hs) (gapsHold_done ?_)
    exact State.gapsHold_of_foldl _ (fun x w hx => hx.performReset _ _ _) _ (hs.of_racks (by simp))

theorem execClocksUp_gapsHold (hs : s.GapsHold) (pllLocked : Bool) : (after (execClocksUp pllLocked s) s).GapsHold := by
  unfold execClocksUp
  refine gapsHold_after_ite (gapsHold_done hs) (gapsHold_after_ite (gapsHold_done (State.gapsHold_ite (fun _ => ?ash) fun _ => ?again)) (gapsHold_done ?up))
  case ash => exact hs.of_racks (by simp)
  case again => exact State.GapsHold.deviceReset (hs.of_racks (by simp)) 8 0 []
  case up => exact hs.of_racks (by simp)

theorem execCellsTested_gapsHold (hs : s.GapsHold) (fuse : FuseRead) (failed : List (Pos × BitVec 12)) (wires : List (Pos × Fin 23 × List Nat)) :
    (after (execCellsTested fuse failed wires s) s).GapsHold := by
  unfold execCellsTested
  extract_lets warm s1 links bad map boot fw s2 s3
  have hreconciled : s3.GapsHold := hs.of_racks (by simp [s3, s2, s1])
  have hplaced := State.gapsHold_of_each State.placeGap (fun x r hx => hx.placeGap r) allRacks hreconciled
  exact gapsHold_after_ite (gapsHold_done hs) (gapsHold_done (hplaced.of_racks (by simp)))

theorem execThermalTrip_gapsHold (hs : s.GapsHold) (r : Rack) : (after (execThermalTrip r s) s).GapsHold := by
  unfold execThermalTrip
  extract_lets s1 damper pins resets s2 s3
  have hlost : s1.GapsHold := State.GapsHold.dropCompute (hs.of_racks (by simp))
  have hdown : s3.GapsHold := hlost.of_racks (by simp [s3, s2])
  exact gapsHold_after_ite (gapsHold_done hs) (gapsHold_done (State.gapsHold_ite (fun _ => hdown.of_racks (by simp)) fun _ => hdown))

theorem execRegisterWrite_gapsHold (hs : s.GapsHold) (who : Who) (w : RegWrite) : (after (execRegisterWrite who w s) s).GapsHold := by
  unfold execRegisterWrite
  rw [after_done]
  split
  case h_15 => exact hs.rstAction who _ _
  all_goals exact hs.of_racks (by simp)

/-- Every command keeps the gaps in their racks. -/
theorem exec_gapsHold (hs : s.GapsHold) (c : Instr) : (after (exec c s) s).GapsHold := by
  cases c
  case loadRecipe ref hob image => exact execLoadRecipe_gapsHold hs ref hob image
  case decantRackLocal cell readable imageOk => exact execDecantRackLocal_gapsHold hs cell readable imageOk
  case functionalCheckResult cell pass => exact execFunctionalCheckResult_gapsHold hs cell pass
  case decantFar far => exact execDecantFar_gapsHold hs far
  case stationReplace hob imageOk => exact execStationReplace_gapsHold hs hob imageOk
  case conditionEval cell => exact execConditionEval_gapsHold hs cell
  case paroleTest cell result inWindow => exact execParoleTest_gapsHold hs cell result inWindow
  case rotationStep hob => exact execRotationStep_gapsHold hs hob
  case scanTestDone cell pass inWindow unit => exact execScanTestDone_gapsHold hs cell pass inWindow unit
  case untestedAgeAlert r => exact execUntestedAgeAlert_gapsHold hs r
  case hobConfigTest ref hob minutes failed => exact execHobConfigTest_gapsHold hs ref hob minutes failed
  case tasterVerdict cell mismatch => exact execTasterVerdict_gapsHold hs cell mismatch
  case cellHeartbeatMiss cell => exact execCellHeartbeatMiss_gapsHold hs cell
  case cellRequestTimeout => exact gapsHold_after_ite (gapsHold_done (hs.hang _ _ _ _)) (gapsHold_done hs)
  case broadcastUnacked id target => exact execBroadcastUnacked_gapsHold hs id target
  case quarterHoldUnconfirmed q => exact execQuarterHoldUnconfirmed_gapsHold hs q
  case stackCtrlHang | lanperEngineHang | hostPortHang => exact gapsHold_after_ite (gapsHold_done hs) (gapsHold_done (hs.hang _ _ _ _))
  case hobStopTimeout hob => exact execHobStopTimeout_gapsHold hs hob
  case rimTokenLoss | warmReset | coldReset => exact gapsHold_done (hs.deviceReset _ _ _)
  case cellReset => exact gapsHold_after_ite (gapsHold_done (hs.askReset _ _ _)) (gapsHold_done hs)
  case stackCtrlReset | rackReset | quarterReset | hobReset | lnpPortReset | hostPortReset => exact gapsHold_after_ite (gapsHold_done hs) (gapsHold_done (hs.askReset _ _ _))
  case resetTimeout domain index => exact execResetTimeout_gapsHold hs domain index
  case hearthResetDone => exact execHearthResetDone_gapsHold hs
  case ashCaptureDone ms => exact execAshCaptureDone_gapsHold hs ms
  case rstCmdWarm | rstCmdCold | rstCmdRestore | rstCmdAsh | rstCmdLockAsh | rstCmdReleaseAsh => exact gapsHold_done (hs.rstAction _ _ _)
  case powerGoodDeassert => exact gapsHold_after_ite (gapsHold_done s.gapsHold_powerOff) (gapsHold_done hs)
  case vinFault mv => exact gapsHold_after_ite (gapsHold_done (State.gapsHold_powerOff _)) (gapsHold_done hs)
  case clocksUp pllLocked => exact execClocksUp_gapsHold hs pllLocked
  case cellsTested fuse failed wires => exact execCellsTested_gapsHold hs fuse failed wires
  case thermalTrip r => exact execThermalTrip_gapsHold hs r
  case tripRestart => exact gapsHold_after_ite (gapsHold_done hs) (gapsHold_done (hs.deviceReset _ _ _))
  case registerWrite who w => exact execRegisterWrite_gapsHold hs who w
  all_goals exact hs.of_racks (by simp [exec])

end


theorem step_gapsHold {s t : State} (hs : s.GapsHold) (h : step s = .next t) : t.GapsHold := by
  unfold step at h
  split at h
  · cases h
    exact hs.of_racks s.elapse_racks
  · next c rest _ =>
    have hcommand := exec_gapsHold (s := { s with pending := rest }) ⟨hs.le⟩ c
    rwa [h] at hcommand

/-! ### Where logical cells stand (R16) -/

/-- The rack of logical cell 8k + i of a row is rack k of the row. -/
theorem rack_of_logical (r : Rack) (i : Fin 8) :
    ({ row := Fin.ofNat 64 r.row.val, k := Fin.ofNat 12 ((8 * r.k.val + i.val) / 8) } : Rack) = r := by
  have hk : (8 * r.k.val + i.val) / 8 = r.k.val := by omega
  rw [hk]
  simp [Fin.ofNat_eq_cast]

theorem colOf_logical (k i g : Nat) (hi : i < 8) : colOf (8 * k + i) g = 9 * k + i + (if i < g then 0 else 1) := by
  have hk : (8 * k + i) / 8 = k := by omega
  have hmod : (8 * k + i) % 8 = i := by omega
  rw [colOf, hk, hmod]

/-- Logical cell 8k + i stands at its column around the gap of its rack, in its row. -/
theorem State.homeOf_logical (s : State) (r : Rack) (i : Fin 8) :
    (s.homeOf (8 * r.k.val + i.val) r.row.val).py = r.row ∧
    (s.homeOf (8 * r.k.val + i.val) r.row.val).px.val = 9 * r.k.val + i.val + (if i.val < (s.rack r.idx).gap.toNat then 0 else 1) := by
  unfold State.homeOf
  rw [rack_of_logical]
  dsimp only
  rw [colOf_logical _ _ _ i.isLt]
  refine ⟨by simp [Fin.ofNat_eq_cast], Nat.mod_eq_of_lt ?_⟩
  have hk := r.k.isLt
  split <;> omega

theorem State.gapPos_eq (s : State) (r : Rack) (h : (s.rack r.idx).gap.toNat ≤ 8) :
    s.gapPos r = r.row.val * 108 + 9 * r.k.val + (s.rack r.idx).gap.toNat := by
  have hk := r.k.isLt
  have hcol : (9 * r.k.val + (s.rack r.idx).gap.toNat) % 108 = 9 * r.k.val + (s.rack r.idx).gap.toNat := Nat.mod_eq_of_lt (by omega)
  rw [State.gapPos, Pos.idx, Rack.pos, Fin.val_ofNat, hcol, Nat.add_assoc]

/-- Settles O57: every command keeps the gaps in their racks, by the lemmas above on the operations that move a gap, while every
other operation leaves the racks or their gaps as they were. -/
theorem racksHoldTheirGaps : Obligations.RacksHoldTheirGaps := by
  unfold Obligations.RacksHoldTheirGaps
  refine ⟨?reset, ?step, ?home, fun s r h => s.gapPos_eq r h⟩
  case reset => exact fun _ => rfl
  case step => exact fun s t hs h => (step_gapsHold ⟨hs⟩ h).le
  case home =>
    intro s r i
    obtain ⟨hrow, hcol⟩ := s.homeOf_logical r i
    refine ⟨hrow, fun hi => ?_, fun hi => ?_⟩
    · rw [hcol, if_pos hi, Nat.add_zero]
    · rw [hcol, if_neg (Nat.not_lt.mpr hi)]

end Sys2Proof.Machine
end

section
/-! Each QUERY answers from the registers of the state its entry was started on (R231 to R234, R371). -/

namespace Sys2Proof.Machine

open Sys2Proof

/-! ### Lengths of the log's records -/

theorem length_leBytes (n v : Nat) : (leBytes n v).length = n := by
  induction n generalizing v with
  | zero => rfl
  | succ n ih => rw [leBytes, List.length_cons, ih]

theorem length_bytesAt (bs : List Byte) (off n : Nat) : (bytesAt bs off n).length = n := by
  simp [bytesAt]

theorem length_withCrc (bs : List Byte) (off : Nat) (h : off + 4 ≤ bs.length) : (withCrc bs off).length = bs.length := by
  simp only [withCrc, List.length_append, List.length_take, List.length_drop, length_leBytes, zeroBytes, List.length_replicate]
  omega

/-- A record of the log is 256 B (R368). -/
theorem LogRec.length_bytes (r : LogRec) (prev : Nat) : (r.bytes prev).length = 256 := by
  unfold LogRec.bytes
  rw [length_withCrc]
  all_goals simp [length_leBytes, length_bytesAt, zeroBytes]

theorem length_stubOf (bs : List Byte) (h : bs.length = 256) : (stubOf bs).length = 256 := by
  unfold stubOf
  rw [length_withCrc]
  all_goals simp [length_leBytes, length_bytesAt, zeroBytes, h]

theorem logBytes_length_bytes (l : List LogRec) : ∀ x ∈ logBytes l, x.2.length = 256 := by
  induction l with
  | nil => simp [logBytes]
  | cons r rest ih =>
    simp only [logBytes, List.mem_cons, forall_eq_or_imp]
    exact ⟨r.length_bytes _, ih⟩

/-- The records that QUERY subcode 7 gives fit the destination (R371). -/
theorem State.length_logFor_le (s : State) (h len : Nat) : (s.logFor h len).length ≤ len := by
  have hrec : ∀ x ∈ (logBytes s.log).take (len / 256), (if x.1.hob = h then x.2 else stubOf x.2).length = 256 := fun x hx => by
    have hlen := logBytes_length_bytes s.log x (List.mem_of_mem_take hx)
    split
    · exact hlen
    · exact length_stubOf _ hlen
  rw [State.logFor, List.length_flatMap, List.map_congr_left hrec, List.map_const', List.sum_replicate, List.length_take, smul_eq_mul]
  have hfit := Nat.div_mul_le_self len 256
  have hcount := Nat.min_le_left (len / 256) (logBytes s.log).length
  exact (Nat.mul_le_mul_right 256 hcount).trans hfit

/-! ### What a QUERY answers -/

/-- Starting an entry changes the host ports alone. -/
theorem State.started_eq (s : State) (ref : CmdRef) (op : Nat) : s.started ref op = { s with hosts := (s.started ref op).hosts } := by
  unfold State.started
  dsimp only
  split <;> rfl

theorem State.started_emit (s : State) (o : Out) (ref : CmdRef) (op : Nat) : (s.emit o).started ref op = (s.started ref op).emit o := by
  unfold State.started
  simp only [State.emit_ring]
  split <;> rfl

section

variable {s : State} {ref : CmdRef} {hob : HobId} {addr len : Nat} {e : Sqe}

/-- What the answer to a QUERY is on a state where its turn has come: it changes host port state and the outputs, and carries OK and
the count of the bytes that went out, or SHORT and the count needed (R232). -/
structure State.Answered (s t : State) (ref : CmdRef) (addr len : Nat) (bytes : List Byte) : Prop where
  frame : t = { s with hosts := t.hosts, out := t.out }
  ok : bytes.length ≤ len → (s.emit (.hostData ref.port.val addr bytes)).answers t ref 9 0 0 bytes.length 0
  short : len < bytes.length → s.answers t ref 9 7 0 bytes.length 0

theorem State.queryAnswer_answered (h : s.turn ref hob.val 9 e = true) (bytes : List Byte) :
    s.Answered ((s.started ref 9).queryAnswer ref addr len bytes) ref addr len bytes := by
  refine ⟨?_, fun hle => ?_, fun hlt => ?_⟩
  · unfold State.queryAnswer
    split
    · exact s.started_complete_eq ref 9 9 _ _ _ _
    · rw [← State.started_emit]
      exact State.started_complete_eq (s.emit _) ref 9 9 _ _ _ _
  · rw [State.queryAnswer, if_neg (Nat.not_lt.mpr hle), ← State.started_emit]
    exact State.complete_answers (s.emit _) _ ref hob.val 9 _ _ _ _ e h rfl (by simp) (by simp)
  · rw [State.queryAnswer, if_pos hlt]
    exact State.complete_answers s _ ref hob.val 9 _ _ _ _ e h rfl (by simp) (by simp)

/-- A QUERY whose layout is open names its registers among the outputs too. -/
theorem State.answerRegs_answered (h : s.turn ref hob.val 9 e = true) (sub : Nat) (vals : List Nat) :
    (s.emit (.query hob.val sub vals)).Answered ((s.started ref 9).answerRegs ref hob.val sub addr len vals) ref addr len (Config.queryLayout sub vals) := by
  rw [State.answerRegs, ← State.started_emit]
  exact State.queryAnswer_answered (s := s.emit _) h _

theorem State.sealLog_started (s : State) (ref : CmdRef) (op : Nat) :
    (s.started ref op).sealLog = { s.sealLog with hosts := (s.started ref op).hosts } := by
  rw [State.started_eq]
  unfold State.sealLog State.logPut
  rfl

theorem State.mapEntry_started (s : State) (ref : CmdRef) (op h n : Nat) : (s.started ref op).mapEntry h n = s.mapEntry h n := by
  rw [State.started_eq]
  rfl

theorem State.nums_started (s : State) (ref : CmdRef) (op h : Nat) : (s.started ref op).nums h = s.nums h := by
  simp [State.nums]

theorem State.grantRegs_started (s : State) (ref : CmdRef) (op h : Nat) : (s.started ref op).grantRegs h = s.grantRegs h := by
  rw [State.started_eq]
  rfl

/-- A change of a ring leaves the port's count of lost events. -/
theorem State.modRing_lostEvents (s : State) (p f r : Nat) (g : Ring → Ring) (p' : Nat) :
    ((s.modRing p f r g).host p').lostEvents = (s.host p').lostEvents := by
  simp only [State.modRing, State.modFn, State.host_modHost, HostPort.modFn]
  split
  · next hp => rw [hp]
  · rfl

theorem State.lostEvents_started (s : State) (ref : CmdRef) (op p : Nat) :
    ((s.started ref op).host p).lostEvents = (s.host p).lostEvents := by
  unfold State.started
  dsimp only
  split
  · rfl
  · exact State.modRing_lostEvents ..

/-- A QUERY whose turn has come answers with its body run on the state in which its entry has started. -/
theorem State.query_runs {c : Instr} {sub : Nat} {args : List Byte → Bool} {body : State → State} {P : State → Prop}
    (hc : exec c s = done (s.command ref hob.val 9 sub args body)) (h : s.turn ref hob.val 9 e = true) (ha : args e.args = true)
    (hs : e.sub = sub) (hP : P (body (s.started ref 9))) : ∃ t, exec c s = .next t ∧ P t :=
  ⟨_, hc.trans (congrArg done (s.command_of_turn ref hob.val 9 sub args body e h (.inr hs) ha)), hP⟩

/-- The answer to a QUERY whose bytes fit. -/
theorem State.Answered.of_fits {t : State} {bytes : List Byte} (h : s.Answered t ref addr len bytes) (hfit : bytes.length ≤ len) :
    t = { s with hosts := t.hosts, out := t.out } ∧ (s.emit (.hostData ref.port.val addr bytes)).answers t ref 9 0 0 bytes.length 0 :=
  ⟨h.frame, h.ok hfit⟩

theorem State.Answered.parts {t : State} {bytes : List Byte} (h : s.Answered t ref addr len bytes) :
    t = { s with hosts := t.hosts, out := t.out } ∧
    (bytes.length ≤ len → (s.emit (.hostData ref.port.val addr bytes)).answers t ref 9 0 0 bytes.length 0) ∧
    (len < bytes.length → s.answers t ref 9 7 0 bytes.length 0) := ⟨h.frame, h.ok, h.short⟩

/-- The answer to a QUERY with an open layout, said of the state before its registers were named. -/
theorem State.Answered.of_regs {t : State} {o : Out} {bytes : List Byte} (h : (s.emit o).Answered t ref addr len bytes) :
    t = { s with hosts := t.hosts, out := t.out } ∧
    (bytes.length ≤ len → ((s.emit o).emit (.hostData ref.port.val addr bytes)).answers t ref 9 0 0 bytes.length 0) ∧
    (len < bytes.length → (s.emit o).answers t ref 9 7 0 bytes.length 0) := ⟨h.frame, h.ok, h.short⟩

/-- QUERY subcode 7 seals the log and answers from it. -/
theorem State.queryLog_answers (h : s.turn ref hob.val 9 e = true) (hl : s.logFail = false) :
    let u := s.started ref 9
    let t := (if u.logFail then u else u.sealLog).queryAnswer ref addr len ((if u.logFail then u else u.sealLog).logFor hob.val len)
    t = { s.sealLog with hosts := t.hosts, out := t.out } ∧
      (s.emit (.hostData ref.port.val addr (s.sealLog.logFor hob.val len))).answers t ref 9 0 0 (s.sealLog.logFor hob.val len).length 0 := by
  intro u t
  have hsealed : (if u.logFail then u else u.sealLog) = { s.sealLog with hosts := u.hosts } := by
    rw [if_neg (by simp [u, hl]), State.sealLog_started]
  have hbytes : ({ s.sealLog with hosts := u.hosts } : State).logFor hob.val len = s.sealLog.logFor hob.val len := rfl
  have ht : t = (({ s.sealLog with hosts := u.hosts } : State).emit (.hostData ref.port.val addr (s.sealLog.logFor hob.val len))).complete ref 9 stOk 0
      (s.sealLog.logFor hob.val len).length 0 := by
    simp only [t, hsealed, hbytes, State.queryAnswer]
    exact if_neg (Nat.not_lt.mpr (State.length_logFor_le _ _ _))
  refine ⟨?_, ?_⟩
  · rw [ht, State.complete_eq]
    rfl
  · rw [ht]
    exact State.complete_answers (s.emit _) _ ref hob.val 9 _ _ _ _ e h (by rw [State.started_emit]; rfl) rfl rfl

end

/-- Settles O35: each subcode is one ring command whose body is `queryAnswer`, for 0, 3, 4 and 5 after its registers are named. -/
theorem queriesAnswerFromTheRegisters : Obligations.QueriesAnswerFromTheRegisters := by
  unfold Obligations.QueriesAnswerFromTheRegisters
  refine ⟨?state, ?map, ?distance, ?telemetry, ?grants, ?lost, ?report, ?noReport, ?log⟩
  case state =>
    intro ref hob addr len s e h ha hs
    exact State.query_runs rfl h ha hs (State.answerRegs_answered h 0 _).of_regs
  case map =>
    intro ref hob addr len s e h ha hs
    refine State.query_runs rfl h ha hs ?_
    simp only [State.mapEntry_started, State.nums_started]
    exact (State.queryAnswer_answered h _).parts
  case distance =>
    intro ref hob addr len s e h ha hs
    refine State.query_runs rfl h ha hs ?_
    simp only [State.nums_started, State.started_parts]
    exact (State.queryAnswer_answered h _).parts
  case telemetry =>
    intro ref hob addr len s e h ha hs
    exact State.query_runs rfl h ha hs (State.answerRegs_answered h 3 _).of_regs
  case grants =>
    intro ref hob addr len s e h ha hs
    refine State.query_runs rfl h ha hs ?_
    simp only [State.grantRegs_started]
    exact (State.answerRegs_answered h 4 _).of_regs
  case lost =>
    intro ref hob addr len s e h ha hs
    refine State.query_runs rfl h ha hs ?_
    simp only [State.started_parts, State.lostEvents_started]
    exact (State.answerRegs_answered h 5 _).of_regs
  case report =>
    intro ref hob addr len seq s e r h ha hs hr hfit
    refine State.query_runs rfl h ha hs ?_
    simp only [State.started_parts, hr]
    exact (State.queryAnswer_answered h _).of_fits hfit
  case noReport =>
    intro ref hob addr len seq s e h ha hs hr
    refine State.query_runs rfl h ha hs ?_
    simp only [State.started_parts, hr]
    exact ⟨State.started_complete_eq .., State.complete_answers s _ ref hob.val 9 _ _ _ _ e h rfl (by simp) (by simp)⟩
  case log =>
    intro ref hob addr len s e h ha hs hl
    exact State.query_runs rfl h ha hs (State.queryLog_answers h hl)

end Sys2Proof.Machine
end

section
/-! STATION_REPLACE fills resident slots from home copies whose lines can fail (R192, R291, R298). -/

namespace Sys2Proof.Machine

open Sys2Proof

/-- A HELD hob of one cell whose homeless station has its home back; its recipe keeps slot 0 resident, and the first line of that
slot's home copy has two wrong symbols, which the stack has not met yet. -/
def homeCopySpoiled : State :=
  { hobs := [(0, { st := .held, shape := some { w := 1, h := 1 }, homeless := [{ n := 0 }], ext := [(0, { valid := true })],
                   recipe := some { slotsImg := [[{ resident := true, size := 1 }]] } })]
    errs := [(0, 2)] }

/-- Whether an outcome is a next state in which a line is recorded. -/
def recordsLine : Res → Bool
  | .next t => !t.lines.isEmpty
  | _ => false

/-- STATION_REPLACE fills the cell's resident slot from its home copy, and the line that cannot be corrected is poisoned (R206). -/
theorem stationReplace_recordsLine : recordsLine (exec (.stationReplace 0 true) homeCopySpoiled) = true := by decide +kernel

/-- Refutes O17: the clause of STATION_REPLACE says the lines are as they were, yet its rebuild reads the home copies of the cell's
resident slots, and a line that cannot be corrected is stored poisoned when it is read. -/
theorem not_decantsMoveWorkOffALid : ¬ Obligations.DecantsMoveWorkOffALid := by
  unfold Obligations.DecantsMoveWorkOffALid
  rintro ⟨-, -, -, -, -, hreplace⟩
  obtain ⟨t, hnext, -, hlines, -⟩ := hreplace 0 homeCopySpoiled { n := 0 } rfl rfl rfl (by decide) rfl (by decide)
  have hrec := stationReplace_recordsLine
  rw [hnext, recordsLine, hlines] at hrec
  exact absurd hrec (by decide)

end Sys2Proof.Machine
end

section
/-! What a router output applies, sends and leaves as it is, and the checksums of a period (R97, R103, R104, R107). -/

namespace Sys2Proof.Machine

open Sys2Proof

/-! ### What a router output leaves as it is -/

section

variable {s t u : State} {h n p : Nat}

/-- What every output of a router leaves: stack memory, the positions' health, each hob's cycle counter, and which entries have been applied. -/
structure State.KeepsSlots (s t : State) : Prop where
  mem : t.mem = s.mem
  health : t.health = s.health
  clk : ∀ k, (t.hob k).clk = (s.hob k).clk
  applied : ∀ q, (t.router q).applied = (s.router q).applied

namespace State.KeepsSlots

theorem refl : s.KeepsSlots s := ⟨rfl, rfl, fun _ => rfl, fun _ => rfl⟩

theorem trans (a : s.KeepsSlots t) (b : t.KeepsSlots u) : s.KeepsSlots u :=
  ⟨b.mem.trans a.mem, b.health.trans a.health, fun k => (b.clk k).trans (a.clk k), fun q => (b.applied q).trans (a.applied q)⟩

theorem of_frame (hmem : t.mem = s.mem) (hhealth : t.health = s.health) (hhobs : t.hobs = s.hobs) (hrouters : t.routers = s.routers) :
    s.KeepsSlots t :=
  ⟨hmem, hhealth, fun k => by rw [State.hob, hhobs]; rfl, fun q => by rw [State.router, hrouters]; rfl⟩

theorem modCell (a : s.KeepsSlots t) (f : Cell → Cell) : s.KeepsSlots (t.modCell p f) := a.trans (of_frame (by simp) (by simp) (by simp) (by simp))

theorem modRouter (a : s.KeepsSlots t) {f : Router → Router} (hf : ∀ r, (f r).applied = r.applied) : s.KeepsSlots (t.modRouter p f) := by
  refine a.trans ⟨by simp, by simp, fun k => by simp, fun q => ?_⟩
  simp only [State.router_modRouter]
  split
  · next hq => rw [hf, hq]
  · rfl

theorem modHob (a : s.KeepsSlots t) {f : Hob → Hob} (hf : ∀ y, (f y).clk = y.clk) : s.KeepsSlots (t.modHob h f) := by
  refine a.trans ⟨by simp, by simp, fun k => ?_, fun q => by simp⟩
  simp only [State.hob_modHob]
  split
  · next hk => rw [hf, hk]
  · rfl

theorem foldl {α : Type} (f : State → α → State) (hf : ∀ v x, State.KeepsSlots v (f v x)) (l : List α) (a : s.KeepsSlots t) :
    s.KeepsSlots (l.foldl f t) := by
  induction l generalizing t with
  | nil => exact a
  | cons x xs ih => exact ih (a.trans (hf t x))

theorem ite {c : Prop} [Decidable c] {v : State} (a : s.KeepsSlots t) (b : s.KeepsSlots v) : s.KeepsSlots (if c then t else v) := by
  split
  · exact a
  · exact b

theorem faultOf (a : s.KeepsSlots t) (h n f : Nat) : s.KeepsSlots (t.faultOf h n f) := ite (a.modHob fun _ => rfl) (a.modCell _)

theorem failStep (a : s.KeepsSlots t) (h f : Nat) (e : End) : s.KeepsSlots (t.failStep h f e) :=
  a.modHob fun y => by split <;> rfl

theorem schedViolation (a : s.KeepsSlots t) (h n period f : Nat) : s.KeepsSlots (t.schedViolation h n period f) :=
  ite ((a.faultOf h n f).failStep h f _) (ite (a.faultOf h n f) ((a.faultOf h n f).modHob fun _ => rfl))

end State.KeepsSlots

@[simp] theorem Router.wireFault_inputs (r : Router) (code life : Nat) (wires : List Nat) :
    (r.wireFault code life wires).inputs = r.inputs := by
  unfold Router.wireFault
  induction wires generalizing r with
  | nil => rfl
  | cons w ws ih => exact (ih _).trans rfl

@[simp] theorem Router.wireFault_applied (r : Router) (code life : Nat) (wires : List Nat) :
    (r.wireFault code life wires).applied = r.applied := by
  unfold Router.wireFault
  induction wires generalizing r with
  | nil => rfl
  | cons w ws ih => exact (ih _).trans rfl

@[simp] theorem Router.wormed_applied (r : Router) (f : DynFlit) : (r.wormed f).applied = r.applied := by
  unfold Router.wormed
  split <;> rfl

namespace State.KeepsSlots

theorem wireHistory (a : s.KeepsSlots t) (x y : Nat) (out : Dir) (wires : List Nat) : s.KeepsSlots (t.wireHistory x y out wires) :=
  a.modRouter fun r => r.wireFault_applied _ _ _

theorem parityFault (a : s.KeepsSlots t) (h n x y : Nat) (out : Dir) (wires : List Nat) : s.KeepsSlots (t.parityFault h n x y out wires) :=
  (a.modCell _).wireHistory x y out wires

theorem edgeFlit (a : s.KeepsSlots t) (h k : Nat) (f : Flit) : s.KeepsSlots (t.edgeFlit h k f) := by
  have keep : ∀ buf, s.KeepsSlots (t.modHob h fun z => { z with xng := z.xng.upd {} k fun q => { q with buf := buf } }) :=
    fun buf => a.modHob fun _ => rfl
  unfold State.edgeFlit
  extract_lets buf wants kept
  have hkept : ∀ b, s.KeepsSlots (kept b) := keep
  clear_value kept
  split
  · exact hkept _
  · split
    · exact hkept _
    · exact (hkept (buf.drop 32)).trans (of_frame rfl rfl rfl rfl)

theorem sendStatic (a : s.KeepsSlots t) (h n x y cyc : Nat) (out : Dir) (f : Flit) (flipped : List Nat) :
    s.KeepsSlots (t.sendStatic h n x y cyc out f flipped) := by
  unfold State.sendStatic
  split
  · exact a.modCell _
  · split
    · split
      · exact a.edgeFlit h _ f
      · exact a
    · split
      · exact a
      · next m _ =>
        extract_lets g sent
        have hsent : s.KeepsSlots sent := a.modRouter fun _ => rfl
        clear_value sent
        exact ite (hsent.parityFault h m x y out _) hsent

theorem refill (a : s.KeepsSlots t) (h n : Nat) : s.KeepsSlots (t.refill h n) := by
  refine a.foldl _ (fun v f => ?_) _
  exact ite ((refl.modCell _).modRouter fun _ => rfl) refl

theorem inject (a : s.KeepsSlots t) (h n : Nat) (fs : List DynFlit) : s.KeepsSlots (t.inject h n fs) := (a.modCell _).refill h n

theorem deliver (a : s.KeepsSlots t) (h n : Nat) (f : Flit) : s.KeepsSlots (t.deliver h n f) := by
  unfold State.deliver
  dsimp only
  split
  · exact (a.modCell _).inject h n _
  · exact a.modCell _

theorem crossRim (a : s.KeepsSlots t) (x y : Nat) : s.KeepsSlots (t.crossRim x y) := by
  refine a.foldl _ (fun v vc => ?_) _
  split
  · exact refl
  · exact ite refl (of_frame rfl rfl rfl rfl)

theorem enterEdge (a : s.KeepsSlots t) (x y : Nat) : s.KeepsSlots (t.enterEdge x y) := by
  refine (a.crossRim x y).foldl _ (fun v e => ?_) _
  have hleave : State.KeepsSlots v { v with edgeIn := v.edgeIn.erase e } := of_frame rfl rfl rfl rfl
  exact ite (hleave.modRouter fun _ => rfl) refl

theorem replyOut (a : s.KeepsSlots t) (key status st gen : Nat) : s.KeepsSlots (t.replyOut key status st gen) := by
  unfold State.replyOut
  split
  · exact a
  · split
    · exact a.trans (of_frame (by simp) (by simp) (by simp) (by simp))
    · exact a

theorem sendDyn (a : s.KeepsSlots t) (p x y : Nat) (out : Dir) (f : DynFlit) (flipped : List Nat) :
    s.KeepsSlots (t.sendDyn p x y out f flipped) := by
  unfold State.sendDyn
  extract_lets s1 s2
  have h1 : s.KeepsSlots s1 := a.modRouter fun r => by simp
  have h2 : s.KeepsSlots s2 := by
    refine ite ?_ (ite (h1.enterEdge x y) h1)
    split
    · exact h1.refill _ _
    · exact h1
  clear_value s1 s2
  split
  · split
    · exact h2.deliver _ _ _
    · split
      · exact ite a (h2.modRouter fun _ => rfl)
      · exact h2
  · split
    · split
      · exact h2.replyOut _ _ _ _
      · exact h2.trans (of_frame rfl rfl rfl rfl)
      · exact h2
    · refine ite a ?_
      have h3 : ∀ q d, s.KeepsSlots (s2.modRouter q fun r => { r with dyn := r.dyn ++ [d] }) := fun q d => h2.modRouter fun _ => rfl
      refine ite ?_ (h3 _ _)
      split
      · exact (h3 _ _).parityFault _ _ x y out _
      · exact (h3 _ _).wireHistory x y out _

theorem freeSlot (a : s.KeepsSlots t) (p : Nat) (out : Dir) (vc : Nat) (flipped : List Nat) : s.KeepsSlots (t.freeSlot p out vc flipped) := by
  unfold State.freeSlot
  split
  · exact a
  · extract_lets s0
    have h0 : s.KeepsSlots s0 := ite (a.enterEdge _ _) a
    clear_value s0
    split
    · exact ite h0 (h0.sendDyn _ _ _ _ _ _)
    · exact h0

end State.KeepsSlots

/-! ### An owned entry sends its input's flit -/

theorem State.sendStatic_loc (s : State) (h n x y cyc : Nat) (f : Flit) (flipped : List Nat) :
    ({ cyc := cyc + 1, flit := f } : FlitAt) ∈ ((s.sendStatic h n x y cyc .loc f flipped).cell (s.posOf h n)).portIn := by
  simp [State.sendStatic]

theorem State.wireHistory_inputs (s : State) (x y : Nat) (out : Dir) (wires : List Nat) (q : Nat) :
    ((s.wireHistory x y out wires).router q).inputs = (s.router q).inputs := by
  simp only [State.wireHistory, State.router_modRouter]
  split
  · next hq => rw [Router.wireFault_inputs, hq]
  · rfl

theorem State.sendStatic_neighbour (s : State) (h n x y cyc m x' y' : Nat) (out : Dir) (f : Flit) (flipped : List Nat)
    (hn : neighbour x y out = some (x', y')) (hm : (s.hob h).rect.num x' y' = some m) :
    ({ cyc := cyc + hopCycles x y out, inp := out.facing, flit := f.cross flipped } : FlitAt) ∈
      ((s.sendStatic h n x y cyc out f flipped).router (s.routerPos h m)).inputs := by
  have hout : out ≠ .loc := fun hloc => by simp [hloc, neighbour] at hn
  unfold State.sendStatic
  split
  · exact absurd rfl hout
  · simp only [hn, hm]
    split
    · simp [State.parityFault, State.wireHistory_inputs]
    · simp

theorem State.schedViolation_routers (s : State) (h n period f : Nat) : (s.schedViolation h n period f).routers = s.routers := by
  simp only [State.schedViolation, State.failStep, State.faultOf]
  repeat' split
  all_goals simp

theorem State.faultOf_portIn (s : State) (h n f p : Nat) : ((s.faultOf h n f).cell p).portIn = (s.cell p).portIn := by
  unfold State.faultOf
  dsimp only
  split
  · simp
  · simp only [State.cell_modCell]
    split
    · next hp => rw [hp]
    · rfl

theorem State.schedViolation_portIn (s : State) (h n period f p : Nat) :
    ((s.schedViolation h n period f).cell p).portIn = (s.cell p).portIn := by
  unfold State.schedViolation
  dsimp only
  repeat' split
  all_goals simp [State.failStep, State.faultOf_portIn]

theorem hopCycles_pos (x y : Nat) (out : Dir) : 0 < hopCycles x y out := by
  cases out with
  | loc => exact Nat.one_pos
  | _ => simp only [hopCycles]; split <;> omega

/-- The entry of an output in hob cycle `c` (R103). -/
def State.slotEntry (s : State) (p c : Nat) (d : Dir) : Nat :=
  ((s.router p).slots.get 0 (rtKey d.code (s.router p).page (c % 256))).toNat

/-- The flit at an input of a router in hob cycle `c`. -/
def State.inputAt (s : State) (p c : Nat) (d : Dir) : Option FlitAt :=
  (s.router p).inputs.find? fun f => f.cyc == c && f.inp == d

/-- The state in which an output has applied its entry of hob cycle `c`, before it sends. -/
def State.slotApplied (s : State) (p c : Nat) (out : Dir) : State :=
  s.modRouter p fun r =>
    { r with applied := r.applied.put 0 out.code (c + 1), inputs := r.inputs.filter fun f => c ≤ f.cyc,
             crc := r.crc.put crcInit out.code (crcFeed (r.crc.get crcInit out.code) (leBytes 2 (s.slotEntry p c out))) }

/-- The state in which an output's entry has sent: the flit at the entry's input, or where the entry is free one of the dynamic
channels. -/
def State.slotSent (s : State) (p h n c : Nat) (out : Dir) (flipped : List Nat) : State :=
  let e := s.slotEntry p c out
  let xy := (s.hob h).rect.xy n
  let s1 := s.slotApplied p c out
  if rtOwn e then
    let d := (Dir.all.find? fun d => d.code == rtSrc e).getD .loc
    match s.inputAt p c d with
    | some f => s1.sendStatic h n xy.1 xy.2 c out f.flit flipped
    | none => if d != .loc && (neighbour xy.1 xy.2 d).isNone then s1.sendStatic h n xy.1 xy.2 c out { src := .edge (exitStop xy.1 xy.2 d).index } flipped
      else s1.schedViolation h n (s.hob h).periodNow (s.hob h).clk.fence
  else if (s.router p).bridge.any (fun b => b.2 == rtKey out.code (s.router p).page (c % 256)) then s1
  else s1.freeSlot p out (rtFreeVc e) flipped

/-- The state after a flit at the input on the output's own side has been dropped as a violation, where no entry takes it. -/
def State.slotDropped (s t : State) (p h n c : Nat) (out : Dir) : State :=
  let taken := Dir.all.any fun d => rtOwn (s.slotEntry p c d) && rtSrc (s.slotEntry p c d) == out.code
  match s.inputAt p c out with
  | some f => if taken then t else
      (t.modRouter p fun r => { r with inputs := r.inputs.filter fun g => g != f }).schedViolation h n (s.hob h).periodNow (s.hob h).clk.fence
  | none => t

/-- ROUTER_SLOT_FORWARD of an output that has not applied its entry: it applies it, sends, and drops what nothing takes. -/
theorem exec_routerSlotForward_due {cell : Pos} (out : Dir) (fl : List Nat) (hat : s.routerAt cell.idx = some (h, n))
    (hexec : (s.hob h).executing = true) (hmode : (s.hob h).seqMode = false) (hfence : (s.hob h).atFence = false)
    (hisland : s.islandRuns cell.idx = true) (hdue : (s.router cell.idx).applied.get 0 out.code ≠ (s.hob h).clk.cyc + 1) :
    exec (.routerSlotForward cell out fl) s =
      .next (s.slotDropped (s.slotSent cell.idx h n (s.hob h).clk.cyc out fl) cell.idx h n (s.hob h).clk.cyc out) := by
  change execRouterSlotForward cell out fl s = _
  simp only [execRouterSlotForward, hisland, hat, hexec, hmode, hfence, Bool.not_true, Bool.false_or, Bool.false_eq_true, if_false, if_neg hdue]
  rfl

theorem State.slotApplied_applied (s : State) (p c : Nat) (out : Dir) :
    ((s.slotApplied p c out).router p).applied.get 0 out.code = c + 1 := by
  simp [State.slotApplied, Tab.get_put]

theorem State.KeepsSlots.slotSent (p h n c : Nat) (out : Dir) (fl : List Nat) :
    (s.slotApplied p c out).KeepsSlots (s.slotSent p h n c out fl) := by
  unfold State.slotSent
  extract_lets e xy s1
  have h1 : (s.slotApplied p c out).KeepsSlots s1 := refl
  clear_value s1
  refine ite ?_ (ite h1 (h1.freeSlot p out _ fl))
  split
  · exact h1.sendStatic _ _ _ _ _ _ _ _
  · exact ite (h1.sendStatic _ _ _ _ _ _ _ _) (h1.schedViolation _ _ _ _)

theorem State.KeepsSlots.slotDropped (a : u.KeepsSlots t) (p h n c : Nat) (out : Dir) : u.KeepsSlots (s.slotDropped t p h n c out) := by
  unfold State.slotDropped
  dsimp only
  split
  · next f _ =>
    have hfiltered : u.KeepsSlots (t.modRouter p fun r => { r with inputs := r.inputs.filter fun g => g != f }) := a.modRouter fun _ => rfl
    exact ite a (hfiltered.schedViolation h n _ _)
  · exact a

theorem State.slotDropped_portIn (s t : State) (p h n c : Nat) (out : Dir) (q : Nat) :
    ((s.slotDropped t p h n c out).cell q).portIn = (t.cell q).portIn := by
  unfold State.slotDropped
  dsimp only
  split
  · split
    · rfl
    · simp [State.schedViolation_portIn]
  · rfl

/-- The drop takes only flits of the hob cycle itself. -/
theorem State.mem_slotDropped_inputs {s t : State} {p c q : Nat} {g : FlitAt} (h n : Nat) (out : Dir) (hg : g ∈ (t.router q).inputs)
    (hcyc : g.cyc ≠ c) : g ∈ ((s.slotDropped t p h n c out).router q).inputs := by
  unfold State.slotDropped
  dsimp only
  split
  · next f hf =>
    have hne : g ≠ f := fun hgf => by
      have hat := List.find?_some hf
      simp only [Bool.and_eq_true, beq_iff_eq] at hat
      exact hcyc (hgf ▸ hat.1)
    split
    · exact hg
    · simp only [State.router, State.schedViolation_routers]
      change g ∈ ((t.modRouter p _).router q).inputs
      rw [State.router_modRouter]
      split
      · next hq => exact List.mem_filter.mpr ⟨hq ▸ hg, by simp [hne]⟩
      · exact hg
  · exact hg

theorem State.slotSent_owned {p c : Nat} {out : Dir} {f : FlitAt} (fl : List Nat) (hown : rtOwn (s.slotEntry p c out) = true)
    (hf : s.inputAt p c ((Dir.all.find? fun d => d.code == rtSrc (s.slotEntry p c out)).getD .loc) = some f) :
    s.slotSent p h n c out fl =
      (s.slotApplied p c out).sendStatic h n ((s.hob h).rect.xy n).1 ((s.hob h).rect.xy n).2 c out f.flit fl := by
  simp only [State.slotSent, hown, if_true, hf]

theorem State.schedViolation_flags (s : State) (h n period f : Nat) (hopen : ((s.hob h).closing.any fun c => c.fence == f) = false) :
    ((s.schedViolation h n period f).cell (s.posOf h n)).flags.fault = true := by
  have hfault : ((s.faultOf h n f).cell (s.posOf h n)).flags.fault = true := by simp [State.faultOf, hopen]
  unfold State.schedViolation
  dsimp only
  repeat' split
  all_goals simp [State.failStep, hfault]

theorem State.schedViolation_eq (s : State) (h n period f : Nat) :
    s.schedViolation h n period f = { s with cells := (s.schedViolation h n period f).cells, routers := (s.schedViolation h n period f).routers,
                                             hobs := (s.schedViolation h n period f).hobs } := by
  unfold State.schedViolation State.failStep State.faultOf
  dsimp only
  repeat' split
  all_goals rfl

theorem Run.note_breach (r : Run) (status cell info : Nat) : (r.note status cell info).breach.isSome = true := by
  unfold Run.note
  split
  · assumption
  · rfl

theorem State.faultOf_open (s : State) (h n f : Nat) (hopen : ((s.hob h).closing.any fun c => c.fence == f) = false) :
    s.faultOf h n f = s.modCell (s.posOf h n) fun c => { c with flags := { c.flags with fault := true } } := by
  simp [State.faultOf, hopen]

/-- A failure in the step in progress is its breach. -/
theorem State.hob_failStep_open (s : State) (h f : Nat) (e : End) (hopen : ((s.hob h).closing.any fun c => c.fence == f) = false) :
    (s.failStep h f e).hob h = { s.hob h with run := (s.hob h).run.note e.status e.detail e.info0 } := by
  rw [State.failStep, State.hob_modHob, if_pos rfl, if_neg (by rw [hopen]; decide)]

/-- A violation of a cell and period that a replay already ran for breaks the step in progress. -/
theorem State.schedViolation_breach (s : State) (h n period f : Nat) (hopen : ((s.hob h).closing.any fun c => c.fence == f) = false)
    (hsched : (n, period) ∈ (s.hob h).replay.sched) :
    ((s.schedViolation h n period f).hob h).run.breach.isSome = true ∧ ((s.schedViolation h n period f).hob h).replay = (s.hob h).replay := by
  have hopen' : (((s.faultOf h n f).hob h).closing.any fun c => c.fence == f) = false := by
    rw [State.faultOf_open s h n f hopen]
    exact hopen
  have hbreak : s.schedViolation h n period f = (s.faultOf h n f).failStep h f { status := stSched, detail := n, info0 := period } := by
    simp [State.schedViolation, hsched]
  rw [hbreak, State.hob_failStep_open _ _ _ _ hopen']
  refine ⟨Run.note_breach _ _ _ _, ?_⟩
  rw [State.faultOf_open s h n f hopen]
  rfl

/-- A violation that no replay ran for is noted once, and the run goes on. -/
theorem State.schedViolation_noted (s : State) (h n period f : Nat) (hopen : ((s.hob h).closing.any fun c => c.fence == f) = false)
    (hsched : (n, period) ∉ (s.hob h).replay.sched) :
    ((s.schedViolation h n period f).hob h).run = (s.hob h).run ∧
      ((n, period) ∈ (s.hob h).replay.noted → ((s.schedViolation h n period f).hob h).replay = (s.hob h).replay) ∧
      ((n, period) ∉ (s.hob h).replay.noted → ((s.schedViolation h n period f).hob h).replay =
        { (s.hob h).replay with noted := (s.hob h).replay.noted ++ [(n, period)] }) := by
  by_cases hnoted : (n, period) ∈ (s.hob h).replay.noted
  · simp [State.schedViolation, State.faultOf_open s h n f hopen, hsched, hnoted]
  · simp [State.schedViolation, State.faultOf_open s h n f hopen, hsched, hnoted]

/-- The state in which a cell and its router no longer owe the checksums of their oldest ended period (R107). -/
def State.checksumsTaken (s : State) (p q : Nat) (r1 : List (Nat × Nat × Nat)) (r2 : List (Nat × Nat × List Nat)) : State :=
  (s.modCell p fun c => { c with crcDue := r1 }).modRouter q fun r => { r with crcDue := r2 }

theorem exec_periodChecksum_good {cell : Pos} {f1 i f2 j v : Nat} {vs : List Nat} {r1 : List (Nat × Nat × Nat)} {r2 : List (Nat × Nat × List Nat)}
    (hhob : (s.cell cell.idx).hob = some h) (hown : (s.cell cell.idx).crcDue = (f1, i, v) :: r1)
    (hrouter : (s.router (s.routerPos h (s.cell cell.idx).n)).crcDue = (f2, j, vs) :: r2)
    (hv : crcOut v = (s.hob h).rcp.expected (s.hob h).rect.cells i (s.cell cell.idx).n 0)
    (hvs : ∀ w ∈ vs.zipIdx, crcOut w.1 = (s.hob h).rcp.expected (s.hob h).rect.cells i (s.cell cell.idx).n (w.2 + 1)) :
    exec (.periodChecksum cell) s = .next (s.checksumsTaken cell.idx (s.routerPos h (s.cell cell.idx).n) r1 r2) := by
  change execPeriodChecksum cell s = _
  have hall : (vs.zipIdx.all fun w => crcOut w.1 == (s.hob h).rcp.expected (s.hob h).rect.cells i (s.cell cell.idx).n (w.2 + 1)) = true :=
    List.all_eq_true.mpr fun w hw => beq_iff_eq.mpr (hvs w hw)
  simp only [execPeriodChecksum, hhob, hown, hrouter, hv, hall, beq_self_eq_true, Bool.and_self, if_true]
  rfl

theorem exec_periodChecksum_bad {cell : Pos} {f1 i f2 j v : Nat} {vs : List Nat} {r1 : List (Nat × Nat × Nat)} {r2 : List (Nat × Nat × List Nat)}
    (hhob : (s.cell cell.idx).hob = some h) (hown : (s.cell cell.idx).crcDue = (f1, i, v) :: r1)
    (hrouter : (s.router (s.routerPos h (s.cell cell.idx).n)).crcDue = (f2, j, vs) :: r2)
    (hv : crcOut v ≠ (s.hob h).rcp.expected (s.hob h).rect.cells i (s.cell cell.idx).n 0) :
    exec (.periodChecksum cell) s = .next
      ((s.checksumsTaken cell.idx (s.routerPos h (s.cell cell.idx).n) r1 r2).schedViolation h (s.cell cell.idx).n i f1) := by
  change execPeriodChecksum cell s = _
  simp only [execPeriodChecksum, hhob, hown, hrouter, beq_eq_false_iff_ne.mpr hv, Bool.false_and, Bool.false_eq_true, if_false]
  rfl

end

/-- Settles O10: a router output's forward applies the entry first and then only adds flits and marks. -/
theorem routerOutputs : Obligations.RouterOutputs := by
  unfold Obligations.RouterOutputs
  refine ⟨?forward, ?owned, ?again, ?page, ?checksum, ?violation⟩
  case forward =>
    intro cell out fl s h n hat hexec hmode hfence hisland hdue
    have hkept := (State.KeepsSlots.slotSent (s := s) cell.idx h n (s.hob h).clk.cyc out fl).slotDropped (s := s) cell.idx h n (s.hob h).clk.cyc out
    refine ⟨_, exec_routerSlotForward_due out fl hat hexec hmode hfence hisland hdue, hkept.mem, hkept.health, hkept.clk h, ?_⟩
    rw [hkept.applied]
    exact s.slotApplied_applied _ _ _
  case owned =>
    intro cell out s h n e f hat hexec hmode hfence hisland hdue he hown hf
    subst he
    refine ⟨_, exec_routerSlotForward_due out [] hat hexec hmode hfence hisland hdue, ?_, ?_⟩
    · rintro rfl
      rw [State.slotDropped_portIn, State.slotSent_owned [] hown hf]
      exact State.sendStatic_loc (s.slotApplied _ _ _) h n _ _ _ f.flit []
    · intro x y m hn hm
      refine State.mem_slotDropped_inputs h n out ?_ ?_
      · rw [State.slotSent_owned [] hown hf]
        exact State.sendStatic_neighbour (s.slotApplied _ _ _) h n _ _ _ m x y out f.flit [] hn hm
      · have hhop := hopCycles_pos ((s.hob h).rect.xy n).1 ((s.hob h).rect.xy n).2 out
        dsimp only
        omega
  case again =>
    intro cell out fl s h n hat hexec hmode hfence hdone
    change execRouterSlotForward cell out fl s = _
    simp [execRouterSlotForward, hat, hexec, hmode, hfence, hdone, done]
  case page =>
    intro cell s h n g c hat hreq hexec hcyc hc
    refine ⟨s.modRouter cell.idx fun r => { r with page := g, pageReq := none }, ?_, rfl, fun p hp => ?_, ?_⟩
    · change execRouterPageSwitch cell s = _
      simp [execRouterPageSwitch, hat, hreq, hexec, hcyc, hc, done]
    · simp [hp]
    · simp
  case checksum =>
    intro cell s h f1 i f2 j v vs r1 r2 hhob hown hrouter hv hvs
    refine ⟨_, exec_periodChecksum_good hhob hown hrouter hv hvs, rfl, fun p hp => ?_, ?_, fun p hp => ?_, ?_⟩
    · simp [State.checksumsTaken, hp]
    · simp [State.checksumsTaken]
    · simp [State.checksumsTaken, hp]
    · simp [State.checksumsTaken]
  case violation =>
    intro cell s h f1 i f2 j v vs r1 r2 hhob hown hrouter hv hopen
    refine ⟨_, exec_periodChecksum_bad hhob hown hrouter hv, (State.schedViolation_eq _ _ _ _ _).trans rfl, ?_, ?_, ?_⟩
    · exact State.schedViolation_flags (s.checksumsTaken _ _ r1 r2) h _ i f1 hopen
    · exact State.schedViolation_breach (s.checksumsTaken _ _ r1 r2) h _ i f1 hopen
    · exact State.schedViolation_noted (s.checksumsTaken _ _ r1 r2) h _ i f1 hopen

end Sys2Proof.Machine
end

section
/-! Crossings read their address, issue and take credit, and requests are granted and land (R113, R115, R193, R198, R268, R421). -/

namespace Sys2Proof.Machine

open Sys2Proof

section

variable {s t : State} {h k n : Nat}

/-! ### Crossings issue their blocks -/

/-- What issuing `n` blocks of a crossing of hob `h` leaves, and the `n` transactions it adds. -/
structure State.Issued (s t : State) (h n : Nat) : Prop where
  mem : t.mem = s.mem
  lines : t.lines = s.lines
  routers : t.routers = s.routers
  clk : (t.hob h).clk = (s.hob h).clk
  others : ∀ k, k ≠ h → t.hob k = s.hob k
  xng : (t.hob h).xng = (s.hob h).xng
  txns : t.txns.length = s.txns.length + n

namespace State.Issued

theorem zero : s.Issued s h 0 := ⟨rfl, rfl, rfl, rfl, fun _ _ => rfl, rfl, rfl⟩

theorem ite {c : Prop} [Decidable c] {v : State} (a : s.Issued t h n) (b : s.Issued v h n) : s.Issued (if c then t else v) h n := by
  split
  · exact a
  · exact b

theorem emit (a : s.Issued t h n) (o : Out) : s.Issued (t.emit o) h n :=
  ⟨a.mem, a.lines, a.routers, a.clk, a.others, a.xng, a.txns⟩

theorem setCell (a : s.Issued t h n) (p : Nat) (v : Cell) : s.Issued (t.setCell p v) h n :=
  ⟨a.mem, a.lines, a.routers, a.clk, a.others, a.xng, a.txns⟩

/-- A change of the run of the hob itself. -/
theorem modRun (a : s.Issued t h n) (f : Run → Run) : s.Issued (t.modHob h fun y => { y with run := f y.run }) h n :=
  ⟨a.mem, a.lines, a.routers, by simpa using a.clk, fun k hk => by simpa [hk] using a.others k hk, by simpa using a.xng, a.txns⟩

end State.Issued

/-- A crossing's transaction asks no remote device for anything. -/
theorem State.sendRequest_crossing {r : Txn} (hr : r.isXng = true) : s.sendRequest r = s := by
  simp [State.sendRequest, hr]

theorem State.Issued.addTxn (a : s.Issued t h n) {r : Txn} (hr : r.isXng = true) : s.Issued (t.addTxn r) h (n + 1) := by
  unfold State.addTxn
  extract_lets r1 src
  rw [State.sendRequest_crossing (r := r1) hr]
  exact ⟨a.mem, a.lines, a.routers, a.clk, a.others, a.xng, by simp [a.txns, Nat.add_assoc]⟩

namespace State.Issued

theorem breach (a : s.Issued t h n) (status cell info : Nat) : s.Issued (t.breach h status cell info) h n :=
  a.modRun fun r => r.note status cell info

theorem breachAt (a : s.Issued t h n) (e : End) : s.Issued (t.breachAt h e) h n :=
  a.modRun fun r => { r with breach := some (r.breach.getD e) }

theorem issueBlock (a : s.Issued t h n) (x : Crossing) (rep b : Nat) : s.Issued (t.issueBlock h x rep b) h (n + 1) := by
  unfold State.issueBlock
  extract_lets z p addr hostOut bad s0 s1 s2 r3 adr target stackKind
  have h0 : s.Issued s0 h n := by
    unfold s0
    split
    · exact a.emit _
    · exact a
  have h1 : s.Issued s1 h n := ite (h0.breach _ _ _) (ite (h0.breachAt _) h0)
  clear_value s1
  have h2 : s.Issued s2 h n := by
    unfold s2
    clear_value addr
    cases addr with
    | some v => exact ite (h1.breach _ _ _) h1
    | none => exact h1
  clear_value s2
  split
  all_goals
    next e s3 heq =>
    have h3 : s.Issued s3 h n := by
      split at heq
      · cases heq
        exact h2.setCell _ _
      · cases heq
        exact h2
    exact ite ((h3.addTxn rfl).emit _) (h3.addTxn rfl)

theorem issueBlocks (a : s.Issued t h n) (x : Crossing) (rep : Nat) (l : List Nat) :
    s.Issued (t.each l fun s b => s.issueBlock h x rep b) h (n + l.length) := by
  induction l generalizing t n with
  | nil => exact a
  | cons b bs ih =>
    have hrest := ih (a.issueBlock x rep b)
    rw [Nat.add_right_comm] at hrest
    exact hrest

end State.Issued

/-! ### Credits, grants and landings -/

theorem State.settleWaits_eq (s : State) (h : Nat) : ∃ hold, s.settleWaits h = s.setHob h { s.hob h with hold := hold } := by
  unfold State.settleWaits
  extract_lets z still held h1 h2
  have h2hold : ∃ hold, h2 = { s.hob h with hold := hold } := by
    unfold h2
    split
    · exact ⟨_, rfl⟩
    · exact ⟨_, rfl⟩
  obtain ⟨hold, heq⟩ := h2hold
  rw [heq]
  split
  · exact ⟨_, rfl⟩
  · exact ⟨_, rfl⟩

theorem State.settleWaits_frame (s : State) (h : Nat) : s.settleWaits h = { s with hobs := (s.settleWaits h).hobs } := by
  obtain ⟨hold, heq⟩ := s.settleWaits_eq h
  rw [heq]
  rfl

theorem State.settleWaits_others (s : State) (h : Nat) (hk : k ≠ h) : (s.settleWaits h).hob k = s.hob k := by
  obtain ⟨hold, heq⟩ := s.settleWaits_eq h
  simp [heq, hk]

theorem State.settleWaits_hob (s : State) (h : Nat) :
    (s.settleWaits h).hob h = { s.hob h with hold := ((s.settleWaits h).hob h).hold } := by
  obtain ⟨hold, heq⟩ := s.settleWaits_eq h
  simp [heq]

theorem State.noteCredit_hob (s : State) (h k : Nat) (x : Crossing) : (s.noteCredit h x).hob k = s.hob k := rfl

theorem State.sendPacket_lnps (s : State) (via : Nat) (f : Frame) : ∃ ports, s.sendPacket via f = { s with lnps := ports } := by
  unfold State.sendPacket State.relight State.endServe
  dsimp only
  split
  · split
    · exact ⟨_, rfl⟩
    · exact ⟨_, rfl⟩
  · split
    · exact ⟨_, rfl⟩
    · exact ⟨_, rfl⟩

theorem State.sendPackets_lnps (s : State) (via : Nat) (g : Nat → Frame) (l : List Nat) :
    ∃ ports, l.foldl (fun s i => s.sendPacket via (g i)) s = { s with lnps := ports } := by
  induction l generalizing s with
  | nil => exact ⟨_, rfl⟩
  | cons i l ih =>
    obtain ⟨ports, hsend⟩ := s.sendPacket_lnps via (g i)
    obtain ⟨ports', hrest⟩ := ih (s.sendPacket via (g i))
    exact ⟨ports', hrest.trans (by rw [hsend])⟩

/-- A request sends nothing but packets of Lanper ports. -/
theorem State.sendRequest_lnps (s : State) (r : Txn) : ∃ ports, s.sendRequest r = { s with lnps := ports } := by
  unfold State.sendRequest
  split
  · exact ⟨_, rfl⟩
  · exact s.sendPackets_lnps _ _ _

/-- Only a remote read that is granted sends its request. -/
theorem State.sendRequest_local (s : State) (r : Txn) (hr : r.pool ≠ .lanper ∨ r.write = true) : s.sendRequest r = s := by
  unfold State.sendRequest
  rcases hr with hpool | hwrite
  · simp [hpool]
  · simp [hwrite]

end

/-- The address a computed crossing reads: that of its granule, or one that no valid address equals. -/
def Cell.addrValue (c : Cell) (x : Crossing) : Nat :=
  match c.addrGran x.slot (x.addr % 8192) with
  | some g => if (c.readGran g).gran.bad then badAddr else leAt (c.readGran g).gran.data 0 8
  | none => badAddr

/-- The read of a crossing's address granule, where its slot holds it. -/
def Cell.addrReads (c : Cell) (x : Crossing) : List GranRead := ((c.addrGran x.slot (x.addr % 8192)).map c.readGran).toList

theorem State.meter_hobs (s : State) (p : Nat) (rs : List GranRead) : (s.meter p rs).hobs = s.hobs := by
  unfold State.meter
  dsimp only
  split <;> rfl

theorem State.meter_hob (s : State) (p : Nat) (rs : List GranRead) (k : Nat) : (s.meter p rs).hob k = s.hob k := by
  rw [State.hob, State.meter_hobs]
  rfl

theorem exec_crossingAddrRead_due (hob : HobId) (xng : BitVec 16) (s : State) (x : Crossing)
    (hx : (s.hob hob.val).rcp.crossing xng.toNat = some x) (hcomp : x.computed = true) (hruns : (s.hob hob.val).runs = true)
    (hlive : (s.hob hob.val).clk.live = true) (hmode : (s.hob hob.val).seqMode = false) (hlen : (s.hob hob.val).rcp.periodLen ≠ 0)
    (hdue : ((s.hob hob.val).inPeriod + 34) % (s.hob hob.val).rcp.periodLen = x.issue % (s.hob hob.val).rcp.periodLen) :
    exec (.crossingAddrRead hob xng) s = .next ((s.meter (s.posOf hob.val x.cell) ((s.cell (s.posOf hob.val x.cell)).addrReads x)).modHob hob.val
      fun y => { y with xng := y.xng.upd {} x.id fun q => { q with addrRead := some ((s.cell (s.posOf hob.val x.cell)).addrValue x) } }) := by
  change execCrossingAddrRead hob xng s = _
  simp only [execCrossingAddrRead, hx, hcomp, hruns, hlive, hmode, hdue, bne_iff_ne.mpr hlen, beq_self_eq_true, Bool.and_self,
    Bool.true_or, Bool.not_true, Bool.or_self, Bool.false_eq_true, if_false, Cell.addrReads, Cell.addrValue]
  cases (s.cell (s.posOf hob.val x.cell)).addrGran x.slot (x.addr % 8192) <;> rfl

/-- The state in which a crossing has issued in the hob cycle in force, and a write has given up the credit of its blocks. -/
def State.crossingIssued (s : State) (h : Nat) (x : Crossing) : State :=
  s.modHob h fun y => { y with xng := y.xng.upd {} x.id fun q =>
    { q with issued := (s.hob h).clk.cyc + 1, credit := if x.lands then q.credit else q.credit - x.blocks } }

theorem State.crossingIssued_frame (s : State) (h : Nat) (x : Crossing) : (s.crossingIssued h x).mem = s.mem ∧
    (s.crossingIssued h x).lines = s.lines ∧ (s.crossingIssued h x).routers = s.routers ∧ (s.crossingIssued h x).txns = s.txns :=
  ⟨rfl, rfl, rfl, rfl⟩

theorem State.crossingIssued_hob (s : State) (h : Nat) (x : Crossing) : ((s.crossingIssued h x).hob h).clk = (s.hob h).clk ∧
    ∀ k, k ≠ h → (s.crossingIssued h x).hob k = s.hob k :=
  ⟨by simp [State.crossingIssued], fun k hk => by simp [State.crossingIssued, hk]⟩

theorem State.crossingIssued_xng (s : State) (h : Nat) (x : Crossing) : ((s.crossingIssued h x).hob h).xng.get {} x.id =
    { (s.hob h).xng.get {} x.id with
      issued := (s.hob h).clk.cyc + 1
      credit := if x.lands then ((s.hob h).xng.get {} x.id).credit else ((s.hob h).xng.get {} x.id).credit - x.blocks } := by
  simp [State.crossingIssued]

theorem exec_crossingIssue_due (hob : HobId) (xng : BitVec 16) (s : State) (x : Crossing) (hx : (s.hob hob.val).rcp.crossing xng.toNat = some x)
    (hexec : (s.hob hob.val).executing = true) (hmode : (s.hob hob.val).seqMode = false) (hfence : (s.hob hob.val).atFence = false)
    (hkind : x.kind ≠ 3) (hin : (s.hob hob.val).inPeriod = x.issue)
    (hnew : ((s.hob hob.val).xng.get {} x.id).issued ≠ (s.hob hob.val).clk.cyc + 1) :
    exec (.crossingIssue hob xng) s = .next ((s.crossingIssued hob.val x).each (List.range x.blocks) fun t b =>
      t.issueBlock hob.val x (s.hob hob.val).rep b) := by
  change execCrossingIssue hob xng s = _
  simp only [execCrossingIssue, hx, hexec, hmode, hfence, hin, decide_eq_false hkind, decide_eq_false hnew, ne_eq,
    not_true_eq_false, decide_false, Bool.not_true, Bool.or_self, Bool.false_eq_true, if_false, done, State.crossingIssued]

/-- The state in which a write crossing has been granted one more block of credit. -/
def State.creditGranted (s : State) (h : Nat) (x : Crossing) : State :=
  (s.noteCredit h x).modHob h fun y => { y with xng := y.xng.upd {} x.id fun q => { q with credit := q.credit + 1 } }

theorem exec_edgeCreditGrant_free (hob : HobId) (xng : BitVec 16) (s : State) (x : Crossing) (hx : (s.hob hob.val).rcp.crossing xng.toNat = some x)
    (hlands : x.lands = false) (hpool : s.poolFree ((s.hob hob.val).egressTxn hob.val x) = true) (hup : s.clientUp (s.hob hob.val) x = true)
    (hroom : roomForBlock (s.outQueued ((s.hob hob.val).stopOf x)) = true) (hthrottle : s.throttled hob.val x = false) :
    exec (.edgeCreditGrant hob xng) s = .next ((s.creditGranted hob.val x).settleWaits hob.val) := by
  change execEdgeCreditGrant hob xng s = _
  simp only [execEdgeCreditGrant, hx, hlands, hpool, hup, hroom, hthrottle, Bool.not_true, Bool.or_self, Bool.false_eq_true, if_false,
    done, State.creditGranted]

/-- A request that has got its place. -/
def State.grantedTxn (s : State) (x : Txn) : Txn := { x with pool := s.poolNow x, granted := true, startedAt := s.now }

theorem exec_transactionGrant_free {txn : Nat} {s : State} {x : Txn} (hx : s.txn txn = some x) (hgr : x.granted = false)
    (hfree : s.poolFree { x with pool := s.poolNow x } = true) :
    exec (.transactionGrant txn) s = .next ((s.modTxn txn fun _ => s.grantedTxn x).sendRequest (s.grantedTxn x)) := by
  change execTransactionGrant txn s = _
  simp only [execTransactionGrant, hx, hfree, Bool.not_true, Bool.or_false]
  exact if_neg (by simp [hgr])

/-- The state in which a block has landed whose CRC-32C holds, or has been found to fail. -/
def State.blockLanded (s : State) (p h k : Nat) (x : Txn) (ok : Bool) : State :=
  if ok then s.modCell p fun c => c.fillEntry x.slot x.region x.entry x.data (fun i => x.poison.contains i) fun i => x.stored.contains i
  else ((s.modCell p fun c => c.fillEntry x.slot x.region x.entry x.data (fun _ => true) fun _ => false).modCell p
    fun c => { c with flags := { c.flags with fault := true } }).emit (.mgt "BLOCK_CHECK_FAIL" [h, x.cell, k])

theorem exec_blockLanding_served {txn : Nat} {s : State} {x : Txn} {h k r : Nat} (data : List Byte) (ok : Bool) (hx : s.txn txn = some x)
    (hkind : x.kind = .crossing h k r) (hwrite : x.write = false) (hgr : x.granted = true) (hserved : x.served = true)
    (hbreach : x.breach = false) (hcrc : x.crcBad = false) (hpool : x.pool ≠ .host) (hdelay : s.txnDelayed x 2 = false)
    (hquiet : (((s.hob h).quietBanks x.cell).any ((s.cell (s.posOf h x.cell)).entryBanks x.slot x.region x.entry).contains) = false) :
    exec (.blockLanding txn data ok) s = .next (((s.blockLanded (s.posOf h x.cell) h k x ok).dropTxn txn).settleWaits h) := by
  change execBlockLanding txn data ok s = _
  simp only [execBlockLanding, hx, hkind, hwrite, hgr, hserved, hbreach, hcrc, hdelay, hquiet, if_neg hpool, Bool.not_true, Bool.not_false,
    Bool.and_true, Bool.or_false, Bool.and_false, Bool.or_self, Bool.false_eq_true, if_false]
  cases ok <;> simp [State.blockLanded, done]

theorem State.settleWaits_cell (s : State) (h p : Nat) : (s.settleWaits h).cell p = s.cell p := by
  rw [State.settleWaits_frame]
  rfl

theorem State.modCell_eq (s : State) (p : Nat) (f : Cell → Cell) : s.modCell p f = { s with cells := (s.modCell p f).cells } := by
  unfold State.modCell State.setCell
  rfl

theorem State.modCell_flag_eq (s : State) (p : Nat) (f g : Cell → Cell) (o : Out) :
    ((s.modCell p f).modCell p g).emit o = { s with cells := ((s.modCell p f).modCell p g).cells, out := o :: s.out } := by
  rw [State.modCell_eq, State.modCell_eq s]
  unfold State.emit
  rfl

theorem State.blockLanded_frame (s : State) (p h k : Nat) (x : Txn) (ok : Bool) :
    s.blockLanded p h k x ok = { s with cells := (s.blockLanded p h k x ok).cells,
                                        out := if ok then s.out else .mgt "BLOCK_CHECK_FAIL" [h, x.cell, k] :: s.out } := by
  unfold State.blockLanded
  cases ok with
  | true =>
    simp only [if_true]
    exact State.modCell_eq ..
  | false =>
    simp only [Bool.false_eq_true, if_false]
    exact State.modCell_flag_eq ..

theorem State.blockLanded_others (s : State) (p h k : Nat) (x : Txn) (ok : Bool) {q : Nat} (hq : q ≠ p) :
    (s.blockLanded p h k x ok).cell q = s.cell q := by
  cases ok <;> simp [State.blockLanded, hq]

/-- Settles O11: each command changes one entry of a table and then settles the hob's check points, which touch its hold alone. -/
theorem crossingsReadIssueAndTakeCredit : Obligations.CrossingsReadIssueAndTakeCredit := by
  unfold Obligations.CrossingsReadIssueAndTakeCredit
  refine ⟨?addrRead, ?issue, ?credit, ?grant, ?landing, ?quiet⟩
  case addrRead =>
    intro hob xng s x hx hcomp hruns hlive hmode hlen hdue
    refine ⟨_, exec_crossingAddrRead_due hob xng s x hx hcomp hruns hlive hmode hlen hdue, rfl, fun k hk => ?_, ?_, ?_⟩
    · simp [hk, State.meter_hob]
    · simp [State.meter_hob]
    · rw [State.hob_modHob, if_pos rfl, Tab.get_upd, if_pos rfl]
      rfl
  case issue =>
    intro hob xng s x hx hexec hmode hfence hkind hin hnew
    have hissued := (State.Issued.zero (s := s.crossingIssued hob.val x) (h := hob.val)).issueBlocks x (s.hob hob.val).rep (List.range x.blocks)
    obtain ⟨hmem, hlines, hrouters, htxns⟩ := s.crossingIssued_frame hob.val x
    obtain ⟨hclk, hothers⟩ := s.crossingIssued_hob hob.val x
    refine ⟨_, exec_crossingIssue_due hob xng s x hx hexec hmode hfence hkind hin hnew, hissued.mem.trans hmem, hissued.lines.trans hlines,
      hissued.routers.trans hrouters, hissued.clk.trans hclk, fun k hk => (hissued.others k hk).trans (hothers k hk), ?_, ?_, ?_⟩
    · rw [hissued.xng, State.crossingIssued_xng]
    · rw [hissued.xng, State.crossingIssued_xng]
    · rw [hissued.txns, htxns, List.length_range, Nat.zero_add]
  case credit =>
    intro hob xng s x hx hlands hpool hup hroom hthrottle
    refine ⟨_, exec_edgeCreditGrant_free hob xng s x hx hlands hpool hup hroom hthrottle, ?_, fun k hk => ?_, ?_, ?_⟩
    · rw [State.settleWaits_frame]
      rfl
    · rw [State.settleWaits_others _ _ hk]
      simp [State.creditGranted, hk, State.noteCredit_hob]
    · rw [State.settleWaits_hob]
      simp [State.creditGranted, State.noteCredit_hob]
    · rw [State.settleWaits_hob]
      simp [State.creditGranted, State.noteCredit_hob]
  case grant =>
    intro txn s x hx hgr hfree
    obtain ⟨ports, hports⟩ := (s.modTxn txn fun _ => s.grantedTxn x).sendRequest_lnps (s.grantedTxn x)
    refine ⟨_, exec_transactionGrant_free hx hgr hfree, ?_, fun hlocal => ?_, ?_⟩
    · rw [hports]
      rfl
    · rw [State.sendRequest_local _ _ hlocal]
      rfl
    · rw [hports]
      rfl
  case landing =>
    intro txn data ok s x h k r hx hkind hwrite hgr hserved hbr hcrc hpool hdelay hquiet
    have hframe := s.blockLanded_frame (s.posOf h x.cell) h k x ok
    have hhobs : ∀ j, ((s.blockLanded (s.posOf h x.cell) h k x ok).dropTxn txn).hob j = s.hob j := fun j => by
      rw [hframe]
      rfl
    refine ⟨_, exec_blockLanding_served data ok hx hkind hwrite hgr hserved hbr hcrc hpool hdelay hquiet, ?_, ?_, fun p hp => ?_,
      fun j hj => ?_, ?_, ?_, ?_⟩
    · rw [State.settleWaits_frame, hframe]
      rfl
    · rw [State.settleWaits_frame, hframe]
      rfl
    · rw [State.settleWaits_cell]
      exact s.blockLanded_others _ h k x ok hp
    · rw [State.settleWaits_others _ _ hj, hhobs]
    · rw [State.settleWaits_hob, hhobs]
    · rintro rfl
      rw [State.settleWaits_cell]
      change (s.blockLanded (s.posOf h x.cell) h k x true).cell _ = _
      simp [State.blockLanded]
    · rintro rfl
      rw [State.settleWaits_cell]
      change ((s.blockLanded (s.posOf h x.cell) h k x false).cell _).flags.fault = true ∧
        ((s.blockLanded (s.posOf h x.cell) h k x false).cell _).scratch = _
      simp [State.blockLanded]
  case quiet =>
    intro txn data ok s x h k r hx hkind hquiet
    change execBlockLanding txn data ok s = _
    simp only [execBlockLanding, hx, hkind, hquiet, Bool.or_true, if_true]
    rfl

end Sys2Proof.Machine
end

section
/-! An empty circular region gives poison and a full one takes nothing, and neither moves a pointer (R56 to R58). -/

namespace Sys2Proof.Machine

open Sys2Proof

/-! ### Regions of a cell -/

theorem Cell.slot_modSlot (c : Cell) (i j : Nat) (f : Slot → Slot) :
    (c.modSlot i f).slot j = if j = i then f (c.slot i) else c.slot j := Tab.get_upd _ _ _ _ _

theorem Slot.region_modRegion (x : Slot) (i j : Nat) (f : Region → Region) :
    (x.modRegion i f).region j = if j = i then f (x.region i) else x.region j := Tab.get_upd _ _ _ _ _

theorem Cell.region_modRegion (c : Cell) (sl ri : Nat) (f : Region → Region) :
    ((c.modRegion sl ri f).slot sl).region ri = f ((c.slot sl).region ri) := by
  simp [Cell.modRegion, Cell.slot_modSlot, Slot.region_modRegion]

@[simp] theorem Cell.modRegion_scratch (c : Cell) (sl ri : Nat) (f : Region → Region) : (c.modRegion sl ri f).scratch = c.scratch := rfl

/-! ### What an access to an empty or a full region reaches -/

theorem Cell.reach_empty (c : Cell) (n : Nat) (a : Acc) (hcr : a.cr = true) (hwr : a.wr = false)
    (he : ((c.slot a.slot).region (bits 13 10 a.off)).isEmpty = true) :
    (c.reach n a).acc = a ∧ (c.reach n a).under = true ∧ (c.reach n a).bound = false ∧
      (c.reach n a).region = some (bits 13 10 a.off) := by
  simp [Cell.reach, hcr, hwr, he]

theorem Cell.reach_full (c : Cell) (n : Nat) (a : Acc) (hcr : a.cr = true) (hwr : a.wr = true)
    (hf : ((c.slot a.slot).region (bits 13 10 a.off)).isFull = true) :
    (c.reach n a).acc = a ∧ (c.reach n a).full = true ∧ (c.reach n a).region = some (bits 13 10 a.off) := by
  simp [Cell.reach, hcr, hwr, hf]

/-- The advance of an access that its region refused leaves the cell. -/
theorem Cell.advance_refused (c : Cell) (r : Reach) (h : r.under = true ∨ r.full = true) : c.advance [r] = c := by
  obtain hu | hf := h
  · cases hr : r.region <;> simp [Cell.advance, hr, hu]
  · cases hr : r.region <;> simp [Cell.advance, hr, hf]

/-! ### A read of an empty region, a write to a full one -/

/-- What an access brings its unit of a granule, rotated to the byte that it names (R47). -/
def Reach.arrival (env : IssueEnv) (r : Reach) (g : Gran) : Arrival :=
  let rot := r.acc.low % 64
  { ready := env.cyc + bankLatency (granBank r.at_), issued := env.cyc, unit := r.acc.unit, slot := r.acc.slot, addr := r.at_, rot := rot,
    reg := r.region
    gran := { data := if rot = 0 then g.data else g.data.drop rot ++ g.data.take rot
              poison := if rot = 0 || g.poison = 0 then g.poison else 0xF } }

/-- The first half of a spanning value with its second half (R47). -/
def Arrival.joined (f v : Arrival) : Arrival :=
  { v with
    merged := true
    gran := { data := f.gran.data.take (64 - v.rot) ++ v.gran.data.drop (64 - v.rot), poison := f.gran.poison ||| v.gran.poison } }

/-- The arrival of a read stands among those of the cell, in place of the first half of a spanning value where there is one (R47). -/
def Issue.arrive (env : IssueEnv) (v : Arrival) (x : Issue) : Issue :=
  let first := x.cell.units.arrivals.find? fun y =>
    v.rot != 0 && y.rot == v.rot && y.unit == v.unit && y.slot == v.slot && y.issued + 1 == env.cyc && !y.merged && y.addr + 1 == v.addr
  match first with
  | some f =>
    x.modCell fun c => { c with units := { c.units with arrivals := (c.units.arrivals.filter fun y => y != f) ++ [f.joined v] } }
  | none => x.modCell fun c => { c with units := { c.units with arrivals := c.units.arrivals ++ [v] } }

/-- An arrival changes the arrivals of the cell alone, and one that is poisoned throughout stays so where it is merged. -/
theorem Issue.arrive_poisoned (env : IssueEnv) (v : Arrival) (x : Issue) (hv : v.gran.poison = 0xF) :
    ∃ (w : Arrival) (old : List Arrival), w.issued = v.issued ∧ w.unit = v.unit ∧ w.slot = v.slot ∧ w.gran.poison = 0xF ∧
      x.arrive env v = x.modCell fun c => { c with units := { c.units with arrivals := old ++ [w] } } := by
  have hjoined : ∀ f : Arrival, (f.joined v).gran.poison = 0xF := fun f => by
    change f.gran.poison ||| v.gran.poison = _
    rw [hv]
    exact BitVec.or_allOnes
  unfold Issue.arrive
  dsimp only
  split
  · next f _ => exact ⟨f.joined v, x.cell.units.arrivals.filter fun y => y != f, rfl, rfl, rfl, hjoined f, rfl⟩
  · exact ⟨v, x.cell.units.arrivals, rfl, rfl, rfl, hv, rfl⟩

/-- The underrun flag of a region. -/
def Cell.underrun (c : Cell) (sl ri : Nat) : Cell := c.modRegion sl ri fun y => { y with underrun := true }

/-- A read that its region cannot serve flags the region and brings its unit a granule of known-bad value. -/
theorem Issue.read_under (env : IssueEnv) (before : Cell) (clash : Nat → Bool) (x : Issue) (r : Reach)
    (hu : r.under = true) (hb : r.bound = false) :
    Issue.read env before clash x r =
      ((x.modCell fun c => c.underrun r.acc.slot (r.region.getD 0)).raise stUnderrun).arrive env (r.arrival env badGran) := by
  cases haddr : r.addr <;>
    simp only [Issue.read, haddr, hu, hb, if_true, Bool.not_true, Bool.and_false, Bool.false_eq_true, if_false, List.append_nil,
      List.filter_nil] <;> rfl

theorem Reach.arrival_badGran (env : IssueEnv) (r : Reach) : (r.arrival env badGran).gran.poison = 0xF := by
  simp [Reach.arrival, badGran]

theorem Issue.write_full (env : IssueEnv) (inbound : Option Flit) (q : Nat) (x : Issue) (r : Reach) (hf : r.full = true) :
    Issue.write env inbound q x r =
      (x.modCell fun c => c.modRegion r.acc.slot (r.region.getD 0) fun y => { y with overrun := true }).raise stOverrun := by
  simp [Issue.write, hf]

/-- Settles O60: an access that its region refuses comes down to one flag of that region, and for a read to one poisoned arrival. -/
theorem emptyAndFullRegionsKeepTheirPointers : Obligations.EmptyAndFullRegionsKeepTheirPointers := by
  unfold Obligations.EmptyAndFullRegionsKeepTheirPointers
  refine ⟨fun env c d clash n a x hcr hwr hempty => ?_, fun env c d inbound q n a x hcr hwr hfull => ?_⟩
  · obtain ⟨hacc, hunder, hbound, hregion⟩ := c.reach_empty n a hcr hwr hempty
    obtain ⟨v, old, hissued, hunit, hslot, hpoison, harrive⟩ :=
      Issue.arrive_poisoned env ((c.reach n a).arrival env badGran)
        ((x.modCell fun e => e.underrun (c.reach n a).acc.slot ((c.reach n a).region.getD 0)).raise stUnderrun) (Reach.arrival_badGran ..)
    rw [Issue.read_under env c clash x _ hunder hbound, harrive, hacc, hregion]
    exact ⟨rfl, ⟨v, by simp [Issue.modCell], hissued, hunit.trans (congrArg Acc.unit hacc), hslot.trans (congrArg Acc.slot hacc), hpoison⟩,
      Cell.region_modRegion .., rfl, d.advance_refused _ (.inl hunder)⟩
  · obtain ⟨hacc, hfulled, hregion⟩ := c.reach_full n a hcr hwr hfull
    rw [Issue.write_full env inbound q x _ hfulled, hacc, hregion]
    exact ⟨rfl, rfl, Cell.region_modRegion .., rfl, d.advance_refused _ (.inr hfulled)⟩

end Sys2Proof.Machine
end

section
/-! A cell's issue of its calendar word, and the repair of its words and rows (R38, R49, R50, R142). -/

namespace Sys2Proof.Machine

open Sys2Proof

/-! ### An issue keeps the cell's work -/

@[simp] theorem Cell.modSlot_hob (c : Cell) (i : Nat) (f : Slot → Slot) : (c.modSlot i f).hob = c.hob := rfl

@[simp] theorem Cell.modRegion_hob (c : Cell) (sl ri : Nat) (f : Region → Region) : (c.modRegion sl ri f).hob = c.hob := rfl

@[simp] theorem Cell.writeGran_hob (c : Cell) (g : Nat) (data : List Byte) (poison : Bool) (mask : Nat) :
    (c.writeGran g data poison mask).hob = c.hob := rfl

@[simp] theorem Issue.raise_cell (x : Issue) (code : Nat) : (x.raise code).cell = x.cell := rfl

theorem Issue.raiseIf_cell (x : Issue) (p : Prop) [Decidable p] (code : Nat) : (if p then x.raise code else x).cell = x.cell := by
  split <;> rfl

@[simp] theorem Issue.modCell_cell (x : Issue) (f : Cell → Cell) : (x.modCell f).cell = f x.cell := rfl

theorem Issue.read_hob (env : IssueEnv) (before : Cell) (clash : Nat → Bool) (x : Issue) (r : Reach) :
    (Issue.read env before clash x r).cell.hob = x.cell.hob := by
  unfold Issue.read
  simp only [apply_ite Issue.cell, apply_ite Cell.hob]
  split <;> simp [apply_ite Issue.cell, apply_ite Cell.hob]

theorem Issue.write_hob (env : IssueEnv) (inbound : Option Flit) (q : Nat) (x : Issue) (r : Reach) :
    (Issue.write env inbound q x r).cell.hob = x.cell.hob := by
  unfold Issue.write
  split
  · rfl
  · split <;> rfl

theorem Issue.land_hob (x : Issue) (w : LandWrite) : (x.land w).cell.hob = x.cell.hob := by
  unfold Issue.land
  dsimp only
  split <;> rfl

theorem Cell.advance_hob (c : Cell) (accs : List Reach) : (c.advance accs).hob = c.hob := by
  refine foldl_proj Cell.hob _ (fun c r => ?_) accs c
  split
  · split <;> rfl
  · rfl

theorem Cell.issue_hob (c : Cell) (env : IssueEnv) (op : Op) (n free : Nat) : (c.issue env op n free).cell.hob = c.hob := by
  have hread : ∀ (before : Cell) (clash : Nat → Bool) (l : List Reach) (x : Issue),
      (l.foldl (Issue.read env before clash) x).cell.hob = x.cell.hob :=
    fun before clash => foldl_proj (fun x : Issue => x.cell.hob) _ fun x r => x.read_hob env before clash r
  have hwrite : ∀ (inbound : Option Flit) (l : List Reach) (x : Issue × Nat),
      (l.foldl (fun (p : Issue × Nat) r => (p.1.write env inbound p.2 r, if r.acc.unit = 1 then p.2 + 1 else p.2)) x).1.cell.hob =
        x.1.cell.hob :=
    fun inbound => foldl_proj (fun x : Issue × Nat => x.1.cell.hob) _ fun x r => x.1.write_hob env inbound x.2 r
  have hland : ∀ (l : List LandWrite) (x : Issue), (l.foldl Issue.land x).cell.hob = x.cell.hob :=
    foldl_proj (fun x : Issue => x.cell.hob) _ Issue.land_hob
  unfold Cell.issue
  simp only [Issue.modCell_cell, Cell.advance_hob, hland, hwrite, Issue.raiseIf_cell, Cell.modSlot_hob, hread]

theorem Cell.upset_hob (c : Cell) (u : Upset) : (c.upset u).hob = c.hob := by
  unfold Cell.upset
  dsimp only
  split <;> rfl

theorem Cell.fetch_hob (c : Cell) (k t : Nat) : (c.fetch k t).2.2.2.hob = c.hob := by
  unfold Cell.fetch
  dsimp only
  split
  · rfl
  · split
    · rfl
    · split <;> rfl

theorem State.issueAt_hob (s : State) (z : Hob) (c : Cell) (n : Nat) : (s.issueAt z c n).1.cell.hob = c.hob := by
  unfold State.issueAt
  rw [← c.fetch_hob z.clk.step z.clk.inStep]
  dsimp only
  rw [Cell.issue_hob]
  split <;> rfl

/-! ### What follows an issue outside its cell -/

/-- What a cell's issue can change outside its cell: hobs, routers and positions. -/
def State.AroundCell (s t : State) : Prop := ∃ hobs routers health, t = { s with hobs := hobs, routers := routers, health := health }

theorem State.AroundCell.modHob {s t : State} (a : s.AroundCell t) (h : Nat) (f : Hob → Hob) : s.AroundCell (t.modHob h f) := by
  obtain ⟨_, _, _, rfl⟩ := a
  exact ⟨_, _, _, rfl⟩

theorem State.AroundCell.modRouter {s t : State} (a : s.AroundCell t) (p : Nat) (f : Router → Router) : s.AroundCell (t.modRouter p f) := by
  obtain ⟨_, _, _, rfl⟩ := a
  exact ⟨_, _, _, rfl⟩

theorem State.AroundCell.modPos {s t : State} (a : s.AroundCell t) (p : Nat) (f : Health → Health) : s.AroundCell (t.modPos p f) := by
  obtain ⟨_, _, _, rfl⟩ := a
  exact ⟨_, _, _, rfl⟩

theorem State.AroundCell.modPosUnless {s t : State} (a : s.AroundCell t) (c : Prop) [Decidable c] (p : Nat) (f : Health → Health) :
    s.AroundCell (if c then t else t.modPos p f) := by
  split
  · exact a
  · exact a.modPos p f

theorem State.AroundCell.cell {s t : State} (a : s.AroundCell t) (p : Nat) : t.cell p = s.cell p := by
  obtain ⟨_, _, _, rfl⟩ := a
  rfl

theorem State.AroundCell.afterIssue (s : State) (h n p cyc : Nat) (x : Issue) : s.AroundCell (s.afterIssue h n p cyc x) := by
  have hnoted : ∀ f, s.AroundCell (s.modHob h f) := State.AroundCell.modHob ⟨_, _, _, rfl⟩ h
  unfold State.afterIssue
  cases x.page <;> cases x.flit <;> refine State.AroundCell.modPosUnless ?_ ..
  case none.none => exact hnoted _
  case none.some => exact (hnoted _).modRouter ..
  case some.none => exact (hnoted _).modRouter ..
  case some.some => exact ((hnoted _).modRouter ..).modRouter ..

/-- The breaches that an issue raised are noted in the run of its hob (R59). -/
theorem State.afterIssue_hob (s : State) (h n p cyc : Nat) (x : Issue) (k : Nat) :
    (s.afterIssue h n p cyc x).hob k = if k = h then
      { s.hob h with run := (x.raised.filter fun c => c != stEccUe).foldl (fun r c => r.note c n 0) (s.hob h).run } else s.hob k := by
  unfold State.afterIssue
  cases x.page <;> cases x.flit <;> dsimp only <;> split <;> simp

theorem State.afterIssue_router (s : State) (h n p cyc : Nat) (x : Issue) {q : Nat} (hq : q ≠ s.routerPos h n) :
    (s.afterIssue h n p cyc x).router q = s.router q := by
  unfold State.afterIssue
  cases x.page <;> cases x.flit <;> dsimp only <;> split <;> simp [hq]

theorem State.afterIssue_pos (s : State) (h n p cyc : Nat) (x : Issue) {q : Nat} (hq : q ≠ p) :
    (s.afterIssue h n p cyc x).pos q = s.pos q := by
  unfold State.afterIssue
  cases x.page <;> cases x.flit <;> dsimp only <;> split <;> simp [hq]

/-! ### CAL_WORD_ISSUE -/

/-- The issue of a cell in the hob cycle in force, after the bit errors that strike before it. -/
def State.issueIn (s : State) (p h : Nat) (ups : List Upset) : Issue × Nat :=
  s.issueAt (s.hob h) (ups.foldl Cell.upset (s.cell p)) (s.cell p).n

/-- The state in which a cell has issued its word. -/
def State.wordIssued (s : State) (p h : Nat) (ups : List Upset) : State :=
  let i := (s.issueIn p h ups).1
  let c := { i.cell with
    issued := (s.hob h).clk.cyc + 1, crc := crcFeed i.cell.crc (leBytes 32 (s.issueIn p h ups).2)
    taste := { i.cell.taste.count i.outs with cur := i.cell.taste.cur.record (s.issueIn p h ups).2 i } }
  ({ s with free := i.free }.setCell p c).afterIssue h (s.cell p).n p (s.hob h).clk.cyc i

theorem exec_calWordIssue_due {s : State} {cell : Pos} {h : Nat} (ups : List Upset) (hob : (s.cell cell.idx).hob = some h)
    (hex : (s.hob h).executing = true) (hseq : (s.hob h).seqMode = false) (hfence : (s.hob h).atFence = false)
    (hissued : (s.cell cell.idx).issued ≠ (s.hob h).clk.cyc + 1) :
    exec (.calWordIssue cell ups) s = .next (s.wordIssued cell.idx h ups) := by
  change execCalWordIssue cell ups s = _
  simp only [execCalWordIssue, hob, hex, hseq, hfence, hissued]
  rfl

theorem exec_calWordIssue_idle {s : State} {cell : Pos} (ups : List Upset)
    (hidle : ∀ h, (s.cell cell.idx).hob = some h → (s.hob h).executing = false ∨ (s.hob h).seqMode = true ∨ (s.hob h).atFence = true ∨
      (s.cell cell.idx).issued = (s.hob h).clk.cyc + 1) :
    exec (.calWordIssue cell ups) s = .next s := by
  change execCalWordIssue cell ups s = _
  unfold execCalWordIssue
  dsimp only
  split
  · rfl
  · next h hob => exact if_pos (by simpa [or_assoc] using hidle h hob)

variable (s : State) (p h : Nat) (ups : List Upset)

theorem State.wordIssued_eq : ∃ free cells hobs routers health,
    s.wordIssued p h ups = { s with free := free, cells := cells, hobs := hobs, routers := routers, health := health } := by
  obtain ⟨hobs, routers, health, heq⟩ := State.AroundCell.afterIssue _ h (s.cell p).n p (s.hob h).clk.cyc (s.issueIn p h ups).1
  exact ⟨_, _, hobs, routers, health, heq⟩

theorem State.wordIssued_cell : (s.wordIssued p h ups).cell p = { (s.issueIn p h ups).1.cell with
    issued := (s.hob h).clk.cyc + 1, crc := crcFeed (s.issueIn p h ups).1.cell.crc (leBytes 32 (s.issueIn p h ups).2)
    taste := ((s.wordIssued p h ups).cell p).taste } := by
  unfold State.wordIssued
  dsimp only
  rw [(State.AroundCell.afterIssue ..).cell, State.cell_setCell, if_pos rfl]

theorem State.wordIssued_work : ((s.wordIssued p h ups).cell p).hob = (s.cell p).hob := by
  rw [State.wordIssued_cell]
  change (s.issueAt (s.hob h) (ups.foldl Cell.upset (s.cell p)) (s.cell p).n).1.cell.hob = _
  rw [State.issueAt_hob, foldl_proj Cell.hob Cell.upset Cell.upset_hob]

theorem State.wordIssued_other {q : Nat} (hq : q ≠ p) :
    (s.wordIssued p h ups).cell q = s.cell q ∧ (s.wordIssued p h ups).pos q = s.pos q := by
  unfold State.wordIssued
  dsimp only
  rw [(State.AroundCell.afterIssue ..).cell, State.cell_setCell, if_neg hq, State.afterIssue_pos _ _ _ _ _ _ hq]
  exact ⟨rfl, rfl⟩

theorem State.wordIssued_router {q : Nat} (hq : q ≠ s.routerPos h (s.cell p).n) :
    (s.wordIssued p h ups).router q = s.router q := State.afterIssue_router _ h (s.cell p).n p _ _ hq

theorem State.wordIssued_hob (k : Nat) : ∃ run, (s.wordIssued p h ups).hob k = if k = h then { s.hob h with run := run } else s.hob k :=
  ⟨_, State.afterIssue_hob ..⟩

/-! ### RESIDUE_FAULT -/

/-- The cell with a row of an accumulator bank poisoned, its values kept, and the fault flag set (R38). -/
def Cell.residue (c : Cell) (k : Nat) : Cell :=
  { c with
    units := { c.units with acc := c.units.acc.put {} k { c.units.acc.get {} k with poison := true } }
    flags := { c.flags with fault := true } }

theorem Cell.residue_acc (c : Cell) (k j : Nat) : (c.residue k).units.acc.get {} j =
    if j = k then { c.units.acc.get {} k with poison := true } else c.units.acc.get {} j := Tab.get_put _ _ _ _ _

theorem exec_residueFault_work {s : State} {cell : Pos} (bank : Fin 2) (row : Fin 32) (hwork : (s.cell cell.idx).hob.isSome = true) :
    exec (.residueFault cell bank row) s = .next (s.setCell cell.idx ((s.cell cell.idx).residue (accKey bank.val row.val))) := by
  change execResidueFault cell bank row s = _
  obtain ⟨h, hob⟩ := Option.isSome_iff_exists.mp hwork
  simp [execResidueFault, hob, done, Cell.residue]

theorem exec_residueFault_free {s : State} {cell : Pos} (bank : Fin 2) (row : Fin 32) (hfree : (s.cell cell.idx).hob = none) :
    exec (.residueFault cell bank row) s = .next s := by
  change execResidueFault cell bank row s = _
  simp [execResidueFault, hfree, done]

/-- A fault flag in a cell of a hob whose step is in progress is a fault of its step (R268). -/
theorem State.faulted_of_cell {t : State} {h n : Nat} (hlive : (t.hob h).clk.live = true) (hn : n ∈ t.nums h)
    (hflag : (t.cell (t.posOf h n)).flags.fault = true) : t.faulted h = true := by
  unfold State.faulted
  rw [hlive, Bool.true_and, Bool.or_eq_true]
  exact .inr (List.any_eq_true.mpr ⟨n, hn, hflag⟩)

/-! ### ECC_WRITE_BACK -/

/-- The oldest corrected word written back (R49). -/
def Cell.writtenBack (c : Cell) : Cell :=
  match c.writeBack with
  | [] => c
  | w :: rest => { c with writeBack := rest, wordErr := c.wordErr.erase w }

theorem Cell.writtenBack_cons {c : Cell} {w : Nat} {rest : List Nat} (h : c.writeBack = w :: rest) :
    c.writtenBack = { c with writeBack := rest, wordErr := c.wordErr.erase w } := by
  simp [Cell.writtenBack, h]

theorem exec_eccWriteBack_none {s : State} {cell : Pos} (h : (s.cell cell.idx).writeBack = []) : exec (.eccWriteBack cell) s = .next s := by
  change execEccWriteBack cell s = _
  simp [execEccWriteBack, h, done]

theorem exec_eccWriteBack_some {s : State} {cell : Pos} {w : Nat} {rest : List Nat} (h : (s.cell cell.idx).writeBack = w :: rest) :
    exec (.eccWriteBack cell) s = .next (s.setCell cell.idx (s.cell cell.idx).writtenBack) := by
  change execEccWriteBack cell s = _
  simp [execEccWriteBack, h, done, Cell.writtenBack]

/-! ### SPARE_ROW_REMAP -/

theorem exec_spareRowRemap_tasting {s : State} {cell : Pos} (h : (s.pos cell.idx).state = .tasting) :
    exec (.spareRowRemap cell) s = .next (s.setPos cell.idx ((s.pos cell.idx).remapDue.foldl Health.remapRow (s.pos cell.idx))) := by
  change execSpareRowRemap cell s = _
  simp [execSpareRowRemap, h, done]

theorem exec_spareRowRemap_other {s : State} {cell : Pos} (h : (s.pos cell.idx).state ≠ .tasting) :
    exec (.spareRowRemap cell) s = .next s := by
  change execSpareRowRemap cell s = _
  simp [execSpareRowRemap, h, done]

/-- A row that its bank has no spare for stays where it is (R50). -/
theorem Health.remapRow_none {x : Health} {r : Nat} (h : x.nextSpare (r / 64) = none) : x.remapRow r = x := by
  simp [Health.remapRow, h]

theorem Health.remapRow_some {x : Health} {r n : Nat} (h : x.nextSpare (r / 64) = some n) :
    x.remapRow r = { x with
      rowMap := x.rowMap.put 0 r n, remapDue := mark x.remapDue r false, rowCe := x.rowCe.erase r
      spareBad := if x.rowMap.get 0 r = 0 then x.spareBad else mark x.spareBad (r / 64 * 16 + x.rowMap.get 0 r) true } := by
  simp [Health.remapRow, h]

/-- Rows that take spares change what the position keeps of its rows, and nothing else. -/
theorem Health.remapRows_frame (l : List Nat) (x : Health) : l.foldl Health.remapRow x = { x with
    rowMap := (l.foldl Health.remapRow x).rowMap, remapDue := (l.foldl Health.remapRow x).remapDue
    rowCe := (l.foldl Health.remapRow x).rowCe, spareBad := (l.foldl Health.remapRow x).spareBad } := by
  induction l generalizing x with
  | nil => rfl
  | cons r l ih =>
    rw [List.foldl_cons, ih]
    cases h : x.nextSpare (r / 64) with
    | none => rw [Health.remapRow_none h]
    | some n => rw [Health.remapRow_some h]

theorem Health.remapRows_none {l : List Nat} {x : Health} (h : ∀ r ∈ l, x.nextSpare (r / 64) = none) : l.foldl Health.remapRow x = x := by
  induction l with
  | nil => rfl
  | cons r l ih =>
    rw [List.foldl_cons, Health.remapRow_none (h r (List.mem_cons_self ..))]
    exact ih fun q hq => h q (List.mem_cons_of_mem _ hq)

theorem mem_mark {l : List Nat} {n b : Nat} : b ∈ mark l n true ↔ b ∈ l ∨ b = n := by
  by_cases hb : b = n <;> simp [mark, hb]

end Sys2Proof.Machine
end

section
/-! The cell commands, settled from what each of them leaves of its cell and its position (R38, R49, R50, R142). -/

namespace Sys2Proof.Machine

open Sys2Proof

/-- Settles O8: each command is one update of the cell or of its position, which reads back by the laws above. -/
theorem cellsIssueAndRepair : Obligations.CellsIssueAndRepair := by
  unfold Obligations.CellsIssueAndRepair
  refine ⟨?issue, ?again, ?residue, ?writeBack, ?remap, ?other⟩
  case issue =>
    intro cell ups s h hob hex hseq hfence hissued
    obtain ⟨free, cells, hobs, routers, health, heq⟩ := s.wordIssued_eq cell.idx h ups
    obtain ⟨run, hrun⟩ := s.wordIssued_hob cell.idx h ups h
    have hcell := s.wordIssued_cell cell.idx h ups
    refine ⟨_, exec_calWordIssue_due ups hob hex hseq hfence hissued, by rw [heq], by rw [hrun, if_pos rfl],
      fun p hp => (s.wordIssued_other cell.idx h ups hp).1, by rw [hcell], ?_⟩
    rw [hcell]
    rfl
  case again =>
    intro cell ups s h hob hissued
    refine exec_calWordIssue_idle ups fun k hk => ?_
    cases hob.symm.trans hk
    exact .inr (.inr (.inr hissued))
  case residue =>
    intro cell bank row s hwork
    refine ⟨_, exec_residueFault_work bank row hwork, rfl, fun p hp => by simp [hp], ?_⟩
    rw [State.cell_setCell, if_pos rfl]
    exact ⟨rfl, rfl, rfl, by rw [Cell.residue_acc, if_pos rfl]⟩
  case writeBack =>
    intro cell s w rest hwaits
    refine ⟨_, exec_eccWriteBack_some hwaits, rfl, fun p hp => by simp [hp], ?_⟩
    rw [State.cell_setCell, if_pos rfl, Cell.writtenBack_cons hwaits]
    exact ⟨rfl, by simp [Tab.get_erase], fun v hv => by simp [Tab.get_erase, hv]⟩
  case remap =>
    intro cell s htasting
    refine ⟨_, exec_spareRowRemap_tasting htasting, rfl, fun p hp => by simp [hp], ?_⟩
    rw [State.pos_setPos, if_pos rfl]
    exact Health.remapRows_frame ..
  case other => exact fun cell s hstate => exec_spareRowRemap_other hstate

/-- ECC_WRITE_BACK given once for each word of a list. -/
def eccWriteBacks (cell : Pos) (l : List Nat) (s : State) : Res :=
  l.foldl (fun (r : Res) _ => match r with
    | .next u => exec (.eccWriteBack cell) u
    | x => x) (.next s)

/-- Every word that waits is written back, one by one. -/
theorem eccWriteBacks_all (cell : Pos) (l : List Nat) (s : State) (hl : (s.cell cell.idx).writeBack = l) :
    ∃ t, eccWriteBacks cell l s = .next t ∧ t = { s with cells := t.cells } ∧ (∀ p, p ≠ cell.idx → t.cell p = s.cell p) ∧
      t.cell cell.idx = { s.cell cell.idx with writeBack := [], wordErr := (t.cell cell.idx).wordErr } ∧
      ∀ w, (t.cell cell.idx).wordErr.get 0 w = if w ∈ l then 0 else (s.cell cell.idx).wordErr.get 0 w := by
  induction l generalizing s with
  | nil => exact ⟨s, rfl, rfl, fun _ _ => rfl, by rw [← hl], fun w => by simp⟩
  | cons v rest ih =>
    have hfirst := Cell.writtenBack_cons hl
    have hcell : (s.setCell cell.idx (s.cell cell.idx).writtenBack).cell cell.idx = (s.cell cell.idx).writtenBack := by simp
    obtain ⟨t, hnext, hframe, hothers, ht, herr⟩ := ih (s.setCell cell.idx (s.cell cell.idx).writtenBack) (by rw [hcell, hfirst])
    refine ⟨t, ?_, hframe, fun p hp => by simp [hothers p hp, hp], ?_, fun w => ?_⟩
    · rw [← hnext, eccWriteBacks, List.foldl_cons]
      dsimp only
      rw [exec_eccWriteBack_some hl]
      rfl
    · rw [ht, hcell, hfirst]
    · rw [herr, hcell, hfirst]
      by_cases hv : w = v <;> simp [hv, Tab.get_erase]

/-- Settles O9: as O8, with the write-backs of a cell run one after the other. -/
theorem cellsRepairThemselves : Obligations.CellsRepairThemselves := by
  unfold Obligations.CellsRepairThemselves
  refine ⟨?issue, ?idle, ?residue, ?free, ?writeBack, ?remap, ?noSpare⟩
  case issue =>
    intro cell ups s h hob hex hseq hfence hissued
    obtain ⟨free, cells, hobs, routers, health, heq⟩ := s.wordIssued_eq cell.idx h ups
    obtain ⟨run, hrun⟩ := s.wordIssued_hob cell.idx h ups h
    rw [if_pos rfl] at hrun
    have hcell := s.wordIssued_cell cell.idx h ups
    have hwork := (s.wordIssued_work cell.idx h ups).trans hob
    have hissuedNow : ((s.wordIssued cell.idx h ups).cell cell.idx).issued = (s.hob h).clk.cyc + 1 := by rw [hcell]
    refine ⟨_, exec_calWordIssue_due ups hob hex hseq hfence hissued, by rw [heq], hissuedNow, hwork,
      fun p hp => s.wordIssued_other cell.idx h ups hp, fun p hp => s.wordIssued_router cell.idx h ups hp, fun k hk => ?_, by rw [hrun],
      exec_calWordIssue_idle ups fun k hk => ?_⟩
    · obtain ⟨run', hother⟩ := s.wordIssued_hob cell.idx h ups k
      rw [hother, if_neg hk]
    · cases hwork.symm.trans hk
      exact .inr (.inr (.inr (by rw [hissuedNow, hrun])))
  case idle => exact fun cell ups s hidle => exec_calWordIssue_idle ups hidle
  case residue =>
    intro cell bank row s h hob hlive hplace
    obtain ⟨n, hn, hpos⟩ := List.mem_map.mp hplace
    have hcell : ∀ c, (s.setCell cell.idx c).cell cell.idx = c := fun c => by simp
    refine ⟨_, exec_residueFault_work bank row (by rw [hob]; rfl), rfl, fun p hp => by simp [hp], by rw [hcell]; rfl, ?_, fun k hk => ?_,
      State.faulted_of_cell (n := n) hlive hn ?_⟩
    · rw [hcell, Cell.residue_acc, if_pos rfl]
    · rw [hcell, Cell.residue_acc, if_neg hk]
    · change ((s.setCell cell.idx _).cell (s.posOf h n)).flags.fault = true
      rw [hpos, hcell]
      rfl
  case free => exact fun cell bank row s hfree => exec_residueFault_free bank row hfree
  case writeBack =>
    intro cell s
    refine ⟨?_, ?_⟩
    · cases hwaits : (s.cell cell.idx).writeBack with
      | nil => exact ⟨s, exec_eccWriteBack_none hwaits⟩
      | cons w rest => exact ⟨_, exec_eccWriteBack_some hwaits⟩
    · obtain ⟨t, hnext, hframe, hothers, ht, herr⟩ := eccWriteBacks_all cell _ s rfl
      exact ⟨t, hnext, hframe, hothers, ht, fun w hw => by rw [herr, if_pos hw], fun w hw => by rw [herr, if_neg hw]⟩
  case remap =>
    intro cell s r n htasting hdue hspare
    have hrow := Health.remapRow_some hspare
    refine ⟨_, exec_spareRowRemap_tasting htasting, rfl, fun p hp => by simp [hp], ?_⟩
    rw [State.pos_setPos, if_pos rfl, hdue, List.foldl_cons, List.foldl_nil, hrow]
    refine ⟨by simp [mark, hdue], by simp, by simp [Tab.get_erase], fun q hq => ⟨by simp [hq], by simp [Tab.get_erase, hq]⟩, fun b => ?_⟩
    by_cases hold : (s.pos cell.idx).rowMap.get 0 r = 0 <;> simp [hold, mem_mark]
  case noSpare =>
    intro cell s hnone
    by_cases htasting : (s.pos cell.idx).state = .tasting
    · have hrows := Health.remapRows_none (hnone.resolve_left (not_not_intro htasting))
      refine ⟨_, exec_spareRowRemap_tasting htasting, rfl, fun p => ?_⟩
      by_cases hp : p = cell.idx
      · rw [hp, State.pos_setPos, if_pos rfl, hrows]
      · rw [State.pos_setPos, if_neg hp]
    · exact ⟨s, exec_spareRowRemap_other htasting, rfl, fun _ => rfl⟩

end Sys2Proof.Machine
end

section
/-! What the resets of a cell's domains leave as it was: the registers of resets under way, the counts of a position's resets, and the
stacks that serve (R200, R291, R326, R327). -/

namespace Sys2Proof.Machine

open Sys2Proof

/-! ### Landings that end -/

section

variable {s t u : State}

/-- What the replies to ended landings change: cells, of which they leave the work and the scratchpad, routers and outputs. -/
structure State.Replies (s t : State) : Prop where
  frame : ∃ cells routers out, t = { s with cells := cells, routers := routers, out := out }
  hob : ∀ p, (t.cell p).hob = (s.cell p).hob
  scratch : ∀ p, (t.cell p).scratch = (s.cell p).scratch

namespace State.Replies

theorem refl : s.Replies s := ⟨⟨_, _, _, rfl⟩, fun _ => rfl, fun _ => rfl⟩

theorem trans (a : s.Replies t) (b : t.Replies u) : s.Replies u := by
  obtain ⟨_, _, _, rfl⟩ := a.frame
  obtain ⟨_, _, _, rfl⟩ := b.frame
  exact ⟨⟨_, _, _, rfl⟩, fun p => (b.hob p).trans (a.hob p), fun p => (b.scratch p).trans (a.scratch p)⟩

theorem modCell (a : s.Replies t) (p : Nat) (f : Cell → Cell) (hhob : ∀ c, (f c).hob = c.hob := by intro; rfl)
    (hscratch : ∀ c, (f c).scratch = c.scratch := by intro; rfl) : s.Replies (t.modCell p f) := by
  refine a.trans ⟨⟨_, _, _, rfl⟩, fun q => ?_, fun q => ?_⟩ <;> rw [State.cell_modCell] <;> split
  · next hq => rw [hhob, hq]
  · rfl
  · next hq => rw [hscratch, hq]
  · rfl

theorem modRouter (a : s.Replies t) (p : Nat) (f : Router → Router) : s.Replies (t.modRouter p f) :=
  a.trans ⟨⟨_, _, _, rfl⟩, fun _ => rfl, fun _ => rfl⟩

theorem emit (a : s.Replies t) (o : Out) : s.Replies (t.emit o) := a.trans ⟨⟨_, _, _, rfl⟩, fun _ => rfl, fun _ => rfl⟩

theorem foldl {α : Type} (f : State → α → State) (hf : ∀ v x, State.Replies v (f v x)) (l : List α) (a : s.Replies t) :
    s.Replies (l.foldl f t) := by
  induction l generalizing t with
  | nil => exact a
  | cons x xs ih => exact ih (a.trans (hf t x))

theorem refill (a : s.Replies t) (h n : Nat) : s.Replies (t.refill h n) := by
  refine a.foldl _ (fun v x => ?_) _
  dsimp only
  split
  · exact (refl.modCell ..).modRouter ..
  · exact refl

theorem reply (a : s.Replies t) (h n : Nat) (o : Origin) (tag status st gen : Nat) : s.Replies (t.reply h n o tag status st gen) :=
  ((a.modCell ..).refill h n).emit _

theorem dropLandings (a : s.Replies t) (h n : Nat) : s.Replies (t.dropLandings h n) :=
  (a.modCell ..).foldl _ (fun _ _ => (refl.modCell ..).reply ..) _

end State.Replies

end

/-! ### Resets under way, counted resets and serving stacks -/

theorem Health.toConditional_resets (x : Health) (now : Nat) (c : CondSet) : (x.toConditional now c).resets = x.resets := by
  unfold Health.toConditional
  split
  · rfl
  · split <;> rfl

/-- A stack that is on, and not in reset. -/
def Stack.serves (k : Stack) : Prop := k.resetting = false ∧ k.pwr = .on

section

variable {s t u : State} {h n p : Nat}

/-- What rebuilding cells and replaying steps leaves: the registers of resets, the resets counted at each position, and the stacks that
serve. -/
structure State.KeepsResets (s t : State) : Prop where
  resets : t.resets = s.resets
  counted : ∀ q, (t.pos q).resets = (s.pos q).resets
  serves : ∀ k, (s.stack k).serves → (t.stack k).serves

namespace State.KeepsResets

theorem refl : s.KeepsResets s := ⟨rfl, fun _ => rfl, fun _ => id⟩

theorem trans (a : s.KeepsResets t) (b : t.KeepsResets u) : s.KeepsResets u :=
  ⟨b.resets.trans a.resets, fun q => (b.counted q).trans (a.counted q), fun k hk => b.serves k (a.serves k hk)⟩

theorem of_frame (hresets : t.resets = s.resets) (hhealth : t.health = s.health) (hstk : t.stk = s.stk) : s.KeepsResets t :=
  ⟨hresets, fun q => by rw [State.pos, hhealth]; rfl, fun k hk => by rw [State.stack, hstk]; exact hk⟩

theorem of_replies (a : s.Replies t) : s.KeepsResets t := by
  obtain ⟨_, _, _, rfl⟩ := a.frame
  exact of_frame rfl rfl rfl

theorem modPos (a : s.KeepsResets t) (q : Nat) (f : Health → Health) (hf : ∀ x, (f x).resets = x.resets := by intro; rfl) :
    s.KeepsResets (t.modPos q f) := by
  refine a.trans ⟨rfl, fun r => ?_, fun _ => id⟩
  rw [State.pos_modPos]
  split
  · next hr => rw [hf, hr]
  · rfl

theorem modStack (a : s.KeepsResets t) (k : Nat) (f : Stack → Stack)
    (hf : ∀ x, x.serves → (f x).serves := by intro _ hx; exact hx) : s.KeepsResets (t.modStack k f) := by
  refine a.trans ⟨rfl, fun _ => rfl, fun j hj => ?_⟩
  rw [State.stack_modStack]
  split
  · next hk => exact hf _ (hk ▸ hj)
  · exact hj

theorem modHob (a : s.KeepsResets t) (k : Nat) (f : Hob → Hob) : s.KeepsResets (t.modHob k f) := a.trans (of_frame rfl rfl rfl)
theorem modCell (a : s.KeepsResets t) (q : Nat) (f : Cell → Cell) : s.KeepsResets (t.modCell q f) := a.trans (of_frame rfl rfl rfl)
theorem setCell (a : s.KeepsResets t) (q : Nat) (c : Cell) : s.KeepsResets (t.setCell q c) := a.trans (of_frame rfl rfl rfl)
theorem modRouter (a : s.KeepsResets t) (q : Nat) (f : Router → Router) : s.KeepsResets (t.modRouter q f) := a.trans (of_frame rfl rfl rfl)
theorem modLnp (a : s.KeepsResets t) (q : Nat) (f : Lnp → Lnp) : s.KeepsResets (t.modLnp q f) := a.trans (of_frame rfl rfl rfl)

theorem setTxns (a : s.KeepsResets t) (l : List Txn) : s.KeepsResets { t with txns := l } := a.trans (of_frame rfl rfl rfl)
theorem setRdrs (a : s.KeepsResets t) (l : Tab Rdr) : s.KeepsResets (t.setRdrs l) := a.trans (of_frame rfl rfl rfl)
theorem emit (a : s.KeepsResets t) (o : Out) : s.KeepsResets (t.emit o) := a.trans (of_frame rfl rfl rfl)

theorem ite {c : Prop} [Decidable c] {v : State} (a : s.KeepsResets t) (b : s.KeepsResets v) : s.KeepsResets (if c then t else v) := by
  split
  · exact a
  · exact b

/-- A walk that carries a state beside other data keeps what each of its steps keeps. -/
theorem walk {α σ : Type} (π : σ → State) (f : σ → α → σ) (hf : ∀ v x, (π v).KeepsResets (π (f v x))) (l : List α) {v : σ}
    (a : s.KeepsResets (π v)) : s.KeepsResets (π (l.foldl f v)) := by
  induction l generalizing v with
  | nil => exact a
  | cons x xs ih => exact ih (a.trans (hf v x))

theorem foldl {α : Type} (f : State → α → State) (hf : ∀ v x, State.KeepsResets v (f v x)) (l : List α) (a : s.KeepsResets t) :
    s.KeepsResets (l.foldl f t) := a.walk id f hf l

theorem each {α : Type} (f : State → α → State) (hf : ∀ v x, State.KeepsResets v (f v x)) (l : List α) (a : s.KeepsResets t) :
    s.KeepsResets (t.each l f) := a.walk id f hf l

theorem dropLandings (a : s.KeepsResets t) (h n : Nat) : s.KeepsResets (t.dropLandings h n) :=
  a.trans (of_replies (Replies.refl.dropLandings h n))

/-! What the shared operations leave is in their frames. -/

theorem avlStart (a : s.KeepsResets t) (part key : Nat) : s.KeepsResets (t.avlStart part key) := a.trans (of_frame (by simp) (by simp) (by simp))
theorem interrupt (a : s.KeepsResets t) : s.KeepsResets t.interrupt := a.trans (of_frame rfl rfl rfl)
theorem holdFor (a : s.KeepsResets t) (h cause : Nat) : s.KeepsResets (t.holdFor h cause) := a.trans (of_frame (by simp) (by simp) (by simp))
theorem holdNow (a : s.KeepsResets t) (h cause : Nat) : s.KeepsResets (t.holdNow h cause) := a.trans (of_frame (by simp) (by simp) (by simp))
theorem endHold (a : s.KeepsResets t) (h cause : Nat) : s.KeepsResets (t.endHold h cause) := a.modHob ..
theorem logDev (a : s.KeepsResets t) (code hob : Nat) (args : List Nat) : s.KeepsResets (t.logDev code hob args) :=
  a.trans (of_frame (by simp) (by simp) (by simp))
theorem eccReport (a : s.KeepsResets t) (h : Nat) (l : List EccLine) : s.KeepsResets (t.eccReport h l) :=
  a.trans (of_frame (by simp) (by simp) (by simp))
theorem stopHob (a : s.KeepsResets t) (h status detail info0 info1 : Nat) : s.KeepsResets (t.stopHob h status detail info0 info1) :=
  a.trans (of_frame (by simp) (by simp) (by simp))
theorem sendPacket (a : s.KeepsResets t) (via : Nat) (f : Frame) : s.KeepsResets (t.sendPacket via f) :=
  a.trans (of_frame (by simp) (by simp) (by simp))

theorem lid (a : s.KeepsResets t) (p : Nat) (test : Bool) : s.KeepsResets (t.lid p test) := by
  unfold State.lid
  dsimp only
  refine a.ite (ite ((a.modPos ..).logDev ..) ?_)
  split
  · exact ((a.modPos ..).logDev ..).holdFor ..
  · exact ((a.modPos ..).logDev ..).setCell ..

/-! Reads of stack memory wake the stack and count the errors that they meet. -/

theorem serves_wake {k : Stack} (now : Nat) (hk : k.serves) : (k.wake now).serves := by
  obtain ⟨hreset, hpwr⟩ := hk
  exact ⟨hreset, by simp [Stack.wake, hpwr]⟩

theorem touchStack (a : s.KeepsResets t) (k : Nat) : s.KeepsResets (t.touchStack k) := a.modStack _ _ fun _ => serves_wake _

theorem readLine (a : s.KeepsResets t) (dev : Nat) : s.KeepsResets (t.readLine dev).2 := by
  have hmet : ∀ errs lines, s.KeepsResets { t with errs := errs, lines := lines } := fun _ _ => a.trans (of_frame rfl rfl rfl)
  unfold State.readLine
  dsimp only
  split
  · exact (hmet _ _).modStack (bits 40 37 dev) (fun k => k.uncorrectable dev t.lifeMs)
  · exact ite ((hmet _ t.lines).modStack (bits 40 37 dev) (fun k => k.corrected dev t.lifeMs)) a

theorem readLines (a : s.KeepsResets t) (key dev n : Nat) : s.KeepsResets (t.readLines key dev n).2.2.2 :=
  walk (fun x : List Nat × List Nat × List Byte × State => x.2.2.2) _ (fun _ _ => refl.readLine _) _ a

theorem fillBlock (a : s.KeepsResets t) (h p slot base block : Nat) : s.KeepsResets (t.fillBlock h p slot base block).2 := by
  unfold State.fillBlock
  dsimp only
  split
  · exact a
  · next dev _ =>
    have hread := (a.touchStack (relStack (base + 4096 * block))).readLines (t.hob h).key dev 64
    exact hread.trans (of_frame (by simp) (by simp) (by simp))

theorem fillSlot (a : s.KeepsResets t) (h n slot : Nat) : s.KeepsResets (t.fillSlot h n slot) := by
  have hfill : ∀ (p k : Nat) (l : List Nat), s.KeepsResets (l.foldl (fun (x : List Nat × State) j =>
      (x.1 ++ (x.2.fillBlock h p slot k j).1, (x.2.fillBlock h p slot k j).2)) ([], t)).2 :=
    fun p k l => walk (fun x : List Nat × State => x.2) _ (fun v j => by exact refl.fillBlock ..) l (v := ([], t)) a
  unfold State.fillSlot
  dsimp only
  exact ite (a.modHob ..) (ite ((hfill ..).modHob ..) (((hfill ..).modHob ..).eccReport ..))

theorem fillResident (a : s.KeepsResets t) (h n : Nat) : s.KeepsResets (t.fillResident h n) :=
  a.each _ (fun _ _ => ite (refl.fillSlot ..) refl) _

/-! Replays and rebuilds. -/

theorem cancelCapture (a : s.KeepsResets t) (h : Nat) : s.KeepsResets (t.cancelCapture h) := by
  have hshadows : s.KeepsResets (t.dropShadows h) :=
    each _ (fun _ _ => by exact refl.modStack ..) _ (a.setRdrs _)
  exact ite (hshadows.modHob ..) a

theorem stopUncommitted (a : s.KeepsResets t) (h : Nat) (e : End) : s.KeepsResets (t.stopUncommitted h e) :=
  setTxns ((((ite a.interrupt a).cancelCapture h).modHob ..).stopHob ..) _

theorem stopFailed (a : s.KeepsResets t) (h : Nat) (e : End) : s.KeepsResets (t.stopFailed h e) :=
  (ite (a.eccReport ..) a).stopUncommitted h e

theorem tellPeers (a : s.KeepsResets t) (h kind : Nat) (what : String) (vals : List Nat) : s.KeepsResets (t.tellPeers h kind what vals) :=
  a.foldl _ (fun _ _ => (refl.emit _).sendPacket ..) _

theorem lidBadLinks (a : s.KeepsResets t) (q : Nat) : s.KeepsResets (t.lidBadLinks q) := a.each _ (fun _ _ => refl.lid ..) _

theorem rewind (a : s.KeepsResets t) (h : Nat) (clear : Bool) : s.KeepsResets (t.rewind h clear) := by
  unfold State.rewind
  dsimp only
  refine each _ (fun v n => ((refl.dropLandings h n).modCell ..).modRouter ..) _ ?_
  exact each _ (fun v q => refl.modLnp ..) _ (setTxns ((a.cancelCapture h).modHob ..) _)

theorem endHold8 (a : s.KeepsResets t) (h : Nat) : s.KeepsResets (t.endHold8 h) := ite a (a.endHold ..)

theorem awaitHearth (a : s.KeepsResets t) (h : Nat) : s.KeepsResets (t.awaitHearth h) := ite ((a.holdNow ..).avlStart ..) a

theorem replay (a : s.KeepsResets t) (h status n : Nat) : s.KeepsResets (t.replay h status n) := by
  unfold State.replay State.replayAt
  dsimp only
  have hmark : s.KeepsResets (if (t.hob h).replay.last == some (status, t.posOf h n) then t.markRecurred (t.posOf h n) status else t) :=
    ite (a.modPos ..) a
  refine ite a (ite ((a.awaitHearth h).modHob ..) (ite (hmark.stopFailed ..) ?_))
  refine modHob (endHold8 ?_ h) ..
  have hsteered : ∀ l (u : State), s.KeepsResets u → s.KeepsResets (u.each l fun v q => (v.modRouter q Router.steer).lidBadLinks q) :=
    fun l _ b => b.each _ (fun _ _ => (refl.modRouter ..).lidBadLinks _) l
  have hrewound := ((((hmark.holdNow h 8).avlStart 1 h).tellPeers h 2 "fence failed" [(t.hob h).fenceLast + 1]).rewind h false).modHob h
  exact ite ((hsteered _ _ (hrewound _)).fillResident h n) (hsteered _ _ (hrewound _))

theorem addHist (a : s.KeepsResets t) (q : Nat) (e : Hist) : s.KeepsResets (t.addHist q e) := a.modPos ..

theorem report (a : s.KeepsResets t) (h status seq : Nat) (bytes : List Byte) : s.KeepsResets (t.report h status seq bytes) :=
  a.trans (of_frame (by simp) (by simp) (by simp))

theorem lateTaint (a : s.KeepsResets t) (q cause : Nat) : s.KeepsResets (t.lateTaint q cause) := by
  refine a.foldl _ (fun v h => ?_) _
  unfold State.taintHob
  dsimp only
  split
  · exact refl
  · have hnext : v.KeepsResets v.nextReport.2 := of_frame rfl rfl rfl
    exact hnext.report ..

theorem commonCause (a : s.KeepsResets t) (q : Nat) : s.KeepsResets (t.commonCause q) := ite a (a.trans (of_frame rfl rfl rfl))

theorem scoreLid (a : s.KeepsResets t) (q : Nat) : s.KeepsResets (t.scoreLid q) := by
  have hlids : ∀ expel, s.KeepsResets { t with expel := expel } := fun _ => a.trans (of_frame rfl rfl rfl)
  exact ite (((hlids _).modPos _ _ fun x => x.toConditional_resets ..).commonCause _) ((hlids _).lid ..)

theorem charge (a : s.KeepsResets t) (q code weight unit : Nat) : s.KeepsResets (t.charge q code weight unit) := by
  unfold State.charge
  extract_lets now s1 x c score y s2 s3
  have hnoted : s.KeepsResets s2 := by
    refine trans (a.addHist q (t.histRec q code weight unit)) ⟨rfl, fun r => ?_, fun _ => id⟩
    rw [State.pos_setPos]
    split
    · next hr => rw [hr]; rfl
    · rfl
  have htainted : s.KeepsResets s3 := ite (hnoted.lateTaint ..) hnoted
  exact ite (htainted.scoreLid q) (ite (htainted.modPos _ _ fun x => x.toConditional_resets ..) htainted)

theorem rebuildCell (a : s.KeepsResets t) (h n : Nat) : s.KeepsResets (t.rebuildCell h n) := ((a.modCell ..).modRouter ..).fillResident h n

theorem endDecant (a : s.KeepsResets t) (h : Nat) : s.KeepsResets (t.endDecant h) := ite a (a.endHold ..)

theorem rebuildHob (a : s.KeepsResets t) (h : Nat) (ps : List Nat) (imageOk : Bool) : s.KeepsResets (t.rebuildHob h ps imageOk) := by
  have hmoved : ∀ l, s.KeepsResets (t.each l fun v n => v.modCell (v.posOf h n) fun c => { c with moving := false }) :=
    a.each _ fun _ _ => refl.modCell ..
  exact ite (hmoved _) (ite (ite ((hmoved _).stopUncommitted ..) (hmoved _))
    (replay (each _ (fun _ _ => refl.rebuildCell ..) _ (hmoved _)) ..))

theorem rebuildAt (a : s.KeepsResets t) (ps : List Nat) (imageOk : Bool) : s.KeepsResets (t.rebuildAt ps imageOk) :=
  a.each _ (fun _ h => ((refl.rebuildHob h ps imageOk).endDecant h).endHold8 h) _

end State.KeepsResets

end

end Sys2Proof.Machine
end

section
/-! Resets of a cell's domains, of routers, hobs, ports and stack controllers, and their ends (R67, R200, R241, R254, R326 to R333). -/

namespace Sys2Proof.Machine

open Sys2Proof

/-! ### A reset begins and ends -/

theorem State.inReset_of_resets {s t : State} (h : t.resets = s.resets) (dom idx : Nat) : t.inReset dom idx = s.inReset dom idx := by
  rw [State.inReset, h, State.inReset]

theorem State.beginReset_resets (s : State) (dom idx why : Nat) : (s.beginReset dom idx why).resets = { s.resets with
    last := BitVec.ofNat 4 dom, why := BitVec.ofNat 8 why, running := (dom, idx, s.now) :: s.resets.running } := by
  simp [State.beginReset]

theorem State.inReset_of_begun {s t : State} {dom idx why : Nat} (h : t.resets = (s.beginReset dom idx why).resets) :
    t.inReset dom idx = true := by
  rw [State.inReset, h, State.beginReset_resets]
  simp

theorem State.inReset_of_finished {s t : State} {dom idx : Nat} (h : t.resets = (s.finishReset dom idx).resets) :
    t.inReset dom idx = false := by
  rw [State.inReset, h, List.any_eq_false]
  intro r hr
  have hleft := (List.mem_filter.mp hr).2
  exact Bool.eq_false_iff.mp ((Bool.not_eq_true' _).mp hleft)

/-- A reset asked for is performed where it is not under way, the hearth is in service and no capture runs (R327, R334). -/
theorem State.askReset_performs {s : State} {dom idx : Nat} (why : Nat) (hin : s.inReset dom idx = false)
    (hup : s.resets.hearthDown = false) (hash : s.ashRun = none) : s.askReset dom idx why = s.performReset dom idx why := by
  simp [State.askReset, hin, hup, hash]

/-! ### Cells, racks and quarters -/

/-- One position cleared (R63, R320). -/
def State.clearPos (s : State) (p : Nat) : State :=
  let s1 := match (s.cell p).hob with
    | some h => s.dropLandings h (s.cell p).n
    | none => s
  (s1.modCell p fun c => if c.hob.isNone then {} else { c.blank with moving := true }).modPos p Health.endRow

theorem State.clearAt_eq (s : State) (ps : List Nat) : s.clearAt ps = s.each ps State.clearPos := rfl

/-- A position cleared loses its scratchpad; the registers of resets and every cell's hob stay, and no other scratchpad changes. -/
theorem State.clearPos_spec (s : State) (p : Nat) :
    (s.clearPos p).resets = s.resets ∧ (∀ q, ((s.clearPos p).cell q).hob = (s.cell q).hob) ∧
      ∀ q, ((s.clearPos p).cell q).scratch = if q = p then [] else (s.cell q).scratch := by
  have hended : s.Replies (match (s.cell p).hob with
      | some h => s.dropLandings h (s.cell p).n
      | none => s) := by
    split
    · exact State.Replies.refl.dropLandings ..
    · exact State.Replies.refl
  unfold State.clearPos
  extract_lets s1
  have h1 : s.Replies s1 := hended
  refine ⟨?_, fun q => ?_, fun q => ?_⟩
  · obtain ⟨_, _, _, heq⟩ := h1.frame
    simp [heq]
  · rw [← h1.hob q]
    simp only [State.modPos_others, State.cell_modCell]
    split
    · next hq =>
      subst hq
      split
      · next hfree => exact (Option.isNone_iff_eq_none.mp hfree).symm
      · rfl
    · rfl
  · rw [← h1.scratch q]
    simp only [State.modPos_others, State.cell_modCell]
    split
    · split <;> rfl
    · rfl

theorem State.clearAt_resets (s : State) (ps : List Nat) : (s.clearAt ps).resets = s.resets :=
  State.each_resets _ _ _ fun v p => (v.clearPos_spec p).1

theorem State.clearAt_hob (s : State) (ps : List Nat) (q : Nat) : ((s.clearAt ps).cell q).hob = (s.cell q).hob :=
  State.each_proj (fun v => (v.cell q).hob) _ _ _ fun v p => (v.clearPos_spec p).2.1 q

/-- What one step of a walk brings about and every step keeps holds at its end. -/
theorem State.each_brings {α : Type} {P : State → Prop} {f : State → α → State} (hkeep : ∀ v x, P v → P (f v x)) {a : α}
    (hbring : ∀ v, P (f v a)) {l : List α} (ha : a ∈ l) (s : State) : P (s.each l f) := by
  have hrest : ∀ (l : List α) (v : State), P v → P (v.each l f) := fun l => by
    induction l with
    | nil => exact fun _ hv => hv
    | cons x xs ih => exact fun v hv => ih _ (hkeep v x hv)
  induction l generalizing s with
  | nil => cases ha
  | cons x xs ih =>
    rcases List.mem_cons.mp ha with rfl | hmem
    · exact hrest xs _ (hbring s)
    · exact ih hmem _

theorem State.clearAt_scratch (s : State) {ps : List Nat} {q : Nat} (hq : q ∈ ps) : ((s.clearAt ps).cell q).scratch = [] := by
  rw [State.clearAt_eq]
  refine State.each_brings (P := fun v => (v.cell q).scratch = []) (fun v p hv => ?_) (fun v => ?_) hq s
  · rw [(v.clearPos_spec p).2.2, hv, ite_self]
  · rw [(v.clearPos_spec q).2.2, if_pos rfl]

theorem State.each_modRouter_eq (f : Router → Router) (ps : List Nat) (s : State) :
    ∃ routers, (s.each ps fun v p => v.modRouter p f) = { s with routers := routers } := by
  induction ps generalizing s with
  | nil => exact ⟨_, rfl⟩
  | cons p ps ih =>
    obtain ⟨r, hr⟩ := ih (s.modRouter p f)
    exact ⟨r, hr⟩

theorem State.dropWorms_eq (s : State) (ps : List Nat) : ∃ routers, s.dropWorms ps = { s with routers := routers } := by
  unfold State.dropWorms
  dsimp only
  split
  · exact ⟨_, rfl⟩
  · exact ⟨_, rfl⟩

theorem State.clearIslands_eq (s : State) (ps : List Nat) : ∃ routers, s.clearIslands ps = { s with routers := routers } := by
  obtain ⟨_, hworms⟩ := s.dropWorms_eq ps
  obtain ⟨r, hr⟩ := State.each_modRouter_eq Router.cleared ps (s.dropWorms ps)
  exact ⟨r, hr.trans (by rw [hworms])⟩

theorem State.clearIslands_resets (s : State) (ps : List Nat) : (s.clearIslands ps).resets = s.resets := by
  obtain ⟨_, h⟩ := s.clearIslands_eq ps
  rw [h]

theorem State.clearIslands_cell (s : State) (ps : List Nat) (q : Nat) : (s.clearIslands ps).cell q = s.cell q := by
  obtain ⟨_, h⟩ := s.clearIslands_eq ps
  rw [h]
  rfl

/-- A cell's reset is the latest one, and has begun; the cell keeps its work and loses its scratchpad (R326, R329). -/
theorem State.resetCell_spec (s : State) (p why : Nat) :
    (s.resetCell p why).inReset 0 p = true ∧ (s.resetCell p why).resets.last = 0 ∧
      ((s.resetCell p why).cell p).hob = (s.cell p).hob ∧ ((s.resetCell p why).cell p).scratch = [] := by
  have hresets := State.clearAt_resets ((s.holdAt ((Pos.ofIdx p).rack.all.map Pos.idx)).beginReset 0 p why) [p]
  refine ⟨State.inReset_of_begun hresets, ?_, (State.clearAt_hob ..).trans ?_, State.clearAt_scratch _ (List.mem_singleton_self p)⟩
  · exact (congrArg Resets.last hresets).trans (by rw [State.beginReset_resets]; rfl)
  · simp [State.cell, State.holdAt]

theorem State.resetRack_spec (s : State) (i why : Nat) :
    (s.resetRack i why).inReset 1 i = true ∧ (s.resetRack i why).resets.why = BitVec.ofNat 8 why ∧
      ∀ p ∈ (Rack.ofIdx i).all.map Pos.idx, ((s.resetRack i why).cell p).scratch = [] := by
  have hresets := (State.clearIslands_resets _ [s.gapPos (Rack.ofIdx i)]).trans (State.clearAt_resets
    ((s.holdAt ((Rack.ofIdx i).all.map Pos.idx)).beginReset 1 i why) ((Rack.ofIdx i).all.map Pos.idx))
  refine ⟨State.inReset_of_begun hresets, ?_, fun p hp => ?_⟩
  · exact (congrArg Resets.why hresets).trans (by rw [State.beginReset_resets])
  · exact (congrArg Cell.scratch (State.clearIslands_cell ..)).trans (State.clearAt_scratch _ hp)

theorem State.resetQuarter_spec (s : State) (q why : Nat) :
    (s.resetQuarter q why).inReset 5 q = true ∧ (s.resetQuarter q why).resets.why = BitVec.ofNat 8 why ∧
      ∀ p ∈ quarterPos q, ((s.resetQuarter q why).cell p).scratch = [] := by
  unfold State.resetQuarter
  generalize quarterPos q = ps
  extract_lets _ s1
  have hresets : s1.resets = ((s.holdAt ps).beginReset 5 q why).resets := (State.clearIslands_resets ..).trans (State.clearAt_resets ..)
  refine ⟨State.inReset_of_begun hresets, ?_, fun p hp => ?_⟩
  · exact (congrArg Resets.why hresets).trans (by rw [State.beginReset_resets])
  · exact (congrArg Cell.scratch (State.clearIslands_cell _ ps p)).trans (State.clearAt_scratch _ hp)

theorem Rack.ofIdx_idx (r : Rack) : Rack.ofIdx r.idx = r := by
  obtain ⟨row, k⟩ := r
  have hk := k.isLt
  have hdiv : (row.val * 12 + k.val) / 12 = row.val := by omega
  have hmod : (row.val * 12 + k.val) % 12 = k.val := by omega
  simp [Rack.ofIdx, Rack.idx, hdiv, hmod]

/-- A test-driven lid lids every position that is not fused off (R286 to R288). -/
theorem State.lid_state (s : State) (p : Nat) (test : Bool) (h : (s.pos p).state ≠ .fusedOff) : ((s.lid p test).pos p).state = .lidded := by
  unfold State.lid
  dsimp only
  split
  · next hkept =>
    simp only [h, decide_false, Bool.false_or, Bool.and_eq_true, decide_eq_true_eq] at hkept
    exact hkept.1
  · split
    · next hlid => simpa using hlid
    · split <;> simp

end Sys2Proof.Machine
end

section
/-! Router islands cleared, and a hob whose run ends and whose recipe is unloaded (R172, R329, R333). -/

namespace Sys2Proof.Machine

open Sys2Proof

/-! ### Router islands -/

theorem Tab.get_map {α : Type} (d : α) (f : α → α) (hf : f d = d) (t : Tab α) (i : Nat) :
    Tab.get d (t.map fun e => (e.1, f e.2)) i = f (t.get d i) := by
  induction t with
  | nil => exact hf.symm
  | cons e t ih =>
    obtain ⟨k, v⟩ := e
    simp only [List.map_cons, Tab.get, ih]
    split <;> rfl

/-- A router whose worms of these messages have let go. -/
def Router.without (r : Router) (lost : List Nat) : Router := { r with worm := r.worm.filter fun w => !lost.contains (w.2 - 1) }

theorem State.dropWorms_router (s : State) (ps : List Nat) (q : Nat) :
    ∃ worm, (s.dropWorms ps).router q = { s.router q with worm := worm } := by
  unfold State.dropWorms
  extract_lets lost
  split
  · exact ⟨_, rfl⟩
  · exact ⟨((s.router q).without lost).worm, Tab.get_map ({} : Router) (Router.without · lost) rfl s.routers q⟩

/-- An island without flits and without worms takes no other router's channels along (R172). -/
theorem State.dropWorms_quiet (s : State) (p : Nat) (hdyn : (s.router p).dyn = []) (hworm : (s.router p).worm = []) :
    s.dropWorms [p] = s := by
  simp [State.dropWorms, hdyn, hworm]

theorem State.clearIsland_router (s : State) (p q : Nat) :
    (s.clearIslands [p]).router q = if q = p then ((s.dropWorms [p]).router p).cleared else (s.dropWorms [p]).router q := by
  change ((s.dropWorms [p]).modRouter p Router.cleared).router q = _
  rw [State.router_modRouter]

theorem State.clearIsland_spec (s : State) (p : Nat) :
    (∀ q, q ≠ p → (s.clearIslands [p]).router q = { s.router q with worm := ((s.clearIslands [p]).router q).worm }) ∧
    ((s.router p).dyn = [] → (s.router p).worm = [] → ∀ q, q ≠ p → (s.clearIslands [p]).router q = s.router q) ∧
    (s.clearIslands [p]).router p = (s.router p).cleared := by
  refine ⟨fun q hq => ?_, fun hdyn hworm q hq => ?_, ?_⟩
  · obtain ⟨worm, hr⟩ := s.dropWorms_router [p] q
    rw [State.clearIsland_router, if_neg hq, hr]
  · rw [State.clearIsland_router, if_neg hq, s.dropWorms_quiet p hdyn hworm]
  · obtain ⟨worm, hr⟩ := s.dropWorms_router [p] p
    rw [State.clearIsland_router, if_pos rfl, hr]
    rfl

/-- Where no bridge passes, no far cell is placed again. -/
theorem State.bridgesAt_none {s : State} {p : Nat} (h : s.bridged p = false) : s.bridgesAt p = [] := by
  simp only [State.bridged, List.any_eq_false] at h
  simp only [State.bridgesAt, List.flatMap_eq_nil_iff, List.map_eq_nil_iff, List.filter_eq_nil_iff]
  intro k hk f hf hpass
  rw [Bool.and_eq_true] at hpass
  exact h k hk (List.any_eq_true.mpr ⟨f, hf, hpass.1⟩)

/-! ### Hobs -/

/-- What a hob keeps where its run ends and its recipe stays. -/
def Hob.anchor (z : Hob) : Option Recipe × Option (BitVec 384) × Option Shape × Tab Ext × Nat × List Far :=
  (z.recipe, z.resume, z.shape, z.ext, z.fenceLast, z.fars)

section

variable {s t u : State} {h : Nat}

/-- What the end of a hob's run leaves: every other hob, the hob's anchor, the cells, the racks and the registers of resets. -/
structure State.KeepsAnchor (h : Nat) (s t : State) : Prop where
  others : ∀ k, k ≠ h → t.hob k = s.hob k
  anchor : (t.hob h).anchor = (s.hob h).anchor
  cells : t.cells = s.cells
  racks : t.racks = s.racks
  resets : t.resets = s.resets

namespace State.KeepsAnchor

theorem refl : State.KeepsAnchor h s s := ⟨fun _ _ => rfl, rfl, rfl, rfl, rfl⟩

theorem trans (a : State.KeepsAnchor h s t) (b : State.KeepsAnchor h t u) : State.KeepsAnchor h s u :=
  ⟨fun k hk => (b.others k hk).trans (a.others k hk), b.anchor.trans a.anchor, b.cells.trans a.cells, b.racks.trans a.racks,
    b.resets.trans a.resets⟩

theorem of_hobs (hhobs : t.hobs = s.hobs) (hcells : t.cells = s.cells) (hracks : t.racks = s.racks) (hresets : t.resets = s.resets) :
    State.KeepsAnchor h s t :=
  ⟨fun k _ => State.hob_of_hobs hhobs k, congrArg Hob.anchor (State.hob_of_hobs hhobs h), hcells, hracks, hresets⟩

theorem modHob (a : State.KeepsAnchor h s t) (f : Hob → Hob) (hf : ∀ z, (f z).anchor = z.anchor := by intro; rfl) :
    State.KeepsAnchor h s (t.modHob h f) :=
  a.trans ⟨fun k hk => by rw [State.hob_modHob, if_neg hk], by rw [State.hob_modHob, if_pos rfl, hf], rfl, rfl, rfl⟩

theorem each {α : Type} (a : State.KeepsAnchor h s t) (f : State → α → State) (hf : ∀ v x, State.KeepsAnchor h v (f v x)) (l : List α) :
    State.KeepsAnchor h s (t.each l f) := by
  induction l generalizing t with
  | nil => exact a
  | cons x xs ih => exact ih (a.trans (hf t x))

theorem complete (a : State.KeepsAnchor h s t) (ref : CmdRef) (op status detail info0 info1 : Nat) :
    State.KeepsAnchor h s (t.complete ref op status detail info0 info1) :=
  a.trans (of_hobs (by simp) (by simp) (by simp) (by simp))

theorem failWaits (a : State.KeepsAnchor h s t) : State.KeepsAnchor h s (t.failWaits h) :=
  each (a.modHob _) _ (fun _ _ => refl.complete ..) _

theorem endRun (a : State.KeepsAnchor h s t) (status detail info0 info1 : Nat) :
    State.KeepsAnchor h s (t.endRun h status detail info0 info1) := by
  refine each (each (a.modHob _) _ (fun v q => ?_) _) _ (fun _ _ => refl.complete ..) _
  split
  · exact refl.complete ..
  · exact refl.complete ..

theorem dropShadows (a : State.KeepsAnchor h s t) : State.KeepsAnchor h s (t.dropShadows h) := by
  unfold State.dropShadows
  extract_lets mine s1
  have h1 : State.KeepsAnchor h s s1 := a.trans (of_hobs rfl rfl rfl rfl)
  refine h1.each _ (fun v e => ?_) _
  exact of_hobs rfl rfl rfl rfl

theorem cancelCapture (a : State.KeepsAnchor h s t) : State.KeepsAnchor h s (t.cancelCapture h) := by
  unfold State.cancelCapture
  dsimp only
  split
  · exact a.dropShadows.modHob _
  · exact a

theorem hobEvent (a : State.KeepsAnchor h s t) (status detail info1 : Nat) : State.KeepsAnchor h s (t.hobEvent h status detail info1) := by
  have hevent : ∀ g : Grant, State.KeepsAnchor h s (t.eventOn g.hport.toNat (h + 1) 0 status detail 0 info1).2 :=
    fun g => a.trans (of_hobs (by simp) (by simp) (by simp) (by simp))
  unfold State.hobEvent
  dsimp only
  split
  · exact hevent _
  · exact (hevent _).modHob _

theorem setHobSt (a : State.KeepsAnchor h s t) (st : HobState) : State.KeepsAnchor h s (t.setHobSt h st) := by
  unfold State.setHobSt
  extract_lets _ s1
  have h1 : State.KeepsAnchor h s s1 := a.modHob _
  split
  · exact h1
  · exact h1.hobEvent ..

theorem avlStop (a : State.KeepsAnchor h s t) (part key : Nat) : State.KeepsAnchor h s (t.avlStop part key) :=
  a.trans (of_hobs rfl rfl rfl rfl)

end State.KeepsAnchor

theorem State.setHobSt_st (s : State) (h : Nat) (st : HobState) : ((s.setHobSt h st).hob h).st = st := by
  have hset : ((s.modHob h fun x => { x with st := st }).hob h).st = st := by rw [State.hob_modHob, if_pos rfl]
  unfold State.setHobSt
  extract_lets _ s1
  split
  · exact hset
  · exact (State.hobEvent_proj Hob.st s1 h h (fun _ _ => rfl) ..).trans hset

theorem Hob.toLoading_anchor {y z : Hob} (h : y.anchor = z.anchor) : y.toLoading.anchor = z.toLoading.anchor := by
  simp only [Hob.anchor, Prod.mk.injEq] at h
  obtain ⟨hrecipe, hresume, hshape, hext, hfence, hfars⟩ := h
  simp [Hob.anchor, Hob.toLoading, Hob.unload, Hob.discard, *]

/-- A hob's run, loading, restore and capture ended, as HOB_RESET and a warm reset end them. -/
def State.abortHob (s : State) (h : Nat) : State :=
  let s1 := (s.failWaits h).endRun h stAborted 0 0 0
  let s2 := match (s.hob h).loading with
    | some r => s1.complete r 1 stAborted 0 0 0
    | none => s1
  let s3 := match (s.hob h).restore with
    | some r => s2.complete r.ref 8 stAborted 0 0 0
    | none => s2
  s3.cancelCapture h

theorem State.abortHob_keepsAnchor (s : State) (h : Nat) : State.KeepsAnchor h s (s.abortHob h) := by
  unfold State.abortHob
  extract_lets s1 s2 s3
  have h1 : State.KeepsAnchor h s s1 := State.KeepsAnchor.refl.failWaits.endRun ..
  have h2 : State.KeepsAnchor h s s2 := by
    simp only [s2]
    split
    · exact h1.complete ..
    · exact h1
  have h3 : State.KeepsAnchor h s s3 := by
    simp only [s3]
    split
    · exact h2.complete ..
    · exact h2
  exact h3.cancelCapture

/-- A hob in LOADING without the transfers that it asked for. -/
def State.enterLoading (s : State) (h : Nat) : State :=
  let s1 := { s with txns := s.txns.filter fun t => !t.crossingOf h, broadcasts := s.broadcasts.filter fun b => b.hob != some h }
  (((s1.setHobSt h .loading).avlStop 0 h).avlStop 1 h).avlStop 5 h

theorem State.enterLoading_spec (s : State) (h : Nat) :
    State.KeepsAnchor h s (s.enterLoading h) ∧ ((s.enterLoading h).hob h).st = .loading := by
  unfold State.enterLoading
  extract_lets s1
  have h1 : State.KeepsAnchor h s s1 := State.KeepsAnchor.of_hobs rfl rfl rfl rfl
  refine ⟨(((h1.setHobSt .loading).avlStop 0 h).avlStop 1 h).avlStop 5 h, ?_⟩
  simp only [State.avlStop_parts, State.setHobSt_st]

theorem State.hobToLoading_eq (s : State) (h : Nat) :
    s.hobToLoading h = ((s.abortHob h).modHob h Hob.toLoading).enterLoading h := rfl

/-- The run of a hob ends and its recipe is unloaded; its registers and its resume point stay (R333). -/
theorem State.hobToLoading_spec (s : State) (h : Nat) :
    (∀ k, k ≠ h → (s.hobToLoading h).hob k = s.hob k) ∧
      ((s.hobToLoading h).hob h).anchor = (s.hob h).toLoading.anchor ∧ ((s.hobToLoading h).hob h).st = .loading ∧
      (s.hobToLoading h).cells = s.cells ∧ (s.hobToLoading h).racks = s.racks ∧ (s.hobToLoading h).resets = s.resets := by
  have habort := s.abortHob_keepsAnchor h
  obtain ⟨henter, hst⟩ := ((s.abortHob h).modHob h Hob.toLoading).enterLoading_spec h
  rw [State.hobToLoading_eq]
  refine ⟨fun k hk => ?_, ?_, hst, henter.cells.trans habort.cells, henter.racks.trans habort.racks, henter.resets.trans habort.resets⟩
  · rw [henter.others k hk, State.hob_modHob, if_neg hk, habort.others k hk]
  · rw [henter.anchor, State.hob_modHob, if_pos rfl, Hob.toLoading_anchor habort.anchor]

end

theorem State.posOf_of_place {s t : State} {h : Nat} (hhob : (t.hob h).shape = (s.hob h).shape ∧ (t.hob h).fars = (s.hob h).fars)
    (hracks : t.racks = s.racks) (n : Nat) : t.posOf h n = s.posOf h n := by
  obtain ⟨hshape, hfars⟩ := hhob
  simp only [State.posOf, State.routerPos, State.homeOf, State.rack, Hob.rect, hshape, hfars, hracks]

/-- The cell of one logical position cleared, with the work that landed there (R333). -/
def State.blankAt (h : Nat) (s : State) (n : Nat) : State := (s.dropLandings h n).modCell (s.posOf h n) Cell.blank

theorem State.blankAt_spec (h : Nat) (s : State) (n : Nat) :
    (s.blankAt h n).hobs = s.hobs ∧ (s.blankAt h n).racks = s.racks ∧ (s.blankAt h n).resets = s.resets ∧
      ∀ p, ((s.blankAt h n).cell p).scratch = if p = s.posOf h n then [] else (s.cell p).scratch := by
  have hdrop : s.Replies (s.dropLandings h n) := State.Replies.refl.dropLandings ..
  obtain ⟨_, _, _, heq⟩ := hdrop.frame
  refine ⟨?_, ?_, ?_, fun p => ?_⟩
  · simp [State.blankAt, heq]
  · simp [State.blankAt, heq]
  · simp [State.blankAt, heq]
  · rw [State.blankAt, State.cell_modCell, ← hdrop.scratch p]
    split
    · rfl
    · rfl

theorem State.blankAt_posOf (h : Nat) (s : State) (n m : Nat) : (s.blankAt h n).posOf h m = s.posOf h m := by
  obtain ⟨hhobs, hracks, -, -⟩ := s.blankAt_spec h n
  exact State.posOf_of_place (by rw [State.hob_of_hobs hhobs]; exact ⟨rfl, rfl⟩) hracks m

/-- The cells and the routers of a hob's rectangle cleared (R172, R333). -/
def State.blankHob (s : State) (h : Nat) : State :=
  let s2 := s.each (s.nums h) (State.blankAt h)
  s2.clearIslands ((s2.racksOf h).flatMap fun r => r.all.map Pos.idx)

theorem State.resetHob_eq (s : State) (h why : Nat) :
    s.resetHob h why = ((s.beginReset 6 h why).hobToLoading h).blankHob h := rfl

theorem State.blankHob_spec (s : State) (h : Nat) :
    (∀ k, (s.blankHob h).hob k = s.hob k) ∧ (s.blankHob h).resets = s.resets ∧
      ∀ n ∈ s.nums h, ((s.blankHob h).cell (s.posOf h n)).scratch = [] := by
  unfold State.blankHob
  extract_lets s2
  have hhobs : s2.hobs = s.hobs := State.each_proj State.hobs _ _ _ fun v n => (v.blankAt_spec h n).1
  have hresets : s2.resets = s.resets := State.each_resets _ _ _ fun v n => (v.blankAt_spec h n).2.2.1
  have hpos : ∀ n, s2.posOf h n = s.posOf h n := fun n =>
    State.each_proj (fun v => v.posOf h n) _ _ _ fun v m => v.blankAt_posOf h m n
  have hscratch : ∀ n ∈ s.nums h, (s2.cell (s2.posOf h n)).scratch = [] := fun n hn => by
    refine State.each_brings (P := fun v => (v.cell (v.posOf h n)).scratch = []) (fun v m hv => ?_) (fun v => ?_) hn s
    · rw [State.blankAt_posOf, (v.blankAt_spec h m).2.2.2, hv, ite_self]
    · rw [State.blankAt_posOf, (v.blankAt_spec h n).2.2.2, if_pos rfl]
  refine ⟨fun k => ?_, (State.clearIslands_resets ..).trans hresets, fun n hn => ?_⟩
  · obtain ⟨_, heq⟩ := s2.clearIslands_eq ((s2.racksOf h).flatMap fun r => r.all.map Pos.idx)
    rw [heq]
    exact State.hob_of_hobs hhobs k
  · rw [State.clearIslands_cell, ← hpos n]
    exact hscratch n hn

/-- The reset of a hob unloads its recipe and clears its cells; its registers stay (R333). -/
theorem State.resetHob_spec (s : State) (h why : Nat) :
    (∀ k, k ≠ h → (s.resetHob h why).hob k = s.hob k) ∧ (s.resetHob h why).inReset 6 h = true ∧
      ((s.resetHob h why).hob h).st = .loading ∧ ((s.resetHob h why).hob h).anchor = (s.hob h).toLoading.anchor ∧
      ∀ n ∈ s.nums h, ((s.resetHob h why).cell (s.posOf h n)).scratch = [] := by
  have hbegin : ∀ k, (s.beginReset 6 h why).hob k = s.hob k := fun k => State.hob_of_hobs (by simp [State.beginReset]) k
  have hbracks : (s.beginReset 6 h why).racks = s.racks := by simp [State.beginReset]
  obtain ⟨hothers, hanchor, hst, -, hracks, hresets⟩ := (s.beginReset 6 h why).hobToLoading_spec h
  rw [State.resetHob_eq]
  generalize (s.beginReset 6 h why).hobToLoading h = s1 at *
  obtain ⟨hhob, hblank, hscratch⟩ := s1.blankHob_spec h
  rw [hbegin] at hanchor
  have hplace : (s1.hob h).shape = (s.hob h).shape ∧ (s1.hob h).fars = (s.hob h).fars := by
    simp only [Hob.anchor, Prod.mk.injEq] at hanchor
    obtain ⟨-, -, hshape, -, -, hfars⟩ := hanchor
    exact ⟨hshape, hfars⟩
  refine ⟨fun k hk => ?_, State.inReset_of_begun (hblank.trans hresets), ?_, ?_, fun n hn => ?_⟩
  · rw [hhob, hothers k hk, hbegin]
  · rw [hhob, hst]
  · rw [hhob, hanchor]
  · rw [← State.posOf_of_place hplace (hracks.trans hbracks)]
    refine hscratch n ?_
    rw [State.nums, Hob.rect, hplace.1]
    exact hn

end Sys2Proof.Machine
end

section
/-! A Lanper port, a host port or a stack controller that is reset, and what the ends of their work leave (R200, R241, R254). -/

namespace Sys2Proof.Machine

open Sys2Proof

/-! ### The Lanper ports while a port's work ends -/

section

variable {s t u : State}

/-- What the end of a Lanper port's work leaves: every port's registers, and the registers of resets. -/
structure State.KeepsPorts (s t : State) : Prop where
  lnps : t.lnps = s.lnps
  resets : t.resets = s.resets

namespace State.KeepsPorts

theorem refl : s.KeepsPorts s := ⟨rfl, rfl⟩

theorem trans (a : s.KeepsPorts t) (b : t.KeepsPorts u) : s.KeepsPorts u := ⟨b.lnps.trans a.lnps, b.resets.trans a.resets⟩

theorem modHob (a : s.KeepsPorts t) (h : Nat) (f : Hob → Hob) : s.KeepsPorts (t.modHob h f) := a.trans ⟨rfl, rfl⟩
theorem modCell (a : s.KeepsPorts t) (p : Nat) (f : Cell → Cell) : s.KeepsPorts (t.modCell p f) := a.trans ⟨rfl, rfl⟩
theorem modStack (a : s.KeepsPorts t) (k : Nat) (f : Stack → Stack) : s.KeepsPorts (t.modStack k f) := a.trans ⟨rfl, rfl⟩
theorem setTxns (a : s.KeepsPorts t) (l : List Txn) : s.KeepsPorts { t with txns := l } := a.trans ⟨rfl, rfl⟩
theorem setRdrs (a : s.KeepsPorts t) (l : Tab Rdr) : s.KeepsPorts (t.setRdrs l) := a.trans ⟨rfl, rfl⟩
theorem emit (a : s.KeepsPorts t) (o : Out) : s.KeepsPorts (t.emit o) := a.trans ⟨rfl, rfl⟩
theorem interrupt (a : s.KeepsPorts t) : s.KeepsPorts t.interrupt := a.trans ⟨rfl, rfl⟩
theorem eccReport (a : s.KeepsPorts t) (h : Nat) (l : List EccLine) : s.KeepsPorts (t.eccReport h l) := a.trans ⟨by simp, by simp⟩
theorem stopHob (a : s.KeepsPorts t) (h status detail info0 info1 : Nat) : s.KeepsPorts (t.stopHob h status detail info0 info1) :=
  a.trans ⟨by simp, by simp⟩
theorem complete (a : s.KeepsPorts t) (ref : CmdRef) (op status detail info0 info1 : Nat) :
    s.KeepsPorts (t.complete ref op status detail info0 info1) := a.trans ⟨by simp, by simp⟩

theorem ite {c : Prop} [Decidable c] {v : State} (a : s.KeepsPorts t) (b : s.KeepsPorts v) : s.KeepsPorts (if c then t else v) := by
  split
  · exact a
  · exact b

theorem each {α : Type} (f : State → α → State) (hf : ∀ v x, State.KeepsPorts v (f v x)) (l : List α) (a : s.KeepsPorts t) :
    s.KeepsPorts (t.each l f) := by
  induction l generalizing t with
  | nil => exact a
  | cons x xs ih => exact ih (a.trans (hf t x))

theorem cancelCapture (a : s.KeepsPorts t) (h : Nat) : s.KeepsPorts (t.cancelCapture h) := by
  have hshadows : s.KeepsPorts (t.dropShadows h) :=
    each _ (fun _ _ => by exact refl.modStack ..) _ (a.setRdrs _)
  exact ite (hshadows.modHob ..) a

theorem stopUncommitted (a : s.KeepsPorts t) (h : Nat) (e : End) : s.KeepsPorts (t.stopUncommitted h e) :=
  setTxns ((((ite a.interrupt a).cancelCapture h).modHob ..).stopHob ..) _

theorem stopFailed (a : s.KeepsPorts t) (h : Nat) (e : End) : s.KeepsPorts (t.stopFailed h e) :=
  (ite (a.eccReport ..) a).stopUncommitted h e

theorem failHead (a : s.KeepsPorts t) (h : Nat) : s.KeepsPorts (t.failHead h) := by
  unfold State.failHead
  split
  · split
    · exact a.stopFailed ..
    · exact a
  · exact a

theorem failFence (a : s.KeepsPorts t) (h f : Nat) (e : End) : s.KeepsPorts (t.failFence h f e) :=
  ite ((a.modHob ..).failHead h) (a.modHob ..)

theorem lostWrite (a : s.KeepsPorts t) (h f xng : Nat) : s.KeepsPorts (t.lostWrite h f xng) := a.failFence ..

theorem modSends (a : s.KeepsPorts t) (h : Nat) (o : Origin) (f : List Send → List Send) : s.KeepsPorts (t.modSends h o f) := by
  unfold State.modSends
  split
  · exact a.modCell ..
  · exact a.modHob ..

theorem endSend (a : s.KeepsPorts t) (h : Nat) (o : Origin) (q : Send) (status : Nat) : s.KeepsPorts (t.endSend h o q status) := by
  have hrim : s.KeepsPorts ((({ t with txns := t.txns.filter fun v => v.kind != TxnKind.message h o q.tag } : State).dropSend h o q.tag).emit
      (.mgt "send" [h, q.tag, status, q.missed])) := ((a.setTxns _).modSends ..).emit _
  unfold State.endSend
  split
  · exact ite (a.modSends ..) ((a.modSends ..).modCell ..)
  · dsimp only
    split
    · exact hrim.complete ..
    · exact hrim

theorem endRemote (a : s.KeepsPorts t) (x : Txn) : s.KeepsPorts (t.endRemote x) := by
  have hdropped : s.KeepsPorts (t.dropTxn x.id) := a.setTxns _
  unfold State.endRemote
  dsimp only
  split
  · exact ite (hdropped.lostWrite ..) hdropped
  · split
    · exact ((hdropped.setTxns _).modHob ..).complete ..
    · exact hdropped
  · split
    · exact hdropped.endSend ..
    · exact hdropped
  · exact hdropped

theorem endSends (a : s.KeepsPorts t) (p : Nat) : s.KeepsPorts (t.endSends p) := each _ (fun _ _ => refl.endRemote _) _ a

theorem classCheck (a : s.KeepsPorts t) (p : Nat) : s.KeepsPorts (t.classCheck p) := by
  unfold State.classCheck
  refine a.each _ (fun v h => ?_) _
  dsimp only
  split
  · exact refl
  · split
    · exact ite (refl.stopUncommitted ..) (refl.modHob ..)
    · exact refl

theorem endHold8 (a : s.KeepsPorts t) (h : Nat) : s.KeepsPorts (t.endHold8 h) := ite a (a.modHob ..)

theorem endRelight (a : s.KeepsPorts t) (p : Nat) : s.KeepsPorts (t.endRelight p) := a.each _ (fun _ _ => refl.endHold8 _) _

end State.KeepsPorts

end


theorem State.lnpEnd_spec (s : State) (p : Nat) (st : LnpState) (why : Nat) :
    (s.lnpEnd p st why).resets = s.resets ∧ (∀ q, q ≠ p → (s.lnpEnd p st why).lnp q = s.lnp q) ∧
      ((s.lnpEnd p st why).lnp p).st = st ∧ ((s.lnpEnd p st why).lnp p).session = false := by
  unfold State.lnpEnd
  extract_lets s1
  obtain ⟨hlnps, hresets⟩ := ((State.KeepsPorts.refl.endSends p).classCheck p).endRelight (s := s1) p
  have hlnp : ∀ q, (((s1.endSends p).classCheck p).endRelight p).lnp q = s1.lnp q := fun q => by rw [State.lnp, hlnps]; rfl
  simp only [hlnp]
  refine ⟨hresets, fun q hq => ?_, ?_, ?_⟩
  · exact (State.lnp_modLnp ..).trans (if_neg hq)
  · exact congrArg Lnp.st ((State.lnp_modLnp ..).trans (if_pos rfl))
  · exact congrArg Lnp.session ((State.lnp_modLnp ..).trans (if_pos rfl))

theorem State.beginReset_units (s : State) (dom idx why q : Nat) :
    (s.beginReset dom idx why).lnp q = s.lnp q ∧ (s.beginReset dom idx why).host q = s.host q ∧
      (s.beginReset dom idx why).stack q = s.stack q := by
  simp [State.beginReset, State.lnp, State.host, State.stack]

/-- A port in reset is DARK and without a session; no other port changes (R241). -/
theorem State.resetLnp_spec (s : State) (p why : Nat) :
    (∀ q, q ≠ p → (s.resetLnp p why).lnp q = s.lnp q) ∧ (s.resetLnp p why).inReset 3 p = true ∧
      ((s.resetLnp p why).lnp p).st = .dark ∧ ((s.resetLnp p why).lnp p).resetting = true ∧ ((s.resetLnp p why).lnp p).session = false := by
  obtain ⟨hresets, hothers, hst, hsession⟩ := (s.beginReset 3 p why).lnpEnd_spec p .dark 0
  have hport : (s.resetLnp p why).lnp p = { ((s.beginReset 3 p why).lnpEnd p .dark 0).lnp p with resetting := true } :=
    (State.lnp_modLnp ..).trans (if_pos rfl)
  refine ⟨fun q hq => ?_, State.inReset_of_begun hresets, ?_, ?_, ?_⟩
  · rw [State.resetLnp, State.lnp_modLnp, if_neg hq, hothers q hq]
    exact (s.beginReset_units 3 p why q).1
  · rw [hport]
    exact hst
  · rw [hport]
  · rw [hport]
    exact hsession

/-! ### A host port -/

theorem State.loseHost_parts (s : State) (h : Nat) : (s.loseHost h).hosts = s.hosts ∧ (s.loseHost h).resets = s.resets := by
  unfold State.loseHost
  extract_lets x reads aborted s1 s2 s3
  have h1 : s1.hosts = s.hosts ∧ s1.resets = s.resets := by
    show State.hosts (if _ then _ else _) = _ ∧ State.resets (if _ then _ else _) = _
    split
    · exact ⟨rfl, rfl⟩
    · exact ⟨rfl, rfl⟩
  have h2 : s2.hosts = s1.hosts ∧ s2.resets = s1.resets := by
    show State.hosts (if _ then _ else _) = _ ∧ State.resets (if _ then _ else _) = _
    split
    · exact ⟨rfl, rfl⟩
    · exact ⟨rfl, rfl⟩
  obtain ⟨hhosts1, hresets1⟩ := h1
  obtain ⟨hhosts2, hresets2⟩ := h2
  simp [s3, hhosts1, hresets1, hhosts2, hresets2]

/-- A function reset has no session that authorises it, and no other function or port changes (R254). -/
theorem State.resetFn_spec (s : State) (p f : Nat) :
    (s.resetFn p f).resets = s.resets ∧ (∀ q, q ≠ p → (s.resetFn p f).host q = s.host q) ∧
      ∀ g, (((s.resetFn p f).host p).fnSt g).authOk = if g = f then false else ((s.host p).fnSt g).authOk := by
  refine ⟨rfl, fun q hq => ?_, fun g => ?_⟩
  · exact (State.host_modHost ..).trans (if_neg hq)
  · have hhost : (s.resetFn p f).host p = { s.host p with fns := (s.host p).fns.put {} f { nonce := BitVec.ofNat 64 (s.draw).1 } } :=
      (State.host_modHost ..).trans (if_pos rfl)
    rw [hhost, HostPort.fnSt, Tab.get_put]
    split
    · rfl
    · rfl

/-- The host of a port is lost: its functions are as after reset (R243, R254). -/
theorem State.losePort_spec (s : State) (p : Nat) :
    (s.losePort p).resets = s.resets ∧ (∀ q, q ≠ p → (s.losePort p).host q = s.host q) ∧
      ∀ f ∈ List.range 9, (((s.losePort p).host p).fnSt f).authOk = false := by
  unfold State.losePort
  have hhosts := State.each_proj State.hosts s (s.hobsOn p) State.loseHost fun v h => (v.loseHost_parts h).1
  have hresets := State.each_resets s (s.hobsOn p) State.loseHost fun v h => (v.loseHost_parts h).2
  generalize s.each (s.hobsOn p) State.loseHost = s1 at *
  refine ⟨(State.each_resets _ _ _ fun v f => (v.resetFn_spec p f).1).trans hresets, fun q hq => ?_, fun f hf => ?_⟩
  · refine (State.each_proj (fun v => v.host q) _ _ _ fun v f => (v.resetFn_spec p f).2.1 q hq).trans ?_
    rw [State.host, hhosts]
    rfl
  · refine State.each_brings (P := fun v => ((v.host p).fnSt f).authOk = false) (fun v g hv => ?_) (fun v => ?_) hf s1
    · rw [(v.resetFn_spec p g).2.2, hv, ite_self]
    · rw [(v.resetFn_spec p f).2.2, if_pos rfl]

theorem State.resetHost_spec (s : State) (p why : Nat) :
    (∀ q, q ≠ p → (s.resetHost p why).host q = s.host q) ∧ (s.resetHost p why).inReset 4 p = true ∧
      ((s.resetHost p why).host p).resetting = true ∧ ∀ f ∈ List.range 9, (((s.resetHost p why).host p).fnSt f).authOk = false := by
  obtain ⟨hresets, hothers, hfns⟩ := (s.beginReset 4 p why).losePort_spec p
  have hport : (s.resetHost p why).host p = { ((s.beginReset 4 p why).losePort p).host p with resetting := true } :=
    (State.host_modHost ..).trans (if_pos rfl)
  have hbegun : (s.resetHost p why).resets = (s.beginReset 4 p why).resets := by simp only [State.resetHost, State.modHost_frame, hresets]
  refine ⟨fun q hq => ?_, State.inReset_of_begun hbegun, ?_, ?_⟩
  · rw [State.resetHost, State.host_modHost, if_neg hq, hothers q hq]
    exact (s.beginReset_units 4 p why q).2.1
  · rw [hport]
  · intro f hf
    simpa only [hport, HostPort.fnSt] using hfns f hf

/-! ### A stack controller -/

/-- A stack whose controller resets keeps its contents in self-refresh (R200, R201). -/
theorem State.resetStack_spec (s : State) (k why : Nat) :
    (s.resetStack k why).lines = s.lines ∧ (s.resetStack k why).hobs = s.hobs ∧ (s.resetStack k why).inReset 2 k = true ∧
      (s.resetStack k why).stack k = { s.stack k with resetting := true, pwr := .selfRefresh } ∧
      ∀ j, j ≠ k → (s.resetStack k why).stack j = s.stack j := by
  have hstack : ∀ j, (s.resetStack k why).stack j =
      ((s.beginReset 2 k why).modStack k fun x => { x with resetting := true, pwr := .selfRefresh }).stack j := fun _ => rfl
  refine ⟨?_, ?_, State.inReset_of_begun (s := s) (why := why) rfl, ?_, fun j hj => ?_⟩
  · simp [State.resetStack, State.beginReset]
  · simp [State.resetStack, State.beginReset]
  · rw [hstack, State.stack_modStack, if_pos rfl, (s.beginReset_units 2 k why k).2.2]
  · rw [hstack, State.stack_modStack, if_neg hj, (s.beginReset_units 2 k why j).2.2]

end Sys2Proof.Machine
end

section
/-! The commands that ask for a reset below the device and that complete one (R326, R327, R329, R333). -/

namespace Sys2Proof.Machine

open Sys2Proof

/-! ### Cells, racks and quarters -/

theorem exec_cellReset {cell : Pos} {s : State} (hbacks : (s.pos cell.idx).state.backs = true) (hrun : s.down = false)
    (hup : s.resets.hearthDown = false) (hash : s.ashRun = none) (hin : s.inReset 0 cell.idx = false) :
    exec (.cellReset cell) s = .next (s.resetCell cell.idx 0) := by
  change execCellReset cell s = _
  rw [execCellReset, State.cellLive, hbacks, hrun, State.askReset_performs 0 hin hup hash]
  rfl

theorem exec_rackReset {r : Rack} {s : State} (hrun : s.down = false) (hon : s.st ≠ .off) (hup : s.resets.hearthDown = false)
    (hash : s.ashRun = none) (hin : s.inReset 1 r.idx = false) : exec (.rackReset r) s = .next (s.resetRack r.idx 4) := by
  change execRackReset r s = _
  rw [execRackReset, if_neg (by simp [hrun, hon]), State.askReset_performs 4 hin hup hash]
  rfl

theorem exec_quarterReset {q : Quarter} {s : State} (hrun : s.down = false) (hon : s.st ≠ .off) (hup : s.resets.hearthDown = false)
    (hash : s.ashRun = none) (hin : s.inReset 5 q.val = false) : exec (.quarterReset q) s = .next (s.resetQuarter q.val 5) := by
  change execQuarterReset q s = _
  rw [execQuarterReset, if_neg (by simp [hrun, hon]), State.askReset_performs 5 hin hup hash]
  rfl

theorem State.finishReset_ends (s : State) (dom idx : Nat) : (s.finishReset dom idx).inReset dom idx = false :=
  State.inReset_of_finished rfl

/-- A reset of a cell that fails is an escalation: the cell is lidded by test (R326). -/
theorem exec_cellResetDone_failed {cell : Pos} {s : State} (imageOk : Bool) (hin : s.inReset 0 cell.idx = true)
    (hup : s.resets.hearthDown = false) (hfused : (s.pos cell.idx).state ≠ .fusedOff) :
    ∃ t, exec (.cellResetDone cell false imageOk) s = .next t ∧ t.mem = s.mem ∧ t.inReset 0 cell.idx = false ∧
      (t.pos cell.idx).state = .lidded := by
  let s1 := s.finishReset 0 cell.idx
  let s2 : State := { s1 with resets := { s1.resets with escal := satInc s1.resets.escal } }
  refine ⟨(s2.logDev 0x0405 0xFF [0, cell.idx]).lid cell.idx true, ?_, ?_, ?_, State.lid_state _ _ _ ?_⟩
  · change execCellResetDone cell false imageOk s = _
    simp only [execCellResetDone, hin, hup, Bool.not_true, Bool.or_self]
    rfl
  · simp [s2, s1]
  · have hend := (State.KeepsResets.refl (s := s2)).logDev 0x0405 0xFF [0, cell.idx] |>.lid cell.idx true
    exact (State.inReset_of_resets hend.resets ..).trans (s.finishReset_ends 0 cell.idx)
  · have hhealth : (s2.logDev 0x0405 0xFF [0, cell.idx]).health = s.health := by simp [s2, s1]
    rw [State.pos, hhealth]
    exact hfused

/-- The resets of a position within the hour, with one that completes now (R291). -/
def State.recentResets (s : State) (p : Nat) : List Nat := s.lifeMs :: (s.pos p).resets.filter fun t => decide (s.lifeMs < t + 3600000)

/-- A cell's reset that completed, charged and counted at its position (R291, R326). -/
def State.countReset (s : State) (p : Nat) : State :=
  ((s.finishReset 0 p).charge p 0 150 0).modPos p fun x => { x with resets := s.recentResets p }

theorem State.countReset_spec (s : State) (p : Nat) :
    (s.countReset p).mem = s.mem ∧ (s.countReset p).inReset 0 p = false ∧ ((s.countReset p).pos p).resets.head? = some s.lifeMs := by
  have hcharged := (State.KeepsResets.refl (s := s.finishReset 0 p)).charge p 0 150 0
  have hresets : (s.countReset p).resets = (s.finishReset 0 p).resets := by
    simp only [State.countReset, State.modPos_frame, hcharged.resets]
  refine ⟨by simp [State.countReset], State.inReset_of_finished hresets, ?_⟩
  rw [State.countReset, State.pos_modPos, if_pos rfl]
  rfl

/-- What follows the count, a score and a rebuild, keeps it. -/
theorem exec_cellResetDone_counts {cell : Pos} {s : State} (imageOk : Bool) (hin : s.inReset 0 cell.idx = true)
    (hup : s.resets.hearthDown = false) :
    ∃ t, exec (.cellResetDone cell true imageOk) s = .next t ∧ t.mem = (s.countReset cell.idx).mem ∧
      (s.countReset cell.idx).KeepsResets t := by
  change ∃ t, execCellResetDone cell true imageOk s = _ ∧ _
  unfold execCellResetDone
  extract_lets p s1 _ failed recent s2 s3 ps
  rw [if_neg (by simp [p, hin, hup]), if_neg (show ¬(!true) = true from Bool.false_ne_true)]
  have hscored : s2.KeepsResets s3 := State.KeepsResets.ite (State.KeepsResets.refl.scoreLid p) State.KeepsResets.refl
  have hmem : s3.mem = s2.mem := by
    simp only [s3]
    split <;> simp
  change ∃ t, _ ∧ t.mem = s2.mem ∧ s2.KeepsResets t
  clear_value s3 s2
  split
  · exact ⟨_, rfl, hmem, hscored⟩
  · refine ⟨_, rfl, ?_, (hscored.rebuildAt [p] imageOk).each State.endDecant (fun v h => ?_) _⟩
    · simp [hmem]
    · exact State.KeepsResets.refl.endDecant h

theorem exec_cellResetDone_ok {cell : Pos} {s : State} (imageOk : Bool) (hin : s.inReset 0 cell.idx = true)
    (hup : s.resets.hearthDown = false) :
    ∃ t, exec (.cellResetDone cell true imageOk) s = .next t ∧ t.mem = s.mem ∧ t.inReset 0 cell.idx = false ∧
      (t.pos cell.idx).resets.head? = some s.lifeMs := by
  obtain ⟨t, hexec, hmem, hkeeps⟩ := exec_cellResetDone_counts imageOk hin hup
  obtain ⟨hmem0, hended, hcounted⟩ := s.countReset_spec cell.idx
  refine ⟨t, hexec, hmem.trans hmem0, (State.inReset_of_resets hkeeps.resets ..).trans hended, ?_⟩
  rw [hkeeps.counted]
  exact hcounted

theorem State.rebuildAt_keepsResets (s : State) (ps : List Nat) (imageOk : Bool) : s.KeepsResets (s.rebuildAt ps imageOk) :=
  State.KeepsResets.refl.rebuildAt ps imageOk

theorem exec_rackResetDone {r : Rack} {s : State} (imageOk : Bool) (hin : s.inReset 1 r.idx = true) (hup : s.resets.hearthDown = false) :
    ∃ t, exec (.rackResetDone r imageOk) s = .next t ∧ t.mem = s.mem ∧ t.inReset 1 r.idx = false := by
  refine ⟨(s.finishReset 1 r.idx).rebuildAt (r.all.map Pos.idx) imageOk, ?_, by simp, ?_⟩
  · change execRackResetDone r imageOk s = _
    rw [execRackResetDone, hin, hup]
    rfl
  · exact (State.inReset_of_resets (State.rebuildAt_keepsResets ..).resets ..).trans (s.finishReset_ends ..)

theorem exec_quarterResetDone {q : Quarter} {s : State} (imageOk : Bool) (hin : s.inReset 5 q.val = true)
    (hup : s.resets.hearthDown = false) :
    ∃ t, exec (.quarterResetDone q imageOk) s = .next t ∧ t.mem = s.mem ∧ t.inReset 5 q.val = false := by
  refine ⟨(s.finishReset 5 q.val).rebuildAt (quarterPos q.val) imageOk, ?_, by simp, ?_⟩
  · change execQuarterResetDone q imageOk s = _
    rw [execQuarterResetDone, hin, hup]
    rfl
  · exact (State.inReset_of_resets (State.rebuildAt_keepsResets ..).resets ..).trans (s.finishReset_ends ..)

/-! ### Hobs and routers -/

theorem exec_hobReset {hob : HobId} {s : State} (hst : (s.hob hob.val).st ≠ .free) (hup : s.resets.hearthDown = false)
    (hash : s.ashRun = none) (hin : s.inReset 6 hob.val = false) : exec (.hobReset hob) s = .next (s.resetHob hob.val 9) := by
  change execHobReset hob s = _
  rw [execHobReset, if_neg hst, State.askReset_performs 9 hin hup hash, State.performReset, if_neg hst]
  rfl

/-- A gap that no bridge passes: its router is cleared (R172). -/
theorem exec_routerIslandReset {cell : Pos} {s : State} (hgap : s.gapPos cell.rack = cell.idx) (hbridge : s.bridged cell.idx = false)
    (hrun : s.down = false) (hon : s.st ≠ .off) (hup : s.resets.hearthDown = false) :
    exec (.routerIslandReset cell) s = .next (s.clearIslands [cell.idx]) := by
  change execRouterIslandReset cell s = _
  unfold execRouterIslandReset
  extract_lets p s1
  have hs1 : s1 = s := by
    show s.each (s.bridgesAt cell.idx) _ = s
    rw [State.bridgesAt_none hbridge]
    rfl
  rw [if_pos (by simp [p, hgap, hrun, hon, hup]), hs1, if_neg (by simp [p, hbridge])]
  rfl

/-! ### Ports and stack controllers -/

theorem exec_lnpPortReset {port : LnpId} {s : State} (hfenced : (s.lnp port.val).fenced = false) (hon : s.st ≠ .off)
    (hup : s.resets.hearthDown = false) (hash : s.ashRun = none) (hin : s.inReset 3 port.val = false) :
    exec (.lnpPortReset port) s = .next (s.resetLnp port.val 0) := by
  change execLnpPortReset port s = _
  rw [execLnpPortReset, if_neg (by simp [hfenced, hon]), State.askReset_performs 0 hin hup hash]
  rfl

theorem exec_hostPortReset {port : HPort} {s : State} (hfenced : (s.host port.val).fenced = false) (hon : s.st ≠ .off)
    (hup : s.resets.hearthDown = false) (hash : s.ashRun = none) (hin : s.inReset 4 port.val = false) :
    exec (.hostPortReset port) s = .next (s.resetHost port.val 0) := by
  change execHostPortReset port s = _
  rw [execHostPortReset, if_neg (by simp [hfenced, hon]), State.askReset_performs 0 hin hup hash]
  rfl

theorem exec_stackCtrlReset {stack : StackId} {s : State} (hpwr : (s.stack stack.val).pwr ≠ .off)
    (hreset : (s.stack stack.val).resetting = false) (hup : s.resets.hearthDown = false) (hash : s.ashRun = none)
    (hin : s.inReset 2 stack.val = false) : exec (.stackCtrlReset stack) s = .next (s.resetStack stack.val 0) := by
  change execStackCtrlReset stack s = _
  rw [execStackCtrlReset, if_neg (by simp [hpwr, hreset]), State.askReset_performs 0 hin hup hash]
  rfl

theorem exec_lnpPortResetDone {port : LnpId} {s : State} (hin : s.inReset 3 port.val = true) :
    exec (.lnpPortResetDone port) s = .next ((s.finishReset 3 port.val).modLnp port.val fun x => { x with resetting := false }) := by
  change execLnpPortResetDone port s = _
  simp only [execLnpPortResetDone, hin]
  rfl

theorem exec_hostPortResetDone {port : HPort} {s : State} (hin : s.inReset 4 port.val = true) :
    exec (.hostPortResetDone port) s = .next ((s.finishReset 4 port.val).modHost port.val fun x => { x with resetting := false }) := by
  change execHostPortResetDone port s = _
  simp only [execHostPortResetDone, hin]
  rfl

/-- A stack whose controller's reset ended. -/
def State.stackBack (s : State) (k : Nat) : State :=
  (s.finishReset 2 k).modStack k fun x => { x with resetting := false, pwr := .on, lastTraffic := s.now }

/-- The resident slots of one hob that waited for a stack are filled (R200). -/
def State.fillWaiting (s : State) (h : Nat) : State :=
  if (s.hob h).fills.isEmpty then s else ((s.hob h).fills.foldl (fun (s : State) f => s.fillSlot h f.1 f.2) s).endHold8 h

theorem exec_stackCtrlResetDone {stack : StackId} {s : State} (hreset : (s.stack stack.val).resetting = true) :
    exec (.stackCtrlResetDone stack) s = .next ((s.stackBack stack.val).each hobNums State.fillWaiting) := by
  change execStackCtrlResetDone stack s = _
  rw [execStackCtrlResetDone, if_pos hreset]
  rfl

theorem State.fillWaiting_keepsResets (s : State) (h : Nat) : s.KeepsResets (s.fillWaiting h) :=
  State.KeepsResets.ite State.KeepsResets.refl
    ((State.KeepsResets.foldl _ (fun v f => by exact State.KeepsResets.refl.fillSlot h f.1 f.2) _ State.KeepsResets.refl).endHold8 h)

theorem State.stackBack_spec (s : State) (k : Nat) :
    (s.stackBack k).inReset 2 k = false ∧
      (s.stackBack k).stack k = { s.stack k with resetting := false, pwr := .on, lastTraffic := s.now } ∧
      ∀ j, j ≠ k → (s.stackBack k).stack j = s.stack j :=
  ⟨s.finishReset_ends 2 k, (State.stack_modStack ..).trans (if_pos rfl), fun _ hj => (State.stack_modStack ..).trans (if_neg hj)⟩

theorem State.fillWaiting_none {s : State} (hfills : ∀ h ∈ hobNums, (s.hob h).fills = []) : s.each hobNums State.fillWaiting = s := by
  have hwalk : ∀ l : List Nat, (∀ h ∈ l, (s.hob h).fills = []) → s.each l State.fillWaiting = s := fun l => by
    induction l with
    | nil => exact fun _ => rfl
    | cons h l ih =>
      intro hl
      have hhead : s.fillWaiting h = s := if_pos (by rw [hl h List.mem_cons_self]; rfl)
      change (s.fillWaiting h).each l State.fillWaiting = s
      rw [hhead]
      exact ih fun k hk => hl k (List.mem_cons_of_mem _ hk)
  exact hwalk hobNums hfills

end Sys2Proof.Machine
end

section
/-! Resets below the device: what each clears and what its completion ends (R67, R200, R241, R254, R326 to R333). -/

namespace Sys2Proof.Machine

open Sys2Proof

/-- Settles O41: each command performs or ends its domain's reset, whose specification gives the clause. -/
theorem unitResetsClearAndComplete : Obligations.UnitResetsClearAndComplete := by
  unfold Obligations.UnitResetsClearAndComplete
  refine ⟨?cell, fun _ imageOk _ => exec_cellResetDone_failed imageOk, fun _ imageOk _ => exec_cellResetDone_ok imageOk, ?rack,
    fun _ imageOk _ => exec_rackResetDone imageOk, ?quarter, fun _ imageOk _ => exec_quarterResetDone imageOk, ?hob, ?hobDone, ?router, ?lnp,
    ?lnpDone, ?host, ?hostDone, ?stack, ?stackDone, ?stackNone⟩
  case cell =>
    intro cell s hbacks hrun _ hup hash hin
    exact ⟨_, exec_cellReset hbacks hrun hup hash hin, (s.resetCell_keeps ..).1, s.resetCell_spec ..⟩
  case rack =>
    intro r s hrun hon hup hash hin
    have hspec := s.resetRack_spec r.idx 4
    rw [Rack.ofIdx_idx] at hspec
    exact ⟨_, exec_rackReset hrun hon hup hash hin, (s.resetRack_keeps ..).1, hspec⟩
  case quarter =>
    intro q s hrun hon hup hash hin
    exact ⟨_, exec_quarterReset hrun hon hup hash hin, (s.resetQuarter_keeps ..).1, s.resetQuarter_spec ..⟩
  case hob =>
    intro hob s hst hup hash hin
    obtain ⟨hothers, hbegun, hloading, hanchor, hscratch⟩ := s.resetHob_spec hob.val 9
    refine ⟨_, exec_hobReset hst hup hash hin, (s.resetHob_keeps ..).1, hothers, hbegun, hloading, ?_⟩
    simp only [Hob.anchor, Prod.mk.injEq] at hanchor
    obtain ⟨hrecipe, hresume, hshape, hext, hfence, -⟩ := hanchor
    refine ⟨hrecipe, hshape, hext, hfence, fun r hr => ?_, hscratch⟩
    rw [hresume, Hob.toLoading, hr]
  case hobDone =>
    intro hob s _
    exact ⟨_, rfl, rfl, s.finishReset_ends ..⟩
  case router =>
    intro cell s hgap hbridge hrun hon hup
    obtain ⟨routers, hrouters⟩ := s.clearIslands_eq [cell.idx]
    refine ⟨_, exec_routerIslandReset hgap hbridge hrun hon hup, ?_, s.clearIsland_spec cell.idx⟩
    rw [hrouters]
  case lnp =>
    intro port s hfenced hon hup hash hin
    exact ⟨_, exec_lnpPortReset hfenced hon hup hash hin, (s.resetLnp_keeps ..).1, s.resetLnp_spec ..⟩
  case lnpDone =>
    intro port s hin
    refine ⟨_, exec_lnpPortResetDone hin, rfl, s.finishReset_ends .., ?_, fun q hq => ?_⟩
    · exact (State.lnp_modLnp ..).trans (if_pos rfl)
    · exact (State.lnp_modLnp ..).trans (if_neg hq)
  case host =>
    intro port s hfenced hon hup hash hin
    exact ⟨_, exec_hostPortReset hfenced hon hup hash hin, (s.resetHost_keeps ..).1, s.resetHost_spec ..⟩
  case hostDone =>
    intro port s hin
    refine ⟨_, exec_hostPortResetDone hin, rfl, s.finishReset_ends .., ?_, fun q hq => ?_⟩
    · exact (State.host_modHost ..).trans (if_pos rfl)
    · exact (State.host_modHost ..).trans (if_neg hq)
  case stack =>
    intro stack s hpwr hreset hup hash hin
    exact ⟨_, exec_stackCtrlReset hpwr hreset hup hash hin, (s.resetStack_keeps ..).1, s.resetStack_spec ..⟩
  case stackDone =>
    intro stack s hreset
    obtain ⟨hended, hback, -⟩ := s.stackBack_spec stack.val
    have hfilled := State.KeepsResets.each _ State.fillWaiting_keepsResets hobNums (State.KeepsResets.refl (s := s.stackBack stack.val))
    have hserves : ((s.stackBack stack.val).stack stack.val).serves := by
      rw [hback]
      exact ⟨rfl, rfl⟩
    exact ⟨_, exec_stackCtrlResetDone hreset, by simp [State.fillWaiting, State.stackBack],
      (State.inReset_of_resets hfilled.resets ..).trans hended, hfilled.serves _ hserves⟩
  case stackNone =>
    intro stack s hreset hfills
    have hnone : (s.stackBack stack.val).each hobNums State.fillWaiting = s.stackBack stack.val := State.fillWaiting_none hfills
    exact ⟨_, (exec_stackCtrlResetDone hreset).trans (congrArg _ hnone), rfl, s.stackBack_spec stack.val⟩

end Sys2Proof.Machine
end

section
/-! What holds leave of a hob, and what an MCLK edge does to its clock (R97, R98, R118 to R123). -/

namespace Sys2Proof.Machine

open Sys2Proof

/-! ### Causes, freezes and named holds -/

section

variable {β : Type} (π : Hob → β) (z : Hob) (now : Nat)

/-- A cause that comes into force changes only the causes and the start of the hold limit (R121, R122). -/
theorem Hob.addCause_proj (hπ : ∀ y l f, π { y with hold := { y.hold with causes := l, limitFrom := f } } = π y) (c : Nat) :
    π (z.addCause now c) = π z := by
  unfold Hob.addCause
  split
  · rfl
  · exact hπ ..

/-- A hold edge of a hob that is not frozen: the hold registers as R123 names them, before the causes that wait are added. -/
def Hob.frozenBy (cause xng : Nat) : Hob :=
  { z with hold := { z.hold with
      frozen := true, since := now, events := z.hold.events + 1, cause := BitVec.ofNat 4 cause, xng := BitVec.ofNat 16 xng
      atCyc := BitVec.ofNat 32 z.clk.inStep, req := none, target := none } }

theorem Hob.freeze_eq (hfrozen : z.hold.frozen = false) (cause xng : Nat) :
    z.freeze now cause xng =
      (z.hold.waits.map fun w => w.cause).foldl (fun y c => y.addCause now c) (z.frozenBy now cause xng) := by
  simp only [Hob.freeze, hfrozen, Bool.false_eq_true, if_false]
  rfl

theorem Hob.freeze_registers (hπ : ∀ y l f, π { y with hold := { y.hold with causes := l, limitFrom := f } } = π y)
    (hfrozen : z.hold.frozen = false) (cause xng : Nat) : π (z.freeze now cause xng) = π (z.frozenBy now cause xng) := by
  rw [Hob.freeze_eq z now hfrozen]
  exact foldl_proj π _ (fun y c => Hob.addCause_proj π y now hπ c) _ _

/-- A hold edge changes the hold registers and the causes in force, and nothing else of the hob. -/
theorem Hob.freeze_proj (hπ : ∀ y l f, π { y with hold := { y.hold with causes := l, limitFrom := f } } = π y)
    (hregs : ∀ y cause xng, π (Hob.frozenBy y now cause xng) = π y) (cause xng : Nat) : π (z.freeze now cause xng) = π z := by
  cases hfrozen : z.hold.frozen
  · rw [Hob.freeze_registers π z now hπ hfrozen, hregs]
  · simp [Hob.freeze, hfrozen]

/-- A hold that reaches the hob cycle it named changes no more than a hold edge and the list of named holds (R120). -/
theorem Hob.reachTarget_proj (hπ : ∀ y l f, π { y with hold := { y.hold with causes := l, limitFrom := f } } = π y)
    (hregs : ∀ y cause xng, π (Hob.frozenBy y now cause xng) = π y)
    (hsched : ∀ y l, π { y with hold := { y.hold with sched := l } } = π y) : π (z.reachTarget now) = π z := by
  unfold Hob.reachTarget
  dsimp only
  split
  · rfl
  · refine (Hob.freeze_proj π _ now hπ hregs ..).trans ?_
    refine (foldl_proj π (fun y (x : Nat × Nat) => Hob.addCause y now x.1) (fun y x => Hob.addCause_proj π y now hπ x.1) _ _).trans ?_
    exact hsched ..

theorem Hob.holdDue_proj (hπ : ∀ y l f, π { y with hold := { y.hold with causes := l, limitFrom := f } } = π y)
    (hregs : ∀ y cause xng, π (Hob.frozenBy y now cause xng) = π y)
    (hsched : ∀ y l, π { y with hold := { y.hold with sched := l } } = π y) : π (z.holdDue now) = π z := by
  unfold Hob.holdDue
  dsimp only
  rw [Hob.reachTarget_proj π _ now hπ hregs hsched]
  split
  · split
    · exact Hob.freeze_proj π z now hπ hregs ..
    · rfl
  · rfl

theorem Hob.addCause_mem (c : Nat) : c ∈ (z.addCause now c).hold.causes := by
  unfold Hob.addCause
  split
  · next hc => simpa using hc
  · exact List.mem_cons_self

theorem Hob.addCause_mono {c d : Nat} (hd : d ∈ z.hold.causes) : d ∈ (z.addCause now c).hold.causes := by
  unfold Hob.addCause
  split
  · exact hd
  · exact List.mem_cons_of_mem _ hd

theorem Hob.addCauses_mono (l : List Nat) {d : Nat} (hd : d ∈ z.hold.causes) :
    d ∈ (l.foldl (fun y c => Hob.addCause y now c) z).hold.causes := by
  induction l generalizing z with
  | nil => exact hd
  | cons c l ih => exact ih _ (z.addCause_mono now hd)

theorem Hob.freeze_frozen (cause xng : Nat) : (z.freeze now cause xng).hold.frozen = true := by
  cases hfrozen : z.hold.frozen
  · exact Hob.freeze_registers (fun y => y.hold.frozen) z now (fun _ _ _ => rfl) hfrozen cause xng
  · simp [Hob.freeze, hfrozen]

theorem Hob.freeze_mono (cause xng : Nat) {d : Nat} (hd : d ∈ z.hold.causes) : d ∈ (z.freeze now cause xng).hold.causes := by
  cases hfrozen : z.hold.frozen
  · rw [Hob.freeze_eq z now hfrozen]
    exact Hob.addCauses_mono _ now _ hd
  · simpa [Hob.freeze, hfrozen] using hd

/-- A hob that is held for a cause at once is frozen with that cause in force. -/
theorem Hob.heldFor (cause xng : Nat) :
    ((z.addCause now cause).freeze now cause xng).hold.frozen = true ∧
      cause ∈ ((z.addCause now cause).freeze now cause xng).hold.causes :=
  ⟨Hob.freeze_frozen .., Hob.freeze_mono _ now _ _ (z.addCause_mem now cause)⟩

/-- A hob that is held for a cause at once changes in its hold alone. -/
theorem Hob.heldFor_eq (cause xng : Nat) :
    (z.addCause now cause).freeze now cause xng = { z with hold := ((z.addCause now cause).freeze now cause xng).hold } := by
  have hrest : { (z.addCause now cause).freeze now cause xng with hold := {} } = { z with hold := {} } :=
    (Hob.freeze_proj (fun x : Hob => { x with hold := {} }) _ now (fun _ _ _ => rfl) (fun _ _ _ => rfl) cause xng).trans
      (Hob.addCause_proj (fun x : Hob => { x with hold := {} }) z now (fun _ _ _ => rfl) cause)
  exact congrArg (fun y : Hob => { y with hold := ((z.addCause now cause).freeze now cause xng).hold }) hrest

end

/-! ### The MCLK edge -/

theorem Hob.mclkEdge_held {z : Hob} (hfrozen : z.hold.frozen = true) (mclk : Nat) :
    (z.mclkEdge mclk).clk = z.clk ∧ (z.mclkEdge mclk).hold.cyc = z.hold.cyc + 1 := by
  have hends : ∀ (p q : Prop) [Decidable p] [Decidable q] (x : Hob),
      (if p then (if q then x.endCause 7 else x).endCause 4 else if q then x.endCause 7 else x).clk = x.clk ∧
      (if p then (if q then x.endCause 7 else x).endCause 4 else if q then x.endCause 7 else x).hold.cyc = x.hold.cyc := by
    intro p q _ _ x
    split
    all_goals split <;> exact ⟨rfl, rfl⟩
  simp only [Hob.mclkEdge, hfrozen, if_true]
  exact hends ..

/-- An edge of a step that runs in static mode before its fence: the clock takes one gated edge (R98). -/
theorem Hob.mclkEdge_running {z : Hob} (hfrozen : z.hold.frozen = false) (hfence : z.atFence = false) (hseq : z.seqMode = false) (mclk : Nat) :
    (z.mclkEdge mclk).clk = (z.clk.edge mclk z.rcp.mclk).1 := by
  have hseq' : Hob.seqMode { z with simmer := { z.simmer with edge := z.simmer.edge + 1 } } = false := hseq
  simp only [Hob.mclkEdge, hfrozen, hfence, hseq', Bool.false_eq_true, if_false]
  rfl

theorem Clock.edge_free (c : Clock) {f d : Nat} (h : f ≤ d) : (c.edge f d).1 = { c with cyc := c.cyc + 1 } := by
  simp only [Clock.edge, if_neg (Nat.not_lt.mpr h)]

theorem Clock.edge_passes (c : Clock) {f d : Nat} (h : d < f) (hacc : f ≤ c.acc + d) :
    (c.edge f d).1 = { c with acc := c.acc + d - f, cyc := c.cyc + 1 } := by
  simp only [Clock.edge, if_pos h, if_pos hacc]

theorem Clock.edge_gated (c : Clock) {f d : Nat} (h : d < f) (hacc : c.acc + d < f) : (c.edge f d).1 = { c with acc := c.acc + d } := by
  simp only [Clock.edge, if_pos h, if_neg (Nat.not_le.mpr hacc)]

theorem State.endPeriod_hob (s : State) (h k : Nat) : (s.endPeriod h).hob k = s.hob k := by
  unfold State.endPeriod
  dsimp only
  split
  · rfl
  · exact State.each_proj (fun v => v.hob k) s _ _ fun _ _ => rfl

theorem State.stallTick_hob (s : State) (h k : Nat) : (s.stallTick h).hob k = s.hob k := by
  unfold State.stallTick
  split
  · simp
  · rfl

/-- Beside the MCLK edge, HOB_CYCLE_ADVANCE ends a replay's downtime and freezes a hob whose hold is due; the clock and the count of held
edges are the edge's. -/
theorem execHobCycleAdvance_edge {hob : HobId} {s : State} (hrun : (s.hob hob.val).runs = true) (hlive : (s.hob hob.val).clk.live = true) :
    ∃ t, execHobCycleAdvance hob s = .next t ∧ t.mem = s.mem ∧ (∀ k, k ≠ hob.val → t.hob k = s.hob k) ∧
      (t.hob hob.val).clk = ((s.hob hob.val).mclkEdge s.damper.mclk.toNat).clk ∧
      (t.hob hob.val).hold.cyc = ((s.hob hob.val).mclkEdge s.damper.mclk.toNat).hold.cyc := by
  unfold execHobCycleAdvance
  extract_lets h h1 back _ h2 h3 s0 s1
  rw [if_pos (by rw [hrun, hlive]; rfl)]
  have h2clk : (h2.clk, h2.hold.cyc) = (h1.clk, h1.hold.cyc) := by
    simp only [h2]
    split <;> rfl
  have h3clk : (h3.clk, h3.hold.cyc) = (h2.clk, h2.hold.cyc) := by
    simp only [h3]
    split
    · rfl
    · exact Hob.holdDue_proj (fun y => (y.clk, y.hold.cyc)) h2 s.now (fun _ _ _ => rfl) (fun _ _ _ => rfl) fun _ _ => rfl
  have hs0 : ∀ k, s0.hob k = (s.setHob hob.val h3).hob k := by
    intro k
    simp only [s0]
    split
    · rfl
    · exact State.stallTick_hob ..
  have hs1 : ∀ k, s1.hob k = (s.setHob hob.val h3).hob k := by
    intro k
    rw [← hs0]
    simp only [s1]
    split <;> simp
  have hend : ∀ k, (if h1.clk.cyc = h.clk.cyc then s1 else s1.endPeriod hob.val).hob k = (s.setHob hob.val h3).hob k := by
    intro k
    rw [← hs1]
    split
    · rfl
    · exact State.endPeriod_hob ..
  have hclk := h3clk.trans h2clk
  rw [Prod.mk.injEq] at hclk
  refine ⟨_, rfl, ?mem, fun k hk => ?others, ?clk, ?cyc⟩
  case mem => simp [s1, s0]
  case others => rw [hend, State.hob_setHob, if_neg hk]
  case clk => rw [hend, State.hob_setHob, if_pos rfl, hclk.1]
  case cyc => rw [hend, State.hob_setHob, if_pos rfl, hclk.2]

/-- Settles O6: the clock after HOB_CYCLE_ADVANCE is the one after the MCLK edge. -/
theorem hobCycleAdvanceCounts : Obligations.HobCycleAdvanceCounts := by
  unfold Obligations.HobCycleAdvanceCounts
  intro hob s hrun hlive hseq
  obtain ⟨t, hexec, hmem, hothers, hclk, hcyc⟩ := execHobCycleAdvance_edge hrun hlive
  refine ⟨t, hexec, hmem, hothers, fun hfrozen => ?held, fun hfrozen hfence => ⟨fun hfree => ?free, fun hover => ⟨?passes, ?gated⟩⟩⟩
  case held =>
    obtain ⟨hsame, hcount⟩ := Hob.mclkEdge_held hfrozen s.damper.mclk.toNat
    exact ⟨hclk.trans hsame, hcyc.trans hcount⟩
  all_goals rw [hclk, Hob.mclkEdge_running hfrozen hfence hseq]
  case free => rw [Clock.edge_free _ hfree]; exact ⟨rfl, rfl⟩
  case passes => intro hacc; rw [Clock.edge_passes _ hover hacc]; exact ⟨rfl, rfl⟩
  case gated => intro hacc; rw [Clock.edge_gated _ hover hacc]; exact ⟨rfl, rfl⟩

end Sys2Proof.Machine
end

section
/-! How a hob's run ends: what each operation on the way makes of that hob, every other hob staying as it was (R122, R131, R232, R240, R273). -/

namespace Sys2Proof.Machine

open Sys2Proof

/-- Between two states hob `h` becomes `z`, and every other hob stays as it was. -/
structure State.HobBecomes (h : Nat) (s t : State) (z : Hob) : Prop where
  hob : ∀ k, t.hob k = if k = h then z else s.hob k

section

variable {h : Nat} {s t u : State} {z : Hob}

namespace State.HobBecomes

theorem refl : State.HobBecomes h s s (s.hob h) := by
  refine ⟨fun k => ?_⟩
  split
  · next hk => rw [hk]
  · rfl

theorem self (a : State.HobBecomes h s t z) : t.hob h = z := (a.hob h).trans (if_pos rfl)

theorem others (a : State.HobBecomes h s t z) {k : Nat} (hk : k ≠ h) : t.hob k = s.hob k := (a.hob k).trans (if_neg hk)

theorem of_hob (a : State.HobBecomes h s t z) (hu : ∀ k, u.hob k = t.hob k) : State.HobBecomes h s u z :=
  ⟨fun k => (hu k).trans (a.hob k)⟩

theorem of_hobs (a : State.HobBecomes h s t z) (hu : u.hobs = t.hobs) : State.HobBecomes h s u z := a.of_hob (State.hob_of_hobs hu)

theorem same (hu : u.hobs = s.hobs) : State.HobBecomes h s u (s.hob h) := refl.of_hobs hu

theorem setHob (a : State.HobBecomes h s t z) (w : Hob) : State.HobBecomes h s (t.setHob h w) w := by
  refine ⟨fun k => ?_⟩
  rw [State.hob_setHob, a.hob k]
  split <;> rfl

theorem modHob (a : State.HobBecomes h s t z) (f : Hob → Hob) : State.HobBecomes h s (t.modHob h f) (f z) :=
  a.self ▸ a.setHob (f (t.hob h))

theorem each {α : Type} (a : State.HobBecomes h s t z) (f : State → α → State) (hf : ∀ v x, (f v x).hobs = v.hobs) (l : List α) :
    State.HobBecomes h s (t.each l f) z := a.of_hobs (State.each_proj State.hobs t l f hf)

theorem hobEvent (a : State.HobBecomes h s t z) (status detail info1 : Nat) :
    ∃ n, State.HobBecomes h s (t.hobEvent h status detail info1) { z with lostEvents := n } := by
  have hevent : ∀ p f r, State.HobBecomes h s (t.eventOn p f r status detail 0 info1).2 z := fun p f r => a.of_hobs (by simp)
  unfold State.hobEvent
  dsimp only
  split
  · exact ⟨z.lostEvents, hevent _ _ _⟩
  · exact ⟨_, (hevent _ _ _).modHob _⟩

theorem setHobSt (a : State.HobBecomes h s t z) (st : HobState) :
    ∃ n, State.HobBecomes h s (t.setHobSt h st) { z with st := st, lostEvents := n } := by
  have hset : State.HobBecomes h s (t.modHob h fun x => { x with st := st }) { z with st := st } := a.modHob _
  unfold State.setHobSt
  dsimp only
  split
  · exact ⟨z.lostEvents, hset⟩
  · exact hset.hobEvent ..

theorem report (a : State.HobBecomes h s t z) (status seq : Nat) (bytes : List Byte) :
    ∃ l n, State.HobBecomes h s (t.report h status seq bytes) { z with reports := l, lostEvents := n } :=
  ⟨_, (a.modHob fun x => { x with reports := x.reports ++ [{ seq := seq, bytes := bytes }] }).hobEvent ..⟩

theorem eccReport (a : State.HobBecomes h s t z) (l : List EccLine) :
    ∃ r n, State.HobBecomes h s (t.eccReport h l) { z with reports := r, lostEvents := n } :=
  (a.of_hobs (u := t.nextReport.2) (by simp)).report ..

/-- The waits that fail leave the hob without one. -/
theorem failWaits (a : State.HobBecomes h s t z) : State.HobBecomes h s (t.failWaits h) { z with fenceWaits := [] } :=
  each (a.modHob _) _ (fun _ _ => by simp) _

theorem modCells (a : State.HobBecomes h s t z) (j : Nat) (f : Cell → Cell) : State.HobBecomes h s (t.modCells j f) z :=
  a.of_hobs (by simp)

theorem avlStop (a : State.HobBecomes h s t z) (part key : Nat) : State.HobBecomes h s (t.avlStop part key) z := a.of_hobs (by simp)

theorem dropShadows (a : State.HobBecomes h s t z) : State.HobBecomes h s (t.dropShadows h) z := by
  unfold State.dropShadows
  extract_lets mine s1
  have h1 : State.HobBecomes h s s1 z := a.of_hobs rfl
  exact h1.each _ (fun _ _ => by exact rfl) _

theorem cancelCapture (a : State.HobBecomes h s t z) : ∃ c, State.HobBecomes h s (t.cancelCapture h) { z with cow := c } := by
  unfold State.cancelCapture
  dsimp only
  split
  · exact ⟨_, a.dropShadows.modHob _⟩
  · exact ⟨z.cow, a⟩

end State.HobBecomes

/-- A hob whose run has ended (R232). -/
def Hob.runEnded (z : Hob) : Hob :=
  { z with run := { z.run with stepsLeft := 0, refs := [], stopAt := none, breach := none, fenceStops := [] }, clk := { z.clk with live := false } }

theorem State.HobBecomes.endRun (a : State.HobBecomes h s t z) (status detail info0 info1 : Nat) :
    State.HobBecomes h s (t.endRun h status detail info0 info1) z.runEnded := by
  refine each (each (a.modHob Hob.runEnded) _ (fun v q => ?_) _) _ (fun _ _ => by simp) _
  split
  · simp
  · simp

/-- A hob that no hold stops any more. -/
def Hob.unheld (z : Hob) : Hob :=
  { z with hold := { z.hold with causes := [], sched := [], waits := [], req := none, target := none, frozen := false, limitFrom := none } }

/-- A hob that has entered STOPPED, with `n` events lost (R240). -/
def Hob.stopped (n : Nat) (z : Hob) : Hob := { Hob.unheld { z.runEnded with st := .stopped, lostEvents := n } with fenceWaits := [] }

theorem State.HobBecomes.stopHob (a : State.HobBecomes h s t z) (status detail info0 info1 : Nat) :
    ∃ n, State.HobBecomes h s (t.stopHob h status detail info0 info1) (z.stopped n) := by
  obtain ⟨n, hst⟩ := (a.endRun status detail info0 info1).setHobSt .stopped
  unfold State.stopHob
  extract_lets s1 s2
  have h2 := hst.modHob Hob.unheld
  exact ⟨n, (((h2.modCells h Cell.advanceGens).failWaits).avlStop 1 h).avlStop 0 h⟩

/-- A hob that has stopped without committing: its capture is cancelled and its uncommitted steps are discarded (R122, R131). -/
theorem State.HobBecomes.stopUncommitted (a : State.HobBecomes h s t z) (e : End) :
    ∃ c n, State.HobBecomes h s (t.stopUncommitted h e) (Hob.stopped n { z with cow := c }.discard) := by
  have hint : State.HobBecomes h s (if 25 ≤ e.status && e.status ≤ 30 then t.interrupt else t) z := by
    split
    · exact a.of_hobs rfl
    · exact a
  obtain ⟨c, hcow⟩ := hint.cancelCapture
  obtain ⟨n, hstop⟩ := (hcow.modHob Hob.discard).stopHob e.status e.detail e.info0 e.info1
  unfold State.stopUncommitted
  extract_lets s1 s2
  have h2 : State.HobBecomes h s s2 (Hob.stopped n { z with cow := c }.discard) := hstop
  clear_value s2
  exact ⟨c, n, h2.of_hobs rfl⟩

theorem State.HobBecomes.stopFailed (a : State.HobBecomes h s t z) (e : End) :
    ∃ r m c n, State.HobBecomes h s (t.stopFailed h e) (Hob.stopped n { z with reports := r, lostEvents := m, cow := c }.discard) := by
  unfold State.stopFailed
  dsimp only
  split
  · obtain ⟨r, m, hrep⟩ := a.eccReport (t.hob h).eccLines
    exact ⟨r, m, hrep.stopUncommitted e⟩
  · exact ⟨z.reports, z.lostEvents, a.stopUncommitted e⟩

end

/-! ### Stack memory and transactions -/

@[simp] theorem State.cancelCapture_frame (s : State) (h : Nat) : (s.cancelCapture h).lines = s.lines ∧ (s.cancelCapture h).txns = s.txns := by
  unfold State.cancelCapture State.dropShadows
  dsimp only
  split
  · simp only [State.modHob_frame]
    exact ⟨State.each_proj State.lines _ _ _ fun _ _ => rfl, State.each_proj State.txns _ _ _ fun _ _ => rfl⟩
  · exact ⟨rfl, rfl⟩

theorem State.stopUncommitted_frame (s : State) (h : Nat) (e : End) :
    (s.stopUncommitted h e).lines = s.lines ∧ (s.stopUncommitted h e).txns = runOut s.txns h := by
  unfold State.stopUncommitted
  extract_lets s1 s2
  have h1 : s1.lines = s.lines ∧ s1.txns = s.txns := by simp [s1]
  have h2 : s2.lines = s1.lines ∧ s2.txns = s1.txns := by simp [s2]
  clear_value s2
  exact ⟨h2.1.trans h1.1, by rw [h2.2, h1.2]⟩

theorem State.stopFailed_frame (s : State) (h : Nat) (e : End) :
    (s.stopFailed h e).lines = s.lines ∧ (s.stopFailed h e).txns = runOut s.txns h := by
  unfold State.stopFailed
  extract_lets lines s1
  have h1 : s1.lines = s.lines ∧ s1.txns = s.txns := by
    simp only [s1]
    split <;> simp
  obtain ⟨hlines, htxns⟩ := s1.stopUncommitted_frame h e
  exact ⟨hlines.trans h1.1, by rw [htxns, h1.2]⟩

/-- What is said of a hob that stopped without committing: `s` is the state before, `t` the one after. -/
structure State.StopsUncommitted (h : Nat) (s t : State) : Prop where
  mem : t.mem = s.mem
  lines : t.lines = s.lines
  txns : t.txns = runOut s.txns h
  others : ∀ k, k ≠ h → t.hob k = s.hob k
  st : (t.hob h).st = .stopped
  stepsLeft : (t.hob h).run.stepsLeft = 0
  fenceLast : (t.hob h).fenceLast = (s.hob h).fenceLast
  closing : (t.hob h).closing = []
  live : (t.hob h).clk.live = false
  frozen : (t.hob h).hold.frozen = false
  causes : (t.hob h).hold.causes = []

theorem State.stopUncommitted_spec (s : State) (h : Nat) (e : End) : State.StopsUncommitted h s (s.stopUncommitted h e) := by
  obtain ⟨c, n, hbec⟩ := (State.HobBecomes.refl (h := h) (s := s)).stopUncommitted e
  obtain ⟨hlines, htxns⟩ := s.stopUncommitted_frame h e
  refine ⟨by simp, hlines, htxns, fun k => hbec.others, ?_, ?_, ?_, ?_, ?_, ?_, ?_⟩
  all_goals rw [hbec.self]; rfl

theorem State.stopFailed_spec (s : State) (h : Nat) (e : End) : State.StopsUncommitted h s (s.stopFailed h e) := by
  obtain ⟨r, m, c, n, hbec⟩ := (State.HobBecomes.refl (h := h) (s := s)).stopFailed e
  obtain ⟨hlines, htxns⟩ := s.stopFailed_frame h e
  refine ⟨by simp, hlines, htxns, fun k => hbec.others, ?_, ?_, ?_, ?_, ?_, ?_, ?_⟩
  all_goals rw [hbec.self]; rfl

/-- The hob of a state that differs from `s` in that hob alone, stopped without committing. -/
theorem State.StopsUncommitted.of_modHob {s t : State} {h : Nat} {f : Hob → Hob} (hfence : (f (s.hob h)).fenceLast = (s.hob h).fenceLast)
    (a : State.StopsUncommitted h (s.modHob h f) t) : State.StopsUncommitted h s t where
  mem := a.mem
  lines := a.lines
  txns := a.txns
  others k hk := (a.others k hk).trans (by rw [State.hob_modHob, if_neg hk])
  st := a.st
  stepsLeft := a.stepsLeft
  fenceLast := a.fenceLast.trans (by rw [State.hob_modHob, if_pos rfl, hfence])
  closing := a.closing
  live := a.live
  frozen := a.frozen
  causes := a.causes

/-- A closing fence at the head that has failed stops the hob; where the head has not failed, nothing happens (R59, R122, R273). -/
theorem State.failHead_failed {s : State} {h : Nat} {c : Closing} {l : List Closing} {e : End} (hclosing : (s.hob h).closing = c :: l)
    (hfailed : c.failed = some e) : s.failHead h = s.stopFailed h e := by
  simp only [State.failHead, hclosing, hfailed]

theorem State.failHead_waits {s : State} {h : Nat} (hhead : ∀ c, (s.hob h).closing.head? = some c → c.failed = none) : s.failHead h = s := by
  unfold State.failHead
  split
  · next c l hl => simp only [hhead c (by rw [hl]; rfl)]
  · rfl

end Sys2Proof.Machine
end

section
/-! Calendar holds: check points, hold edges, releases, the hold limit and simmer (R118 to R124, R238, R414). -/

namespace Sys2Proof.Machine

open Sys2Proof

/-- A check point that fails counts a miss, keeps the wait and makes a request (R118, R123). -/
def Hob.misses (w : Wait) (z : Hob) : Hob :=
  { z with hold := { z.hold with
    misses := z.hold.misses + 1, waits := z.hold.waits ++ [w],
    req := some (z.hold.req.getD (w.cause, w.xng)), target := some (z.hold.target.getD (z.clk.cyc + 32)) } }

theorem execCheckPoint_misses {hob : HobId} {xng : BitVec 16} {s : State} {x : Crossing} {w : Wait} (hexec : (s.hob hob.val).executing = true)
    (hseq : (s.hob hob.val).seqMode = false) (hxng : (s.hob hob.val).rcp.crossing xng.toNat = some x) (hfails : s.checkFails hob.val x = some w) :
    execCheckPoint hob xng s = .next (s.modHob hob.val (Hob.misses w)) := by
  simp only [execCheckPoint, hxng, hexec, hseq, hfails, Bool.not_true, Bool.or_false, Bool.false_eq_true, if_false]
  rfl

theorem execHoldEdge_freezes {hob : HobId} {s : State} {c x : Nat} (hrun : (s.hob hob.val).runs = true)
    (hlive : (s.hob hob.val).clk.live = true) (hfrozen : (s.hob hob.val).hold.frozen = false) (hreq : (s.hob hob.val).hold.req = some (c, x)) :
    execHoldEdge hob s = .next (s.setHob hob.val ((s.hob hob.val).freeze s.now c x)) := by
  simp only [execHoldEdge, hrun, hlive, hfrozen, Hob.holdEdge, hreq, Bool.not_false, Bool.and_true, if_true]
  rfl

theorem execHoldRelease_resumes {hob : HobId} {s : State} (hfrozen : (s.hob hob.val).hold.frozen = true)
    (hcauses : (s.hob hob.val).hold.causes = []) :
    execHoldRelease hob s = .next (((s.modHob hob.val fun z =>
      { z with hold := { z.hold with frozen := false } }).avlStop 0 hob.val).avlStop 5 hob.val) := by
  unfold execHoldRelease
  exact if_pos (by simp [hfrozen, hcauses])

theorem execHoldLimitExpiry_stops {hob : HobId} {s : State} {f : Nat} (hrun : (s.hob hob.val).runs = true)
    (hfrozen : (s.hob hob.val).hold.frozen = true) (hfrom : (s.hob hob.val).hold.limitFrom = some f)
    (hlimit : f + (s.hob hob.val).rcp.holdLimitNs < s.now) : ∃ e, execHoldLimitExpiry hob s = .next (s.stopUncommitted hob.val e) := by
  unfold execHoldLimitExpiry
  simp only [hfrom, hrun, hfrozen, Bool.not_true, Bool.false_or, decide_eq_true_eq, if_neg (Nat.not_le.mpr hlimit)]
  exact ⟨_, rfl⟩

theorem execSimmerWindow_starts {hob : HobId} {s : State} (hrun : (s.hob hob.val).runs = true) (hedge : 4096 ≤ (s.hob hob.val).simmer.edge) :
    execSimmerWindow hob s = .next (s.modHob hob.val fun z =>
      let z1 := { z with simmer := { z.simmer with edge := 0 } }
      if z.simmer.duty = 0 then z1 else (z1.addCause s.now 4).freeze s.now 4 0) := by
  unfold execSimmerWindow
  have hover : ¬ (s.hob hob.val).simmer.edge < 4096 := Nat.not_lt.mpr hedge
  simp only [hrun, hover, decide_false, Bool.not_true, Bool.and_false, Bool.false_and, Bool.or_false, Bool.false_eq_true, if_false]
  rfl

theorem execSimmerDutyUpdate_sets {hob : HobId} (watts : Nat) {s : State} (hst : (s.hob hob.val).st ≠ .free) :
    execSimmerDutyUpdate hob watts s = .next (s.modHob hob.val fun z =>
      let own := Config.simmerDuty z.share watts z.simmer.own % 225
      let d := max own s.damper.duty.toNat
      { z with simmer := { z.simmer with on := d != 0, duty := BitVec.ofNat 8 d, own := own, share := BitVec.ofNat 8 z.share } }) := by
  simp only [execSimmerDutyUpdate, if_neg hst]
  rfl

/-- Settles O7: each command changes one hob, by the hold operations. -/
theorem holdsFreezeAndResume : Obligations.HoldsFreezeAndResume := by
  unfold Obligations.HoldsFreezeAndResume
  refine ⟨?check, ?edge, ?release, ?limit, ?window, ?duty⟩
  case check =>
    intro hob xng s x w hexec hseq hxng hfails
    refine ⟨_, execCheckPoint_misses hexec hseq hxng hfails, rfl, fun k hk => ?others, ?own⟩
    case others => rw [State.hob_modHob, if_neg hk]
    case own => rw [State.hob_modHob, if_pos rfl]; exact ⟨rfl, rfl, rfl, rfl, rfl⟩
  case edge =>
    intro hob s c x hrun hlive hfrozen hreq
    have hregs : ∀ {β : Type} (π : Hob → β), (∀ y l f, π { y with hold := { y.hold with causes := l, limitFrom := f } } = π y) →
        π ((s.hob hob.val).freeze s.now c x) = π ((s.hob hob.val).frozenBy s.now c x) :=
      fun π hπ => Hob.freeze_registers π _ s.now hπ hfrozen c x
    refine ⟨_, execHoldEdge_freezes hrun hlive hfrozen hreq, rfl, fun k hk => ?others, ?own⟩
    case others => rw [State.hob_setHob, if_neg hk]
    case own =>
      rw [State.hob_setHob, if_pos rfl]
      exact ⟨hregs (fun y => y.hold.frozen) fun _ _ _ => rfl, hregs (fun y => y.hold.events) fun _ _ _ => rfl,
        hregs (fun y => y.hold.cause) fun _ _ _ => rfl, hregs (fun y => y.hold.xng) fun _ _ _ => rfl,
        hregs (fun y => y.hold.atCyc) fun _ _ _ => rfl, hregs Hob.clk fun _ _ _ => rfl⟩
  case release =>
    intro hob s hfrozen hcauses
    refine ⟨_, execHoldRelease_resumes hfrozen hcauses, ?frame, ?own, fun k hk => ?others⟩
    case frame => simp only [State.avlStop]; rfl
    case own => simp
    case others => simp [hk]
  case limit =>
    intro hob s f hrun hfrozen hfrom hlimit
    obtain ⟨e, hexec⟩ := execHoldLimitExpiry_stops hrun hfrozen hfrom hlimit
    have hstop := s.stopUncommitted_spec hob.val e
    exact ⟨_, hexec, hstop.mem, hstop.lines, hstop.txns, hstop.st, hstop.stepsLeft, hstop.fenceLast, hstop.frozen, hstop.causes, hstop.others⟩
  case window =>
    intro hob s hrun hedge
    refine ⟨_, execSimmerWindow_starts hrun hedge, rfl, fun k hk => ?others, ?own⟩
    case others => rw [State.hob_modHob, if_neg hk]
    case own =>
      rw [State.hob_modHob, if_pos rfl]
      dsimp only
      split
      · next hduty => exact ⟨rfl, fun _ => rfl, fun hne => absurd hduty hne⟩
      · next hduty =>
        rw [Hob.heldFor_eq]
        exact ⟨rfl, fun heq => absurd heq hduty, fun _ => Hob.heldFor ..⟩
  case duty =>
    intro hob watts s hst
    refine ⟨_, Config.simmerDuty (s.hob hob.val).share watts (s.hob hob.val).simmer.own % 225, by omega,
      execSimmerDutyUpdate_sets watts hst, rfl, fun k hk => ?others, ?own⟩
    case others => rw [State.hob_modHob, if_neg hk]
    case own => rw [State.hob_modHob, if_pos rfl]; exact ⟨rfl, rfl⟩

end Sys2Proof.Machine
end

section
/-! Step fences: a step that reaches its fence, and one that has run too long (R125, R128, R129, R137, R162). -/

namespace Sys2Proof.Machine

open Sys2Proof

/-! ### Shared shapes -/

/-- A walk whose every step changes cells alone changes cells alone. -/
theorem State.each_cells_eq {α : Type} (f : State → α → State) (hf : ∀ v x, ∃ cells, f v x = { v with cells := cells }) (l : List α)
    (s : State) : ∃ cells, s.each l f = { s with cells := cells } := by
  induction l generalizing s with
  | nil => exact ⟨s.cells, rfl⟩
  | cons x l ih =>
    obtain ⟨c1, h1⟩ := hf s x
    obtain ⟨c2, h2⟩ := ih (f s x)
    refine ⟨c2, h2.trans ?_⟩
    rw [h1]

theorem State.modCells_eq (s : State) (h : Nat) (f : Cell → Cell) : ∃ cells, s.modCells h f = { s with cells := cells } :=
  State.each_cells_eq _ (fun v n => ⟨_, v.modCell_eq (v.posOf h n) f⟩) _ s

/-! ### The next step begins -/

/-- The next step of a hob begins at the fence that it has reached; the step after a fence that is still closing is only held (R128, R129). -/
def Hob.beginsStep (now : Nat) (z : Hob) : Hob :=
  let z1 := { z with
    run := { z.run with stepsLeft := z.run.stepsLeft - 1, breach := none }
    clk := { z.clk with
      stepStart := z.clk.cyc, step := z.rcp.next z.clk.step, fence := z.clk.fence + 1, live := true, unheld := [] } }
  if z.closing.length < 2 then z1 else (z1.addCause now 3).freeze now 3 0

/-- Whether or not the step that begins is held at once, what no hold changes is as it begins. -/
theorem Hob.beginsStep_proj {β : Type} (π : Hob → β) (now : Nat) (z : Hob) (hπ : ∀ y hold, π { y with hold := hold } = π y) :
    π (z.beginsStep now) = π { z with
      run := { z.run with stepsLeft := z.run.stepsLeft - 1, breach := none }
      clk := { z.clk with
        stepStart := z.clk.cyc, step := z.rcp.next z.clk.step, fence := z.clk.fence + 1, live := true, unheld := [] } } := by
  unfold Hob.beginsStep
  extract_lets _ _ z1
  split
  · rfl
  · exact (Hob.freeze_proj π _ now (fun _ _ _ => hπ ..) (fun _ _ _ => hπ ..) 3 0).trans (Hob.addCause_proj π z1 now (fun _ _ _ => hπ ..) 3)

theorem Hob.beginsStep_free {now : Nat} {z : Hob} (h : z.closing.length < 2) : (z.beginsStep now).hold = z.hold := by
  unfold Hob.beginsStep
  extract_lets _ _ z1
  rw [if_pos h]

theorem Hob.beginsStep_held {now : Nat} {z : Hob} (h : 2 ≤ z.closing.length) :
    (z.beginsStep now).hold.frozen = true ∧ 3 ∈ (z.beginsStep now).hold.causes := by
  unfold Hob.beginsStep
  extract_lets _ _ z1
  rw [if_neg (Nat.not_lt.mpr h)]
  exact Hob.heldFor ..

/-- A hob that has reached the fence of its step (R128). -/
def Hob.reaches (fault : Bool) (z : Hob) : Hob :=
  { z with closing := z.closing ++ [{ fence := z.clk.fence, step := z.clk.step, fault := fault, endCyc := z.clk.cyc }] }

theorem State.nextStepAt_begins {s : State} {h n : Nat} (hsteps : (s.hob h).run.stepsLeft = n + 1) (hstop : (s.hob h).run.stopAt = none) :
    s.nextStepAt h = s.modHob h (Hob.beginsStep s.now) := by
  unfold State.nextStepAt
  exact if_neg (by simp [hsteps, hstop])

/-- A step without a breach reaches its fence and the next one begins; the fences that close go on closing. -/
theorem State.reachFence_eq {s : State} {h n : Nat} (hbreach : s.fenceBreach h = none) (hclosing : ∀ c ∈ (s.hob h).closing, c.failed = none)
    (hsteps : (s.hob h).run.stepsLeft = n + 1) (hstop : (s.hob h).run.stopAt = none) :
    ∃ fault cells, s.reachFence h = ({ s with cells := cells }.modHob h (Hob.reaches fault)).modHob h (Hob.beginsStep s.now) := by
  unfold State.reachFence
  extract_lets x breach fault c older s1 s2 s3
  have hbr : breach = none := hbreach
  have hold : older = id := by
    funext d
    simp [older, hbr]
  have hs1 : s1 = s.modHob h (Hob.reaches fault) := by
    simp only [s1, hold, List.map_id, c, hbr]
    rfl
  obtain ⟨cells, hcells⟩ := s1.modCells_eq h fun c => c.fence (x.rcp.next x.clk.step)
  have hs2 : s2 = { s with cells := cells }.modHob h (Hob.reaches fault) := hcells.trans (by rw [hs1]; rfl)
  have hhob : s2.hob h = (s.hob h).reaches fault := by rw [hs2, State.hob_modHob, if_pos rfl]; rfl
  have hs3 : s3 = s2.modHob h (Hob.beginsStep s.now) := by
    simp only [s3, hbr, Option.isSome_none, Bool.false_eq_true, if_false]
    rw [State.nextStepAt_begins (n := n) (by rw [hhob]; exact hsteps) (by rw [hhob]; exact hstop), hs2]
    rfl
  have hfailed : ∀ d ∈ (s3.hob h).closing, d.failed = none := by
    rw [hs3, State.hob_modHob, if_pos rfl, hhob, Hob.beginsStep_proj Hob.closing _ _ fun _ _ => rfl]
    intro d hd
    rcases List.mem_append.mp hd with hd | hd
    · exact hclosing d hd
    · rw [List.mem_singleton.mp hd]
  refine ⟨fault, cells, (State.failHead_waits fun d hd => hfailed d (List.mem_of_mem_head? hd)).trans ?_⟩
  rw [hs3, hs2]

theorem State.reachFence_goesOn {s : State} {h n : Nat} (hbreach : s.fenceBreach h = none) (hclosing : ∀ c ∈ (s.hob h).closing, c.failed = none)
    (hsteps : (s.hob h).run.stepsLeft = n + 1) (hstop : (s.hob h).run.stopAt = none) :
    s.reachFence h = { s with hobs := (s.reachFence h).hobs, cells := (s.reachFence h).cells } ∧
      ∃ fault, State.HobBecomes h s (s.reachFence h) (((s.hob h).reaches fault).beginsStep s.now) := by
  obtain ⟨fault, cells, heq⟩ := State.reachFence_eq hbreach hclosing hsteps hstop
  have hcells : State.HobBecomes h s { s with cells := cells } (s.hob h) := State.HobBecomes.refl.of_hobs rfl
  rw [heq]
  exact ⟨rfl, fault, (hcells.modHob _).modHob _⟩

/-- A step that has run too long stops its hob without commit where no earlier fence is closing (R137, R162). -/
theorem State.lateFence_stops {s : State} {h : Nat} (hclosing : (s.hob h).closing = []) : State.StopsUncommitted h s (s.lateFence h) := by
  unfold State.lateFence
  extract_lets x c
  have hhead : ((s.modHob h fun y => { y with closing := y.closing ++ [c], clk := { y.clk with live := false } }).hob h).closing = [c] := by
    rw [State.hob_modHob, if_pos rfl, hclosing]
    rfl
  rw [State.failHead_failed hhead rfl]
  exact (State.stopFailed_spec _ h _).of_modHob rfl

theorem execStepFence_static {hob : HobId} {s : State} (hexec : (s.hob hob.val).executing = true) (hseq : (s.hob hob.val).seqMode = false)
    (hfence : (s.hob hob.val).atFence = true) : execStepFence hob s = .next (s.reachFence hob.val) := by
  simp only [execStepFence, hexec, hseq, hfence, Bool.not_true, Bool.false_eq_true, if_false, if_true]
  rfl

theorem execStepFence_late {hob : HobId} {s : State} (hexec : (s.hob hob.val).executing = true) (hseq : (s.hob hob.val).seqMode = true)
    (hover : overStepLimit (s.hob hob.val).clk.unheld = true)
    (hhalted : (s.nums hob.val).all (fun n => (s.cell (s.posOf hob.val n)).allHalted) = true) :
    execStepFence hob s = .next (s.lateFence hob.val) := by
  simp only [execStepFence, hexec, hseq, hover, hhalted, Bool.not_true, Bool.false_eq_true, if_false, if_true]
  rfl

theorem execStepTimerExpiry_late {hob : HobId} {s : State} (hrun : (s.hob hob.val).runs = true) (hlive : (s.hob hob.val).clk.live = true)
    (hseq : (s.hob hob.val).seqMode = true) (hat : atStepLimit (s.hob hob.val).clk.unheld = true)
    (hhalted : (s.nums hob.val).all (fun n => (s.cell (s.posOf hob.val n)).allHalted) = false) :
    execStepTimerExpiry hob s = .next (s.lateFence hob.val) := by
  simp only [execStepTimerExpiry, hrun, hlive, hseq, hat, hhalted, Bool.not_true, Bool.or_false, Bool.false_eq_true, if_false]
  rfl

/-- Settles O12: a step that reaches its fence goes into closing and the next one begins; one that has run too long stops the hob. -/
theorem stepsReachTheirFences : Obligations.StepsReachTheirFences := by
  unfold Obligations.StepsReachTheirFences
  refine ⟨?goes, ?held, ?timer, ?late⟩
  case goes =>
    intro hob s n hexec hseq hfence hbreach hclosing hsteps hstop
    obtain ⟨hframe, fault, hbec⟩ := State.reachFence_goesOn hbreach (by simp [hclosing]) hsteps hstop
    have hfree : ((s.hob hob.val).reaches fault).closing.length < 2 := by simp [Hob.reaches, hclosing]
    refine ⟨_, execStepFence_static hexec hseq hfence, hframe, fun k => hbec.others, ?_⟩
    rw [hbec.self, Hob.beginsStep_proj Hob.closing _ _ fun _ _ => rfl, Hob.beginsStep_proj Hob.run _ _ fun _ _ => rfl,
      Hob.beginsStep_proj Hob.clk _ _ fun _ _ => rfl, Hob.beginsStep_free hfree]
    exact ⟨by simp [Hob.reaches, hclosing], by simp [Hob.reaches, hsteps], rfl, rfl, rfl, rfl, rfl⟩
  case held =>
    intro hob s n c hexec hseq hfence hbreach hclosing hfailed hsteps hstop
    obtain ⟨hframe, fault, hbec⟩ := State.reachFence_goesOn hbreach (by simp [hclosing, hfailed]) hsteps hstop
    have hheld : 2 ≤ ((s.hob hob.val).reaches fault).closing.length := by simp [Hob.reaches, hclosing]
    refine ⟨_, execStepFence_static hexec hseq hfence, hframe, fun k => hbec.others, ?_⟩
    rw [hbec.self, Hob.beginsStep_proj Hob.closing _ _ fun _ _ => rfl, Hob.beginsStep_proj Hob.run _ _ fun _ _ => rfl]
    exact ⟨by simp [Hob.reaches, hclosing], by simp [Hob.reaches, hsteps], Hob.beginsStep_held hheld⟩
  case timer =>
    intro hob s hrun hlive hseq hat hhalted hclosing
    have hstop := State.lateFence_stops hclosing
    exact ⟨_, execStepTimerExpiry_late hrun hlive hseq hat hhalted, hstop.mem, hstop.lines, hstop.others, hstop.st, hstop.fenceLast,
      hstop.closing, hstop.live⟩
  case late =>
    intro hob s hexec hseq hover hhalted hclosing
    have hstop := State.lateFence_stops hclosing
    exact ⟨_, execStepFence_late hexec hseq hover hhalted, hstop.mem, hstop.lines, hstop.others, hstop.st, hstop.fenceLast,
      hstop.closing, hstop.live⟩

end Sys2Proof.Machine
end

section
/-! Commit: a fence that has closed here and at every peer (R94, R128 to R131, R232, R236, R278, R350). -/

namespace Sys2Proof.Machine

open Sys2Proof

/-! ### Messages to the peers -/

theorem State.tellPeer_eq (s : State) (h dev kind : Nat) (what : String) (vals : List Nat) :
    ∃ lnps out, s.tellPeer h dev kind what vals = { s with lnps := lnps, out := out } := by
  unfold State.tellPeer
  extract_lets via
  obtain ⟨lnps, hsend⟩ := (s.emit (.mgt what (h :: dev :: vals))).sendPacket_lnps via
    { kind := 1, flits := 1, dest := dev, hob := h, note := kind :: vals }
  exact ⟨lnps, _, hsend⟩

/-- What a hob tells its peers goes out by Lanper ports, and changes nothing else of the state (R130, R260). -/
theorem State.tellPeers_eq (s : State) (h kind : Nat) (what : String) (vals : List Nat) :
    ∃ lnps out, s.tellPeers h kind what vals = { s with lnps := lnps, out := out } := by
  unfold State.tellPeers
  generalize (s.hob h).rcp.peers = peers
  induction peers generalizing s with
  | nil => exact ⟨_, _, rfl⟩
  | cons p peers ih =>
    obtain ⟨l1, o1, h1⟩ := s.tellPeer_eq h p kind what vals
    obtain ⟨l2, o2, h2⟩ := ih (s.tellPeer h p kind what vals)
    refine ⟨l2, o2, h2.trans ?_⟩
    rw [h1]

/-! ### The commit of the head fence -/

/-- The lineage record alone takes a committed fence (R278). -/
theorem Hob.noteFence_eq (z : Hob) (f epoch : Nat) :
    ∃ l l6 o, z.noteFence f epoch = { z with lineage := l, lineage6 := l6, linOver := o } := by
  unfold Hob.noteFence
  dsimp only
  split
  · split
    · exact ⟨_, _, _, rfl⟩
    · exact ⟨_, _, _, rfl⟩
  · exact ⟨_, _, _, rfl⟩

/-- What a hob is after the commit of its head fence `c`: the parts that a commit gives a value, and those that it leaves. -/
structure Hob.Committed (c : Closing) (y z : Hob) : Prop where
  st : z.st = y.st
  fenceLast : z.fenceLast = c.fence
  closing : z.closing = y.closing.drop 1
  nextStep : z.nextStep = y.rcp.next c.step
  cyc : z.clk.cyc = y.clk.cyc
  live : z.clk.live = y.clk.live

section

variable {h : Nat} {s t : State} {z : Hob}

namespace State.HobBecomes

theorem complete (a : State.HobBecomes h s t z) (ref : CmdRef) (op status detail info0 info1 : Nat) :
    State.HobBecomes h s (t.complete ref op status detail info0 info1) z := a.of_hobs (by simp)

theorem countStep (a : State.HobBecomes h s t z) (f : Nat) : ∃ run, State.HobBecomes h s (t.countStep h f) { z with run := run } := by
  unfold State.countStep
  split
  · exact ⟨z.run, a⟩
  · next c rest _ =>
    extract_lets c1 s1 s2
    have h1 : ∃ run, State.HobBecomes h s s1 { z with run := run } := ⟨_, a.modHob _⟩
    obtain ⟨run, h1⟩ := h1
    have h2 : State.HobBecomes h s s2 { z with run := run } := by
      simp only [s2]
      split
      · exact h1.of_hobs (by simp)
      · exact h1
    refine ⟨run, ?_⟩
    split
    · exact h2.complete ..
    · exact h2

theorem fenceMet (a : State.HobBecomes h s t z) (f : Nat) :
    ∃ waits copies, State.HobBecomes h s (t.fenceMet h f) { z with fenceWaits := waits, copies := copies } :=
  ⟨_, _, each (a.modHob _) _ (fun _ _ => by simp) _⟩

theorem keepGens (a : State.HobBecomes h s t z) : ∃ gens, State.HobBecomes h s (t.keepGens h) { z with gens := gens } := by
  unfold State.keepGens
  extract_lets g
  exact ⟨g, a.modHob _⟩

theorem commitHead (a : State.HobBecomes h s t z) (c : Closing) :
    ∃ w, State.HobBecomes h s (t.commitHead h c) w ∧ z.Committed c w := by
  unfold State.commitHead
  extract_lets s1 s2
  obtain ⟨l, l6, o, hnote⟩ := z.noteFence_eq c.fence t.hearth.epoch
  have h1 := a.modHob fun y => { y.noteFence c.fence t.hearth.epoch with
      fenceLast := c.fence, closing := y.closing.drop 1, nextStep := y.rcp.next c.step,
      clk := { y.clk with nextStart := c.endCyc }, peerClosed := y.peerClosed.filter fun p => c.fence < p.1,
      eccLines := y.eccLines.filter fun l => c.fence < l.fence,
      replay := { y.replay with tries := 0, last := none, sched := [] },
      cow := if y.cow.armed && y.cow.fence = c.fence then { y.cow with draining := true } else y.cow }
  obtain ⟨gens, h2⟩ := (h1.modCells h Cell.committed).keepGens
  obtain ⟨run, h3⟩ := (h2.modHob fun y => (y.endCause 3).jarCommit c.fence t.lifeMs).countStep c.fence
  obtain ⟨waits, copies, h4⟩ := h3.fenceMet c.fence
  refine ⟨_, h4, ?_⟩
  rw [hnote]
  exact ⟨rfl, rfl, rfl, rfl, rfl, rfl⟩

end State.HobBecomes

end

theorem State.commitHead_frame (s : State) (h : Nat) (c : Closing) :
    (s.commitHead h c).rdrs = s.rdrs ∧ (s.commitHead h c).txns = s.txns := by
  have hcount : ∀ (v : State) f, (v.countStep h f).rdrs = v.rdrs ∧ (v.countStep h f).txns = v.txns := by
    intro v f
    unfold State.countStep
    split
    · exact ⟨rfl, rfl⟩
    · simp
  simp [State.commitHead, State.fenceMet, State.keepGens, hcount]

/-- A hob whose step is still running does not stop after the commit (R240). -/
theorem State.stopIfDone_running {s : State} {h : Nat} (hlive : (s.hob h).clk.live = true) : s.stopIfDone h = s := by
  simp [State.stopIfDone, hlive]

/-- Whether a fault stands against a step depends on the hob's place, its step and its closing fences, and on the cells. -/
theorem State.faulted_eq {s t : State} {h : Nat} (hplace : (t.hob h).shape = (s.hob h).shape ∧ (t.hob h).fars = (s.hob h).fars)
    (hracks : t.racks = s.racks) (hcells : t.cells = s.cells) (hlive : (t.hob h).clk.live = (s.hob h).clk.live)
    (hfault : ((t.hob h).closing.any fun c => c.fault) = (s.hob h).closing.any fun c => c.fault) : t.faulted h = s.faulted h := by
  simp only [State.faulted, State.nums, State.cell, Hob.rect, State.posOf_of_place hplace hracks, hplace.1, hcells, hlive, hfault]

/-! ### FENCE_LOCAL_CLOSE and the reports of peers -/

/-- The fences of a hob with fence `f` closed locally. -/
def Hob.closesLocally (f : Nat) (z : Hob) : Hob :=
  { z with closing := z.closing.map fun d => if d.fence = f then { d with localClosed := true } else d }

theorem Hob.closesLocally_head {z : Hob} {c : Closing} (hclosing : z.closing = [c]) :
    z.closesLocally c.fence = { z with closing := [{ c with localClosed := true }] } := by
  simp [Hob.closesLocally, hclosing]

/-- A fence that nothing keeps open closes locally and its peers are told; then it commits if it can (R128, R130). -/
theorem execFenceLocalClose_closes {hob : HobId} {s : State} {c : Closing} (hrun : (s.hob hob.val).runs = true)
    (hclosing : (s.hob hob.val).closing = [c]) (hlocal : c.localClosed = false) (hfault : c.fault = false) (hfailed : c.failed = none)
    (hopen : s.fenceOpen hob.val c.fence = false) :
    ∃ u, execFenceLocalClose hob s = .next (u.tryCommit hob.val) ∧ u = { s with hobs := u.hobs, lnps := u.lnps, out := u.out } ∧
      State.HobBecomes hob.val s u { s.hob hob.val with closing := [{ c with localClosed := true }] } := by
  obtain ⟨lnps, out, htell⟩ := (s.modHob hob.val (Hob.closesLocally c.fence)).tellPeers_eq hob.val 1 "fence closed" [c.fence]
  refine ⟨{ s.modHob hob.val (Hob.closesLocally c.fence) with lnps := lnps, out := out }, ?_, rfl, ?_⟩
  · rw [← htell]
    simp only [execFenceLocalClose, hclosing, List.head?_cons, Option.any_some, hfailed, Option.isSome_none, Bool.false_eq_true, if_false]
    simp only [List.find?_cons, hlocal, hfault, hfailed, hrun, hopen, Option.isNone_none, Bool.not_false, Bool.not_true, Bool.and_self,
      Bool.or_false, Bool.false_eq_true, if_false]
    rfl
  · rw [← Hob.closesLocally_head hclosing]
    exact (State.HobBecomes.refl.modHob _).of_hobs rfl

/-- The head fence commits where it has closed here and at every peer and no fault stands (R128 to R131). -/
theorem State.tryCommit_commits {s : State} {h : Nat} {c : Closing} (hclosing : (s.hob h).closing = [c]) (hfailed : c.failed = none)
    (hlocal : c.localClosed = true) (hfault : s.faulted h = false) (hpeers : (s.hob h).peersClosed c.fence = true)
    (hlive : (s.hob h).clk.live = true) : s.tryCommit h = s.commitHead h c := by
  obtain ⟨w, hbec, hcommit⟩ := (State.HobBecomes.refl (h := h) (s := s)).commitHead c
  have hempty : ((s.commitHead h c).hob h).closing = [] := by rw [hbec.self, hcommit.closing, hclosing]; rfl
  have hruns : ((s.commitHead h c).hob h).clk.live = true := by rw [hbec.self, hcommit.live, hlive]
  simp only [State.tryCommit, hclosing, hfailed, hlocal, hfault, hpeers, Option.isSome_none, Bool.false_eq_true, Bool.not_false, Bool.and_self,
    if_false, if_true]
  rw [State.failHead_waits (by simp [hempty]), State.stopIfDone_running hruns]

theorem State.tryCommit_waits {s : State} {h : Nat} {c : Closing} (hclosing : (s.hob h).closing = [c]) (hfailed : c.failed = none)
    (hpeers : (s.hob h).peersClosed c.fence = false) : s.tryCommit h = s := by
  simp [State.tryCommit, hclosing, hfailed, hpeers]

theorem State.tryCommit_none {s : State} {h : Nat} (hclosing : (s.hob h).closing = []) : s.tryCommit h = s := by
  simp only [State.tryCommit, hclosing]

/-- Settles O13: the fence closes here, and commits once the peers have reported it. -/
theorem fencesCloseAndCommit : Obligations.FencesCloseAndCommit := by
  unfold Obligations.FencesCloseAndCommit
  refine ⟨?commit, ?waits, ?report, ?stranger⟩
  case commit =>
    intro hob s c hrun hlive hclosing hlocal hfault hfailed hfaulted hopen hpeers
    obtain ⟨u, hexec, hframe, hclosed⟩ := execFenceLocalClose_closes hrun hclosing hlocal hfault hfailed hopen
    have hunfaulted : u.faulted hob.val = false := by
      refine (State.faulted_eq (s := s) ?_ (by rw [hframe]) (by rw [hframe]) ?_ ?_).trans hfaulted
      all_goals rw [hclosed.self]
      · exact ⟨rfl, rfl⟩
      · simp [hclosing]
    rw [State.tryCommit_commits (c := { c with localClosed := true }) (by rw [hclosed.self]) hfailed rfl hunfaulted
      (by rw [hclosed.self]; exact hpeers) (by rw [hclosed.self]; exact hlive)] at hexec
    obtain ⟨w, hbec, hcommit⟩ := hclosed.commitHead { c with localClosed := true }
    obtain ⟨hrdrs, htxns⟩ := u.commitHead_frame hob.val { c with localClosed := true }
    refine ⟨_, hexec, ?_, hrdrs.trans (by rw [hframe]), htxns.trans (by rw [hframe]), fun k => hbec.others, ?_⟩
    · exact (State.commitHead_keeps ..).1.trans (by rw [hframe])
    · rw [hbec.self]
      exact ⟨hcommit.fenceLast, hcommit.closing, hcommit.nextStep, hcommit.st, hcommit.cyc⟩
  case waits =>
    intro hob s c hrun hclosing hlocal hfault hfailed hopen hpeers
    obtain ⟨u, hexec, hframe, hclosed⟩ := execFenceLocalClose_closes hrun hclosing hlocal hfault hfailed hopen
    rw [State.tryCommit_waits (c := { c with localClosed := true }) (by rw [hclosed.self]) hfailed (by rw [hclosed.self]; exact hpeers)] at hexec
    exact ⟨u, hexec, hframe, fun k => hclosed.others, hclosed.self⟩
  case report =>
    intro hob peer f s hpeer hfence hnew hclosing
    have hbec : State.HobBecomes hob.val s (s.modHob hob.val fun y => { y with peerClosed := y.peerClosed ++ [(f, peer.toNat)] }) _ :=
      State.HobBecomes.refl.modHob _
    refine ⟨_, ?_, rfl, fun k => hbec.others, hbec.self⟩
    have hkeeps : (!(s.hob hob.val).rcp.peers.contains peer.toNat || decide (f ≤ (s.hob hob.val).fenceLast) ||
        (s.hob hob.val).peerClosed.contains (f, peer.toNat)) = false := by
      simp [hpeer, hfence, hnew]
    change execPeerFenceReport hob peer f s = _
    unfold execPeerFenceReport
    rw [if_neg (by rw [hkeeps]; exact Bool.false_ne_true), State.tryCommit_none (by rw [hbec.self]; exact hclosing)]
    rfl
  case stranger =>
    intro hob peer f s hpeer
    exact ⟨if_pos (by simp [hpeer]), if_neg (by simp [hpeer])⟩

end Sys2Proof.Machine
end

section
/-! Host writes: staging, acknowledgement and access faults (R128, R131, R197, R200, R235, R241, R258, R423). -/

namespace Sys2Proof.Machine

open Sys2Proof

/-! ### The oldest staged block -/

/-- A transaction of a pool other than the Lanper ports' sends no request as it is accepted. -/
theorem State.addTxn_local (s : State) (x : Txn) (hx : x.pool ≠ .lanper) :
    s.addTxn x = { s with
      txns := s.txns ++ [{ x with id := s.hearth.txnGen, granted := s.poolFree x, startedAt := s.now }]
      hearth := { s.hearth with txnGen := s.hearth.txnGen + 1 } } :=
  State.sendRequest_local _ _ (Or.inl hx)

section

variable {h : Nat} {s t : State} {z : Hob}

theorem State.HobBecomes.addTxn (a : State.HobBecomes h s t z) {x : Txn} (hx : x.pool ≠ .lanper) : State.HobBecomes h s (t.addTxn x) z :=
  a.of_hobs (by rw [State.addTxn_local _ _ hx])

theorem State.HobBecomes.emit (a : State.HobBecomes h s t z) (o : Out) : State.HobBecomes h s (t.emit o) z := a.of_hobs (by simp)

theorem State.HobBecomes.breachAt (a : State.HobBecomes h s t z) (e : End) :
    State.HobBecomes h s (t.breachAt h e) { z with run := { z.run with breach := some (z.run.breach.getD e) } } := a.modHob _

end

/-- The transaction that forwards a staged block (R197, R235). -/
def State.forwardTxn (s : State) (h : Nat) (w : Staged) : Txn :=
  { kind := .forward h, write := true, client := (s.hob h).grant.hport.toNat, pool := .host, addr := 4096 * w.block, data := w.data,
    stamp := w.fence, region := w.xng, also := some (relStack w.stgAddr), staged := some w }

section

variable {hob : HobId} {s : State} {w : Staged} {rest : List Staged}

theorem execStagedWriteForward_forwards (hstaged : (s.hob hob.val).staged = w :: rest) (hfence : w.fence ≤ (s.hob hob.val).fenceLast)
    (hup : s.hostUp hob.val = true) (hauth : s.hostAuth hob.val = true) (hblocked : (s.hob hob.val).fwdBlocked = false)
    (hbuf : 4096 * w.block + 4096 ≤ w.bufLen) (hshared : s.sharedUsed (relStack w.stgAddr) < 512)
    (hreset : (s.stack (relStack w.stgAddr)).resetting = false) (hpool : s.poolFree (s.forwardTxn hob.val w) = true) :
    execStagedWriteForward hob s =
      .next ((((s.touchStack (relStack w.stgAddr)).modHob hob.val fun y => { y with staged := rest }).addTxn (s.forwardTxn hob.val w)).emit
        (.hostData (s.hob hob.val).grant.hport.toNat (w.buf + 4096 * w.block) w.data)) := by
  unfold State.forwardTxn at hpool ⊢
  simp only [execStagedWriteForward, hstaged, hup, hauth, hblocked, hreset, hpool, Nat.not_lt.mpr hfence,
    Nat.not_lt.mpr hbuf, Nat.not_le.mpr hshared, decide_false, Bool.not_true, Bool.or_false, Bool.false_eq_true, if_false]
  rfl

theorem execStagedWriteForward_beyond (hstaged : (s.hob hob.val).staged = w :: rest) (hfence : w.fence ≤ (s.hob hob.val).fenceLast)
    (hup : s.hostUp hob.val = true) (hauth : s.hostAuth hob.val = true) (hblocked : (s.hob hob.val).fwdBlocked = false)
    (hbuf : w.bufLen < 4096 * w.block + 4096) :
    execStagedWriteForward hob s = .next (s.stopForward hob.val w.xng w.block) := by
  simp only [execStagedWriteForward, hstaged, hup, hauth, hblocked, Nat.not_lt.mpr hfence, hbuf, decide_false, Bool.not_true,
    Bool.or_false, Bool.false_eq_true, if_false, if_true]
  rfl

theorem execStagedWriteForward_waits (hstaged : (s.hob hob.val).staged = w :: rest) (hfence : (s.hob hob.val).fenceLast < w.fence) :
    execStagedWriteForward hob s = .next s := by
  simp only [execStagedWriteForward, hstaged, hfence, decide_true, Bool.true_or, if_true]
  rfl

end

/-- A hob whose forwarding has stopped, and whose run stops with `e` unless it is to stop with another fault (R423). -/
def Hob.forwardStopped (e : End) (z : Hob) : Hob :=
  { z with fwdBlocked := true, run := { z.run with
      stopAt := match z.run.stopAt with
        | some d => some (if d.status = stOk then e else d)
        | none => some e } }

theorem Hob.forwardStopped_none {e : End} {z : Hob} (hstop : z.run.stopAt = none) :
    z.forwardStopped e = { z with fwdBlocked := true, run := { z.run with stopAt := some e } } := by
  simp only [Hob.forwardStopped, hstop]

theorem State.stopForward_eq (s : State) (h xng block : Nat) :
    ∃ hobs, s.stopForward h xng block = { s with hobs := hobs } := ⟨_, rfl⟩

/-- Forwarding that stops at a block asks for a stop with ADDRESS that names it. -/
theorem State.HobBecomes.stopForward {h : Nat} {s t : State} {z : Hob} (a : State.HobBecomes h s t z) (xng block : Nat) :
    ∃ e : End, (e.status = stAddress ∧ e.info0 = xng ∧ e.info1 = block) ∧
      State.HobBecomes h s (t.stopForward h xng block) (z.forwardStopped e) :=
  ⟨{ status := stAddress, detail := _, info0 := xng, info1 := block }, ⟨rfl, rfl, rfl⟩, a.modHob (Hob.forwardStopped _)⟩

/-! ### Acknowledgements and faults -/

theorem execClientWriteAck_ends {txn : Nat} {ok : Bool} {s : State} {x : Txn} {h k r : Nat} (htxn : s.txn txn = some x)
    (hkind : x.kind = .crossing h k r) (hwrite : x.write = true) (hgranted : x.granted = true) (hserved : x.served = true)
    (hok : x.pool ≠ .lanper ∨ ok = true) : execClientWriteAck txn ok s = .next (s.dropTxn txn) := by
  simp only [execClientWriteAck, htxn, hkind, hwrite, hgranted, hserved, Bool.not_true, Bool.or_false, Bool.false_eq_true, if_false, Bool.true_or,
    if_true]
  split
  · next hpool =>
    have hok' : ok = true := hok.resolve_left fun hne => hne hpool
    simp only [hok', Bool.not_true, Bool.false_eq_true, if_false]
    rfl
  · rfl

/-- A host read whose access fails is marked, and its step fails (R423). -/
theorem State.hostFault_read {s : State} {txn : Nat} {x : Txn} {h k r : Nat} (htxn : s.txn txn = some x) (hpool : x.pool = .host)
    (hkind : x.kind = .crossing h k r) (hbreach : x.breach = false) :
    ∃ e : End, s.hostFault txn = .next ((s.modTxn txn fun u => { u with breach := true }).failFence h x.stamp e) := by
  simp only [State.hostFault, htxn, hpool, hkind, hbreach, bne_self_eq_false, Bool.false_eq_true, if_false]
  exact ⟨_, rfl⟩

theorem State.hostFault_forward {s : State} {txn : Nat} {x : Txn} {h : Nat} (htxn : s.txn txn = some x) (hpool : x.pool = .host)
    (hkind : x.kind = .forward h) :
    s.hostFault txn = .next (((s.dropTxn txn).modHob h fun y => { y with
      staged := x.staged.getD { fence := x.stamp, xng := x.region, block := x.addr / 4096, data := x.data } :: y.staged }).stopForward h
        x.region (x.addr / 4096)) := by
  simp only [State.hostFault, htxn, hpool, hkind, bne_self_eq_false, Bool.false_eq_true, if_false]
  rfl

/-- A fault against a step whose fence is not closing is a breach of the running step (R131). -/
theorem State.failFence_running {s : State} {h f : Nat} (e : End) (hrunning : ((s.hob h).closing.any fun c => c.fence == f) = false) :
    s.failFence h f e = s.breachAt h e := by
  simp only [State.failFence, hrunning, Bool.false_eq_true, if_false]

/-- A hob whose closing fence `f` has failed with `e`, unless it had failed already. -/
def Hob.failsFence (f : Nat) (e : End) (z : Hob) : Hob :=
  { z with closing := z.closing.map fun c => if c.fence = f && c.failed.isNone then { c with failed := some e } else c }

/-- A fault against the oldest closing fence stops the hob without commit (R131). -/
theorem State.failFence_oldest {s : State} {h : Nat} {c : Closing} {rest : List Closing} (e : End) (hclosing : (s.hob h).closing = c :: rest)
    (hfailed : c.failed = none) : State.StopsUncommitted h s (s.failFence h c.fence e) := by
  have hany : ((s.hob h).closing.any fun d => d.fence == c.fence) = true := by simp [hclosing]
  have hhead : ∃ rest', ((s.modHob h (Hob.failsFence c.fence e)).hob h).closing = { c with failed := some e } :: rest' := by
    rw [State.hob_modHob, if_pos rfl]
    exact ⟨_, by simp only [Hob.failsFence, hclosing, List.map_cons, hfailed, Option.isNone_none, decide_true, Bool.and_self, if_true]; rfl⟩
  obtain ⟨rest', hhead⟩ := hhead
  have heq : s.failFence h c.fence e = (s.modHob h (Hob.failsFence c.fence e)).failHead h := if_pos hany
  rw [heq, State.failHead_failed hhead rfl]
  exact (State.stopFailed_spec _ h _).of_modHob rfl

/-- Settles O15: staged blocks go out in order after their commit, acknowledgements end writes, and faults mark, stop or unstage. -/
theorem hostWritesAreStagedUntilCommit : Obligations.HostWritesAreStagedUntilCommit := by
  unfold Obligations.HostWritesAreStagedUntilCommit
  refine ⟨?forward, ?beyond, ?before, ?ack, ?readFault, ?closingFault, ?forwardFault⟩
  case forward =>
    intro hob s w rest hstaged hfence hup hauth hblocked hbuf hshared hreset hpool
    have hexec := execStagedWriteForward_forwards hstaged hfence hup hauth hblocked hbuf hshared hreset hpool
    have hlocal : (s.forwardTxn hob.val w).pool ≠ .lanper := by simp [State.forwardTxn]
    have hbec := (((State.HobBecomes.same (h := hob.val) (s := s) (u := s.touchStack (relStack w.stgAddr)) rfl).modHob fun y =>
      { y with staged := rest }).addTxn hlocal).emit (.hostData (s.hob hob.val).grant.hport.toNat (w.buf + 4096 * w.block) w.data)
    refine ⟨_, hexec, ?frame, ?stack, fun k => hbec.others, hbec.self, ?added, ?out⟩
    all_goals rw [State.addTxn_local _ _ hlocal]
    case frame => rfl
    case stack =>
      intro k hk
      have htouch : (s.touchStack (relStack w.stgAddr)).stack k = s.stack k := (State.stack_modStack ..).trans (if_neg hk)
      rw [← htouch, State.stack, State.stack]
      simp only [State.emit_frame, State.modHob_frame]
    case added => simp [State.touchStack, State.emit]
    case out => rfl
  case beyond =>
    intro hob s w rest hstaged hfence hup hauth hblocked hbuf hstop
    obtain ⟨e, ⟨hstatus, hinfo0, hinfo1⟩, hbec⟩ := (State.HobBecomes.refl (h := hob.val) (s := s)).stopForward w.xng w.block
    rw [Hob.forwardStopped_none hstop] at hbec
    exact ⟨_, e, execStagedWriteForward_beyond hstaged hfence hup hauth hblocked hbuf, rfl, fun k => hbec.others, hbec.self, hstatus, hinfo0, hinfo1⟩
  case before =>
    intro hob s w rest hstaged hfence
    exact execStagedWriteForward_waits hstaged hfence
  case ack =>
    intro txn ok s x h k r htxn hkind hwrite hgranted hserved hok
    exact ⟨_, execClientWriteAck_ends htxn hkind hwrite hgranted hserved hok, rfl⟩
  case readFault =>
    intro txn s x h k r htxn hpool hkind hbreach hrunning
    obtain ⟨e, hexec⟩ := State.hostFault_read htxn hpool hkind hbreach
    have hmarked : State.HobBecomes h s (s.modTxn txn fun u => { u with breach := true }) (s.hob h) := State.HobBecomes.same rfl
    rw [State.failFence_running e (by rw [hmarked.self]; exact hrunning)] at hexec
    have hbec := hmarked.breachAt e
    refine ⟨_, hexec, rfl, rfl, fun j => hbec.others, ?_⟩
    rw [hbec.self]
    exact ⟨rfl, rfl⟩
  case closingFault =>
    intro txn s x h k r c rest htxn hpool hkind hbreach hclosing hstamp hfailed
    obtain ⟨e, hexec⟩ := State.hostFault_read htxn hpool hkind hbreach
    rw [← hstamp] at hexec
    have hstop : State.StopsUncommitted h (s.modTxn txn fun u => { u with breach := true }) _ := State.failFence_oldest e hclosing hfailed
    exact ⟨_, hexec, hstop.mem, hstop.lines, hstop.others, hstop.st, hstop.fenceLast, hstop.closing⟩
  case forwardFault =>
    intro txn s x h htxn hpool hkind
    have hunstaged := (State.HobBecomes.same (h := h) (s := s) (u := s.dropTxn txn) rfl).modHob fun y => { y with
      staged := x.staged.getD { fence := x.stamp, xng := x.region, block := x.addr / 4096, data := x.data } :: y.staged }
    obtain ⟨e, _, hbec⟩ := hunstaged.stopForward x.region (x.addr / 4096)
    refine ⟨_, State.hostFault_forward htxn hpool hkind, ?frame, fun j => hbec.others, ?own⟩
    case frame =>
      obtain ⟨hobs, heq⟩ := State.stopForward_eq ((s.dropTxn txn).modHob h fun y => { y with
        staged := x.staged.getD { fence := x.stamp, xng := x.region, block := x.addr / 4096, data := x.data } :: y.staged }) h x.region (x.addr / 4096)
      rw [heq]
      simp only [State.modHob_frame, State.dropTxn]
    case own =>
      rw [hbec.self]
      exact ⟨rfl, rfl⟩

end Sys2Proof.Machine
end

section
/-! Replay of the oldest uncommitted step (R104, R131, R268, R273 to R275). -/

namespace Sys2Proof.Machine

open Sys2Proof

/-! ### What the work of a replay leaves of the steps -/

/-- Where the steps of a hob stand: its state, its replays, its closing fences, its last committed fence and its clock. -/
def Hob.steps (z : Hob) : HobState × Replay × List Closing × Nat × Clock := (z.st, z.replay, z.closing, z.fenceLast, z.clk)

section

variable {s t u : State}

/-- What the steering of wires, lids and reports leaves: where the steps of every hob stand, and the lines of stack memory. -/
structure State.KeepsSteps (s t : State) : Prop where
  steps : ∀ k, (t.hob k).steps = (s.hob k).steps
  lines : t.lines = s.lines

namespace State.KeepsSteps

theorem refl : s.KeepsSteps s := ⟨fun _ => rfl, rfl⟩

theorem trans (a : s.KeepsSteps t) (b : t.KeepsSteps u) : s.KeepsSteps u :=
  ⟨fun k => (b.steps k).trans (a.steps k), b.lines.trans a.lines⟩

theorem of_hobs (a : s.KeepsSteps t) (hhobs : u.hobs = t.hobs) (hlines : u.lines = t.lines) : s.KeepsSteps u :=
  a.trans ⟨fun k => congrArg Hob.steps (State.hob_of_hobs hhobs k), hlines⟩

theorem modHob (a : s.KeepsSteps t) (h : Nat) (f : Hob → Hob) (hf : ∀ z, (f z).steps = z.steps) : s.KeepsSteps (t.modHob h f) :=
  a.trans ⟨fun k => State.modHob_proj Hob.steps t h k f hf, rfl⟩

theorem modPos (a : s.KeepsSteps t) (q : Nat) (f : Health → Health) : s.KeepsSteps (t.modPos q f) := a.of_hobs rfl rfl

theorem modRouter (a : s.KeepsSteps t) (q : Nat) (f : Router → Router) : s.KeepsSteps (t.modRouter q f) := a.of_hobs rfl rfl

theorem ite {c : Prop} [Decidable c] {v : State} (a : s.KeepsSteps t) (b : s.KeepsSteps v) : s.KeepsSteps (if c then t else v) := by
  split
  · exact a
  · exact b

theorem foldl {α : Type} (a : s.KeepsSteps t) (f : State → α → State) (hf : ∀ v x, State.KeepsSteps v (f v x)) (l : List α) :
    s.KeepsSteps (l.foldl f t) := by
  induction l generalizing t with
  | nil => exact a
  | cons x xs ih => exact ih (a.trans (hf t x))

theorem hold {z : Hob} (now c x : Nat) : ((z.addCause now c).freeze now c x).steps = z.steps :=
  (Hob.freeze_proj Hob.steps _ now (fun _ _ _ => rfl) (fun _ _ _ => rfl) c x).trans (Hob.addCause_proj Hob.steps z now (fun _ _ _ => rfl) c)

theorem avlStart (a : s.KeepsSteps t) (part key : Nat) : s.KeepsSteps (t.avlStart part key) := a.of_hobs (by simp) (by simp)

theorem holdFor (a : s.KeepsSteps t) (h cause : Nat) : s.KeepsSteps (t.holdFor h cause) := by
  unfold State.holdFor
  extract_lets s1
  have h1 : s.KeepsSteps s1 := by
    refine a.modHob h _ fun z => ?_
    split
    · rfl
    · split
      · rfl
      · exact hold ..
  exact ite a (ite (h1.avlStart ..) h1)

theorem logDev (a : s.KeepsSteps t) (code hob : Nat) (args : List Nat) : s.KeepsSteps (t.logDev code hob args) := a.of_hobs (by simp) (by simp)

theorem lid (a : s.KeepsSteps t) (p : Nat) (test : Bool) : s.KeepsSteps (t.lid p test) := by
  have hlid : ∀ f code hob args, s.KeepsSteps ((t.modPos p f).logDev code hob args) := fun f _ _ _ =>
    (a.modPos p f).logDev ..
  unfold State.lid
  dsimp only
  refine a.ite (ite (hlid ..) ?_)
  split
  · exact (hlid ..).holdFor ..
  · exact (hlid ..).of_hobs rfl rfl

theorem lidBadLinks (a : s.KeepsSteps t) (p : Nat) : s.KeepsSteps (t.lidBadLinks p) := a.foldl _ (fun _ q => refl.lid q true) _

theorem hobEvent (a : s.KeepsSteps t) (h status detail info1 : Nat) : s.KeepsSteps (t.hobEvent h status detail info1) :=
  a.trans ⟨fun k => State.hobEvent_proj Hob.steps t h k (fun _ _ => rfl) .., by simp⟩

theorem report (a : s.KeepsSteps t) (h status seq : Nat) (bytes : List Byte) : s.KeepsSteps (t.report h status seq bytes) :=
  (a.modHob h (fun z => { z with reports := z.reports ++ [{ seq := seq, bytes := bytes }] }) fun _ => rfl).hobEvent ..

theorem eccReport (a : s.KeepsSteps t) (h : Nat) (l : List EccLine) : s.KeepsSteps (t.eccReport h l) :=
  (a.of_hobs (u := t.nextReport.2) (by simp) (by simp)).report ..

theorem lateTaint (a : s.KeepsSteps t) (p cause : Nat) : s.KeepsSteps (t.lateTaint p cause) := by
  refine a.foldl _ (fun v h => ?_) _
  unfold State.taintHob
  dsimp only
  split
  · exact refl
  · have hnext : v.KeepsSteps v.nextReport.2 := refl.of_hobs (by simp) (by simp)
    exact hnext.report ..

theorem scoreLid (a : s.KeepsSteps t) (p : Nat) : s.KeepsSteps (t.scoreLid p) := by
  have hlids : ∀ expel, s.KeepsSteps { t with expel := expel } := fun _ => a.of_hobs rfl rfl
  have htest : ∀ (v : State) q, s.KeepsSteps v → s.KeepsSteps (v.commonCause q) := fun v q b => ite b (b.of_hobs rfl rfl)
  exact ite (htest _ _ ((hlids _).modPos ..)) ((hlids _).lid ..)

theorem settlePermanent (a : s.KeepsSteps t) (p : Nat) : s.KeepsSteps (t.settlePermanent p) := by
  unfold State.settlePermanent
  dsimp only
  split
  · exact ((a.of_hobs (u := t.setPos p _) rfl rfl).lateTaint ..).scoreLid ..
  · exact a

theorem endHold8 (a : s.KeepsSteps t) (h : Nat) : s.KeepsSteps (t.endHold8 h) := ite a (a.modHob _ _ fun _ => rfl)

end State.KeepsSteps

end

/-! ### Filling resident slots leaves the steps too -/

theorem State.readLines_hobs (s : State) (key dev n : Nat) : (s.readLines key dev n).2.2.2.hobs = s.hobs :=
  foldl_proj (fun x : List Nat × List Nat × List Byte × State => x.2.2.2.hobs) _ (fun _ _ => State.readLine_hobs ..) _ _

theorem State.fillBlock_hobs (s : State) (h p slot base block : Nat) : (s.fillBlock h p slot base block).2.hobs = s.hobs := by
  unfold State.fillBlock
  dsimp only
  split
  · rfl
  · simp only [State.modCell_frame, State.readLines_hobs]
    rfl

theorem State.fillSlot_steps (s : State) (h n slot k : Nat) : ((s.fillSlot h n slot).hob k).steps = (s.hob k).steps := by
  have hblocks : ∀ (p base : Nat) (l : List Nat), (l.foldl (fun (x : List Nat × State) j =>
      (x.1 ++ (x.2.fillBlock h p slot base j).1, (x.2.fillBlock h p slot base j).2)) ([], s)).2.hobs = s.hobs :=
    fun p base l => foldl_proj (fun x : List Nat × State => x.2.hobs) _ (fun x j => by exact x.2.fillBlock_hobs h p slot base j) l ([], s)
  have hfilled : ∀ (v : State) (f : Hob → Hob), v.hobs = s.hobs → (∀ z, (f z).steps = z.steps) → ((v.modHob h f).hob k).steps = (s.hob k).steps :=
    fun v f hv hf => (State.modHob_proj Hob.steps v h k f hf).trans (congrArg Hob.steps (State.hob_of_hobs hv k))
  unfold State.fillSlot
  dsimp only
  split
  · exact State.modHob_proj Hob.steps s h k _ fun _ => rfl
  · split
    · exact hfilled _ _ (hblocks ..) fun _ => rfl
    · exact ((State.KeepsSteps.refl.eccReport ..).steps k).trans (hfilled _ _ (hblocks ..) fun _ => rfl)

theorem State.fillResident_steps (s : State) (h n k : Nat) : ((s.fillResident h n).hob k).steps = (s.hob k).steps :=
  State.each_proj (fun v => (v.hob k).steps) s _ _ fun v i => by
    split
    · exact v.fillSlot_steps h n i k
    · rfl

/-! ### The rewound hob -/

section

variable {h : Nat} {s t : State} {z : Hob}

theorem State.HobBecomes.holdNow (a : State.HobBecomes h s t z) (cause : Nat) :
    ∃ hold, State.HobBecomes h s (t.holdNow h cause) { z with hold := hold } := by
  unfold State.holdNow
  extract_lets s1
  have h1 : ∃ hold, State.HobBecomes h s s1 { z with hold := hold } := by
    have hheld := a.modHob fun x => ({ x with hold := { x.hold with sched := x.hold.sched.filter fun y => y.1 != cause } }.addCause
      t.now cause).freeze t.now cause 0
    rw [Hob.heldFor_eq] at hheld
    exact ⟨_, hheld⟩
  obtain ⟨hold, h1⟩ := h1
  split
  · exact ⟨z.hold, a⟩
  · split
    · exact ⟨hold, h1.of_hobs (by simp)⟩
    · exact ⟨hold, h1⟩

theorem State.HobBecomes.avlStart (a : State.HobBecomes h s t z) (part key : Nat) : State.HobBecomes h s (t.avlStart part key) z :=
  a.of_hobs (by simp)

theorem State.HobBecomes.tellPeers (a : State.HobBecomes h s t z) (k kind : Nat) (what : String) (vals : List Nat) :
    State.HobBecomes h s (t.tellPeers k kind what vals) z := by
  obtain ⟨lnps, out, heq⟩ := t.tellPeers_eq k kind what vals
  rw [heq]
  exact a.of_hobs rfl

theorem State.dropLandings_hobs (s : State) (h n : Nat) : (s.dropLandings h n).hobs = s.hobs := by
  obtain ⟨_, _, _, heq⟩ := (State.Replies.refl (s := s).dropLandings h n).frame
  rw [heq]

/-- A rewound hob stands at the step after its last committed fence, and no fence of it is closing (R104, R274). -/
structure Hob.Rewound (z w : Hob) : Prop where
  st : w.st = z.st
  replay : (w.replay.count, w.replay.tries) = (z.replay.count, z.replay.tries)
  closing : w.closing = []
  fenceLast : w.fenceLast = z.fenceLast
  clk : w.clk = { z.clk with
    cyc := z.clk.nextStart, stepStart := z.clk.nextStart, step := z.nextStep, fence := z.fenceLast + 1, live := true, unheld := [] }

theorem State.HobBecomes.rewind (a : State.HobBecomes h s t z) (clear : Bool) :
    ∃ w, State.HobBecomes h s (t.rewind h clear) w ∧ z.Rewound w := by
  obtain ⟨cow, hcow⟩ := a.cancelCapture
  unfold State.rewind
  extract_lets x k cells s1 s2
  have hx : x = z := a.self
  have h1 := hcow.modHob fun y => { ((y.endCause 1).endCause 2) with
      closing := [], awaits := none, peerClosed := y.peerClosed.filter fun p => y.fenceLast < p.1, eccLines := [],
      staged := y.staged.filter fun w => w.fence ≤ y.fenceLast,
      xng := y.xng.map fun q => (q.1, { q.2 with issued := 0, addrRead := none, buf := [] }),
      hold := { ((y.endCause 1).endCause 2).hold with waits := [], req := none, target := none },
      run := { y.run with breach := none },
      replay := { y.replay with sched := y.replay.sched ++ y.replay.noted, noted := [] },
      clk := { y.clk with cyc := y.clk.nextStart, stepStart := y.clk.nextStart, step := k, fence := y.fenceLast + 1, live := true, unheld := [] } }
  have h1' : State.HobBecomes h s s1 _ := h1
  have h2 : State.HobBecomes h s s2 _ := (h1'.of_hobs (u := { s1 with txns := runOut s1.txns h }) rfl).each _ (fun _ _ => by exact rfl) _
  refine ⟨_, h2.each _ (fun v n => ?_) _, ?_⟩
  · exact v.dropLandings_hobs h n
  · simp only [k, hx]
    exact ⟨rfl, rfl, rfl, rfl, rfl⟩

end

theorem State.tellPeers_lines (s : State) (h kind : Nat) (what : String) (vals : List Nat) :
    (s.tellPeers h kind what vals).lines = s.lines := by
  obtain ⟨lnps, out, heq⟩ := s.tellPeers_eq h kind what vals
  rw [heq]

theorem State.dropLandings_lines (s : State) (h n : Nat) : (s.dropLandings h n).lines = s.lines := by
  obtain ⟨_, _, _, heq⟩ := (State.Replies.refl (s := s).dropLandings h n).frame
  rw [heq]

theorem State.rewind_lines (s : State) (h : Nat) (clear : Bool) : (s.rewind h clear).lines = s.lines := by
  unfold State.rewind
  extract_lets x k cells s1 s2
  have h1 : s1.lines = s.lines := (s.cancelCapture_frame h).1
  have h2 : s2.lines = s1.lines := State.each_proj State.lines { s1 with txns := runOut s1.txns h } _ _ fun _ _ => rfl
  refine (State.each_proj State.lines _ _ _ fun v n => ?_).trans (h2.trans h1)
  exact v.dropLandings_lines h n

/-! ### Replays and stops -/

/-- A hob whose oldest uncommitted step is being replayed for a fault of status `status` (R274, R275). -/
structure Hob.Replayed (status : Nat) (z w : Hob) : Prop where
  count : w.replay.count = z.replay.count + 1
  tries : w.replay.tries = z.replay.tries + 1
  code : w.replay.code = BitVec.ofNat 8 status
  closing : w.closing = []
  fenceLast : w.fenceLast = z.fenceLast
  cyc : w.clk.cyc = z.clk.nextStart
  step : w.clk.step = z.nextStep
  fence : w.clk.fence = z.fenceLast + 1

/-- Being replayed is a matter of where the steps of a hob stand. -/
theorem Hob.Replayed.of_steps {status : Nat} {z w v : Hob} (a : z.Replayed status w) (hsteps : v.steps = w.steps) : z.Replayed status v := by
  simp only [Hob.steps, Prod.mk.injEq] at hsteps
  obtain ⟨-, hreplay, hclosing, hfence, hclk⟩ := hsteps
  exact ⟨hreplay ▸ a.count, hreplay ▸ a.tries, hreplay ▸ a.code, hclosing ▸ a.closing, hfence ▸ a.fenceLast, hclk ▸ a.cyc, hclk ▸ a.step,
    hclk ▸ a.fence⟩

section

variable {s : State} {h : Nat}

/-- The state with a fault that has met the same position in two runs marked recurred there (R275). -/
def State.markedFor (s : State) (h status : Nat) (at_ : Option Nat) : State :=
  match at_ with
  | some p => if (s.hob h).replay.last == some (status, p) then s.markRecurred p status else s
  | none => s

/-- The mark is made in the history of the position alone. -/
theorem State.markedFor_keeps (s : State) (h status : Nat) (at_ : Option Nat) :
    (s.markedFor h status at_).hobs = s.hobs ∧ (s.markedFor h status at_).lines = s.lines := by
  unfold State.markedFor
  split
  · split <;> exact ⟨rfl, rfl⟩
  · exact ⟨rfl, rfl⟩

/-- A hob that has an uncommitted step, whose oldest one has not failed, and whose hearth is there, can be asked to replay (R274). -/
structure State.CanReplay (s : State) (h : Nat) : Prop where
  runs : (s.hob h).runs = true
  uncommitted : (s.hob h).uncommitted = true
  up : s.resets.hearthDown = false
  sound : (s.hob h).oldestFailed = false

theorem State.replayAt_replays (hcan : s.CanReplay h) (htries : (s.hob h).replay.tries ≠ 3) (status n : Nat) (at_ : Option Nat) :
    (s.hob h).Replayed status ((s.replayAt h status n at_).hob h) ∧ (status ≠ stEccUe → (s.replayAt h status n at_).lines = s.lines) := by
  obtain ⟨hruns, huncommitted, hup, hsound⟩ := hcan
  unfold State.replayAt
  extract_lets x here s0 s1 back s2 free s3 s4
  rw [if_neg (by simp [x, hruns, huncommitted, hsound]), if_neg (by simp [hup]), if_neg htries]
  obtain ⟨hhobs0, hlines0⟩ : s0.hobs = s.hobs ∧ s0.lines = s.lines := s.markedFor_keeps h status at_
  have h1 : ∃ hold, State.HobBecomes h s s1 { s.hob h with hold := hold } := by
    obtain ⟨hold, hheld⟩ := (State.HobBecomes.same hhobs0).holdNow 8
    exact ⟨hold, (hheld.avlStart 1 h).tellPeers ..⟩
  have hlines1 : s1.lines = s.lines := by
    simp only [s1, State.tellPeers_lines, State.avlStart_frame, State.holdNow_frame, hlines0]
  clear_value s1
  obtain ⟨hold, h1⟩ := h1
  obtain ⟨w, hrewound, hw⟩ := h1.rewind false
  have hreplayed : (s.hob h).Replayed status (s2.hob h) := by
    rw [(hrewound.modHob _).self]
    obtain ⟨hcount, htried⟩ := Prod.mk.inj hw.replay
    exact ⟨congrArg (· + 1) hcount, congrArg (· + 1) htried, rfl, hw.closing, hw.fenceLast, congrArg Clock.cyc hw.clk,
      congrArg Clock.step hw.clk, congrArg Clock.fence hw.clk⟩
  have hlines2 : s2.lines = s1.lines := by simp only [s2, State.modHob_frame, State.rewind_lines]
  clear_value s2
  have h3 : s2.KeepsSteps s3 := State.KeepsSteps.refl.foldl _ (fun v q => (State.KeepsSteps.refl.modRouter q Router.steer).lidBadLinks q) _
  clear_value s3
  have h4 : (s4.hob h).steps = (s3.hob h).steps := by
    simp only [s4]
    split
    · exact s3.fillResident_steps h n h
    · rfl
  have hlines4 : status ≠ stEccUe → s4.lines = s3.lines := fun hue => congrArg State.lines (if_neg hue)
  clear_value s4
  have hend : s4.KeepsSteps ((s4.endHold8 h).modHob h fun y => y.endCause 3) :=
    (State.KeepsSteps.refl.endHold8 h).modHob h _ fun _ => rfl
  exact ⟨hreplayed.of_steps (((hend.steps h).trans h4).trans (h3.steps h)),
    fun hue => hend.lines.trans ((hlines4 hue).trans (h3.lines.trans (hlines2.trans hlines1)))⟩

/-- A fourth fault stops the hob without commit (R274, R275). -/
theorem State.replayAt_stops (hcan : s.CanReplay h) (htries : (s.hob h).replay.tries = 3) (status n : Nat) (at_ : Option Nat) :
    ((s.replayAt h status n at_).hob h).st = .stopped ∧ ((s.replayAt h status n at_).hob h).fenceLast = (s.hob h).fenceLast := by
  obtain ⟨hruns, huncommitted, hup, hsound⟩ := hcan
  unfold State.replayAt
  extract_lets x here s0 s1 back s2 free s3 s4
  rw [if_neg (by simp [x, hruns, huncommitted, hsound]), if_neg (by simp [hup]), if_pos htries]
  have hhobs0 : s0.hobs = s.hobs := (s.markedFor_keeps h status at_).1
  have hstop := s0.stopFailed_spec h { status := status, detail := n, info0 := x.fenceLast + 1 }
  exact ⟨hstop.st, hstop.fenceLast.trans (congrArg Hob.fenceLast (State.hob_of_hobs hhobs0 h))⟩

end

/-- PEER_FENCE_FAILED of the oldest uncommitted fence is a replay, with a status and a cell that nothing constrains (R274, R275). -/
theorem execPeerFenceFailed_replays {hob : HobId} {peer : BitVec 13} {f : Nat} {s : State} (hpeer : peer.toNat ∈ (s.hob hob.val).rcp.peers)
    (hf : f = (s.hob hob.val).fenceLast + 1) :
    ∃ code cell, code < 256 ∧ execPeerFenceFailed hob peer f s = .next ({ s with free := s.free + 1 + 1 }.replayAt hob.val code cell none) := by
  unfold execPeerFenceFailed
  refine ⟨_, _, ?_, if_pos (by simp [hpeer, hf])⟩
  exact Nat.mod_lt _ (by decide)

/-- REPLAY_START replays; a history that has become permanent is settled beside it, which leaves the steps (R276, R302). -/
theorem execReplayStart_replays {hob : HobId} {status : Nat} {cell : BitVec 13} {s : State} (hstatus : status ∈ [25, 26, 27, 28, 29, 30]) :
    ∃ t, execReplayStart hob status cell s = .next t ∧
      t.mem = s.mem ∧ (s.replayAt hob.val status cell.toNat (some (s.posOf hob.val cell.toNat))).KeepsSteps t := by
  unfold execReplayStart
  refine ⟨_, if_pos (decide_eq_true hstatus), ?_, ?_⟩
  · split <;> simp
  · exact (State.KeepsSteps.refl.settlePermanent _).ite State.KeepsSteps.refl

/-- Settles O14: a fault rewinds the hob to the step after its last committed fence, and a fourth one stops it. -/
theorem faultsReplayTheStep : Obligations.FaultsReplayTheStep := by
  unfold Obligations.FaultsReplayTheStep
  refine ⟨?peerReplays, ?replays, ?stops, ?peerStops⟩
  case peerReplays =>
    intro hob peer f s hpeer hf hruns huncommitted hup hsound htries
    obtain ⟨code, cell, hcode, hexec⟩ := execPeerFenceFailed_replays hpeer hf
    have hcan : State.CanReplay { s with free := s.free + 1 + 1 } hob.val := ⟨hruns, huncommitted, hup, hsound⟩
    obtain ⟨hrep, hlines⟩ := State.replayAt_replays hcan htries code cell none
    refine ⟨_, hexec, (State.replayAt_keeps ..).1, fun hue => hlines ?_, hrep.count, hrep.tries, hrep.closing, hrep.fenceLast, hrep.cyc, hrep.step,
      hrep.fence⟩
    rwa [hrep.code, BitVec.toNat_ofNat, Nat.mod_eq_of_lt hcode] at hue
  case replays =>
    intro hob st cell s hst hruns huncommitted hup hsound htries
    obtain ⟨t, hexec, hmem, hkeeps⟩ := execReplayStart_replays (hob := hob) (cell := cell) (s := s) hst
    obtain ⟨hrep, hlines⟩ := State.replayAt_replays ⟨hruns, huncommitted, hup, hsound⟩ htries st cell.toNat
      (some (s.posOf hob.val cell.toNat))
    have hrep' := hrep.of_steps (hkeeps.steps hob.val)
    exact ⟨t, hexec, hmem, fun hue => hkeeps.lines.trans (hlines hue), hrep'.count, hrep'.tries, hrep'.closing, hrep'.fenceLast, hrep'.cyc, hrep'.step,
      hrep'.fence⟩
  case stops =>
    intro hob st cell s hst hruns huncommitted hup hsound htries
    obtain ⟨t, hexec, hmem, hkeeps⟩ := execReplayStart_replays (hob := hob) (cell := cell) (s := s) hst
    obtain ⟨hstopped, hfence⟩ := State.replayAt_stops ⟨hruns, huncommitted, hup, hsound⟩ htries st cell.toNat
      (some (s.posOf hob.val cell.toNat))
    have hsteps := hkeeps.steps hob.val
    simp only [Hob.steps, Prod.mk.injEq] at hsteps
    obtain ⟨hst', -, -, hfence', -⟩ := hsteps
    exact ⟨t, hexec, hmem, hst'.trans hstopped, hfence'.trans hfence⟩
  case peerStops =>
    intro hob peer f s hpeer hf hruns huncommitted hup hsound htries
    obtain ⟨code, cell, -, hexec⟩ := execPeerFenceFailed_replays hpeer hf
    have hcan : State.CanReplay { s with free := s.free + 1 + 1 } hob.val := ⟨hruns, huncommitted, hup, hsound⟩
    obtain ⟨hstopped, hfence⟩ := State.replayAt_stops hcan htries code cell none
    exact ⟨_, hexec, (State.replayAt_keeps ..).1, hstopped, hfence⟩

end Sys2Proof.Machine
end

section
/-! The damper's obligation fails: THERMAL_HOLD leaves a hob that has cause 8 in force already as it is, frozen or not (R120, R121, R414). -/

namespace Sys2Proof.Machine

open Sys2Proof

/-- The maximum sensor has been above 100 °C for 100 ms, and hob 0 runs between two steps with cause 8 in force but is not frozen. -/
def hotUnfrozen : State :=
  { now := 100000000, damper := { hotSince := some 0, tjmax := 401 }, hobs := [(0, { st := .running, hold := { causes := [8] } })] }

theorem hotUnfrozen_stays : ∃ t, exec .thermalHold hotUnfrozen = .next t ∧ (t.hob 0).hold.frozen = false := ⟨_, rfl, by decide⟩

/-- Refutes O45: THERMAL_HOLD adds a cause and freezes only where cause 8 is not in force yet (`State.holdFor`), so a running hob that has
cause 8 in force and is not frozen stays unfrozen, while the THERMAL_HOLD clause asks that every hob between two steps is frozen. -/
theorem not_theDamperHoldsPowerAndHeat : ¬ Obligations.TheDamperHoldsPowerAndHeat := by
  unfold Obligations.TheDamperHoldsPowerAndHeat
  rintro ⟨-, -, -, -, hhold, -⟩
  obtain ⟨t, hexec, -, -, -, hheld⟩ := hhold hotUnfrozen 0 rfl (by decide) (by decide) rfl rfl
  obtain ⟨hatOnce, -⟩ := hheld 0 (by decide) (by decide) (by decide)
  obtain ⟨-, hfrozen⟩ := hatOnce (Or.inl (by decide))
  obtain ⟨u, hexec', hunfrozen⟩ := hotUnfrozen_stays
  have htu : t = u := by
    rw [hexec] at hexec'
    injection hexec'
  rw [htu, hunfrozen] at hfrozen
  exact Bool.false_ne_true hfrozen

end Sys2Proof.Machine
end

section
/-! The obligation on runs fails at LOAD_RECIPE: a load fills resident slots from their home copies, whose lines can fail (R133, R192, R206). -/

namespace Sys2Proof.Machine

open Sys2Proof

/-! ### Records of zeros in an image -/

/-- A key that no entry has reads the default. -/
theorem Tab.get_eq_default {α : Type} (d : α) (t : Tab α) (i : Nat) (h : ∀ e ∈ t, e.1 ≠ i) : t.get d i = d := by
  induction t with
  | nil => rfl
  | cons e t ih =>
    rw [Tab.get, if_neg (h e List.mem_cons_self)]
    exact ih fun x hx => h x (List.mem_cons_of_mem e hx)

/-- Bytes that an image does not list read 0. -/
theorem Image.nat_eq_zero (im : Image) (off n : Nat) (h : ∀ i < n, Tab.get 0 im.bytes (off + i) = 0) : im.nat off n = 0 := by
  have hbytes : (List.range n).map (fun i => Tab.get 0 im.bytes (off + i)) = List.replicate n 0 := by
    rw [List.map_congr_left fun i hi => h i (List.mem_range.mp hi), List.map_const', List.length_range]
  rw [Image.nat, hbytes]
  clear h hbytes
  induction n with
  | zero => rfl
  | succ n ih => simpa [List.replicate_succ, leNat] using ih

/-- A slot record of zeros is the default slot. -/
theorem Image.slotRec_of_zero (im : Image) (a : Nat) (h : ∀ off n, a ≤ off → off + n ≤ a + 160 → im.nat off n = 0) :
    im.slotRec a = {} := by
  have hregions : (List.range 16).foldl (fun (t : Tab Region) i => t.put {} i (regionOf (im.nat (a + 0x20 + 8 * i) 8))) [] = [] := by
    refine (List.foldl_ext _ (fun t i => t.put {} i {}) _ fun t i hi => ?_).trans rfl
    have hlt := List.mem_range.mp hi
    rw [h _ 8 (by omega) (by omega)]
    rfl
  simp only [Image.slotRec, hregions, h a 4 (by omega) (by omega), h (a + 4) 4 (by omega) (by omega),
    h (a + 8) 8 (by omega) (by omega), h (a + 0x10) 4 (by omega) (by omega), h (a + 0x14) 4 (by omega) (by omega)]
  rfl

/-- A slot record of zeros passes. -/
theorem Hob.slotOk_of_zero (z : Hob) (im : Image) (static : Bool) (a : Nat)
    (h : ∀ off n, a ≤ off → off + n ≤ a + 160 → im.nat off n = 0) : z.slotOk im static a = true := by
  have hdesc : (List.range 16).map (fun i => im.nat (a + 0x20 + 8 * i) 8) = List.replicate 16 0 := by
    have hzero : ∀ i ∈ List.range 16, im.nat (a + 0x20 + 8 * i) 8 = 0 := fun i hi => by
      have hlt := List.mem_range.mp hi
      exact h _ 8 (by omega) (by omega)
    rw [List.map_congr_left hzero, List.map_const', List.length_range]
  simp only [Hob.slotOk, hdesc, Image.slotRec_of_zero im a h, Image.zero, h a 4 (by omega) (by omega),
    h (a + 4) 4 (by omega) (by omega), h (a + 0x18) 8 (by omega) (by omega)]
  cases static <;> rfl

/-! ### A recipe image that passes every check, and a hob that takes it -/

/-- An image by its bytes that are not 0 (R99 to R102, R419): a version 2 sequencer recipe of 8 × 1 cells at 800 MHz with one step of one
period, one station on cell 0, and slot 0 of cell 0 valid and resident with its home copy at the hob's first bytes. -/
def residentBytes : List (Nat × Byte) :=
  [(0, 0x46), (1, 0x43), (2, 0x52), (3, 0x50), (4, 2), (6, 1), (8, 0x20), (9, 3), (0xA, 1), (0xB, 1), (0xC, 1), (0xE, 4), (0x10, 1), (0x19, 0x60),
   (0x100, 1), (0x104, 1), (0x108, 0x20),
   (0x110, 2), (0x114, 2), (0x119, 0x14),
   (0x120, 7), (0x124, 4), (0x128, 8),
   (0x130, 0xB), (0x134, 5), (0x138, 0x80),
   (0x1006, 1), (0x1007, 1),
   (0x2001, 1), (0x2003, 0xC0),
   (0x4000, 1)]

def residentImage : Image := { bytes := residentBytes, size := 0x6000, digest := Config.sha384 residentBytes 0x6000 }

/-- The LOAD_RECIPE entry that names the image (R232). -/
def residentEntry : Sqe := { op := 1, args := (List.range 64).map fun i => if i = 0x11 then 0x60 else 0 }

def loadRef : CmdRef := { fn := 1 }

/-- Hob 0 is STOPPED with a LOAD_RECIPE waiting on its ring, and the first line of its memory has two wrong symbols, which the stack has
not met yet. -/
def homeLineSpoiled : State :=
  { st := .service
    hobs := [(0, { st := .stopped, grant := { valid := true }, shape := some { w := 8, h := 1 }, ext := [(0, { valid := true })] })]
    hosts := [(0, { linkUp := true, perst := false, ready := true,
                    fns := [(1, { authOk := true, rings := [(0, { en := true, on := true, log2 := 6, sqes := [residentEntry] })] })] })]
    errs := [(0, 2)] }

/-! ### The image passes, and its load records a line -/

theorem residentImage_headerOk : headerOk residentImage = true := by
  have hdigest : (Config.sha384 residentImage.bytes residentImage.size == residentImage.digest) = true := beq_self_eq_true _
  unfold headerOk
  rw [hdigest]
  decide +kernel

theorem residentImage_tableOk : tableOk residentImage = true := by decide +kernel

theorem residentImage_lengthsOk : lengthsOk residentImage = true := by decide +kernel

/-- What the image holds, apart from its digest. -/
def residentFields : Recipe :=
  { vmajor := 2, mode := 1, mclk := 800, width := 1, height := 1, period := 1
    portcls := List.replicate 16 0, rsv := List.replicate 12 0, stations := [{ w := 1, h := 1 }], fences := [{ periods := 1 }]
    slotsImg := [{ valid := true, resident := true, size := 1 }, {}, {}, {}] :: List.replicate 7 [{}, {}, {}, {}]
    seqImg := List.replicate 8 ([0, 0, 0, 0], [0, 0, 0, 0], []) }

def residentRecipe : Recipe := { residentFields with digest := residentImage.digest }

/-- The SLOTS section is 0 behind the first window word. -/
theorem residentImage_slots_zero (off n : Nat) (hfrom : 0x2004 ≤ off) (hto : off + n ≤ 0x4000) : residentImage.nat off n = 0 := by
  have hlisted : ∀ b ∈ residentImage.bytes, b.1 < 0x2004 ∨ 0x4000 ≤ b.1 := by decide
  exact Image.nat_eq_zero _ _ _ fun i hi => Tab.get_eq_default _ _ _ fun b hb => by
    have hout := hlisted b hb
    omega

theorem residentImage_slotAddr (n i : Nat) : residentImage.slotAddr n i = 0x2000 + 640 * n + 160 * i := by
  have hsec : (residentImage.sec 2).off = 0x2000 := by decide +kernel
  rw [Image.slotAddr, hsec]

/-- Every slot record but that of slot 0 of cell 0 is the default one. -/
theorem residentImage_slotRec (n i : Nat) (hn : n < 8) (hi : i < 4) : residentImage.slotRec (residentImage.slotAddr n i) =
    if n = 0 ∧ i = 0 then { valid := true, resident := true, size := 1 } else {} := by
  rw [residentImage_slotAddr]
  split
  case isTrue hfirst =>
    obtain ⟨rfl, rfl⟩ := hfirst
    decide +kernel
  case isFalse hother => exact Image.slotRec_of_zero _ _ fun off k hoff hk => residentImage_slots_zero off k (by omega) (by omega)

theorem Image.recipe_slotsImg (im : Image) :
    im.recipe.slotsImg = (List.range im.cells).map fun n => [0, 1, 2, 3].map fun i => im.slotRec (im.slotAddr n i) := rfl

theorem residentImage_slotsImg : residentImage.recipe.slotsImg = residentFields.slotsImg := by
  have hcells : residentImage.cells = 8 := by decide +kernel
  have hrecs : ∀ n ∈ List.range 8, ([0, 1, 2, 3].map fun i => residentImage.slotRec (residentImage.slotAddr n i)) =
      [0, 1, 2, 3].map fun i => if n = 0 ∧ i = 0 then { valid := true, resident := true, size := 1 } else {} := fun n hn =>
    List.map_congr_left fun i hi => residentImage_slotRec n i (List.mem_range.mp hn) (by simp at hi; omega)
  rw [Image.recipe_slotsImg, hcells, List.map_congr_left hrecs]
  decide

theorem residentImage_fields : { residentImage.recipe with digest := 0, slotsImg := [] } = { residentFields with slotsImg := [] } := by
  decide +kernel

theorem residentImage_recipe : residentImage.recipe = residentRecipe := by
  have hfields : residentImage.recipe =
      { { residentImage.recipe with digest := 0, slotsImg := [] } with
        digest := residentImage.digest, slotsImg := residentImage.recipe.slotsImg } := rfl
  rw [hfields, residentImage_fields, residentImage_slotsImg]
  rfl

/-- The position map of the load: no cell of the hob is without a position. -/
def loadVoid (n : Nat) : Bool := ((homeLineSpoiled.started loadRef 1).replaceFars 0 residentRecipe).void 0 n

/-- Every slot record passes: that of slot 0 of cell 0 as it stands, the others as records of zeros. -/
theorem residentImage_slotOk (n i : Nat) (hn : n < 8) (hi : i < 4) :
    ((homeLineSpoiled.started loadRef 1).hob 0).slotOk residentImage false (residentImage.slotAddr n i) = true := by
  rw [residentImage_slotAddr]
  by_cases hfirst : n = 0 ∧ i = 0
  · obtain ⟨rfl, rfl⟩ := hfirst
    decide +kernel
  · exact Hob.slotOk_of_zero _ _ _ _ fun off k hoff hk => residentImage_slots_zero off k (by omega) (by omega)

theorem residentImage_slotsOk : (homeLineSpoiled.started loadRef 1).slotsOk 0 residentImage residentRecipe = true := by
  have hcells : residentImage.cells = 8 := by decide +kernel
  have hshape : ∀ n < 8, ([(0, 1), (0, 2), (0, 3), (1, 2), (1, 3), (2, 3)].all fun p =>
      !((residentRecipe.slotsImg.getD n []).getD p.1 {}).overlaps ((residentRecipe.slotsImg.getD n []).getD p.2 {})) = true := by decide +kernel
  rw [State.slotsOk, hcells]
  refine List.all_eq_true.mpr fun n hn => ?_
  have hlt := List.mem_range.mp hn
  have hslots : ([0, 1, 2, 3].all fun i =>
      ((homeLineSpoiled.started loadRef 1).hob 0).slotOk residentImage (residentRecipe.mode == 0) (residentImage.slotAddr n i)) = true :=
    List.all_eq_true.mpr fun i hi => residentImage_slotOk n i hlt (by simp at hi; omega)
  simp only [hslots, hshape n hlt, Bool.true_and]
  rfl

theorem residentImage_recipeChecks :
    ((homeLineSpoiled.started loadRef 1).recipeChecks 0 residentImage residentRecipe loadVoid).all (fun c => c.2) = true := by
  rw [State.recipeChecks, residentImage_slotsOk]
  decide +kernel

theorem homeLineSpoiled_turn : homeLineSpoiled.turn loadRef 0 1 residentEntry = true := by decide +kernel

/-- The state of a load once every resident slot that no kept window fills has been filled from its home copy. -/
def State.loadFilled (s : State) (h : Nat) (r : Recipe) : State :=
  let s0 := (((s.leaveIdle.endWindows h).cancelCapture h).each (s.nums h) fun s n => s.dropLandings h n)
  let s1 := (s0.replaceFars h r).condShifts h r
  let fill := (s1.nums h).flatMap fun n => [0, 1, 2, 3].filterMap fun i =>
    let x := r.slotAt n i
    if x.valid && x.resident && ((s1.cell (s1.posOf h n)).keeps x).isNone then some (n, i) else none
  fill.foldl (fun s e => s.fillSlot h e.1 e.2) ((s1.program h r).modHob h fun y => (y.reload r).markExts)

theorem State.enterEdge_lines (s : State) (x y : Nat) : (s.enterEdge x y).lines = s.lines := by
  have hcross : (s.crossRim x y).lines = s.lines := State.each_lines s _ _ fun v e => by split <;> simp
  refine (State.each_lines _ _ _ fun v e => ?_).trans hcross
  dsimp only
  split <;> simp

theorem State.startBcast_lines (s : State) (h : Option Nat) (targets : List Nat) : (s.startBcast h targets).lines = s.lines := by
  cases h with
  | none => rfl
  | some h => exact State.each_lines _ _ _ fun _ _ => by simp [State.fromRim, State.fromRimTo, State.enterEdge_lines]

theorem State.startCell_lines (s : State) (h n : Nat) : (s.startCell h n).lines = s.lines := by simp [State.startCell, State.drawGap]

/-- What follows the fills of a load reads no line. -/
theorem State.loadImage_lines (s : State) (ref : CmdRef) (h : Nat) (r : Recipe) :
    (s.loadImage ref h r).lines = (s.loadFilled h r).lines := by
  simp [State.loadImage, State.startBcast_lines, State.startCell_lines, State.keepGens, State.loadFilled]

theorem loadFilled_recordsLine : ((homeLineSpoiled.started loadRef 1).loadFilled 0 residentRecipe).lines.isEmpty = false := by
  decide +kernel

theorem residentImage_recipeCode : (homeLineSpoiled.started loadRef 1).recipeCode 0 residentImage loadVoid = 0 := by
  have hnone : ((homeLineSpoiled.started loadRef 1).recipeChecks 0 residentImage residentRecipe loadVoid).find? (fun c => !c.2) = none := by
    have hall := List.all_eq_true.mp residentImage_recipeChecks
    exact List.find?_eq_none.mpr fun c hc => by simp [hall c hc]
  simp [State.recipeCode, residentImage_headerOk, residentImage_tableOk, residentImage_lengthsOk, residentImage_recipe, hnone]

/-- The arguments that name an image, and what LOAD_RECIPE does once its turn has come (R135, R232). -/
def loadArgs (image : Image) (args : List Byte) : Bool := leAt args 8 8 == image.addr && leAt args 0x10 8 == image.size

def State.loadTurn (ref : CmdRef) (h : Nat) (image : Image) (s : State) : State :=
  if !(s.hob h).takesLoad || s.inReset 6 h then s.complete ref 1 stState 0 0 0
  else if !image.readOk then s.complete ref 1 stAddress 0 0 0
  else
    let code := s.recipeCode h image fun n => (s.replaceFars h image.recipe).void h n
    if code ≠ 0 then s.complete ref 1 stRejected code 0 0 else s.loadImage ref h image.recipe

theorem exec_loadRecipe (ref : CmdRef) (hob : HobId) (image : Image) (s : State) :
    exec (.loadRecipe ref hob image) s = done (s.command ref hob.val 1 0xFFFF (loadArgs image) (State.loadTurn ref hob.val image)) := rfl

/-- An image that passes every check is loaded on a hob that takes one. -/
theorem State.loadTurn_loads {s : State} {ref : CmdRef} {h : Nat} {image : Image} (htakes : (s.hob h).takesLoad = true)
    (hreset : s.inReset 6 h = false) (hread : image.readOk = true)
    (hcode : s.recipeCode h image (fun n => (s.replaceFars h image.recipe).void h n) = 0) :
    s.loadTurn ref h image = s.loadImage ref h image.recipe := by
  simp [State.loadTurn, htakes, hreset, hread, hcode]

/-- A LOAD_RECIPE whose turn has come is its body, on the state in which its entry is marked as started. -/
theorem State.loadRecipe_of_turn {s : State} {ref : CmdRef} {hob : HobId} {image : Image} {e : Sqe} (hturn : s.turn ref hob.val 1 e = true)
    (hargs : loadArgs image e.args = true) :
    exec (.loadRecipe ref hob image) s = .next ((s.started ref 1).loadTurn ref hob.val image) := by
  rw [exec_loadRecipe, State.command_of_turn _ _ _ _ _ _ _ e hturn (Or.inl rfl) hargs]
  rfl

/-- The waiting LOAD_RECIPE of the hob is the load of its image. -/
theorem loadRecipe_loadsImage : exec (.loadRecipe loadRef 0 residentImage) homeLineSpoiled =
    .next ((homeLineSpoiled.started loadRef 1).loadImage loadRef 0 residentRecipe) := by
  have hloads : (homeLineSpoiled.started loadRef 1).loadTurn loadRef 0 residentImage = _ :=
    State.loadTurn_loads (by decide +kernel) (by decide +kernel) rfl (by rw [residentImage_recipe]; exact residentImage_recipeCode)
  rw [residentImage_recipe] at hloads
  exact (State.loadRecipe_of_turn (hob := 0) homeLineSpoiled_turn (by decide +kernel)).trans (congrArg Host.Outcome.next hloads)

/-- Refutes O32: the clause of LOAD_RECIPE says the lines are as they were, yet the load fills a resident slot from its home copy, and a
line that cannot be corrected is stored poisoned when it is read. -/
theorem not_runsStartStopAndWait : ¬ Obligations.RunsStartStopAndWait := by
  unfold Obligations.RunsStartStopAndWait
  rintro ⟨-, -, -, -, -, -, -, -, hload, -, -⟩
  obtain ⟨t, hnext, -, hlines, -⟩ :=
    hload loadRef 0 residentImage homeLineSpoiled residentEntry homeLineSpoiled_turn (by decide +kernel) (by decide) (by decide) rfl
  have ht : (homeLineSpoiled.started loadRef 1).loadImage loadRef 0 residentRecipe = t :=
    Host.Outcome.next.inj (loadRecipe_loadsImage.symm.trans hnext)
  have hrecords := loadFilled_recordsLine
  rw [← State.loadImage_lines _ loadRef, ht, hlines] at hrecords
  exact absurd hrecords (by decide)

end Sys2Proof.Machine
end

section
/-! What the frames that a Lanper port sends, its key step and the ends of its work leave (R133, R247, R253, R256 to R258). -/

namespace Sys2Proof.Machine

open Sys2Proof

/-! ### Fibres -/

@[simp] theorem Lnp.fibre_modFibre (x : Lnp) (i j : Nat) (f : Fibre → Fibre) :
    (x.modFibre i f).fibre j = if j = i then f (x.fibre i) else x.fibre j := Tab.get_upd _ _ _ _ _

theorem getLsbD_setBit9_self (b : BitVec 9) (i : Fin 9) (v : Bool) : (setBit9 b i.val v).getLsbD i.val = v := by
  have hi := i.isLt
  cases v <;> simp [setBit9, hi]

/-- Changes of a port's fibres, one after another, change nothing else of the port. -/
theorem Lnp.foldl_modFibre (g : Nat → Fibre → Fibre) (l : List Nat) (x : Lnp) :
    ∃ fibres, l.foldl (fun (x : Lnp) i => x.modFibre i (g i)) x = { x with fibres := fibres } := by
  induction l generalizing x with
  | nil => exact ⟨x.fibres, rfl⟩
  | cons i l ih => exact ih (x.modFibre i (g i))

theorem Lnp.foldl_modFibre_park (g : Nat → Fibre → Fibre) (l : List Nat) (x : Lnp) :
    (l.foldl (fun (x : Lnp) i => x.modFibre i (g i)) x).park = x.park := by
  obtain ⟨fibres, h⟩ := Lnp.foldl_modFibre g l x
  rw [h]

theorem Lnp.allowed_le (x : Lnp) : x.allowed ≤ 8 := by
  have hmin : ∀ (l : List Nat) (m : Nat), l.foldl (fun m i => min m (x.fibre i).usable.length) m ≤ m := fun l => by
    induction l with
    | nil => exact fun m => le_rfl
    | cons i l ih => exact fun m => (ih _).trans (min_le_left _ _)
  exact hmin _ 8

/-! ### What sending leaves of a port -/

section

variable {x y z : Lnp} {p : Nat} {s t u : State}

/-- A port without what sending changes: its frame numbers, keys, replay buffer and credits, its lanes in use and the swaps to come. -/
def Lnp.unsent (x : Lnp) : Lnp :=
  { x with txSeq := 0, txEpoch := 0, txKey := 0, txSwitch := [], replayBuf := [], creditBack := [], lastSent := 0, fibres := [], swaps := [] }

/-- Sending leaves the rest of the port, and which lanes are good and which are worn. -/
structure Lnp.Sent (x y : Lnp) : Prop where
  rest : y.unsent = x.unsent
  good : ∀ i, (y.fibre i).good = (x.fibre i).good
  worn : ∀ i, (y.fibre i).worn = (x.fibre i).worn

namespace Lnp.Sent

theorem refl : x.Sent x := ⟨rfl, fun _ => rfl, fun _ => rfl⟩

theorem trans (a : x.Sent y) (b : y.Sent z) : x.Sent z :=
  ⟨b.rest.trans a.rest, fun i => (b.good i).trans (a.good i), fun i => (b.worn i).trans (a.worn i)⟩

theorem of_fibres (a : x.Sent y) (hrest : z.unsent = y.unsent) (hfibres : z.fibres = y.fibres) : x.Sent z :=
  a.trans ⟨hrest, fun i => by rw [Lnp.fibre, hfibres]; rfl, fun i => by rw [Lnp.fibre, hfibres]; rfl⟩

theorem modUse (a : x.Sent y) (i : Nat) (f : Fibre → BitVec 9) : x.Sent (y.modFibre i fun g => { g with use := f g }) := by
  refine a.trans ⟨rfl, fun j => ?_, fun j => ?_⟩
  all_goals
    rw [Lnp.fibre_modFibre]
    split
    · next hj => rw [hj]
    · rfl

theorem swapAt (a : x.Sent y) (tx : Bool) (seq : Nat) : x.Sent (y.swapAt tx seq) := by
  have hswaps : ∀ (l : List (Nat × Nat × Nat × Nat)) (y : Lnp), x.Sent y →
      x.Sent (l.foldl (fun (y : Lnp) w => y.modFibre w.1 fun f => { f with use := setBit9 (setBit9 f.use w.2.1 false) w.2.2.1 true }) y) := by
    intro l
    induction l with
    | nil => exact fun y a => a
    | cons w l ih => exact fun y a => ih _ (a.modUse w.1 _)
  exact (hswaps _ y a).of_fibres rfl rfl

theorem proj {β : Type} (a : x.Sent y) (π : Lnp → β) (hπ : ∀ v : Lnp, π v.unsent = π v) : π y = π x := by
  rw [← hπ y, a.rest, hπ]

theorem st (a : x.Sent y) : y.st = x.st := a.proj Lnp.st fun _ => rfl
theorem session (a : x.Sent y) : y.session = x.session := a.proj Lnp.session fun _ => rfl
theorem width (a : x.Sent y) : y.width = x.width := a.proj Lnp.width fun _ => rfl
theorem park (a : x.Sent y) : y.park = x.park := a.proj Lnp.park fun _ => rfl
theorem retraining (a : x.Sent y) : y.retraining = x.retraining := a.proj Lnp.retraining fun _ => rfl
theorem relighting (a : x.Sent y) : y.relighting = x.relighting := a.proj Lnp.relighting fun _ => rfl

end Lnp.Sent

/-- Frames sent by port `p`: nothing but that port and the outputs changes. -/
structure State.SendsOn (p : Nat) (s t : State) : Prop where
  frame : ∃ ports o, t = { s with lnps := ports, out := o }
  others : ∀ q, q ≠ p → t.lnp q = s.lnp q
  port : (s.lnp p).Sent (t.lnp p)

namespace State.SendsOn

theorem refl : State.SendsOn p s s := ⟨⟨s.lnps, s.out, rfl⟩, fun _ _ => rfl, .refl⟩

theorem trans (a : State.SendsOn p s t) (b : State.SendsOn p t u) : State.SendsOn p s u := by
  obtain ⟨l, o, hst⟩ := a.frame
  obtain ⟨l', o', htu⟩ := b.frame
  exact ⟨⟨l', o', by rw [htu, hst]⟩, fun q hq => (b.others q hq).trans (a.others q hq), a.port.trans b.port⟩

theorem modLnp (a : State.SendsOn p s t) (f : Lnp → Lnp) (hf : (t.lnp p).Sent (f (t.lnp p))) : State.SendsOn p s (t.modLnp p f) := by
  refine a.trans ⟨⟨_, _, rfl⟩, fun q hq => (State.lnp_modLnp ..).trans (if_neg hq), ?_⟩
  rw [State.lnp_modLnp, if_pos rfl]
  exact hf

theorem sealFrame (a : State.SendsOn p s t) (f : Frame) : State.SendsOn p s (t.sealFrame p f) := by
  refine a.trans ⟨⟨_, _, rfl⟩, fun q hq => (State.lnp_setLnp ..).trans (if_neg hq), ?_⟩
  have hport : (t.sealFrame p f).lnp p = _ := (State.lnp_setLnp ..).trans (if_pos rfl)
  rw [hport]
  exact (Lnp.Sent.refl.swapAt true (t.lnp p).txSeq.toNat).of_fibres rfl rfl

theorem sendFrame (a : State.SendsOn p s t) (f : Frame) : State.SendsOn p s (t.sendFrame p f) := by
  unfold State.sendFrame
  dsimp only
  split
  · exact ((a.sealFrame _).modLnp _ (Lnp.Sent.refl.of_fibres rfl rfl)).sealFrame f
  · exact a.sealFrame f

theorem sendSession (a : State.SendsOn p s t) (note : List Nat) : State.SendsOn p s (t.sendSession p note) := a.sendFrame _

theorem keyStep (a : State.SendsOn p s t) (point : Nat × Nat) : State.SendsOn p s (t.keyStep p point) := by
  unfold State.keyStep
  split
  · exact a
  · exact (a.modLnp _ (Lnp.Sent.refl.of_fibres rfl rfl)).sendSession _

end State.SendsOn

/-! ### A key step at the next frame but one -/

theorem Lnp.ahead_ne (x : Lnp) : x.ahead 1 ≠ (x.txSeq.toNat, x.txEpoch) := by
  intro heq
  have hseq : (x.txSeq.toNat + 1) % 65536 = x.txSeq.toNat := congrArg Prod.fst heq
  have hlt := x.txSeq.isLt
  omega

/-- A switch point one frame ahead is the one that the frame before an epoch would name. -/
theorem Lnp.needsKey_of_ahead (h : x.ahead 1 ∈ x.txSwitch) : x.needsKey = false := by
  by_cases hlast : x.txSeq = BitVec.allOnes 16
  · have hpoint : x.ahead 1 = (0, x.txEpoch + 1) := by simp [Lnp.ahead, hlast]
    rw [hpoint] at h
    simp [Lnp.needsKey, h]
  · rw [Lnp.needsKey, beq_false_of_ne hlast]
    rfl

theorem State.sealFrame_txSwitch (s : State) (p : Nat) (f : Frame) :
    ((s.sealFrame p f).lnp p).txSwitch = (s.lnp p).txSwitch.erase ((s.lnp p).txSeq.toNat, (s.lnp p).txEpoch) :=
  congrArg Lnp.txSwitch ((State.lnp_setLnp ..).trans (if_pos rfl))

/-- The SESSION frame that names a switch point one frame ahead goes out before it (R253). -/
theorem State.sendSession_txSwitch {s : State} {p : Nat} (note : List Nat) (h : (s.lnp p).ahead 1 ∈ (s.lnp p).txSwitch) :
    (s.lnp p).ahead 1 ∈ ((s.sendSession p note).lnp p).txSwitch := by
  have hsent : s.sendSession p note = s.sealFrame p { kind := 6, note := note } :=
    if_neg (by rw [Lnp.needsKey_of_ahead h]; exact Bool.false_ne_true)
  rw [hsent, State.sealFrame_txSwitch]
  exact (List.mem_erase_of_ne (s.lnp p).ahead_ne).mpr h

theorem State.keyStep_txSwitch (s : State) (p : Nat) :
    (s.lnp p).ahead 1 ∈ ((s.keyStep p ((s.lnp p).ahead 1)).lnp p).txSwitch := by
  unfold State.keyStep
  split
  case isTrue hnamed => exact List.contains_iff_mem.mp hnamed
  case isFalse hnew =>
    have hport : ∀ point, (s.modLnp p fun x => { x with txSwitch := x.txSwitch ++ [point] }).lnp p =
        { s.lnp p with txSwitch := (s.lnp p).txSwitch ++ [point] } := fun point => (State.lnp_modLnp ..).trans (if_pos rfl)
    have hnamed : (s.lnp p).ahead 1 ∈ (s.lnp p).txSwitch ++ [(s.lnp p).ahead 1] := List.mem_append_right _ (List.mem_singleton.mpr rfl)
    have hsent := State.sendSession_txSwitch (s := s.modLnp p fun x => { x with txSwitch := x.txSwitch ++ [(s.lnp p).ahead 1] }) (p := p)
      [4, ((s.lnp p).ahead 1).1, ((s.lnp p).ahead 1).2] (by rw [hport]; exact hnamed)
    rw [hport] at hsent
    exact hsent

end

/-! ### What the ends of a port's work leave of the log and the device ID -/

section

variable {s t u : State}

/-- The log's records and the device ID in force are as they were. -/
structure State.KeepsLog (s t : State) : Prop where
  log : t.log = s.log
  devIdLive : t.hearth.devIdLive = s.hearth.devIdLive

namespace State.KeepsLog

theorem refl : s.KeepsLog s := ⟨rfl, rfl⟩

theorem of_frame (a : s.KeepsLog t) (hlog : u.log = t.log) (hdev : u.hearth.devIdLive = t.hearth.devIdLive) : s.KeepsLog u :=
  ⟨hlog.trans a.log, hdev.trans a.devIdLive⟩

theorem modHob (a : s.KeepsLog t) (h : Nat) (f : Hob → Hob) : s.KeepsLog (t.modHob h f) := a.of_frame rfl rfl
theorem modCell (a : s.KeepsLog t) (p : Nat) (f : Cell → Cell) : s.KeepsLog (t.modCell p f) := a.of_frame rfl rfl
theorem setTxns (a : s.KeepsLog t) (l : List Txn) : s.KeepsLog { t with txns := l } := a.of_frame rfl rfl
theorem emit (a : s.KeepsLog t) (o : Out) : s.KeepsLog (t.emit o) := a.of_frame rfl rfl
theorem complete (a : s.KeepsLog t) (ref : CmdRef) (op status detail info0 info1 : Nat) :
    s.KeepsLog (t.complete ref op status detail info0 info1) := a.of_frame (by simp) (by simp)

theorem ite {c : Prop} [Decidable c] {v : State} (a : s.KeepsLog t) (b : s.KeepsLog v) : s.KeepsLog (if c then t else v) := by
  split
  · exact a
  · exact b

theorem each {α : Type} (a : s.KeepsLog t) (f : State → α → State) (hf : ∀ v x, State.KeepsLog v (f v x)) (l : List α) :
    s.KeepsLog (t.each l f) := by
  induction l generalizing t with
  | nil => exact a
  | cons x xs ih => exact ih (a.of_frame (hf t x).log (hf t x).devIdLive)

theorem setRdrs (a : s.KeepsLog t) (l : Tab Rdr) : s.KeepsLog (t.setRdrs l) := a.of_frame rfl rfl
theorem modStack (a : s.KeepsLog t) (k : Nat) (f : Stack → Stack) : s.KeepsLog (t.modStack k f) := a.of_frame rfl rfl
theorem stopHob (a : s.KeepsLog t) (h status detail info0 info1 : Nat) : s.KeepsLog (t.stopHob h status detail info0 info1) :=
  a.of_frame (by simp) (by simp)

theorem cancelCapture (a : s.KeepsLog t) (h : Nat) : s.KeepsLog (t.cancelCapture h) := by
  have hshadows : s.KeepsLog (t.dropShadows h) := (a.setRdrs _).each _ (fun _ _ => by exact refl.modStack ..) _
  exact ite (hshadows.modHob ..) a

theorem eccReport (a : s.KeepsLog t) (h : Nat) (l : List EccLine) : s.KeepsLog (t.eccReport h l) :=
  a.of_frame (by simp) (by simp [State.eccReport, State.nextReport])

theorem stopUncommitted (a : s.KeepsLog t) (h : Nat) (e : End) : s.KeepsLog (t.stopUncommitted h e) := by
  have hinterrupt : s.KeepsLog (if 25 ≤ e.status && e.status ≤ 30 then t.interrupt else t) := ite (a.of_frame rfl rfl) a
  exact (((hinterrupt.cancelCapture h).modHob ..).stopHob ..).setTxns _

theorem stopFailed (a : s.KeepsLog t) (h : Nat) (e : End) : s.KeepsLog (t.stopFailed h e) :=
  (ite (a.eccReport ..) a).stopUncommitted h e

theorem failHead (a : s.KeepsLog t) (h : Nat) : s.KeepsLog (t.failHead h) := by
  unfold State.failHead
  split
  · split
    · exact a.stopFailed ..
    · exact a
  · exact a

theorem lostWrite (a : s.KeepsLog t) (h f xng : Nat) : s.KeepsLog (t.lostWrite h f xng) :=
  ite ((a.modHob ..).failHead h) (a.modHob ..)

theorem modSends (a : s.KeepsLog t) (h : Nat) (o : Origin) (f : List Send → List Send) : s.KeepsLog (t.modSends h o f) := by
  unfold State.modSends
  split
  · exact a.modCell ..
  · exact a.modHob ..

theorem endSend (a : s.KeepsLog t) (h : Nat) (o : Origin) (q : Send) (status : Nat) : s.KeepsLog (t.endSend h o q status) := by
  have hrim : s.KeepsLog ((({ t with txns := t.txns.filter fun v => v.kind != TxnKind.message h o q.tag } : State).dropSend h o q.tag).emit
      (.mgt "send" [h, q.tag, status, q.missed])) := ((a.setTxns _).modSends ..).emit _
  unfold State.endSend
  split
  · exact ite (a.modSends ..) ((a.modSends ..).modCell ..)
  · dsimp only
    split
    · exact hrim.complete ..
    · exact hrim

theorem endRemote (a : s.KeepsLog t) (x : Txn) : s.KeepsLog (t.endRemote x) := by
  have hdropped : s.KeepsLog (t.dropTxn x.id) := a.setTxns _
  unfold State.endRemote
  dsimp only
  split
  · exact ite (hdropped.lostWrite ..) hdropped
  · split
    · exact ((hdropped.setTxns _).modHob ..).complete ..
    · exact hdropped
  · split
    · exact hdropped.endSend ..
    · exact hdropped
  · exact hdropped

theorem endSends (a : s.KeepsLog t) (p : Nat) : s.KeepsLog (t.endSends p) := each a _ (fun _ _ => refl.endRemote _) _

theorem classCheck (a : s.KeepsLog t) (p : Nat) : s.KeepsLog (t.classCheck p) := by
  unfold State.classCheck
  refine a.each _ (fun v h => ?_) _
  dsimp only
  split
  · exact refl
  · split
    · exact ite (refl.stopUncommitted ..) (refl.modHob ..)
    · exact refl

theorem endRelight (a : s.KeepsLog t) (p : Nat) : s.KeepsLog (t.endRelight p) :=
  a.each _ (fun _ _ => ite refl (refl.modHob ..)) _

theorem modLnp (a : s.KeepsLog t) (p : Nat) (f : Lnp → Lnp) : s.KeepsLog (t.modLnp p f) := a.of_frame rfl rfl

theorem lnpEnd (a : s.KeepsLog t) (p : Nat) (st : LnpState) (why : Nat) : s.KeepsLog (t.lnpEnd p st why) :=
  (((a.modLnp ..).endSends p).classCheck p).endRelight p

theorem comeUp (a : s.KeepsLog t) (p w : Nat) : s.KeepsLog (t.comeUp p w) := ((a.modLnp ..).classCheck p).endRelight p

end State.KeepsLog

end

/-! ### A port that comes up and one that ends -/

theorem Lnp.up_of_upOf {x : Lnp} {w : Nat} (h : x.st = upOf w) : x.up = true := by
  rw [Lnp.up, h, upOf]
  split <;> rfl

theorem State.lnp_of_lnps {s t : State} (h : t.lnps = s.lnps) (q : Nat) : t.lnp q = s.lnp q := by
  rw [State.lnp, h]
  rfl

/-- What coming up makes of the port; the hobs that waited for it change no other (R120, R133). -/
theorem State.comeUp_lnp (s : State) (p w q : Nat) : (s.comeUp p w).lnp q =
    if q = p then { s.lnp p with st := upOf w, width := BitVec.ofNat 4 w, retraining := false, relighting := false, fallback := false,
                                 since := s.now, lastAccepted := s.now }
    else s.lnp q := by
  unfold State.comeUp
  extract_lets s1
  have hkeeps := (State.KeepsPorts.refl.classCheck (s := s1) p).endRelight p
  rw [State.lnp_of_lnps hkeeps.lnps]
  exact State.lnp_modLnp ..

/-- A port that ends is without frames to resend, for the reason named (R254, R258). -/
theorem State.lnpEnd_port (s : State) (p : Nat) (st : LnpState) (why : Nat) :
    ((s.lnpEnd p st why).lnp p).downWhy = BitVec.ofNat 2 why ∧ ((s.lnpEnd p st why).lnp p).replayBuf = [] ∧
      ((s.lnpEnd p st why).lnp p).en = (s.lnp p).en := by
  unfold State.lnpEnd
  extract_lets s1
  have hkeeps := ((State.KeepsPorts.refl.endSends (s := s1) p).classCheck p).endRelight p
  have hport := (State.lnp_of_lnps hkeeps.lnps p).trans ((State.lnp_modLnp ..).trans (if_pos rfl))
  rw [hport]
  exact ⟨rfl, rfl, rfl⟩

theorem State.parkIfAsked_unasked {s : State} {p : Nat} (h : (s.lnp p).park = false) : s.parkIfAsked p = s := by
  simp [State.parkIfAsked, h]

end Sys2Proof.Machine
end

section
/-! How a Lanper port comes up, ends, trains, substitutes lanes, parks and drops its transactions (R133, R252 to R263). -/

namespace Sys2Proof.Machine

open Sys2Proof

section

variable {port : LnpId} {s : State}

/-! ### Training -/

/-- The port in full training that nothing keeps down (R254). -/
structure Lnp.Trains (x : Lnp) : Prop where
  st : x.st = .training
  retraining : x.retraining = false
  relighting : x.relighting = false
  fenced : x.fenced = false
  resetting : x.resetting = false

/-- The port with the lanes that training found usable. -/
def Lnp.withLanes (r : TrainResult) (x : Lnp) : Lnp :=
  (List.range 4).foldl (fun (x : Lnp) i => x.modFibre i fun f => { f with good := r.lanes.getD i 0 }) x

/-- A new session of the port: numbers from 0, with the peer that answered and the device ID as it is set (R252, R260). -/
structure State.HasSession (s u : State) (p : Nat) (r : TrainResult) : Prop where
  others : ∀ q, q ≠ p → u.lnp q = s.lnp q
  session : (u.lnp p).session = true
  peer : (u.lnp p).peerDev = r.peerDev ∧ (u.lnp p).peerPort = r.peerPort
  downWhy : (u.lnp p).downWhy = 0
  numbers : (u.lnp p).txSeq = 0 ∧ (u.lnp p).rxSeq = 0 ∧ (u.lnp p).replayBuf = []
  park : (u.lnp p).park = (s.lnp p).park
  devIdLive : u.hearth.devIdLive = s.hearth.devId

/-- The port takes no session with this peer (R256, R260). -/
def State.refusesPeer (s : State) (p : Nat) (r : TrainResult) : Bool :=
  !r.peerOk || r.peerTag != s.hearth.sysTag || r.peerDev == s.hearth.devId || ((s.lnp p).expV && r.peerDev != (s.lnp p).expDev)

/-- The width that training allows, where no warm reset holds it down (R256, R398). -/
theorem execLnpTrainingDone_trained {r : TrainResult} (ht : (s.lnp port.val).Trains) (hwarm : s.boot.warm = false) :
    ∃ u, execLnpTrainingDone port r s =
        (if ((s.lnp port.val).withLanes r).allowed < 4 then done ((s.setLnp port.val ((s.lnp port.val).withLanes r)).lnpEnd port.val .down 1)
        else if s.refusesPeer port.val r then done ((s.setLnp port.val ((s.lnp port.val).withLanes r)).lnpEnd port.val .down 3)
        else done ((u.comeUp port.val ((s.lnp port.val).withLanes r).allowed).parkIfAsked port.val)) ∧
      s.HasSession u port.val r := by
  obtain ⟨hst, hretrain, hrelight, hfenced, hreset⟩ := ht
  unfold execLnpTrainingDone
  dsimp only
  rw [if_neg (by simp [hst, hretrain, hrelight, hfenced, hreset])]
  simp only [hwarm, Bool.false_and, Bool.false_eq_true, if_false]
  refine ⟨_, rfl, fun q hq => (State.lnp_setLnp ..).trans (if_neg hq), ?_, ⟨?_, ?_⟩, ?_, ⟨?_, ?_, ?_⟩, ?park, rfl⟩
  case park =>
    rw [State.lnp_setLnp, if_pos rfl]
    exact (Lnp.foldl_modFibre_park _ _ _).trans (Lnp.foldl_modFibre_park _ _ _)
  all_goals rw [State.lnp_setLnp, if_pos rfl]

/-- The port is UP in the new session, with the device ID as it is set in force. -/
theorem State.HasSession.comesUp {u : State} {p w : Nat} {r : TrainResult} (a : s.HasSession u p r) (hpark : (s.lnp p).park = false) :
    (u.comeUp p w).parkIfAsked p = u.comeUp p w ∧ (∀ q, q ≠ p → (u.comeUp p w).lnp q = s.lnp q) ∧
      (u.comeUp p w).hearth.devIdLive = s.hearth.devId := by
  refine ⟨State.parkIfAsked_unasked ?_, fun q hq => ?_, ?_⟩
  · rw [State.comeUp_lnp, if_pos rfl]
    exact a.park.trans hpark
  · rw [State.comeUp_lnp, if_neg hq, a.others q hq]
  · exact (State.KeepsLog.refl.comeUp p w).devIdLive.trans a.devIdLive

/-- A peer that is proved, of this system, another device and the one expected is taken. -/
theorem State.refusesPeer_false {p : Nat} {r : TrainResult} (hok : r.peerOk = true) (htag : r.peerTag = s.hearth.sysTag)
    (hdev : r.peerDev ≠ s.hearth.devId) (hexp : (s.lnp p).expV = false ∨ r.peerDev = (s.lnp p).expDev) : s.refusesPeer p r = false := by
  rcases hexp with hexp | hexp
  · simp [State.refusesPeer, hok, htag, hdev, hexp]
  · rw [hexp] at hdev
    simp [State.refusesPeer, hok, htag, hdev, hexp]

theorem State.refusesPeer_true {p : Nat} {r : TrainResult} (h : r.peerOk = false ∨ r.peerTag ≠ s.hearth.sysTag ∨ r.peerDev = s.hearth.devId ∨
    (s.lnp p).expV = true ∧ r.peerDev ≠ (s.lnp p).expDev) : s.refusesPeer p r = true := by
  simpa [State.refusesPeer, or_assoc] using h

/-! ### Coming UP again with a key step -/

/-- The port is UP again at a width, in the session it had, with a key step at the frame after the next one to send (R253, R255, R259). -/
structure State.UpAgain (s t : State) (p w : Nat) : Prop where
  others : ∀ q, q ≠ p → t.lnp q = s.lnp q
  up : (t.lnp p).up = true
  retraining : (t.lnp p).retraining = false
  relighting : (t.lnp p).relighting = false
  width : (t.lnp p).width = BitVec.ofNat 4 w
  keyed : (s.lnp p).ahead 1 ∈ (t.lnp p).txSwitch
  session : (t.lnp p).session = (s.lnp p).session

theorem State.comeUp_keyStep {u v : State} {p w : Nat} (hlnps : v.lnps = (u.comeUp p w).lnps) (hpark : (u.lnp p).park = false) :
    State.UpAgain u ((v.keyStep p ((u.lnp p).ahead 1)).parkIfAsked p) p w := by
  have hport : v.lnp p = _ := (State.lnp_of_lnps hlnps p).trans ((State.comeUp_lnp u p w p).trans (if_pos rfl))
  have hahead : (u.lnp p).ahead 1 = (v.lnp p).ahead 1 := by
    rw [hport]
    rfl
  have hsends := State.SendsOn.refl.keyStep (s := v) (p := p) ((u.lnp p).ahead 1)
  have hkeyed := v.keyStep_txSwitch p
  rw [← hahead] at hkeyed
  rw [State.parkIfAsked_unasked (hsends.port.park.trans (by rw [hport]; exact hpark))]
  refine ⟨fun q hq => ?_, Lnp.up_of_upOf (w := w) (hsends.port.st.trans (by rw [hport])), hsends.port.retraining.trans (by rw [hport]),
    hsends.port.relighting.trans (by rw [hport]), hsends.port.width.trans (by rw [hport]), hkeyed,
    hsends.port.session.trans (by rw [hport])⟩
  rw [hsends.others q hq, State.lnp_of_lnps hlnps, State.comeUp_lnp, if_neg hq]

theorem execLnpRelightDone_locked (hst : (s.lnp port.val).st = .training) (hrelight : (s.lnp port.val).relighting = true)
    (hreset : (s.lnp port.val).resetting = false) (hpark : (s.lnp port.val).park = false) :
    ∃ t, execLnpRelightDone port true s = .next t ∧ State.UpAgain s t port.val (s.lnp port.val).width.toNat := by
  have hahead : ((s.comeUp port.val (s.lnp port.val).width.toNat).lnp port.val).ahead 1 = (s.lnp port.val).ahead 1 := by
    rw [State.comeUp_lnp, if_pos rfl]
    rfl
  refine ⟨_, ?_, State.comeUp_keyStep (v := s.comeUp port.val (s.lnp port.val).width.toNat) rfl hpark⟩
  unfold execLnpRelightDone
  dsimp only
  rw [if_neg (by simp [hst, hrelight, hreset]), if_neg (by simp), hahead]
  rfl

theorem execLnpRelightDone_unlocked (hst : (s.lnp port.val).st = .training) (hrelight : (s.lnp port.val).relighting = true)
    (hreset : (s.lnp port.val).resetting = false) :
    execLnpRelightDone port false s = done ((s.train port.val).modLnp port.val fun x => { x with fallback := true }) := by
  unfold execLnpRelightDone
  dsimp only
  rw [if_neg (by simp [hst, hrelight, hreset])]
  exact if_pos rfl

theorem State.emits_lnps (s : State) (g : Frame → Out) (l : List Frame) : (l.foldl (fun s f => s.emit (g f)) s).lnps = s.lnps :=
  foldl_proj State.lnps (fun u f => u.emit (g f)) (fun _ _ => rfl) l s

/-- The port after a retrain: its lanes chosen anew, no swap to come, and every frame kept to be sent again (R248, R255, R256). -/
def Lnp.retrained (best : List (List Nat)) (x : Lnp) : Lnp :=
  let w := min x.width.toNat x.allowed
  let x1 := (List.range 4).foldl (fun (y : Lnp) i => y.modFibre i fun f => f.choose (best.getD i []) w) { x with swaps := [] }
  { x1 with replayBuf := x1.replayBuf.map fun f => { f with sends := 1 }, naked := false }

theorem Lnp.retrained_keeps (best : List (List Nat)) (x : Lnp) :
    (x.retrained best).park = x.park ∧ (x.retrained best).session = x.session ∧ (x.retrained best).ahead 1 = x.ahead 1 := by
  obtain ⟨fibres, h⟩ := Lnp.foldl_modFibre (fun i f => f.choose (best.getD i []) (min x.width.toNat x.allowed)) (List.range 4)
    { x with swaps := [] }
  rw [Lnp.retrained, h]
  exact ⟨rfl, rfl, rfl⟩

theorem execLnpRetrainDone_up {best : List (List Nat)} (hst : (s.lnp port.val).st = .training) (hretrain : (s.lnp port.val).retraining = true)
    (hreset : (s.lnp port.val).resetting = false) (hpark : (s.lnp port.val).park = false)
    (hwidth : 4 ≤ min (s.lnp port.val).width.toNat (s.lnp port.val).allowed) :
    ∃ t, execLnpRetrainDone port best s = .next t ∧ State.UpAgain s t port.val (min (s.lnp port.val).width.toNat (s.lnp port.val).allowed) := by
  obtain ⟨hparkKept, hsession, hahead⟩ := Lnp.retrained_keeps best (s.lnp port.val)
  have hport : (s.setLnp port.val ((s.lnp port.val).retrained best)).lnp port.val = (s.lnp port.val).retrained best :=
    (State.lnp_setLnp ..).trans (if_pos rfl)
  have hup := State.comeUp_keyStep (u := s.setLnp port.val ((s.lnp port.val).retrained best)) (p := port.val)
    (w := min (s.lnp port.val).width.toNat (s.lnp port.val).allowed)
    (State.emits_lnps _ (Out.frame port.val) ((s.lnp port.val).retrained best).replayBuf) (by rw [hport, hparkKept, hpark])
  refine ⟨_, ?_, fun q hq => ?_, hup.up, hup.retraining, hup.relighting, hup.width, ?_, ?_⟩
  · unfold execLnpRetrainDone
    dsimp only
    rw [if_neg (by simp [hst, hretrain, hreset]), if_neg (Nat.not_lt.mpr hwidth), hport]
    rfl
  · exact (hup.others q hq).trans ((State.lnp_setLnp ..).trans (if_neg hq))
  · have hkeyed := hup.keyed
    rw [hport] at hkeyed
    rw [← hahead, hport]
    exact hkeyed
  · rw [hup.session, hport, hsession]

/-! ### Ends, retries and beacons -/

theorem execLnpTrainingTimeout_ends (hst : (s.lnp port.val).st = .training) (hdue : (s.lnp port.val).since + 10000000000 ≤ s.now) :
    execLnpTrainingTimeout port s = done (s.lnpEnd port.val .down 2) := by
  simp [execLnpTrainingTimeout, hst, secNs, Nat.not_lt.mpr hdue]

theorem execLnpLinkSilent_ends (hup : (s.lnp port.val).up = true) (hdue : (s.lnp port.val).lastAccepted + 10000 ≤ s.now) :
    execLnpLinkSilent port s = done (s.lnpEnd port.val .down 0) := by
  simp [execLnpLinkSilent, hup, usNs, Nat.not_lt.mpr hdue]

theorem execLnpDownRetry_trains (hst : (s.lnp port.val).st = .down) (hen : (s.lnp port.val).en = true) (hfenced : (s.lnp port.val).fenced = false)
    (hreset : (s.lnp port.val).resetting = false) (hdue : (s.lnp port.val).since + 1000000000 ≤ s.now) :
    execLnpDownRetry port s = done (s.train port.val) := by
  simp [execLnpDownRetry, hst, hen, hfenced, hreset, secNs, Nat.not_lt.mpr hdue]

theorem State.train_lnp (s : State) (p q : Nat) : (s.train p).lnp q =
    if q = p then { s.lnp p with st := .training, parked := false, retraining := false, relighting := false, since := s.now } else s.lnp q :=
  State.lnp_modLnp ..

/-- Changes of stacks, one after another, change nothing else. -/
theorem State.each_modStack (c : State → Nat → Bool) (f : State → Stack → Stack) (l : List Nat) (v : State) :
    ∃ stk, v.each l (fun s k => if c s k then s.modStack k (f s) else s) = { v with stk := stk } := by
  induction l generalizing v with
  | nil => exact ⟨v.stk, rfl⟩
  | cons k l ih =>
    rw [State.each, List.foldl_cons]
    split
    · exact ih _
    · exact ih _

/-- Leaving deep idle changes the idle registers and the stacks alone, and the module is out of it (R367). -/
theorem State.leaveIdle_eq (s : State) : ∃ cfgs stk, s.leaveIdle = { s with cfgs := cfgs, stk := stk } ∧ cfgs.idlIn = false := by
  unfold State.leaveIdle
  split
  case isTrue hout => exact ⟨_, s.stk, rfl, by simpa using hout⟩
  case isFalse hin =>
    obtain ⟨stk, hstk⟩ := State.each_modStack (fun s k => (s.stack k).pwr = .selfRefresh && !(s.stack k).resetting)
      (fun s x => { x with pwr := .on, lastTraffic := s.now }) stackNums
      { s with cfgs := { s.cfgs with idlIn := false, idleSince := s.now, tstPaused := false, woke := hobNums } }
    exact ⟨_, stk, hstk, rfl⟩

/-- A beacon relights a parked port, and ends deep idle (R259, R367). -/
theorem execLnpBeacon_relights (hparked : (s.lnp port.val).parked = true) (hst : s.st ≠ .off) (hfenced : (s.lnp port.val).fenced = false)
    (hreset : (s.lnp port.val).resetting = false) :
    ∃ cfgs stk, cfgs.idlIn = false ∧ execLnpBeacon port s = .next (({ s with cfgs := cfgs, stk := stk } : State).setLnp port.val
      { s.lnp port.val with parked := false, relighting := true, st := .training, since := s.now }) := by
  obtain ⟨cfgs, stk, hidle, hidlIn⟩ := s.leaveIdle_eq
  refine ⟨cfgs, stk, hidlIn, (if_pos (by simp [hparked, hst])).trans ?_⟩
  rw [hidle]
  exact congrArg done (State.relight_parked ({ s with cfgs := cfgs, stk := stk } : State) port.val hparked hfenced hreset)

/-! ### Lanes -/

theorem State.SendsOn.substitute {t : State} {p : Nat} (a : State.SendsOn p s t) (fibre lane : Nat) :
    State.SendsOn p s (t.substitute p fibre lane) := by
  unfold State.substitute
  dsimp only
  split
  · exact (a.sendSession _).modLnp _ (Lnp.Sent.refl.of_fibres rfl rfl)
  · exact a

/-- The spare takes the place of a received lane from a frame 256 ahead (R257). -/
theorem State.substitute_swaps {p fibre lane k : Nat} (hrx : 2 ≤ fibre) (hspare : (s.lnp p).spare fibre = some k) :
    (fibre, lane, k, ((s.lnp p).rxSeq.toNat + 256) % 65536) ∈ ((s.substitute p fibre lane).lnp p).swaps := by
  simp only [State.substitute, hspare, if_neg (Nat.not_lt.mpr hrx), State.lnp_modLnp, if_true]
  exact List.mem_append_right _ (List.mem_singleton.mpr rfl)

/-- A receiver has marked a lane failed (R257). -/
def State.laneLost (s : State) (p fibre lane : Nat) : State :=
  s.modLnp p fun x => x.modFibre fibre fun f => { f with good := setBit9 f.good lane false }

theorem State.laneLost_lnp (s : State) (p fibre lane : Nat) :
    (s.laneLost p fibre lane).lnp p = (s.lnp p).modFibre fibre fun f => { f with good := setBit9 f.good lane false } :=
  (State.lnp_modLnp ..).trans (if_pos rfl)

theorem State.laneLost_use (s : State) (p fibre lane : Nat) :
    (((s.laneLost p fibre lane).lnp p).fibre fibre).use = ((s.lnp p).fibre fibre).use := by
  rw [State.laneLost_lnp, Lnp.fibre_modFibre, if_pos rfl]

/-- Between two states one port and the outputs alone changed, and a lane of that port is failed. -/
structure State.LosesLane (s t : State) (p fibre lane : Nat) : Prop where
  frame : ∃ ports o, t = { s with lnps := ports, out := o }
  others : ∀ q, q ≠ p → t.lnp q = s.lnp q
  good : ((t.lnp p).fibre fibre).good.getLsbD lane = false

theorem State.SendsOn.losesLane {t : State} {p : Nat} {fibre : Fin 4} {lane : Fin 9} (a : State.SendsOn p (s.laneLost p fibre.val lane.val) t) :
    s.LosesLane t p fibre.val lane.val := by
  obtain ⟨l, o, hframe⟩ := a.frame
  refine ⟨⟨l, o, hframe⟩, fun q hq => (a.others q hq).trans ((State.lnp_modLnp ..).trans (if_neg hq)), ?_⟩
  rw [a.port.good, State.laneLost_lnp, Lnp.fibre_modFibre, if_pos rfl]
  exact getLsbD_setBit9_self _ lane false

theorem State.LosesLane.startRetrain {t : State} {p fibre lane : Nat} (a : s.LosesLane t p fibre lane) :
    s.LosesLane (t.startRetrain p) p fibre lane := by
  obtain ⟨l, o, hframe⟩ := a.frame
  refine ⟨⟨_, o, by rw [hframe]; rfl⟩, fun q hq => ((State.lnp_modLnp ..).trans (if_neg hq)).trans (a.others q hq), ?_⟩
  have hport : (t.startRetrain p).lnp p = _ := (State.lnp_modLnp ..).trans (if_pos rfl)
  rw [hport]
  exact a.good

theorem State.startRetrain_port (s : State) (p : Nat) :
    ((s.startRetrain p).lnp p).st = .training ∧ ((s.startRetrain p).lnp p).retraining = true := by
  have hport : (s.startRetrain p).lnp p = _ := (State.lnp_modLnp ..).trans (if_pos rfl)
  rw [hport]
  exact ⟨rfl, rfl⟩

section

variable {fibre : Fin 4} {lane : Fin 9}

/-- The port awaits the lane as the spare of another. -/
def Lnp.awaits (x : Lnp) (fibre lane : Nat) : Bool := x.swaps.any fun w => w.1 == fibre && w.2.2.1 == lane

/-- The three answers to a failed lane: nothing where it is neither in use nor awaited, a swap where a spare is there, a retrain otherwise. -/
theorem execLnpLaneFail_eq (hup : (s.lnp port.val).up = true) (hrx : 2 ≤ fibre.val)
    (hgood : ((s.lnp port.val).fibre fibre.val).good.getLsbD lane.val = true) :
    ∃ v, execLnpLaneFail port fibre lane s =
        (if !((s.lnp port.val).fibre fibre.val).use.getLsbD lane.val && !(s.lnp port.val).awaits fibre.val lane.val then
          done (s.laneLost port.val fibre.val lane.val)
        else if ((s.lnp port.val).fibre fibre.val).use.getLsbD lane.val &&
            (((s.laneLost port.val fibre.val lane.val).lnp port.val).spare fibre.val).isSome then
          done ((s.laneLost port.val fibre.val lane.val).substitute port.val fibre.val lane.val)
        else done (v.startRetrain port.val)) ∧
      State.SendsOn port.val (s.laneLost port.val fibre.val lane.val) v := by
  have huse := s.laneLost_use port.val fibre.val lane.val
  rw [State.laneLost] at huse
  unfold execLnpLaneFail
  dsimp only
  rw [if_neg (by simp [hup, hgood, Nat.not_lt.mpr hrx]), huse]
  exact ⟨_, rfl, (State.SendsOn.refl.sendFrame _).sendSession _⟩

/-- A failed lane is marked, and its swap or the retrain follows (R257). -/
theorem execLnpLaneFail_fails (hup : (s.lnp port.val).up = true) (hrx : 2 ≤ fibre.val)
    (hgood : ((s.lnp port.val).fibre fibre.val).good.getLsbD lane.val = true) :
    ∃ t, execLnpLaneFail port fibre lane s = .next t ∧ s.LosesLane t port.val fibre.val lane.val ∧
      (((s.lnp port.val).fibre fibre.val).use.getLsbD lane.val = false → (s.lnp port.val).awaits fibre.val lane.val = false →
        t.out = s.out ∧ (t.lnp port.val).st = (s.lnp port.val).st) ∧
      (((s.lnp port.val).fibre fibre.val).use.getLsbD lane.val = true →
        (∀ k, ((s.laneLost port.val fibre.val lane.val).lnp port.val).spare fibre.val = some k →
          (fibre.val, lane.val, k, ((s.lnp port.val).rxSeq.toNat + 256) % 65536) ∈ (t.lnp port.val).swaps) ∧
        (((s.laneLost port.val fibre.val lane.val).lnp port.val).spare fibre.val = none →
          (t.lnp port.val).st = .training ∧ (t.lnp port.val).retraining = true)) := by
  obtain ⟨v, hexec, hsends⟩ := execLnpLaneFail_eq hup hrx hgood
  rw [hexec]
  split
  case isTrue hunused =>
    simp only [Bool.and_eq_true, Bool.not_eq_true'] at hunused
    obtain ⟨huse, -⟩ := hunused
    refine ⟨_, rfl, State.SendsOn.refl.losesLane, fun _ _ => ⟨rfl, ?_⟩, fun hused => ?_⟩
    · rw [State.laneLost_lnp]
      rfl
    · rw [huse] at hused
      exact absurd hused Bool.false_ne_true
  case isFalse hneeded =>
    simp only [Bool.and_eq_true, Bool.not_eq_true', not_and, Bool.not_eq_false] at hneeded
    split
    case isTrue hspared =>
      simp only [Bool.and_eq_true, Option.isSome_iff_exists] at hspared
      obtain ⟨huse, k, hspare⟩ := hspared
      refine ⟨_, rfl, (State.SendsOn.refl.substitute ..).losesLane, fun hunused => ?_, fun _ => ⟨fun k' hk => ?_, fun hnone => ?_⟩⟩
      · rw [huse] at hunused
        exact absurd hunused.symm Bool.false_ne_true
      · have hrxSeq : ((s.laneLost port.val fibre.val lane.val).lnp port.val).rxSeq = (s.lnp port.val).rxSeq := by
          rw [State.laneLost_lnp]
          rfl
        rw [← hrxSeq]
        exact State.substitute_swaps hrx hk
      · rw [hspare] at hnone
        exact absurd hnone (Option.some_ne_none k)
    case isFalse hnone =>
      refine ⟨_, rfl, hsends.losesLane.startRetrain, fun hunused hfree => ?_, fun huse => ⟨fun k hk => ?_, fun _ => v.startRetrain_port _⟩⟩
      · rw [hneeded hunused] at hfree
        exact absurd hfree.symm Bool.false_ne_true
      · rw [huse, hk] at hnone
        exact absurd rfl hnone

/-- The sensor page with the readings of a laser (R259). -/
def Sensors.laser (x : Sensors) (i bias power : Nat) : Sensors := { x with bias := x.bias.put 0 i bias, power := x.power.put 0 i power }

/-- The readings of a laser are kept, and its lane is marked as worn or not. -/
def State.laserMarked (s : State) (p fibre lane bias power : Nat) : State :=
  ({ s with sensors := s.sensors.laser (18 * p + 9 * fibre + lane) bias power } : State).modLnp p fun x =>
    x.modFibre fibre fun f => { f with worn := setBit9 f.worn lane (decide (1500 < bias) || decide (power ≤ 501)) }

/-- A worn lane goes on to a spare; the mark and the readings stand (R259). -/
theorem execLaserWearCheck_marks {bias power : Nat} (htx : fibre.val < 2) (hup : (s.lnp port.val).up = true) (hhearth : s.resets.hearthDown = false) :
    ∃ t, execLaserWearCheck port fibre lane bias power s = .next t ∧
      (∃ ports o, t = { s with lnps := ports, out := o, sensors := s.sensors.laser (18 * port.val + 9 * fibre.val + lane.val) bias power }) ∧
      (∀ q, q ≠ port.val → t.lnp q = s.lnp q) ∧
      ((t.lnp port.val).fibre fibre.val).worn.getLsbD lane.val = (decide (1500 < bias) || decide (power ≤ 501)) := by
  let u := s.laserMarked port.val fibre.val lane.val bias power
  have hport : u.lnp port.val = _ := (State.lnp_modLnp ..).trans (if_pos rfl)
  obtain ⟨swaps, hexec⟩ : ∃ swaps : Bool, execLaserWearCheck port fibre lane bias power s =
      done (if swaps then u.substitute port.val fibre.val lane.val else u) := ⟨_, if_neg (by simp [hup, hhearth, htx])⟩
  have hsends : State.SendsOn port.val u (if swaps then u.substitute port.val fibre.val lane.val else u) := by
    split
    · exact State.SendsOn.refl.substitute ..
    · exact .refl
  obtain ⟨l, o, hframe⟩ := hsends.frame
  refine ⟨_, hexec, ⟨l, o, hframe⟩, fun q hq => (hsends.others q hq).trans ((State.lnp_modLnp ..).trans (if_neg hq)), ?_⟩
  rw [hsends.port.worn, hport, Lnp.fibre_modFibre, if_pos rfl]
  exact getLsbD_setBit9_self _ lane _

end

end

end Sys2Proof.Machine
end

section
/-! What ends when a remote transaction has waited too long (R133, R258, R261). -/

namespace Sys2Proof.Machine

open Sys2Proof

/-- What was put before a list is in the new part of the whole. -/
theorem mem_take_new {α : Type} {l l' m : List α} {x : α} (h : l' = l ++ x :: m) : x ∈ l'.take (l'.length - m.length) := by
  have hsplit : l' = (l ++ [x]) ++ m := by simp [h]
  rw [hsplit, List.length_append, Nat.add_sub_cancel, List.take_left]
  simp

/-- A command that completes on a ring that runs tells its sender: its record is among the outputs (R226, R230). -/
theorem State.complete_told (s s0 : State) (ref : CmdRef) (op status detail info0 info1 : Nat)
    (hon : (s.ring ref.port.val ref.fn.val ref.ring.val).on = true) (hout : s.out = s0.out) :
    s0.told (s.complete ref op status detail info0 info1) ref op status detail info0 info1 := by
  obtain ⟨⟨irq, -, hrecord⟩, -, -⟩ := s.record_ring ref.port.val ref.fn.val ref.ring.val ref.tag status op detail info0 info1 ref.noirq
  have hcomplete : (s.complete ref op status detail info0 info1).out =
      (s.record ref.port.val ref.fn.val ref.ring.val ref.tag status op detail info0 info1 ref.noirq).out := by
    simp [State.complete, hon]
  rw [hout] at hrecord
  exact ⟨_, _, _, _, mem_take_new (hcomplete.trans hrecord)⟩

section

variable {s : State} {port : LnpId} {txn h : Nat} {u : Txn}

/-- The remote transaction of a port that has waited as long as `LNP_RTMO` allows (R261). -/
structure State.RemoteDue (s : State) (port : LnpId) (txn : Nat) (u : Txn) : Prop where
  txn : s.txn txn = some u
  pool : u.pool = .lanper
  client : u.client = port.val
  granted : u.granted = true
  due : u.startedAt + s.hearth.rtmo.toNat * 1000000 ≤ s.now

theorem execLnpRtmoExpiry_drops {x r : Nat} (a : s.RemoteDue port txn u) (hkind : u.kind = .crossing h x r) (hwrite : u.write = true) :
    execLnpRtmoExpiry port txn s = done (s.endRemote u) := by
  obtain ⟨htxn, hpool, hclient, hgranted, hdue⟩ := a
  simp [execLnpRtmoExpiry, htxn, hpool, hclient, hgranted, hkind, hwrite, msNs, Nat.not_lt.mpr hdue]

/-- A jar read that is to be asked for again is counted and timed anew. -/
def State.triedAgain (s : State) (txn : Nat) : State := s.modTxn txn fun t => { t with tries := t.tries + 1, startedAt := s.now }

theorem execLnpRtmoExpiry_reissues (a : s.RemoteDue port txn u) (hkind : u.kind = .copy h) (htries : u.tries < 3) :
    execLnpRtmoExpiry port txn s = done ((s.triedAgain txn).sendRequest u) := by
  obtain ⟨htxn, hpool, hclient, hgranted, hdue⟩ := a
  simp [execLnpRtmoExpiry, htxn, hpool, hclient, hgranted, hkind, htries, msNs, Nat.not_lt.mpr hdue, State.triedAgain]

theorem execLnpRtmoExpiry_gives_up (a : s.RemoteDue port txn u) (hkind : u.kind = .copy h) (htries : 3 ≤ u.tries) :
    execLnpRtmoExpiry port txn s = done (s.endRemote u) := by
  obtain ⟨htxn, hpool, hclient, hgranted, hdue⟩ := a
  simp [execLnpRtmoExpiry, htxn, hpool, hclient, hgranted, hkind, Nat.not_lt.mpr htries, msNs, Nat.not_lt.mpr hdue, Txn.crossingOf]

/-! ### The transaction is gone -/

theorem State.RemoteDue.id (a : s.RemoteDue port txn u) : u.id = txn := by
  simpa using List.find?_some a.txn

theorem State.txn_none_of (hgone : ∀ x ∈ s.txns, x.id ≠ txn) : s.txn txn = none :=
  List.find?_eq_none.mpr fun x hx => by simpa using hgone x hx

theorem State.dropTxn_gone (s : State) (txn : Nat) : ∀ x ∈ (s.dropTxn txn).txns, x.id ≠ txn := fun x hx => by
  obtain ⟨-, hid⟩ := List.mem_filter.mp hx
  simpa using hid

theorem runOut_gone {l : List Txn} (hgone : ∀ x ∈ l, x.id ≠ txn) : ∀ x ∈ runOut l h, x.id ≠ txn := by
  intro x hx
  obtain ⟨y, hy, rfl⟩ := List.mem_map.mp hx
  have hid := hgone y (List.mem_of_mem_filter hy)
  split
  · exact hid
  · exact hid

/-! ### A write that was lost -/

/-- What the failing of a step's fence leaves: stack memory, every other hob, and no transaction but those there were (R128, R131). -/
structure State.FailsStep (s t : State) (h : Nat) : Prop where
  mem : t.mem = s.mem
  others : ∀ k, k ≠ h → t.hob k = s.hob k
  gone : ∀ txn, (∀ x ∈ s.txns, x.id ≠ txn) → ∀ x ∈ t.txns, x.id ≠ txn

theorem State.FailsStep.trans {t v : State} (a : s.FailsStep t h) (b : t.FailsStep v h) : s.FailsStep v h :=
  ⟨b.mem.trans a.mem, fun k hk => (b.others k hk).trans (a.others k hk), fun txn hgone => b.gone txn (a.gone txn hgone)⟩

theorem State.failHead_fails (s : State) (h : Nat) : s.FailsStep (s.failHead h) h := by
  have hsame : s.FailsStep s h := ⟨rfl, fun _ _ => rfl, fun _ hgone => hgone⟩
  unfold State.failHead
  split
  · split
    · have hspec := s.stopFailed_spec h ‹_›
      exact ⟨hspec.mem, hspec.others, fun txn hgone => by rw [hspec.txns]; exact runOut_gone hgone⟩
    · exact hsame
  · exact hsame

theorem State.lostWrite_fails (s : State) (h f xng : Nat) : s.FailsStep (s.lostWrite h f xng) h := by
  have hmod : ∀ g : Hob → Hob, s.FailsStep (s.modHob h g) h := fun g =>
    ⟨rfl, fun k hk => (State.hob_modHob s h k g).trans (if_neg hk), fun _ hgone => hgone⟩
  unfold State.lostWrite State.failFence
  extract_lets
  split
  · exact (hmod _).trans (State.failHead_fails _ h)
  · exact hmod _

/-- A port send that has waited too long is dropped, and its step's fence fails (R133, R261). -/
theorem State.endRemote_drops {x r : Nat} (hid : u.id = txn) (hkind : u.kind = .crossing h x r) (hwrite : u.write = true) :
    (s.endRemote u).mem = s.mem ∧ (s.endRemote u).txn txn = none ∧ ∀ k, k ≠ h → (s.endRemote u).hob k = s.hob k := by
  have hend : s.endRemote u = (s.dropTxn txn).lostWrite h u.stamp x := by simp [State.endRemote, hkind, hwrite, hid]
  have hfails := (s.dropTxn txn).lostWrite_fails h u.stamp x
  rw [hend]
  exact ⟨hfails.mem, State.txn_none_of (hfails.gone txn (s.dropTxn_gone txn)), hfails.others⟩

/-- The reads of a jar are gone, and the hob that restored it is torn (R261). -/
def State.tornBy (s : State) (txn h : Nat) : State :=
  { s.dropTxn txn with txns := (s.dropTxn txn).txns.filter fun (x : Txn) => !(x.pool == Pool.lanper && x.kind == TxnKind.copy h) }.modHob h
    fun y => { y with restore := none, torn := true }

/-- A jar read that was given up ends its JAR_RESTORE, and the hob is torn (R261). -/
theorem State.endRemote_tears {r : Restore} (hid : u.id = txn) (hkind : u.kind = .copy h) (hrestore : (s.hob h).restore = some r)
    (hon : (s.ring r.ref.port.val r.ref.fn.val r.ref.ring.val).on = true) :
    let t := s.endRemote u
    t = { s with txns := t.txns, hobs := t.hobs, hosts := t.hosts, out := t.out } ∧
      t.txn txn = none ∧ (t.hob h).restore = none ∧ (t.hob h).torn = true ∧ s.told t r.ref 8 21 0 0 0 := by
  have hend : s.endRemote u = (s.tornBy txn h).complete r.ref 8 21 0 0 0 := by
    have hrestore' : ((s.dropTxn txn).hob h).restore = some r := hrestore
    simp only [State.endRemote, hkind, hid, hrestore']
    rfl
  have hhob : ((s.tornBy txn h).complete r.ref 8 21 0 0 0).hob h = { s.hob h with restore := none, torn := true } := by
    have hkept : ((s.tornBy txn h).complete r.ref 8 21 0 0 0).hob h = (s.tornBy txn h).hob h := by simp
    exact hkept.trans ((State.hob_modHob ..).trans (if_pos rfl))
  intro t
  simp only [t, hend]
  refine ⟨by rw [State.complete_eq]; rfl, State.txn_none_of fun x hx => ?_, by rw [hhob], by rw [hhob],
    State.complete_told (s.tornBy txn h) s r.ref 8 21 0 0 0 hon rfl⟩
  rw [State.complete_eq] at hx
  exact s.dropTxn_gone txn x (List.mem_of_mem_filter hx)

/-- A packet goes to the queue of the port that its route names, which relights if it is parked (R259, R260). -/
theorem State.sendPacket_routed (via : Nat) {f : Frame} {q : BitVec 4} (hroute : s.hearth.routes.get none f.dest = some q) :
    (∀ r, r ≠ q.toNat → (s.sendPacket via f).lnp r = s.lnp r) ∧
      ((s.sendPacket via f).lnp q.toNat).txQueue = (s.lnp q.toNat).txQueue ++ [{ f with origin := s.hearth.devIdLive.toNat }] := by
  have hrelit : ∀ r, r ≠ q.toNat → (s.relight q.toNat).lnp r = s.lnp r := fun r hr => by
    unfold State.relight
    dsimp only
    split
    · exact (State.lnp_setLnp ..).trans (if_neg hr)
    · rfl
  have hqueue : ((s.relight q.toNat).lnp q.toNat).txQueue = (s.lnp q.toNat).txQueue := by
    unfold State.relight
    dsimp only
    split
    · rw [State.lnp_setLnp, if_pos rfl]
    · rfl
  simp only [State.sendPacket, hroute]
  refine ⟨fun r hr => ((State.lnp_modLnp ..).trans (if_neg hr)).trans (hrelit r hr), ?_⟩
  rw [State.lnp_modLnp, if_pos rfl, hqueue]

/-- The packet that asks a peer for 4 KiB of a jar (R250, R261). -/
def Txn.jarPacket (u : Txn) : Frame := { kind := 2, flits := 1, dest := u.cell, hob := u.hob, note := [u.slot, u.addr, 4096] }

/-- A jar read goes out as one request on REQ. -/
theorem State.sendRequest_read (hpool : u.pool = .lanper) (hgranted : u.granted = true) (hwrite : u.write = false)
    (hkind : u.kind = .copy h) (hdata : u.data = []) : s.sendRequest u = s.sendPacket u.client u.jarPacket := by
  simp [State.sendRequest, hpool, hgranted, hwrite, hkind, hdata, Txn.isXng, Txn.jarPacket]

/-- A transaction after a change that keeps its number. -/
theorem State.txn_modTxn {f : Txn → Txn} (hf : ∀ x, (f x).id = x.id) (htxn : s.txn txn = some u) : (s.modTxn txn f).txn txn = some (f u) := by
  have hkept : ∀ x : Txn, (if x.id = txn then f x else x).id = x.id := fun x => by
    split
    · exact hf x
    · rfl
  have hid : u.id = txn := by simpa using List.find?_some htxn
  have hfind : (s.modTxn txn f).txn txn = (s.txn txn).map fun x => if x.id = txn then f x else x := by
    simp only [State.txn, State.modTxn, List.find?_map, Function.comp_def, hkept]
  rw [hfind, htxn, Option.map_some, if_pos hid]

/-- A jar read is counted, timed anew and asked for again (R261). -/
theorem execLnpRtmoExpiry_asks_again {q : BitVec 4} (a : s.RemoteDue port txn u) (hkind : u.kind = .copy h) (htries : u.tries < 3)
    (hwrite : u.write = false) (hdata : u.data = []) (hroute : s.hearth.routes.get none u.cell = some q) :
    ∃ t, execLnpRtmoExpiry port txn s = .next t ∧ t = { s with txns := t.txns, lnps := t.lnps } ∧
      t.txn txn = some { u with tries := u.tries + 1, startedAt := s.now } ∧ (∀ r, r ≠ q.toNat → t.lnp r = s.lnp r) ∧
      (t.lnp q.toNat).txQueue = (s.lnp q.toNat).txQueue ++ [{ u.jarPacket with origin := s.hearth.devIdLive.toNat }] := by
  have hsend := State.sendRequest_read (s := s.triedAgain txn) a.pool a.granted hwrite hkind hdata
  obtain ⟨ports, hframe⟩ := (s.triedAgain txn).sendPacket_lnps u.client u.jarPacket
  obtain ⟨hothers, hqueue⟩ := State.sendPacket_routed (s := s.triedAgain txn) (f := u.jarPacket) u.client hroute
  refine ⟨_, (execLnpRtmoExpiry_reissues a hkind htries).trans (congrArg done hsend), ?_, ?_, hothers, hqueue⟩
  · rw [hframe]
    rfl
  · rw [hframe]
    exact State.txn_modTxn (fun _ => rfl) a.txn

end

end Sys2Proof.Machine
end

section
/-! How `LNP_EN` and `LNP_PARK` are set (R254, R259, R263), and the obligation on the Lanper ports. -/

namespace Sys2Proof.Machine

open Sys2Proof

section

variable {s : State} {who : Who} {port : LnpId} {p : Nat}

/-! ### `LNP_EN` -/

/-- What setting `LNP_EN` does once it is logged. -/
def State.setEn (p : Nat) (on : Bool) (s : State) : State :=
  let s1 := s.modLnp p fun x => { x with en := on }
  let x := s1.lnp p
  if !on then s1.lnpEnd p .dark 0
  else if x.st = .dark && !x.park && !x.fenced && !x.resetting then s1.train p
  else s1

theorem exec_lnpEn (who : Who) (port : LnpId) (on : Bool) (s : State) :
    exec (.lnpEn who port on) s = .next (s.priv who [.installer] 0x0105 0xFF [port.val, flag on] 0 (State.setEn port.val on)) := rfl

/-- A port that is disabled goes DARK, and leaves the log as it was. -/
theorem State.setEn_off (s : State) (p : Nat) :
    (∀ q, q ≠ p → (s.setEn p false).lnp q = s.lnp q) ∧ ((s.setEn p false).lnp p).en = false ∧ ((s.setEn p false).lnp p).st = .dark ∧
      ((s.setEn p false).lnp p).session = false ∧ (s.setEn p false).log = s.log := by
  have hend : s.setEn p false = (s.modLnp p fun x => { x with en := false }).lnpEnd p .dark 0 := rfl
  rw [hend]
  generalize hv : (s.modLnp p fun x => { x with en := false }) = v
  obtain ⟨-, hothers, hst, hsession⟩ := v.lnpEnd_spec p .dark 0
  obtain ⟨-, -, hen⟩ := v.lnpEnd_port p .dark 0
  refine ⟨fun q hq => (hothers q hq).trans ?_, hen.trans ?_, hst, hsession, (State.KeepsLog.refl.lnpEnd ..).log.trans ?_⟩
  · rw [← hv, State.lnp_modLnp, if_neg hq]
  · rw [← hv, State.lnp_modLnp, if_pos rfl]
  · rw [← hv]
    rfl

/-- A DARK port that nothing keeps down trains once it is enabled; one that is not DARK is enabled alone. -/
theorem State.setEn_on (s : State) (p : Nat) :
    (∃ ports, s.setEn p true = { s with lnps := ports }) ∧ (∀ q, q ≠ p → (s.setEn p true).lnp q = s.lnp q) ∧
      ((s.setEn p true).lnp p).en = true ∧
      ((s.lnp p).st = .dark → (s.lnp p).park = false → (s.lnp p).fenced = false → (s.lnp p).resetting = false →
        ((s.setEn p true).lnp p).st = .training) ∧
      ((s.lnp p).st ≠ .dark → (s.setEn p true).lnp p = { s.lnp p with en := true }) := by
  have hport : (s.modLnp p fun x => { x with en := true }).lnp p = { s.lnp p with en := true } := (State.lnp_modLnp ..).trans (if_pos rfl)
  have hothers : ∀ q, q ≠ p → (s.modLnp p fun x => { x with en := true }).lnp q = s.lnp q := fun q hq =>
    (State.lnp_modLnp ..).trans (if_neg hq)
  unfold State.setEn
  dsimp only
  rw [if_neg (by simp), hport]
  split
  case isTrue htrains =>
    have htrained : ((s.modLnp p fun x => { x with en := true }).train p).lnp p = _ := (State.train_lnp ..).trans (if_pos rfl)
    refine ⟨⟨_, rfl⟩, fun q hq => ((State.train_lnp ..).trans (if_neg hq)).trans (hothers q hq), ?_, fun _ _ _ _ => ?_, fun hst => ?_⟩
    · rw [htrained, hport]
    · rw [htrained]
    · simp [hst] at htrains
  case isFalse hstays =>
    refine ⟨⟨_, rfl⟩, hothers, by rw [hport], fun hdark hpark hfenced hreset => ?_, fun _ => hport⟩
    simp [hdark, hpark, hfenced, hreset] at hstays

/-! ### `LNP_PARK` -/

/-- What setting `LNP_PARK` does once it is logged. -/
def State.setPark (p : Nat) (on : Bool) (s : State) : State :=
  let s1 := s.modLnp p fun x => { x with park := on }
  let x := s1.lnp p
  if on then (if x.up then s1.parkPort p else s1)
  else if x.parked then s1.relight p
  else if x.st = .dark && x.en && !x.fenced && !x.resetting then s1.train p
  else s1

theorem exec_lnpPark (who : Who) (port : LnpId) (on : Bool) (s : State) :
    exec (.lnpPark who port on) s = .next (s.priv who [.installer] 0x0105 0xFF [port.val, 2 + flag on] (if on && !s.mayPark port.val then 4 else 0)
      (State.setPark port.val on)) := rfl

/-- A port that is UP and asked to park goes DARK with its session (R259). -/
theorem State.setPark_on (hup : (s.lnp p).up = true) :
    (s.setPark p true).mem = s.mem ∧ (∀ q, q ≠ p → (s.setPark p true).lnp q = s.lnp q) ∧ ((s.setPark p true).lnp p).park = true ∧
      ((s.setPark p true).lnp p).parked = true ∧ ((s.setPark p true).lnp p).st = .dark ∧
      ((s.setPark p true).lnp p).session = (s.lnp p).session := by
  have hport : (s.modLnp p fun x => { x with park := true }).lnp p = { s.lnp p with park := true } := (State.lnp_modLnp ..).trans (if_pos rfl)
  have hothers : ∀ q, q ≠ p → (s.modLnp p fun x => { x with park := true }).lnp q = s.lnp q := fun q hq =>
    (State.lnp_modLnp ..).trans (if_neg hq)
  have hup' : ((s.modLnp p fun x => { x with park := true }).lnp p).up = true := by rw [hport]; exact hup
  have hset : s.setPark p true = ((s.modLnp p fun x => { x with park := true }).sendSession p [3]).modLnp p fun x =>
      { x with st := .dark, parked := true, since := s.now } := by
    unfold State.setPark State.parkPort
    dsimp only
    rw [if_pos rfl, if_pos hup', if_pos hup']
    rfl
  have hsends := State.SendsOn.refl.sendSession (s := s.modLnp p fun x => { x with park := true }) (p := p) [3]
  rw [hset]
  refine ⟨by simp, fun q hq => ((State.lnp_modLnp ..).trans (if_neg hq)).trans ((hsends.others q hq).trans (hothers q hq)), ?_⟩
  rw [State.lnp_modLnp, if_pos rfl]
  refine ⟨hsends.port.park.trans (by rw [hport]), rfl, rfl, hsends.port.session.trans (by rw [hport])⟩

/-- A parked port that nothing keeps down relights (R259). -/
theorem State.setPark_off (hparked : (s.lnp p).parked = true) (hfenced : (s.lnp p).fenced = false) (hreset : (s.lnp p).resetting = false) :
    (∃ ports, s.setPark p false = { s with lnps := ports }) ∧ (∀ q, q ≠ p → (s.setPark p false).lnp q = s.lnp q) ∧
      (s.setPark p false).lnp p = { s.lnp p with park := false, parked := false, relighting := true, st := .training, since := s.now } := by
  have hport : (s.modLnp p fun x => { x with park := false }).lnp p = { s.lnp p with park := false } := (State.lnp_modLnp ..).trans (if_pos rfl)
  have hset : s.setPark p false = (s.modLnp p fun x => { x with park := false }).setLnp p
      { s.lnp p with park := false, parked := false, relighting := true, st := .training, since := s.now } := by
    unfold State.setPark
    dsimp only
    rw [if_neg (by simp), hport, if_pos hparked, State.relight_parked _ _ (by rw [hport]; exact hparked) (by rw [hport]; exact hfenced)
      (by rw [hport]; exact hreset), hport]
    rfl
  rw [hset]
  exact ⟨⟨_, rfl⟩, fun q hq => ((State.lnp_setLnp ..).trans (if_neg hq)).trans ((State.lnp_modLnp ..).trans (if_neg hq)),
    (State.lnp_setLnp ..).trans (if_pos rfl)⟩

end

theorem toNat_width {w : Nat} (h : w ≤ 8) : (BitVec.ofNat 4 w).toNat = w := by
  rw [BitVec.toNat_ofNat]
  exact Nat.mod_eq_of_lt (by omega)

/-- A port whose work ends is as `State.lnpEnd` leaves it: its state and its reason, without a session, every other port as it was. -/
theorem State.lnpEnd_of {s u : State} {p : Nat} (hothers : ∀ q, q ≠ p → u.lnp q = s.lnp q) (st : LnpState) (why : Nat) :
    (∀ q, q ≠ p → (u.lnpEnd p st why).lnp q = s.lnp q) ∧ ((u.lnpEnd p st why).lnp p).st = st ∧
      ((u.lnpEnd p st why).lnp p).downWhy = BitVec.ofNat 2 why ∧ ((u.lnpEnd p st why).lnp p).session = false := by
  obtain ⟨-, hend, hst, hsession⟩ := u.lnpEnd_spec p st why
  exact ⟨fun q hq => (hend q hq).trans (hothers q hq), hst, (u.lnpEnd_port p st why).1, hsession⟩

/-- Settles O39: each command is one operation of the port (`comeUp`, `lnpEnd`, `train`, `relight`, `substitute`), whose frames and ends leave
every other port as it was. -/
theorem lanperPortsTrainAndFail : Obligations.LanperPortsTrainAndFail := by
  unfold Obligations.LanperPortsTrainAndFail
  refine ⟨?trained, ?narrow, ?refused, ?timeout, ?laneFail, ?retrained, ?silent, ?retry, ?unlocked, ?relit, ?beacon, ?wear,
    ?lostSend, ?askAgain, ?lostRead, ?disabled, ?enabled, ?parked, ?unparked⟩
  case trained =>
    intro port r s hst hretrain hrelight hfenced hreset hwarm hlanes hok htag hdev hexp hpark
    change 4 ≤ ((s.lnp port.val).withLanes r).allowed at hlanes
    obtain ⟨u, hexec, hnew⟩ := execLnpTrainingDone_trained (r := r) ⟨hst, hretrain, hrelight, hfenced, hreset⟩ hwarm
    obtain ⟨hunparked, hothers, hlive⟩ := hnew.comesUp (w := ((s.lnp port.val).withLanes r).allowed) hpark
    rw [if_neg (Nat.not_lt.mpr hlanes), if_neg (by rw [State.refusesPeer_false hok htag hdev hexp]; exact Bool.false_ne_true), hunparked] at hexec
    have hport : (u.comeUp port.val ((s.lnp port.val).withLanes r).allowed).lnp port.val = _ := (State.comeUp_lnp ..).trans (if_pos rfl)
    obtain ⟨-, hsession, ⟨hpeer, hpeerPort⟩, hwhy, ⟨htx, hrx, hbuf⟩, -, -⟩ := hnew
    refine ⟨_, hexec, hothers, ?_⟩
    rw [hport]
    refine ⟨Lnp.up_of_upOf rfl, hsession, hpeer, hpeerPort, hwhy, htx, hrx, hbuf, ?_, hlive⟩
    exact hlanes.trans_eq (toNat_width (Lnp.allowed_le _)).symm
  case narrow =>
    intro port r s hst hretrain hrelight hfenced hreset hwarm hfew
    change ((s.lnp port.val).withLanes r).allowed < 4 at hfew
    obtain ⟨u, hexec, -⟩ := execLnpTrainingDone_trained (r := r) ⟨hst, hretrain, hrelight, hfenced, hreset⟩ hwarm
    rw [if_pos hfew] at hexec
    exact ⟨_, hexec, State.lnpEnd_of (fun q hq => (State.lnp_setLnp ..).trans (if_neg hq)) .down 1⟩
  case refused =>
    intro port r s hst hretrain hrelight hfenced hreset hwarm hlanes hrefused
    change 4 ≤ ((s.lnp port.val).withLanes r).allowed at hlanes
    obtain ⟨u, hexec, -⟩ := execLnpTrainingDone_trained (r := r) ⟨hst, hretrain, hrelight, hfenced, hreset⟩ hwarm
    rw [if_neg (Nat.not_lt.mpr hlanes), if_pos (State.refusesPeer_true hrefused)] at hexec
    exact ⟨_, hexec, State.lnpEnd_of (fun q hq => (State.lnp_setLnp ..).trans (if_neg hq)) .down 3⟩
  case timeout =>
    intro port s hst hdue
    obtain ⟨hothers, hdown, hwhy, hsession⟩ := State.lnpEnd_of (s := s) (p := port.val) (fun _ _ => rfl) .down 2
    exact ⟨_, execLnpTrainingTimeout_ends hst hdue, hothers, hdown, hwhy, hsession, by simp⟩
  case laneFail =>
    intro port fibre lane s hup hrx hgood
    obtain ⟨t, hexec, hloses, hunused, hused⟩ := execLnpLaneFail_fails hup hrx hgood
    obtain ⟨⟨l, o, rfl⟩, hothers, hfailed⟩ := hloses
    rw [State.laneLost_lnp] at hused
    exact ⟨_, hexec, rfl, hothers, hfailed, hunused, hused⟩
  case retrained =>
    intro port best s hst hretrain hreset hpark hwidth
    obtain ⟨t, hexec, hup⟩ := execLnpRetrainDone_up (best := best) hst hretrain hreset hpark hwidth
    refine ⟨t, hexec, hup.others, hup.up, hup.retraining, ?_, hup.keyed, hup.session⟩
    rw [hup.width]
    exact toNat_width ((min_le_right _ _).trans (Lnp.allowed_le _))
  case silent =>
    intro port s hup hdue
    obtain ⟨hothers, hdown, hwhy, hsession⟩ := State.lnpEnd_of (s := s) (p := port.val) (fun _ _ => rfl) .down 0
    obtain ⟨-, hbuffer, -⟩ := s.lnpEnd_port port.val .down 0
    exact ⟨_, execLnpLinkSilent_ends hup hdue, hothers, hdown, hwhy, hsession, hbuffer, by simp⟩
  case retry =>
    intro port s hst hen hfenced hreset hdue
    have hport : (s.train port.val).lnp port.val = _ := (State.train_lnp ..).trans (if_pos rfl)
    refine ⟨_, execLnpDownRetry_trains hst hen hfenced hreset hdue, rfl, fun q hq => (State.train_lnp ..).trans (if_neg hq), ?_⟩
    rw [hport]
    exact ⟨rfl, rfl, rfl⟩
  case unlocked =>
    intro port s hst hrelight hreset
    have hport : ((s.train port.val).modLnp port.val fun x => { x with fallback := true }).lnp port.val = _ :=
      (State.lnp_modLnp ..).trans ((if_pos rfl).trans (by rw [State.train_lnp, if_pos rfl]))
    refine ⟨_, execLnpRelightDone_unlocked hst hrelight hreset, rfl,
      fun q hq => ((State.lnp_modLnp ..).trans (if_neg hq)).trans ((State.train_lnp ..).trans (if_neg hq)), ?_⟩
    rw [hport]
    exact ⟨rfl, rfl, rfl⟩
  case relit =>
    intro port s hst hrelight hreset hpark
    obtain ⟨t, hexec, hup⟩ := execLnpRelightDone_locked hst hrelight hreset hpark
    have hwidth := hup.width.trans ((BitVec.ofNat_toNat ..).trans (BitVec.setWidth_eq _))
    exact ⟨t, hexec, hup.others, hup.up, hup.relighting, hwidth, hup.session, hup.keyed⟩
  case beacon =>
    intro port s hparked hst hfenced hreset
    obtain ⟨cfgs, stk, hidle, hexec⟩ := execLnpBeacon_relights hparked hst hfenced hreset
    exact ⟨_, hexec, rfl, fun q hq => (State.lnp_setLnp ..).trans (if_neg hq), (State.lnp_setLnp ..).trans (if_pos rfl), hidle⟩
  case wear =>
    intro port fibre lane bias power s htx hup hhearth
    obtain ⟨t, hexec, ⟨l, o, rfl⟩, hothers, hworn⟩ := execLaserWearCheck_marks (bias := bias) (power := power) (lane := lane) htx hup hhearth
    exact ⟨_, hexec, rfl, hothers, hworn, (Tab.get_put ..).trans (if_pos rfl), (Tab.get_put ..).trans (if_pos rfl)⟩
  case lostSend =>
    intro port txn s u h x r htxn hpool hclient hgranted hdue hkind hwrite
    have hremote : s.RemoteDue port txn u := ⟨htxn, hpool, hclient, hgranted, hdue⟩
    exact ⟨_, execLnpRtmoExpiry_drops hremote hkind hwrite, State.endRemote_drops hremote.id hkind hwrite⟩
  case askAgain =>
    intro port txn s u h q htxn hpool hclient hgranted hdue hkind htries hwrite hdata hroute
    obtain ⟨t, hexec, hframe, hfound, hothers, hqueue⟩ :=
      execLnpRtmoExpiry_asks_again ⟨htxn, hpool, hclient, hgranted, hdue⟩ hkind htries hwrite hdata hroute
    exact ⟨t, _, hexec, hframe, hfound, rfl, hothers, hqueue⟩
  case lostRead =>
    intro port txn s u h r htxn hpool hclient hgranted hdue hkind htries hrestore hon
    have hremote : s.RemoteDue port txn u := ⟨htxn, hpool, hclient, hgranted, hdue⟩
    exact ⟨_, execLnpRtmoExpiry_gives_up hremote hkind htries, State.endRemote_tears hremote.id hkind hrestore hon⟩
  case disabled =>
    intro who port s hmay
    refine State.priv_performs (exec_lnpEn who port false s) hmay rfl fun l n hacted => ?_
    obtain ⟨hothers, hen, hdark, hsession, hlog⟩ := State.setEn_off { s with log := l, logSeq := n } port.val
    exact ⟨hothers, hen, hdark, hsession, hacted _ hlog⟩
  case enabled =>
    intro who port s hmay
    refine State.priv_performs (exec_lnpEn who port true s) hmay rfl fun l n hacted => ?_
    obtain ⟨⟨ports, hframe⟩, hothers, hen, htrains, hstays⟩ := State.setEn_on { s with log := l, logSeq := n } port.val
    generalize State.setEn port.val true { s with log := l, logSeq := n } = v at *
    exact ⟨by rw [hframe]; rfl, hothers, hen, htrains, hstays, hacted _ (by rw [hframe])⟩
  case parked =>
    intro who port s hmay hpark hup
    refine State.priv_performs (exec_lnpPark who port true s) hmay (by simp [hpark]) fun l n _ => ?_
    obtain ⟨hmem, hothers, hset, hdark⟩ := State.setPark_on (s := { s with log := l, logSeq := n }) (p := port.val) hup
    generalize State.setPark port.val true { s with log := l, logSeq := n } = v at *
    exact ⟨hmem, hothers, hset, hdark⟩
  case unparked =>
    intro who port s hmay hparked hfenced hreset
    refine State.priv_performs (exec_lnpPark who port false s) hmay (by simp) fun l n hacted => ?_
    obtain ⟨⟨ports, hframe⟩, hothers, hport⟩ :=
      State.setPark_off (s := { s with log := l, logSeq := n }) (p := port.val) hparked hfenced hreset
    generalize State.setPark port.val false { s with log := l, logSeq := n } = v at *
    exact ⟨by rw [hframe]; rfl, hothers, congrArg Lnp.park hport, congrArg Lnp.parked hport, congrArg Lnp.relighting hport, congrArg Lnp.st hport,
      hacted _ (by rw [hframe])⟩

end Sys2Proof.Machine
end

section
/-! The obligations on sequencers and on sends fail where a message goes again: its launch names the 13-bit cell of HOB_MSG_TCELL
(R169), not the 16-bit field with its reserved bits. -/

namespace Sys2Proof.Machine

open Sys2Proof

section

variable {s t : State} {h target : Nat} {o : Origin} {desc data : List Byte} {bad : List Bool} {q : Send}

/-! ### What a launch tells -/

/-- The newest output is a message of the hob from this origin to cell `target`, launched at device time `now`. -/
def State.TellsLaunch (t : State) (h : Nat) (o : Origin) (target now : Nat) (desc : List Byte) : Prop :=
  ∃ l, t.out = .message h o target now desc :: l

theorem State.launch_tellsLaunch (hlocal : msgRemote desc = none) :
    (s.launch h o target desc data bad).TellsLaunch h o target s.now desc := by
  rw [State.launch, hlocal]
  exact ⟨_, rfl⟩

theorem msgCell_lt (desc : List Byte) : msgCell desc < 8192 := Nat.mod_lt _ (by decide)

/-- Two accounts of one launch name the same cell, so a launch to the 13-bit cell of a descriptor does not name a larger number. -/
theorem State.TellsLaunch.field_lt {now field : Nat} {l : List Out} (htells : t.TellsLaunch h o (msgCell desc) now desc)
    (hout : t.out = .message h o field now desc :: l) : field < 8192 := by
  obtain ⟨l', hout'⟩ := htells
  have hfield : msgCell desc = field := by
    have hmessages := hout'.symm.trans hout
    injection hmessages with hmessage
    injection hmessage
  exact hfield ▸ msgCell_lt desc

/-! ### What goes again -/

/-- SEQ_SEND_RETRY launches to the 13-bit cell of the descriptor (R161, R169). -/
theorem seqSendRetry_tellsLaunch {cell : Pos} {slot : SlotId} {z : Hob} {c : Cell} {x : Slot}
    (hready : s.seqReady cell.idx slot.val = some (h, z, c, x))
    (hdue : (c.sends.find? fun q => leAt q.desc 0x1E 1 == slot.val && q.waiting && q.repliedAt + usNs ≤ s.now) = some q)
    (hlocal : msgRemote q.desc = none) (hnext : exec (.seqSendRetry cell slot) s = .next t) :
    t.TellsLaunch h (.cell c.n slot.val) (msgCell q.desc) s.now q.desc := by
  have hexec : exec (.seqSendRetry cell slot) s = execSeqSendRetry cell slot s := rfl
  simp only [hexec, execSeqSendRetry, hready, hdue] at hnext
  cases hnext
  exact State.launch_tellsLaunch hlocal

/-- MSG_WAIT_RELAUNCH of the hearth's send launches to the 13-bit cell of the descriptor (R169, R181). -/
theorem msgWaitRelaunch_tellsLaunch {hob : HobId} {tag : BitVec 16} (hheld : s.sendOf hob.val .hearth tag.toNat = some q)
    (hwait : q.wait = true) (hwaiting : q.waiting = true) (hdue : q.repliedAt + usNs ≤ s.now)
    (hlocal : msgRemote q.desc = none) (hnext : exec (.msgWaitRelaunch hob .hearth tag) s = .next t) :
    t.TellsLaunch hob.val .hearth (msgCell q.desc) s.now q.desc := by
  have hexec : exec (.msgWaitRelaunch hob .hearth tag) s = execMsgWaitRelaunch hob .hearth tag s := rfl
  have hgoes : (!q.wait || !q.waiting || decide (s.now < q.repliedAt + usNs)) = false := by
    simp [hwait, hwaiting, hdue]
  simp only [hexec, execMsgWaitRelaunch, hheld, hgoes] at hnext
  cases hnext
  exact State.launch_tellsLaunch hlocal

end

/-! ### The counterexample to O22 and O24 -/

/-- A send that was answered with status 1, WAIT being set, whose HOB_MSG_TCELL has the reserved bit 13 set: the field is 8,192 and its
cell is 0. -/
def reservedBitSend : Send := { tag := 9, desc := leBytes 4 0 ++ leBytes 2 8192, wait := true, waiting := true }

/-- Hob 0 runs one cell in sequencer mode. Sequencer 0 of the cell and the hearth both wait with a send of that descriptor, and the
1 µs since the answer is over. -/
def reservedBitSent : State :=
  { now := 1000
    cells := [(0, { hob := some 0, slots := [(0, { seqCount := 1 })], sends := [reservedBitSend] })]
    hobs := [(0, { st := .running, shape := some { w := 1, h := 1 }, recipe := some { mode := 1 }, clk := { live := true },
                   mcast := [reservedBitSend] })] }

theorem reservedBitSend_field : leAt reservedBitSend.desc 4 2 = 8192 := by decide

theorem reservedBitSend_local : msgRemote reservedBitSend.desc = none := by decide

/-- Refutes O22: SEQ_SEND_RETRY launches to the 13-bit cell of HOB_MSG_TCELL, and its clause names the whole field as the target, which
is another number where a reserved bit of the field is set; no hypothesis asks that the descriptor keeps R169. -/
theorem not_sequencersExecuteTheirWords : ¬ Obligations.SequencersExecuteTheirWords := by
  unfold Obligations.SequencersExecuteTheirWords
  rintro ⟨-, -, -, -, -, hretry⟩
  have hready : reservedBitSent.seqReady ({} : Pos).idx (0 : SlotId).val =
      some (0, reservedBitSent.hob 0, reservedBitSent.cell 0, (reservedBitSent.cell 0).slot 0) := rfl
  have hdue : ((reservedBitSent.cell 0).sends.find? fun q =>
      leAt q.desc 0x1E 1 == (0 : SlotId).val && q.waiting && q.repliedAt + usNs ≤ reservedBitSent.now) = some reservedBitSend := by decide
  obtain ⟨t, hnext, -, -, hout⟩ := hretry {} 0 reservedBitSent 0 _ _ _ reservedBitSend hready hdue reservedBitSend_local (by decide)
  have hlt := (seqSendRetry_tellsLaunch hready hdue reservedBitSend_local hnext).field_lt hout
  rw [reservedBitSend_field] at hlt
  exact Nat.lt_irrefl _ hlt

/-- Refutes O24: MSG_WAIT_RELAUNCH launches to the 13-bit cell of HOB_MSG_TCELL, and its clause names the whole field as the target,
which is another number where a reserved bit of the field is set, as it may be in a send that the hearth's engine holds. -/
theorem not_sendsEndOrGoAgain : ¬ Obligations.SendsEndOrGoAgain := by
  unfold Obligations.SendsEndOrGoAgain
  rintro ⟨-, -, -, -, hrelaunch, -⟩
  have hheld : reservedBitSent.sendOf (0 : HobId).val .hearth (9 : BitVec 16).toNat = some reservedBitSend := by decide
  obtain ⟨t, hnext, -, -, -, hout⟩ := hrelaunch 0 9 reservedBitSent reservedBitSend hheld rfl rfl (by decide) reservedBitSend_local
  have hlt := (msgWaitRelaunch_tellsLaunch hheld rfl rfl (by decide) reservedBitSend_local hnext).field_lt hout
  rw [reservedBitSend_field] at hlt
  exact Nat.lt_irrefl _ hlt

end Sys2Proof.Machine
end

section
/-! Windows that come to CLOSED, the release that ends with the last one, and broadcasts (R173 to R177, R185, R186, R242). -/

namespace Sys2Proof.Machine

open Sys2Proof

/-! ### A hob becomes FREE -/

/-- What a hob has to lose to be FREE, and its grant. -/
def Hob.holdings (z : Hob) : HobState × Option Shape × Option Recipe × Nat × Tab Ext × Option (Option CmdRef) × Grant :=
  (z.st, z.shape, z.recipe, z.key, z.ext, z.releasing, z.grant)

section

variable (s : State) (h k : Nat)

theorem State.placeLog_hob (r : PlaceRec) : (s.placeLog r).hob k = s.hob k := rfl

theorem State.freeBridge_hob (n : Nat) : (s.freeBridge h n).hob k = s.hob k :=
  State.each_hob _ _ _ k fun v p => by simp

theorem State.endFar_grant (n : Nat) : ((s.endFar h n).hob k).grant = (s.hob k).grant := by
  unfold State.endFar
  split
  · rfl
  · dsimp only
    rw [State.placeLog_hob, (State.modPos_others ..).1, State.modHob_proj Hob.grant]
    · rw [State.freeBridge_hob]
    · exact fun _ => rfl

theorem State.clearCells_grant : ((s.clearCells h).hob k).grant = (s.hob k).grant := by
  unfold State.clearCells
  extract_lets s1 s2
  have h1 : (s1.hob k).grant = (s.hob k).grant :=
    State.each_proj (fun v => (v.hob k).grant) s _ _ fun v n => by
      rw [(State.modRouter_others ..).1, (State.modCell_others ..).1, State.hob_of_hobs (v.dropLandings_hobs h n)]
  have h2 : (s2.hob k).grant = (s1.hob k).grant := State.each_proj (fun v => (v.hob k).grant) s1 _ _ fun v f => v.endFar_grant h k f.n
  rw [State.modHob_proj Hob.grant]
  · exact h2.trans h1
  · exact fun _ => rfl

theorem State.setHobSt_grant (st : HobState) : ((s.setHobSt h st).hob h).grant = (s.hob h).grant := by
  obtain ⟨n, hset⟩ := (State.HobBecomes.refl (h := h) (s := s)).setHobSt st
  rw [hset.self]

/-- A hob that becomes FREE loses all but what the installer gave it (R208, R240, R242). -/
theorem State.freeHob_holdings : ((s.freeHob h).hob h).holdings = (.free, none, none, 0, [], none, (s.hob h).grant) := by
  unfold State.freeHob
  extract_lets z exts pages s1 s2 s3 s4
  have h1 : s1.hobs = s.hobs := State.each_proj State.hobs s pages _ fun v e => by simp
  have h2 : (s2.hob h).st = .free := State.setHobSt_st ..
  have hgrant : (s2.hob h).grant = (s.hob h).grant := by
    refine ((State.setHobSt_grant ..).trans (State.clearCells_grant ..)).trans (congrArg Hob.grant ?_)
    exact State.hob_of_hobs (by simpa [State.dropShadows] using h1) h
  have h3 : (s3.hob h).holdings = (.free, none, none, 0, [], none, (s.hob h).grant) := by
    rw [← h2, ← hgrant]
    clear_value s2
    simp only [s3]
    rw [State.recheckOver_proj Hob.holdings _ h h (fun _ _ => rfl) fun _ _ => rfl, State.hob_modHob, if_pos rfl]
    rfl
  clear_value s3
  exact h3

/-- A release that takes effect leaves its hob FREE (R240, R242). -/
theorem State.finishRelease_holdings {r : Option CmdRef} (hreleasing : (s.hob h).releasing = some r) :
    ((s.finishRelease h).hob h).holdings = (.free, none, none, 0, [], none, (s.hob h).grant) := by
  have hgens : (s.modCells h Cell.advanceGens).hob h = s.hob h := by simp
  have hfreed := (s.modCells h Cell.advanceGens).freeHob_holdings h
  rw [hgens] at hfreed
  unfold State.finishRelease
  rw [hreleasing]
  dsimp only
  rw [State.hob_of_hobs (State.endAuth_hobs _ h)]
  generalize (s.modCells h Cell.advanceGens).freeHob h = v at *
  split
  · rw [State.hob_of_hobs (t := v.complete _ 11 stOk 0 0 0) (s := v) (by simp)]
    exact hfreed
  · exact hfreed

end

/-! ### A window whose quiesce interval is over -/

section

variable {s : State} {cell : Pos} {win : WinId}

theorem Cell.win_modWin (c : Cell) (w v : Nat) (f : Win → Win) : (c.modWin w f).win v = if v = w then f (c.win w) else c.win v :=
  Tab.get_upd ..

/-- The hob of a position that is being released is released with the last of its windows (R242). -/
def State.releaseLast (s : State) (p : Nat) : State :=
  match (s.cell p).hob with
  | some h => if (s.hob h).releasing.isSome && !s.windowsEnding h then s.finishRelease h else s
  | none => s

/-- A window that nothing waits for: after its quiesce interval it is CLOSED, and nothing else but a release follows (R176, R177). -/
theorem execWindowQuiesceEnd_due {x : Win} (hx : (s.cell cell.idx).win win.val = x) (hclosing : x.state = 2 ∨ x.ending = true)
    (hdue : x.closedAt + 32000 ≤ s.now) (hclosers : x.closers = []) (hreopen : x.reopen = none) :
    exec (.windowQuiesceEnd cell win) s = .next ((s.modCell cell.idx fun c => c.modWin win.val fun y =>
      if x.ending then { landed := y.landed, refused := y.refused } else { y with state := 0, closers := [] }).releaseLast cell.idx) := by
  change execWindowQuiesceEnd cell win s = _
  unfold execWindowQuiesceEnd
  dsimp only
  rw [hx, if_neg, hclosers, hreopen]
  · rfl
  · have hover : decide (s.now < x.closedAt + flightNs) = false := decide_eq_false (Nat.not_lt.mpr hdue)
    rcases hclosing with hstate | hending
    · simp [hstate, hover]
    · simp [hending, hover]

theorem State.releaseLast_unreleased {p : Nat} (hnone : ∀ h, (s.cell p).hob = some h → (s.hob h).releasing = none) :
    s.releaseLast p = s := by
  unfold State.releaseLast
  split
  · next h hcell => simp [hnone h hcell]
  · rfl

theorem Tab.mem_put {α : Type} [DecidableEq α] {d v : α} {t : Tab α} {i : Nat} {e : Nat × α} (he : e ∈ t.put d i v) :
    e = (i, v) ∨ e ∈ t ∧ e.1 ≠ i := by
  unfold Tab.put at he
  split at he
  · exact .inr ((Tab.erase_mem ..).mp he)
  · exact ((Tab.ins_mem ..).mp he).imp_right (Tab.erase_mem ..).mp

/-- No other window of the hob is ending, so none is once this one has ended (R177, R242). -/
theorem State.windowsEnding_last {p w h : Nat} {f : Win → Win} (hf : ∀ x, (f x).ending = false)
    (hothers : (s.nums h).filter (fun n => (s.cell (s.posOf h n)).wins.any fun x => x.2.ending && (s.posOf h n != p || x.1 != w)) = []) :
    (s.modCell p fun c => c.modWin w f).windowsEnding h = false := by
  change ((s.nums h).any fun n => ((s.modCell p fun c => c.modWin w f).cell (s.posOf h n)).wins.any fun x => x.2.ending) = false
  simp only [List.filter_eq_nil_iff, List.any_eq_true, Bool.and_eq_true, not_exists, not_and] at hothers
  simp only [List.any_eq_false]
  intro n hn hany
  obtain ⟨e, he, hending⟩ := List.any_eq_true.mp hany
  rw [State.cell_modCell] at he
  split at he
  · next hp =>
    rcases Tab.mem_put he with rfl | ⟨hold, hne⟩
    · rw [hf] at hending
      exact Bool.false_ne_true hending
    · exact hothers n hn e (hp ▸ hold) hending (by simp [hne])
  · next hp => exact hothers n hn e he hending (by simp [hp])

end

/-! ### Broadcasts -/

section

variable {s t : State} {b : Broadcast} {i : Nat}

/-- Flits from the rim join a client's queue or enter the mesh, and change nothing else (R29, R33). -/
def State.RimSends (s t : State) : Prop :=
  ∃ routers edgeIn rimIn, t = { s with routers := routers, edgeIn := edgeIn, rimIn := rimIn }

namespace State.RimSends

theorem refl : s.RimSends s := ⟨_, _, _, rfl⟩

theorem trans {u : State} (a : s.RimSends t) (c : t.RimSends u) : s.RimSends u := by
  obtain ⟨_, _, _, rfl⟩ := a
  obtain ⟨_, _, _, rfl⟩ := c
  exact ⟨_, _, _, rfl⟩

theorem walk {α : Type} (f : State → α → State) (hf : ∀ v x, State.RimSends v (f v x)) (l : List α) (a : s.RimSends t) :
    s.RimSends (l.foldl f t) := by
  induction l generalizing t with
  | nil => exact a
  | cons x l ih => exact ih (a.trans (hf t x))

theorem crossRim (a : s.RimSends t) (x y : Nat) : s.RimSends (t.crossRim x y) := by
  refine a.walk _ (fun v vc => ?_) _
  split
  · exact refl
  · dsimp only
    split
    · exact refl
    · exact ⟨_, _, _, rfl⟩

theorem enterEdge (a : s.RimSends t) (x y : Nat) : s.RimSends (t.enterEdge x y) := by
  refine (a.crossRim x y).walk _ (fun v e => ?_) _
  dsimp only
  split
  · exact ⟨_, _, _, rfl⟩
  · exact refl

theorem fromRim (a : s.RimSends t) (h n client vc : Nat) (fs : List Flit) : s.RimSends (t.fromRim h n client vc fs) :=
  (a.trans ⟨_, _, _, rfl⟩).enterEdge _ _

end State.RimSends

/-- A broadcast leaves the hearth link (R185). -/
theorem State.sendBcast_eq (s : State) (b : Broadcast) (targets : List Nat) : ∃ routers edgeIn rimIn out,
    s.sendBcast b targets = { s with routers := routers, edgeIn := edgeIn, rimIn := rimIn, out := out } := by
  unfold State.sendBcast
  extract_lets f s1
  split
  · next h _ =>
    obtain ⟨_, _, _, hsent⟩ := State.RimSends.walk (s := s1) _ (fun v n => State.RimSends.refl.fromRim h n hearthClient 0 [f]) targets .refl
    exact ⟨_, _, _, _, hsent⟩
  · exact ⟨_, _, _, _, rfl⟩

theorem State.modBcast_one {f : Broadcast → Broadcast} (hone : s.broadcasts = [b]) (hid : b.id = i) :
    s.modBcast i f = { s with broadcasts := [f b] } := by
  simp [State.modBcast, hone, hid]

theorem State.settleBcast_open (hone : s.broadcasts = [b]) (hid : b.id = i) (hopen : b.targets ≠ []) : s.settleBcast i = s := by
  simp [State.settleBcast, hone, hid, hopen]

theorem State.settleBcast_ended (hone : s.broadcasts = [b]) (hid : b.id = i) (hempty : b.targets = []) (hended : b.ended = []) :
    s.settleBcast i = { s with broadcasts := [] } := by
  simp [State.settleBcast, hone, hid, hempty, hended]

/-- The flits of a broadcast leave the engine of a cell that acknowledges it. -/
def Cell.dropBcast (i : Nat) (c : Cell) : Cell := { c with engineIn := c.engineIn.filter fun f => f.src != .mgt i }

theorem execBroadcastAck_acks {tg : Nat} (hone : s.broadcasts = [b]) (hid : b.id = i) : exec (.broadcastAck i tg) s =
    .next ({ s.modCell (s.bcastPos b tg) (Cell.dropBcast i) with
      broadcasts := [{ b with targets := b.targets.filter fun x => x != tg }] }.settleBcast i) := by
  have hfind : s.broadcasts.find? (fun b => b.id == i) = some b := by simp [hone, hid]
  change execBroadcastAck i tg s = _
  simp only [execBroadcastAck, hfind]
  rw [State.modBcast_one (b := b) (by exact hone) hid]
  rfl

/-- A target that a broadcast gives up: LIDDED or FUSED_OFF, and no cell that carries its hob's work or moves it (R185). -/
def State.bcastGone (s : State) (b : Broadcast) (x : Nat) : Bool :=
  ((s.pos (s.bcastPos b x)).state == .lidded || (s.pos (s.bcastPos b x)).state == .fusedOff) &&
    !(b.hob.isSome && ((s.cell (s.bcastPos b x)).moving || (s.cell (s.bcastPos b x)).hob.isSome))

/-- A broadcast after one more attempt (R185). -/
def State.retriedBcast (s : State) (b : Broadcast) : Broadcast :=
  { b with targets := b.targets.filter fun x => !s.bcastGone b x, ended := b.ended ++ b.targets.filter (s.bcastGone b), tries := b.tries + 1 }

theorem execBroadcastRetry_repeats (hone : s.broadcasts = [b]) (hid : b.id = i) (hdue : b.startedAt + (b.tries + 1) * 10000 ≤ s.now) :
    exec (.broadcastRetry i) s = .next (({ s with broadcasts := [s.retriedBcast b] }.sendBcast b (s.retriedBcast b).targets).settleBcast i) := by
  have hfind : s.broadcasts.find? (fun b => b.id == i) = some b := by simp [hone, hid]
  change execBroadcastRetry i s = _
  simp only [execBroadcastRetry, hfind]
  rw [if_neg (by simp [usNs, Nat.mul_assoc, hdue]), State.modBcast_one (b := b) hone hid]
  rfl

end

/-- Settles O25: a window that ends changes itself alone but for the release that may follow, and a broadcast is settled from the targets
that it has left. -/
theorem windowsCloseAndBroadcastsEnd : Obligations.WindowsCloseAndBroadcastsEnd := by
  unfold Obligations.WindowsCloseAndBroadcastsEnd
  refine ⟨?closes, ?releases, ?acked, ?ends, ?retried⟩
  case closes =>
    intro cell win s hstate hdue hending hclosers hreopen hnone
    refine ⟨_, execWindowQuiesceEnd_due rfl (.inl hstate) hdue hclosers hreopen, ?_⟩
    simp only [hending, Bool.false_eq_true, if_false]
    rw [State.releaseLast_unreleased (by simpa [Cell.modWin] using hnone)]
    refine ⟨rfl, fun p hp => by simp [hp], ?_, fun w hw => ?_⟩
    · simp [Cell.win_modWin, hclosers, hending]
    · simp [Cell.win_modWin, hw]
  case releases =>
    intro cell win s h r hending hdue hclosers hreopen hcell hreleasing hothers
    refine ⟨_, execWindowQuiesceEnd_due rfl (.inr hending) hdue hclosers hreopen, ?_⟩
    simp only [hending, if_true]
    have hlast := State.windowsEnding_last (s := s) (p := cell.idx) (w := win.val)
      (f := fun y => { landed := y.landed, refused := y.refused }) (fun _ => rfl) hothers
    generalize hv : (s.modCell cell.idx fun c => c.modWin win.val fun y => { landed := y.landed, refused := y.refused }) = v at *
    have hvcell : (v.cell cell.idx).hob = some h := by simpa [← hv, Cell.modWin] using hcell
    have hvhob : v.hob h = s.hob h := by simp [← hv]
    have hrelease : v.releaseLast cell.idx = v.finishRelease h := by simp [State.releaseLast, hvcell, hvhob, hreleasing, hlast]
    have hfreed := v.finishRelease_holdings h (r := r) (hvhob ▸ hreleasing)
    rw [hvhob] at hfreed
    rw [hrelease]
    simpa only [Hob.holdings, Prod.mk.injEq] using hfreed
  case acked =>
    intro i tg s b hone hid hleft
    refine ⟨_, execBroadcastAck_acks hone hid, ?_⟩
    rw [State.settleBcast_open (b := { b with targets := b.targets.filter fun x => x != tg }) rfl hid hleft]
    exact ⟨rfl, fun p hp => (State.cell_modCell ..).trans (if_neg hp)⟩
  case ends =>
    intro i tg s b hone hid hlast hended
    refine ⟨_, execBroadcastAck_acks hone hid, ?_⟩
    rw [State.settleBcast_ended (b := { b with targets := b.targets.filter fun x => x != tg }) rfl hid (by simp [hlast]) hended]
    rfl
  case retried =>
    intro i s b hone hid hdue hopen
    refine ⟨_, execBroadcastRetry_repeats hone hid hdue, ?_⟩
    have htargets : (s.retriedBcast b).targets ≠ [] := by
      obtain ⟨x, hx, hstays⟩ := hopen
      refine List.ne_nil_of_mem (a := x) (List.mem_filter.mpr ⟨hx, ?_⟩)
      rcases hstays with ⟨hlid, hfused⟩ | ⟨hhob, hcarries⟩
      · simp [State.bcastGone, hlid, hfused]
      · rcases hcarries with hmoves | hworks
        · simp [State.bcastGone, hhob, hmoves]
        · simp [State.bcastGone, hhob, hworks]
    obtain ⟨_, _, _, _, hsent⟩ := State.sendBcast_eq { s with broadcasts := [s.retriedBcast b] } b (s.retriedBcast b).targets
    rw [hsent, State.settleBcast_open (b := s.retriedBcast b) rfl hid htargets]
    exact ⟨rfl, rfl⟩

end Sys2Proof.Machine
end

section
/-! COPY and COPY_DONE, WINDOW_OPEN and WINDOW_CLOSE (R175, R176, R200, R232, R236). -/

namespace Sys2Proof.Machine

open Sys2Proof

/-! ### What reads and writes of stack memory leave -/

section

variable {s t u : State}

/-- Reads of stack memory change stacks, the errors at rest and the lines they poison (R202 to R204). -/
def State.ReadsStacks (s t : State) : Prop := ∃ stk errs lines, t = { s with stk := stk, errs := errs, lines := lines }

namespace State.ReadsStacks

theorem refl : s.ReadsStacks s := ⟨_, _, _, rfl⟩

theorem trans (a : s.ReadsStacks t) (b : t.ReadsStacks u) : s.ReadsStacks u := by
  obtain ⟨_, _, _, rfl⟩ := a
  obtain ⟨_, _, _, rfl⟩ := b
  exact ⟨_, _, _, rfl⟩

/-- A walk over reads, beside what it collects. -/
theorem walk {α σ : Type} (π : σ → State) (f : σ → α → σ) (hf : ∀ v x, (π v).ReadsStacks (π (f v x))) (l : List α) {v : σ}
    (a : s.ReadsStacks (π v)) : s.ReadsStacks (π (l.foldl f v)) := by
  induction l generalizing v with
  | nil => exact a
  | cons x l ih => exact ih (a.trans (hf v x))

theorem touchEach (a : s.ReadsStacks t) (l : List Nat) : s.ReadsStacks (t.each l State.touchStack) :=
  walk id _ (fun _ _ => ⟨_, _, _, rfl⟩) l a

theorem readLine (a : s.ReadsStacks t) (dev : Nat) : s.ReadsStacks (t.readLine dev).2 := by
  refine a.trans ?_
  unfold State.readLine
  dsimp only
  split
  · exact ⟨_, _, _, rfl⟩
  · dsimp only
    split
    · exact ⟨_, _, _, rfl⟩
    · exact refl

theorem readLines (a : s.ReadsStacks t) (key dev n : Nat) : s.ReadsStacks (t.readLines key dev n).2.2.2 :=
  walk (fun v : List Nat × List Nat × List Byte × State => v.2.2.2) _ (fun _ _ => refl.readLine _) _ a

theorem stackRead (a : s.ReadsStacks t) (h at_ n : Nat) : s.ReadsStacks (t.stackRead h at_ n).2.2 := by
  refine walk (fun v : List Byte × List Nat × State => v.2.2) _ (fun v i => ?_) _ a
  dsimp only
  split
  · exact refl
  · exact refl.readLines ..

end State.ReadsStacks

/-- Either of two reads, beside what they collect. -/
theorem State.ReadsStacks.pick {α β : Type} {c : Prop} [Decidable c] {v w : α × β × State} (a : s.ReadsStacks v.2.2) (b : s.ReadsStacks w.2.2) :
    s.ReadsStacks (if c then v else w).2.2 := by
  split
  · exact a
  · exact b

/-- What a write of stack memory leaves: hobs, host ports, outputs and the time (R210). -/
structure State.KeepsHosts (s t : State) : Prop where
  hobs : t.hobs = s.hobs
  hosts : t.hosts = s.hosts
  out : t.out = s.out
  now : t.now = s.now

namespace State.KeepsHosts

theorem refl : s.KeepsHosts s := ⟨rfl, rfl, rfl, rfl⟩

theorem trans (a : s.KeepsHosts t) (b : t.KeepsHosts u) : s.KeepsHosts u :=
  ⟨b.hobs.trans a.hobs, b.hosts.trans a.hosts, b.out.trans a.out, b.now.trans a.now⟩

theorem of_reads (a : s.ReadsStacks t) : s.KeepsHosts t := by
  obtain ⟨_, _, _, rfl⟩ := a
  exact ⟨rfl, rfl, rfl, rfl⟩

theorem takeShadow {h stack n : Nat} (ht : s.takeShadow h stack = some (n, t)) : s.KeepsHosts t := by
  unfold State.takeShadow at ht
  dsimp only at ht
  split at ht
  · cases ht
  · split at ht
    · cases ht
      exact ⟨rfl, rfl, rfl, rfl⟩
    · split at ht
      · cases ht
        exact ⟨rfl, rfl, rfl, rfl⟩
      · cases ht

theorem writeTarget {h dev n : Nat} {late : Bool} (ht : s.writeTarget h dev late = some (n, t)) : s.KeepsHosts t := by
  unfold State.writeTarget at ht
  dsimp only at ht
  split at ht
  · cases ht
    exact refl
  · split at ht
    · cases ht
      exact ⟨rfl, rfl, rfl, rfl⟩
    · split at ht
      · next hshadow =>
        cases ht
        exact (takeShadow hshadow).trans ⟨rfl, rfl, rfl, rfl⟩
      · cases ht

theorem storeBlock {h a : Nat} {data : List Byte} {bad : Nat → Bool} {late : Bool} (ht : s.storeBlock h a data bad late = some t) :
    s.KeepsHosts t := by
  unfold State.storeBlock at ht
  split at ht
  · cases ht
    exact refl
  · obtain ⟨⟨n, v⟩, hv, rfl⟩ := Option.map_eq_some_iff.mp ht
    exact (writeTarget hv).trans ⟨by simp, by simp, by simp, by simp⟩

theorem storePart {h a : Nat} {data : List Byte} {bad : Nat → Bool} (ht : s.storePart h a data bad = some t) : s.KeepsHosts t := by
  refine trans (of_reads ?_) (storeBlock ht)
  refine State.ReadsStacks.walk (fun v : List Byte × List Nat × State => v.2.2) _ (fun v i => ?_) _ .refl
  have hread : ∀ at_, v.2.2.ReadsStacks (v.2.2.stackRead h at_ 64).2.2 := fun at_ => State.ReadsStacks.refl.stackRead h at_ 64
  exact .pick .refl (.pick (hread _) (hread _))

/-- A walk over stores that all succeed. -/
theorem walk (f : Except Nat State → Nat → Except Nat State) (hf : ∀ r i v, f r i = .ok v → ∃ w, r = .ok w ∧ w.KeepsHosts v)
    (l : List Nat) (r : Except Nat State) (ht : l.foldl f r = .ok t) : ∃ w, r = .ok w ∧ w.KeepsHosts t := by
  induction l generalizing r with
  | nil => exact ⟨t, ht, refl⟩
  | cons i l ih =>
    obtain ⟨v, hv, hvt⟩ := ih _ ht
    obtain ⟨w, hw, hwv⟩ := hf _ _ _ hv
    exact ⟨w, hw, hwv.trans hvt⟩

theorem storeRun {h a : Nat} {data : List Byte} {bad : Nat → Bool} (ht : s.storeRun h a data bad = .ok t) : s.KeepsHosts t := by
  unfold State.storeRun at ht
  obtain ⟨w, hw, hkeeps⟩ := walk _ (fun r i v hv => by
    cases r with
    | error e => cases hv
    | ok w =>
      refine ⟨w, rfl, ?_⟩
      simp only [Except.bind] at hv
      split at hv
      · cases hv
        exact refl
      · split at hv
        · next hpart =>
          cases hv
          exact storePart hpart
        · cases hv) _ _ ht
  cases hw
  exact hkeeps

end State.KeepsHosts

end

/-! ### COPY -/

section

variable {s t u : State} {ref : CmdRef} {hob : HobId} {e : Sqe}

theorem State.ring_of_hosts (h : t.hosts = s.hosts) (p f r : Nat) : t.ring p f r = s.ring p f r := by
  rw [State.ring, State.host, h, State.ring, State.host]

/-- A completion only adds outputs. -/
theorem State.complete_adds (s : State) (ref : CmdRef) (op status detail info0 info1 : Nat) :
    ∃ l, (s.complete ref op status detail info0 info1).out = l ++ s.out := by
  obtain ⟨⟨irq, -, hrecord⟩, -, -⟩ := s.record_ring ref.port.val ref.fn.val ref.ring.val ref.tag status op detail info0 info1 ref.noirq
  unfold State.complete
  dsimp only
  split
  · exact ⟨[], rfl⟩
  · exact ⟨irq ++ [_], by simpa [State.modRing, State.modFn] using hrecord⟩

/-- What is told after more outputs is told. -/
theorem State.told.after {v : State} {op status detail info0 info1 : Nat} (a : u.told t ref op status detail info0 info1) {l : List Out}
    (hout : u.out = l ++ v.out) : v.told t ref op status detail info0 info1 := by
  obtain ⟨slot, head, phase, time, hmem⟩ := a
  refine ⟨slot, head, phase, time, List.take_subset_take_left _ (Nat.sub_le_sub_left ?_ _) hmem⟩
  rw [hout, List.length_append]
  exact Nat.le_add_left ..

theorem execCopy_queues {src dst len after : Nat} {srcKind dstKind : Fin 4} (hturn : s.turn ref hob.val 4 e = true)
    (hargs : copyArgs src dst len after srcKind.val dstKind.val e.args = true) (hlow : 64 ≤ len) (hhigh : len ≤ 2 ^ 34)
    (hlines : len % 64 = 0) (hsrc : srcKind.val ≤ 1) (hdst : dstKind.val ≤ 1) (hst : (s.hob hob.val).st ≠ .free) :
    exec (.copy ref hob src dst len after srcKind dstKind) s =
      .next ((s.started ref 4).leaveIdle.modHob hob.val fun y => { y with copies := y.copies ++ [{
        ref := ref, src := src, dst := dst, len := len, after := after, srcKind := srcKind.val, dstKind := dstKind.val,
        running := srcKind.val == 0 || decide (after ≤ (s.hob hob.val).fenceLast) }] }) := by
  have hrunning : (srcKind.val != 1) = (srcKind.val == 0) := by
    interval_cases srcKind.val <;> rfl
  change execCopy ref hob src dst len after srcKind dstKind s = _
  rw [execCopy, State.command_of_turn s ref hob.val 4 0xFFFF _ _ e hturn (.inl rfl) hargs]
  dsimp only
  have hallowed : (len < 64 || 2 ^ 34 < len || len % 64 ≠ 0 || srcKind.val = 3 || 1 < dstKind.val) = false := by
    simp only [Bool.or_eq_false_iff, decide_eq_false_iff_not]
    omega
  have hjar : srcKind.val ≠ 2 := by omega
  rw [hallowed]
  simp [hst, hjar, hrunning, done]

theorem execCopy_rejects {src dst len after : Nat} {srcKind dstKind : Fin 4} (hturn : s.turn ref hob.val 4 e = true)
    (hargs : copyArgs src dst len after srcKind.val dstKind.val e.args = true) (hlines : len % 64 ≠ 0) :
    exec (.copy ref hob src dst len after srcKind dstKind) s = .next ((s.started ref 4).complete ref 4 1 0 0 0) := by
  change execCopy ref hob src dst len after srcKind dstKind s = _
  rw [execCopy, State.command_of_turn s ref hob.val 4 0xFFFF _ _ e hturn (.inl rfl) hargs]
  dsimp only
  rw [if_pos (by simp [hlines])]
  rfl

/-- A COPY that has moved `n` bytes ends (R236). -/
def State.endCopy (s : State) (h : Nat) (c : Copy) (n : Nat) : State :=
  (s.modHob h fun y => { y with copies := y.copies.erase c }).complete c.ref 4 (if n = c.len then 0 else 5) 0 0 n

theorem State.endCopy_becomes (s : State) (h : Nat) (c : Copy) (n : Nat) :
    State.HobBecomes h s (s.endCopy h c n) { s.hob h with copies := (s.hob h).copies.erase c } :=
  (State.HobBecomes.refl.modHob _).complete ..

theorem State.endCopy_eq (s : State) (h : Nat) (c : Copy) (n : Nat) :
    ∃ hobs hosts out, s.endCopy h c n = { s with hobs := hobs, hosts := hosts, out := out } :=
  ⟨_, _, _, State.complete_eq ..⟩

theorem State.endCopy_adds (s : State) (h : Nat) (c : Copy) (n : Nat) : ∃ l, (s.endCopy h c n).out = l ++ s.out :=
  State.complete_adds ..

/-- The end of a COPY that is still owed its record tells the count (R229, R236). -/
theorem State.endCopy_told {v : State} {h n : Nat} {c : Copy} {l : List Out} (howed : v.owed c.ref = true) (hhosts : s.hosts = v.hosts)
    (hout : s.out = l ++ v.out) : v.told (s.endCopy h c n) c.ref 4 (if n = c.len then 0 else 5) 0 0 n := by
  have hon : (v.ring c.ref.port.val c.ref.fn.val c.ref.ring.val).on = true := (Bool.and_eq_true_iff.mp howed).1
  refine State.told.after (State.complete_told (s.modHob h fun y => { y with copies := y.copies.erase c }) s _ _ _ _ _ _ ?_ rfl) hout
  rwa [State.ring_of_hosts (s := v) (by simpa using hhosts)]

section

variable {moved n : Nat} {data : List Byte} {c : Copy} (hfind : ((s.hob hob.val).copies.find? fun c => c.running) = some c)
  (hwaits : s.copyWaits hob.val c = false) (hn : n = min ((s.hob hob.val).copyLimit c) c.len)

include hfind hwaits hn

/-- A COPY from a stack to host memory: what its controllers read goes out by the hob's port (R236, R243). -/
theorem execCopyDone_toHost (hsrc : c.srcKind = 1) (hdst : c.dstKind = 0) :
    let r := (s.each c.stacksOf State.touchStack).stackRead hob.val c.src n
    exec (.copyDone hob true moved ⟨data, []⟩) s =
      .next ((r.2.2.emit (.hostData (s.hob hob.val).grant.hport.toNat c.dst r.1)).endCopy hob.val c n) := by
  subst hn
  change execCopyDone hob true moved ⟨data, []⟩ s = _
  simp only [execCopyDone, hfind, hwaits, hsrc, hdst]
  rfl

/-- A COPY from host memory to a stack: what was read is stored (R210, R236). -/
theorem execCopyDone_toStack (hsrc : c.srcKind = 0) (hdst : c.dstKind = 1)
    (hstore : (s.each c.stacksOf State.touchStack).storeRun hob.val c.dst (bytesAt data 0 n) (fun _ => false) = .ok u) :
    exec (.copyDone hob true moved ⟨data, []⟩) s = .next (u.endCopy hob.val c n) := by
  subst hn
  change execCopyDone hob true moved ⟨data, []⟩ s = _
  simp only [execCopyDone, hfind, hwaits, hsrc, hdst, List.isEmpty_nil, if_true, List.contains_nil, Bool.or_self, hstore]
  rfl

end

end

/-! ### Windows -/

section

variable {s : State} {ref : CmdRef} {hob : HobId} {cell : BitVec 13} {win : WinId} {slot : SlotId} {region : RegionId} {e : Sqe}

theorem State.started_posOf (s : State) (ref : CmdRef) (op h n : Nat) : (s.started ref op).posOf h n = s.posOf h n :=
  State.posOf_of_place (by simp) (by simp) n

/-- What WINDOW_OPEN asks of the hob and the region (R175). -/
structure State.MayOpen (s : State) (h n slot region : Nat) : Prop where
  st : (s.hob h).st = .stopped ∨ (s.hob h).st = .running
  seqMode : (s.hob h).seqMode = true
  cell : n < (s.hob h).rect.cells
  valid : (((s.cell (s.posOf h n)).slot slot).region region).valid = true
  landing : (((s.cell (s.posOf h n)).slot slot).region region).landing = true

theorem execWindowOpen_opens (hturn : s.turn ref hob.val 5 e = true)
    (hargs : (leAt e.args 8 2 == cell.toNat && leAt e.args 0xA 1 == win.val && leAt e.args 0xB 1 == 16 * slot.val + region.val) = true)
    (hmay : s.MayOpen hob.val cell.toNat slot.val region.val)
    (hclosed : ((s.cell (s.posOf hob.val cell.toNat)).win win.val).state = 0)
    (hending : ((s.cell (s.posOf hob.val cell.toNat)).win win.val).ending = false) :
    exec (.windowOpen ref hob cell win slot region) s =
      .next (((s.started ref 5).leaveIdle.modCell (s.posOf hob.val cell.toNat) fun c => c.openWin win.val slot.val region.val).complete
        ref 5 0 0 ((s.cell (s.posOf hob.val cell.toNat)).win win.val).gen.toNat 0) := by
  obtain ⟨hst, hseq, hcell, hvalid, hlanding⟩ := hmay
  change execWindowOpen ref hob cell win slot region s = _
  rw [execWindowOpen, State.command_of_turn s ref hob.val 5 0xFFFF _ _ e hturn (.inl rfl) hargs]
  dsimp only
  simp only [State.started_parts, State.started_posOf]
  rw [if_neg (by rcases hst with h | h <;> simp [h, hseq]), if_neg (by simp [hvalid, hlanding, hcell]), if_pos (by simp [hclosed, hending])]
  rfl

theorem execWindowOpen_waits (hturn : s.turn ref hob.val 5 e = true)
    (hargs : (leAt e.args 8 2 == cell.toNat && leAt e.args 0xA 1 == win.val && leAt e.args 0xB 1 == 16 * slot.val + region.val) = true)
    (hmay : s.MayOpen hob.val cell.toNat slot.val region.val)
    (hclosing : ((s.cell (s.posOf hob.val cell.toNat)).win win.val).state = 2)
    (hnone : ((s.cell (s.posOf hob.val cell.toNat)).win win.val).reopen = none) :
    exec (.windowOpen ref hob cell win slot region) s =
      .next ((s.started ref 5).leaveIdle.modCell (s.posOf hob.val cell.toNat) fun c =>
        c.modWin win.val fun y => { y with reopen := some (slot.val, region.val, ref) }) := by
  obtain ⟨hst, hseq, hcell, hvalid, hlanding⟩ := hmay
  change execWindowOpen ref hob cell win slot region s = _
  rw [execWindowOpen, State.command_of_turn s ref hob.val 5 0xFFFF _ _ e hturn (.inl rfl) hargs]
  dsimp only
  simp only [State.started_parts, State.started_posOf]
  rw [if_neg (by rcases hst with h | h <;> simp [h, hseq]), if_neg (by simp [hvalid, hlanding, hcell]), if_neg (by simp [hclosing]),
    if_pos (by simp [hclosing, hnone])]
  rfl

/-- A window at its WINDOW_CLOSE (R176). -/
def Win.askedToClose (now : Nat) (ref : CmdRef) (x : Win) : Win :=
  if x.state = 2 || x.ending then { x with closers := x.closers ++ [ref] } else { x.close now with closers := [ref] }

theorem execWindowClose_closes (hturn : s.turn ref hob.val 6 e = true)
    (hargs : (leAt e.args 8 2 == cell.toNat && leAt e.args 0xA 1 == win.val) = true)
    (hst : (s.hob hob.val).st ≠ .free) (hcell : cell.toNat < (s.hob hob.val).rect.cells) :
    exec (.windowClose ref hob cell win) s =
      .next ((s.started ref 6).modCell (s.posOf hob.val cell.toNat) fun c => c.modWin win.val (Win.askedToClose s.now ref)) := by
  change execWindowClose ref hob cell win s = _
  rw [execWindowClose, State.command_of_turn s ref hob.val 6 0xFFFF _ _ e hturn (.inl rfl) hargs]
  dsimp only
  simp only [State.started_parts, State.started_posOf, State.started_frame]
  rw [if_neg hst, if_neg (by omega)]
  rfl

end

/-- Settles O33: each command runs its body once its turn has come, and the bodies change the hob's copies, one window, and what reads and
writes of stack memory change. -/
theorem copiesAndWindowsServeTheirCommands : Obligations.CopiesAndWindowsServeTheirCommands := by
  unfold Obligations.CopiesAndWindowsServeTheirCommands
  refine ⟨?queues, ?rejects, ?toHost, ?toStack, ?opens, ?waits, ?closes⟩
  case queues =>
    intro ref hob src dst len after srcKind dstKind s e hturn hargs hlow hhigh hlines hsrc hdst hst
    refine ⟨_, execCopy_queues hturn hargs hlow hhigh hlines hsrc hdst hst, ?_⟩
    obtain ⟨cfgs, stk, hidle, -⟩ := (s.started ref 4).leaveIdle_eq
    rw [hidle, s.started_eq ref 4]
    exact ⟨rfl, fun k hk => (State.hob_modHob ..).trans (if_neg hk), (State.hob_modHob ..).trans (if_pos rfl)⟩
  case rejects =>
    intro ref hob src dst len after srcKind dstKind s e hturn hargs hlines
    refine ⟨_, execCopy_rejects hturn hargs hlines, State.started_complete_eq .., ?_⟩
    exact State.complete_answers s _ ref hob.val 4 1 0 0 0 e hturn rfl (by simp) (by simp)
  case toHost =>
    intro hob moved data s c hfind hwaits hdst hsrc howed
    refine ⟨_, execCopyDone_toHost hfind hwaits rfl hsrc hdst, ?_⟩
    generalize min ((s.hob hob.val).copyLimit c) c.len = n
    have hreads := (State.ReadsStacks.refl (s := s)).touchEach c.stacksOf |>.stackRead hob.val c.src n
    generalize (s.each c.stacksOf State.touchStack).stackRead hob.val c.src n = r at *
    obtain ⟨bytes, bad, v⟩ := r
    obtain ⟨stk, errs, lines, rfl⟩ := hreads
    dsimp only
    generalize ho : Out.hostData (s.hob hob.val).grant.hport.toNat c.dst bytes = o
    generalize hv : ({ s with stk := stk, errs := errs, lines := lines } : State).emit o = v
    have hbecomes := v.endCopy_becomes hob.val c n
    have hhob : ∀ k, v.hob k = s.hob k := fun k => by rw [← hv]; rfl
    refine ⟨?_, fun k hk => (hbecomes.others hk).trans (hhob k), ?_, ?_, ?_⟩
    · obtain ⟨_, _, _, hend⟩ := v.endCopy_eq hob.val c n
      rw [hend, ← hv]
      rfl
    · rw [hbecomes.self, hhob]
    · obtain ⟨l, hl⟩ := v.endCopy_adds hob.val c n
      rw [hl, ← hv]
      simp
    · exact State.endCopy_told (l := [o]) howed (by rw [← hv]; rfl) (by rw [← hv]; rfl)
  case toStack =>
    intro hob moved data s u c hfind hwaits hdst hsrc howed hstore
    refine ⟨_, execCopyDone_toStack hfind hwaits rfl hsrc hdst hstore, ?_⟩
    obtain ⟨hhobs, hhosts, hout, -⟩ := (State.KeepsHosts.of_reads (State.ReadsStacks.refl.touchEach c.stacksOf)).trans (.storeRun hstore)
    generalize min ((s.hob hob.val).copyLimit c) c.len = n
    refine ⟨?_, ?_, State.endCopy_told (l := []) howed hhosts hout⟩
    · obtain ⟨_, _, _, hend⟩ := u.endCopy_eq hob.val c n
      rw [hend]
    · rw [(u.endCopy_becomes hob.val c n).self, State.hob_of_hobs hhobs]
  case opens =>
    intro ref hob cell win slot region s e hturn hargs hst hseq hcell hvalid hlanding hclosed hending
    refine ⟨_, execWindowOpen_opens hturn hargs ⟨hst, hseq, hcell, hvalid, hlanding⟩ hclosed hending, ?_⟩
    generalize s.posOf hob.val cell.toNat = p
    obtain ⟨cfgs, stk, hidle, -⟩ := (s.started ref 5).leaveIdle_eq
    refine ⟨?_, fun q hq => ?_, ?_, ?_⟩
    · rw [State.complete_eq, hidle, s.started_eq ref 5]
      rfl
    · rw [(State.complete_parts ..).1, State.cell_modCell, if_neg hq, hidle, s.started_eq ref 5]
      rfl
    · rw [(State.complete_parts ..).1, State.cell_modCell, if_pos rfl, Cell.openWin, Cell.win_modWin, if_pos rfl, hidle, s.started_eq ref 5]
      rfl
    · exact State.complete_answers s _ ref hob.val 5 0 0 _ 0 e hturn (by rw [hidle]; rfl) (by rw [hidle]; simp) (by rw [hidle]; simp)
  case waits =>
    intro ref hob cell win slot region s e hturn hargs hst hseq hcell hvalid hlanding hclosing hnone
    refine ⟨_, execWindowOpen_waits hturn hargs ⟨hst, hseq, hcell, hvalid, hlanding⟩ hclosing hnone, ?_⟩
    generalize s.posOf hob.val cell.toNat = p
    obtain ⟨cfgs, stk, hidle, -⟩ := (s.started ref 5).leaveIdle_eq
    rw [hidle, s.started_eq ref 5]
    exact ⟨rfl, fun q hq => (State.cell_modCell ..).trans (if_neg hq), by rw [State.cell_modCell, if_pos rfl, Cell.win_modWin, if_pos rfl]; rfl⟩
  case closes =>
    intro ref hob cell win s e hturn hargs hst hcell hending
    refine ⟨_, execWindowClose_closes hturn hargs hst hcell, ?_⟩
    generalize s.posOf hob.val cell.toNat = p at *
    refine ⟨by rw [s.started_eq ref 6]; rfl, fun q hq => ?_, fun hclosing => ?_, fun hopen => ?_⟩
    · rw [State.cell_modCell, if_neg hq, (State.started_parts ..).1]
    · rw [State.cell_modCell, if_pos rfl, Cell.win_modWin, if_pos rfl, (State.started_parts ..).1]
      exact if_pos (by simp [hclosing])
    · rw [State.cell_modCell, if_pos rfl, Cell.win_modWin, if_pos rfl, (State.started_parts ..).1]
      exact if_neg (by simpa [hending] using hopen)

end Sys2Proof.Machine
end

section
/-! Hang watchdogs: each starts its reset or the capture of ash that its reset follows, or waits for the hearth (R186, R326 to R328, R363). -/

namespace Sys2Proof.Machine

open Sys2Proof

/-! ### Positions -/

theorem Pos.ofIdx_idx (p : Pos) : Pos.ofIdx p.idx = p := by
  obtain ⟨px, py⟩ := p
  have hpx := px.isLt
  have hmod : (py.val * 108 + px.val) % 108 = px.val := by omega
  have hdiv : (py.val * 108 + px.val) / 108 = py.val := by omega
  simp [Pos.ofIdx, Pos.idx, hmod, hdiv]

theorem Pos.mem_rack_all (p : Pos) : p ∈ p.rack.all := by
  obtain ⟨px, py⟩ := p
  have hpx := px.isLt
  refine List.mem_map.mpr ⟨px.val % 9, List.mem_range.mpr (Nat.mod_lt _ (by decide)), ?_⟩
  have hk : px.val / 9 % 12 = px.val / 9 := Nat.mod_eq_of_lt (by omega)
  have hcol : 9 * (px.val / 9) + px.val % 9 = px.val := Nat.div_add_mod ..
  simp [Rack.pos, Pos.rack, hk, hcol]

theorem State.mem_hobsAt {s : State} {h p : Nat} {ps : List Nat} (hh : h < 8) (hp : p ∈ ps) (hcell : (s.cell p).hob = some h) :
    h ∈ s.hobsAt ps := by
  refine List.mem_filter.mpr ⟨List.mem_range.mpr hh, List.any_eq_true.mpr ⟨p, hp, ?_⟩⟩
  simp [hcell]

/-! ### Hobs held at once -/

section

variable (s : State) (h k cause : Nat)

theorem State.holdNow_runs : ((s.holdNow h cause).hob k).runs = (s.hob k).runs := by
  by_cases hk : k = h
  · obtain ⟨_, hheld⟩ := (State.HobBecomes.refl (h := h) (s := s)).holdNow cause
    rw [hheld.hob, if_pos hk, hk]
    rfl
  · obtain ⟨_, hheld⟩ := (State.HobBecomes.refl (h := h) (s := s)).holdNow cause
    rw [hheld.others hk]

/-- A running hob that is held at once: the named hold gives way to the cause in force (R120, R121). -/
def Hob.heldNow (now cause : Nat) (z : Hob) : Hob :=
  ({ z with hold := { z.hold with sched := z.hold.sched.filter fun y => y.1 != cause } }.addCause now cause).freeze now cause 0

theorem State.holdNow_hob (hruns : (s.hob h).runs = true) :
    (s.holdNow h cause).hob k = if k = h then (s.hob h).heldNow s.now cause else s.hob k := by
  have hheld : ((s.modHob h (Hob.heldNow s.now cause)).hob k) = if k = h then (s.hob h).heldNow s.now cause else s.hob k :=
    State.hob_modHob ..
  unfold State.holdNow
  extract_lets s1
  rw [if_neg (by simp [hruns])]
  split
  · exact (State.hob_of_hobs (t := s1.avlStart 0 h) (s := s1) (by simp) k).trans hheld
  · exact hheld

theorem State.holdNow_stays (hruns : (s.hob h).runs = false) : s.holdNow h cause = s := by
  simp [State.holdNow, hruns]

/-- A walk that holds hobs at once keeps the causes that are in force. -/
theorem State.holdNow_mono {d : Nat} (hd : d ∈ (s.hob k).hold.causes) : d ∈ ((s.holdNow h cause).hob k).hold.causes := by
  cases hruns : (s.hob h).runs
  · rwa [State.holdNow_stays _ _ _ hruns]
  · rw [State.holdNow_hob _ _ _ _ hruns]
    split
    · next hk => exact Hob.freeze_mono _ _ _ _ (Hob.addCause_mono _ _ (hk ▸ hd))
    · exact hd

theorem State.holdNow_mem (hruns : (s.hob h).runs = true) : cause ∈ ((s.holdNow h cause).hob h).hold.causes := by
  rw [State.holdNow_hob _ _ _ _ hruns, if_pos rfl]
  exact (Hob.heldFor _ _ cause 0).2

end

/-- Every running hob of a walk that holds hobs at once is held for the cause. -/
theorem State.each_holds {f : State → Nat → State} {cause : Nat} (hf : ∀ v h, (f v h).hobs = (v.holdNow h cause).hobs) {l : List Nat} {k : Nat}
    (hk : k ∈ l) {s : State} (hruns : (s.hob k).runs = true) : ((s.each l f).hob k).hold.causes.contains cause = true := by
  have hhob : ∀ v h, (f v h).hob k = (v.holdNow h cause).hob k := fun v h => State.hob_of_hobs (hf v h) k
  have hstill : ((s.each l f).hob k).runs = true :=
    (State.each_proj (fun v => (v.hob k).runs) s l f fun v h => by rw [hhob, State.holdNow_runs]).trans hruns
  refine List.contains_iff_mem.mpr (State.each_brings (P := fun v => (v.hob k).runs = true → cause ∈ (v.hob k).hold.causes)
    (fun v h hv hr => ?_) (fun v hr => ?_) hk s hstill)
  · rw [hhob] at hr ⊢
    exact State.holdNow_mono _ _ _ _ (hv (by rwa [State.holdNow_runs] at hr))
  · rw [hhob] at hr ⊢
    exact State.holdNow_mem _ _ _ (by rwa [State.holdNow_runs] at hr)

theorem State.awaitHearth_hobs (s : State) (h : Nat) : (s.awaitHearth h).hobs = (s.holdNow h 8).hobs := by
  unfold State.awaitHearth
  split
  · simp
  · next hruns => rw [State.holdNow_stays _ _ _ (by simpa using hruns)]

/-! ### A reset that a hang starts -/

section

variable {s : State}

theorem State.clearPos_hobs (s : State) (p : Nat) : (s.clearPos p).hobs = s.hobs := by
  unfold State.clearPos
  dsimp only
  simp only [State.modPos_frame, State.modCell_frame]
  split
  · exact State.dropLandings_hobs ..
  · rfl

/-- The reset of a hung cell is the latest one, with its code; the running hobs of the rack are held (R326 to R328). -/
theorem State.resetCell_holds (s : State) (p why : Nat) :
    (s.resetCell p why).mem = s.mem ∧ (s.resetCell p why).inReset 0 p = true ∧ (s.resetCell p why).resets.last = 0 ∧
      (s.resetCell p why).resets.why = BitVec.ofNat 8 why ∧
      ∀ k ∈ s.hobsAt ((Pos.ofIdx p).rack.all.map Pos.idx), (s.hob k).runs = true →
        ((s.resetCell p why).hob k).hold.causes.contains 5 = true := by
  obtain ⟨hin, hlast, -, -⟩ := s.resetCell_spec p why
  refine ⟨(s.resetCell_keeps p why).1, hin, hlast, ?_, fun k hk hruns => ?_⟩
  · rw [State.resetCell, State.clearAt_resets, State.beginReset_resets]
  · have hhobs : (s.resetCell p why).hobs = (s.holdAt ((Pos.ofIdx p).rack.all.map Pos.idx)).hobs := by
      rw [State.resetCell, State.clearAt_eq, State.each_hobs _ _ _ State.clearPos_hobs]
      simp
    rw [State.hob_of_hobs hhobs]
    exact State.each_holds (fun _ _ => rfl) hk hruns

/-- A cell that carries work answers no message until it is rebuilt (R63, R178). -/
theorem State.resetCell_moving (s : State) {p h : Nat} (hcell : (s.cell p).hob = some h) (why : Nat) :
    ((s.resetCell p why).cell p).moving = true := by
  change ((State.clearPos _ p).cell p).moving = true
  have hhob : ((((s.holdAt ((Pos.ofIdx p).rack.all.map Pos.idx)).beginReset 0 p why)).cell p).hob = some h := by
    rw [← hcell]
    simp [State.cell, State.holdAt]
  generalize (s.holdAt ((Pos.ofIdx p).rack.all.map Pos.idx)).beginReset 0 p why = v at *
  unfold State.clearPos
  simp only [hhob]
  have hstays : ((v.dropLandings h (v.cell p).n).cell p).hob = some h := (State.Replies.refl.dropLandings ..).hob p |>.trans hhob
  generalize v.dropLandings h (v.cell p).n = w at *
  rw [(State.modPos_others ..).2.1, State.cell_modCell, if_pos rfl, if_neg (by simp [hstays])]

theorem State.resetStack_why (s : State) (k why : Nat) : (s.resetStack k why).resets.why = BitVec.ofNat 8 why := by
  change (s.beginReset 2 k why).resets.why = _
  rw [State.beginReset_resets]

theorem State.resetLnp_why (s : State) (p why : Nat) : (s.resetLnp p why).resets.why = BitVec.ofNat 8 why := by
  obtain ⟨hresets, -⟩ := (s.beginReset 3 p why).lnpEnd_spec p .dark 0
  change ((s.beginReset 3 p why).lnpEnd p .dark 0).resets.why = _
  rw [hresets, State.beginReset_resets]

theorem State.resetHost_why (s : State) (p why : Nat) : (s.resetHost p why).resets.why = BitVec.ofNat 8 why := by
  obtain ⟨hresets, -⟩ := (s.beginReset 4 p why).losePort_spec p
  change ((s.beginReset 4 p why).losePort p).resets.why = _
  rw [hresets, State.beginReset_resets]

/-- A hang is answered with its reset where the hearth is in service and no capture runs (R327, R328, R334). -/
theorem State.hang_performs {dom idx : Nat} (why : Nat) (hobs : List Nat) (hon : s.st ≠ .off) (hup : s.resets.hearthDown = false)
    (hash : s.ashRun = none) (hin : s.inReset dom idx = false) : s.hang dom idx why hobs = s.performReset dom idx why := by
  rw [State.hang, if_neg hon, hup, if_neg Bool.false_ne_true, State.askReset_performs why hin hup hash]

/-- A missed heartbeat of a running static-mode cell is a hang (R328 code 1). -/
theorem execCellHeartbeatMiss_hangs {cell : Pos} {h : Nat} (hcell : (s.cell cell.idx).hob = some h) (hruns : (s.hob h).runs = true)
    (hseq : (s.hob h).seqMode = false) :
    exec (.cellHeartbeatMiss cell) s = .next (s.hang 0 cell.idx 1 (s.hobsAt (cell.rack.all.map Pos.idx))) := by
  change execCellHeartbeatMiss cell s = _
  simp only [execCellHeartbeatMiss, hcell]
  rw [if_neg (by simp [hruns, hseq])]
  rfl

theorem execBroadcastUnacked_hangs {i target : Nat} {b : Broadcast} (hfind : (s.broadcasts.find? fun b => b.id == i) = some b)
    (htarget : b.targets.contains target = true) (hdue : b.startedAt + 100000000 ≤ s.now)
    (hlid : (s.pos (s.bcastPos b target)).state ≠ .lidded) (hfused : (s.pos (s.bcastPos b target)).state ≠ .fusedOff) :
    exec (.broadcastUnacked i target) s =
      .next (s.hang 0 (s.bcastPos b target) 3 (s.hobsAt ((Pos.ofIdx (s.bcastPos b target)).rack.all.map Pos.idx))) := by
  have hover : decide (s.now < b.startedAt + 100 * msNs) = false := decide_eq_false (Nat.not_lt.mpr hdue)
  change execBroadcastUnacked i target s = _
  simp only [execBroadcastUnacked, hfind]
  rw [if_neg (by simp [List.contains_iff_mem.mp htarget, hlid, hfused, hover])]
  rfl

/-! ### Hobs that wait for the hearth -/

theorem State.avlStart_eq (s : State) (part key : Nat) : ∃ avl, s.avlStart part key = { s with avl := avl } := by
  unfold State.avlStart
  split
  · exact ⟨_, rfl⟩
  · exact ⟨_, rfl⟩

theorem State.holdNow_eq (s : State) (h cause : Nat) : ∃ hobs avl, s.holdNow h cause = { s with hobs := hobs, avl := avl } := by
  unfold State.holdNow
  extract_lets s1
  split
  · exact ⟨_, _, rfl⟩
  · split
    · obtain ⟨avl, hstart⟩ := s1.avlStart_eq 0 h
      exact ⟨_, avl, hstart⟩
    · exact ⟨_, _, rfl⟩

theorem State.awaitHearth_eq (s : State) (h : Nat) : ∃ hobs avl, s.awaitHearth h = { s with hobs := hobs, avl := avl } := by
  unfold State.awaitHearth
  split
  · obtain ⟨hobs, _, hheld⟩ := s.holdNow_eq h 8
    obtain ⟨avl, hstart⟩ := (s.holdNow h 8).avlStart_eq 5 h
    exact ⟨hobs, avl, hstart.trans (by rw [hheld])⟩
  · exact ⟨_, _, rfl⟩

theorem State.awaitHearths_eq (l : List Nat) (s : State) : ∃ hobs avl, s.each l State.awaitHearth = { s with hobs := hobs, avl := avl } := by
  induction l generalizing s with
  | nil => exact ⟨_, _, rfl⟩
  | cons h l ih =>
    obtain ⟨_, _, hfirst⟩ := s.awaitHearth_eq h
    obtain ⟨hobs, avl, hrest⟩ := ih (s.awaitHearth h)
    exact ⟨hobs, avl, hrest.trans (by rw [hfirst])⟩

/-- A reset asked for while the hearth is away waits in its queue (R327). -/
theorem State.askReset_queues {dom idx why : Nat} (hin : s.inReset dom idx = false) (hdown : s.resets.hearthDown = true) :
    ∃ queued, s.askReset dom idx why = { s with resets := { s.resets with queued := queued } } ∧
      (queued.any fun r => r.1 == dom && r.2.1 == idx) = true := by
  unfold State.askReset
  rw [if_neg (by simp [hin]), if_pos hdown]
  split
  · next hqueued => exact ⟨_, rfl, hqueued⟩
  · exact ⟨_, rfl, by simp⟩

/-! ### Captures and counted resets -/

/-- A capture that starts: its record names its domain, its cause and the units that are suspect, and what follows waits for its end. -/
theorem State.startAsh_starts (domain cause : Nat) (suspects : List (Nat × Nat)) (waiting : List (Nat × Nat × Nat)) (hash : s.ashRun = none) :
    ∃ a avl, s.startAsh domain cause suspects waiting = { s with ashRun := some a, ashSeq := s.ashSeq + 1, avl := avl } ∧
      a.waiting = waiting ∧ a.ash.domain = BitVec.ofNat 8 domain ∧ a.ash.cause = cause ∧ a.ash.units = suspects.map fun u => (u.1, u.2, 2) := by
  unfold State.startAsh
  rw [hash]
  dsimp only
  obtain ⟨avl, hstart⟩ := State.avlStart_eq _ 2 1
  rw [hstart]
  exact ⟨_, avl, rfl, rfl, rfl, rfl, rfl⟩

/-- The counted resets within the window (R331). -/
def State.recentCounted (s : State) : List Nat :=
  s.resets.counted.filter fun t => decide (s.lifeMs < t + s.resets.whours.toNat * 3600000)

/-- A counted reset that leaves the device in service: it is counted and follows a capture (R331, R335). -/
theorem State.deviceReset_counts {dom why : Nat} {suspects : List (Nat × Nat)} (hrun : s.down = false) (hon : s.st ≠ .off)
    (hup : s.resets.hearthDown = false) (hash : s.ashRun = none)
    (hfirst : (s.resets.pathCounted && s.resets.running.any fun r => r.1 == 7) = false)
    (hroom : s.recentCounted.length + 1 < s.resets.wcount.toNat) :
    s.deviceReset dom why suspects =
      { s with resets := { s.resets with counted := s.lifeMs :: s.recentCounted, pathCounted := true } }.interrupt.startAsh
        dom why suspects [(dom, 0, why)] := by
  unfold State.deviceReset
  simp only [hrun, hup, hash, hfirst, decide_eq_false hon, Option.map_none, Option.getD_none, Bool.or_self, Bool.false_eq_true, if_false]
  exact if_neg (Nat.not_le.mpr hroom)

/-! ### The hearth -/

/-- The hearth's reset ends its sessions, and leaves the compute die, the device state and the pins (R326, R327). -/
theorem State.hearthReset_spec {why : Nat} (hon : s.st ≠ .off) (hup : s.resets.hearthDown = false) :
    let t := s.hearthReset why
    t.hobs = s.hobs ∧ t.cells = s.cells ∧ t.mem = s.mem ∧ t.resets.hearthDown = true ∧ t.sessions = [] ∧ t.inReset 9 0 = true ∧
      t.resets.why = BitVec.ofNat 8 why ∧ t.st = s.st ∧ t.pins = s.pins := by
  unfold State.hearthReset
  rw [if_neg (by simp [hon, hup])]
  extract_lets waiting s1 s2 r hearth t
  have hkept : s1.hobs = s.hobs ∧ s1.cells = s.cells ∧ s1.mem = s.mem ∧ s1.st = s.st ∧ s1.pins = s.pins := by
    simp only [s1]
    split
    · simp [State.keepAsh]
    · exact ⟨rfl, rfl, rfl, rfl, rfl⟩
  obtain ⟨hhobs, hcells, hmem, hst, hpins⟩ := hkept
  have hresets : s2.resets = _ := State.beginReset_resets s1 9 0 why
  refine ⟨?_, ?_, ?_, rfl, rfl, ?_, ?_, ?_, ?_⟩
  · simpa [t, s2] using hhobs
  · simpa [t, s2] using hcells
  · simpa [t, s2] using hmem
  · simp [t, r, State.inReset, hresets]
  · simp [t, r, hresets]
  · simpa [t, s2] using hst
  · simpa [t, s2] using hpins

end

/-- Settles O40: a hang performs its reset, whose specification gives the clause, or waits for the hearth; the other watchdogs start a
capture of ash or reset the hearth. -/
theorem hangsAreAnsweredWithResets : Obligations.HangsAreAnsweredWithResets := by
  unfold Obligations.HangsAreAnsweredWithResets
  refine ⟨?heartbeat, ?away, ?request, ?unacked, ?quarter, ?stack, ?lanper, ?host, ?hob, ?token, ?lockstep, ?watchdog⟩
  case heartbeat =>
    intro cell s h hcell hh hruns hseq hon hup hash hin
    refine ⟨_, execCellHeartbeatMiss_hangs hcell hruns hseq, ?_⟩
    rw [State.hang_performs 1 _ hon hup hash hin]
    obtain ⟨hmem, hbegun, hlast, hwhy, hheld⟩ := s.resetCell_holds cell.idx 1
    rw [Pos.ofIdx_idx] at hheld
    refine ⟨hmem, hbegun, hlast, hwhy, ?_, (s.resetCell_spec ..).2.2.1.trans hcell, hheld h ?_ hruns, hheld⟩
    · exact s.resetCell_moving hcell 1
    · exact State.mem_hobsAt hh (List.mem_map_of_mem (Pos.mem_rack_all cell)) hcell
  case away =>
    intro cell s h hcell hh hruns hseq hon hdown hin
    refine ⟨_, execCellHeartbeatMiss_hangs hcell hruns hseq, ?_⟩
    have hheld := State.each_holds (s := s) State.awaitHearth_hobs
      (State.mem_hobsAt hh (List.mem_map_of_mem (Pos.mem_rack_all cell)) hcell) hruns
    obtain ⟨hobs, avl, hwait⟩ := State.awaitHearths_eq (s.hobsAt (cell.rack.all.map Pos.idx)) s
    rw [State.hang, if_neg hon, if_pos hdown, hwait]
    rw [hwait] at hheld
    obtain ⟨queued, hqueued, hany⟩ := State.askReset_queues (s := { s with hobs := hobs, avl := avl }) (why := 1) hin hdown
    rw [hqueued]
    exact ⟨rfl, rfl, hany, hheld⟩
  case request =>
    intro cell s hbacks hrun hon hup hash hin
    refine ⟨s.hang 0 cell.idx 2 (s.hobsAt (cell.rack.all.map Pos.idx)), ?_, ?_⟩
    · change execCellRequestTimeout cell s = _
      rw [execCellRequestTimeout, State.cellLive, hbacks, hrun]
      rfl
    · rw [State.hang_performs 2 _ hon hup hash hin]
      have hspec := s.resetCell_holds cell.idx 2
      rwa [Pos.ofIdx_idx] at hspec
  case unacked =>
    intro i target s b hfind htarget hdue hlid hfused hon hup hash hin
    refine ⟨_, execBroadcastUnacked_hangs hfind htarget hdue hlid hfused, ?_⟩
    rw [State.hang_performs 3 _ hon hup hash hin]
    exact s.resetCell_holds _ 3
  case quarter =>
    intro q s hrun hon hup hash
    obtain ⟨a, avl, hstart, hwaiting, hdomain, hcause, hunits⟩ := State.startAsh_starts 5 5 [(9, q.val)] [(5, q.val, 5)] hash
    refine ⟨{ s with ashRun := some a, ashSeq := s.ashSeq + 1, avl := avl }, a, ?_, rfl, rfl, hwaiting, hdomain, hcause, hunits⟩
    change execQuarterHoldUnconfirmed q s = _
    rw [execQuarterHoldUnconfirmed, if_neg (by simp [hrun, hon]), if_neg (by simp [hup]), hstart]
    rfl
  case stack =>
    intro stack s hpwr hon hup hash hin
    refine ⟨s.hang 2 stack.val 6 [], if_neg hpwr, ?_⟩
    rw [State.hang_performs 6 _ hon hup hash hin]
    obtain ⟨hlines, -, hbegun, hstack, -⟩ := s.resetStack_spec stack.val 6
    exact ⟨(s.resetStack_keeps ..).1, hlines, hbegun, s.resetStack_why .., congrArg Stack.resetting hstack, congrArg Stack.pwr hstack⟩
  case lanper =>
    intro port s hfenced hon hup hash hin
    refine ⟨s.hang 3 port.val 7 [], if_neg (by simp [hfenced]), ?_⟩
    rw [State.hang_performs 7 _ hon hup hash hin]
    obtain ⟨-, hbegun, hst, hreset, hsession⟩ := s.resetLnp_spec port.val 7
    exact ⟨(s.resetLnp_keeps ..).1, hbegun, s.resetLnp_why .., hreset, hst, hsession⟩
  case host =>
    intro port s hfenced hon hup hash hin
    refine ⟨s.hang 4 port.val 8 [], if_neg (by simp [hfenced]), ?_⟩
    rw [State.hang_performs 8 _ hon hup hash hin]
    obtain ⟨-, hbegun, hreset, hfns⟩ := s.resetHost_spec port.val 8
    exact ⟨(s.resetHost_keeps ..).1, hbegun, s.resetHost_why .., hreset, hfns⟩
  case hob =>
    intro hob s hst hup hash
    obtain ⟨a, avl, hstart, hwaiting, hdomain, hcause, -⟩ := State.startAsh_starts 6 9 (s.hobUnits hob.val) [(6, hob.val, 9)] hash
    refine ⟨{ s with ashRun := some a, ashSeq := s.ashSeq + 1, avl := avl }, a, ?_, rfl, rfl, hwaiting, hdomain, hcause⟩
    change execHobStopTimeout hob s = _
    dsimp only [execHobStopTimeout]
    rw [if_neg (by simpa using fun h => hst.resolve_left h), if_neg (by simp [hup]), hstart]
    rfl
  case token =>
    intro s hrun hon hup hash hfirst hroom
    let counted : Resets := { s.resets with counted := s.lifeMs :: s.recentCounted, pathCounted := true }
    obtain ⟨a, avl, hstart, hwaiting, -, hcause, -⟩ :=
      State.startAsh_starts (s := ({ s with resets := counted } : State).interrupt) 7 10 ((List.range 32).map fun n => (3, n)) [(7, 0, 10)] hash
    refine ⟨{ s with ashRun := some a, ashSeq := s.ashSeq + 1, avl := avl, resets := counted }, a, ?_, rfl, rfl, hwaiting, hcause, rfl⟩
    change done (s.deviceReset 7 10 _) = _
    rw [State.deviceReset_counts hrun hon hup hash hfirst hroom, hstart]
    rfl
  case lockstep =>
    intro s hon hup
    exact ⟨_, rfl, State.hearthReset_spec hon hup⟩
  case watchdog =>
    intro s hon hup
    refine ⟨_, if_neg (by simp [hon, hup]), ?_⟩
    obtain ⟨hhobs, hcells, hmem, hdown, hsessions, hin, hwhy, hst, -⟩ := State.hearthReset_spec (why := 11) hon hup
    exact ⟨hhobs, hcells, hmem, hdown, hsessions, hin, hwhy, hst, rfl⟩

end Sys2Proof.Machine
end

section
/-! Messages that arrive: headers that are discarded, refused or accepted, and landings that end (R168 to R173, R178, R179). -/

namespace Sys2Proof.Machine

open Sys2Proof

/-! ### The queues of a message engine -/

section

variable (queue : List Flit) (sent : List DynFlit) (c : Cell)

/-- A cell with other flits before its message engine. -/
def Cell.queued : Cell := { c with engineIn := queue }

theorem Cell.queued_win (w : Nat) : (c.queued queue).win w = c.win w := rfl

theorem Cell.queued_reserve (slot region : Nat) :
    (c.queued queue).reserve slot region = ((c.reserve slot region).1, (c.reserve slot region).2.queued queue) := rfl

/-- A cell with other flits that its message engine has built. -/
def Cell.sending : Cell := { c with engineOut := sent }

@[simp] theorem Cell.sending_landings : (c.sending sent).landings = c.landings := rfl
@[simp] theorem Cell.sending_win (w : Nat) : (c.sending sent).win w = c.win w := rfl
@[simp] theorem Cell.sending_flags : (c.sending sent).flags = c.flags := rfl
@[simp] theorem Cell.sending_scratch : (c.sending sent).scratch = c.scratch := rfl
@[simp] theorem Cell.sending_wordPoison : (c.sending sent).wordPoison = c.wordPoison := rfl

end

/-! ### What the message engine of a cell sends -/

section

variable {s t u : State} {p h n : Nat}

/-- Flits leave the message engine of the cell at a position for its router, and nothing else changes (R65, R66). -/
structure State.EngineSends (p : Nat) (s t : State) : Prop where
  frame : ∃ cells routers, t = { s with cells := cells, routers := routers }
  others : ∀ q, q ≠ p → t.cell q = s.cell q
  own : ∃ sent, t.cell p = (s.cell p).sending sent

namespace State.EngineSends

theorem refl : s.EngineSends p s := ⟨⟨_, _, rfl⟩, fun _ _ => rfl, ⟨_, rfl⟩⟩

theorem trans (a : s.EngineSends p t) (b : t.EngineSends p u) : s.EngineSends p u := by
  obtain ⟨_, _, hframe⟩ := a.frame
  obtain ⟨_, hown⟩ := a.own
  obtain ⟨_, _, hframe'⟩ := b.frame
  obtain ⟨_, hown'⟩ := b.own
  exact ⟨⟨_, _, hframe'.trans (by rw [hframe])⟩, fun q hq => (b.others q hq).trans (a.others q hq), ⟨_, hown'.trans (by rw [hown]; rfl)⟩⟩

theorem queue (f : Cell → List DynFlit) : s.EngineSends p (s.modCell p fun c => { c with engineOut := f c }) :=
  ⟨⟨_, _, rfl⟩, fun q hq => by rw [State.cell_modCell, if_neg hq], ⟨_, by rw [State.cell_modCell, if_pos rfl]; rfl⟩⟩

theorem modRouter (a : s.EngineSends p t) (q : Nat) (f : Router → Router) : s.EngineSends p (t.modRouter q f) :=
  a.trans ⟨⟨_, _, rfl⟩, fun _ _ => rfl, ⟨_, rfl⟩⟩

theorem foldl {α : Type} (f : State → α → State) (hf : ∀ v x, State.EngineSends p v (f v x)) (l : List α) (a : s.EngineSends p t) :
    s.EngineSends p (l.foldl f t) := by
  induction l generalizing t with
  | nil => exact a
  | cons x l ih => exact ih (a.trans (hf t x))

theorem refill (hp : s.posOf h n = p) : s.EngineSends p (s.refill h n) := by
  subst hp
  refine refl.foldl _ (fun v f => ?_) _
  dsimp only
  split
  · exact (queue _).modRouter ..
  · exact refl

theorem inject (hp : s.posOf h n = p) (fs : List DynFlit) : s.EngineSends p (s.inject h n fs) := by
  subst hp
  exact (queue _).trans (refill (s := s.modCell (s.posOf h n) _) rfl)

end State.EngineSends

/-- The cell at a position answers a message on RPL, and changes nothing else but its queue and its router (R178, R180). -/
structure State.AnswersAt (p : Nat) (answer : Out) (s t : State) : Prop where
  frame : ∃ cells routers, t = { s with cells := cells, routers := routers, out := answer :: s.out }
  others : ∀ q, q ≠ p → t.cell q = s.cell q
  own : ∃ sent, t.cell p = (s.cell p).sending sent

theorem State.reply_answers (hp : s.posOf h n = p) (o : Origin) (tag status st gen : Nat) :
    s.AnswersAt p (.reply o tag status st gen) (s.reply h n o tag status st gen) := by
  have hsends := State.EngineSends.inject hp [s.backTo h n o { src := .reply (o.key tag) status st gen }]
  obtain ⟨_, _, hframe⟩ := hsends.frame
  exact ⟨⟨_, _, by rw [State.reply, hframe]; rfl⟩, hsends.others, hsends.own⟩

end

/-! ### Entries and landings of a cell -/

section

variable (c : Cell) (slot region entry : Nat) (data : List Byte) (bad old : Nat → Bool)

/-- A block that is stored leaves what no store of a granule changes. -/
theorem Cell.writeEntry_proj {β : Type} (π : Cell → β) (hgran : ∀ c g d b k, π (Cell.writeGran c g d b k) = π c)
    (hwrote : ∀ (c : Cell) (w : _), π { c with wrote := w } = π c) (htaste : ∀ (c : Cell) (x : _), π { c with taste := x } = π c) :
    π (c.writeEntry slot region entry data bad old) = π c := by
  unfold Cell.writeEntry
  extract_lets sl r c1 x grans taste
  have hstores : π c1 = π c := by
    refine foldl_proj π _ (fun v i => ?_) _ c
    dsimp only
    split
    · rw [hwrote, hgran]
    · rw [hgran]
  split
  · exact hstores
  · rw [htaste, hstores]

@[simp] theorem Cell.writeEntry_landings : (c.writeEntry slot region entry data bad old).landings = c.landings :=
  c.writeEntry_proj _ _ _ _ _ _ Cell.landings (fun _ _ _ _ _ => rfl) (fun _ _ => rfl) fun _ _ => rfl

@[simp] theorem Cell.writeEntry_win (w : Nat) : (c.writeEntry slot region entry data bad old).win w = c.win w :=
  c.writeEntry_proj _ _ _ _ _ _ (fun c => c.win w) (fun _ _ _ _ _ => rfl) (fun _ _ => rfl) fun _ _ => rfl

/-- What waits before the message engine does not change how a block is stored. -/
theorem Cell.writeEntry_queued (queue : List Flit) :
    (c.queued queue).writeEntry slot region entry data bad old = (c.writeEntry slot region entry data bad old).queued queue := by
  unfold Cell.writeEntry
  extract_lets sl' r' c1' x' grans' taste' sl r c1 x grans taste
  have hstores : c1' = c1.queued queue := by
    refine List.foldl_rel (r := fun v w => v = Cell.queued queue w) rfl fun i _ v w hv => ?_
    subst hv
    dsimp only
    split <;> rfl
  clear_value c1 c1'
  subst hstores
  have hrecords : x'.recording = x.recording := rfl
  rw [hrecords]
  split
  · rfl
  · rfl

end

/-- The cell after one of its landings has ended (R178, R179). -/
def Cell.endLanding (l : Landing) (status : Nat) (c : Cell) : Cell :=
  let c1 := ((c.entryFilled l.slot l.region l.entry).landed l.win).takeData (l.origin.key l.tag)
  { c1 with landings := c1.landings.filter fun x => x.id != l.id,
            flags := if status = 5 then { c1.flags with fault := true } else c1.flags }

/-- The cell with the data of a landing stored, which has completed with a status (R179). -/
def Cell.completeLanding (l : Landing) (data : List Byte) (bad : Nat → Bool) (status : Nat) (c : Cell) : Cell :=
  let c1 := c.writeEntry l.slot l.region l.entry data bad fun _ => false
  { c1 with landings := c1.landings.map fun x => if x.id = l.id then { x with ready := some status } else x }

section

variable {c : Cell} {l : Landing} {status : Nat}

theorem Cell.endLanding_landings (hone : c.landings = [l]) : (c.endLanding l status).landings = [] := by
  change c.landings.filter (fun x => x.id != l.id) = []
  simp [hone]

theorem Cell.endLanding_landed : ((c.endLanding l status).win l.win).landed = satInc (c.win l.win).landed := by
  change (((c.entryFilled l.slot l.region l.entry).landed l.win).win l.win).landed = _
  rw [Cell.landed, Cell.win_modWin, if_pos rfl]
  rfl

theorem Cell.endLanding_scratch : (c.endLanding l status).scratch = c.scratch := by
  simp only [Cell.endLanding, Cell.takeData, Cell.landed, Cell.modWin, Cell.entryFilled, Cell.modRegion, Cell.modSlot]

theorem Cell.endLanding_wordPoison : (c.endLanding l status).wordPoison = c.wordPoison := by
  simp only [Cell.endLanding, Cell.takeData, Cell.landed, Cell.modWin, Cell.entryFilled, Cell.modRegion, Cell.modSlot]

theorem Cell.completeLanding_landings {data : List Byte} {bad : Nat → Bool} (hone : c.landings = [l]) :
    (c.completeLanding l data bad status).landings = [{ l with ready := some status }] := by
  simp [Cell.completeLanding, hone]

theorem Cell.completeLanding_win (data : List Byte) (bad : Nat → Bool) (w : Nat) : (c.completeLanding l data bad status).win w = c.win w :=
  Cell.writeEntry_win c l.slot l.region l.entry data bad (fun _ => false) w

end

section

variable {s t : State} {p h n : Nat} {l : Landing}

/-- The only landing of the cell at a position has ended: its window counts it, and its sender has the answer (R173, R178, R179). -/
structure State.LandingEnds (p : Nat) (l : Landing) (status : Nat) (s t : State) : Prop where
  frame : ∃ cells routers, t = { s with cells := cells, routers := routers, out := .reply l.origin l.tag status 0 0 :: s.out }
  others : ∀ q, q ≠ p → t.cell q = s.cell q
  landings : (t.cell p).landings = []
  landed : ((t.cell p).win l.win).landed = satInc ((s.cell p).win l.win).landed
  fault : status = 5 → (t.cell p).flags.fault = true
  scratch : (t.cell p).scratch = (s.cell p).scratch
  wordPoison : (t.cell p).wordPoison = (s.cell p).wordPoison

/-- One landing alone, which has completed, ends (R179). -/
theorem State.settleLandings_ends {status : Nat} (hp : s.posOf h n = p) (hone : (s.cell p).landings = [l]) (hready : l.ready = some status) :
    s.LandingEnds p l status (s.settleLandings h n p) := by
  have hsettled : s.settleLandings h n p = (s.modCell p (Cell.endLanding l status)).reply h n l.origin l.tag status 0 0 := by
    simp [State.settleLandings, hone, hready]
    rfl
  obtain ⟨⟨_, _, hframe⟩, hothers, _, hown⟩ := State.reply_answers (s := s.modCell p (Cell.endLanding l status)) hp l.origin l.tag status 0 0
  rw [State.cell_modCell, if_pos rfl] at hown
  rw [hsettled]
  refine ⟨⟨_, _, hframe⟩, fun q hq => (hothers q hq).trans ?_, ?_, ?_, fun hstatus => ?_, ?_, ?_⟩
  · rw [State.cell_modCell, if_neg hq]
  · rw [hown, Cell.sending_landings, Cell.endLanding_landings hone]
  · rw [hown, Cell.sending_win, Cell.endLanding_landed]
  · rw [hown, Cell.sending_flags, Cell.endLanding, if_pos hstatus]
  · rw [hown, Cell.sending_scratch, Cell.endLanding_scratch]
  · rw [hown, Cell.sending_wordPoison, Cell.endLanding_wordPoison]

/-- Nothing ends while no landing has completed (R179). -/
theorem State.settleLandings_waits (hwaits : ∀ l ∈ (s.cell p).landings, l.ready = none) : s.settleLandings h n p = s := by
  unfold State.settleLandings
  refine List.foldlRecOn (motive := fun v : State × List (Nat × Nat) => v.1 = s) _ _ rfl fun v hv l hl => ?_
  rw [hwaits l hl]
  dsimp only
  split
  · exact hv
  · exact hv

/-- The only landing of a cell completes, and so ends, with its data in its entry (R178, R179). -/
theorem State.landing_completes {data : List Byte} {bad : Nat → Bool} {status : Nat} (hp : s.posOf h n = p)
    (hone : (s.cell p).landings = [l]) : ∃ t, (s.modCell p (Cell.completeLanding l data bad status)).settleLandings h n p = t ∧
      t = { s with cells := t.cells, routers := t.routers, out := t.out } ∧ (∀ q, q ≠ p → t.cell q = s.cell q) ∧
      t.out = .reply l.origin l.tag status 0 0 :: s.out ∧ (t.cell p).landings = [] ∧
      ((t.cell p).win l.win).landed = satInc ((s.cell p).win l.win).landed ∧ (status = 5 → (t.cell p).flags.fault = true) ∧
      (t.cell p).scratch = ((s.cell p).writeEntry l.slot l.region l.entry data bad fun _ => false).scratch ∧
      (t.cell p).wordPoison = ((s.cell p).writeEntry l.slot l.region l.entry data bad fun _ => false).wordPoison := by
  have hcell : (s.modCell p (Cell.completeLanding l data bad status)).cell p = (s.cell p).completeLanding l data bad status := by
    rw [State.cell_modCell, if_pos rfl]
  obtain ⟨⟨_, _, hframe⟩, hothers, hlandings, hlanded, hfault, hscratch, hpoison⟩ :=
    State.settleLandings_ends (s := s.modCell p (Cell.completeLanding l data bad status)) (l := { l with ready := some status }) hp
      (by rw [hcell, Cell.completeLanding_landings hone]) rfl
  rw [hcell] at hlanded hscratch hpoison
  refine ⟨_, rfl, ?_, fun q hq => (hothers q hq).trans ?_, ?_, hlandings, hlanded.trans ?_, hfault, hscratch, hpoison⟩
  · rw [hframe]
    rfl
  · rw [State.cell_modCell, if_neg hq]
  · exact congrArg State.out hframe
  · rw [Cell.completeLanding_win]

end

/-! ### Landings that end by an event of their own -/

section

variable {s u : State} {cell : Pos} {i h n : Nat} {l : Landing} {data bytes : List Byte} {bad : List Nat} {ok : Bool}

/-- The only landing of a cell is found by its number. -/
theorem State.landing_found {p : Nat} (hone : (s.cell p).landings = [l]) (hid : l.id = i) :
    ((s.cell p).landings.find? fun l => l.id == i) = some l := by
  simp [hone, hid]

theorem execMsgLandingDone_lands (hserves : s.engineOf cell.idx = some (h, n))
    (hfind : ((s.cell cell.idx).landings.find? fun l => l.id == i) = some l) (hready : l.ready = none)
    (haway : ∀ k, l.stack = some k → (s.stack k).resetting = false) (hfresh : s.now ≤ l.stamp + 32000)
    (hdata : s.landingData h cell.idx l data = (bytes, bad, u)) (hlen : bytes.length = msgLen l.desc) :
    exec (.msgLandingDone cell i data ok) s = .next ((u.modCell cell.idx (Cell.completeLanding l bytes
      (fun i => !(ok && (crc32c bytes).toNat == msgCrc l.desc) || bad.contains i)
      (if (ok && (crc32c bytes).toNat == msgCrc l.desc) = true then 0 else 5))).settleLandings h n cell.idx) := by
  have hflies : decide (l.stamp + flightNs < s.now) = false := decide_eq_false (Nat.not_lt.mpr hfresh)
  change execMsgLandingDone cell i data ok s = _
  simp only [execMsgLandingDone, hserves, hfind, hdata]
  rw [if_neg]
  · rfl
  · cases hstack : l.stack with
    | none => simp [hready, hflies, hlen]
    | some k => simp [hready, hflies, hlen, haway k hstack]

/-- The flits of a landing that have come to the message engine. -/
def Cell.landingFlits (c : Cell) (l : Landing) : List Flit := c.engineIn.filter fun f => f.key == some (l.origin.key l.tag)

theorem execMsgLandingTimeout_fills (hserves : s.engineOf cell.idx = some (h, n))
    (hfind : ((s.cell cell.idx).landings.find? fun l => l.id == i) = some l) (hready : l.ready = none) (hlate : l.stamp + 32000 ≤ s.now) :
    exec (.msgLandingTimeout cell i) s = .next ((s.modCell cell.idx (Cell.completeLanding l
      (((s.cell cell.idx).landingFlits l).flatMap fun f => bytesAt f.data 0 128)
      (fun i => 2 * ((s.cell cell.idx).landingFlits l).length ≤ i || (((s.cell cell.idx).landingFlits l).getD (i / 2) {}).poison)
      4)).settleLandings h n cell.idx) := by
  have hover : ¬ s.now < l.stamp + flightNs := Nat.not_lt.mpr hlate
  change execMsgLandingTimeout cell i s = _
  simp only [execMsgLandingTimeout, hserves, hfind]
  rw [if_neg (by simp [hready, hover])]
  rfl

/-- A landing does not end before its 32 µs are over (R179). -/
theorem execMsgLandingTimeout_early (hfind : ((s.cell cell.idx).landings.find? fun l => l.id == i) = some l) (hearly : s.now < l.stamp + 32000) :
    exec (.msgLandingTimeout cell i) s = .next s := by
  have hbefore : s.now < l.stamp + flightNs := hearly
  change execMsgLandingTimeout cell i s = _
  cases hserves : s.engineOf cell.idx with
  | none => simp only [execMsgLandingTimeout, hserves]; rfl
  | some e =>
    simp only [execMsgLandingTimeout, hserves, hfind]
    exact if_pos (by simp [hbefore])

end

/-! ### Headers -/

section

variable {s t : State} {h n p : Nat} {cell : Pos} {m : Msg}

/-- The message engine of the cell at a position takes flits in, and the record of a rim origin's send may start in the hob. -/
structure State.TakesIn (h p : Nat) (s t : State) : Prop where
  frame : ∃ cells hobs, t = { s with cells := cells, hobs := hobs }
  otherHobs : ∀ k, k ≠ h → t.hob k = s.hob k
  ownHob : ∃ mcast, t.hob h = { s.hob h with mcast := mcast }
  otherCells : ∀ q, q ≠ p → t.cell q = s.cell q
  ownCell : ∃ queue, t.cell p = (s.cell p).queued queue

namespace State.TakesIn

theorem refl : s.TakesIn h p s := ⟨⟨_, _, rfl⟩, fun _ _ => rfl, ⟨_, rfl⟩, fun _ _ => rfl, ⟨_, rfl⟩⟩

theorem mcast (f : List Send → List Send) : s.TakesIn h p (s.modHob h fun z => { z with mcast := f z.mcast }) := by
  refine ⟨⟨_, _, rfl⟩, fun k hk => ?_, ⟨f (s.hob h).mcast, ?_⟩, fun _ _ => rfl, ⟨_, rfl⟩⟩
  · rw [State.hob_modHob, if_neg hk]
  · rw [State.hob_modHob, if_pos rfl]

theorem take (a : s.TakesIn h p t) (f : Cell → List Flit) : s.TakesIn h p (t.modCell p fun c => { c with engineIn := f c }) := by
  obtain ⟨⟨_, _, hframe⟩, hotherHobs, hownHob, hotherCells, ⟨_, hownCell⟩⟩ := a
  refine ⟨⟨_, _, by rw [hframe]; rfl⟩, hotherHobs, hownHob, fun q hq => ?_, ⟨f (t.cell p), ?_⟩⟩
  · rw [State.cell_modCell, if_neg hq, hotherCells q hq]
  · rw [State.cell_modCell, if_pos rfl, hownCell]
    rfl

theorem posOf (a : s.TakesIn h p t) (n : Nat) : t.posOf h n = s.posOf h n := by
  obtain ⟨_, _, hframe⟩ := a.frame
  obtain ⟨_, hown⟩ := a.ownHob
  exact State.posOf_of_place (by rw [hown]; exact ⟨rfl, rfl⟩) (by rw [hframe]) n

end State.TakesIn

theorem State.heldSend_takes (s : State) (h p : Nat) (m : Msg) : s.TakesIn h p (s.heldSend h m) := by
  unfold State.heldSend
  extract_lets own
  split
  · next hholds =>
    cases horigin : m.origin with
    | cell n slot => simp [own, horigin] at hholds
    | lanper port => simp [own, horigin] at hholds
    | hostPort _ | hearth => exact .mcast fun l => l ++ [rimSend s h m.desc [] m.stamp none]
  · exact .refl

/-- The state in which the header of a message is judged: it has left the queue of the message engine (R178). -/
def State.headerTaken (s : State) (h p : Nat) (m : Msg) : State := (s.heldSend h m).modCell p fun c => c.takeHeader m

/-- The state without any flit of a message that has ended at its header. -/
def State.headerDropped (s : State) (h p : Nat) (m : Msg) : State :=
  (s.headerTaken h p m).modCell p fun c => c.takeData (m.origin.key (msgTag m.desc))

theorem State.headerTaken_takes (s : State) (h p : Nat) (m : Msg) : s.TakesIn h p (s.headerTaken h p m) :=
  (s.heldSend_takes h p m).take fun c => c.engineIn.eraseP fun f => bytesAt f.data 0 64 == m.desc

theorem State.headerDropped_takes (s : State) (h p : Nat) (m : Msg) : s.TakesIn h p (s.headerDropped h p m) :=
  (s.headerTaken_takes h p m).take fun c => c.engineIn.filter fun f => f.key != some (m.origin.key (msgTag m.desc))

theorem State.unserve_eq (s : State) (m : Msg) : ∃ lnps, s.unserve m = { s with lnps := lnps } := by
  unfold State.unserve
  split
  · exact ⟨_, rfl⟩
  · exact ⟨_, rfl⟩

/-- A header that fails a check is answered, and its window counts an answer other than 0 (R173, R178). -/
theorem State.answer_counts (hp : s.posOf h n = p) (w status : Nat) : ∃ st gen cells routers,
    s.answer h n p w m status =
      { s with cells := cells, routers := routers, out := .reply m.origin (msgTag m.desc) status st gen :: s.out } ∧
    (∀ q, q ≠ p → (s.answer h n p w m status).cell q = s.cell q) ∧
    (((s.answer h n p w m status).cell p).win w).refused =
      (if status = 0 then ((s.cell p).win w).refused else satInc ((s.cell p).win w).refused) := by
  unfold State.answer
  extract_lets x s1
  have hplace : s1.posOf h n = p := by
    simp only [s1]
    split
    · exact hp
    · exact hp
  obtain ⟨⟨cells, routers, hframe⟩, hothers, ⟨_, hown⟩⟩ := State.reply_answers hplace m.origin (msgTag m.desc) status
    (if status = 2 then x.state.toNat else 0) (if status = 2 then x.gen.toNat else 0)
  rw [hown, Cell.sending_win]
  refine ⟨if status = 2 then x.state.toNat else 0, if status = 2 then x.gen.toNat else 0, cells, routers, hframe.trans ?_,
    fun q hq => (hothers q hq).trans ?_, ?_⟩
  · simp only [s1]
    split
    · rfl
    · rfl
  · simp only [s1]
    split
    · rfl
    · rw [State.cell_modCell, if_neg hq]
  · simp only [s1]
    split
    · rfl
    · rw [State.cell_modCell, if_pos rfl, Cell.refuse, Cell.win_modWin, if_pos rfl]

/-- The landing that an accepted header starts at a position (R173, R179). -/
def State.landingOf (s : State) (p : Nat) (m : Msg) : Landing :=
  let c := s.cell p
  let x := c.win (msgWin m.desc)
  let note := msgKind m.desc = 1
  { id := s.hearth.txnGen, win := msgWin m.desc, slot := x.slot.toNat, region := x.region.toNat, entry := (c.reserve x.slot.toNat x.region.toNat).1,
    stamp := m.stamp, tag := msgTag m.desc, origin := m.origin, note := note, desc := m.desc, stack := (msgStack m.desc).map relStack,
    ready := if note then some 0 else none }

/-- A cell with the tail entry of the window's region reserved for a message: a NOTE lands with its header (R178). -/
def Cell.takeEntry (m : Msg) (c : Cell) : Cell :=
  let x := c.win (msgWin m.desc)
  let r := c.reserve x.slot.toNat x.region.toNat
  if msgKind m.desc = 1 then r.2.writeEntry x.slot.toNat x.region.toNat r.1 m.desc (fun _ => false) fun _ => false else r.2

theorem Cell.takeEntry_queued (m : Msg) (queue : List Flit) (c : Cell) : (c.queued queue).takeEntry m = (c.takeEntry m).queued queue := by
  unfold Cell.takeEntry
  simp only [Cell.queued_win, Cell.queued_reserve, Cell.writeEntry_queued]
  split
  · rfl
  · rfl

theorem Cell.takeEntry_landings (m : Msg) (c : Cell) : (c.takeEntry m).landings = c.landings := by
  unfold Cell.takeEntry
  dsimp only
  split
  · exact Cell.writeEntry_landings ..
  · rfl

theorem Cell.takeEntry_win (m : Msg) (c : Cell) (w : Nat) : (c.takeEntry m).win w = c.win w := by
  unfold Cell.takeEntry
  dsimp only
  split
  · exact Cell.writeEntry_win ..
  · rfl

/-- The state in which an accepted message has its entry and its landing. -/
def State.accepted (s : State) (p : Nat) (m : Msg) : State :=
  { s.setCell p { (s.cell p).takeEntry m with landings := ((s.cell p).takeEntry m).landings ++ [s.landingOf p m] } with
    hearth := { s.hearth with txnGen := s.hearth.txnGen + 1 } }

/-- A message is accepted at a position: its header has been taken, and its entry and its landing are there (R178, R179). -/
structure State.Accepts (h p : Nat) (m : Msg) (s t : State) : Prop where
  frame : ∃ cells hobs hearth, t = { s with cells := cells, hobs := hobs, hearth := hearth }
  otherHobs : ∀ k, k ≠ h → t.hob k = s.hob k
  ownHob : ∃ mcast, t.hob h = { s.hob h with mcast := mcast }
  otherCells : ∀ q, q ≠ p → t.cell q = s.cell q
  ownCell : ∃ queue, t.cell p = Cell.queued queue { (s.cell p).takeEntry m with landings := (s.cell p).landings ++ [s.landingOf p m] }
  place : ∀ n, t.posOf h n = s.posOf h n

theorem State.TakesIn.landingOf (a : s.TakesIn h p t) (m : Msg) : t.landingOf p m = s.landingOf p m := by
  obtain ⟨_, _, hframe⟩ := a.frame
  obtain ⟨_, hownCell⟩ := a.ownCell
  unfold State.landingOf
  rw [hownCell, hframe]
  rfl

theorem State.accepted_accepts (s : State) (h p : Nat) (m : Msg) : s.Accepts h p m ((s.headerTaken h p m).accepted p m) := by
  have htakes := s.headerTaken_takes h p m
  have hlanding := htakes.landingOf m
  have hplace := htakes.posOf
  obtain ⟨⟨_, _, hframe⟩, hotherHobs, hownHob, hotherCells, ⟨queue, hownCell⟩⟩ := htakes
  generalize s.headerTaken h p m = u at *
  refine ⟨⟨_, _, _, by rw [State.accepted, hframe]; rfl⟩, hotherHobs, hownHob, fun q hq => ?_, ⟨queue, ?_⟩, hplace⟩
  · exact ((State.cell_setCell ..).trans (if_neg hq)).trans (hotherCells q hq)
  · refine ((State.cell_setCell ..).trans (if_pos rfl)).trans ?_
    rw [hlanding, hownCell, Cell.takeEntry_landings, Cell.takeEntry_queued]
    rfl

section

variable (hserves : s.engineOf cell.idx = some (h, n))
include hserves

theorem execMsgHeaderArrival_stale (hstale : m.stamp + 32000 < s.now) :
    exec (.msgHeaderArrival cell m) s = .next ((s.headerDropped h cell.idx m).unserve m) := by
  change execMsgHeaderArrival cell m s = _
  simp only [execMsgHeaderArrival, hserves]
  exact if_pos hstale

variable (hfresh : s.now ≤ m.stamp + 32000) (hdue : s.msgDelayed h n m = false)
include hfresh hdue

theorem execMsgHeaderArrival_stray (htag : s.tagOk m h = false) : exec (.msgHeaderArrival cell m) s =
    .next (((s.headerDropped h cell.idx m).unserve m).modHob h fun z => { z with tagDrops := z.tagDrops + 1 }) := by
  have hflies : ¬ m.stamp + flightNs < s.now := Nat.not_lt.mpr hfresh
  change execMsgHeaderArrival cell m s = _
  simp only [execMsgHeaderArrival, hserves]
  rw [if_neg hflies, if_neg (by simp [hdue]), if_pos (by simp [htag])]
  rfl

variable (htag : s.tagOk m h = true)
include htag

theorem execMsgHeaderArrival_refused {status : Nat} (hstatus : (s.headerTaken h cell.idx m).headerStatus h n cell.idx m = some status) :
    exec (.msgHeaderArrival cell m) s = .next ((s.headerDropped h cell.idx m).answer h n cell.idx (msgWin m.desc) m status) := by
  have hflies : ¬ m.stamp + flightNs < s.now := Nat.not_lt.mpr hfresh
  change execMsgHeaderArrival cell m s = _
  unfold State.headerTaken at hstatus
  simp only [execMsgHeaderArrival, hserves]
  rw [if_neg hflies, if_neg (by simp [hdue]), if_neg (by simp [htag]), hstatus]
  rfl

theorem execMsgHeaderArrival_accepted (hstatus : (s.headerTaken h cell.idx m).headerStatus h n cell.idx m = none)
    (hroom : ∀ a, msgStack m.desc = some a → s.sharedUsed (relStack a) < 512) :
    exec (.msgHeaderArrival cell m) s = .next (((s.headerTaken h cell.idx m).accepted cell.idx m).settleLandings h n cell.idx) := by
  have hflies : ¬ m.stamp + flightNs < s.now := Nat.not_lt.mpr hfresh
  change execMsgHeaderArrival cell m s = _
  unfold State.headerTaken at hstatus
  simp only [execMsgHeaderArrival, hserves]
  rw [if_neg hflies, if_neg (by simp [hdue]), if_neg (by simp [htag]), hstatus]
  dsimp only
  rw [if_neg]
  · rfl
  · cases hstack : msgStack m.desc with
    | none => simp
    | some a => simp [hroom a hstack]

end

end

/-- Settles O23: each header is followed to its discard, its answer or its landing, and the only landing of a cell to its end. -/
theorem messageHeadersAreAnswered : Obligations.MessageHeadersAreAnswered := by
  unfold Obligations.MessageHeadersAreAnswered
  refine ⟨?stale, ?stray, ?refused, ?note, ?send, ?done, ?timeout, ?early⟩
  case stale =>
    intro cell m s h n hserves hstale
    refine ⟨_, execMsgHeaderArrival_stale hserves hstale, ?_⟩
    obtain ⟨⟨_, _, hframe⟩, hotherHobs, ⟨_, hownHob⟩, hotherCells, ⟨_, hownCell⟩⟩ := s.headerDropped_takes h cell.idx m
    obtain ⟨lnps, hunserved⟩ := (s.headerDropped h cell.idx m).unserve_eq m
    rw [hunserved]
    generalize s.headerDropped h cell.idx m = u at *
    refine ⟨?_, hotherHobs, ?_, hotherCells, ?_⟩
    · rw [hframe]
    · change u.hob h = { s.hob h with mcast := (u.hob h).mcast }
      rw [hownHob]
    · change u.cell cell.idx = { s.cell cell.idx with engineIn := (u.cell cell.idx).engineIn }
      rw [hownCell]
      rfl
  case stray =>
    intro cell m s h n hserves hfresh hdue htag
    refine ⟨_, execMsgHeaderArrival_stray hserves hfresh hdue htag, ?_⟩
    obtain ⟨⟨_, _, hframe⟩, hotherHobs, ⟨_, hownHob⟩, hotherCells, ⟨_, hownCell⟩⟩ := s.headerDropped_takes h cell.idx m
    obtain ⟨lnps, hunserved⟩ := (s.headerDropped h cell.idx m).unserve_eq m
    rw [hunserved]
    generalize s.headerDropped h cell.idx m = u at *
    refine ⟨?_, hotherCells, fun k hk => ?_, ?_, ?_⟩
    · rw [hframe]
      rfl
    · rw [State.hob_modHob, if_neg hk]
      exact hotherHobs k hk
    · change u.cell cell.idx = { s.cell cell.idx with engineIn := (u.cell cell.idx).engineIn }
      rw [hownCell]
      rfl
    · rw [State.hob_modHob, if_pos rfl]
      change { u.hob h with tagDrops := (u.hob h).tagDrops + 1 } =
        { s.hob h with tagDrops := (s.hob h).tagDrops + 1, mcast := (u.hob h).mcast }
      rw [hownHob]
  case refused =>
    intro cell m s h n status hserves hp hfresh hdue htag hstatus
    have htakes := s.headerDropped_takes h cell.idx m
    have hplace : (s.headerDropped h cell.idx m).posOf h n = cell.idx := (htakes.posOf n).trans hp
    obtain ⟨⟨_, _, hframe⟩, hotherHobs, ⟨_, hownHob⟩, hotherCells, ⟨_, hownCell⟩⟩ := htakes
    obtain ⟨st, gen, _, _, hanswer, hothers, hcount⟩ := State.answer_counts (m := m) hplace (msgWin m.desc) status
    refine ⟨_, st, gen, execMsgHeaderArrival_refused hserves hfresh hdue htag hstatus, ?_⟩
    generalize (s.headerDropped h cell.idx m).answer h n cell.idx (msgWin m.desc) m status = t at *
    generalize s.headerDropped h cell.idx m = u at *
    rw [hownCell, Cell.queued_win] at hcount
    have hhob : ∀ k, t.hob k = u.hob k := State.hob_of_hobs (by rw [hanswer])
    refine ⟨by rw [hanswer, hframe], fun k hk => (hhob k).trans (hotherHobs k hk), ?_,
      fun q hq => (hothers q hq).trans (hotherCells q hq), ?_, hcount⟩
    · rw [hhob, hownHob]
    · rw [hanswer, hframe]
  case note =>
    intro cell m s h n hserves hp hfresh hdue htag hstatus hnote hstack hnone
    refine ⟨_, execMsgHeaderArrival_accepted hserves hfresh hdue htag hstatus (by simp [hstack]), ?_⟩
    obtain ⟨⟨_, _, _, hframe⟩, hotherHobs, ⟨_, hownHob⟩, hotherCells, ⟨queue, hownCell⟩, hplace⟩ := s.accepted_accepts h cell.idx m
    generalize (s.headerTaken h cell.idx m).accepted cell.idx m = u at *
    obtain ⟨⟨_, _, hends⟩, hothers, hlandings, hlanded, -, hscratch, hpoison⟩ :=
      State.settleLandings_ends (s := u) (l := s.landingOf cell.idx m) (status := 0) ((hplace n).trans hp)
        (by rw [hownCell, hnone]; rfl) (if_pos hnote)
    generalize u.settleLandings h n cell.idx = t at *
    have hhob : ∀ k, t.hob k = u.hob k := State.hob_of_hobs (by rw [hends])
    rw [hownCell] at hlanded hscratch hpoison
    refine ⟨by rw [hends, hframe], fun k hk => (hhob k).trans (hotherHobs k hk), by rw [hhob, hownHob],
      fun q hq => (hothers q hq).trans (hotherCells q hq), by rw [hends, hframe]; rfl, hlandings,
      hlanded.trans ?_, hscratch.trans ?_, hpoison.trans ?_⟩
    · change satInc (Cell.win (Cell.takeEntry m _) _).landed = _
      rw [Cell.takeEntry_win]
      rfl
    · change (Cell.takeEntry m _).scratch = _
      rw [Cell.takeEntry, if_pos hnote]
    · change (Cell.takeEntry m _).wordPoison = _
      rw [Cell.takeEntry, if_pos hnote]
  case send =>
    intro cell m s h n hserves hfresh hdue htag hstatus hsend hroom hwaits
    obtain ⟨⟨_, _, _, hframe⟩, hotherHobs, ⟨_, hownHob⟩, hotherCells, ⟨queue, hownCell⟩, -⟩ := s.accepted_accepts h cell.idx m
    have haccepted := execMsgHeaderArrival_accepted hserves hfresh hdue htag hstatus hroom
    generalize (s.headerTaken h cell.idx m).accepted cell.idx m = u at *
    have hready : (s.landingOf cell.idx m).ready = none := if_neg hsend
    have hlandings : (u.cell cell.idx).landings = (s.cell cell.idx).landings ++ [s.landingOf cell.idx m] := by
      rw [hownCell]
      rfl
    rw [State.settleLandings_waits (by simpa [hlandings, or_imp, forall_and, hready] using hwaits)] at haccepted
    refine ⟨u, s.landingOf cell.idx m, haccepted, by rw [hframe], hotherHobs, by rw [hownHob], hotherCells, hlandings, rfl, rfl, rfl, rfl, hready,
      rfl, rfl, rfl, ?_⟩
    rw [hownCell]
    change ((s.cell cell.idx).takeEntry m).wins = _
    rw [Cell.takeEntry, if_neg hsend]
    rfl
  case done =>
    intro cell i data ok s u h n l bytes bad hserves hp hone hid hready haway hfresh hdata hone' hp' hlen
    obtain ⟨t, hsettled, hframe, hothers, hout, hlandings, hlanded, hfault, hscratch, hpoison⟩ :=
      State.landing_completes (data := bytes) (bad := fun i => !(ok && (crc32c bytes).toNat == msgCrc l.desc) || bad.contains i)
        (status := if (ok && (crc32c bytes).toNat == msgCrc l.desc) = true then 0 else 5) hp' hone'
    refine ⟨t, ?_, hframe, hothers, hout, hlandings, hlanded, fun hbad => hfault (if_neg (by simp [hbad])), hscratch, hpoison⟩
    rw [execMsgLandingDone_lands hserves (State.landing_found hone hid) hready haway hfresh hdata hlen, hsettled]
  case timeout =>
    intro cell i s h n l hserves hp hone hid hready hdue
    refine ⟨_, execMsgLandingTimeout_fills hserves (State.landing_found hone hid) hready hdue, ?_⟩
    obtain ⟨t, hsettled, hframe, hothers, hout, hlandings, hlanded, -, hscratch, hpoison⟩ :=
      State.landing_completes (data := ((s.cell cell.idx).landingFlits l).flatMap fun f => bytesAt f.data 0 128) (bad := fun i =>
        2 * ((s.cell cell.idx).landingFlits l).length ≤ i || (((s.cell cell.idx).landingFlits l).getD (i / 2) {}).poison) (status := 4) hp hone
    rw [hsettled]
    exact ⟨hframe, hothers, hout, hlandings, hlanded, hscratch, hpoison⟩
  case early =>
    intro cell i s l hfind hearly
    exact execMsgLandingTimeout_early hfind hearly

end Sys2Proof.Machine
end

section
/-! What each operation and each command leaves of stack memory, the SPDM sessions, the firmware slots and the PMBus registers (R201, R206,
R372, R373, R380, R383, R384, R388). -/

namespace Sys2Proof.Machine

open Sys2Proof

/-- The SPDM sessions, the firmware slots and the PMBus registers of `t` are those of `s`. -/
@[simp] abbrev State.SameServices (s t : State) : Prop := t.sessions = s.sessions ∧ t.fw = s.fw ∧ t.pmbus = s.pmbus

theorem State.SameServices.trans {s t u : State} (h : s.SameServices t) (g : t.SameServices u) : s.SameServices u :=
  ⟨g.1.trans h.1, g.2.1.trans h.2.1, g.2.2.trans h.2.2⟩

/-- A walk that carries a state beside other data leaves what each of its steps leaves. -/
theorem foldl_sameServices {α σ : Type} (p : σ → State) (f : σ → α → σ) (hf : ∀ (x : σ) (i : α), (p x).SameServices (p (f x i)))
    (l : List α) (a : σ) : (p a).SameServices (p (l.foldl f a)) :=
  ⟨foldl_proj (fun x => (p x).sessions) f (fun x i => (hf x i).1) l a, foldl_proj (fun x => (p x).fw) f (fun x i => (hf x i).2.1) l a,
    foldl_proj (fun x => (p x).pmbus) f (fun x i => (hf x i).2.2) l a⟩

@[simp] theorem State.foldl_services {α : Type} (s : State) (l : List α) (f : State → α → State)
    (hf : ∀ (x : State) (i : α), x.SameServices (f x i)) : s.SameServices (l.foldl f s) := foldl_sameServices id f hf l s

theorem State.each_services {α : Type} (s : State) (l : List α) (f : State → α → State)
    (hf : ∀ (x : State) (i : α), x.SameServices (f x i)) : s.SameServices (s.each l f) := s.foldl_services l f hf

@[simp] theorem State.priv_services (s : State) (who : Who) (allowed : List Role) (code hob : Nat) (args : List Nat) (refuse : Nat) (act : State → State) (hact : ∀ x : State, x.SameServices (act x)) :
    s.SameServices (s.priv who allowed code hob args refuse act) := by
  simp [State.priv]
  repeat' split
  all_goals simp_all

@[simp] theorem State.endPeriod_services (s : State) (h : Nat) : s.SameServices (s.endPeriod h) := by
  simp [State.endPeriod]

@[simp] theorem State.stallTick_services (s : State) (h : Nat) : s.SameServices (s.stallTick h) := by
  simp [State.stallTick]

@[simp] theorem State.meter_services (s : State) (p : Nat) (rs : List GranRead) : s.SameServices (s.meter p rs) := by
  simp [State.meter]

@[simp] theorem State.afterIssue_services (s : State) (h n p cyc : Nat) (x : Issue) : s.SameServices (s.afterIssue h n p cyc x) := by
  unfold State.afterIssue
  dsimp only
  repeat' split
  all_goals simp

@[simp] theorem State.faultOf_services (s : State) (h n f : Nat) : s.SameServices (s.faultOf h n f) := by
  simp [State.faultOf]

@[simp] theorem State.failStep_services (s : State) (h f : Nat) (e : End) : s.SameServices (s.failStep h f e) := ⟨rfl, rfl, rfl⟩

@[simp] theorem State.schedViolation_services (s : State) (h n period f : Nat) : s.SameServices (s.schedViolation h n period f) := by
  simp [State.schedViolation]

@[simp] theorem State.wireHistory_services (s : State) (x y : Nat) (out : Dir) (wires : List Nat) :
    s.SameServices (s.wireHistory x y out wires) := ⟨rfl, rfl, rfl⟩

@[simp] theorem State.parityFault_services (s : State) (h n x y : Nat) (out : Dir) (wires : List Nat) :
    s.SameServices (s.parityFault h n x y out wires) := ⟨rfl, rfl, rfl⟩

@[simp] theorem State.edgeFlit_services (s : State) (h k : Nat) (f : Flit) : s.SameServices (s.edgeFlit h k f) := by
  simp [State.edgeFlit]
  split <;> simp

@[simp] theorem State.sendStatic_services (s : State) (h n x y cyc : Nat) (out : Dir) (f : Flit) (flipped : List Nat) :
    s.SameServices (s.sendStatic h n x y cyc out f flipped) := by
  unfold State.sendStatic
  dsimp only
  repeat' split
  all_goals simp

@[simp] theorem State.refill_services (s : State) (h n : Nat) : s.SameServices (s.refill h n) := by
  simp [State.refill]

@[simp] theorem State.crossRim_services (s : State) (x y : Nat) : s.SameServices (s.crossRim x y) := by
  unfold State.crossRim
  refine State.foldl_services _ _ _ fun x i => ?_
  split
  · exact ⟨rfl, rfl, rfl⟩
  · split <;> exact ⟨rfl, rfl, rfl⟩

@[simp] theorem State.enterEdge_services (s : State) (x y : Nat) : s.SameServices (s.enterEdge x y) := by
  simp [State.enterEdge]

@[simp] theorem State.inject_services (s : State) (h n : Nat) (fs : List DynFlit) : s.SameServices (s.inject h n fs) := by
  simp [State.inject]

@[simp] theorem State.replyOut_services (s : State) (key status st gen : Nat) : s.SameServices (s.replyOut key status st gen) := by
  simp [State.replyOut]
  repeat' split
  all_goals simp_all

@[simp] theorem State.deliver_services (s : State) (h n : Nat) (f : Flit) : s.SameServices (s.deliver h n f) := by
  unfold State.deliver
  split <;> simp

@[simp] theorem State.sendDyn_services (s : State) (p x y : Nat) (out : Dir) (f : DynFlit) (flipped : List Nat) :
    s.SameServices (s.sendDyn p x y out f flipped) := by
  unfold State.sendDyn
  dsimp only
  repeat' split
  all_goals simp

@[simp] theorem State.freeSlot_services (s : State) (p : Nat) (out : Dir) (vc : Nat) (flipped : List Nat) :
    s.SameServices (s.freeSlot p out vc flipped) := by
  unfold State.freeSlot
  dsimp only
  repeat' split
  all_goals simp

@[simp] theorem State.reply_services (s : State) (h n : Nat) (o : Origin) (tag status st gen : Nat) :
    s.SameServices (s.reply h n o tag status st gen) := by
  simp [State.reply]

@[simp] theorem State.fromRimTo_services (s : State) (x y client : Nat) (vc : Nat) (fs : List Flit) :
    s.SameServices (s.fromRimTo x y client vc fs) := by
  simp [State.fromRimTo]

@[simp] theorem State.fromRim_services (s : State) (h n client : Nat) (vc : Nat) (fs : List Flit) :
    s.SameServices (s.fromRim h n client vc fs) := by
  simp [State.fromRim]

@[simp] theorem State.dropLandings_services (s : State) (h n : Nat) : s.SameServices (s.dropLandings h n) := by
  simp [State.dropLandings]

@[simp] theorem State.sendRequest_services (s : State) (t : Txn) : s.SameServices (s.sendRequest t) := by
  simp [State.sendRequest]

@[simp] theorem State.addTxn_services (s : State) (t : Txn) : s.SameServices (s.addTxn t) := by
  simp [State.addTxn]

@[simp] theorem State.modTxn_services (s : State) (id : Nat) (f : Txn → Txn) : s.SameServices (s.modTxn id f) := ⟨rfl, rfl, rfl⟩

@[simp] theorem State.dropTxn_services (s : State) (id : Nat) : s.SameServices (s.dropTxn id) := ⟨rfl, rfl, rfl⟩

@[simp] theorem State.breach_services (s : State) (h status cell info : Nat) : s.SameServices (s.breach h status cell info) := ⟨rfl, rfl, rfl⟩

@[simp] theorem State.breachAt_services (s : State) (h : Nat) (e : End) : s.SameServices (s.breachAt h e) := ⟨rfl, rfl, rfl⟩

@[simp] theorem State.refuseAddr_services (s : State) (dev : Nat) : s.SameServices (s.refuseAddr dev) := ⟨rfl, rfl, rfl⟩

@[simp] theorem State.issueBlock_services (s : State) (hn : Nat) (x : Crossing) (rep : Nat) (b : Nat) :
    s.SameServices (s.issueBlock hn x rep b) := by
  simp [State.issueBlock]
  repeat' split
  all_goals simp_all

@[simp] theorem State.settleWaits_services (s : State) (hn : Nat) : s.SameServices (s.settleWaits hn) := ⟨rfl, rfl, rfl⟩

@[simp] theorem State.noteCredit_services (s : State) (h : Nat) (x : Crossing) : s.SameServices (s.noteCredit h x) := ⟨rfl, rfl, rfl⟩

@[simp] theorem State.dropShadows_services (s : State) (h : Nat) : s.SameServices (s.dropShadows h) := by
  simp [State.dropShadows]

@[simp] theorem State.cancelCapture_services (s : State) (h : Nat) : s.SameServices (s.cancelCapture h) := by
  simp [State.cancelCapture]

@[simp] theorem State.rewind_services (s : State) (h : Nat) (clear : Bool) : s.SameServices (s.rewind h clear) := by
  simp [State.rewind]

@[simp] theorem State.touchStack_services (s : State) (k : Nat) : s.SameServices (s.touchStack k) := by
  simp [State.touchStack]

@[simp] theorem State.strike_services (s : State) (dev symbols : Nat) : s.SameServices (s.strike dev symbols) := by
  simp [State.strike]

@[simp] theorem State.readLine_services (s : State) (dev : Nat) : s.SameServices (s.readLine dev).2 := by
  unfold State.readLine
  dsimp only
  split <;> simp

@[simp] theorem State.readLines_services (s : State) (key dev n : Nat) : s.SameServices (s.readLines key dev n).2.2.2 :=
  foldl_sameServices (fun x : List Nat × List Nat × List Byte × State => x.2.2.2) _ (fun x i => by simp) _ ([], [], [], s)

@[simp] theorem State.fillBlock_services (s : State) (h p slot base block : Nat) : s.SameServices (s.fillBlock h p slot base block).2 := by
  unfold State.fillBlock
  dsimp only
  split <;> simp

@[simp] theorem State.fillSlot_services (s : State) (h n slot : Nat) : s.SameServices (s.fillSlot h n slot) := by
  have hfill : ∀ (p k : Nat) (l : List Nat), (l.foldl (fun (a : List Nat × State) j =>
      (a.1 ++ (a.2.fillBlock h p slot k j).1, (a.2.fillBlock h p slot k j).2)) ([], s)).2 |> s.SameServices :=
    fun p k l => foldl_sameServices (fun a : List Nat × State => a.2) _ (fun x j => by simp) l ([], s)
  unfold State.fillSlot
  dsimp only
  split
  · exact ⟨rfl, rfl, rfl⟩
  · split <;> simp [hfill]

@[simp] theorem State.fillResident_services (s : State) (h n : Nat) : s.SameServices (s.fillResident h n) := by
  simp [State.fillResident]

@[simp] theorem State.stopUncommitted_services (s : State) (h : Nat) (e : End) : s.SameServices (s.stopUncommitted h e) := by
  simp [State.stopUncommitted]

@[simp] theorem State.stopFailed_services (s : State) (h : Nat) (e : End) : s.SameServices (s.stopFailed h e) := by
  simp [State.stopFailed]

@[simp] theorem State.tellPeer_services (s : State) (h dev kind : Nat) (what : String) (vals : List Nat) :
    s.SameServices (s.tellPeer h dev kind what vals) := by
  simp [State.tellPeer]

@[simp] theorem State.tellPeers_services (s : State) (h kind : Nat) (what : String) (vals : List Nat) :
    s.SameServices (s.tellPeers h kind what vals) := by
  simp [State.tellPeers]

@[simp] theorem State.markRecurred_services (s : State) (p code : Nat) : s.SameServices (s.markRecurred p code) := ⟨rfl, rfl, rfl⟩

@[simp] theorem State.lidBadLinks_services (s : State) (p : Nat) : s.SameServices (s.lidBadLinks p) := by
  simp [State.lidBadLinks]

@[simp] theorem State.endHold8_services (s : State) (h : Nat) : s.SameServices (s.endHold8 h) := by
  simp [State.endHold8]

@[simp] theorem State.awaitHearth_services (s : State) (h : Nat) : s.SameServices (s.awaitHearth h) := by
  simp [State.awaitHearth]

@[simp] theorem State.replayAt_services (s : State) (h status n : Nat) (at_ : Option Nat) : s.SameServices (s.replayAt h status n at_) := by
  simp [State.replayAt]
  split <;> simp

@[simp] theorem State.replay_services (s : State) (h status n : Nat) : s.SameServices (s.replay h status n) := by
  simp [State.replay]

@[simp] theorem State.nextStepAt_services (s : State) (h : Nat) : s.SameServices (s.nextStepAt h) := by
  simp [State.nextStepAt]

@[simp] theorem State.failHead_services (s : State) (h : Nat) : s.SameServices (s.failHead h) := by
  simp [State.failHead]
  repeat' split
  all_goals simp_all

@[simp] theorem State.stepFault_services (s : State) (h : Nat) (e : End) : s.SameServices (s.stepFault h e) := by
  simp [State.stepFault]

@[simp] theorem State.reachFence_services (s : State) (h : Nat) : s.SameServices (s.reachFence h) := by
  simp [State.reachFence]

@[simp] theorem State.lateFence_services (s : State) (h : Nat) : s.SameServices (s.lateFence h) := by
  simp [State.lateFence]

@[simp] theorem State.countStep_services (s : State) (h f : Nat) : s.SameServices (s.countStep h f) := by
  unfold State.countStep
  split <;> simp

@[simp] theorem State.fenceMet_services (s : State) (h f : Nat) : s.SameServices (s.fenceMet h f) := by
  simp [State.fenceMet]

@[simp] theorem State.keepGens_services (s : State) (h : Nat) : s.SameServices (s.keepGens h) := ⟨rfl, rfl, rfl⟩

@[simp] theorem State.commitHead_services (s : State) (h : Nat) (c : Closing) : s.SameServices (s.commitHead h c) := by
  simp [State.commitHead]

@[simp] theorem State.stopIfDone_services (s : State) (h : Nat) : s.SameServices (s.stopIfDone h) := by
  simp [State.stopIfDone]

@[simp] theorem State.tryCommit_services (s : State) (h : Nat) : s.SameServices (s.tryCommit h) := by
  simp [State.tryCommit]
  split <;> simp

@[simp] theorem State.failFence_services (s : State) (h f : Nat) (e : End) : s.SameServices (s.failFence h f e) := by
  simp [State.failFence]

@[simp] theorem State.lostWrite_services (s : State) (h f xng : Nat) : s.SameServices (s.lostWrite h f xng) := by
  simp [State.lostWrite]

@[simp] theorem State.stopForward_services (s : State) (h xng block : Nat) : s.SameServices (s.stopForward h xng block) := ⟨rfl, rfl, rfl⟩

@[simp] theorem State.launch_services (s : State) (h : Nat) (origin : Origin) (target : Nat) (desc data : List Byte) (bad : List Bool) :
    s.SameServices (s.launch h origin target desc data bad) := by
  unfold State.launch
  dsimp only
  repeat' split
  all_goals simp

@[simp] theorem State.answer_services (s : State) (h n p w : Nat) (m : Msg) (status : Nat) : s.SameServices (s.answer h n p w m status) := by
  simp [State.answer]

@[simp] theorem State.finishLanding_services (s : State) (h n p : Nat) (l : Landing) (status : Nat) :
    s.SameServices (s.finishLanding h n p l status) := by
  simp [State.finishLanding]

@[simp] theorem State.settleLandings_services (s : State) (h n p : Nat) : s.SameServices (s.settleLandings h n p) := by
  unfold State.settleLandings
  refine foldl_sameServices (fun a : State × List (Nat × Nat) => a.1) _ (fun x l => ?_) _ (s, [])
  split
  · exact ⟨rfl, rfl, rfl⟩
  · split <;> simp

@[simp] theorem State.unserve_services (s : State) (m : Msg) : s.SameServices (s.unserve m) := by
  unfold State.unserve
  split <;> simp

@[simp] theorem State.modSends_services (s : State) (h : Nat) (o : Origin) (f : List Send → List Send) :
    s.SameServices (s.modSends h o f) := by
  unfold State.modSends
  split <;> simp

@[simp] theorem State.modSend_services (s : State) (h : Nat) (o : Origin) (tag : Nat) (f : Send → Send) :
    s.SameServices (s.modSend h o tag f) := by
  simp [State.modSend]

@[simp] theorem State.dropSend_services (s : State) (h : Nat) (o : Origin) (tag : Nat) : s.SameServices (s.dropSend h o tag) := by
  simp [State.dropSend]

@[simp] theorem State.heldSend_services (s : State) (h : Nat) (m : Msg) : s.SameServices (s.heldSend h m) := by
  simp [State.heldSend]

@[simp] theorem State.landingData_services (s : State) (h p : Nat) (l : Landing) (data : List Byte) : s.SameServices (s.landingData h p l data).2.2 := by
  unfold State.landingData
  dsimp only
  split
  · refine foldl_sameServices (fun x : List Byte × List Nat × State => x.2.2) _ (fun x i => ?_) _ ([], [], s)
    split
    · exact ⟨rfl, rfl, rfl⟩
    · split
      · simp
      · dsimp only
        split <;> simp
  · split <;> exact ⟨rfl, rfl, rfl⟩

@[simp] theorem State.endSend_services (s : State) (h : Nat) (o : Origin) (q : Send) (status : Nat) :
    s.SameServices (s.endSend h o q status) := by
  unfold State.endSend
  dsimp only
  repeat' split
  all_goals simp

@[simp] theorem State.sendFrom_services (s : State) (h : Nat) (o : Origin) (desc0 data : List Byte) (ref : Option CmdRef) :
    s.SameServices (s.sendFrom h o desc0 data ref) := by
  simp [State.sendFrom]

@[simp] theorem State.settleCast_services (s : State) (h : Nat) (o : Origin) (tag : Nat) : s.SameServices (s.settleCast h o tag) := by
  unfold State.settleCast
  split <;> simp

@[simp] theorem State.modBcast_services (s : State) (id : Nat) (f : Broadcast → Broadcast) : s.SameServices (s.modBcast id f) := ⟨rfl, rfl, rfl⟩

@[simp] theorem State.settleBcast_services (s : State) (id : Nat) : s.SameServices (s.settleBcast id) := by
  unfold State.settleBcast
  split <;> simp

@[simp] theorem State.sendBcast_services (s : State) (b : Broadcast) (targets : List Nat) : s.SameServices (s.sendBcast b targets) := by
  unfold State.sendBcast
  split <;> simp

@[simp] theorem State.startBcast_services (s : State) (h : Option Nat) (targets : List Nat) : s.SameServices (s.startBcast h targets) := by
  simp [State.startBcast]

@[simp] theorem State.seqSend_services (s : State) (h p slot : Nat) (a : ActW) : s.SameServices (s.seqSend h p slot a) := by
  simp [State.seqSend]
  split <;> simp

@[simp] theorem State.strikeIn_services (s : State) (stack dev symbols : Nat) : s.SameServices (s.strikeIn stack dev symbols) := by
  simp [State.strikeIn]

theorem State.takeShadow_services {s t : State} {h stack n : Nat} (ht : s.takeShadow h stack = some (n, t)) : s.SameServices t := by
  unfold State.takeShadow at ht
  dsimp only at ht
  split at ht
  · cases ht
  · split at ht
    · cases ht
      simp
    · split at ht
      · cases ht
        simp
      · cases ht

theorem State.writeTarget_services {s t : State} {h dev n : Nat} {late : Bool} (ht : s.writeTarget h dev late = some (n, t)) :
    s.SameServices t := by
  unfold State.writeTarget at ht
  dsimp only at ht
  split at ht
  · cases ht
    exact ⟨rfl, rfl, rfl⟩
  · split at ht
    · cases ht
      simp
    · split at ht
      · next hn =>
        cases ht
        simp [State.takeShadow_services hn]
      · cases ht

theorem State.storeBlock_services {s t : State} {h a : Nat} {data : List Byte} {bad : Nat → Bool} {late : Bool}
    (ht : s.storeBlock h a data bad late = some t) : s.SameServices t := by
  unfold State.storeBlock at ht
  split at ht
  · cases ht
    exact ⟨rfl, rfl, rfl⟩
  · obtain ⟨⟨n, u⟩, hu, rfl⟩ := Option.map_eq_some_iff.mp ht
    simp [State.writeTarget_services hu]

@[simp] theorem State.awaitShadow_services (s : State) (t : Txn) (page : Nat) : s.SameServices (s.awaitShadow t page) := by
  simp [State.awaitShadow]

@[simp] theorem State.blockCheckFail_services (s : State) (h n f xng : Nat) : s.SameServices (s.blockCheckFail h n f xng) := by
  simp [State.blockCheckFail]

@[simp] theorem State.stopOnStack_services (s : State) (stack : Nat) : s.SameServices (s.stopOnStack stack) := by
  simp [State.stopOnStack]

@[simp] theorem State.foldLine_services (s : State) (from_ base i : Nat) : s.SameServices (s.foldLine from_ base i) := by
  simp [State.foldLine]

@[simp] theorem State.fold_services (s : State) (key : Nat) : s.SameServices (s.fold key) := by
  unfold State.fold
  split <;> simp

@[simp] theorem State.ringError_services (s : State) (p f r code : Nat) : s.SameServices (s.ringError p f r code) := by
  simp [State.ringError]

@[simp] theorem State.fetch_services (s : State) (p f r : Nat) : s.SameServices (s.fetch p f r) := by
  simp [State.fetch]

@[simp] theorem State.logRefused_services (s : State) (hob op sub result : Nat) : s.SameServices (s.logRefused hob op sub result) := by
  simp [State.logRefused]

@[simp] theorem State.command_services (s : State) (ref : CmdRef) (hob op sub : Nat) (args : List Byte → Bool) (body : State → State) (hbody : ∀ x : State, x.SameServices (body x)) :
    s.SameServices (s.command ref hob op sub args body) := by
  simp [State.command]
  repeat' split
  all_goals simp_all

@[simp] theorem State.leaveIdle_services (s : State) : s.SameServices (s.leaveIdle) := by
  simp [State.leaveIdle]

@[simp] theorem State.abortPf_services (s : State) (h : Nat) : s.SameServices (s.abortPf h) := by
  simp [State.abortPf]

@[simp] theorem State.loseHost_services (s : State) (h : Nat) : s.SameServices (s.loseHost h) := by
  simp [State.loseHost]

@[simp] theorem State.resetFn_services (s : State) (p f : Nat) : s.SameServices (s.resetFn p f) := ⟨rfl, rfl, rfl⟩

@[simp] theorem State.losePort_services (s : State) (p : Nat) : s.SameServices (s.losePort p) := by
  simp [State.losePort]

@[simp] theorem State.startRun_services (s : State) (h : Nat) (c : RunCmd) (buf bufLen stg stgLen : Nat) :
    s.SameServices (s.startRun h c buf bufLen stg stgLen) := by
  simp [State.startRun]

@[simp] theorem State.stackRead_services (s : State) (h a n : Nat) : s.SameServices (s.stackRead h a n).2.2 := by
  refine foldl_sameServices (fun t : List Byte × List Nat × State => t.2.2) _ (fun t i => ?_) _ ([], [], s)
  dsimp only
  split <;> simp

theorem State.storePart_services {s t : State} {h a : Nat} {data : List Byte} {bad : Nat → Bool} (ht : s.storePart h a data bad = some t) :
    s.SameServices t := by
  refine .trans ?_ (State.storeBlock_services ht)
  refine foldl_sameServices (fun t : List Byte × List Nat × State => t.2.2) _ (fun t i => ?_) _ ([], [], s)
  dsimp only
  repeat' split
  all_goals simp

theorem State.storeRun_services {s t : State} {h a : Nat} {data : List Byte} {bad : Nat → Bool} (ht : s.storeRun h a data bad = .ok t) :
    s.SameServices t := by
  have hwalk : ∀ (l : List Nat) (g : Except Nat State → Nat → Except Nat State),
      (∀ r i u, g r i = .ok u → ∃ x, r = .ok x ∧ x.SameServices u) → ∀ r u, l.foldl g r = .ok u → ∃ x, r = .ok x ∧ x.SameServices u := by
    intro l g hg
    induction l with
    | nil => exact fun r u hr => ⟨u, hr, rfl, rfl, rfl⟩
    | cons i l ih =>
      intro r u hr
      obtain ⟨x, hx, hxu⟩ := ih _ _ hr
      obtain ⟨y, hy, hyx⟩ := hg _ _ _ hx
      exact ⟨y, hy, hyx.trans hxu⟩
  unfold State.storeRun at ht
  obtain ⟨x, hx, hservices⟩ := hwalk _ _ (fun r i u hu => by
    cases r with
    | error e => cases hu
    | ok x =>
      refine ⟨x, rfl, ?_⟩
      simp only [Except.bind] at hu
      split at hu
      · cases hu
        exact ⟨rfl, rfl, rfl⟩
      · split at hu
        · next hpart =>
          cases hu
          exact State.storePart_services hpart
        · cases hu) _ _ ht
  cases hx
  exact hservices

@[simp] theorem State.copyAwaits_services (s : State) (h : Nat) (c : Copy) (page : Nat) : s.SameServices (s.copyAwaits h c page) := by
  simp [State.copyAwaits]

@[simp] theorem State.setPlaces_services (s : State) (l : List PlaceRec) (epoch : Nat) : s.SameServices (s.setPlaces l epoch) := ⟨rfl, rfl, rfl⟩

@[simp] theorem State.placeLog_services (s : State) (r : PlaceRec) : s.SameServices (s.placeLog r) := ⟨rfl, rfl, rfl⟩

@[simp] theorem State.freeBridge_services (s : State) (h n : Nat) : s.SameServices (s.freeBridge h n) := by
  simp [State.freeBridge]

@[simp] theorem State.endFar_services (s : State) (h n : Nat) : s.SameServices (s.endFar h n) := by
  unfold State.endFar
  split <;> simp

@[simp] theorem State.clearCells_services (s : State) (h : Nat) : s.SameServices (s.clearCells h) := by
  simp [State.clearCells]

@[simp] theorem State.placeCells_services (s : State) (h : Nat) : s.SameServices (s.placeCells h) := by
  simp [State.placeCells]

@[simp] theorem State.recheckOver_services (s : State) (h : Nat) : s.SameServices (s.recheckOver h) := by
  simp [State.recheckOver]

@[simp] theorem State.reshape_services (s : State) (h : Nat) (sh : Shape) : s.SameServices (s.reshape h sh) := by
  simp [State.reshape]

@[simp] theorem State.dropExtShadows_services (s : State) (dev : Nat) : s.SameServices (s.dropExtShadows dev) := by
  simp [State.dropExtShadows]

@[simp] theorem State.resize_services (s : State) (h stack n : Nat) : s.SameServices (s.resize h stack n) := by
  simp [State.resize]

@[simp] theorem State.endPerturb_services (s : State) (i : Nat) : s.SameServices (s.endPerturb i) := by
  simp [State.endPerturb]

@[simp] theorem State.endPerturbs_services (s : State) (f : Perturb → Bool) : s.SameServices (s.endPerturbs f) := by
  simp [State.endPerturbs]

@[simp] theorem State.abortCommands_services (s : State) (h status : Nat) : s.SameServices (s.abortCommands h status) := by
  unfold State.abortCommands
  dsimp only
  repeat' split
  all_goals simp

@[simp] theorem State.endWindows_services (s : State) (h : Nat) : s.SameServices (s.endWindows h) := by
  unfold State.endWindows
  refine State.each_services _ _ _ fun x n => State.foldl_services _ _ _ fun y w => ?_
  split <;> simp

@[simp] theorem State.endAuth_services (s : State) (h : Nat) : s.SameServices (s.endAuth h) := by
  simp [State.endAuth]

@[simp] theorem State.freeHob_services (s : State) (h : Nat) : s.SameServices (s.freeHob h) := by
  simp [State.freeHob]

@[simp] theorem State.finishRelease_services (s : State) (h : Nat) : s.SameServices (s.finishRelease h) := by
  unfold State.finishRelease
  dsimp only
  repeat' split
  all_goals simp

@[simp] theorem State.program_services (s : State) (h : Nat) (r : Recipe) : s.SameServices (s.program h r) := by
  simp [State.program]

@[simp] theorem State.addHist_services (s : State) (p : Nat) (e : Hist) : s.SameServices (s.addHist p e) := ⟨rfl, rfl, rfl⟩

@[simp] theorem State.taintHob_services (s : State) (h p cause : Nat) : s.SameServices (s.taintHob h p cause) := by
  simp [State.taintHob]
  split <;> simp

@[simp] theorem State.lateTaint_services (s : State) (p cause : Nat) : s.SameServices (s.lateTaint p cause) := by
  simp [State.lateTaint]

@[simp] theorem State.setClean_services (s : State) (p : Nat) : s.SameServices (s.setClean p) := by
  simp [State.setClean]

@[simp] theorem State.commonCause_services (s : State) (q : Nat) : s.SameServices (s.commonCause q) := by
  simp [State.commonCause]

@[simp] theorem State.scoreLid_services (s : State) (p : Nat) : s.SameServices (s.scoreLid p) := by
  simp [State.scoreLid]

@[simp] theorem State.charge_services (s : State) (p code weight unit : Nat) : s.SameServices (s.charge p code weight unit) := by
  simp [State.charge]

@[simp] theorem State.shiftRack_services (s : State) (r : Rack) (g : Nat) : s.SameServices (s.shiftRack r g) := by
  simp [State.shiftRack]

@[simp] theorem State.rebuildCell_services (s : State) (h n : Nat) : s.SameServices (s.rebuildCell h n) := by
  simp [State.rebuildCell]

@[simp] theorem State.rebuild_services (s : State) (h n : Nat) (imageOk : Bool) : s.SameServices (s.rebuild h n imageOk) := by
  simp [State.rebuild]

@[simp] theorem State.setMoving_services (s : State) (r : Rack) (a b : Nat) (on : Bool) : s.SameServices (s.setMoving r a b on) := by
  simp [State.setMoving]

@[simp] theorem State.ownSlots_services (s : State) (h n : Nat) (ts : List RtSlot) : s.SameServices (s.ownSlots h n ts) := by
  simp [State.ownSlots]

@[simp] theorem State.relayOver_services (s : State) (r : Rack) (g : Nat) : s.SameServices (s.relayOver r g).2 := by
  unfold State.relayOver
  refine .trans ?_ (foldl_sameServices (fun x : Bool × State => x.2) _ (fun x b => ?_) _ (true, _)) <;> simp

@[simp] theorem State.setGap_services (s : State) (r : Rack) (g : Nat) : s.SameServices (s.setGap r g) := by
  simp [State.setGap]

@[simp] theorem State.shiftFrom_services (s : State) (p : Nat) : s.SameServices (s.shiftFrom p) := by
  simp [State.shiftFrom]

@[simp] theorem State.placeOver_services (s : State) (h n : Nat) (c : Cand) (was : Nat) (path : List Nat) :
    s.SameServices (s.placeOver h n c was path) := by
  simp [State.placeOver]

@[simp] theorem State.placeFar_services (s : State) (h n : Nat) (c : Cand) (was : Nat) : s.SameServices (s.placeFar h n c was) := by
  simp [State.placeFar]

@[simp] theorem State.replaceReport_services (s : State) (h : Nat) : s.SameServices (s.replaceReport h) := by
  simp [State.replaceReport]

@[simp] theorem State.holdHomeless_services (s : State) (h : Nat) : s.SameServices (s.holdHomeless h) := by
  simp [State.holdHomeless]

@[simp] theorem State.makeHomeless_services (s : State) (h n failed reason best : Nat) :
    s.SameServices (s.makeHomeless h n failed reason best) := by
  simp [State.makeHomeless]

@[simp] theorem State.moveCell_services (s : State) (a b : Nat) : s.SameServices (s.moveCell a b) := by
  simp [State.moveCell]

@[simp] theorem State.replaceFars_services (s : State) (h : Nat) (r : Recipe) : s.SameServices (s.replaceFars h r) := by
  unfold State.replaceFars
  refine .trans ?_ (State.each_services _ _ _ fun x n => ?_)
  · simp
  dsimp only
  repeat' split
  all_goals simp

@[simp] theorem State.condShifts_services (s : State) (h : Nat) (r : Recipe) : s.SameServices (s.condShifts h r) := by
  unfold State.condShifts
  refine State.each_services _ _ _ fun x i => ?_
  dsimp only
  repeat' split
  all_goals simp

@[simp] theorem State.drawGap_services (s : State) (p : Nat) : s.SameServices (s.drawGap p).2 := by
  simp [State.drawGap]

@[simp] theorem State.startCell_services (s : State) (h n : Nat) : s.SameServices (s.startCell h n) := ⟨rfl, rfl, rfl⟩

@[simp] theorem State.loadImage_services (s : State) (ref : CmdRef) (h : Nat) (r : Recipe) : s.SameServices (s.loadImage ref h r) := by
  simp [State.loadImage]

@[simp] theorem State.setOutcome_services (s : State) (p code out : Nat) : s.SameServices (s.setOutcome p code out) := ⟨rfl, rfl, rfl⟩

@[simp] theorem State.settlePermanent_services (s : State) (p : Nat) : s.SameServices (s.settlePermanent p) := by
  simp [State.settlePermanent]

@[simp] theorem State.chargeInjected_services (s : State) (p code unit : Nat) : s.SameServices (s.chargeInjected p code unit) := ⟨rfl, rfl, rfl⟩

@[simp] theorem State.endDecant_services (s : State) (h : Nat) : s.SameServices (s.endDecant h) := by
  simp [State.endDecant]

@[simp] theorem State.returnHome_services (s : State) (h : Nat) : s.SameServices (s.returnHome h) := by
  unfold State.returnHome
  refine State.each_services _ _ _ fun x i => ?_
  dsimp only
  split
  · rename_i u hu
    have hx : x.SameServices u := by
      split at hu
      · cases hu; simp
      · split at hu <;> cases hu
        simp
    simp [hx]
  · simp

@[simp] theorem State.plannedMove_services (s : State) (h p : Nat) : s.SameServices (s.plannedMove h p) := by
  simp [State.plannedMove]

@[simp] theorem State.voidTest_services (s : State) (r : Rack) : s.SameServices (s.voidTest r) := by
  simp [State.voidTest]

@[simp] theorem State.testIsland_services (s : State) (p : Nat) : s.SameServices (s.testIsland p) := by
  simp [State.testIsland]

@[simp] theorem State.cleanTest_services (s : State) (p : Nat) : s.SameServices (s.cleanTest p) := by
  simp [State.cleanTest]

@[simp] theorem State.failTest_services (s : State) (p unit cause : Nat) : s.SameServices (s.failTest p unit cause) := by
  simp [State.failTest]

@[simp] theorem State.settleService_services (s : State) : s.SameServices (s.settleService) := by
  simp [State.settleService]

@[simp] theorem State.evalRetire_services (s : State) : s.SameServices (s.evalRetire) := by
  simp [State.evalRetire]

@[simp] theorem State.rotate_services (s : State) (r : Rack) : s.SameServices (s.rotate r) := by
  simp [State.rotate]

@[simp] theorem State.endCommonCause_services (s : State) (q : Nat) : s.SameServices (s.endCommonCause q) := by
  simp [State.endCommonCause]

@[simp] theorem State.reinit_services (s : State) (p : Nat) : s.SameServices (s.reinit p) := by
  simp [State.reinit]

@[simp] theorem State.swapOff_services (s : State) (p : Nat) : s.SameServices (s.swapOff p) := by
  simp [State.swapOff]
  repeat' (first | split | apply And.intro)
  all_goals simp_all

@[simp] theorem State.swapBack_services (s : State) (r : Rack) (g : Nat) : s.SameServices (s.swapBack r g) := by
  simp [State.swapBack]

@[simp] theorem State.countSuspect_services (s : State) (p : Nat) (failed : Bool) : s.SameServices (s.countSuspect p failed) := ⟨rfl, rfl, rfl⟩

@[simp] theorem State.retest_services (s : State) (h n : Nat) : s.SameServices (s.retest h n) := by
  simp [State.retest]

@[simp] theorem State.endSample_services (s : State) (p : Nat) (stat : TasteStat → TasteStat) : s.SameServices (s.endSample p stat) := ⟨rfl, rfl, rfl⟩

@[simp] theorem State.queryAnswer_services (s : State) (ref : CmdRef) (addr len : Nat) (bytes : List Byte) :
    s.SameServices (s.queryAnswer ref addr len bytes) := by
  simp [State.queryAnswer]

@[simp] theorem State.answerRegs_services (s : State) (ref : CmdRef) (h sub addr len : Nat) (vals : List Nat) :
    s.SameServices (s.answerRegs ref h sub addr len vals) := by
  simp [State.answerRegs]

@[simp] theorem State.classCheck_services (s : State) (p : Nat) : s.SameServices (s.classCheck p) := by
  unfold State.classCheck
  refine State.each_services _ _ _ fun x h => ?_
  split
  · exact ⟨rfl, rfl, rfl⟩
  · split <;> simp

@[simp] theorem State.endRelight_services (s : State) (p : Nat) : s.SameServices (s.endRelight p) := by
  simp [State.endRelight]

@[simp] theorem State.endRemote_services (s : State) (t : Txn) : s.SameServices (s.endRemote t) := by
  unfold State.endRemote
  dsimp only
  repeat' split
  all_goals simp

@[simp] theorem State.endSends_services (s : State) (p : Nat) : s.SameServices (s.endSends p) := by
  simp [State.endSends]

@[simp] theorem State.lnpEnd_services (s : State) (p : Nat) (st : LnpState) (why : Nat) : s.SameServices (s.lnpEnd p st why) := by
  simp [State.lnpEnd]

@[simp] theorem State.sealFrame_services (s : State) (p : Nat) (f : Frame) : s.SameServices (s.sealFrame p f) := ⟨rfl, rfl, rfl⟩

@[simp] theorem State.sendFrame_services (s : State) (p : Nat) (f : Frame) : s.SameServices (s.sendFrame p f) := by
  simp [State.sendFrame]

@[simp] theorem State.sendSession_services (s : State) (p : Nat) (note : List Nat) : s.SameServices (s.sendSession p note) := by
  simp [State.sendSession]

@[simp] theorem State.keyStep_services (s : State) (p : Nat) (point : Nat × Nat) : s.SameServices (s.keyStep p point) := by
  simp [State.keyStep]

@[simp] theorem State.startRetrain_services (s : State) (p : Nat) : s.SameServices (s.startRetrain p) := ⟨rfl, rfl, rfl⟩

@[simp] theorem State.resend_services (s : State) (p : Nat) (named : BitVec 16) : s.SameServices (s.resend p named) := by
  simp [State.resend]

@[simp] theorem State.sendBlock_services (s : State) (p : Nat) (t : Txn) : s.SameServices (s.sendBlock p t) := by
  simp [State.sendBlock]

@[simp] theorem State.reserveRx_services (s : State) (p : Nat) : s.SameServices (s.reserveRx p) := by
  unfold State.reserveRx
  refine foldl_sameServices (fun a : State × List (Nat × Nat × Nat × Nat) => a.1) _ (fun x i => ?_) _ (s, [])
  dsimp only
  repeat' split
  all_goals simp

@[simp] theorem State.takeRx_services (s : State) (p : Nat) : s.SameServices (s.takeRx p) := by
  simp [State.takeRx]

@[simp] theorem State.drainRx_services (s : State) (p : Nat) : s.SameServices (s.drainRx p) := by
  simp [State.drainRx]

@[simp] theorem State.staticFlits_services (s : State) (p : Nat) (f : Frame) (blockOk : Bool) :
    s.SameServices (s.staticFlits p f blockOk) := by
  simp [State.staticFlits]

@[simp] theorem State.serveJar_services (s : State) (p : Nat) (a : JarAsk) : s.SameServices (s.serveJar p a) := by
  simp [State.serveJar]

@[simp] theorem State.serveJars_services (s : State) (p : Nat) : s.SameServices (s.serveJars p) := by
  simp [State.serveJars]

@[simp] theorem State.takeReq_services (s : State) (p : Nat) : s.SameServices (s.takeReq p) := by
  unfold State.takeReq
  dsimp only
  refine .trans (.trans ?_ (State.foldl_services _ _ _ fun x f => ?_)) (State.serveJars_services _ p)
  · simp
  split
  · exact ⟨rfl, rfl, rfl⟩
  · split <;> simp

@[simp] theorem State.askJar_services (s : State) (h p : Nat) : s.SameServices (s.askJar h p) := by
  unfold State.askJar
  refine State.foldl_services _ _ _ fun x i => ?_
  split
  · exact ⟨rfl, rfl, rfl⟩
  · dsimp only
    split <;> simp

@[simp] theorem State.askJars_services (s : State) (p : Nat) : s.SameServices (s.askJars p) := by
  unfold State.askJars
  refine State.each_services _ _ _ fun x h => ?_
  split
  · split <;> simp
  · exact ⟨rfl, rfl, rfl⟩

@[simp] theorem State.jarReply_services (s : State) (p : Nat) (f : Frame) : s.SameServices (s.jarReply p f) := by
  simp [State.jarReply]
  split <;> simp

@[simp] theorem State.packet_services (s : State) (p : Nat) (f : Frame) : s.SameServices (s.packet p f) := by
  simp [State.packet]
  split <;> simp

@[simp] theorem State.discardFrame_services (s : State) (p : Nat) (decoded tagOk : Bool) :
    s.SameServices (s.discardFrame p decoded tagOk) := by
  simp [State.discardFrame]

@[simp] theorem State.receive_services (s : State) (p : Nat) (f : Frame) (decoded tagOk : Bool) (act : State → State) (hact : ∀ x : State, x.SameServices (act x)) :
    s.SameServices (s.receive p f decoded tagOk act) := by
  simp [State.receive, hact]

@[simp] theorem State.parkRefused_services (s : State) (p : Nat) : s.SameServices (s.parkRefused p) := by
  simp [State.parkRefused]

@[simp] theorem State.parkPort_services (s : State) (p : Nat) : s.SameServices (s.parkPort p) := by
  simp [State.parkPort]

@[simp] theorem State.tryPark_services (s : State) (p : Nat) : s.SameServices (s.tryPark p) := by
  simp [State.tryPark]

@[simp] theorem State.substitute_services (s : State) (p fibre lane : Nat) : s.SameServices (s.substitute p fibre lane) := by
  simp [State.substitute]
  split <;> simp

@[simp] theorem State.comeUp_services (s : State) (p w : Nat) : s.SameServices (s.comeUp p w) := by
  simp [State.comeUp]

@[simp] theorem State.parkIfAsked_services (s : State) (p : Nat) : s.SameServices (s.parkIfAsked p) := by
  simp [State.parkIfAsked]

@[simp] theorem State.train_services (s : State) (p : Nat) : s.SameServices (s.train p) := ⟨rfl, rfl, rfl⟩

@[simp] theorem State.dropWorms_services (s : State) (ps : List Nat) : s.SameServices (s.dropWorms ps) := by
  simp [State.dropWorms]

@[simp] theorem State.clearIslands_services (s : State) (ps : List Nat) : s.SameServices (s.clearIslands ps) := by
  simp [State.clearIslands]

@[simp] theorem State.clearAt_services (s : State) (ps : List Nat) : s.SameServices (s.clearAt ps) := by
  unfold State.clearAt
  refine State.each_services _ _ _ fun x p => ?_
  dsimp only
  split <;> simp

@[simp] theorem State.holdAt_services (s : State) (ps : List Nat) : s.SameServices (s.holdAt ps) := by
  simp [State.holdAt]

@[simp] theorem State.rebuildHob_services (s : State) (h : Nat) (ps : List Nat) (imageOk : Bool) :
    s.SameServices (s.rebuildHob h ps imageOk) := by
  simp [State.rebuildHob]

@[simp] theorem State.rebuildAt_services (s : State) (ps : List Nat) (imageOk : Bool) : s.SameServices (s.rebuildAt ps imageOk) := by
  simp [State.rebuildAt]

@[simp] theorem State.hobToLoading_services (s : State) (h : Nat) : s.SameServices (s.hobToLoading h) := by
  unfold State.hobToLoading
  dsimp only
  repeat' split
  all_goals simp

@[simp] theorem State.startAsh_services (s : State) (domain cause : Nat) (suspects : List (Nat × Nat)) (waiting : List (Nat × Nat × Nat)) :
    s.SameServices (s.startAsh domain cause suspects waiting) := by
  unfold State.startAsh
  split <;> simp

@[simp] theorem State.keepAsh_services (s : State) (a : Ash) : s.SameServices (s.keepAsh a) := by
  simp [State.keepAsh]

@[simp] theorem State.resetCell_services (s : State) (p why : Nat) : s.SameServices (s.resetCell p why) := by
  simp [State.resetCell]

@[simp] theorem State.resetRack_services (s : State) (i why : Nat) : s.SameServices (s.resetRack i why) := by
  simp [State.resetRack]

@[simp] theorem State.resetQuarter_services (s : State) (q why : Nat) : s.SameServices (s.resetQuarter q why) := by
  simp [State.resetQuarter]

@[simp] theorem State.resetStack_services (s : State) (k why : Nat) : s.SameServices (s.resetStack k why) := by
  simp [State.resetStack]

@[simp] theorem State.resetLnp_services (s : State) (p why : Nat) : s.SameServices (s.resetLnp p why) := by
  simp [State.resetLnp]

@[simp] theorem State.resetHost_services (s : State) (p why : Nat) : s.SameServices (s.resetHost p why) := by
  simp [State.resetHost]

@[simp] theorem State.resetHob_services (s : State) (h why : Nat) : s.SameServices (s.resetHob h why) := by
  simp [State.resetHob]

@[simp] theorem State.stopRings_services (s : State) : s.SameServices (s.stopRings) := by
  unfold State.stopRings
  refine State.each_services _ _ _ fun x p => State.each_services _ _ _ fun x f => State.each_services _ _ _ fun x r => ?_
  dsimp only
  split <;> simp

@[simp] theorem State.dropCompute_services (s : State) : s.SameServices (s.dropCompute) := by
  simp [State.dropCompute]

@[simp] theorem State.onlyReset_services (s : State) (dom start why : Nat) : s.SameServices (s.onlyReset dom start why) := by
  simp [State.onlyReset]

@[simp] theorem State.warmReset_services (s : State) (why : Nat) : s.SameServices (s.warmReset why) := by
  simp [State.warmReset]

@[simp] theorem State.loseContents_services (s : State) : s.SameServices (s.loseContents) := by
  simp [State.loseContents]

@[simp] theorem State.coldReset_services (s : State) (why : Nat) : s.SameServices (s.coldReset why) := by
  simp [State.coldReset]

@[simp] theorem State.enterDown_services (s : State) (st : DevState) : s.SameServices (s.enterDown st) := by
  simp [State.enterDown]

@[simp] theorem State.performReset_services (s : State) (dom idx why : Nat) : s.SameServices (s.performReset dom idx why) := by
  unfold State.performReset
  split <;> simp

@[simp] theorem State.askReset_services (s : State) (dom idx why : Nat) : s.SameServices (s.askReset dom idx why) := by
  simp [State.askReset]

@[simp] theorem State.deviceReset_services (s : State) (dom why : Nat) (suspects : List (Nat × Nat)) :
    s.SameServices (s.deviceReset dom why suspects) := by
  unfold State.deviceReset
  dsimp only
  repeat' split
  all_goals simp

@[simp] theorem State.hang_services (s : State) (dom idx why : Nat) (hobs : List Nat) : s.SameServices (s.hang dom idx why hobs) := by
  simp [State.hang]

@[simp] theorem State.rerouteFar_services (s : State) (p : Nat) (c : Nat × Nat) : s.SameServices (s.rerouteFar p c) := by
  simp [State.rerouteFar]
  split <;> simp

@[simp] theorem State.rstCmd_services (s : State) (who : Who) (action arg refuse : Nat) (act : State → State) (hact : ∀ x : State, x.SameServices (act x)) :
    s.SameServices (s.rstCmd who action arg refuse act) := by
  simp [State.rstCmd, hact]

@[simp] theorem State.commandedReset_services (s : State) (dom : Nat) : s.SameServices (s.commandedReset dom) := by
  simp [State.commandedReset]

@[simp] theorem State.rstAction_services (s : State) (who : Who) (action arg : Nat) : s.SameServices (s.rstAction who action arg) := by
  unfold State.rstAction State.rstCmd
  split <;> simp

@[simp] theorem State.setDamper_services (s : State) (d : Damper) : s.SameServices (s.setDamper d) := by
  simp [State.setDamper]

@[simp] theorem State.toStage_services (s : State) (k : Nat) : s.SameServices (s.toStage k) := ⟨rfl, rfl, rfl⟩

@[simp] theorem State.importBurnIn_services (s : State) : s.SameServices (s.importBurnIn) := by
  simp [State.importBurnIn]

@[simp] theorem State.freshNonces_services (s : State) : s.SameServices (s.freshNonces) := by
  simp [State.freshNonces]

@[simp] theorem State.poisonLines_services (s : State) (first n : Nat) : s.SameServices (s.poisonLines first n) := ⟨rfl, rfl, rfl⟩

@[simp] theorem State.lostEntry_services (s : State) (key : Nat) : s.SameServices (s.lostEntry key) := by
  unfold State.lostEntry
  split
  · exact ⟨rfl, rfl, rfl⟩
  · simp

@[simp] theorem State.foldAll_services (s : State) (badS0 badS6 : List Nat) : s.SameServices (s.foldAll badS0 badS6) := by
  simp [State.foldAll]

@[simp] theorem State.wireTest_services (s : State) (w : Pos × Fin 23 × List Nat) : s.SameServices (s.wireTest w) := ⟨rfl, rfl, rfl⟩

@[simp] theorem State.reconcile_services (s : State) (useMap : Bool) (bist : Nat → Option Nat) (p : Nat) :
    s.SameServices (s.reconcile useMap bist p) := by
  simp [State.reconcile]

@[simp] theorem State.placeGap_services (s : State) (r : Rack) : s.SameServices (s.placeGap r) := by
  simp [State.placeGap]

@[simp] theorem State.fuseRows_services (s : State) (rows : List (Pos × Nat × Nat)) : s.SameServices (s.fuseRows rows) := by
  simp [State.fuseRows]

@[simp] theorem State.recheckOutside_services (s : State) : s.SameServices (s.recheckOutside) := ⟨rfl, rfl, rfl⟩

@[simp] theorem State.thermalRelease_services (s : State) : s.SameServices (s.thermalRelease) := by
  simp [State.thermalRelease]

@[simp] theorem State.settlePantry_services (s : State) : s.SameServices (s.settlePantry) := by
  simp [State.settlePantry]

@[simp] theorem State.nandWrite_services (s : State) (jar other : Nat) : s.SameServices (s.nandWrite jar other) := by
  simp [State.nandWrite]

@[simp] theorem State.vacate_services (s : State) (block : Nat) : s.SameServices (s.vacate block) := ⟨rfl, rfl, rfl⟩

@[simp] theorem State.occupy_services (s : State) (block owner : Nat) : s.SameServices (s.occupy block owner) := by
  simp [State.occupy]

@[simp] theorem State.openBlock_services (s : State) (owner : Nat) : s.SameServices (s.openBlock owner) := by
  unfold State.openBlock
  split <;> simp

@[simp] theorem State.levelDie_services (s : State) (die : Nat) : s.SameServices (s.levelDie die) := by
  unfold State.levelDie
  dsimp only
  repeat' split
  all_goals simp

@[simp] theorem State.jarWrite_services (s : State) (h slot bytes : Nat) (first : Bool) : s.SameServices (s.jarWrite h slot bytes first) := by
  simp [State.jarWrite]

@[simp] theorem State.moveBlock_services (s : State) (block : Nat) : s.SameServices (s.moveBlock block) := by
  simp [State.moveBlock]

@[simp] theorem State.retireBlock_services (s : State) (block : Nat) : s.SameServices (s.retireBlock block) := by
  simp [State.retireBlock]

@[simp] theorem State.reserveJar_services (s : State) (h slot fence seq lead : Nat) (ref : Option CmdRef) :
    s.SameServices (s.reserveJar h slot fence seq lead ref) := by
  simp [State.reserveJar]

@[simp] theorem State.startSet_services (s : State) (h fence : Nat) (ref : Option CmdRef) : s.SameServices (s.startSet h fence ref) := by
  simp [State.startSet]

@[simp] theorem State.startAuto_services (s : State) (h : Nat) : s.SameServices (s.startAuto h) := by
  simp [State.startAuto]
  split <;> simp

@[simp] theorem State.restoreLine_services (s : State) (h : Nat) (j : Jar) (line : Nat) : s.SameServices (s.restoreLine h j line) := by
  simp [State.restoreLine]
  split <;> simp

@[simp] theorem State.restorePages_services (s : State) (h : Nat) (j : Jar) (pages : List Nat) :
    s.SameServices (s.restorePages h j pages) := by
  unfold State.restorePages
  refine .trans (State.each_services _ _ _ fun x l => ?_) (State.each_services _ _ _ fun x l => x.restoreLine_services h j l)
  split <;> simp

@[simp] theorem State.spendToken_services (s : State) (nonce : Nat) : s.SameServices (s.spendToken nonce) := ⟨rfl, rfl, rfl⟩

@[simp] theorem State.makerAct_services (s : State) (who : Who) (code nonce : Nat) (args : List Nat) (refuse : Nat) (act : State → State) (hact : ∀ x : State, x.SameServices (act x)) :
    s.SameServices (s.makerAct who code nonce args refuse act) := by
  simp [State.makerAct]
  repeat' split
  all_goals simp_all

@[simp] theorem State.eraseJars_services (s : State) (h : Nat) : s.SameServices (s.eraseJars h) := by
  unfold State.eraseJars
  dsimp only
  repeat' split
  all_goals simp

@[simp] theorem State.fwAct_services (s : State) (who : Who) (args : List Nat) (refuse : Nat) (act : State → State) (hact : ∀ x : State, x.SameServices (act x)) :
    s.SameServices (s.fwAct who args refuse act) := by
  simp [State.fwAct]
  repeat' split
  all_goals simp_all

@[simp] theorem State.askData_services (s : State) : s.SameServices (s.askData) := ⟨rfl, rfl, rfl⟩

@[simp] theorem State.spdm_services (s : State) (what : String) (vals : List Nat) : s.SameServices (s.spdm what vals) := by
  simp [State.spdm]

@[simp] theorem State.ideKm_services (s : State) (session stream : Nat) (what : String) (act : Nat → Nat × Nat) :
    s.SameServices (s.ideKm session stream what act) := by
  simp [State.ideKm]
  split <;> simp

@[simp] theorem State.followAlert_services (s : State) : s.SameServices (s.followAlert) := ⟨rfl, rfl, rfl⟩

@[simp] theorem State.pmbusAnswer_services (s : State) (cmd : String) (pageOk : Bool) (vals : List Nat) :
    s.SameServices (s.pmbusAnswer cmd pageOk vals) := by
  simp [State.pmbusAnswer]

@[simp] theorem State.writeRing_services (s : State) (p f r : Nat) (g : Ring → Ring) : s.SameServices (s.writeRing p f r g) := by
  simp [State.writeRing]

@[simp] theorem State.writeMsix_services (s : State) (p f e : Nat) (v : BitVec 128) : s.SameServices (s.writeMsix p f e v) := by
  simp [State.writeMsix]

@[simp] theorem State.iWrite_services (s : State) (who : Who) (code hob : Nat) (args : List Nat) (refuse : Nat) (act : State → State) (hact : ∀ x : State, x.SameServices (act x)) :
    s.SameServices (s.iWrite who code hob args refuse act) := by
  simp [State.iWrite, hact]

@[simp] theorem State.writePortCtl_services (s : State) (who : Who) (p v : Nat) : s.SameServices (s.writePortCtl who p v) := by
  simp [State.writePortCtl]

@[simp] theorem State.writeRoute_services (s : State) (who : Who) (dest v : Nat) : s.SameServices (s.writeRoute who dest v) := by
  simp [State.writeRoute]

@[simp] theorem State.writeJarAcl_services (s : State) (who : Who) (h v : Nat) : s.SameServices (s.writeJarAcl who h v) := by
  simp [State.writeJarAcl]

@[simp] theorem State.writeTaste_services (s : State) (who : Who) (v : Nat) : s.SameServices (s.writeTaste who v) := by
  simp [State.writeTaste]

@[simp] theorem State.writeRstCfg_services (s : State) (who : Who) (v : Nat) : s.SameServices (s.writeRstCfg who v) := by
  simp [State.writeRstCfg]

@[simp] theorem State.writeIdle_services (s : State) (who : Who) (v : Nat) : s.SameServices (s.writeIdle who v) := by
  simp [State.writeIdle]

@[simp] theorem State.writePolicy_services (s : State) (who : Who) (h v : Nat) : s.SameServices (s.writePolicy who h v) := by
  simp [State.writePolicy]
/-! ### Commands that leave memory and services -/

/-- The stack memory of `t` is that of `s`, and so are the sessions, the firmware slots and the PMBus registers. -/
@[simp] abbrev State.Untouched (s t : State) : Prop := t.mem = s.mem ∧ s.SameServices t

theorem State.foldl_untouched {α : Type} (s : State) (l : List α) (f : State → α → State)
    (hf : ∀ (x : State) (i : α), x.Untouched (f x i)) : s.Untouched (l.foldl f s) :=
  ⟨foldl_proj State.mem f (fun x i => (hf x i).1) l s, s.foldl_services l f fun x i => (hf x i).2⟩

theorem State.each_untouched {α : Type} (s : State) (l : List α) (f : State → α → State)
    (hf : ∀ (x : State) (i : α), x.Untouched (f x i)) : s.Untouched (s.each l f) := s.foldl_untouched l f hf

/-- A ring command leaves what its body leaves. -/
theorem State.command_untouched (s : State) (ref : CmdRef) (hob op sub : Nat) (args : List Byte → Bool) (body : State → State)
    (hbody : ∀ x : State, x.Untouched (body x)) : s.Untouched (s.command ref hob op sub args body) := by
  unfold State.command
  dsimp only
  repeat' split
  all_goals simp_all

/-- An action of HOB_CONFIG leaves beside the log and its answer what it does. -/
theorem State.ringPriv_untouched (s : State) (ref : CmdRef) (h sub : Nat) (args : List Nat) (status : Nat) (act : State → State)
    (info : Nat × Nat) (hact : ∀ x : State, x.Untouched (act x)) : s.Untouched (s.ringPriv ref h sub args status act info) := by
  unfold State.ringPriv
  dsimp only
  split <;> simp_all

theorem State.placeHomeless_untouched {s t : State} {h n : Nat} (ht : s.placeHomeless h n = some t) : s.Untouched t := by
  unfold State.placeHomeless at ht
  dsimp only at ht
  repeat' split at ht
  all_goals cases ht
  all_goals simp

/-- A command completes, and `P` holds of the state after it. -/
def Ends (r : Res) (P : State → Prop) : Prop := ∃ t, r = .next t ∧ P t

@[simp] theorem ends_done (t : State) (P : State → Prop) : Ends (done t) P ↔ P t := by simp [Ends, done]

@[simp] theorem ends_ite (c : Prop) [Decidable c] (a b : Res) (P : State → Prop) :
    Ends (if c then a else b) P ↔ if c then Ends a P else Ends b P := by split <;> rfl

theorem ends_done_of {t : State} {P : State → Prop} (h : P t) : Ends (done t) P := ⟨t, rfl, h⟩

theorem Ends.imp {r : Res} {P Q : State → Prop} (h : Ends r P) (hPQ : ∀ t, P t → Q t) : Ends r Q :=
  let ⟨t, ht, hP⟩ := h
  ⟨t, ht, hPQ t hP⟩

theorem Ends.after {r : Res} {P : State → Prop} (h : Ends r P) (s : State) : P (after r s) := by
  obtain ⟨t, rfl, hP⟩ := h
  exact hP

@[simp] theorem execLinksUp_untouched (results : List (LnpId × TrainResult)) (s : State) : Ends (execLinksUp results s) s.Untouched := by
  have htrained : s.Untouched (results.foldl (fun s r => after (execLnpTrainingDone r.1 r.2 s) s) s) := State.foldl_untouched _ _ _ fun x r => by
    simp [execLnpTrainingDone]
  simp [execLinksUp, htrained]

@[simp] theorem execSensorSample_untouched (sensor : Sensor) (value value2 : Nat) (s : State) :
    Ends (execSensorSample sensor value value2 s) s.Untouched := by
  unfold execSensorSample
  dsimp only
  repeat' split
  all_goals simp

@[simp] theorem execCalWordIssue_untouched (cell : Pos) (upsets : List Upset) (s : State) : Ends (execCalWordIssue cell upsets s) s.Untouched := by
  unfold execCalWordIssue
  dsimp only
  split <;> simp

@[simp] theorem execResidueFault_untouched (cell : Pos) (bank : Fin 2) (row : Fin 32) (s : State) :
    Ends (execResidueFault cell bank row s) s.Untouched := by
  simp [execResidueFault]

@[simp] theorem execEccWriteBack_untouched (cell : Pos) (s : State) : Ends (execEccWriteBack cell s) s.Untouched := by
  unfold execEccWriteBack
  dsimp only
  split <;> simp

@[simp] theorem execRouterSlotForward_untouched (cell : Pos) (out : Dir) (flipped : List Nat) (s : State) :
    Ends (execRouterSlotForward cell out flipped s) s.Untouched := by
  unfold execRouterSlotForward
  dsimp only
  repeat' split
  all_goals simp

@[simp] theorem execRouterPageSwitch_untouched (cell : Pos) (s : State) : Ends (execRouterPageSwitch cell s) s.Untouched := by
  unfold execRouterPageSwitch
  dsimp only
  repeat' split
  all_goals simp

@[simp] theorem execPeriodChecksum_untouched (cell : Pos) (s : State) : Ends (execPeriodChecksum cell s) s.Untouched := by
  unfold execPeriodChecksum
  dsimp only
  repeat' split
  all_goals simp

@[simp] theorem execCrossingAddrRead_untouched (hob : HobId) (xng : BitVec 16) (s : State) : Ends (execCrossingAddrRead hob xng s) s.Untouched := by
  unfold execCrossingAddrRead
  dsimp only
  split <;> simp

@[simp] theorem execCrossingIssue_untouched (hob : HobId) (xng : BitVec 16) (s : State) : Ends (execCrossingIssue hob xng s) s.Untouched := by
  unfold execCrossingIssue
  dsimp only
  split <;> simp

@[simp] theorem execCheckPoint_untouched (hob : HobId) (xng : BitVec 16) (s : State) : Ends (execCheckPoint hob xng s) s.Untouched := by
  unfold execCheckPoint
  dsimp only
  repeat' split
  all_goals simp

@[simp] theorem execHoldLimitExpiry_untouched (hob : HobId) (s : State) : Ends (execHoldLimitExpiry hob s) s.Untouched := by
  unfold execHoldLimitExpiry
  dsimp only
  split <;> simp

@[simp] theorem execEdgeCreditGrant_untouched (hob : HobId) (xng : BitVec 16) (s : State) : Ends (execEdgeCreditGrant hob xng s) s.Untouched := by
  unfold execEdgeCreditGrant
  dsimp only
  split <;> simp

@[simp] theorem execTransactionGrant_untouched (txn : Nat) (s : State) : Ends (execTransactionGrant txn s) s.Untouched := by
  unfold execTransactionGrant
  split <;> simp

@[simp] theorem execBlockLanding_untouched (txn : Nat) (data : List Byte) (crcOk : Bool) (s : State) :
    Ends (execBlockLanding txn data crcOk s) s.Untouched := by
  unfold execBlockLanding
  dsimp only
  repeat' split
  all_goals simp

@[simp] theorem execClientWriteAck_untouched (txn : Nat) (ok : Bool) (s : State) : Ends (execClientWriteAck txn ok s) s.Untouched := by
  unfold execClientWriteAck
  dsimp only
  repeat' split
  all_goals simp

@[simp] theorem execFenceLocalClose_untouched (hob : HobId) (s : State) : Ends (execFenceLocalClose hob s) s.Untouched := by
  unfold execFenceLocalClose
  dsimp only
  repeat' split
  all_goals simp

@[simp] theorem execStagedWriteForward_untouched (hob : HobId) (s : State) : Ends (execStagedWriteForward hob s) s.Untouched := by
  unfold execStagedWriteForward
  dsimp only
  split <;> simp

@[simp] theorem execHostAccessFault_untouched (what : HostAccess) (s : State) : Ends (execHostAccessFault what s) s.Untouched := by
  unfold execHostAccessFault State.hostFault
  dsimp only
  repeat' split
  all_goals simp

@[simp] theorem execSeqActFire_untouched (cell : Pos) (slot : SlotId) (s : State) : Ends (execSeqActFire cell slot s) s.Untouched := by
  unfold execSeqActFire
  dsimp only
  repeat' split
  all_goals simp

@[simp] theorem execSeqCtr_untouched (cell : Pos) (slot : SlotId) (s : State) : Ends (execSeqCtr cell slot s) s.Untouched := by
  unfold execSeqCtr
  dsimp only
  repeat' split
  all_goals simp

@[simp] theorem execSeqJump_untouched (cell : Pos) (slot : SlotId) (s : State) : Ends (execSeqJump cell slot s) s.Untouched := by
  unfold execSeqJump
  dsimp only
  repeat' split
  all_goals simp

@[simp] theorem execSeqHalt_untouched (cell : Pos) (slot : SlotId) (s : State) : Ends (execSeqHalt cell slot s) s.Untouched := by
  unfold execSeqHalt
  dsimp only
  split <;> simp

@[simp] theorem execSeqSendRetry_untouched (cell : Pos) (slot : SlotId) (s : State) : Ends (execSeqSendRetry cell slot s) s.Untouched := by
  unfold execSeqSendRetry
  dsimp only
  repeat' split
  all_goals simp

@[simp] theorem execMsgHeaderArrival_untouched (cell : Pos) (m : Msg) (s : State) : Ends (execMsgHeaderArrival cell m s) s.Untouched := by
  unfold execMsgHeaderArrival
  dsimp only
  repeat' split
  all_goals simp

@[simp] theorem execMsgLandingDone_untouched (cell : Pos) (landing : Nat) (data : List Byte) (crcOk : Bool) (s : State) :
    Ends (execMsgLandingDone cell landing data crcOk s) s.Untouched := by
  unfold execMsgLandingDone
  dsimp only
  split <;> simp

@[simp] theorem execMsgLandingTimeout_untouched (cell : Pos) (landing : Nat) (s : State) :
    Ends (execMsgLandingTimeout cell landing s) s.Untouched := by
  unfold execMsgLandingTimeout
  dsimp only
  split <;> simp

@[simp] theorem execMsgReply_untouched (hob : HobId) (origin : Origin) (tag : BitVec 16) (target : Nat) (status : Fin 8) (s : State) :
    Ends (execMsgReply hob origin tag target status s) s.Untouched := by
  unfold execMsgReply
  dsimp only
  repeat' split
  all_goals simp

@[simp] theorem execSendTimeout_untouched (hob : HobId) (origin : Origin) (tag : BitVec 16) (s : State) :
    Ends (execSendTimeout hob origin tag s) s.Untouched := by
  unfold execSendTimeout
  dsimp only
  split <;> simp

@[simp] theorem execMsgWaitRelaunch_untouched (hob : HobId) (origin : Origin) (tag : BitVec 16) (s : State) :
    Ends (execMsgWaitRelaunch hob origin tag s) s.Untouched := by
  unfold execMsgWaitRelaunch
  dsimp only
  split <;> simp

@[simp] theorem execMcastRelaunch_untouched (hob : HobId) (origin : Origin) (tag : BitVec 16) (target : Nat) (s : State) :
    Ends (execMcastRelaunch hob origin tag target s) s.Untouched := by
  unfold execMcastRelaunch
  dsimp only
  split <;> simp

@[simp] theorem execBroadcastAck_untouched (id : Nat) (target : Nat) (s : State) : Ends (execBroadcastAck id target s) s.Untouched := by
  unfold execBroadcastAck
  split <;> simp

@[simp] theorem execBroadcastRetry_untouched (id : Nat) (s : State) : Ends (execBroadcastRetry id s) s.Untouched := by
  unfold execBroadcastRetry
  split <;> simp

@[simp] theorem execStackReadRequest_untouched (txn : Nat) (badLines : List (Nat × Nat)) (s : State) :
    Ends (execStackReadRequest txn badLines s) s.Untouched := by
  unfold execStackReadRequest
  dsimp only
  repeat' split
  all_goals simp

@[simp] theorem execPatrolScrub_untouched (stack : StackId) (line : Nat) (badSymbols : Nat) (s : State) :
    Ends (execPatrolScrub stack line badSymbols s) s.Untouched := by
  unfold execPatrolScrub
  dsimp only
  repeat' split
  all_goals simp

@[simp] theorem execCaptureArm_untouched (hob : HobId) (s : State) : Ends (execCaptureArm hob s) s.Untouched := by
  unfold execCaptureArm
  dsimp only
  split <;> simp

@[simp] theorem execLoadRecipeDone_untouched (hob : HobId) (s : State) : Ends (execLoadRecipeDone hob s) s.Untouched := by
  unfold execLoadRecipeDone
  dsimp only
  split <;> simp

@[simp] theorem execRunSteps_untouched (ref : CmdRef) (hob : HobId) (count : Nat) (each : Bool) (buf bufLen stg stgLen : Nat) (s : State) :
    Ends (execRunSteps ref hob count each buf bufLen stg stgLen s) s.Untouched := by
  refine ends_done_of (State.command_untouched _ _ _ _ _ _ _ fun x => ?_)
  repeat' split
  all_goals simp

@[simp] theorem execJarRestore_untouched (ref : CmdRef) (hob : HobId) (slot : Fin 2) (dev : BitVec 16) (seq : Nat) (peerJar : Option Jar) (s : State) :
    Ends (execJarRestore ref hob slot dev seq peerJar s) s.Untouched := by
  refine ends_done_of (State.command_untouched _ _ _ _ _ _ _ fun x => ?_)
  dsimp only
  repeat' split
  all_goals simp

@[simp] theorem execQueryReport_untouched (ref : CmdRef) (hob : HobId) (addr len seq : Nat) (s : State) :
    Ends (execQueryReport ref hob addr len seq s) s.Untouched := by
  refine ends_done_of (State.command_untouched _ _ _ _ _ _ _ fun x => ?_)
  split <;> simp

@[simp] theorem execHobConfigShape_untouched (ref : CmdRef) (hob : HobId) (x0 y0 w h : Nat) (s : State) :
    Ends (execHobConfigShape ref hob x0 y0 w h s) s.Untouched := by
  refine ends_done_of (State.command_untouched _ _ _ _ _ _ _ fun x => State.ringPriv_untouched _ _ _ _ _ _ _ _ fun y => ?_)
  simp

@[simp] theorem execHobConfigPantry_untouched (ref : CmdRef) (hob : HobId) (gib : Nat) (s : State) :
    Ends (execHobConfigPantry ref hob gib s) s.Untouched := by
  refine ends_done_of (State.command_untouched _ _ _ _ _ _ _ fun x => State.ringPriv_untouched _ _ _ _ _ _ _ _ fun y => ?_)
  simp

@[simp] theorem execHobConfigPower_untouched (ref : CmdRef) (hob : HobId) (percent : Nat) (s : State) :
    Ends (execHobConfigPower ref hob percent s) s.Untouched := by
  refine ends_done_of (State.command_untouched _ _ _ _ _ _ _ fun x => State.ringPriv_untouched _ _ _ _ _ _ _ _ fun y => ?_)
  simp

@[simp] theorem execHobConfigJars_untouched (ref : CmdRef) (hob : HobId) (mode : Nat) (s : State) :
    Ends (execHobConfigJars ref hob mode s) s.Untouched := by
  refine ends_done_of (State.command_untouched _ _ _ _ _ _ _ fun x => State.ringPriv_untouched _ _ _ _ _ _ _ _ fun y => ?_)
  simp

@[simp] theorem execHobConfigTest_untouched (ref : CmdRef) (hob : HobId) (minutes : Nat) (failed : List (Pos × BitVec 12)) (s : State) :
    Ends (execHobConfigTest ref hob minutes failed s) s.Untouched := by
  refine ends_done_of (State.command_untouched _ _ _ _ _ _ _ fun x => State.ringPriv_untouched _ _ _ _ _ _ _ _ fun y => ?_)
  simp

@[simp] theorem execLnpSessionFrame_untouched (port : LnpId) (f : Frame) (decoded tagOk : Bool) (msg : SessionMsg) (s : State) :
    Ends (execLnpSessionFrame port f decoded tagOk msg s) s.Untouched := by
  unfold execLnpSessionFrame
  dsimp only
  repeat' split
  all_goals simp

@[simp] theorem execLnpIdleSend_untouched (port : LnpId) (s : State) : Ends (execLnpIdleSend port s) s.Untouched := by
  unfold execLnpIdleSend
  dsimp only
  repeat' split
  all_goals simp

@[simp] theorem execLnpRtmoExpiry_untouched (port : LnpId) (txn : Nat) (s : State) : Ends (execLnpRtmoExpiry port txn s) s.Untouched := by
  unfold execLnpRtmoExpiry
  split <;> simp

@[simp] theorem execTraceWindow_untouched (cell : Pos) (s : State) : Ends (execTraceWindow cell s) s.Untouched := by
  unfold execTraceWindow
  dsimp only
  split <;> simp

@[simp] theorem execTasterSampleShip_untouched (cell : Pos) (s : State) : Ends (execTasterSampleShip cell s) s.Untouched := by
  unfold execTasterSampleShip
  dsimp only
  repeat' split
  all_goals simp

@[simp] theorem execTasterVerdict_untouched (cell : Pos) (mismatch : Bool) (s : State) : Ends (execTasterVerdict cell mismatch s) s.Untouched := by
  unfold execTasterVerdict
  dsimp only
  repeat' split
  all_goals simp

@[simp] theorem execTasterSampleAbandon_untouched (cell : Pos) (s : State) : Ends (execTasterSampleAbandon cell s) s.Untouched := by
  unfold execTasterSampleAbandon
  dsimp only
  split <;> simp

@[simp] theorem execFaultReport_untouched (cell : Pos) (code : FaultCode) (unit : BitVec 12) (s : State) :
    Ends (execFaultReport cell code unit s) s.Untouched := by
  unfold execFaultReport
  dsimp only
  repeat' split
  all_goals simp

@[simp] theorem execDecantRackLocal_untouched (cell : Pos) (readable imageOk : Bool) (s : State) :
    Ends (execDecantRackLocal cell readable imageOk s) s.Untouched := by
  unfold execDecantRackLocal
  dsimp only
  split <;> simp

@[simp] theorem execFunctionalCheckResult_untouched (cell : Pos) (pass : Bool) (s : State) :
    Ends (execFunctionalCheckResult cell pass s) s.Untouched := by
  unfold execFunctionalCheckResult
  dsimp only
  repeat' split
  all_goals simp

@[simp] theorem execDecantFar_untouched (far : FarDecant) (s : State) : Ends (execDecantFar far s) s.Untouched := by
  unfold execDecantFar
  dsimp only
  repeat' split
  all_goals simp

@[simp] theorem execStationReplace_untouched (hob : HobId) (imageOk : Bool) (s : State) : Ends (execStationReplace hob imageOk s) s.Untouched := by
  unfold execStationReplace
  extract_lets h ns s1 s2 s3
  have hplaced : s.Untouched s1 := State.each_untouched _ _ _ fun x n => by
    dsimp only
    split
    · next hplace =>
      have hfar := State.placeHomeless_untouched hplace
      split <;> simp [hfar]
    · simp
  clear_value s1
  simp [s3, s2, hplaced]

@[simp] theorem execConditionEval_untouched (cell : Pos) (s : State) : Ends (execConditionEval cell s) s.Untouched := by
  unfold execConditionEval
  dsimp only
  repeat' split
  all_goals simp

@[simp] theorem execRotationStep_untouched (hob : Option HobId) (s : State) : Ends (execRotationStep hob s) s.Untouched := by
  unfold execRotationStep
  dsimp only
  repeat' split
  all_goals simp

@[simp] theorem execScanTestDone_untouched (cell : Pos) (pass inWindow : Bool) (unit : BitVec 12) (s : State) :
    Ends (execScanTestDone cell pass inWindow unit s) s.Untouched := by
  unfold execScanTestDone
  extract_lets p r q x cc common valid arbiter g work s1 s2 back s3 s4
  have hcounted : s.Untouched s1 := by dsimp only [s1]; split <;> simp
  have hoff : s.Untouched s2 := by dsimp only [s2]; split <;> simp [hcounted]
  have hback : ∀ u : State, u.Untouched (back u) := fun u => by simp [back]
  have htested : s.Untouched s3 := by
    dsimp only [s3]
    clear_value arbiter s2 back
    repeat' split
    all_goals simp [hback, hoff]
  have hheld : s.Untouched s4 := by
    dsimp only [s4]
    clear_value s3
    repeat' split
    all_goals simp [htested]
  clear_value s4
  simp [hheld]

theorem State.injectError_untouched {s t : State} {h n check word : Nat} {code : Option Nat}
    (ht : s.injectError h n check word = some (t, code)) : s.Untouched t := by
  unfold State.injectError at ht
  dsimp only at ht
  repeat' split at ht
  all_goals cases ht
  all_goals simp [(execResidueFault_untouched _ _ _ _).after, (execBlockLanding_untouched _ _ _ _).after]

@[simp] theorem execPerturbInject_untouched (i : Fin 16) (word : Nat) (s : State) : Ends (execPerturbInject i word s) s.Untouched := by
  unfold execPerturbInject
  extract_lets x h v early
  split
  · simp
  · split
    · simp
    · next hinject =>
      have herror := State.injectError_untouched hinject
      dsimp only
      split <;> simp [herror]

@[simp] theorem execAshUnitTimeout_untouched (kind : Fin 10) (index : Nat) (s : State) : Ends (execAshUnitTimeout kind index s) s.Untouched := by
  unfold execAshUnitTimeout
  split <;> simp

@[simp] theorem execAshReadout_untouched (who : Who) (seq : Nat) (s : State) : Ends (execAshReadout who seq s) s.Untouched := by
  unfold execAshReadout
  repeat' split
  all_goals simp

@[simp] theorem execJarSetPlan_untouched (hob : HobId) (fence seq : Nat) (slot : Fin 2) (lead : BitVec 13) (s : State) :
    Ends (execJarSetPlan hob fence seq slot lead s) s.Untouched := by
  unfold execJarSetPlan
  dsimp only
  repeat' split
  all_goals simp

@[simp] theorem execJarSeal_untouched (hob : HobId) (s : State) : Ends (execJarSeal hob s) s.Untouched := by
  unfold execJarSeal
  dsimp only
  repeat' split
  all_goals simp

@[simp] theorem execJarSealReport_untouched (hob : HobId) (r : SealReport) (s : State) : Ends (execJarSealReport hob r s) s.Untouched := by
  unfold execJarSealReport
  dsimp only
  repeat' split
  all_goals simp

@[simp] theorem execMaintWindowStart_untouched (s : State) : Ends (execMaintWindowStart s) s.Untouched := by
  unfold execMaintWindowStart
  split <;> simp

@[simp] theorem execMaintWindowEnd_untouched (s : State) : Ends (execMaintWindowEnd s) s.Untouched := by
  unfold execMaintWindowEnd
  split <;> simp

@[simp] theorem execIdeKmQuery_untouched (session : Nat) (s : State) : Ends (execIdeKmQuery session s) s.Untouched := by
  unfold execIdeKmQuery
  repeat' split
  all_goals simp

/-! ### Operations that change one service -/

@[simp] theorem State.hearthReset_pmbus (s : State) (why : Nat) : (s.hearthReset why).pmbus = s.pmbus := by
  unfold State.hearthReset
  dsimp only
  repeat' split
  all_goals simp

@[simp] theorem State.bootHearth_sessions (s : State) (okA okB : Bool) : (s.bootHearth okA okB).sessions = s.sessions := by
  simp [State.bootHearth]

@[simp] theorem State.bootHearth_pmbus (s : State) (okA okB : Bool) : (s.bootHearth okA okB).pmbus = s.pmbus := by
  simp [State.bootHearth]

@[simp] theorem State.modFw_sessions (s : State) (f : Fw → Fw) : (s.modFw f).sessions = s.sessions := by simp [State.modFw]

@[simp] theorem State.modFw_pmbus (s : State) (f : Fw → Fw) : (s.modFw f).pmbus = s.pmbus := by simp [State.modFw]

@[simp] theorem State.startFirmware_pmbus (s : State) : s.startFirmware.pmbus = s.pmbus := by
  simp [State.startFirmware]

@[simp] theorem State.setSession_fw (s : State) (n : Nat) (x : Session) : (s.setSession n x).fw = s.fw := rfl

@[simp] theorem State.setSession_pmbus (s : State) (n : Nat) (x : Session) : (s.setSession n x).pmbus = s.pmbus := rfl

@[simp] theorem State.inSession_fw (s : State) (n : Nat) (what : String) (act : Session → Session) : (s.inSession n what act).fw = s.fw := by
  simp [State.inSession]

@[simp] theorem State.inSession_pmbus (s : State) (n : Nat) (what : String) (act : Session → Session) : (s.inSession n what act).pmbus = s.pmbus := by
  simp [State.inSession]

/-- An installer action of the firmware leaves the sessions if what it does leaves them. -/
@[simp] theorem State.fwAct_sessions (s : State) (who : Who) (args : List Nat) (refuse : Nat) (act : State → State)
    (hact : ∀ x : State, (act x).sessions = x.sessions) : (s.fwAct who args refuse act).sessions = s.sessions := by
  unfold State.fwAct State.priv
  dsimp only
  repeat' split
  all_goals simp [hact]

@[simp] theorem State.fwAct_pmbus (s : State) (who : Who) (args : List Nat) (refuse : Nat) (act : State → State)
    (hact : ∀ x : State, (act x).pmbus = x.pmbus) : (s.fwAct who args refuse act).pmbus = s.pmbus := by
  unfold State.fwAct State.priv
  dsimp only
  repeat' split
  all_goals simp [hact]

/-! ### Commands of the lists -/

@[simp] theorem execAshCaptureDone_frame (ms : Nat) (s : State) :
    Ends (execAshCaptureDone ms s) fun t => t.sessions = s.sessions ∧ t.fw = s.fw ∧ t.pmbus = s.pmbus := by
  unfold execAshCaptureDone
  repeat' split
  all_goals simp

@[simp] theorem execBroadcastUnacked_frame (id target : Nat) (s : State) :
    Ends (execBroadcastUnacked id target s) fun t => t.sessions = s.sessions ∧ t.fw = s.fw ∧ t.pmbus = s.pmbus := by
  unfold execBroadcastUnacked
  dsimp only
  split <;> simp

@[simp] theorem execCellHeartbeatMiss_frame (cell : Pos) (s : State) :
    Ends (execCellHeartbeatMiss cell s) fun t => t.sessions = s.sessions ∧ t.fw = s.fw ∧ t.pmbus = s.pmbus := by
  unfold execCellHeartbeatMiss
  dsimp only
  split <;> simp

@[simp] theorem execCellsTested_frame (fuse : FuseRead) (failed : List (Pos × BitVec 12)) (wires : List (Pos × Fin 23 × List Nat)) (s : State) :
    Ends (execCellsTested fuse failed wires s) fun t => t.mem = s.mem ∧ t.sessions = s.sessions ∧ t.pmbus = s.pmbus := by
  simp [execCellsTested]

@[simp] theorem execCopyDone_frame (hob : HobId) (ok : Bool) (moved : Nat) (data : Moved) (s : State) :
    Ends (execCopyDone hob ok moved data s) fun t => t.sessions = s.sessions ∧ t.fw = s.fw ∧ t.pmbus = s.pmbus := by
  unfold execCopyDone
  dsimp only
  split
  · simp
  · rw [ends_ite]
    split
    · simp
    · rw [ends_done]
      split
      · simp
      · next hout =>
        split at hout
        · have hstored := State.storeRun_services hout
          refine State.SameServices.trans (.trans ?_ hstored) (by simp)
          repeat' split
          all_goals simp
        · cases hout
          simp only [State.SameServices, State.complete_frame, State.modHob_frame, State.emit_frame]
          split <;> simp

@[simp] theorem execHearthResetDone_frame (s : State) :
    Ends (execHearthResetDone s) fun t => t.sessions = s.sessions ∧ t.pmbus = s.pmbus := by
  unfold execHearthResetDone
  split
  · simp
  · extract_lets away s1 resets pins s2 s3 s4
    have hboot : s1.sessions = s.sessions ∧ s1.pmbus = s.pmbus := by simp [s1]
    have hhobs : s2.SameServices s3 := State.each_services _ _ _ fun x h => by
      dsimp only
      split <;> simp
    have hcold : s3.SameServices s4 := by
      dsimp only [s4]
      split <;> simp
    have hends : ∀ t : State, s4.SameServices t → t.sessions = s.sessions ∧ t.pmbus = s.pmbus := fun t ht =>
      ⟨ht.1.trans (hcold.1.trans (hhobs.1.trans hboot.1)), ht.2.2.trans (hcold.2.2.trans (hhobs.2.2.trans hboot.2))⟩
    clear_value s4
    rw [ends_ite, ends_ite, ends_done, ends_done, ends_done]
    split
    · exact ⟨rfl, rfl⟩
    · split
      · exact hboot
      · exact hends _ (State.foldl_services _ _ _ fun x r => by repeat' split <;> simp)

@[simp] theorem execHobConfigMemory_frame (ref : CmdRef) (hob : HobId) (stack extents : Nat) (s : State) :
    Ends (execHobConfigMemory ref hob stack extents s) fun t => t.sessions = s.sessions ∧ t.fw = s.fw ∧ t.pmbus = s.pmbus := by
  simp [execHobConfigMemory, State.ringPriv]

@[simp] theorem execJarRestoreDone_frame (hob : HobId) (tagsOk : Bool) (s : State) :
    Ends (execJarRestoreDone hob tagsOk s) fun t => t.sessions = s.sessions ∧ t.fw = s.fw ∧ t.pmbus = s.pmbus := by
  unfold execJarRestoreDone
  dsimp only
  repeat' split
  all_goals simp

@[simp] theorem execMemoriesUp_frame (bad : List (StackId × Nat)) (copyOk : Bool) (badS0 badS6 : List Nat) (s : State) :
    Ends (execMemoriesUp bad copyOk badS0 badS6 s) fun t => t.sessions = s.sessions ∧ t.fw = s.fw ∧ t.pmbus = s.pmbus := by
  simp [execMemoriesUp]

@[simp] theorem execPageDrainDone_frame (hob : HobId) (drained : Drained) (s : State) :
    Ends (execPageDrainDone hob drained s) fun t => t.sessions = s.sessions ∧ t.fw = s.fw ∧ t.pmbus = s.pmbus := by
  unfold execPageDrainDone
  dsimp only
  repeat' split
  all_goals simp

@[simp] theorem execRegisterWrite_frame (who : Who) (w : RegWrite) (s : State) :
    Ends (execRegisterWrite who w s) fun t => t.sessions = s.sessions ∧ t.fw = s.fw ∧ t.pmbus = s.pmbus := by
  unfold execRegisterWrite
  cases w
  all_goals simp

@[simp] theorem execResetTimeout_frame (domain : Fin 10) (index : Nat) (s : State) :
    Ends (execResetTimeout domain index s) fun t => t.sessions = s.sessions ∧ t.fw = s.fw ∧ t.pmbus = s.pmbus := by
  unfold execResetTimeout
  dsimp only
  repeat' split
  all_goals simp

@[simp] theorem execStackWriteRequest_frame (txn : Nat) (crcOk : Bool) (s : State) :
    Ends (execStackWriteRequest txn crcOk s) fun t => t.sessions = s.sessions ∧ t.fw = s.fw ∧ t.pmbus = s.pmbus := by
  unfold execStackWriteRequest
  dsimp only
  split
  · simp
  · rw [ends_ite]
    split
    · simp
    · rw [ends_ite]
      split
      · simp
      · split
        · simp
        · next hstore =>
          have hstored := State.storeBlock_services hstore
          split <;> simp [hstored]

@[simp] theorem execWindowQuiesceEnd_frame (cell : Pos) (win : WinId) (s : State) :
    Ends (execWindowQuiesceEnd cell win s) fun t => t.sessions = s.sessions ∧ t.fw = s.fw ∧ t.pmbus = s.pmbus := by
  unfold execWindowQuiesceEnd
  dsimp only
  repeat' split
  all_goals simp

/-! ### The four lists -/

/-- The commands that may write stack memory. -/
def writesMem : Instr → Bool
  | .powerGoodDeassert | .vinFault .. | .clocksUp .. | .memoriesUp .. | .thermalTrip .. | .tripRestart | .windowQuiesceEnd ..
  | .stackWriteRequest .. | .pageDrainDone .. | .zeroiseDone .. | .stackCtrlReset .. | .jarRestoreDone ..
  | .hobConfigMemory .. | .hobRelease .. | .cellHeartbeatMiss .. | .cellRequestTimeout .. | .broadcastUnacked ..
  | .quarterHoldUnconfirmed .. | .stackCtrlHang .. | .lanperEngineHang .. | .hostPortHang .. | .hobStopTimeout ..
  | .rimTokenLoss | .resetTimeout .. | .cellReset .. | .rackReset .. | .lnpPortReset .. | .hostPortReset .. | .quarterReset ..
  | .hobReset .. | .warmReset .. | .coldReset .. | .hearthResetDone | .ashCaptureDone .. | .rstCmdWarm .. | .rstCmdCold ..
  | .rstCmdRestore .. | .rstCmdAsh .. | .rstCmdLockAsh .. | .rstCmdReleaseAsh .. | .takeOwnership .. | .grantSet ..
  | .credentialSet .. | .registerWrite .. | .copyDone .. => true
  | _ => false

/-- The commands that may change SPDM sessions. -/
def changesSessions : Instr → Bool
  | .powerGoodDeassert | .vinFault .. | .hearthLockstepMismatch | .hearthWatchdogExpiry | .hearthReset | .fwRevert ..
  | .activateFirmware .. | .keyExchange .. | .finish .. | .keyUpdate .. | .heartbeat .. | .endSession .. => true
  | _ => false

/-- The commands that may change the firmware slots. -/
def changesFw : Instr → Bool
  | .powerGoodDeassert | .vinFault .. | .hearthBootDone .. | .clocksUp .. | .cellsTested .. | .hearthLockstepMismatch
  | .hearthWatchdogExpiry | .hearthReset | .hearthResetDone | .fwConfirm .. | .fwRevert .. | .fwGoodTimer | .requestUpdate ..
  | .passComponentTable .. | .updateComponent .. | .firmwareData .. | .verifyComplete .. | .activateFirmware ..
  | .activateTimeout | .cancelUpdateComponent .. | .cancelUpdate .. | .applyComplete => true
  | _ => false

/-- The commands that may change the PMBus registers. -/
def changesPmbus : Instr → Bool
  | .powerGoodDeassert | .vinFault .. | .page .. | .clearFaults | .pmbusRefresh => true
  | _ => false

/-- No list names the command. -/
def quiet (c : Instr) : Bool := !(writesMem c || changesSessions c || changesFw c || changesPmbus c)

theorem exec_untouched {c : Instr} (hquiet : quiet c = true) (s : State) : Ends (exec c s) s.Untouched := by
  revert hquiet
  cases c
  all_goals simp [exec, quiet, writesMem, changesSessions, changesFw, changesPmbus,
    execPowerGood, execVinLow, execPerstAssert, execPerstDeassert, execHandover, execPowerCapLift, execDamperTick,
    execDroop, execThermalDutyTick, execThermalHold, execHobCycleAdvance, execSpareRowRemap, execHoldEdge, execHoldRelease,
    execSimmerWindow, execSimmerDutyUpdate, execStepFence, execPeerFenceReport, execStepTimerExpiry, execRefresh,
    execStackRowRepair, execPcSpareStart, execPcSpareDone, execStackPowerDown, execStackCtrlResetDone, execDoorbellPoll,
    execDoorbellLineReturn, execSqeArrival, execCqInterruptTimer, execLoadRecipe, execFenceWait, execFenceStop, execCopy,
    execWindowOpen, execWindowClose, execJarTake, execQueryState, execQueryHobMap, execQueryDistance, execQueryTelemetry,
    execQueryGrants, execQueryLostEvents, execQueryLog, execHpAuthMac, execAuthLockoutEnd, execRingEnable, execRingDisable,
    execHostLoss, execFlr, execLnpDataFrame, execLnpIdleFrame, execLnpNakFrame, execLnpKeyStep, execLnpEn, execLnpPark,
    execLnpTrainingDone, execLnpTrainingTimeout, execLnpLaneFail, execLnpRetrainDone, execLnpLinkSilent, execLnpDownRetry,
    execLnpRelightDone, execLnpBeacon, execLaserWearCheck, execJarRead, execReplayStart, execScoreHourly, execParoleStart,
    execParoleTest, execRetireAdviceEval, execUntestedAgeAlert, execTmtRowStart, execTmtRowDone, execPerturbSet,
    execPerturbHold, execPerturbExpiry, execCellResetDone, execRouterIslandReset, execAshCapture, execJarDue,
    execJarMtbiGather, execNandBlockFail, execPantryScrub, execDeepIdleEntry, execHrtIdlEn, execLogSeal, execLogReadout,
    execRsvWindowSet, execPowerLimitSet, execMaintWindowDeclare, execAvlYearRollover, execLicenceInstall, execLicenceRemove,
    execMakerTokenUse, execJtagUnlock, execFuseMapWrite, execTestContentInstall, execCellOverride, execTrustListChange,
    execQueryDeviceIdentifiers, execGetFirmwareParameters, execGetStatus, execGetVersion, execGetCapabilities,
    execNegotiateAlgorithms, execGetDigests, execGetCertificate, execChallenge, execGetMeasurements, execKeyProg,
    execKSetGo, execKSetStop, execSetEndpointId, execMctpControl, execReadVin, execReadIin, execReadPin, execReadVout,
    execReadIout, execReadPout, execReadTemperature1, execReadTemperature2, execReadTemperature3, execStatusWord,
    execStatusInput, execStatusIout, execStatusTemperature, execPmbusRevision, execCapability, execMfrId, execMfrModel,
    execMfrSerial, execPmbusWriteRefused, execPeerFenceFailed, execRackResetDone, execQuarterResetDone, execHobResetDone,
    execHostPortResetDone, execLnpPortResetDone]

/-- Every command completes, and of the four parts leaves each whose list does not name it. -/
theorem exec_leaves (c : Instr) (s : State) :
    Ends (exec c s) fun t => (writesMem c = false → t.mem = s.mem) ∧ (changesSessions c = false → t.sessions = s.sessions) ∧
      (changesFw c = false → t.fw = s.fw) ∧ (changesPmbus c = false → t.pmbus = s.pmbus) := by
  by_cases hquiet : quiet c = true
  · exact (exec_untouched hquiet s).imp fun t h => ⟨fun _ => h.1, fun _ => h.2.1, fun _ => h.2.2.1, fun _ => h.2.2.2⟩
  · revert hquiet
    cases c
    all_goals simp [exec, quiet, writesMem, changesSessions, changesFw, changesPmbus,
    execPowerGoodDeassert, execVinFault, execHearthBootDone, execClocksUp, execThermalTrip, execTripRestart,
    execZeroiseDone, execStackCtrlReset, execHobRelease, execCellRequestTimeout, execQuarterHoldUnconfirmed,
    execStackCtrlHang, execLanperEngineHang, execHostPortHang, execHobStopTimeout, execRimTokenLoss,
    execHearthLockstepMismatch, execHearthWatchdogExpiry, execCellReset, execRackReset, execLnpPortReset, execHostPortReset,
    execQuarterReset, execHobReset, execWarmReset, execColdReset, execHearthReset, execRstCmdWarm, execRstCmdCold,
    execRstCmdRestore, execRstCmdAsh, execRstCmdLockAsh, execRstCmdReleaseAsh, execTakeOwnership, execGrantSet,
    execCredentialSet, execFwConfirm, execFwRevert, execFwGoodTimer, execRequestUpdate, execPassComponentTable,
    execUpdateComponent, execFirmwareData, execVerifyComplete, execActivateFirmware, execActivateTimeout,
    execCancelUpdateComponent, execCancelUpdate, execKeyExchange, execFinish, execKeyUpdate, execHeartbeat, execEndSession,
    execPage, execClearFaults, execPmbusRefresh, execApplyComplete]

/-- What a Boolean list leaves open holds wherever the list is `true`. -/
theorem cond_of {b : Bool} {X : Prop} (h : b = false → X) : cond b True X := by
  cases b
  · exact h rfl
  · trivial

/-- Settles O56: every command is made of operations of which the lemmas above say once each which of the four parts they leave. -/
theorem commandsLeaveWhatIsNotTheirs : Obligations.CommandsLeaveWhatIsNotTheirs := by
  unfold Obligations.CommandsLeaveWhatIsNotTheirs
  refine ⟨?mem, ?sessions, ?fw, ?pmbus⟩
  case mem =>
    intro c s
    have hmem := cond_of (b := writesMem c) fun h => (exec_leaves c s).imp fun t g => g.1 h
    cases c
    all_goals exact hmem
  case sessions =>
    intro c s
    have hsessions := cond_of (b := changesSessions c) fun h => (exec_leaves c s).imp fun t g => g.2.1 h
    cases c
    all_goals exact hsessions
  case fw =>
    intro c s
    have hfw := cond_of (b := changesFw c) fun h => (exec_leaves c s).imp fun t g => g.2.2.1 h
    cases c
    all_goals exact hfw
  case pmbus =>
    intro c s
    have hpmbus := cond_of (b := changesPmbus c) fun h => (exec_leaves c s).imp fun t g => g.2.2.2 h
    cases c
    all_goals exact hpmbus

end Sys2Proof.Machine
end

section
/-! STACK_READ_REQUEST and STACK_WRITE_REQUEST (R189, R192 to R195, R202, R205, R206, R209). -/

namespace Sys2Proof.Machine

open Sys2Proof

/-! ### Device addresses -/

theorem relStack_lt (a : Nat) : relStack a < 16 := Nat.mod_lt _ (by decide)

/-- A device address is its extent's place on the stack that the hob-relative address names, with the same offset. -/
theorem Hob.devAddr_eq {h : Hob} {a dev : Nat} (hdev : h.devAddr a = some dev) :
    relStack a < 12 ∧ ∃ k, dev = relStack a * 2 ^ 37 + (h.ext.get {} k).dev.toNat * 2 ^ 28 + bits 27 0 a ∧ (h.ext.get {} k).valid = true := by
  unfold Hob.devAddr at hdev
  dsimp only at hdev
  split at hdev
  · next hrange =>
    split at hdev
    · next hvalid =>
      cases hdev
      simp only [Bool.and_eq_true, decide_eq_true_eq] at hrange
      exact ⟨hrange.1.2, _, rfl, hvalid⟩
    · cases hdev
  · cases hdev

theorem devAddrOk_of_extent {st e off : Nat} (hst : st < 12) (he : e < 352) (hoff : off < 2 ^ 28) :
    devAddrOk (st * 2 ^ 37 + e * 2 ^ 28 + off) = true ∧ (st * 2 ^ 37 + e * 2 ^ 28 + off) / 2 ^ 37 = st ∧
    (st * 2 ^ 37 + e * 2 ^ 28 + off) % 2 ^ 28 = off := by
  have hbits : bits 47 41 (st * 2 ^ 37 + e * 2 ^ 28 + off) = 0 ∧ bits 40 37 (st * 2 ^ 37 + e * 2 ^ 28 + off) < 12 ∧
      bits 36 0 (st * 2 ^ 37 + e * 2 ^ 28 + off) < stackBytes := by
    simp only [bits, stackBytes, Nat.reduceSub, Nat.reduceAdd, Nat.reducePow]
    omega
  obtain ⟨hhigh, hstack, hlow⟩ := hbits
  refine ⟨?_, ?_, ?_⟩
  · rw [devAddrOk, hhigh, decide_eq_true hstack, decide_eq_true hlow]
    rfl
  · omega
  · omega

theorem Tab.get_mem {α : Type} (d : α) (t : Tab α) (k : Nat) : t.get d k = d ∨ (k, t.get d k) ∈ t := by
  induction t with
  | nil => exact .inl rfl
  | cons e t ih =>
    obtain ⟨j, v⟩ := e
    unfold Tab.get
    split
    · next hj => exact .inr (by rw [hj]; exact List.mem_cons_self ..)
    · exact ih.imp id (List.mem_cons_of_mem _)

/-- Where the extents of a hob are extents of a stack, what its addresses reach has memory behind it (R189, R192). -/
theorem Hob.devAddr_ok {h : Hob} {a dev : Nat} (hext : ∀ e ∈ h.ext, e.2.dev.toNat < 352) (hdev : h.devAddr a = some dev) :
    devAddrOk dev = true ∧ dev / 2 ^ 37 = relStack a ∧ dev % 2 ^ 28 = a % 2 ^ 28 := by
  obtain ⟨hstack, k, rfl, hvalid⟩ := Hob.devAddr_eq hdev
  have hmem : (k, h.ext.get {} k) ∈ h.ext := (Tab.get_mem {} h.ext k).resolve_left fun hdef => by rw [hdef] at hvalid; cases hvalid
  have hoff : bits 27 0 a = a % 2 ^ 28 := by simp [bits]
  rw [← hoff]
  exact devAddrOk_of_extent hstack (hext _ hmem) (by omega)

/-! ### Reads of lines -/

theorem State.redirect_none {s : State} (hrdrs : s.rdrs = []) (dev : Nat) : s.redirect dev = dev := by
  simp [State.redirect, hrdrs]

theorem State.memBytes_add (s : State) (key dev m n : Nat) :
    s.memBytes key dev (m + n) = s.memBytes key dev m ++ s.memBytes key (dev + m) n := by
  simp [State.memBytes, List.range_add, Nat.add_assoc]

/-- The lines of `n` runs of 64 B from a device address are good: no bad symbol, no poison, on readable pseudo-channels. -/
def State.linesGood (s : State) (dev n : Nat) : Prop :=
  ∀ i < n, (s.lines.get {} ((dev + 64 * i) / 64)).poison = false ∧ s.errs.get 0 ((dev + 64 * i) / 64) = 0

theorem State.readLine_good {s : State} {dev : Nat} (hpc : (s.stack (bits 40 37 dev)).pcDead = [])
    (hpoison : (s.lines.get {} (dev / 64)).poison = false) (herrs : s.errs.get 0 (dev / 64) = 0) : s.readLine dev = (0, s) := by
  simp [State.readLine, hpc, hpoison, herrs]

/-- Good lines are read as memory holds them, and the state stays (R202). -/
theorem State.readLines_good {s : State} {dev : Nat} (key : Nat) (hrdrs : s.rdrs = []) (hpc : ∀ k < 16, (s.stack k).pcDead = []) (n : Nat)
    (hgood : s.linesGood dev n) : s.readLines key dev n = ([], [], s.memBytes key dev (64 * n), s) := by
  induction n with
  | zero => rfl
  | succ n ih =>
    have hread : s.readLine (dev + 64 * n) = (0, s) :=
      State.readLine_good (hpc _ (Nat.mod_lt _ (by decide))) (hgood n (Nat.lt_succ_self n)).1 (hgood n (Nat.lt_succ_self n)).2
    have hprefix := ih fun i hi => hgood i (Nat.lt_succ_of_lt hi)
    simp only [State.readLines] at hprefix
    simp [State.readLines, List.range_succ, hprefix, State.redirect_none hrdrs, hread, Nat.mul_succ, State.memBytes_add]

/-- Between two states no line changes its key, and none that was poisoned loses that. -/
def State.keepsLines (s t : State) : Prop :=
  ∀ l, (t.lines.get {} l).key = (s.lines.get {} l).key ∧ ((s.lines.get {} l).poison = true → (t.lines.get {} l).poison = true)

theorem State.keepsLines.refl (s : State) : s.keepsLines s := fun _ => ⟨rfl, id⟩

theorem State.keepsLines.trans {s t u : State} (a : s.keepsLines t) (b : t.keepsLines u) : s.keepsLines u :=
  fun l => ⟨(b l).1.trans (a l).1, (b l).2 ∘ (a l).2⟩

theorem State.readLine_keepsLines (s : State) (dev : Nat) : s.keepsLines (s.readLine dev).2 := by
  intro l
  unfold State.readLine
  dsimp only
  split
  · change (Tab.get {} (s.lines.put {} (dev / 64) { s.lines.get {} (dev / 64) with poison := true }) l).key = _ ∧
      (_ → (Tab.get {} (s.lines.put {} (dev / 64) { s.lines.get {} (dev / 64) with poison := true }) l).poison = true)
    rw [Tab.get_put]
    split
    · next hl => rw [hl]; exact ⟨rfl, fun _ => rfl⟩
    · exact ⟨rfl, id⟩
  · dsimp only
    split <;> exact ⟨rfl, id⟩

/-- A line with two bad symbols is read as bad and is poisoned from then on (R202). -/
theorem State.readLine_bad {s : State} {dev : Nat} (herrs : 2 ≤ s.errs.get 0 (dev / 64)) (hpoison : (s.lines.get {} (dev / 64)).poison = false) :
    (s.readLine dev).1 = 1 ∧ ((s.readLine dev).2.lines.get {} (dev / 64)).poison = true := by
  have hbad : ((s.stack (bits 40 37 dev)).pcDead.contains (pcOf dev) ||
      (decide (s.errs.get 0 (dev / 64) ≥ 2) && !(s.lines.get {} (dev / 64)).poison)) = true := by simp [herrs, hpoison]
  unfold State.readLine
  dsimp only
  rw [if_pos hbad]
  refine ⟨rfl, ?_⟩
  change (Tab.get {} (s.lines.put {} (dev / 64) { s.lines.get {} (dev / 64) with poison := true }) (dev / 64)).poison = true
  rw [Tab.get_put, if_pos rfl]

/-- Its stack counts it (R204). -/
theorem State.readLine_bad_stack {s : State} {dev : Nat} (herrs : 2 ≤ s.errs.get 0 (dev / 64))
    (hpoison : (s.lines.get {} (dev / 64)).poison = false) :
    (s.readLine dev).2.stack (bits 40 37 dev) = (s.stack (bits 40 37 dev)).uncorrectable dev s.lifeMs := by
  have hbad : ((s.stack (bits 40 37 dev)).pcDead.contains (pcOf dev) ||
      (decide (s.errs.get 0 (dev / 64) ≥ 2) && !(s.lines.get {} (dev / 64)).poison)) = true := by simp [herrs, hpoison]
  unfold State.readLine
  dsimp only
  rw [if_pos hbad, State.stack_setStack, if_pos rfl]

/-- A line struck with some symbols has at least them. -/
theorem State.strike_errs (s : State) (dev symbols : Nat) : symbols ≤ (s.strike dev symbols).errs.get 0 (dev / 64) := by
  unfold State.strike
  split
  · next hzero => rw [hzero]; exact Nat.zero_le _
  · change symbols ≤ Tab.get 0 (s.errs.put 0 (dev / 64) (s.errs.get 0 (dev / 64) + symbols)) (dev / 64)
    rw [Tab.get_put, if_pos rfl]
    exact Nat.le_add_left ..

/-- What a read of lines whose first is bad has found so far: that line, poisoned. -/
structure FirstBad (s : State) (v : List Nat × List Nat × List Byte × State) : Prop where
  found : 0 ∈ v.1
  lines : s.keepsLines v.2.2.2

theorem State.readLines_firstBad {s : State} {dev n : Nat} (key : Nat) (hrdrs : s.rdrs = []) (hbad : (s.readLine dev).1 = 1) :
    FirstBad (s.readLine dev).2 (s.readLines key dev (n + 1)) := by
  unfold State.readLines
  rw [List.range_succ_eq_map, List.foldl_cons]
  have hwalk : ∀ (l : List Nat) (f : (List Nat × List Nat × List Byte × State) → Nat → (List Nat × List Nat × List Byte × State))
      (v : List Nat × List Nat × List Byte × State), (∀ v i, 0 ∈ v.1 → 0 ∈ (f v i).1) →
      (∀ (v : List Nat × List Nat × List Byte × State) i, v.2.2.2.keepsLines (f v i).2.2.2) →
      FirstBad (s.readLine dev).2 v → FirstBad (s.readLine dev).2 (l.foldl f v) := by
    intro l f v hfound hlines hv
    induction l generalizing v with
    | nil => exact hv
    | cons i l ih => exact ih _ ⟨hfound v i hv.found, hv.lines.trans (hlines v i)⟩
  refine hwalk _ _ _ (fun v i hv => ?_) (fun v i => ?_) ⟨?_, ?_⟩
  · dsimp only
    split
    · exact List.mem_append_left _ hv
    · exact hv
  · exact State.readLine_keepsLines _ _
  · simp [State.redirect_none hrdrs, hbad]
  · simp only [State.redirect_none hrdrs, Nat.mul_zero, Nat.add_zero]
    exact .refl _

/-- A fault in a step that is closing stops the hob without committing (R268, R273). -/
theorem State.stepFault_stops {s : State} {h : Nat} {c : Closing} {rest : List Closing} (hclosing : (s.hob h).closing = c :: rest) (e : End) :
    State.StopsUncommitted h s (s.stepFault h e) := by
  unfold State.stepFault
  rw [hclosing]
  dsimp only [List.isEmpty_cons]
  rw [if_neg (by decide), State.failHead_failed (c := { c with failed := some (c.failed.getD e) }) (l := rest) (e := c.failed.getD e) ?_ rfl]
  · exact (State.stopFailed_spec _ h _).of_modHob rfl
  · rw [State.hob_modHob, if_pos rfl, hclosing]

/-! ### STACK_READ_REQUEST -/

section

variable {s : State} {txn : Nat} {u : Txn} {dev : Nat}

/-- A transaction that its stack controller serves now (R193 to R195). -/
structure State.Served (s : State) (txn : Nat) (u : Txn) (dev : Nat) : Prop where
  txn : s.txn txn = some u
  granted : u.granted = true
  served : u.served = false
  breach : u.breach = false
  stack : u.stackKind = true
  resetting : (s.stack (relStack (s.txnTarget u))).resetting = false
  dev : (s.hob u.hob).devAddr (s.txnTarget u) = some dev
  behind : s.behindWrite u = false
  delayed : s.txnDelayed u 1 = false

/-- The transaction takes what its read found, and the hob the records of its bad lines (R268). -/
def State.landRead (s : State) (txn h : Nat) (rec1 rec2 : Nat → EccLine) (ue stored : List Nat) (data : List Byte) : State :=
  (s.modTxn txn fun x => { x with served := true, data := data, poison := ue ++ stored, stored := stored }).modHob h fun y =>
    { y with eccLines := y.eccLines ++ ue.map rec1 ++ stored.map rec2 }

theorem State.landRead_parts (s : State) (txn h : Nat) (rec1 rec2 : Nat → EccLine) (ue stored : List Nat) (data : List Byte) :
    (s.landRead txn h rec1 rec2 ue stored data).mem = s.mem ∧ (s.landRead txn h rec1 rec2 ue stored data).lines = s.lines ∧
    ∀ k, (s.landRead txn h rec1 rec2 ue stored data).hob k =
      if k = h then { s.hob h with eccLines := (s.hob h).eccLines ++ ue.map rec1 ++ stored.map rec2 } else s.hob k :=
  ⟨rfl, rfl, fun _ => State.hob_modHob ..⟩

theorem State.landRead_txn (h : Nat) (rec1 rec2 : Nat → EccLine) (ue stored : List Nat) (data : List Byte) (htxn : s.txn txn = some u) :
    (s.landRead txn h rec1 rec2 ue stored data).txn txn = some { u with served := true, data := data, poison := ue ++ stored, stored := stored } :=
  State.txn_modTxn (f := fun x => { x with served := true, data := data, poison := ue ++ stored, stored := stored }) (fun _ => rfl) htxn

/-- The lines that stack `st` reads with bad symbols. -/
def State.strikeLines (s : State) (st dev : Nat) (bad : List (Nat × Nat)) : State :=
  bad.foldl (fun (s : State) b => s.strikeIn st (s.redirect (dev + 64 * b.1)) b.2) s

/-- What STACK_READ_REQUEST reads. -/
def State.readOf (s : State) (u : Txn) (dev : Nat) (bad : List (Nat × Nat)) : List Nat × List Nat × List Byte × State :=
  ((s.strikeLines (relStack (s.txnTarget u)) dev bad).touchStack (relStack (s.txnTarget u))).readLines (s.hob u.hob).key dev 64

/-- STACK_READ_REQUEST of a read that is served: what it reads is landed, and a bad line fails the step of a crossing's read. -/
theorem execStackReadRequest_served (h : s.Served txn u dev) (hwrite : u.write = false) (hroom : s.roomFor u = true) {bad : List (Nat × Nat)}
    {ue stored : List Nat} {data : List Byte} {v : State} (hread : s.readOf u dev bad = (ue, stored, data, v)) :
    ∃ rec1 rec2 : Nat → EccLine,
      let t := v.landRead txn u.hob rec1 rec2 ue stored data
      exec (.stackReadRequest txn bad) s = .next (if ue.isEmpty then t else
        match u.kind with
        | .crossing _ x _ => t.stepFault u.hob { status := stEccUe, detail := u.cell, info0 := x }
        | _ => t) := by
  constructor
  constructor
  change execStackReadRequest txn bad s = _
  unfold State.readOf State.strikeLines at hread
  unfold execStackReadRequest
  simp only [h.txn, h.dev, hread]
  rw [if_neg (by simp [hwrite, h.granted, h.served, h.breach, h.stack, h.resetting, h.behind, h.delayed, hroom]), done]
  rfl

/-- A served read ends with no bad line, and no step fails. -/
theorem execStackReadRequest_good (h : s.Served txn u dev) (hwrite : u.write = false) (hroom : s.roomFor u = true) (hrdrs : s.rdrs = [])
    (hpc : ∀ k ∈ List.range 16, (s.stack k).pcDead = []) (hgood : s.linesGood dev 64) :
    ∃ t v, exec (.stackReadRequest txn []) s = .next t ∧ t = { s with txns := t.txns, stk := t.stk, hobs := t.hobs } ∧
      (∀ k, t.hob k = s.hob k) ∧ t.txn txn = some v ∧
      v = { u with served := true, data := s.memBytes (s.hob u.hob).key dev 4096, poison := [], stored := [] } := by
  have hpcs : ∀ k < 16, ((s.touchStack (relStack (s.txnTarget u))).stack k).pcDead = [] := fun k hk => by
    rw [← hpc k (List.mem_range.mpr hk), State.touchStack, State.stack_modStack]
    split
    · next hk => rw [hk]; rfl
    · rfl
  have hread : s.readOf u dev [] = ([], [], s.memBytes (s.hob u.hob).key dev 4096, s.touchStack (relStack (s.txnTarget u))) :=
    State.readLines_good (s := s.touchStack (relStack (s.txnTarget u))) _ hrdrs hpcs 64 hgood
  obtain ⟨rec1, rec2, hexec⟩ := execStackReadRequest_served h hwrite hroom hread
  obtain ⟨-, -, hhob⟩ := (s.touchStack (relStack (s.txnTarget u))).landRead_parts txn u.hob rec1 rec2 [] []
    (s.memBytes (s.hob u.hob).key dev 4096)
  refine ⟨_, _, hexec, rfl, fun k => ?_, State.landRead_txn _ _ _ _ _ _ h.txn, rfl⟩
  refine (hhob k).trans ?_
  rw [List.map_nil, List.map_nil, List.append_nil, List.append_nil]
  split
  · next hk => exact hk ▸ rfl
  · rfl

/-- What a read whose first line has two bad symbols has found when it ends: memory, transactions and hobs are as before it (R202, R204). -/
structure State.FoundBad (s : State) (dev : Nat) (ue : List Nat) (v : State) : Prop where
  found : 0 ∈ ue
  mem : v.mem = s.mem
  txns : v.txns = s.txns
  hobs : v.hobs = s.hobs
  poison : (v.lines.get {} (dev / 64)).poison = true
  key : (v.lines.get {} (dev / 64)).key = (s.lines.get {} (dev / 64)).key

theorem State.readOf_bad (h : s.Served txn u dev) (hrdrs : s.rdrs = []) (hpoison : (s.lines.get {} (dev / 64)).poison = false)
    (hext : ∀ e ∈ (s.hob u.hob).ext, e.2.dev.toNat < 352) :
    ∃ ue stored data v, s.readOf u dev [(0, 2)] = (ue, stored, data, v) ∧ s.FoundBad dev ue v := by
  obtain ⟨hok, hstack, -⟩ := Hob.devAddr_ok hext h.dev
  have hbits : bits 40 37 dev = relStack (s.txnTarget u) := by
    have := relStack_lt (s.txnTarget u)
    rw [← hstack] at this ⊢
    exact Nat.mod_eq_of_lt this
  have hstruck : s.strikeLines (relStack (s.txnTarget u)) dev [(0, 2)] = s.strike dev 2 := by
    simp [State.strikeLines, State.strikeIn, State.redirect_none hrdrs, hbits, hok]
  have herrs : 2 ≤ ((s.strike dev 2).touchStack (relStack (s.txnTarget u))).errs.get 0 (dev / 64) := State.strike_errs s dev 2
  unfold State.readOf
  rw [hstruck]
  obtain ⟨hone, hbad⟩ := State.readLine_bad herrs hpoison
  have hfirst := State.readLines_firstBad (s := (s.strike dev 2).touchStack (relStack (s.txnTarget u))) (s.hob u.hob).key (n := 63) hrdrs hone
  have hreads := State.ReadsStacks.refl.readLines (t := (s.strike dev 2).touchStack (relStack (s.txnTarget u))) (s.hob u.hob).key dev 64
  rcases hr : ((s.strike dev 2).touchStack (relStack (s.txnTarget u))).readLines (s.hob u.hob).key dev 64 with ⟨ue, stored, data, v⟩
  rw [hr] at hfirst hreads
  obtain ⟨hfound, hlines⟩ := hfirst
  have hkey := (hlines (dev / 64)).1.trans (State.readLine_keepsLines _ dev (dev / 64)).1
  have hpoisoned := (hlines (dev / 64)).2 hbad
  obtain ⟨stk, errs, lines, rfl⟩ := hreads
  exact ⟨ue, stored, data, _, rfl, hfound, rfl, rfl, rfl, hpoisoned, hkey⟩

/-- A served read whose first line is bad: the line is poisoned and named, and memory keeps its bytes (R202). -/
theorem execStackReadRequest_bad (h : s.Served txn u dev) (hwrite : u.write = false) (hroom : s.roomFor u = true) (hrdrs : s.rdrs = [])
    (hpoison : (s.lines.get {} (dev / 64)).poison = false) (hext : ∀ e ∈ (s.hob u.hob).ext, e.2.dev.toNat < 352)
    (hclosing : (s.hob u.hob).closing = []) :
    ∃ t v, exec (.stackReadRequest txn [(0, 2)]) s = .next t ∧ t.mem = s.mem ∧ t.txn txn = some v ∧ v.served = true ∧
      0 ∈ v.poison ∧ (t.lines.get {} (dev / 64)).poison = true ∧ (t.lines.get {} (dev / 64)).key = (s.lines.get {} (dev / 64)).key := by
  obtain ⟨ue, stored, data, v, hread, hbad⟩ := State.readOf_bad h hrdrs hpoison hext
  obtain ⟨rec1, rec2, hexec⟩ := execStackReadRequest_served h hwrite hroom hread
  have hue : ue.isEmpty = false := List.isEmpty_eq_false_iff.mpr (List.ne_nil_of_mem hbad.found)
  have hidle : ((v.landRead txn u.hob rec1 rec2 ue stored data).hob u.hob).closing.isEmpty = true := by
    rw [State.landRead, State.hob_modHob, if_pos rfl, List.isEmpty_iff]
    exact (congrArg Hob.closing (State.hob_of_hobs hbad.hobs u.hob)).trans hclosing
  rw [hue] at hexec
  have hland : (v.landRead txn u.hob rec1 rec2 ue stored data).txn txn =
      some { u with served := true, data := data, poison := ue ++ stored, stored := stored } :=
    State.txn_modTxn (fun _ => rfl) (by rw [State.txn, hbad.txns]; exact h.txn)
  have hpoisoned : 0 ∈ ue ++ stored := List.mem_append_left _ hbad.found
  cases hkind : u.kind with
  | crossing h x r =>
    rw [hkind] at hexec
    refine ⟨_, { u with served := true, data := data, poison := ue ++ stored, stored := stored }, hexec, ?_, ?_, rfl, hpoisoned, ?_, ?_⟩
    all_goals dsimp only [Bool.false_eq_true, if_false, State.stepFault]; rw [hidle]
    · exact hbad.mem
    · exact hland
    · exact hbad.poison
    · exact hbad.key
  | message | copy | forward =>
    rw [hkind] at hexec
    exact ⟨_, { u with served := true, data := data, poison := ue ++ stored, stored := stored }, hexec, hbad.mem, hland, rfl, hpoisoned,
      hbad.poison, hbad.key⟩

/-- A crossing's read whose first line is bad, with a step of its hob closing, stops the hob: the fence does not commit (R268, R273). -/
theorem execStackReadRequest_stops {hn k r : Nat} {c : Closing} {rest : List Closing} (h : s.Served txn u dev) (hwrite : u.write = false)
    (hroom : s.roomFor u = true) (hrdrs : s.rdrs = []) (hpoison : (s.lines.get {} (dev / 64)).poison = false)
    (hext : ∀ e ∈ (s.hob u.hob).ext, e.2.dev.toNat < 352) (hkind : u.kind = .crossing hn k r) (hclosing : (s.hob hn).closing = c :: rest) :
    ∃ t, exec (.stackReadRequest txn [(0, 2)]) s = .next t ∧ t.mem = s.mem ∧ (t.lines.get {} (dev / 64)).poison = true ∧
      (∀ j, j ≠ hn → t.hob j = s.hob j) ∧ (t.hob hn).st = .stopped ∧ (t.hob hn).closing = [] ∧
      (t.hob hn).fenceLast = (s.hob hn).fenceLast := by
  have hhob : u.hob = hn := by simp [Txn.hob, hkind]
  obtain ⟨ue, stored, data, v, hread, hbad⟩ := State.readOf_bad h hrdrs hpoison hext
  obtain ⟨rec1, rec2, hexec⟩ := execStackReadRequest_served h hwrite hroom hread
  have hue : ue.isEmpty = false := List.isEmpty_eq_false_iff.mpr (List.ne_nil_of_mem hbad.found)
  rw [hue, hkind, hhob] at hexec
  have hv : ∀ j, v.hob j = s.hob j := State.hob_of_hobs hbad.hobs
  have hhead : ((v.landRead txn hn rec1 rec2 ue stored data).hob hn).closing = c :: rest := by
    rw [State.landRead, State.hob_modHob, if_pos rfl]
    exact (congrArg Hob.closing (hv hn)).trans hclosing
  have hstops := State.stepFault_stops hhead { status := stEccUe, detail := u.cell, info0 := k }
  have hland : State.StopsUncommitted hn (v.modTxn txn fun x => { x with served := true, data := data, poison := ue ++ stored, stored := stored })
      ((v.landRead txn hn rec1 rec2 ue stored data).stepFault hn { status := stEccUe, detail := u.cell, info0 := k }) := hstops.of_modHob rfl
  refine ⟨_, hexec, hland.mem.trans hbad.mem, ?_, fun j hj => (hland.others j hj).trans (hv j), hland.st, hland.closing,
    hland.fenceLast.trans (congrArg Hob.fenceLast (hv hn))⟩
  exact (congrArg (fun l : Tab Line => (l.get {} (dev / 64)).poison) hland.lines).trans hbad.poison

end

/-! ### Stores of lines -/

theorem get_putBytes (m : List Host.Cell) (a x : Nat) (bs : List Byte) :
    Tab.get 0 (putBytes m a bs) x = if a ≤ x ∧ x < a + bs.length then bs.getD (x - a) 0 else Tab.get 0 m x := by
  induction bs generalizing m a with
  | nil => simp [putBytes, show ¬(a ≤ x ∧ x < a) by omega]
  | cons b bs ih =>
    rw [putBytes, ih, Tab.get_put, List.length_cons]
    rcases Nat.lt_trichotomy x a with hlt | rfl | hgt
    · rw [if_neg (by omega), if_neg (by omega), if_neg (by omega)]
    · rw [if_neg (by omega), if_pos rfl, if_pos (by omega), Nat.sub_self]
      rfl
    · obtain ⟨d, rfl⟩ : ∃ d, x = a + 1 + d := ⟨x - (a + 1), by omega⟩
      have hoff : a + 1 + d - a = d + 1 := by omega
      have hrest : a + 1 + d - (a + 1) = d := by omega
      rw [hoff, hrest, List.getD_cons_succ, if_neg (show ¬a + 1 + d = a by omega)]
      exact if_congr (by omega) rfl rfl

theorem getD_bytesAt (bs : List Byte) (off n i : Nat) (hi : i < n) : (bytesAt bs off n).getD i 0 = bs.getD (off + i) 0 := by
  simp [bytesAt, List.getD_eq_getElem?_getD, hi]

/-- What a store of `n` lines at `dev` makes of memory and of the line records. -/
structure State.StoresLines (s t : State) (key dev n : Nat) (data : List Byte) (bad : Nat → Bool) : Prop where
  mem : ∀ x, Tab.get 0 t.mem x = if dev ≤ x ∧ x < dev + 64 * n then data.getD (x - dev) 0 else Tab.get 0 s.mem x
  lines : ∀ l, t.lines.get {} l =
    if dev / 64 ≤ l ∧ l < dev / 64 + n then { key := key, poison := bad (l - dev / 64) } else s.lines.get {} l

/-- One more line after `n` lines. -/
theorem State.StoresLines.putLine {s t : State} {key dev n : Nat} {data : List Byte} {bad : Nat → Bool} (a : s.StoresLines t key dev n data bad)
    (hdev : dev % 64 = 0) : s.StoresLines (t.putLine key (dev + 64 * n) (bytesAt data (64 * n) 64) (bad n)) key dev (n + 1) data bad := by
  have hline : (dev + 64 * n) / 64 = dev / 64 + n := by omega
  have hbase : (dev / 64 + n) * 64 = dev + 64 * n := by omega
  refine ⟨fun x => ?_, fun l => ?_⟩
  · change Tab.get 0 (putBytes t.mem ((dev + 64 * n) / 64 * 64) (bytesAt (bytesAt data (64 * n) 64) 0 64)) x = _
    rw [hline, hbase, get_putBytes, length_bytesAt, a.mem]
    by_cases hx : dev + 64 * n ≤ x ∧ x < dev + 64 * n + 64
    · have hoff : 64 * n + (x - (dev + 64 * n)) = x - dev := by omega
      rw [if_pos hx, getD_bytesAt _ _ _ _ (by omega), Nat.zero_add, getD_bytesAt _ _ _ _ (by omega), hoff, if_pos (by omega)]
    · rw [if_neg hx]
      exact if_congr (by omega) rfl rfl
  · change Tab.get {} (t.lines.put {} ((dev + 64 * n) / 64) { key := key, poison := bad n }) l = _
    rw [hline, Tab.get_put, a.lines]
    by_cases hl : l = dev / 64 + n
    · rw [if_pos hl, if_pos (by omega), hl, Nat.add_sub_cancel_left]
    · rw [if_neg hl]
      exact if_congr (by omega) rfl rfl

theorem State.putLines_stores (s : State) (key dev n : Nat) (data : List Byte) (bad : Nat → Bool) (hdev : dev % 64 = 0)
    (hdata : data.length = 64 * n) :
    s.StoresLines (s.putLines key dev data bad) key dev n data bad := by
  have hchunks : (data.length + 63) / 64 = n := by omega
  have hwalk : ∀ m, s.StoresLines (s.each ((List.range m).map fun i => (i, bytesAt data (64 * i) 64)) fun s c =>
      s.putLine key (dev + 64 * c.1) c.2 (bad c.1)) key dev m data bad := by
    intro m
    induction m with
    | zero => exact ⟨fun x => by rw [if_neg (by omega)]; rfl, fun l => by rw [if_neg (by omega)]; rfl⟩
    | succ m ih =>
      have hnext := ih.putLine hdev
      simpa only [State.each, List.range_succ, List.map_append, List.map_cons, List.map_nil, List.foldl_append, List.foldl_cons, List.foldl_nil]
        using hnext
  rw [State.putLines, chunks64, hchunks]
  exact hwalk n

/-! ### STACK_WRITE_REQUEST -/

section

variable {s : State} {txn : Nat} {u : Txn} {dev : Nat}

/-- Outside capture a block is stored where the hob has it (R209). -/
theorem State.storeBlock_unarmed {h a : Nat} {data : List Byte} (bad : Nat → Bool) (late : Bool) (hdev : (s.hob h).devAddr a = some dev)
    (hrdrs : s.rdrs = []) (hcow : (s.hob h).cow.armed = false) :
    s.storeBlock h a data bad late = some (s.putLines (s.hob h).key dev data bad) := by
  simp [State.storeBlock, State.writeTarget, hdev, hcow, State.redirect_none hrdrs]

/-- Between two states stack memory, line records and transactions are the same. -/
structure State.SameStore (s t : State) : Prop where
  mem : t.mem = s.mem
  lines : t.lines = s.lines
  txns : t.txns = s.txns

theorem State.settleWaits_sameStore (s : State) (h : Nat) : s.SameStore (s.settleWaits h) := by
  rw [s.settleWaits_frame]
  exact ⟨rfl, rfl, rfl⟩

theorem State.blockCheckFail_sameStore (s : State) (h n f xng : Nat) : s.SameStore (s.blockCheckFail h n f xng) := by
  unfold State.blockCheckFail State.faultOf
  dsimp only
  split <;> exact ⟨rfl, rfl, rfl⟩

/-- A write that has been stored is served, and what follows the store leaves memory and lines (R206, R235, R115). -/
theorem execStackWriteRequest_stored {v : State} (h : s.Served txn u dev) (hwrite : u.write = true) (hdata : u.data ≠ []) (ok : Bool)
    (htxns : v.txns = s.txns)
    (hstore : ∀ late, (s.touchStack (relStack (s.txnTarget u))).storeBlock u.hob (s.txnTarget u) u.data
      (fun i => !(ok && !u.crcBad) || u.poison.contains i) late = some v) :
    ∃ t x, exec (.stackWriteRequest txn ok) s = .next t ∧ t.txn txn = some x ∧ x.served = true ∧ t.mem = v.mem ∧ t.lines = v.lines := by
  have hends : ∀ t : State, ((v.modTxn txn fun x => { x with served := true }).settleWaits u.hob).SameStore t →
      t.txn txn = some { u with served := true } ∧ t.mem = v.mem ∧ t.lines = v.lines := fun t ht => by
    have hsettled := (v.modTxn txn fun x => { x with served := true }).settleWaits_sameStore u.hob
    refine ⟨?_, ht.mem.trans hsettled.mem, ht.lines.trans hsettled.lines⟩
    rw [State.txn, ht.txns, hsettled.txns]
    exact State.txn_modTxn (f := fun x => { x with served := true }) (fun _ => rfl) (by rw [State.txn, htxns]; exact h.txn)
  have hdue : ¬(!u.write || !u.granted || u.served || !u.stackKind || u.data.isEmpty || (s.stack (relStack (s.txnTarget u))).resetting ||
      s.behindWrite u || s.txnDelayed u 1) = true := by
    simp [hwrite, h.granted, h.served, h.stack, hdata, h.resetting, h.behind, h.delayed]
  have hbreach : ¬u.breach = true := by simp [h.breach]
  suffices hrun : ∃ t, execStackWriteRequest txn ok s = .next t ∧
      ((v.modTxn txn fun x => { x with served := true }).settleWaits u.hob).SameStore t by
    obtain ⟨t, hexec, hsame⟩ := hrun
    obtain ⟨htxn, hmem, hlines⟩ := hends t hsame
    exact ⟨t, _, hexec, htxn, rfl, hmem, hlines⟩
  unfold execStackWriteRequest
  simp only [h.txn, hstore]
  rw [if_neg hdue, if_neg hbreach]
  cases u.kind with
  | message | copy | forward => exact ⟨_, rfl, rfl, rfl, rfl⟩
  | crossing hn x r =>
    refine ⟨_, rfl, ?_⟩
    have hfails : ∀ t w : State, t.SameStore w → t.SameStore (w.blockCheckFail u.hob u.cell u.stamp x) := fun t w hw =>
      have hfail := w.blockCheckFail_sameStore u.hob u.cell u.stamp x
      ⟨hfail.mem.trans hw.mem, hfail.lines.trans hw.lines, hfail.txns.trans hw.txns⟩
    split
    · split <;> exact ⟨rfl, rfl, rfl⟩
    · refine hfails _ _ ?_
      split <;> exact ⟨rfl, rfl, rfl⟩

end

/-- Settles O26: reads go through the lemmas on good and on bad lines, and a write through what a store of 64 lines makes of memory. -/
theorem stackAccessesMoveBytes : Obligations.StackAccessesMoveBytes := by
  unfold Obligations.StackAccessesMoveBytes
  refine ⟨fun h a dev => Hob.devAddr_ok, ?good, ?bad, ?stops, ?write⟩
  case good =>
    intro txn s u dev htxn hwrite hgranted hserved hbreach hstack hreset hdev hrdrs hpc hgood hbehind hroom hdelayed
    exact execStackReadRequest_good ⟨htxn, hgranted, hserved, hbreach, hstack, hreset, hdev, hbehind, hdelayed⟩ hwrite hroom hrdrs hpc
      fun i hi => hgood i (List.mem_range.mpr hi)
  case bad =>
    intro txn s u dev htxn hwrite hgranted hserved hbreach hstack hreset hdev hrdrs hpoison hext hclosing hbehind hroom hdelayed
    exact execStackReadRequest_bad ⟨htxn, hgranted, hserved, hbreach, hstack, hreset, hdev, hbehind, hdelayed⟩ hwrite hroom hrdrs hpoison
      hext hclosing
  case stops =>
    intro txn s u dev h k r c rest htxn hwrite hgranted hserved hbreach hstack hreset hdev hrdrs hpoison hext hkind hclosing hbehind hroom
      hdelayed
    exact execStackReadRequest_stops ⟨htxn, hgranted, hserved, hbreach, hstack, hreset, hdev, hbehind, hdelayed⟩ hwrite hroom hrdrs hpoison
      hext hkind hclosing
  case write =>
    intro txn ok s u dev htxn hwrite hgranted hserved hbreach hstack hlength hpoison hreset hdev haligned hrdrs hcow hbehind hdelayed
    have hdata : u.data ≠ [] := fun hnil => by simp [hnil] at hlength
    have hblock := State.putLines_stores (s.touchStack (relStack (s.txnTarget u))) ((s.touchStack (relStack (s.txnTarget u))).hob u.hob).key
      dev 64 u.data (fun i => !(ok && !u.crcBad) || u.poison.contains i) haligned hlength
    obtain ⟨t, v, hexec, htxn', hserved', hmem, hlines⟩ := execStackWriteRequest_stored
      ⟨htxn, hgranted, hserved, hbreach, hstack, hreset, hdev, hbehind, hdelayed⟩ hwrite hdata ok (by simp [State.touchStack])
      fun late => State.storeBlock_unarmed _ late hdev hrdrs hcow
    refine ⟨t, v, hexec, htxn', hserved', fun i hi => ?_, fun a ha => ?_, fun i hi => ?_, fun l hl => ?_⟩
    · rw [hmem, hblock.mem, if_pos (by omega), Nat.add_sub_cancel_left]
    · rw [hmem, hblock.mem, if_neg (by omega)]
      rfl
    · rw [hlines, hblock.lines, if_pos (by omega), Nat.add_sub_cancel_left]
      simp [hpoison, State.touchStack]
    · rw [hlines, hblock.lines, if_neg (by omega)]
      rfl

end Sys2Proof.Machine
end

section
/-! Refresh, row repair, sparing, patrol scrub and power-down (R196, R203 to R205, R217). -/

namespace Sys2Proof.Machine

open Sys2Proof

theorem not_mem_mark_false (l : List Nat) (n : Nat) : (mark l n false).contains n = false := by
  simp [mark]

theorem contains_mark_true (l : List Nat) (n : Nat) : (mark l n true).contains n = true := by
  simp [mark]

section

variable {s : State} {stack : StackId}

/-- A stack that alone is set. -/
theorem State.setStack_alone (s : State) (i : Nat) (v : Stack) :
    s.setStack i v = { s with stk := (s.setStack i v).stk } ∧ (∀ k, k ≠ i → (s.setStack i v).stack k = s.stack k) ∧
    (s.setStack i v).stack i = v :=
  ⟨rfl, fun k hk => by rw [State.stack_setStack, if_neg hk], by rw [State.stack_setStack, if_pos rfl]⟩

/-! ### Refresh, rows, power-down -/

theorem execRefresh_powered (pc : Fin 34) (hpwr : (s.stack stack.val).pwr = .on ∨ (s.stack stack.val).pwr = .powerDown)
    (hreset : (s.stack stack.val).resetting = false) :
    exec (.refresh stack pc) s = .next (s.setStack stack.val { s.stack stack.val with refreshed := pc.val }) := by
  change execRefresh stack pc s = _
  simp [execRefresh, hpwr, hreset, done]

/-- The stack after the repair of a due row (R203). -/
def Stack.repairRow (k : Stack) (row : Nat) : Stack :=
  let k1 := { k with rowDue := k.rowDue.erase row }
  let used := k.rowUsed.get 0 (Config.stackBank row)
  if used < Config.spareRows then
    { k1 with rowMap := k1.rowMap.put 0 row (used + 1), rowUsed := k1.rowUsed.put 0 (Config.stackBank row) (used + 1), rowrep := satInc k1.rowrep,
              rowCe := k1.rowCe.erase row }
  else { k1 with pcDue := mark k1.pcDue (pcOf (64 * (k.rowDue.get 0 row - 1))) true }

theorem execStackRowRepair_due {row : Nat} (hdue : (s.stack stack.val).rowDue.get 0 row ≠ 0) (hreset : (s.stack stack.val).resetting = false)
    (hpwr : (s.stack stack.val).pwr ≠ .off) (hroom : s.deviceRoom stack.val 1 = true) :
    exec (.stackRowRepair stack row) s = .next (s.setStack stack.val ((s.stack stack.val).repairRow row)) := by
  change execStackRowRepair stack row s = _
  unfold execStackRowRepair
  dsimp only
  rw [if_neg (by simp [hdue, hreset, hpwr, hroom])]
  rfl

theorem Stack.repairRow_rowDue (k : Stack) (row : Nat) : (k.repairRow row).rowDue.get 0 row = 0 := by
  unfold Stack.repairRow
  dsimp only
  split
  all_goals exact (Tab.get_erase ..).trans (if_pos rfl)

theorem Stack.repairRow_spare {k : Stack} {row : Nat} (hspare : k.rowUsed.get 0 (Config.stackBank row) < Config.spareRows) :
    (k.repairRow row).rowMap.get 0 row = k.rowUsed.get 0 (Config.stackBank row) + 1 ∧
    (k.repairRow row).rowUsed.get 0 (Config.stackBank row) = k.rowUsed.get 0 (Config.stackBank row) + 1 ∧
    (k.repairRow row).rowrep = satInc k.rowrep := by
  simp [Stack.repairRow, hspare]

theorem Stack.repairRow_noSpare {k : Stack} {row : Nat} (hspare : Config.spareRows ≤ k.rowUsed.get 0 (Config.stackBank row)) :
    (k.repairRow row).rowMap = k.rowMap ∧ (k.repairRow row).pcDue.contains (pcOf (64 * (k.rowDue.get 0 row - 1))) = true := by
  unfold Stack.repairRow
  dsimp only
  rw [if_neg (Nat.not_lt.mpr hspare)]
  exact ⟨rfl, contains_mark_true _ _⟩

theorem execStackPowerDown_idle (hpwr : (s.stack stack.val).pwr = .on) (hidle : (s.stack stack.val).lastTraffic + 1000 ≤ s.now) :
    exec (.stackPowerDown stack) s = .next (s.setStack stack.val { s.stack stack.val with pwr := .powerDown }) := by
  change execStackPowerDown stack s = _
  simp [execStackPowerDown, hpwr, usNs, hidle, done]

/-! ### Spares of pseudo-channels -/

/-- What the loss of a pseudo-channel tells the hobs of its stack changes hobs alone, and stops each at its next fence (R204). -/
theorem State.stopOnStack_frame (s : State) (k : Nat) : s.stopOnStack k = { s with hobs := (s.stopOnStack k).hobs } := by
  have hwalk : ∀ (l : List Nat) (f : State → Nat → State), (∀ v h, f v h = { v with hobs := (f v h).hobs }) → ∀ v : State,
      l.foldl f v = { v with hobs := (l.foldl f v).hobs } := by
    intro l f hf
    induction l with
    | nil => exact fun _ => rfl
    | cons h l ih =>
      intro v
      rw [List.foldl_cons, ih, hf v h]
  refine hwalk _ _ (fun v h => ?_) s
  dsimp only
  split <;> rfl

/-- The copy of a due pseudo-channel to the next spare starts (R204). -/
def Stack.startSpare (k : Stack) (pc : Nat) : Stack :=
  { k with pcDue := mark k.pcDue pc false, pcCopy := mark k.pcCopy pc true, pcTo := k.pcTo.put 0 pc (k.sparePc.toNat + 1), sparePc := k.sparePc + 1 }

/-- A due pseudo-channel with both spares used is unreadable (R204). -/
def Stack.losePc (k : Stack) (pc : Nat) : Stack := { k with pcDue := mark k.pcDue pc false, pcDead := mark k.pcDead pc true, unusable := true }

/-- The copy of a pseudo-channel to its spare is done. -/
def Stack.endSpare (k : Stack) (pc : Nat) : Stack :=
  { k with pcCopy := mark k.pcCopy pc false, pcMap := k.pcMap.put 0 pc (k.pcTo.get 0 pc), pcTo := k.pcTo.erase pc, pcUe := k.pcUe.erase pc }

section

variable {pc : Fin 32} (hdue : (s.stack stack.val).pcDue.contains pc.val = true) (hcopy : (s.stack stack.val).pcCopy.contains pc.val = false)
  (hreset : (s.stack stack.val).resetting = false) (hpwr : (s.stack stack.val).pwr ≠ .off)

include hdue hcopy hreset hpwr

theorem execPcSpareStart_spare (hspare : (s.stack stack.val).sparePc.toNat < 2) :
    exec (.pcSpareStart stack pc) s = .next (s.setStack stack.val ((s.stack stack.val).startSpare pc.val)) := by
  change execPcSpareStart stack pc s = _
  unfold execPcSpareStart
  dsimp only
  rw [if_neg (by simp only [hdue, hcopy, hreset, hpwr, Bool.not_true, decide_false, Bool.or_self, Bool.false_eq_true, not_false_eq_true]),
    if_pos hspare]
  rfl

/-- Without a spare left, advice to retire is reckoned where the hearth is present. -/
theorem execPcSpareStart_lost (hspare : 2 ≤ (s.stack stack.val).sparePc.toNat) :
    let t := (s.setStack stack.val ((s.stack stack.val).losePc pc.val)).stopOnStack stack.val
    (s.resets.hearthDown = true → exec (.pcSpareStart stack pc) s = .next t) ∧
    (s.resets.hearthDown = false → exec (.pcSpareStart stack pc) s = .next t.evalRetire) := by
  change (_ → execPcSpareStart stack pc s = _) ∧ (_ → execPcSpareStart stack pc s = _)
  have hdown : ∀ k : Stack, ((s.setStack stack.val k).stopOnStack stack.val).resets.hearthDown = s.resets.hearthDown := fun k => by
    rw [State.stopOnStack_frame]
    rfl
  unfold execPcSpareStart
  dsimp only
  rw [if_neg (by simp only [hdue, hcopy, hreset, hpwr, Bool.not_true, decide_false, Bool.or_self, Bool.false_eq_true, not_false_eq_true]),
    if_neg (Nat.not_lt.mpr hspare), hdown]
  refine ⟨fun h => ?_, fun h => ?_⟩
  · rw [if_pos h]
    rfl
  · rw [if_neg (by simp [h])]
    rfl

end

theorem execPcSpareDone_copied {pc : Fin 32} (hcopy : (s.stack stack.val).pcCopy.contains pc.val = true)
    (hreset : (s.stack stack.val).resetting = false) :
    exec (.pcSpareDone stack pc) s = .next (s.setStack stack.val ((s.stack stack.val).endSpare pc.val)) := by
  change execPcSpareDone stack pc s = _
  unfold execPcSpareDone
  dsimp only
  rw [if_neg (by simp only [hcopy, hreset, Bool.not_true, Bool.or_self, Bool.false_eq_true, not_false_eq_true])]
  rfl

end

/-! ### What a lost pseudo-channel brings about -/

section

variable {k : Nat}

theorem State.eventOrLose_run (s : State) (p f r status detail info0 info1 : Nat) :
    ((s.eventOrLose p f r status detail info0 info1).hob k).run = (s.hob k).run := by
  have hevent : ((s.eventOn p f r status detail info0 info1).2.hob k).run = (s.hob k).run :=
    congrArg Hob.run (State.hob_of_hobs (by simp only [State.eventOn_frame]) k)
  unfold State.eventOrLose
  dsimp only
  split
  · exact hevent
  · split
    · exact hevent
    · exact (State.modHob_proj Hob.run _ _ k (fun x => { x with lostEvents := x.lostEvents + 1 }) fun _ => rfl).trans hevent

theorem State.devEvent_run (s : State) (status detail info1 : Nat) : ((s.devEvent status detail info1).hob k).run = (s.hob k).run :=
  State.each_proj (fun s => (s.hob k).run) _ _ _ fun _ _ => State.eventOrLose_run ..

theorem State.logDev_run (s : State) (code hob : Nat) (args : List Nat) : ((s.logDev code hob args).hob k).run = (s.hob k).run :=
  congrArg Hob.run (by simp only [State.logDev_parts])

theorem State.setDev_run (s : State) (d : DevState) : ((s.setDev d).hob k).run = (s.hob k).run := by
  unfold State.setDev
  dsimp only
  split
  · rfl
  · refine (State.each_proj (fun s => (s.hob k).run) _ _ _ fun v p => State.each_proj (fun s => (s.hob k).run) _ _ _ fun w f =>
      State.each_proj (fun s => (s.hob k).run) _ _ _ fun x r => State.eventOrLose_run ..).trans ((State.logDev_run ..).trans ?_)
    split
    · exact congrArg Hob.run (by simp only [State.startVfRings_parts]; rfl)
    · rfl

theorem State.settleService_run (s : State) : (s.settleService.hob k).run = (s.hob k).run := by
  unfold State.settleService
  split
  · exact State.setDev_run ..
  · rfl

/-- Advice to retire leaves the runs of the hobs. -/
theorem State.evalRetire_run (s : State) : (s.evalRetire.hob k).run = (s.hob k).run := by
  unfold State.evalRetire
  extract_lets why advice x s1
  have hadvice : (s1.hob k).run = (s.hob k).run := by simp only [s1, State.hob]
  clear_value s1
  split
  · exact hadvice
  · exact (State.settleService_run _).trans ((State.devEvent_run ..).trans ((State.logDev_run ..).trans hadvice))

end

/-- Advice to retire leaves lines, transactions and stacks, and is given where a pseudo-channel is lost (R217). -/
theorem State.evalRetire_frame (s : State) :
    s.evalRetire.lines = s.lines ∧ s.evalRetire.txns = s.txns ∧ s.evalRetire.stk = s.stk ∧
    (s.pcLost = true → s.evalRetire.hearth.retire = true) := by
  unfold State.evalRetire
  extract_lets why advice x s1
  have hlost : s.pcLost = true → s1.hearth.retire = true := fun h => by simp [s1, advice, h]
  have hs1 : s1.lines = s.lines ∧ s1.txns = s.txns ∧ s1.stk = s.stk := ⟨rfl, rfl, rfl⟩
  clear_value s1
  obtain ⟨hlines, htxns, hstk⟩ := hs1
  split
  · exact ⟨hlines, htxns, hstk, hlost⟩
  · unfold State.settleService
    split
    all_goals exact ⟨by simp [hlines], by simp [htxns], by simp [hstk], by simpa using hlost⟩

/-- A walk in which a step sets the stop of hob `h`, and no step clears it or touches its extents. -/
theorem foldl_stops {h : Nat} {on : Hob → Bool} {f : State → Nat → State} (hext : ∀ v j, ((f v j).hob h).ext = (v.hob h).ext)
    (hkept : ∀ v j, (v.hob h).run.stopAt.isSome = true → ((f v j).hob h).run.stopAt.isSome = true)
    (hon : ∀ y z : Hob, z.ext = y.ext → on z = on y) (hset : ∀ v, on (v.hob h) = true → ((f v h).hob h).run.stopAt.isSome = true)
    (l : List Nat) (v : State) (hv : on (v.hob h) = true) (hmem : h ∈ l ∨ (v.hob h).run.stopAt.isSome = true) :
    ((l.foldl f v).hob h).run.stopAt.isSome = true := by
  induction l generalizing v with
  | nil => exact hmem.resolve_left List.not_mem_nil
  | cons j l ih =>
    refine ih (f v j) ((hon _ _ (hext v j)).trans hv) ?_
    rcases hmem with hmem | hstop
    · rcases List.mem_cons.mp hmem with rfl | hl
      · exact .inr (hset v hv)
      · exact .inl hl
    · exact .inr (hkept v j hstop)

/-- A hob has memory on a stack. -/
def Hob.onStack (k : Nat) (z : Hob) : Bool := z.ext.any fun e => e.2.valid && e.1 / 352 == k

theorem State.stopOnStack_stops {s : State} {k h : Nat} (hh : h ∈ hobNums) (hext : (s.hob h).onStack k = true) :
    ((s.stopOnStack k).hob h).run.stopAt.isSome = true := by
  unfold State.stopOnStack State.each
  refine foldl_stops (on := Hob.onStack k) (fun v j => ?ext) (fun v j hstop => ?kept) (fun y z hz => by rw [Hob.onStack, hz, Hob.onStack])
    (fun v hv => ?set) hobNums s hext (.inl hh)
  case ext =>
    dsimp only
    split
    · exact State.modHob_proj Hob.ext v j h _ fun _ => rfl
    · rfl
  case kept =>
    dsimp only
    split
    · rw [State.hob_modHob]
      split
      · rfl
      · exact hstop
    · exact hstop
  case set =>
    unfold Hob.onStack at hv
    dsimp only
    rw [if_pos hv, State.hob_modHob, if_pos rfl]
    rfl

/-- A pseudo-channel without a spare is unreadable, the stack unusable, and every hob on it stops at its next fence (R204, R217). -/
theorem execPcSpareStart_loses {s : State} {stack : StackId} {pc : Fin 32} (hdue : (s.stack stack.val).pcDue.contains pc.val = true)
    (hcopy : (s.stack stack.val).pcCopy.contains pc.val = false) (hreset : (s.stack stack.val).resetting = false)
    (hpwr : (s.stack stack.val).pwr ≠ .off) (hspare : 2 ≤ (s.stack stack.val).sparePc.toNat) :
    ∃ t, exec (.pcSpareStart stack pc) s = .next t ∧ t.mem = s.mem ∧ t.lines = s.lines ∧ t.txns = s.txns ∧
      (∀ k, k ≠ stack.val → t.stack k = s.stack k) ∧ (s.resets.hearthDown = false → t.hearth.retire = true) ∧
      (t.stack stack.val).pcDead.contains pc.val = true ∧ (t.stack stack.val).unusable = true ∧
      (∀ h ∈ hobNums, (s.hob h).onStack stack.val = true → (t.hob h).run.stopAt.isSome = true) := by
  obtain ⟨habsent, hpresent⟩ := execPcSpareStart_lost hdue hcopy hreset hpwr hspare
  have hstopped : ∀ h ∈ hobNums, (s.hob h).onStack stack.val = true →
      (((s.setStack stack.val ((s.stack stack.val).losePc pc.val)).stopOnStack stack.val).hob h).run.stopAt.isSome = true := fun h hh hon =>
    State.stopOnStack_stops hh hon
  have hframe := (s.setStack stack.val ((s.stack stack.val).losePc pc.val)).stopOnStack_frame stack.val
  generalize (s.setStack stack.val ((s.stack stack.val).losePc pc.val)).stopOnStack stack.val = t at habsent hpresent hstopped hframe
  have hmem : t.mem = s.mem := by rw [hframe]; rfl
  have hlines : t.lines = s.lines := by rw [hframe]; rfl
  have htxns : t.txns = s.txns := by rw [hframe]; rfl
  have hstack : ∀ k, t.stack k = (s.setStack stack.val ((s.stack stack.val).losePc pc.val)).stack k := fun k => by rw [hframe]; rfl
  have hothers : ∀ k, k ≠ stack.val → t.stack k = s.stack k := fun k hk => by rw [hstack, State.stack_setStack, if_neg hk]
  have hself : t.stack stack.val = (s.stack stack.val).losePc pc.val := by rw [hstack, State.stack_setStack, if_pos rfl]
  have hdead : (t.stack stack.val).pcDead.contains pc.val = true := by rw [hself]; exact contains_mark_true _ _
  have hunusable : (t.stack stack.val).unusable = true := by rw [hself]; rfl
  cases hdown : s.resets.hearthDown with
  | true => exact ⟨t, habsent hdown, hmem, hlines, htxns, hothers, fun h => Bool.noConfusion h, hdead, hunusable, hstopped⟩
  | false =>
    obtain ⟨helines, hetxns, hestk, hretire⟩ := t.evalRetire_frame
    have hestack : ∀ k, t.evalRetire.stack k = t.stack k := fun k => by rw [State.stack, hestk, State.stack]
    have hlost : t.pcLost = true := by
      refine List.any_eq_true.mpr ⟨stack.val, List.mem_range.mpr stack.isLt, ?_⟩
      rw [Bool.not_eq_true', List.isEmpty_eq_false_iff]
      exact fun hnil => by simp [hnil] at hdead
    refine ⟨t.evalRetire, hpresent hdown, by simp [hmem], helines.trans hlines, hetxns.trans htxns, fun k hk => (hestack k).trans (hothers k hk),
      fun _ => hretire hlost, ?_, ?_, fun h hh hon => ?_⟩
    · rw [hestack]; exact hdead
    · rw [hestack]; exact hunusable
    · rw [State.evalRetire_run]; exact hstopped h hh hon

/-! ### Patrol scrub -/

/-- The address of a line of a stack. -/
theorem scrubAddr_ok {st line : Nat} (hst : st < 12) (hline : 64 * line < stackBytes) :
    devAddrOk (st * 2 ^ 37 + 64 * line) = true ∧ bits 40 37 (st * 2 ^ 37 + 64 * line) = st ∧ 64 * line < 2 ^ 37 := by
  have hbits : bits 47 41 (st * 2 ^ 37 + 64 * line) = 0 ∧ bits 40 37 (st * 2 ^ 37 + 64 * line) = st ∧
      bits 36 0 (st * 2 ^ 37 + 64 * line) = 64 * line ∧ 64 * line < 2 ^ 37 := by
    simp only [bits, stackBytes, Nat.reduceSub, Nat.reduceAdd, Nat.reducePow] at hline ⊢
    omega
  obtain ⟨hhigh, hstack, hlow, hrange⟩ := hbits
  refine ⟨?_, hstack, hrange⟩
  rw [devAddrOk, hhigh, hstack, hlow, decide_eq_true hst, decide_eq_true hline]
  rfl

section

variable {s : State} {stack : StackId} {line : Nat} (hline : 64 * line < stackBytes) (hreset : (s.stack stack.val).resetting = false)
  (hpwr : (s.stack stack.val).pwr = .on ∨ (s.stack stack.val).pwr = .powerDown)
  (hpoison : (s.lines.get {} ((stack.val * 2 ^ 37 + 64 * line) / 64)).poison = false) (hroom : s.deviceRoom stack.val 1 = true)

include hline hreset hpwr hroom

/-- The scrub reads its line, notes its place, and reports a line that it finds bad (R205, R268). -/
theorem execPatrolScrub_reads {symbols r : Nat} {v : State}
    (hread : ((s.strike (stack.val * 2 ^ 37 + 64 * line) symbols).touchStack stack.val).readLine (stack.val * 2 ^ 37 + 64 * line) = (r, v)) :
    exec (.patrolScrub stack line symbols) s = .next (if r ≠ 1 then v.modStack stack.val fun k => { k with scrubAt := line } else
      match (v.modStack stack.val fun k => { k with scrubAt := line }).extOwner (stack.val * 2 ^ 37 + 64 * line) with
      | some (h, a) => (v.modStack stack.val fun k => { k with scrubAt := line }).eccReport h [{ addr := a, source := 3, stack := stack.val }]
      | none => v.modStack stack.val fun k => { k with scrubAt := line }) := by
  obtain ⟨hok, -, hrange⟩ := scrubAddr_ok stack.isLt hline
  change execPatrolScrub stack line symbols s = _
  unfold execPatrolScrub
  simp only [hread]
  rw [if_neg (by rcases hpwr with hp | hp <;> simp [hreset, hp, hroom]),
    if_neg (by simp only [hok, Bool.not_true, Bool.or_false, decide_eq_true_eq, ge_iff_le, not_le]; exact hrange)]
  rfl

include hpoison

theorem execPatrolScrub_good (herrs : s.errs.get 0 ((stack.val * 2 ^ 37 + 64 * line) / 64) = 0) (hpc : (s.stack stack.val).pcDead = []) :
    ∃ t, exec (.patrolScrub stack line 0) s = .next t ∧ t = { s with stk := t.stk } ∧ (∀ k, k ≠ stack.val → t.stack k = s.stack k) ∧
      t.stack stack.val = { s.stack stack.val with scrubAt := line, pwr := .on, lastTraffic := s.now } := by
  obtain ⟨-, hstack, -⟩ := scrubAddr_ok stack.isLt hline
  have htouched : (s.touchStack stack.val).stack stack.val = (s.stack stack.val).wake s.now := by
    rw [State.touchStack, State.stack_modStack, if_pos rfl]
  have hread : ((s.strike (stack.val * 2 ^ 37 + 64 * line) 0).touchStack stack.val).readLine (stack.val * 2 ^ 37 + 64 * line) =
      (0, s.touchStack stack.val) := by
    rw [State.strike, if_pos rfl]
    exact State.readLine_good (s := s.touchStack stack.val) (by rw [hstack, htouched]; exact hpc) hpoison herrs
  have hexec := execPatrolScrub_reads hline hreset hpwr hroom hread
  rw [if_pos (by decide)] at hexec
  refine ⟨_, hexec, rfl, fun k hk => ?_, ?_⟩
  · rw [State.stack_modStack, if_neg hk, State.touchStack, State.stack_modStack, if_neg hk]
  · rw [State.stack_modStack, if_pos rfl, htouched]
    rcases hpwr with hp | hp <;> simp [Stack.wake, hp]

theorem execPatrolScrub_bad :
    ∃ t, exec (.patrolScrub stack line 2) s = .next t ∧ t.mem = s.mem ∧
      (t.lines.get {} ((stack.val * 2 ^ 37 + 64 * line) / 64)).poison = true ∧ (t.stack stack.val).scrubAt = line ∧
      (t.stack stack.val).ue = satInc (s.stack stack.val).ue := by
  obtain ⟨-, hstack, -⟩ := scrubAddr_ok stack.isLt hline
  have herrs : 2 ≤ ((s.strike (stack.val * 2 ^ 37 + 64 * line) 2).touchStack stack.val).errs.get 0 ((stack.val * 2 ^ 37 + 64 * line) / 64) :=
    State.strike_errs s _ 2
  have htouched : ((s.strike (stack.val * 2 ^ 37 + 64 * line) 2).touchStack stack.val).stack stack.val = (s.stack stack.val).wake s.now := by
    rw [State.touchStack, State.stack_modStack, if_pos rfl]
    rfl
  obtain ⟨hone, hbad⟩ := State.readLine_bad herrs hpoison
  have hue := State.readLine_bad_stack herrs hpoison
  rw [hstack, htouched] at hue
  have hmem := (((s.strike (stack.val * 2 ^ 37 + 64 * line) 2).touchStack stack.val).readLine_keeps (stack.val * 2 ^ 37 + 64 * line)).1
  rcases hread : ((s.strike (stack.val * 2 ^ 37 + 64 * line) 2).touchStack stack.val).readLine (stack.val * 2 ^ 37 + 64 * line) with ⟨r, v⟩
  rw [hread] at hone hbad hue hmem
  dsimp only at hone hbad hue hmem
  have hexec := execPatrolScrub_reads hline hreset hpwr hroom hread
  rw [if_neg (not_not.mpr hone)] at hexec
  have hmemory : (v.modStack stack.val fun k => { k with scrubAt := line }).mem = s.mem := by simpa using hmem
  have hpoisoned : ((v.modStack stack.val fun k => { k with scrubAt := line }).lines.get {} ((stack.val * 2 ^ 37 + 64 * line) / 64)).poison = true :=
    hbad
  have hplace : (v.modStack stack.val fun k => { k with scrubAt := line }).stack stack.val = { v.stack stack.val with scrubAt := line } := by
    rw [State.stack_modStack, if_pos rfl]
  generalize (v.modStack stack.val fun k => { k with scrubAt := line }) = t at hexec hmemory hpoisoned hplace
  have hcount : (t.stack stack.val).scrubAt = line ∧ (t.stack stack.val).ue = satInc (s.stack stack.val).ue := by
    rw [hplace]
    exact ⟨rfl, (congrArg Stack.ue hue).trans rfl⟩
  split at hexec
  · next h a _ =>
    obtain ⟨hplaced, hcounted⟩ := hcount
    refine ⟨_, hexec, by simp [hmemory], ?_, by simp [hplaced], by simp [hcounted]⟩
    simpa only [State.eccReport_frame] using hpoisoned
  · exact ⟨_, hexec, hmemory, hpoisoned, hcount⟩

end

/-- Settles O27: each command by what it makes of its stack; the loss of a pseudo-channel by what it tells the hobs. -/
theorem stacksRepairAndScrub : Obligations.StacksRepairAndScrub := by
  unfold Obligations.StacksRepairAndScrub
  refine ⟨?refresh, ?row, ?spare, ?lost, ?copied, ?good, ?bad, ?idle⟩
  case refresh =>
    intro stack pc s hpwr hreset
    exact ⟨_, execRefresh_powered pc hpwr hreset, s.setStack_alone ..⟩
  case row =>
    intro stack row s hdue hreset hpwr hroom
    obtain ⟨hframe, hothers, hself⟩ := s.setStack_alone stack.val ((s.stack stack.val).repairRow row)
    refine ⟨_, execStackRowRepair_due hdue hreset hpwr hroom, hframe, hothers, ?_⟩
    rw [hself]
    exact ⟨Stack.repairRow_rowDue .., Stack.repairRow_spare, Stack.repairRow_noSpare⟩
  case spare =>
    intro stack pc s hdue hcopy hreset hpwr hspare
    obtain ⟨hframe, hothers, hself⟩ := s.setStack_alone stack.val ((s.stack stack.val).startSpare pc.val)
    refine ⟨_, execPcSpareStart_spare hdue hcopy hreset hpwr hspare, hframe, hothers, ?_⟩
    rw [hself]
    exact ⟨rfl, by simp [Stack.startSpare], contains_mark_true _ _, not_mem_mark_false _ _⟩
  case lost =>
    intro stack pc s hdue hcopy hreset hpwr hspare
    exact execPcSpareStart_loses hdue hcopy hreset hpwr hspare
  case copied =>
    intro stack pc s hcopy hreset
    obtain ⟨hframe, hothers, hself⟩ := s.setStack_alone stack.val ((s.stack stack.val).endSpare pc.val)
    refine ⟨_, execPcSpareDone_copied hcopy hreset, hframe, hothers, ?_⟩
    rw [hself]
    exact ⟨not_mem_mark_false _ _, by simp [Stack.endSpare]⟩
  case good =>
    intro stack line s hline hreset hpwr hpoison herrs hpc hroom
    exact execPatrolScrub_good hline hreset hpwr hpoison hroom herrs hpc
  case bad =>
    intro stack line s hline hreset hpwr hpoison hroom
    exact execPatrolScrub_bad hline hreset hpwr hpoison hroom
  case idle =>
    intro stack s hpwr hidle
    exact ⟨_, execStackPowerDown_idle hpwr hidle, s.setStack_alone ..⟩

end Sys2Proof.Machine
end

section
/-! PAGE_DRAIN_DONE writes to the jar area (R211): where that wear makes the device DEGRADED (R348), the event of the new state is lost on a
full ring of another hob's VF and counted in that hob (R231), which refutes O28. -/

namespace Sys2Proof.Machine

open Sys2Proof

/-! ### What a drained page does before its bytes are written -/

section

variable {hob : HobId} {page a : Nat} {s : State} {j : JarRun}

theorem State.ReadsStacks.eachLine {t : State} (a : s.ReadsStacks t) (base : Nat) (l : List Nat) :
    s.ReadsStacks (l.foldl (fun (x : State) i => (x.readLine (base + 64 * i)).2) t) :=
  State.ReadsStacks.walk id _ (fun _ _ => State.ReadsStacks.refl.readLine _) l a

/-- Where no page has a shadow nothing is folded (R211), and the hob alone changes. -/
theorem State.fold_settled (w : State) (z : Hob) (h key : Nat) (hrdrs : w.rdrs = []) :
    (((w.setHob h z).fold key).settleWaits h).hosts = w.hosts ∧ (((w.setHob h z).fold key).settleWaits h).st = w.st ∧
    (((w.setHob h z).fold key).settleWaits h).pantry = w.pantry ∧
    ∀ k, k ≠ h → (((w.setHob h z).fold key).settleWaits h).hob k = w.hob k := by
  have hfold : (w.setHob h z).fold key = w.setHob h z := by simp [State.fold, hrdrs]
  rw [hfold, (w.setHob h z).settleWaits_frame h]
  exact ⟨rfl, rfl, rfl, fun k hk => ((w.setHob h z).settleWaits_others h hk).trans (by rw [State.hob_setHob, if_neg hk])⟩

/-- PAGE_DRAIN_DONE of a page without a shadow: what precedes the write to the jar area leaves host ports, device state, NAND and every other
hob as they were. -/
theorem execPageDrainDone_writes (hjar : (s.hob hob.val).jarRun = some j) (hrel : s.pageRel hob.val page = some a)
    (hdraining : (s.hob hob.val).cow.draining = true) (hdrained : (s.hob hob.val).cow.drained.contains page = false)
    (hnext : (s.hob hob.val).cow.next = []) (hreset : (s.stack (page / 2 ^ 21)).resetting = false)
    (hok : devAddrOk ((page / 2 ^ 21) * 2 ^ 37 + (page % 2 ^ 21) * 65536) = true) (hroom : s.deviceRoom (page / 2 ^ 21) 16 = true)
    (hrdrs : s.rdrs = []) :
    ∃ (v : State) (first : Bool), exec (.pageDrainDone hob ⟨page, []⟩) s = .next (v.jarWrite hob.val j.slot 65536 first) ∧
      v.hosts = s.hosts ∧ v.st = s.st ∧ v.pantry = s.pantry ∧ ∀ k, k ≠ hob.val → v.hob k = s.hob k := by
  have hreads := State.ReadsStacks.eachLine (s := s) (t := s.touchStack (page / 2 ^ 21)) ⟨_, _, _, rfl⟩
    ((page / 2 ^ 21) * 2 ^ 37 + (page % 2 ^ 21) * 65536) (List.range 1024)
  change ∃ (v : State) (first : Bool), execPageDrainDone hob ⟨page, []⟩ s = _ ∧ _
  unfold execPageDrainDone
  simp only [hjar, hrel, hok, hdraining, hdrained, hnext, hreset, hroom, List.find?_nil, List.foldl_nil, Bool.not_true, Bool.or_self,
    Bool.false_eq_true, if_false]
  generalize (List.range 1024).foldl (fun (x : State) i => (x.readLine ((page / 2 ^ 21) * 2 ^ 37 + (page % 2 ^ 21) * 65536 + 64 * i)).2)
    (s.touchStack (page / 2 ^ 21)) = w at hreads
  obtain ⟨_, _, _, rfl⟩ := hreads
  exact ⟨_, _, rfl, State.fold_settled _ _ hob.val page hrdrs⟩

end

/-! ### Wear of the jar area -/

/-- Host ports, hobs, device state and what wear is read from are the same. -/
structure State.SameWear (s t : State) : Prop where
  hosts : t.hosts = s.hosts
  hobs : t.hobs = s.hobs
  st : t.st = s.st
  level : t.pantry.level = s.pantry.level
  nand : t.pantry.nand = s.pantry.nand

namespace State.SameWear

variable {s t u : State}

theorem refl (s : State) : s.SameWear s := ⟨rfl, rfl, rfl, rfl, rfl⟩

theorem trans (a : s.SameWear t) (b : t.SameWear u) : s.SameWear u :=
  ⟨b.hosts.trans a.hosts, b.hobs.trans a.hobs, b.st.trans a.st, b.level.trans a.level, b.nand.trans a.nand⟩

theorem each {α : Type} (f : State → α → State) (hf : ∀ (v : State) x, v.SameWear (f v x)) (l : List α) (s : State) :
    s.SameWear (s.each l f) := by
  unfold State.each
  induction l generalizing s with
  | nil => exact refl s
  | cons x l ih => exact (hf s x).trans (ih _)

theorem occupy (s : State) (block owner : Nat) : s.SameWear (s.occupy block owner) := by
  unfold State.occupy
  dsimp only
  split <;> exact ⟨rfl, rfl, rfl, rfl, rfl⟩

theorem openBlock (s : State) (owner : Nat) : s.SameWear (s.openBlock owner) := by
  unfold State.openBlock
  split
  · exact occupy ..
  · exact refl s

theorem full (a : s.SameWear t) {p h : Nat} (hs : s.eventsFull p h) : t.eventsFull p h :=
  State.eventsFull_of_ring (by rw [State.ring, State.ring, State.host, State.host, a.hosts]) hs

theorem lost (a : s.SameWear t) (h : Nat) : t.lost h = s.lost h := congrArg Hob.lostEvents (State.hob_of_hobs a.hobs h)

end State.SameWear

/-- Ring 0 of the VF of hob `h` stays full where it is, and no event that the hob lost is forgotten. -/
def State.StaysFull (p h : Nat) (s t : State) : Prop := s.eventsFull p h → t.eventsFull p h ∧ s.lost h ≤ t.lost h

section

variable {p h : Nat} {s t u : State}

theorem State.StaysFull.refl : State.StaysFull p h s s := fun hs => ⟨hs, Nat.le_refl _⟩

theorem State.StaysFull.trans (a : State.StaysFull p h s t) (b : State.StaysFull p h t u) : State.StaysFull p h s u := fun hs =>
  ⟨(b (a hs).1).1, (a hs).2.trans (b (a hs).1).2⟩

theorem State.SameWear.staysFull (a : s.SameWear t) : State.StaysFull p h s t := fun hs => ⟨a.full hs, (a.lost h).ge⟩

theorem State.setPantry_staysFull (s : State) (x : Pantry) : State.StaysFull p h s { s with pantry := x } := fun hs => ⟨hs, Nat.le_refl _⟩

theorem State.setSt_staysFull (s : State) (d : DevState) : State.StaysFull p h s { s with st := d } := fun hs => ⟨hs, Nat.le_refl _⟩

theorem State.each_staysFull {α : Type} (f : State → α → State) (hf : ∀ v x, State.StaysFull p h v (f v x)) (l : List α) (s : State) :
    State.StaysFull p h s (s.each l f) := State.each_le hf l s

theorem State.devEvent_staysFull (s : State) (status detail info1 : Nat) : State.StaysFull p h s (s.devEvent status detail info1) :=
  State.each_staysFull _ (fun v q => v.eventOrLose_le status detail 0 info1 q 0 0) _ s

theorem State.logDev_staysFull (s : State) (code hob : Nat) (args : List Nat) : State.StaysFull p h s (s.logDev code hob args) := fun hs =>
  ⟨State.eventsFull_of_ring (by simp only [State.ring, State.logDev_parts]) hs,
    (congrArg Hob.lostEvents (by simp only [State.logDev_parts] : (s.logDev code hob args).hob h = s.hob h)).ge⟩

theorem State.setDev_staysFull (s : State) (d : DevState) : State.StaysFull p h s (s.setDev d) := by
  unfold State.setDev
  split
  · exact .refl
  · refine (s.setSt_staysFull d).trans (.trans ?_ ((State.logDev_staysFull _ _ _ _).trans
      (State.each_staysFull _ (fun v q => v.portEvent_le 0 d.code q) _ _)))
    split
    · exact State.startVfRings_le _
    · exact .refl

theorem State.settleService_staysFull (s : State) : State.StaysFull p h s s.settleService := by
  unfold State.settleService
  split
  · exact s.setDev_staysFull _
  · exact .refl

theorem State.settlePantry_staysFull (s : State) : State.StaysFull p h s s.settlePantry := by
  unfold State.settlePantry
  dsimp only
  split
  · exact .refl
  · refine .trans ?_ (State.settleService_staysFull _)
    split
    · exact (s.setPantry_staysFull _).trans ((State.devEvent_staysFull _ _ _ _).trans (State.logDev_staysFull _ _ _ _))
    · exact s.setPantry_staysFull _

/-- Writes to NAND keep a full ring full. -/
theorem State.nandWrite_staysFull (s : State) (jar other : Nat) : State.StaysFull p h s (s.nandWrite jar other) :=
  (s.setPantry_staysFull _).trans (State.settlePantry_staysFull _)

theorem State.levelDie_staysFull (s : State) (die : Nat) : State.StaysFull p h s (s.levelDie die) := by
  unfold State.levelDie
  dsimp only
  repeat' split
  · exact (State.SameWear.occupy _ _ _).staysFull.trans ((State.setPantry_staysFull _ _).trans (State.nandWrite_staysFull _ _ _))
  all_goals exact .refl

theorem Pantry.wear_high {x : Pantry} (hnand : 432 * 10 ^ 14 ≤ x.nand) : x.wear = 2 ∨ x.wear = 3 := by
  unfold Pantry.wear
  split
  · exact .inr rfl
  · exact .inl (if_pos (by rw [decide_eq_true hnand]; rfl))

/-- A device in SERVICE with wear level 2 or 3 becomes DEGRADED, and the event of that is lost (R231, R348). -/
theorem State.settleService_lt (s : State) (hp : p < 4) (hh : h < 8) (hs : s.eventsFull p h) (hst : s.st = .service)
    (hlevel : 2 ≤ s.pantry.level.toNat) : s.lost h < s.settleService.lost h := by
  have hcause : s.degradedCause = true := by simp [State.degradedCause, hlevel]
  have hsettled : s.settleService = s.setDev .degraded := by simp [State.settleService, hst, hcause]
  rw [hsettled]
  exact State.setDev_lt s .degraded (by rw [hst]; decide) hp hh hs

theorem State.settlePantry_lt (s : State) (hp : p < 4) (hh : h < 8) (hs : s.eventsFull p h) (hst : s.st = .service)
    (hlevel : s.pantry.level = 1) (hnand : 432 * 10 ^ 14 ≤ s.pantry.nand) : s.lost h < s.settlePantry.lost h := by
  have hwear := Pantry.wear_high hnand
  have hnew : max s.pantry.level.toNat s.pantry.wear = s.pantry.wear := by
    rw [hlevel]
    rcases hwear with hw | hw <;> rw [hw] <;> rfl
  have hraised : ¬s.pantry.wear = s.pantry.level.toNat := by
    rw [hlevel]
    rcases hwear with hw | hw <;> rw [hw] <;> decide
  have hhigh : 2 ≤ (BitVec.ofNat 2 s.pantry.wear).toNat := by
    rcases hwear with hw | hw <;> rw [hw] <;> decide
  unfold State.settlePantry
  dsimp only
  rw [hnew, if_neg hraised, if_neg (by rw [hlevel]; decide)]
  exact State.settleService_lt { s with pantry := { s.pantry with level := BitVec.ofNat 2 s.pantry.wear } } hp hh hs hst hhigh

/-- At wear level 1 in SERVICE, a write that takes NAND to 43.2 PB makes the device DEGRADED (R348). -/
theorem State.nandWrite_lt (s : State) (jar : Nat) (hp : p < 4) (hh : h < 8) (hs : s.eventsFull p h) (hst : s.st = .service)
    (hlevel : s.pantry.level = 1) (hnand : 432 * 10 ^ 14 ≤ s.pantry.nand + jar) : s.lost h < (s.nandWrite jar 0).lost h :=
  State.settlePantry_lt { s with pantry := { s.pantry with written := s.pantry.written + jar, nand := s.pantry.nand + jar + 0 } } hp hh hs hst
    hlevel hnand

/-- A write to a jar slot opens blocks, which leaves wear as it was, and then writes. -/
theorem State.jarWrite_lt (s : State) (owner slot bytes : Nat) (first : Bool) (hp : p < 4) (hh : h < 8) (hs : s.eventsFull p h)
    (hst : s.st = .service) (hlevel : s.pantry.level = 1) (hnand : 432 * 10 ^ 14 ≤ s.pantry.nand + bytes) :
    s.lost h < (s.jarWrite owner slot bytes first).lost h := by
  unfold State.jarWrite
  extract_lets own old s1 left n s2 x s3
  have hopened : s.SameWear s3 := by
    have hvacated : s.SameWear s1 := by
      dsimp only [s1]
      split
      · exact .each State.vacate (fun _ _ => ⟨rfl, rfl, rfl, rfl, rfl⟩) _ _
      · exact .refl s
    have hblocks : s1.SameWear s2 := .each _ (fun v _ => .openBlock v own) _ _
    exact (hvacated.trans hblocks).trans ⟨rfl, rfl, rfl, rfl, rfl⟩
  clear_value s3
  have hwritten := s3.nandWrite_lt bytes hp hh (hopened.full hs) (hopened.st.trans hst) (hopened.level.trans hlevel) (by rwa [hopened.nand])
  rw [hopened.lost] at hwritten
  have hfull := (s3.nandWrite_staysFull bytes 0 (hopened.full hs)).1
  exact Nat.lt_of_lt_of_le hwritten (State.each_staysFull _ (fun v d => v.levelDie_staysFull d) _ _ hfull).2

end

/-! ### The counterexample to O28 -/

/-- A device in SERVICE at wear level 1, one page short of 43.2 PB of NAND writes, where hob 0 drains page 0 of its one extent and ring 0 of the
VF of hob 1 holds 16 events. -/
def drainAtWearLimit : State :=
  { st := .service
    pantry := { level := 1, nand := 432 * 10 ^ 14 - 65536 }
    hobs := [(0, { ext := [(0, { valid := true })], jarRun := some {}, cow := { draining := true } })]
    hosts := [(0, { fns := [(2, { authOk := true, rings := [(0, { en := true, on := true, log2 := 6, events := List.range 16, cqPi := 16 })] })] })] }

/-- Refutes O28: the drain of one hob's page brings the wear of NAND to level 2, the device becomes DEGRADED, and the hob of another VF, whose
ring has no slot for that event, counts one event lost: it is not as it was. -/
theorem not_capturesArmDrainAndZero : ¬ Obligations.CapturesArmDrainAndZero := by
  unfold Obligations.CapturesArmDrainAndZero
  rintro ⟨-, hdrain, -, -⟩
  obtain ⟨t, ht, hothers, -⟩ := hdrain 0 0 drainAtWearLimit {} 0 rfl (by decide) rfl rfl rfl rfl (by decide) (by decide)
  obtain ⟨v, first, hexec, hhosts, hst, hpantry, hhob⟩ := execPageDrainDone_writes (hob := 0) (page := 0) (a := 0)
    (s := drainAtWearLimit) (j := {}) rfl (by decide) rfl rfl rfl rfl (by decide) (by decide) rfl
  have hfull : v.eventsFull 0 1 :=
    State.eventsFull_of_ring (s := drainAtWearLimit) (by rw [State.ring, State.ring, State.host, State.host, hhosts]) ⟨by decide, by decide⟩
  have hlost := State.jarWrite_lt v 0 0 65536 first (by decide) (by decide) hfull hst (by rw [hpantry]; rfl) (by rw [hpantry]; decide)
  cases hexec.symm.trans ht
  rw [State.lost, State.lost, hhob 1 (by decide)] at hlost
  have hsame : (v.jarWrite 0 0 65536 first).hob 1 = drainAtWearLimit.hob 1 := hothers 1 (by decide)
  exact absurd (hlost.trans_eq (congrArg Hob.lostEvents hsame)) (Nat.lt_irrefl _)

end Sys2Proof.Machine
end
